-- ==== Sys2Proof/Word.lean ====
section
/-! DEFINITION. The word of the MK-HG7 and the plain types that commands and state share. -/

namespace Sys2Proof

/-- A native word (R4, R23): tag[9:0] with payload[63:0], 74 bits in all. -/
structure W where
  tag     : BitVec 10
  payload : BitVec 64
  deriving DecidableEq, Repr

/-- Sparse data by key, in ascending order of key; a key that is not listed holds the default its reader names. -/
abbrev Tbl (α : Type) := List (Nat × α)

/-- A line (R42): the eight words of a 64-byte-aligned block, word 0 first. -/
abbrev Line := List W

/-- The two worlds (R160). -/
inductive World where
  | sys
  | job
  deriving DecidableEq, Repr

/-- What executes an instruction: a context, named by its local context number (R53), or the fast interrupt
context of a logical core (R102). -/
inductive Exec where
  | ctx (lcn : BitVec 16)
  | fic (core : BitVec 8)
  deriving DecidableEq, Repr

/-- Who writes a register-space location: software of a world, or the host through BAR0 (R410). -/
inductive Writer where
  | world (w : World)
  | host
  deriving DecidableEq, Repr

/-- The header fields of a transport message that its receiver acts on (R342). -/
structure Hdr where
  dest  : BitVec 16
  src   : BitVec 16
  lcn   : BitVec 16
  world : World
  sup   : Bool
  slot  : BitVec 16
  gen   : BitVec 16
  deriving DecidableEq, Repr

/-- A flit (R328, R329): the header, the link word's fields, the message area, the FEC-status word and the CRC as
received, and whether every codeword that carried it decoded. -/
structure Flit where
  seq   : BitVec 16
  ack   : BitVec 16
  link  : BitVec 32
  area  : List (BitVec 8)
  fec   : BitVec 32
  crc   : BitVec 32
  fecOk : Bool
  deriving DecidableEq, Repr

/-- A collective message (R358) as received on a port. -/
structure CollMsg where
  group  : BitVec 6
  down   : Bool
  term   : Bool
  ovf    : Bool
  seq    : BitVec 16
  err    : BitVec 8
  errDev : BitVec 16
  shape  : BitVec 12
  words  : List W
  deriving DecidableEq, Repr

/-- A migration packet (R314), with its line area as words. -/
structure MigPacket where
  srcId   : BitVec 32
  srcGen  : BitVec 16
  lmask   : BitVec 9
  addr    : BitVec 59
  acc     : BitVec 2
  migId   : BitVec 32
  length  : BitVec 16
  events  : BitVec 16
  prio    : BitVec 2
  owner   : World
  pc      : BitVec 59
  wp      : BitVec 2
  vwc     : BitVec 3
  lk      : BitVec 59
  cnt     : BitVec 64
  pkr     : BitVec 64
  wsp     : BitVec 59
  ctxStat : BitVec 32
  fpsr    : BitVec 12
  lines   : List Line
  fp      : Option (List (BitVec 64))
  deriving DecidableEq, Repr

/-- What BRINGUP finds of the channels of far memory (R285): those that hold a DIMM, those that train at DDR5-4800, 5600 and 6400, and
those whose DIMM has another SPD serial number than its records (R291). -/
structure Training where
  chans   : BitVec 16
  t48     : BitVec 16
  t56     : BitVec 16
  t64     : BitVec 16
  changed : BitVec 16
  deriving DecidableEq, Repr

/-- A dictionary request (R456), decoded: the paths of R460 all carry the same message. -/
structure DictReq where
  path   : BitVec 4
  tag    : BitVec 8
  type   : BitVec 8
  index  : BitVec 16
  sub    : BitVec 8
  remote : Bool
  job    : Bool
  arg    : BitVec 32
  dest   : BitVec 16
  value  : List (BitVec 8)
  deriving DecidableEq, Repr

end Sys2Proof
end

