-- ==== Sys2Proof/Syntax.lean ====
section
/-! DEFINITION. The commands of the block: one constructor per row of spec/opcode_table.json, in its order. -/

namespace Sys2Proof

/-- A command: one step of the device (spec/95). An operand `x` names who executes an instruction, `by_` who writes a
register; messages between L1 caches and homes are named by core and line, their contents being in State. -/
inductive Instr where
  /-- R124. Copies a register word whole into rd as a pass-through use. -/
  | mov (x : Exec) (rd rs : BitVec 5)
  /-- R124. Adds two integer operands modulo 2^64. -/
  | iadd (x : Exec) (rd rs rt : BitVec 5)
  /-- R124. Subtracts two integer operands modulo 2^64. -/
  | isub (x : Exec) (rd rs rt : BitVec 5)
  /-- R124. Delivers the low 64 bits of the product of two integer operands. -/
  | imul (x : Exec) (rd rs rt : BitVec 5)
  /-- R124. Bitwise AND of two integer operands. -/
  | and (x : Exec) (rd rs rt : BitVec 5)
  /-- R124. Bitwise OR of two integer operands. -/
  | or (x : Exec) (rd rs rt : BitVec 5)
  /-- R124. Bitwise XOR of two integer operands. -/
  | xor (x : Exec) (rd rs rt : BitVec 5)
  /-- R124. Bitwise rs AND NOT rt of two integer operands. -/
  | andn (x : Exec) (rd rs rt : BitVec 5)
  /-- R124. Shifts rs left by rt.payload[5:0], keeping the tag of rs. -/
  | shl (x : Exec) (rd rs rt : BitVec 5)
  /-- R124. Shifts rs right logically by rt.payload[5:0], keeping the tag of rs. -/
  | shr (x : Exec) (rd rs rt : BitVec 5)
  /-- R124. Shifts rs right arithmetically by rt.payload[5:0], keeping the tag of rs. -/
  | sar (x : Exec) (rd rs rt : BitVec 5)
  /-- R124. Delivers FIXNUM 1 when rs is below rt unsigned, else FIXNUM 0. -/
  | ult (x : Exec) (rd rs rt : BitVec 5)
  /-- R124. Delivers the identity comparison of R30 of two words of any tag. -/
  | eq (x : Exec) (rd rs rt : BitVec 5)
  /-- R124. Delivers the negation of the identity comparison of two words. -/
  | ne (x : Exec) (rd rs rt : BitVec 5)
  /-- R124. Delivers the tag of rs as a FIXNUM. -/
  | tagof (x : Exec) (rd rs : BitVec 5)
  /-- R124. Sets rd to FIXNUM of the sign-extended immediate. -/
  | movi (x : Exec) (rd : BitVec 5) (imm : BitVec 14)
  /-- R124. Sets rd to RAW of the sign-extended immediate. -/
  | moviR (x : Exec) (rd : BitVec 5) (imm : BitVec 14)
  /-- R124. Shifts rs left by 14 and adds the unsigned 14-bit immediate, keeping the tag. -/
  | ldc (x : Exec) (rd rs : BitVec 5) (imm : BitVec 14)
  /-- R124. Compares a FIXNUM with the sign-extended immediate for equality. -/
  | eqi (x : Exec) (rd rs : BitVec 5) (imm : BitVec 14)
  /-- R124. Compares a FIXNUM signed less than the sign-extended immediate. -/
  | lti (x : Exec) (rd rs : BitVec 5) (imm : BitVec 14)
  /-- R124. Compares a FIXNUM signed less than or equal to the immediate. -/
  | lei (x : Exec) (rd rs : BitVec 5) (imm : BitVec 14)
  /-- R124. Compares a FIXNUM signed greater than the immediate. -/
  | gti (x : Exec) (rd rs : BitVec 5) (imm : BitVec 14)
  /-- R124. Shifts an integer left by imm[5:0], keeping its tag. -/
  | shli (x : Exec) (rd rs : BitVec 5) (imm : BitVec 6)
  /-- R124. Shifts an integer right logically by imm[5:0], keeping its tag. -/
  | shri (x : Exec) (rd rs : BitVec 5) (imm : BitVec 6)
  /-- R124. Shifts an integer right arithmetically by imm[5:0], keeping its tag. -/
  | sari (x : Exec) (rd rs : BitVec 5) (imm : BitVec 6)
  /-- R124. ANDs an integer with the sign-extended immediate, keeping its tag. -/
  | andi (x : Exec) (rd rs : BitVec 5) (imm : BitVec 14)
  /-- R144. Generic addition with hardware paths for FIXNUM and FLOAT64 and dispatch otherwise. -/
  | add (x : Exec) (rd rs rt : BitVec 5)
  /-- R144. Generic subtraction with hardware paths and type dispatch. -/
  | sub (x : Exec) (rd rs rt : BitVec 5)
  /-- R144. Generic multiplication with hardware paths and type dispatch. -/
  | mul (x : Exec) (rd rs rt : BitVec 5)
  /-- R144. Generic division, truncating for FIXNUM and IEEE for floats, with dispatch. -/
  | div (x : Exec) (rd rs rt : BitVec 5)
  /-- R144. Generic remainder with hardware paths and type dispatch. -/
  | rem (x : Exec) (rd rs rt : BitVec 5)
  /-- R144. Generic negation of one operand with dispatch through the NEG entries. -/
  | neg (x : Exec) (rd rs : BitVec 5)
  /-- R148. Generic numeric equality comparing exact values. -/
  | numeq (x : Exec) (rd rs rt : BitVec 5)
  /-- R148. Generic numeric less-than comparing exact values. -/
  | lt (x : Exec) (rd rs rt : BitVec 5)
  /-- R148. Generic numeric less-or-equal comparing exact values. -/
  | le (x : Exec) (rd rs rt : BitVec 5)
  /-- R144. Generic addition of a FIXNUM immediate. -/
  | addi (x : Exec) (rd rs : BitVec 5) (imm : BitVec 14)
  /-- R126. Tests whether the tag of rs equals the immediate code. -/
  | tagis (x : Exec) (rd rs : BitVec 5) (tag : BitVec 10)
  /-- R126. Tests whether the kind of rs equals the immediate kind. -/
  | kindis (x : Exec) (rd rs : BitVec 5) (kind : BitVec 2)
  /-- R126. Delivers rs with a new tag under the tag-creation rules. -/
  | settag (x : Exec) (rd rs : BitVec 5) (tag : BitVec 10)
  /-- R127. binary64 addition on the bound FP bank. -/
  | fadd (x : Exec) (fd fs ft : BitVec 5)
  /-- R127. binary64 subtraction on the bound FP bank. -/
  | fsub (x : Exec) (fd fs ft : BitVec 5)
  /-- R127. binary64 multiplication on the bound FP bank. -/
  | fmul (x : Exec) (fd fs ft : BitVec 5)
  /-- R127. binary64 division on the bound FP bank. -/
  | fdiv (x : Exec) (fd fs ft : BitVec 5)
  /-- R127. binary64 square root on the bound FP bank. -/
  | fsqrt (x : Exec) (fd fs : BitVec 5)
  /-- R127. Fused multiply-add with one rounding. -/
  | fma (x : Exec) (fd fs ft : BitVec 5)
  /-- R150. IEEE minimum of two FP registers. -/
  | fmin (x : Exec) (fd fs ft : BitVec 5)
  /-- R150. IEEE maximum of two FP registers. -/
  | fmax (x : Exec) (fd fs ft : BitVec 5)
  /-- R127. Negates an FP register without rounding. -/
  | fneg (x : Exec) (fd fs : BitVec 5)
  /-- R127. Takes the absolute value of an FP register. -/
  | fabs (x : Exec) (fd fs : BitVec 5)
  /-- R127. Copies an FP register. -/
  | fmov (x : Exec) (fd fs : BitVec 5)
  /-- R148. FP equality comparison into a general register. -/
  | fceq (x : Exec) (rd fs ft : BitVec 5)
  /-- R148. FP less-than comparison into a general register. -/
  | fclt (x : Exec) (rd fs ft : BitVec 5)
  /-- R148. FP less-or-equal comparison into a general register. -/
  | fcle (x : Exec) (rd fs ft : BitVec 5)
  /-- R127. Moves a FLOAT64 general register into an FP register. -/
  | fmvgf (x : Exec) (fd rs : BitVec 5)
  /-- R127. Moves an FP register into a general register as FLOAT64. -/
  | fmvfg (x : Exec) (rd fs : BitVec 5)
  /-- R152. Converts a FIXNUM to binary64. -/
  | fcvtxf (x : Exec) (fd rs : BitVec 5)
  /-- R152. Converts binary64 to FIXNUM with saturation and flags. -/
  | fcvtfx (x : Exec) (rd fs : BitVec 5)
  /-- R129. Loads a word, applying UNINIT and LOST rules and the load barrier. -/
  | ldw (x : Exec) (rd rs : BitVec 5) (imm : BitVec 14)
  /-- R129. Loads a word with acquire ordering. -/
  | ldwA (x : Exec) (rd rs : BitVec 5) (imm : BitVec 14)
  /-- R129. Supervisor load delivering the word pass-through without barrier. -/
  | ldwP (x : Exec) (rd rs : BitVec 5) (imm : BitVec 14)
  /-- R129. Stores a word, applying the store barrier. -/
  | stw (x : Exec) (rd rs : BitVec 5) (imm : BitVec 14)
  /-- R129. Stores a word with release ordering. -/
  | stwR (x : Exec) (rd rs : BitVec 5) (imm : BitVec 14)
  /-- R129. Loads a word at a pc-relative address. -/
  | ldpc (x : Exec) (rd : BitVec 5) (off : BitVec 21)
  /-- R129. Loads a word at an indexed offset. -/
  | ldx (x : Exec) (rd rs rt : BitVec 5)
  /-- R129. Loads a word at an indexed offset with acquire ordering. -/
  | ldxA (x : Exec) (rd rs rt : BitVec 5)
  /-- R129. Stores a word at an indexed offset. -/
  | stx (x : Exec) (rd rs rt : BitVec 5)
  /-- R129. Stores a word at an indexed offset with release ordering. -/
  | stxR (x : Exec) (rd rs rt : BitVec 5)
  /-- R130. Loads one payload byte as RAW under the partial-read rules. -/
  | ldb (x : Exec) (rd rs : BitVec 5) (imm : BitVec 14)
  /-- R130. Loads two payload bytes as RAW under the partial-read rules. -/
  | ldh (x : Exec) (rd rs : BitVec 5) (imm : BitVec 14)
  /-- R130. Stores one byte under the partial-write rules. -/
  | stb (x : Exec) (rd rs : BitVec 5) (imm : BitVec 14)
  /-- R130. Stores two bytes under the partial-write rules. -/
  | sth (x : Exec) (rd rs : BitVec 5) (imm : BitVec 14)
  /-- R262. Performs the healing compare-and-swap of the stale slot at the line. -/
  | loadbarHealWrite (core : BitVec 8)
  /-- R268. Performs a barrier log append from the core's append buffer. -/
  | logAppend (core : BitVec 8)
  /-- R131. Atomically adds rt to the memory word and returns the old word. -/
  | amoadd (x : Exec) (rd rs rt : BitVec 5) (ord : BitVec 2)
  /-- R131. Atomically replaces the memory word with rt and returns the old word. -/
  | amoswap (x : Exec) (rd rs rt : BitVec 5) (ord : BitVec 2)
  /-- R131. Atomically stores the lesser of memory word and rt. -/
  | amomin (x : Exec) (rd rs rt : BitVec 5) (ord : BitVec 2)
  /-- R131. Atomically stores the greater of memory word and rt. -/
  | amomax (x : Exec) (rd rs rt : BitVec 5) (ord : BitVec 2)
  /-- R131. Compare-and-swap on the 64 payload bits. -/
  | cas (x : Exec) (rd rs rt : BitVec 5) (ord : BitVec 2)
  /-- R131. Compare-and-swap on all 74 bits without trapping. -/
  | cast (x : Exec) (rd rs rt : BitVec 5) (ord : BitVec 2)
  /-- R132. Loads the car of a CONS, or NIL for NIL. -/
  | car (x : Exec) (rd rs : BitVec 5)
  /-- R132. Loads the cdr of a CONS, or NIL for NIL. -/
  | cdr (x : Exec) (rd rs : BitVec 5)
  /-- R132. Stores rt into the car of a CONS. -/
  | rplaca (x : Exec) (rs rt : BitVec 5)
  /-- R132. Stores rt into the cdr of a CONS. -/
  | rplacd (x : Exec) (rs rt : BitVec 5)
  /-- R132. Allocates a two-word CONS object with the given car and cdr. -/
  | cons (x : Exec) (rd rs rt : BitVec 5)
  /-- R139. Searches a list by identity, one step per element under a cnt budget. -/
  | memq (x : Exec) (rd rs rt : BitVec 5)
  /-- R139. Searches an association list by key identity, step by step. -/
  | assq (x : Exec) (rd rs rt : BitVec 5)
  /-- R139. Follows pointer words at a fixed offset until a non-pointer, step by step. -/
  | walk (x : Exec) (rd rs rt : BitVec 5)
  /-- R139. Probes an open-addressed vector table for a key, step by step. -/
  | probe (x : Exec) (rd rs rt : BitVec 5)
  /-- R133. Allocates and initialises an object at alloc_ptr in one instruction. -/
  | alloc (x : Exec) (rd rs : BitVec 5) (imm : BitVec 14)
  /-- R134. Branches when a FIXNUM is zero. -/
  | bz (x : Exec) (rs : BitVec 5) (off : BitVec 21)
  /-- R134. Branches when a FIXNUM is not zero. -/
  | bnz (x : Exec) (rs : BitVec 5) (off : BitVec 21)
  /-- R134. Branches when the tag of rs is NIL. -/
  | bnil (x : Exec) (rs : BitVec 5) (off : BitVec 21)
  /-- R134. Branches when the tag of rs is not NIL. -/
  | bnnil (x : Exec) (rs : BitVec 5) (off : BitVec 21)
  /-- R135. Branches when a register's tag belongs to a tag class. -/
  | bt (x : Exec) (r : BitVec 5) (cls : BitVec 5) (off : BitVec 14)
  /-- R135. Branches when a register's tag does not belong to a tag class. -/
  | bnt (x : Exec) (r : BitVec 5) (cls : BitVec 5) (off : BitVec 14)
  /-- R136. Jumps to a pc-relative target. -/
  | j (x : Exec) (off : BitVec 26)
  /-- R136. Jumps to a pc-relative target, saving the return in lk. -/
  | jl (x : Exec) (off : BitVec 26)
  /-- R90. Calls a pc-relative target, rotating the window ring. -/
  | callw (x : Exec) (off : BitVec 26)
  /-- R136. Jumps to a code target in a register. -/
  | jr (x : Exec) (rs : BitVec 5) (imm : BitVec 14)
  /-- R136. Jumps to a register code target, saving the return in lk. -/
  | jlr (x : Exec) (rs : BitVec 5) (imm : BitVec 14)
  /-- R90. Calls a register code target, rotating the window ring. -/
  | callwr (x : Exec) (rs : BitVec 5) (imm : BitVec 14)
  /-- R136. Returns to lk without rotating the ring. -/
  | retl (x : Exec)
  /-- R90. Returns from a windowed call, rotating the ring back. -/
  | retw (x : Exec)
  /-- R140. Repeats the following repeatable instruction cnt times. -/
  | rep (x : Exec) (word : BitVec 32)
  /-- R137. Performs one step of a repeated or long instruction after a boundary. -/
  | repStep (x : Exec)
  /-- R141. Copies one word and advances both pointers. -/
  | copyw (x : Exec) (rd rs : BitVec 5)
  /-- R141. Stores a fill word and advances the destination pointer. -/
  | fillw (x : Exec) (rd rs : BitVec 5)
  /-- R246. Makes memory hold a line's current data, keeping copies. -/
  | cleanL (x : Exec) (rs : BitVec 5)
  /-- R246. Cleans a line and removes every cached copy. -/
  | flushL (x : Exec) (rs : BitVec 5)
  /-- R246. Removes every copy of a line, discarding dirty data. -/
  | invalL (x : Exec) (rs : BitVec 5)
  /-- R171. Enters the current world's supervisor with cause SYSCALL. -/
  | syscall (x : Exec)
  /-- R173. Crosses into the other world through a gate, writing the gate frame. -/
  | wcall (x : Exec) (rs : BitVec 5)
  /-- R176. Returns from an exception or a gate, applying wfix on ordinary returns. -/
  | retx (x : Exec)
  /-- R142. Raises BREAKPOINT. -/
  | brk (x : Exec)
  /-- R142. Moves the context from ACTIVE to READY after the instruction. -/
  | yield (x : Exec)
  /-- R254. Orders all earlier private-half accesses before later ones. -/
  | fence (x : Exec)
  /-- R70. Waits until every remote store and atomic of the context is acknowledged. -/
  | syncG (x : Exec)
  /-- R379. Waits until every Valley write issued earlier is performed. -/
  | syncV (x : Exec)
  /-- R222. Waits until every earlier TLBI of the context has completed. -/
  | syncT (x : Exec)
  /-- R87. Copies a special register into rd as RAW. -/
  | mfs (x : Exec) (rd : BitVec 5) (sel : BitVec 12)
  /-- R87. Writes a special register from rs. -/
  | mts (x : Exec) (rs : BitVec 5) (sel : BitVec 12)
  /-- R100. MTS fp_bind with release 0 binds the claimed bank to the context. -/
  | fpBankBind (x : Exec) (rs : BitVec 5)
  /-- R100. MTS fp_bind with release 1 unbinds the context's bank and ends its claim. -/
  | fpBankRelease (x : Exec) (rs : BitVec 5)
  /-- R91. Reads one ring slot into a general register. -/
  | rdw (x : Exec) (rd : BitVec 5) (n : BitVec 6)
  /-- R91. Writes one ring slot from a general register. -/
  | wrw (x : Exec) (rs : BitVec 5) (n : BitVec 6)
  /-- R100. Reads a register of a held or claimed FP bank as FLOAT64. -/
  | fbrd (x : Exec) (rd rs : BitVec 5)
  /-- R100. Writes a register of a held or claimed FP bank. -/
  | fbwr (x : Exec) (rt rs : BitVec 5)
  /-- R78. Allocates a FREE record outside the pool and creates a HELD context. -/
  | spawn (x : Exec) (rd rs rt : BitVec 5)
  /-- R80. Moves a target context to HELD. -/
  | ctxhold (x : Exec) (rs : BitVec 5)
  /-- R62. Releases a HELD context to its held_from state or READY. -/
  | ctxrel (x : Exec) (rs : BitVec 5)
  /-- R81. Marks a context dying, increases its generation and frees it after drain. -/
  | ctxkill (x : Exec) (rs : BitVec 5)
  /-- R81. Ends the executing context as CTXKILL would. -/
  | ctxend (x : Exec)
  /-- R73. Reads and clears matching event bits or enters WAIT_EVENT. -/
  | wait (x : Exec) (rd rs rt : BitVec 5)
  /-- R74. Compares a memory word and waits on its line monitor until it changes. -/
  | waitM (x : Exec) (rd rs rt : BitVec 5)
  /-- R82. Reads one item of a target context's state. -/
  | ctxrd (x : Exec) (rd rs : BitVec 5) (sel : BitVec 12)
  /-- R82. Writes one item of a HELD target context's state. -/
  | ctxwr (x : Exec) (rd rs : BitVec 5) (sel : BitVec 12)
  /-- R220. Removes translations of one page in the current world. -/
  | tlbiVa (x : Exec) (rs : BitVec 5)
  /-- R220. Removes translations of one space id. -/
  | tlbiSp (x : Exec) (rs : BitVec 5)
  /-- R220. Removes every translation of the current world. -/
  | tlbiW (x : Exec)
  /-- R210. Writes the protection-key rights register. -/
  | setpkr (x : Exec) (rs : BitVec 5)
  /-- R219. A table-walk read returns and the walk proceeds or faults. -/
  | walkReadComplete (x : Exec)
  /-- R221. A TLBI takes effect at a core or the home translator once earlier stores are visible. -/
  | tlbiTakesEffect (id : Nat) (agent : BitVec 9)
  /-- R222. A TLBI has taken effect everywhere and its affected accesses are performed. -/
  | tlbiComplete (id : Nat)
  /-- R71. Starts a queued swap once the core's earlier swaps have ended. -/
  | swapStart (core : BitVec 8)
  /-- R71. Completes the transfer of outgoing and incoming records of a slot. -/
  | swapComplete (core : BitVec 8)
  /-- R63. Swaps out the lowest-priority longest-ACTIVE context for a higher-priority READY one. -/
  | preemption (core : BitVec 8)
  /-- R64. Swaps out a context that has been ACTIVE for quantum cycles when one is waiting. -/
  | quantumExpiry (lcn : BitVec 16)
  /-- R66. An outstanding access completes into the record or sets fault and readies the context. -/
  | accessComplete (x : Exec)
  /-- R72. A wait's always-on deadline expires and the context becomes READY. -/
  | deadlineExpiry (lcn : BitVec 16)
  /-- R62. A dying record whose accesses and stores have drained becomes FREE. -/
  | contextDrainComplete (lcn : BitVec 16)
  /-- R76. Sets pending event bits of a context, ending a matching WAIT. -/
  | dbRingWrite (by_ : Writer) (lcn : BitVec 16) (events : BitVec 16)
  /-- R75. Clears pending event bits of a context. -/
  | dbPendingWrite (by_ : Writer) (lcn : BitVec 16) (events : BitVec 16)
  /-- R445. A waking tile's fast clock runs its first cycle. -/
  | tileWakeComplete (tile : BitVec 5)
  /-- R445. A tile idle for nap_idle cycles gates its fast clock. -/
  | tileNap (tile : BitVec 5)
  /-- R445. A tile in NAP for doze_idle also stops its PLL. -/
  | tileDoze (tile : BitVec 5)
  /-- R182. NMI_N held low for 80 ns makes an NMI pending for the target core. -/
  | nmiNAssert
  /-- R182. The fast interrupt context enters NMI service, preempting IRQ. -/
  | ficNmiEntry (core : BitVec 8)
  /-- R181. An IDLE fast interrupt context takes the lowest pending source. -/
  | ficIrqEntry (core : BitVec 8)
  /-- R238. A home serves a read for S or E. -/
  | rds (core : BitVec 8) (line : BitVec 37)
  /-- R238. A home serves a read for M. -/
  | rdx (core : BitVec 8) (line : BitVec 37)
  /-- R238. A home upgrades an S or O holder to M. -/
  | upg (core : BitVec 8) (line : BitVec 37)
  /-- R238. A home serves an uncached read of current data. -/
  | rdo (core : BitVec 8) (line : BitVec 37)
  /-- R238. A home merges a write of words or bytes. -/
  | wrm (core : BitVec 8) (line : BitVec 37)
  /-- R238. A home writes a whole line, with an optional stash hint. -/
  | wrf (line : BitVec 37) (data : List W) (stash : Option (BitVec 9))
  /-- R238. A home performs a far atomic. -/
  | atm (core : BitVec 8) (line : BitVec 37)
  /-- R238. A home performs one clean step. -/
  | cln (core : BitVec 8) (line : BitVec 37)
  /-- R238. A home performs one flush step. -/
  | fls (core : BitVec 8) (line : BitVec 37)
  /-- R238. A home performs one invalidate step of INVAL.L. -/
  | homeInv (core : BitVec 8) (line : BitVec 37)
  /-- R230. A home answers a core's tag query after an L1 tag parity error. -/
  | tagq (core : BitVec 8) (set : BitVec 7) (tile : BitVec 5)
  /-- R238. A home absorbs dirty data of a line leaving M or O. -/
  | wbd (core : BitVec 8) (line : BitVec 37)
  /-- R238. A home records a line leaving E or S. -/
  | evc (core : BitVec 8) (line : BitVec 37)
  /-- R237. An L1 owner sends DATS to a requester. -/
  | sns (core : BitVec 8) (line : BitVec 37)
  /-- R237. An L1 owner sends DATM to a requester and invalidates. -/
  | snx (core : BitVec 8) (line : BitVec 37)
  /-- R237. An L1 holder invalidates its copy. -/
  | sni (core : BitVec 8) (line : BitVec 37)
  /-- R237. An L1 holder sends its data to the home, keeping state. -/
  | snr (core : BitVec 8) (line : BitVec 37)
  /-- R237. An L1 owner sends dirty data to the home and keeps a clean copy. -/
  | snc (core : BitVec 8) (line : BitVec 37)
  /-- R237. An L1 holder sends dirty data to the home and invalidates. -/
  | snf (core : BitVec 8) (line : BitVec 37)
  /-- R239. A home receives a snoop completion with the resulting state. -/
  | ack (core : BitVec 8) (line : BitVec 37)
  /-- R239. A home receives a snoop completion carrying data. -/
  | ackd (core : BitVec 8) (line : BitVec 37)
  /-- R239. A home learns the holder's WBD is already on its way. -/
  | ackw (core : BitVec 8) (line : BitVec 37)
  /-- R239. A home learns the core kept no copy and serves from L2 or memory. -/
  | acku (core : BitVec 8) (line : BitVec 37)
  /-- R238. A home receives a declined speculative snoop and sends NAKS. -/
  | ackn (core : BitVec 8) (line : BitVec 37)
  /-- R245. A home places a refused stash line in L2. -/
  | nakst (core : BitVec 8) (line : BitVec 37)
  /-- R241. A requester learns its request was refused and must be resent. -/
  | rty (core : BitVec 8) (line : BitVec 37)
  /-- R241. A refused request is resent with a retry credit after 8 cycles. -/
  | requestResend (core : BitVec 8) (line : BitVec 37)
  /-- R236. A speculative read is not served and waits for branch resolution. -/
  | naks (core : BitVec 8) (line : BitVec 37)
  /-- R65. A core learns a memory read started and re-estimates the access latency. -/
  | prg (core : BitVec 8) (line : BitVec 37)
  /-- R236. An L1 in SM_A or OM_A receives an upgrade grant and enters M. -/
  | gnt (core : BitVec 8) (line : BitVec 37)
  /-- R246. A requester learns its write or maintenance step is complete. -/
  | cmp (core : BitVec 8) (line : BitVec 37)
  /-- R236. An L1 learns its WBD or EVC was processed and the line leaves XI_A. -/
  | wba (core : BitVec 8) (line : BitVec 37)
  /-- R230. A core receives a home's tag answer and recovers failed ways. -/
  | tagr (core : BitVec 8) (set : BitVec 7)
  /-- R236. An L1 receives data granted in S. -/
  | dats (core : BitVec 8) (line : BitVec 37)
  /-- R236. An L1 receives data granted in E. -/
  | date (core : BitVec 8) (line : BitVec 37)
  /-- R236. An L1 receives data granted in M and performs its pending store. -/
  | datm (core : BitVec 8) (line : BitVec 37)
  /-- R238. A requester receives uncached data or a far atomic's old value. -/
  | dato (core : BitVec 8) (line : BitVec 37)
  /-- R249. The L1D drain after l1d_off ends. -/
  | l1dDrainComplete (core : BitVec 8)
  /-- R46. A memory controller decodes a read codeword in normal or erasure mode. -/
  | codewordReadComplete (pair : BitVec 36)
  /-- R289. The scrubber reads its next codeword. -/
  | scrubRead (mc : BitVec 5)
  /-- R291. A targeted scrub ends and decides the unit's next state. -/
  | targetedScrubComplete (mc : BitVec 5) (unit : BitVec 10) (found : Nat) (oneRow : Bool)
  /-- R291. A correction or uncorrectable count older than the scrub period stops counting. -/
  | errorWindowExpiry (mc : BitVec 5) (ue : Bool) (unit : BitVec 10)
  /-- R292. A live soft PPR of a far row completes and its codewords are written back. -/
  | softPprComplete (mc : BitVec 5) (unit : BitVec 10) (ok : Bool)
  /-- R293. Moves one line pair of a retiring pseudo-channel into reserve. -/
  | pseudoChannelMove (pc : BitVec 8) (q : BitVec 23)
  /-- R288. Initialisation of near and far memory ends. -/
  | memoryInitComplete
  /-- R257. Writes a world's GC register set for the whole device. -/
  | gcRegisterWrite (by_ : Writer) (w : World) (off : BitVec 12) (v : BitVec 64)
  /-- R258. A GC register write is applied at every live core and engine. -/
  | gcWritePerformed
  /-- R271. Starts a Teasel program at its entry. -/
  | tslGo (by_ : Writer) (k : BitVec 7)
  /-- R401. Stops a Teasel or Cowslip program at its next instruction boundary. -/
  | tslHalt (by_ : Writer) (k : BitVec 7)
  /-- R274. Sets event bits of a Teasel or Cowslip sequencer. -/
  | tslEventsWrite (by_ : Writer) (k : BitVec 7) (events : BitVec 16)
  /-- R370. Starts a Valley channel on a descriptor chain. -/
  | vlHeadWrite (by_ : Writer) (ch : BitVec 6) (v : BitVec 64)
  /-- R371. Sets recheck or re-reads the tail link of a Valley channel. -/
  | vlDoorbellWrite (by_ : Writer) (ch : BitVec 6) (v : BitVec 64)
  /-- R381. Stops a running Valley channel with ABORTED. -/
  | vlAbortWrite (by_ : Writer) (ch : BitVec 6) (v : BitVec 64)
  /-- R387. Sets event bits of a Valley channel's sequencer. -/
  | vlQeventsWrite (by_ : Writer) (ch : BitVec 6) (v : BitVec 64)
  /-- R370. A channel's descriptor words arrive and are checked. -/
  | descriptorReadComplete (ch : BitVec 6)
  /-- R374. Valley grants the next burst among candidate channels. -/
  | burstGrant
  /-- R373. A burst's source words arrive, are checked, and its writes issue. -/
  | burstSourceReadComplete (ch : BitVec 6)
  /-- R378. A descriptor completes, increments VL_DONE_CNT and reads the link. -/
  | descriptorDone (ch : BitVec 6)
  /-- R370. A link word returns and the channel follows it or parks. -/
  | linkReadComplete (ch : BitVec 6)
  /-- R379. Earlier Valley writes are performed and SYNC.V ends. -/
  | syncVComplete (lcn : BitVec 16)
  /-- R382. drain_timeout passes, unheld channels halt with DOMAIN_OFF and the domain powers down. -/
  | domainDrainTimeout (dom : BitVec 7)
  /-- R389. Copies one q register to another. -/
  | reedMov (k : BitVec 7) (qd qs : BitVec 3)
  /-- R389. Adds two integer q registers. -/
  | reedAdd (k : BitVec 7) (qd qs : BitVec 3)
  /-- R389. Subtracts two integer q registers. -/
  | reedSub (k : BitVec 7) (qd qs : BitVec 3)
  /-- R389. Bitwise AND of two q registers. -/
  | reedAnd (k : BitVec 7) (qd qs : BitVec 3)
  /-- R389. Bitwise OR of two q registers. -/
  | reedOr (k : BitVec 7) (qd qs : BitVec 3)
  /-- R389. Bitwise XOR of two q registers. -/
  | reedXor (k : BitVec 7) (qd qs : BitVec 3)
  /-- R389. Shifts a q register left. -/
  | reedShl (k : BitVec 7) (qd qs : BitVec 3)
  /-- R389. Shifts a q register right logically. -/
  | reedShr (k : BitVec 7) (qd qs : BitVec 3)
  /-- R389. Sets flags from comparing two integer q registers. -/
  | reedCmp (k : BitVec 7) (qd qs : BitVec 3)
  /-- R389. Sets z from the identity comparison of two q registers. -/
  | reedEq (k : BitVec 7) (qd qs : BitVec 3)
  /-- R389. Delivers a q register's tag as FIXNUM. -/
  | reedTagof (k : BitVec 7) (qd qs : BitVec 3)
  /-- R389. Retags a q register. -/
  | reedSettag (k : BitVec 7) (qd qs : BitVec 3)
  /-- R389. Delivers the address form of a q register as RAW. -/
  | reedVa (k : BitVec 7) (qd qs : BitVec 3)
  /-- R388. Sets a q register to a FIXNUM immediate. -/
  | reedMovi (k : BitVec 7) (qd : BitVec 3) (imm : BitVec 7)
  /-- R388. Adds an immediate to an integer q register. -/
  | reedAddi (k : BitVec 7) (qd : BitVec 3) (imm : BitVec 7)
  /-- R388. Sets flags from a q register and an immediate. -/
  | reedCmpi (k : BitVec 7) (qd : BitVec 3) (imm : BitVec 7)
  /-- R390. Sets an a register to the address form of a q register. -/
  | reedMvaq (k : BitVec 7) (an : BitVec 2) (qs : BitVec 3)
  /-- R390. Sets a q register to RAW of an a register. -/
  | reedMvqa (k : BitVec 7) (an : BitVec 2) (qs : BitVec 3)
  /-- R390. Adds 8 times an immediate to an a register. -/
  | reedAdda (k : BitVec 7) (an : BitVec 2) (imm : BitVec 5)
  /-- R390. Adds 8 times a q register to an a register. -/
  | reedAddaq (k : BitVec 7) (an : BitVec 2) (qs : BitVec 3)
  /-- R390. Sets c from a q register. -/
  | reedMvcq (k : BitVec 7) (q : BitVec 3)
  /-- R390. Sets a q register to FIXNUM c. -/
  | reedMvqc (k : BitVec 7) (q : BitVec 3)
  /-- R390. Copies one a register to another. -/
  | reedMvaa (k : BitVec 7) (an am : BitVec 2)
  /-- R392. Loads a word through an a register, or reads a host port. -/
  | reedLd (k : BitVec 7) (q : BitVec 3) (an : BitVec 2) (p : Bool) (off : BitVec 4)
  /-- R393. A sequencer's outstanding LD answer arrives and issue resumes. -/
  | reedLoadAnswer (k : BitVec 7)
  /-- R392. Stores a word through an a register, or writes a host port. -/
  | reedSt (k : BitVec 7) (q : BitVec 3) (an : BitVec 2) (p : Bool) (off : BitVec 4)
  /-- R396. Sets t from a tag class or tag test. -/
  | reedTt (k : BitVec 7) (q : BitVec 3) (mode : BitVec 2) (cls : BitVec 5)
  /-- R396. Branches on a flag condition. -/
  | reedBr (k : BitVec 7) (cond : BitVec 3) (off : BitVec 7)
  /-- R396. Decrements c and branches while it is not zero. -/
  | reedLoop (k : BitVec 7) (off : BitVec 9)
  /-- R396. Branches when c is zero. -/
  | reedJcz (k : BitVec 7) (off : BitVec 9)
  /-- R396. Pushes a return address and branches. -/
  | reedCall (k : BitVec 7) (off : BitVec 9)
  /-- R396. Pops the return address into pc. -/
  | reedRet (k : BitVec 7)
  /-- R395. Extends the immediate of the next instruction. -/
  | reedPfx (k : BitVec 7) (ext : BitVec 10)
  /-- R397. Waits for event bits and clears them. -/
  | reedWaite (k : BitVec 7) (m : Bool) (q : BitVec 3) (e : BitVec 4)
  /-- R398. Rings a channel, sequencer or context once earlier stores are performed. -/
  | reedSignal (k : BitVec 7) (q : BitVec 3)
  /-- R400. Ends the program as its host requires. -/
  | reedEnd (k : BitVec 7)
  /-- R404. A late fault of a posted global store halts a Valley sequencer. -/
  | reedLateStoreFault (k : BitVec 7) (addr : BitVec 59) (info : BitVec 64)
  /-- R352. Starts the next collective operation of a group on this device. -/
  | cwGgoWrite (by_ : Writer) (group : BitVec 6)
  /-- R356. Adds to a group's sent counter. -/
  | cwQsentAdd (by_ : Writer) (group : BitVec 6) (v : BitVec 64)
  /-- R356. Adds to a group's received counter. -/
  | cwQrecvAdd (by_ : Writer) (group : BitVec 6) (v : BitVec 64)
  /-- R353. Receives a collective up or down message and combines, forwards or completes. -/
  | coll (port : BitVec 4) (m : CollMsg)
  /-- R357. The root's q_period hold ends and the term=0 down message is sent. -/
  | qPeriodExpiry (group : BitVec 6)
  /-- R360. A group busy longer than coll_timeout enters ERROR with TIMEOUT. -/
  | collTimeout (group : BitVec 6)
  /-- R298. A home device performs a remote load and answers. -/
  | rload (h : Hdr) (addr : BitVec 59) (size : BitVec 2) (acquire : Bool)
  /-- R298. A home device performs a remote store and acknowledges. -/
  | rstore (h : Hdr) (addr : BitVec 59) (word : W) (size : BitVec 2) (mask : BitVec 8)
  /-- R298. A home device performs a remote atomic and returns the old word. -/
  | ratom (h : Hdr) (addr : BitVec 59) (word expected : W) (op : BitVec 3) (ord : BitVec 2)
  /-- R345. A device applies an inbound doorbell to a record or its stub. -/
  | doorbell (h : Hdr) (lcn gen events origin : BitVec 16) (hops : BitVec 3)
  /-- R298. A requester receives a remote load or atomic answer. -/
  | rdata (h : Hdr) (word : W) (ack : Bool)
  /-- R306. A requester receives a line pair and installs replicas. -/
  | rpair (h : Hdr) (words : List W)
  /-- R300. A requester receives a store acknowledgement and decrements stores_out. -/
  | rack (h : Hdr)
  /-- R301. A requester receives a home-side fault. -/
  | rfault (h : Hdr) (hcause hsub : BitVec 8) (level : BitVec 3) (acc : BitVec 2)
  /-- R307. A home receives a replica invalidation acknowledgement. -/
  | invack (h : Hdr)
  /-- R345. The originating device enters a MOVED notice in its world's ring. -/
  | moved (h : Hdr) (oldId : BitVec 32) (oldGen : BitVec 16) (newId : BitVec 32) (newGen : BitVec 16)
  /-- R316. A destination admits or refuses a migration packet. -/
  | migrate (h : Hdr) (pkt : MigPacket)
  /-- R313. A source receives ACCEPT, REFUSE or UNKNOWN for a migration. -/
  | migans (h : Hdr) (migId : BitVec 32) (outcome : BitVec 2) (reason : BitVec 8) (newId : BitVec 32) (newGen : BitVec 16)
  /-- R317. A destination answers a query with the logged migration outcome. -/
  | migq (h : Hdr) (migId : BitVec 32)
  /-- R459. A device performs or delivers a relayed dictionary request or reply. -/
  | mgmt (h : Hdr) (reply : Bool) (op status : BitVec 8) (req : DictReq)
  /-- R347. A peer answers an image request with IMGREL from staging. -/
  | imgreq (port : BitVec 4) (offset : BitVec 32)
  /-- R432. A loading device writes relayed image data to staging. -/
  | imgrel (port : BitVec 4) (offset len : BitVec 32) (data : List (BitVec 8))
  /-- R307. A device invalidates replica lines of a page and acknowledges. -/
  | inv (h : Hdr) (page : BitVec 47)
  /-- R302. A remote operation times out after remote_timeout. -/
  | remoteTimeout (slot : BitVec 16) (gen : BitVec 16)
  /-- R313. A migrating context's stores drain and its packet is sent. -/
  | migrationPacketSend (lcn : BitVec 16)
  /-- R317. A migration without an answer for 1 ms sends MIGQ. -/
  | migReplyTimeout (lcn : BitVec 16)
  /-- R317. A migration unresolved after 10 ms is reported to Sarking. -/
  | migUnresolved (lcn : BitVec 16)
  /-- R318. A stub is released after stub_ttl and its record becomes FREE. -/
  | stubRelease (lcn : BitVec 16)
  /-- R345. Sends a posted doorbell to a context on any device. -/
  | dbRemoteWrite (x : Exec) (va : BitVec 59) (v : BitVec 64)
  /-- R330. Receives an unsequenced IDLE flit and its ack. -/
  | idleFlit (port : BitVec 4) (f : Flit)
  /-- R332. Receives a sequenced DATA flit with its messages and credits. -/
  | dataFlit (port : BitVec 4) (f : Flit)
  /-- R334. Receives a sequenced CREDIT flit returning credits. -/
  | creditFlit (port : BitVec 4) (f : Flit)
  /-- R332. Receives a NAK and replays unacknowledged flits. -/
  | nakFlit (port : BitVec 4) (f : Flit)
  /-- R327. Receives link initialisation with the peer's identity and credits. -/
  | initFlit (port : BitVec 4) (f : Flit)
  /-- R326. Receives a request to move a failed lane onto the spare. -/
  | spareFlit (port : BitVec 4) (f : Flit)
  /-- R346. Receives a HOLD flit for a fence, warm start or SAFE. -/
  | holdFlit (port : BitVec 4) (f : Flit)
  /-- R340. Routes a transit message onward on an adaptive or ordered link. -/
  | transitForward (h : Hdr) (vc : BitVec 3) (d1 : Bool) (len : BitVec 6) (port : BitVec 4)
  /-- R332. Repeats a NAK every 1 µs during recovery. -/
  | nakRepeat (port : BitVec 4)
  /-- R326. An active lane loses codeword lock and a spare switch is requested. -/
  | laneLockLoss (port : BitVec 4) (lane : BitVec 3)
  /-- R326. A lane's corrections exceed lane_ce_thresh within 1 ms. -/
  | laneCeThreshold (port : BitVec 4) (lane : BitVec 3)
  /-- R327. PMD training ends on a port's lanes. -/
  | pmdTrainingDone (port : BitVec 4) (failed : BitVec 5)
  /-- R325. A lane gains codeword lock and the lanes are deskewed. -/
  | codewordLock (port : BitVec 4) (lane : BitVec 3) (pos : BitVec 3)
  /-- R333. A port with no good flit for 10 µs goes down. -/
  | linkSilenceTimeout (port : BitVec 4)
  /-- R327. Retrains a port that is not UP every 1 s. -/
  | portRetry (port : BitVec 4)
  /-- R341. Ordered traffic reroutes around a port down for reroute_hold. -/
  | rerouteHoldExpiry (port : BitVec 4)
  /-- R445. A port with only IDLE flits for 10 µs in DROWSE enters low-power idle. -/
  | lowPowerIdleEntry (port : BitVec 4)
  /-- R440. Ports send HOLD flits at least every 1 µs in SAFE. -/
  | safeHoldTick
  /-- R411. Writes staging SRAM bytes and ends the verified-image relay state. -/
  | bar2Write (off : BitVec 26) (data : List (BitVec 8))
  /-- R412. A host read performed as remote loads of device memory. -/
  | bar4Read (off : BitVec 38) (len : BitVec 13)
  /-- R412. A host write performed as remote stores of device memory. -/
  | bar4Write (off : BitVec 38) (data : List (BitVec 8)) (ep : Bool)
  /-- R408. Function-level reset of the host interface and MSI-X state. -/
  | flr
  /-- R501. Holds the PCIe controller in reset and resets what FLR resets. -/
  | pePerstNAssert
  /-- R407. The PCIe link trains up, narrow or down. -/
  | pcieLinkChange (state : BitVec 2)
  /-- R414. Makes host-raised interrupt sources signal. -/
  | hiRaiseWrite (v : BitVec 64)
  /-- R414. Sends a BAR2 dictionary mailbox request to Eaves. -/
  | hiDmGo (op : BitVec 8) (req : DictReq)
  /-- R415. Sends an MSI-X message for a software vector. -/
  | msixSendWrite (x : Exec) (va : BitVec 59) (v : BitVec 64)
  /-- R415. An outbound read without completion for 50 ms returns all ones. -/
  | outboundReadTimeout (x : Exec)
  /-- R417. Eaves answers an SPDM request over DOE. -/
  | spdmRequest (code : BitVec 8)
  /-- R461. Sends a register-space mailbox request to Eaves. -/
  | dmbGo (m : BitVec 2) (op : BitVec 8) (req : DictReq)
  /-- R457. Reads a dictionary entry. -/
  | dictRead (req : DictReq)
  /-- R457. Writes a dictionary entry under its access class. -/
  | dictWrite (req : DictReq)
  /-- R467. Performs an operation that always completes. -/
  | dictForce (req : DictReq)
  /-- R457. Finds the next dictionary entry and its properties. -/
  | dictNext (req : DictReq)
  /-- R457. Reads a persistent fault-log record. -/
  | dictLog (req : DictReq)
  /-- R457. Reads part of the last-gasp snapshot. -/
  | dictSnap (req : DictReq)
  /-- R458. A remote dictionary request without reply for 100 ms completes with TIMEOUT. -/
  | dictRemoteTimeout (tag : BitVec 8)
  /-- R455. Eaves mirrors reported RO values every 1 ms. -/
  | dictMirrorTick
  /-- R419. Takes the device from STANDBY to LOADER with a cold start pending. -/
  | startCmdLoad
  /-- R419. Triggers a cold start from LOADER or later. -/
  | startCmdResetCold
  /-- R419. Triggers a warm start from LOADER or later. -/
  | startCmdResetWarm
  /-- R432. Makes Eaves verify the staged image. -/
  | startCmdGo
  /-- R467. Forces a cold start trigger in any mode from STANDBY. -/
  | forceStartCold
  /-- R467. Forces a warm start trigger, cold in STANDBY. -/
  | forceStartWarm
  /-- R467. Fences a Laraor port within 10 µs. -/
  | forcePortFence (port : BitVec 4)
  /-- R448. Gates a power domain regardless of its conditions. -/
  | forceGateDomain (dom : BitVec 7)
  /-- R467. Deasserts LOCKUP_N and returns locked FICs to IDLE. -/
  | forceLockupRelease
  /-- R350. Fences or unfences a Laraor port through port_fence. -/
  | portFenceWrite (port : BitVec 4) (on : Bool)
  /-- R448. Requests a power domain off under its condition. -/
  | pdCtlOff (dom : BitVec 7)
  /-- R448. Requests a power domain back on. -/
  | pdCtlOn (dom : BitVec 7)
  /-- R448. A domain switched back on becomes ready. -/
  | domainPowerOnComplete (dom : BitVec 7)
  /-- R448. A deferred Cowslip power-down expires and busy groups enter ERROR. -/
  | cowslipGateTimeout
  /-- R447. Changes a tile's clock, running it on the backup clock while the PLL relocks. -/
  | tileFreqWrite (tile : BitVec 5) (freq : BitVec 8)
  /-- R447. A tile PLL relocks at its new frequency. -/
  | pllRelockComplete (tile : BitVec 5)
  /-- R466. Arms injection of an error at the next access to an array. -/
  | injectError (v : BitVec 64)
  /-- R425. Writes the owner key hash once and burns the fuse. -/
  | ownerKeyHashWrite (hash : List (BitVec 8))
  /-- R425. The owner key fuse is burnt and owner_key_state becomes FUSED. -/
  | fuseBurnComplete
  /-- R426. Raises the minimum security version. -/
  | minSvnWrite (v : BitVec 16)
  /-- R483. Commits a record to the persistent store with its commit word. -/
  | persistentCommit (kind : BitVec 16) (payload : List (BitVec 8)) (interrupted : Bool)
  /-- R441. Moves the device from SERVICE or DEGRADED to QUIESCE. -/
  | modeCmdQuiesce
  /-- R441. Moves the device from SERVICE or DEGRADED to HOLD. -/
  | modeCmdHold
  /-- R441. Returns the device from QUIESCE or HOLD to its base mode. -/
  | modeCmdResume
  /-- R441. Moves the device to SAFE. -/
  | modeCmdSafe
  /-- R442. A block acknowledges a mode transition command. -/
  | transitionAck (block : BitVec 9)
  /-- R442. A block that has not acknowledged in its bound is reported as no progress. -/
  | transitionAckTimeout
  /-- R445. The device enters DROWSE after drowse_idle of idleness. -/
  | drowseEntry
  /-- R441. Snoop-filter re-verification ends, leading to DEGRADED or a warm start. -/
  | recoveryReverifyDone (pass : Bool)
  /-- R441. Takes the device from OFF to STANDBY with a cold start pending. -/
  | pwrokRise (boardSlot : BitVec 2)
  /-- R499. Takes the device to OFF from any mode. -/
  | pwrokFall
  /-- R419. A reset held low 50 µs triggers a cold or warm start by the WARM strap. -/
  | sysRstNAssert (warmHigh : Bool)
  /-- R501. Releases a device held in step 1 of the cold sequence. -/
  | sysRstNRelease
  /-- R433. The boot ROM has read OTP and scanned the store, entering STANDBY or LOADER. -/
  | bootRomDone
  /-- R427. Verification ends, entering BRINGUP or failing the start. -/
  | imageVerified (sig dec : BitVec 7) (keyHash : List (BitVec 8))
  /-- R432. Re-requests a relayed image 100 ms after an empty answer. -/
  | imageRelayRetry
  /-- R433. Rails, clocks, repair and training end and SELFTEST begins: the failure, if any, and of far memory the highest rate that
  every DIMM's SPD supports, in MT/s, the capacity of a DIMM in bytes, its channels, and whether the DIMMs have one rank (R284). -/
  | bringupComplete (fail : BitVec 8) (unit : BitVec 16) (rate : BitVec 16) (far : BitVec 64) (chans : Training) (oneRank : Bool)
  /-- R433. Self-test in directory mode ends and memory initialisation begins. -/
  | bistComplete (ok : Bool)
  /-- R433. Libraries and boot segments are loaded and the device enters SERVICE. -/
  | serviceEntry
  /-- R433. A start step exceeding its bound fails the start with TIMEOUT. -/
  | startStepTimeout (step : BitVec 8)
  /-- R507. The warm-start cache writeback ends and memories enter self-refresh. -/
  | warmWritebackComplete (ok : Bool)
  /-- R471. Sarking receives a fault report and takes the class's action and reaction. -/
  | faultReport (cls : BitVec 8) (unit : BitVec 16) (addr : BitVec 64) (detail : BitVec 64)
  /-- R250. Homes reclaim the lines that name a dead core. -/
  | deadCoreReclaim (core : BitVec 8)
  /-- R474. Sarking runs its eight checks in a 1 ms period. -/
  | periodicCheckPeriod (done failed : BitVec 8) (unit : BitVec 16)
  /-- R472. A no-progress count reaches 2^24 and raises NO_PROGRESS. -/
  | watchdogExpiry (core : BitVec 8) (what : BitVec 6)
  /-- R473. Sarking starts a core's rotating self-test, taking a slot. -/
  | selftestStart (core : BitVec 8)
  /-- R473. A rotating self-test result reaches Sarking. -/
  | selftestResult (core : BitVec 8) (ok : Bool)
  /-- R500. A clock outside its tolerance or lost raises CLOCK. -/
  | clockFault (clk : BitVec 8)
  /-- R496. A rail outside its window for 2 µs raises VOLTAGE. -/
  | voltageExcursion (rail : BitVec 3)
  /-- R449. Eaves samples sensors and power and adjusts tile limits or enters SAFE. -/
  | thermalSample (kind : BitVec 2) (unit : BitVec 5) (temp : BitVec 16) (power : BitVec 16)
  /-- R449. Lowers or raises a tile's frequency limit by 100 MHz. -/
  | throttleStep (tile : BitVec 5) (up : Bool)
  /-- R449. A sensor at 120 °C asserts THERMTRIP_N and stops every fast clock. -/
  | thermtrip
  /-- R485. A wear monitor crosses its threshold and brings in a spare. -/
  | wearThreshold (mon : BitVec 3) (unit : BitVec 16)
  /-- R487. A live substitution moves a wearing core to its spare site. -/
  | coreSubstitutionComplete (core : BitVec 8)
  /-- R6. Writes a register field that has no behaviour of its own. -/
  | registerWrite (by_ : Writer) (lpa : BitVec 43) (v : BitVec 64)
  /-- R117. An instruction word with a reserved opcode, func or sub, or a fetch from a non-RAW or faulting word, raises ILLEGAL_OPCODE or its fetch exception. -/
  | illegalOpcode (x : Exec)
  /-- R403. A sequencer fetches a reserved Reed class, function, sub or mode and faults with ILLEGAL. -/
  | reedIllegal (k : BitVec 7) (word : BitVec 14)
  /-- R504. TRST_N driven low resets the TAP. -/
  | trstNAssert
  /-- R504. The TAP performs IDCODE, BYPASS, or, with jtag_en set and in LOADER, boundary scan and the debug instructions. -/
  | tapInstruction (ir : BitVec 8)
  deriving DecidableEq, Repr

end Sys2Proof
end

