-- ==== Sys2Proof/Decode.lean ====
section
/-! DEFINITION. Commands and words. No row of the opcode table gives a command bits, so no word spells a command. The
instruction words of Campion are decoded in Machine/Words.lean, where a fetch meets them. -/

namespace Sys2Proof

/-- The command that a word spells by the table's bits: none, since no row has bits. -/
def decodeTableWord (_nbits _w : Nat) : Option Instr := none

end Sys2Proof
end

