-- ==== Sys2Proof/Config.lean ====
section
/-! DEFINITION. What an implementation or a part fixes and the manual does not state, and the free values.
Every constant here is opaque: no proof can see what it is. -/

namespace Sys2Proof.Config

/-- A free choice among the outcomes that the manual lists (R2), one per occasion and use: State's counter `free`
numbers the occasions, and a number tells the uses of one occasion apart. A choice among n outcomes takes it modulo n. -/
opaque choice : Nat → Nat → Nat

/-- A free 64-bit value, one per occasion and use, where the manual leaves a value open. -/
opaque freeValue : Nat → Nat → BitVec 64

/-- Data about the maker and the part that the manual does not state (R463, R497, R504): pci_vendor, pci_device,
the ROM revisions, the fuse values, keyed by the entry's index and subindex. -/
opaque identity : Nat → BitVec 64

/-- The serial number of the part as bytes (R463). -/
opaque serial : List (BitVec 8)

/-- The repair map that Maelrek set at manufacture (R463): the site of logical core k of a tile. -/
opaque factorySite : Nat → Nat

/-- The decrypted contents of a patch section (R194), which only the fused patch key yields: section type 2 or 3. -/
opaque patchPlain : Nat → List (BitVec 8)

/-- The microwords and nanowords of the ROM, which the manual leaves to its revision (R183 to R185), and the microaddress at which
the ROM begins an instruction or step that runs from microcode. -/
opaque romMicro : Nat → BitVec 16
opaque romNano : Nat → BitVec 128
opaque microEntry : Nat → BitVec 14

/-- The redundant data lanes that an HBM3E channel has (R279, R291), which the manual leaves to JESD238. -/
opaque redundantLanes : Nat

/-- A reduction whose rop is reserved (R362), for FIXNUM or FLOAT64 words, and its identity. -/
opaque reservedRop : Bool → BitVec 3 → BitVec 64 → BitVec 64 → BitVec 64
opaque reservedIdentity : Bool → BitVec 3 → BitVec 64

/-- Sensor readings (R463, R485), which the environment supplies, keyed by the entry and the draw. -/
opaque sensor : Nat → Nat → BitVec 16

end Sys2Proof.Config
end

