-- ==== Sys2Proof/Machine/State.lean ====
section
/-! DEFINITION. The state of the device: everything the manual names, as plain data, with the value each field holds
at reset as its default (the log names every value the manual does not give). -/

namespace Sys2Proof.Machine

/-- Context states (R61). -/
inductive CState where
  | free | ready | active | waitMem | waitEvent | held | migrating | stub | lockup
  deriving DecidableEq, Repr

/-- NIL, FIXNUM 0, RAW 0 and UNINIT words (R24). -/
def nilW : W := ⟨0x004, 0⟩

/-- The directory entry of a context record (R61). -/
structure Dir where
  state     : CState := .free
  prio      : BitVec 2 := 0
  owner     : World := .sys
  dying     : Bool := false
  heldFrom  : CState := .free
  gen       : BitVec 16 := 0
  events    : BitVec 16 := 0
  mask      : BitVec 16 := 0
  wait      : BitVec 3 := 0
  fault     : Bool := false
  deadline  : BitVec 32 := 0
  storesOut : BitVec 12 := 0
  accessOut : Bool := false
  stub      : BitVec 12 := 0
  deriving DecidableEq, Repr

/-- The untagged special state of a record (R59, slots 79 to 95). -/
structure Rec where
  pc       : BitVec 59 := 0
  wp       : BitVec 2 := 0
  vwc      : BitVec 3 := 1
  tw       : Bool := false
  lk       : BitVec 59 := 0
  fpBound  : Bool := false
  fpBank   : BitVec 2 := 0
  xvalidS  : Bool := false
  xvalidJ  : Bool := false
  wsp      : BitVec 59 := 0
  allocPtr : BitVec 59 := 0
  allocLim : BitVec 59 := 0
  rslogPtr : BitVec 59 := 0
  rslogLim : BitVec 59 := 0
  satbPtr  : BitVec 59 := 0
  satbLim  : BitVec 59 := 0
  cnt      : BitVec 64 := 0
  pkr      : BitVec 64 := 0
  xpcS     : BitVec 59 := 0
  xpcJ     : BitVec 59 := 0
  xcause   : BitVec 8 := 0
  xaddr    : BitVec 59 := 0
  xinfo    : BitVec 64 := 0
  fpsr     : BitVec 12 := 0
  ctxStat  : BitVec 32 := 0
  xstatS   : BitVec 32 := 0
  xstatJ   : BitVec 32 := 0
  deriving DecidableEq, Repr

/-- An exception that is raised: its cause (R169), xaddr and xinfo, for a dispatch the handler that is entered in
place of the vector (R157), and the LPA of the table word that an XLATE fault concerns, which xinfo does not give but a home's
log does (R216, R464). -/
structure Exn where
  cause : BitVec 8
  addr  : BitVec 59
  info  : BitVec 64
  handler : Option (BitVec 59) := none
  word : BitVec 43 := 0
  deriving DecidableEq, Repr

/-- What a pending access waits for (R65, R219, R222, R304, R344, R379). -/
inductive Why where
  | line | walk | maint | heal | remote | syncG | syncT | syncV | slot | outbound
  deriving DecidableEq, Repr

/-- What waits for a message about a line: an access of memory, of a table walk or of the instruction's own, or a maintenance step
(WAIT_ACK, R185). -/
def Why.isLine : Why → Bool
  | .line | .walk | .maint => true
  | _ => false

/-- The appends that a store makes (R267): the slot of the remembered-set log and that of the snapshot log, as LPA divided by
8 with memory type and na, and the mark colour that the snapshot check compares with. -/
structure Barrier where
  rs : Option (Nat × Nat × Bool) := none
  sa : Option (Nat × Nat × Bool) := none
  m  : Nat := 0
  deriving DecidableEq, Repr

/-- The registers of a context: its record, its ring, its globals and its trap window. -/
structure RegFile where
  r    : Rec := {}
  ring : Tbl W := []
  g    : Tbl W := []
  trap : Tbl W := []
  deriving DecidableEq, Repr

/-- Where a microsequencer stands (R183, R185): its microaddress and its return register. -/
structure MicroAt where
  addr : BitVec 15
  ret  : BitVec 15
  deriving DecidableEq, Repr

/-- An instruction whose access is pending (R66, R138): its word, whether it is the instruction that a REP
repeats, whether the fetch itself is pending, what it waits for, the lines that arrived
use-once, the words that arrived from a home device or an uncached read, the line or word it still needs (`excl`: to write),
its address, whether it can go on, whether the data it waited for had been contended (R243), whether a snoop met the fill that
it waits for (R247), the words of tables among what arrived (R221), the registers it issued with (R66), the barrier of a
far atomic that was sent (R258), and the microword at which the core's microsequencer holds it (R183, R187). -/
structure Pend where
  word  : BitVec 32
  rep   : Bool := false
  fetch : Bool := false
  contended : Bool := false
  why   : Why
  once  : Tbl Line := []
  words : Tbl W := []
  needs : Option Nat := none
  excl  : Bool := false
  addr  : BitVec 59 := 0
  ready : Bool := false
  early : Bool := false
  tab   : List Nat := []
  regs  : Option RegFile := none
  bar   : Option Barrier := none
  micro : Option MicroAt := none
  deriving DecidableEq, Repr

/-- The store-fault latch of a record (R303). -/
structure SFault where
  addr   : BitVec 59
  hcause : BitVec 8
  hsub   : BitVec 8
  level  : BitVec 3
  acc    : BitVec 2
  home   : BitVec 16
  deriving DecidableEq, Repr

/-- What the device holds of a context outside the record and the directory: its window registers (R59, slots 0 to
78) are `ring`, `g` and `trap`; the other fields are the pending instruction, the exception of a faulted access, the
line monitor of a WAIT.M with its rd (R74), the rd of a WAIT (R73), the latch of R303, the touch tracker of R311,
the slot held and when it was taken (R63), the migration back-off (R312), the number of a migration, whether its packet left, and the access it is for (R313), the long instruction in progress with whether a REP repeats it, and an access that a bus error ended (its unit). -/
structure Ctx where
  dir      : Dir := {}
  r        : Rec := {}
  ring     : Tbl W := []
  g        : Tbl W := []
  trap     : Tbl W := []
  pend     : Option Pend := none
  exn      : Option Exn := none
  monitor  : Option (Nat × W) := none
  waitRd   : BitVec 5 := 0
  sfault   : Option SFault := none
  touch    : Option (Nat × Nat) := none
  slot     : Option Nat := none
  since    : Nat := 0
  stopped  : Bool := false
  refused  : Bool := false
  migId    : BitVec 32 := 0
  migSent  : Bool := false
  migEvents : BitVec 16 := 0
  migVa    : BitVec 59 := 0
  migAcc   : BitVec 2 := 0
  repeated : Option (Bool × BitVec 32) := none
  busErr   : Option (BitVec 8 × BitVec 16) := none
  deriving DecidableEq, Repr

/-- The states of a fast interrupt context (R103). -/
inductive FicMode where
  | idle | irq | nmi | lockup
  deriving DecidableEq, Repr

/-- The fast interrupt context of a core (R102 to R105, R181, R182). -/
structure Fic where
  mode    : FicMode := .idle
  regs    : Tbl W := []
  nl      : Tbl W := []
  pc      : BitVec 59 := 0
  lk      : BitVec 59 := 0
  cnt     : BitVec 64 := 0
  fpsr    : BitVec 12 := 0
  cause   : BitVec 64 := 0
  info    : BitVec 64 := 0
  npc     : BitVec 59 := 0
  fromIrq : Bool := false
  pending : Tbl (BitVec 64) := []
  nmi     : Bool := false
  storesOut : BitVec 12 := 0
  pend    : Option Pend := none
  repeated : Option (Bool × BitVec 32) := none
  deriving DecidableEq, Repr

/-- The states of an L1D line (R231) with the transient states (R236). -/
inductive L1 where
  | m | o | e | s | isD | imD | smA | omA | xiA
  deriving DecidableEq, Repr

/-- A line in an L1: its state, its words, the na bit (R227), whether XI_A follows a WBD, and whether the fill it
awaits is use-once (R247). -/
structure L1Line where
  st    : L1 := .s
  data  : Line := []
  na    : Bool := false
  dirty : Bool := false
  once  : Bool := false
  deriving DecidableEq, Repr

/-- A store that waits for its line (R236): whose it is, the word's address divided by 8, the word, the byte mask
(255: a whole word with its tag), the page's memory type and na bit, and the remembered-set append that goes with it
(R267): the key, the word, the memory type and na bit of the log's page; `home` says that the home performs the write (WRM),
and `sent` that the WRM has left. -/
structure PStore where
  who  : Exec
  key  : Nat
  word : W
  mask : BitVec 8
  mt   : Nat := 0
  na   : Bool := false
  card : Option (Nat × W × Nat × Bool) := none
  home : Bool := false
  sent : Bool := false
  deriving DecidableEq, Repr

/-- A swap that is queued (R71): the slot, the outgoing record with the state it takes, and whether it has started. -/
structure Swap where
  slot    : Nat
  out     : Option Nat
  goal    : CState
  started : Bool := false
  inc     : Option Nat := none
  deriving DecidableEq, Repr

/-- A healing write that is not yet performed (R262): whose, the slot's word key, the word loaded, and h; `far` says that the
home performs it, as the predictor of atomics chose at the load (R243) by the counter `idx`, `cont` that the data for it was
contended, and `sent` that it went to the home. -/
structure Heal where
  who : Exec
  key : Nat
  old : W
  new : W
  na  : Bool := false
  far : Bool := false
  idx : Nat := 0
  cont : Bool := false
  sent : Bool := false
  deriving DecidableEq, Repr

/-- The requests that open a transaction at a home (R238); `evict` is R240's. -/
inductive ReqK where
  | rds | rdx | upg | rdo | wrm | atm | cln | fls | inv | evict | wrf
  deriving DecidableEq, Repr

/-- A request (R235): kind, requester, line, flags, the write or atomic it carries, the line and stash hint of a WRF, whose it
is, and its attempts and credit (R241). -/
structure Req where
  kind   : ReqK
  core   : Nat
  line   : Nat
  ifetch : Bool := false
  spec   : Bool := false
  wt     : Bool := false
  na     : Bool := false
  word   : Option PStore := none
  atom   : Option (Nat × BitVec 3 × W × W) := none
  data   : Option Line := none
  stash  : Option Nat := none
  who    : Option Exec := none
  tries  : Nat := 1
  credit : Bool := false
  prio   : Bool := false
  deriving DecidableEq, Repr

/-- A set of an L1 whose tag entries fail parity (R230): the ways that failed, by the line they held (`true`: of the L1I),
what the homes have listed so far (the line, and whether the core is its owner), and the lines that remain to be recovered
once every home has answered. -/
structure TagErr where
  set  : Nat
  ways : List (Bool × Nat) := []
  got  : List (Nat × Bool) := []
  todo : List (Bool × Nat) := []
  final : Bool := false
  deriving DecidableEq, Repr

/-- The service state of a logical core (R488). -/
inductive CoreLife where
  | inService | substituted | retired
  deriving DecidableEq, Repr

/-- A logical core: its slots, ready contexts in order of arrival (R63), queued swaps (R71), the FP banks with their
holders and claims (R98 to R101), the FIC, configuration and counters (R113, R114), predictors (R109, R110, R243),
L1 caches, stores and appends that wait, and the record of what Sarking knows of it: its service state and site, recent
DATAPATH failures, the slot a self-test takes, whether a mode transition or a substitution stops its slots, and the number of the record that declared it dead. -/
structure Core where
  slots    : Tbl Nat := []
  readyQ   : List Nat := []
  swaps    : List Swap := []
  fp       : Tbl (Tbl (BitVec 64)) := []
  holder   : Tbl (Nat × Nat) := []
  claim    : Tbl Nat := []
  fic      : Fic := {}
  cfg      : BitVec 3 := 0
  draining : Bool := false
  bypass   : Bool := false
  pmc      : Tbl (BitVec 48) := []
  pmsel    : Tbl (BitVec 32) := []
  dirTab   : Tbl (BitVec 2) := []
  ghist    : Tbl (BitVec 12) := []
  btb      : List (Nat × Nat × Nat × Nat) := []
  atomPred : Tbl (BitVec 2) := []
  l1d      : Tbl L1Line := []
  l1i      : Tbl L1Line := []
  stores   : List PStore := []
  appends  : List PStore := []
  heals    : List Heal := []
  retries  : List Req := []
  credits  : Tbl Nat := []
  tagErr   : List TagErr := []
  life     : CoreLife := .inService
  dead     : Bool := false
  site     : Option Nat := none
  dpFaults : List Nat := []
  testing  : Option Nat := none
  halting  : Bool := false
  subst    : Bool := false
  deadEv   : BitVec 32 := 0
  deriving DecidableEq, Repr

/-- A line in an L2 slice (R227): a home line, clean or dirty, or a stash line held for a core (R245). -/
structure L2Line where
  dirty : Bool := false
  data  : Line := []
  stash : Option Nat := none
  deriving DecidableEq, Repr

/-- A replica line pair (R306): its world, the global word address divided by 16, and its sixteen words. -/
structure Replica where
  world : World
  pair  : Nat
  words : List W
  deriving DecidableEq, Repr

/-- The states of a snoop-filter entry (R232). -/
inductive SfState where
  | np | sh | ex | os
  deriving DecidableEq, Repr

/-- The kinds of coherence message (R235) that are in flight to or from a core. -/
inductive MsgK where
  | rds | rdx | upg | rdo | wrm | atm | cln | fls | inv | tagq
  | wbd | evc
  | sns | snx | sni | snr | snc | snf
  | ack | ackd | ackw | acku | ackn | nakst
  | rty | naks | prg | gnt | cmp | wba | tagr
  | dats | date | datm | dato
  deriving DecidableEq, Repr

/-- An open transaction (R239): its request, the holders whose answer to a snoop it waits for, the senders whose WBD it
waits for and those whose WBD it has taken, the snoops that follow those answers (R231), whether it waits for a memory read,
the data it has collected, whether the owner sent the data to the requester, whether the owner declined, whether another L1
held the line (R243), whether the requester of an UPG is named, the request that waits for an eviction (R240), and, at the line
of that request, that it waits so. -/
structure Txn where
  req      : Req
  awaiting : List Nat := []
  wbWait   : List Nat := []
  wbSeen   : List Nat := []
  later    : List (Nat × MsgK) := []
  memory   : Bool := false
  data     : Option Line := none
  declined : Bool := false
  moved    : Bool := false
  contended : Bool := false
  named    : Bool := false
  queued   : Option Req := none
  blocked  : Bool := false
  deriving DecidableEq, Repr

/-- A snoop-filter entry (R232), or a directory entry with its broadcast bit (R233). -/
structure Sf where
  st      : SfState := .np
  owner   : Nat := 0
  sharers : List Nat := []
  bcast   : Bool := false
  txn     : Option Txn := none
  deriving DecidableEq, Repr

/-- A coherence message in flight (R235): its kind, where it comes from and goes to (a core by its number, the home of
tile t as 256 + t), the line, the requester a snoop names (1 in data that is delivered use-once, and in EVC and WBA of a line of an L1I), its data, the state an acknowledgement reports, and a flag: spec of
SNS, contended of data and GNT, forwarded of ACK, na of WBD, near of PRG; and what a TAGR lists: lines of the set, each with
whether the core is its owner (R230). In TAGQ and TAGR the line is the set. -/
structure Msg where
  kind : MsgK
  src  : Nat
  dst  : Nat
  line : Nat
  toward : Nat := 0
  data : Option Line := none
  st   : Option L1 := none
  flag : Bool := false
  req  : Option Req := none
  tags : List (Nat × Bool) := []
  deriving DecidableEq, Repr

/-- Power states of a tile or domain (R450, pd_state). -/
inductive Power where
  | off | on | nap | doze | retention
  deriving DecidableEq, Repr

/-- A tile: its L2 slice, replicas, snoop filter, the home's rotating pointer and priority queue (R241, R242), its
Flashing (R190, R191), power and clock (R445, R447), whether it is dead, the ways out of service by set (R486), and the number of the record that declared it dead. -/
structure Tile where
  l2      : Tbl L2Line := []
  reps    : List Replica := []
  sf      : Tbl Sf := []
  ptr     : Nat := 0
  prioQ   : List Req := []
  micro   : Tbl (BitVec 17) := []
  nano    : Tbl (BitVec 129) := []
  matches_ : Tbl (BitVec 24) := []
  power   : Power := .off
  limit   : BitVec 8 := 22
  relock  : Bool := false
  dead    : Bool := false
  waking  : Bool := false
  waysOut : Tbl Nat := []
  deadEv  : BitVec 32 := 0
  deriving DecidableEq, Repr

/-- The states of a unit of memory diagnosis, and of a group (R291, R296). -/
inductive UnitSt where
  | healthy | suspect | erased | repaired
  deriving DecidableEq, Repr
inductive GroupSt where
  | inService | retiring | retired | absent
  deriving DecidableEq, Repr

/-- A memory controller (R295) with the diagnosis of its units and groups (R291): correction counts by unit, the
line pairs found uncorrectable by group, every occurrence that counts, the oldest first, rows recorded for repair (R292), and the
redundant data lanes that repairs have taken, by channel (R279, R291). -/
structure Mc where
  ce      : BitVec 32 := 0
  ue      : BitVec 32 := 0
  lastUe  : BitVec 43 := 0
  lastRsv : Bool := false
  lastGrp : BitVec 5 := 0
  scrubQ  : BitVec 32 := 0
  scrubG  : BitVec 5 := 0
  event   : BitVec 4 := 0
  irqEn   : BitVec 4 := 0
  units   : Tbl UnitSt := []
  counts  : Tbl Nat := []
  ues     : Tbl (List Nat) := []
  groups  : Tbl GroupSt := []
  targets : List Nat := []
  rows    : List Nat := []
  lanes   : Tbl Nat := []
  deriving DecidableEq, Repr

/-- Near and far memory: the words by LPA divided by 8 (an unlisted word is UNINIT zero, R45, or in a share of `lost` the
LOST word that a start wrote there, R251), the symbols in error of
stored codewords by LPA divided by 128 (R44), the controllers (0 to 7 near stacks, 8 to 23 far channels), the served
set (R285) with its trained rate, by pseudo-channel that moves into the reserve the next codeword to move, and where the pages
moved so far lie: by pseudo-channel × 229,376 + page, the reserve page as pseudo-channel × 6,553 + its number there (R293). -/
structure Mem where
  words   : Tbl W := []
  errs    : Tbl (List (Nat × BitVec 16)) := []
  mcs     : Tbl Mc := []
  farN    : Nat := 0
  farOdd  : Bool := false
  farD    : Nat := 0
  farBytes : Nat := 0
  farRate : Nat := 0
  moved   : Tbl Nat := []
  homes   : Tbl Nat := []
  lost    : Tbl W := []
  armed   : List (BitVec 64) := []
  deriving DecidableEq, Repr

/-- A cached translation (R218): a leaf or a walk word, tagged by world, space and g. The key of a leaf is VA[58:12];
the key of a walk word is shift + 64 × (va >> shift) for the addresses it serves. -/
structure TlbEntry where
  world : World
  space : BitVec 12
  glob  : Bool
  leaf  : Bool
  key   : Nat
  lvl   : Nat
  pte   : BitVec 64
  deriving DecidableEq, Repr

/-- The kinds of TLBI (R220). -/
inductive TlbiK where
  | va (page : Nat) | globalVa (page : Nat) | sp (space : BitVec 12) | w
  deriving DecidableEq, Repr

/-- A TLBI that has not completed (R222): who issued it, where it has taken effect, and the INVACKs it waits for. -/
structure Tlbi where
  id    : Nat
  by_   : Exec
  world : World
  kind  : TlbiK
  done  : List Nat := []
  acks  : List (Nat × Nat) := []
  deriving DecidableEq, Repr

/-- The GC register set of a world (R257). -/
structure Gc where
  ctl   : BitVec 7 := 0
  est   : BitVec 43 := 0
  estV  : Bool := false
  mark  : BitVec 43 := 0
  lo    : BitVec 59 := 0
  hi    : BitVec 59 := 0
  deriving DecidableEq, Repr

/-- A world's part of the device: GC registers with the values before the write in progress (R258), the Global Policy Table (R309: base word and pages word by entry)
with its values before that write, the MOVED ring (R320). -/
structure WorldSt where
  gc    : Gc := {}
  gcOld : Gc := {}
  gptB  : Tbl (BitVec 58) := []
  gptN  : Tbl (BitVec 47) := []
  gptOld : Tbl (BitVec 58) × Tbl (BitVec 47) := ([], [])
  prod  : BitVec 32 := 0
  cons  : BitVec 32 := 0
  lost  : BitVec 32 := 0
  ring  : Tbl (BitVec 48 × BitVec 48) := []
  deriving DecidableEq, Repr

/-- The addresses that the device checks at each entry to SERVICE and the values it takes into use there (R98, R154,
R162, R165, R172, R197, R350). -/
structure Svc where
  parts  : List (Nat × Nat × BitVec 2) := []
  vecS   : Option (BitVec 59) := none
  vecJ   : Option (BitVec 59) := none
  ficVec : Option (BitVec 59) := none
  rootS  : Option Nat := none
  rootJ  : Option Nat := none
  ttdS   : Option Nat := none
  ttdJ   : Option Nat := none
  fpSys  : Nat := 1
  dims   : BitVec 16 := 0
  coord  : BitVec 16 := 0
  deriving DecidableEq, Repr

/-- Transport messages that the device sends (R343), by name with their bodies. -/
inductive Body where
  | rload (addr : BitVec 59) (size : BitVec 2) (acq : Bool)
  | rstore (addr : BitVec 59) (word : W) (size : BitVec 2) (mask : BitVec 8) (rel : Bool)
  | ratom (addr : BitVec 59) (word expected : W) (op : BitVec 3) (ord : BitVec 2)
  | doorbell (lcn gen events origin : BitVec 16) (hops : BitVec 3)
  | rdata (word : W) (ack : Bool)
  | rpair (words : List W)
  | rack
  | rfault (hcause hsub : BitVec 8) (level : BitVec 3) (acc : BitVec 2)
  | invack
  | moved (oldId : BitVec 32) (oldGen : BitVec 16) (newId : BitVec 32) (newGen : BitVec 16)
  | migrate (p : MigPacket)
  | migans (migId : BitVec 32) (outcome : BitVec 2) (reason : BitVec 8) (newId : BitVec 32) (newGen : BitVec 16)
  | migq (migId : BitVec 32)
  | coll (port : BitVec 4) (m : CollMsg)
  | mgmt (reply : Bool) (op status : BitVec 8) (req : DictReq)
  | imgreq (port : BitVec 4) (offset : BitVec 32)
  | imgrel (port : BitVec 4) (offset len : BitVec 32) (data : List (BitVec 8))
  | inv (page : BitVec 47)
  deriving DecidableEq, Repr

/-- A message sent into the fabric: its header, its virtual channel (R339) and its body. -/
structure Sent where
  h    : Hdr
  vc   : BitVec 3
  body : Body
  deriving DecidableEq, Repr

/-- Whose an outstanding remote operation is (R344); an access of the host's that an FLR overtook has no taker (R408). -/
inductive OpOwner where
  | exec (x : Exec) | valley (ch : Nat) | host (off : BitVec 38) (read : Bool) | hostGone (read : Bool) | seq (k : Nat)
  deriving DecidableEq, Repr

/-- A slot of the outstanding-operation table (R344). -/
structure OutOp where
  owner  : OpOwner
  dev    : BitVec 16
  addr   : BitVec 59
  acc    : BitVec 2
  posted : Bool
  level  : Bool
  deriving DecidableEq, Repr

/-- A stub (R318). -/
structure Stub where
  lcn    : Nat
  newId  : BitVec 32
  newGen : BitVec 16
  oldGen : BitVec 16
  deriving DecidableEq, Repr

/-- Remote operations and migration (R297 to R322, R344). Of the device's messages, the first `taken` have come to the ports, where those
in `waiting` wait for a link and credits (R334, R340). -/
structure Remote where
  ops     : Tbl OutOp := []
  gens    : Tbl (BitVec 16) := []
  sent    : List Sent := []
  nextMig : BitVec 32 := 0
  stubs   : Tbl Stub := []
  admitted : List (BitVec 16 × BitVec 32 × Bool × BitVec 8 × BitVec 32 × BitVec 16) := []
  tracker : List (World × Nat × List (BitVec 16) × Bool) := []
  forwarded : List (Hdr × BitVec 3 × Bool × BitVec 6 × Nat) := []
  taken   : Nat := 0
  waiting : List Sent := []
  deriving DecidableEq, Repr

/-- Port states (R349). -/
inductive PortSt where
  | down | training | init | up | fenced
  deriving DecidableEq, Repr

/-- A Laraor port (R323 to R350): its registers and its link state. Of its transmitter: the transit messages routed to it, the rest of
the message that it is sending, the channel it served last (R335), the credits it owes its peer (R334) and the FEC-status word of its next
flit (R329). -/
structure Port where
  st       : PortSt := .down
  spare    : Bool := false
  failed   : BitVec 3 := 7
  rxFailed : Option (BitVec 3) := none
  txFailed : Option (BitVec 3) := none
  lanePos  : Tbl (BitVec 3) := []
  peerDev  : BitVec 16 := 0
  peerPort : BitVec 4 := 0
  event    : BitVec 4 := 0
  irqEn    : BitVec 4 := 0
  replays  : BitVec 32 := 0
  discards : BitVec 32 := 0
  laneCe   : Tbl (BitVec 32) := []
  ue       : BitVec 32 := 0
  trained  : BitVec 5 := 0
  locked   : BitVec 5 := 0
  txSeq    : BitVec 16 := 0
  ackSeq   : BitVec 16 := 0xFFFF
  replay   : List Flit := []
  sentFl   : List Flit := []
  rxSeq    : BitVec 16 := 0
  recovery : Bool := false
  naks     : Nat := 0
  sentNaks : Nat := 0
  lastNak  : BitVec 16 := 0
  credits  : Tbl Nat := []
  partial_ : List (BitVec 8) := []
  rxMsgs   : List (List (BitVec 8)) := []
  got      : List Sent := []
  txq      : List (BitVec 3 × List (BitVec 8)) := []
  txRest   : List (BitVec 8) := []
  txVc     : BitVec 3 := 0
  owed     : Tbl Nat := []
  fec      : BitVec 32 := 0
  hold     : BitVec 8 := 0
  fence    : Bool := false
  reroute  : Bool := false
  lowPower : Bool := false
  powered  : Bool := true
  deriving DecidableEq, Repr

/-- Group states of Cowslip (R362). -/
inductive GSt where
  | idle | armed | up | down | done | error
  deriving DecidableEq, Repr

/-- A collective group (R351 to R362): its registers, the up messages of this operation and the early ones by port, the
totals of the previous wave and of the wave whose down message is held (R357), the device's own contribution, whether it
is ready, the word of QSTATE (R394), whether the up message left and whether the operation has turned here. -/
structure Group where
  kind     : BitVec 2 := 0
  rop      : BitVec 3 := 0
  ty       : Bool := false
  count    : BitVec 6 := 0
  member   : Bool := false
  root     : Bool := false
  parent   : BitVec 4 := 0
  children : BitVec 16 := 0
  owner    : World := .sys
  en       : Bool := false
  inp      : BitVec 43 := 0
  out      : BitVec 43 := 0
  lcn      : BitVec 16 := 0
  event    : BitVec 4 := 0
  dbEn     : Bool := false
  irqEn    : Bool := false
  st       : GSt := .idle
  ovf      : Bool := false
  err      : BitVec 8 := 0
  errDev   : BitVec 16 := 0
  seq      : BitVec 16 := 0
  lostGo   : BitVec 8 := 0
  sent     : BitVec 64 := 0
  recv     : BitVec 64 := 0
  ups      : Tbl CollMsg := []
  early    : Tbl CollMsg := []
  prev     : Option (BitVec 64 × BitVec 64) := none
  wave     : Option (BitVec 64 × BitVec 64) := none
  mine     : List W := []
  ready    : Bool := false
  quiet    : BitVec 2 := 0
  upSent   : Bool := false
  turned   : Bool := false
  deriving DecidableEq, Repr

/-- Channel states of Valley (R370), and the phase of a RUNNING channel's walk. -/
inductive ChSt where
  | idle | running | atEoc | halted
  deriving DecidableEq, Repr
inductive Phase where
  | none | desc | fetch | burst | granted | program | done | link
  deriving DecidableEq, Repr

/-- A Valley channel (R364 to R383): its registers; the tag of the link that led to the descriptor and the link word as it
read when its read issued; the descriptor's words, its fill word, the bytes done and its number; the slots of the remote
loads it waits for with the index of their words, the words that arrived, and the slots of remote stores that no answer
has freed, with descriptor number and burst; the time of its last grant; and the domain it drains for. -/
structure Chan where
  owner    : World := .sys
  space    : BitVec 12 := 0
  prio     : BitVec 3 := 0
  errIrq   : Bool := false
  st       : ChSt := .idle
  recheck  : Bool := false
  held     : Bool := false
  err      : BitVec 8 := 0
  cur      : BitVec 59 := 0
  tail     : BitVec 59 := 0
  doneCnt  : BitVec 32 := 0
  progress : BitVec 40 := 0
  errAddr  : BitVec 59 := 0
  errInfo  : BitVec 64 := 0
  phase    : Phase := .none
  linkTag  : BitVec 10 := 0
  link0    : Option W := none
  w0       : BitVec 64 := 0
  src      : BitVec 59 := 0
  dst      : BitVec 59 := 0
  fill     : W := nilW
  pos      : Nat := 0
  descNo   : Nat := 0
  want     : Tbl Nat := []
  got      : Tbl W := []
  unacked  : Tbl (Nat × Nat) := []
  lastGrant : Nat := 0
  drainFor : Option Nat := none
  abort    : Bool := false
  deriving DecidableEq, Repr

/-- States of a sequencer's program (R271, TSL_STAT). -/
inductive SeqSt where
  | idle | running | waiting | ended | faulted
  deriving DecidableEq, Repr

/-- An LD whose answer is outstanding (R393): its registers, p, its address, the LPA or the slot of its read, and the
word that arrived. -/
structure SeqLd where
  q    : BitVec 3
  an   : BitVec 2
  post : Bool
  va   : BitVec 59
  lpa  : Option Nat := none
  slot : Option Nat := none
  word : Option W := none
  deriving DecidableEq, Repr

/-- A Reed sequencer (R386), with the control registers of its Teasel or Cowslip block (R271), and the program words whose parity is
not valid (R403). -/
structure Seq where
  owner  : World := .sys
  space  : BitVec 12 := 0
  entry  : BitVec 12 := 0
  irqEn  : Bool := false
  st     : SeqSt := .idle
  fault  : BitVec 8 := 0
  pc     : BitVec 12 := 0
  done   : Bool := false
  faddr  : BitVec 59 := 0
  events : BitVec 16 := 0
  marks  : BitVec 48 := 0
  q      : Tbl W := []
  a      : Tbl (BitVec 59) := []
  c      : BitVec 32 := 0
  z      : Bool := false
  n      : Bool := false
  b      : Bool := false
  t      : Bool := false
  stack  : List (BitVec 12) := []
  prog   : Tbl (BitVec 14) := []
  progBad : List Nat := []
  pfx    : Option (BitVec 10) := none
  waitM  : Option (BitVec 16 × Option (BitVec 3)) := none
  ld     : Option SeqLd := none
  mark   : BitVec 2 := 2
  lateFault : Option (BitVec 59 × BitVec 64) := none
  halt   : Bool := false
  deriving DecidableEq, Repr

/-- A register-space mailbox (R461), or the BAR2 mailbox (R413). -/
structure Mbox where
  owner  : BitVec 32 := 0
  len    : BitVec 13 := 0
  irqEn  : Bool := false
  dbEn   : Bool := false
  lcn    : BitVec 16 := 0
  event  : BitVec 4 := 0
  busy   : Bool := false
  done   : Bool := false
  rlen   : BitVec 13 := 0
  lostGo : BitVec 8 := 0
  req    : Tbl (BitVec 64) := []
  rpy    : Tbl (BitVec 64) := []
  deriving DecidableEq, Repr

/-- An MSI-X vector (R407). -/
structure Vector_ where
  addr : BitVec 64 := 0
  data : BitVec 32 := 0
  mask : Bool := true
  pba  : Bool := false
  deriving DecidableEq, Repr

/-- What waits in the order of the host's accesses (R412, R414): a word of a BAR4 access with its offset, the global address
that the window gave it, its world and, for a write, its bytes with their mask; a write of HI_RAISE, of HI_DM_CTL with go, or of
a doorbell slot; a request of the host's mailbox. -/
inductive HostOp where
  | word (off : BitVec 38) (va : BitVec 59) (w : World) (data : Option (W × BitVec 8))
  | effect (lpa : Nat) (v : BitVec 64)
  | request (op : BitVec 8) (r : DictReq)
  deriving DecidableEq, Repr

/-- The host interface (R407 to R418): registers, MSI-X, staging SRAM as bytes (an unlisted byte reads zero), the
dictionary mailbox, what the device has sent to the host; of BAR4 (R412) the operations outstanding, the accesses that
wait, and the words read (none: poisoned or aborted). -/
structure HostIf where
  barBase : BitVec 59 := 0
  barEn   : Bool := false
  barW    : World := .sys
  barSize : BitVec 9 := 1
  outBase : BitVec 29 := 0
  outEn   : Bool := false
  master  : Bool := true
  dm      : Mbox := {}
  errOff  : BitVec 40 := 0
  errBar  : BitVec 3 := 0
  errCause : BitVec 8 := 0
  errCnt  : BitVec 32 := 0
  vecs    : Tbl Vector_ := []
  sentMsi : List (BitVec 11) := []
  staging : List Host.Cell := []
  link    : BitVec 2 := 0
  perst   : Bool := false
  writes  : List (BitVec 64 × BitVec 64) := []
  reads   : List (Exec × BitVec 64) := []
  barOut  : Nat := 0
  barQ    : List HostOp := []
  barData : List (BitVec 38 × Option (BitVec 64)) := []
  replies : List (BitVec 4 × BitVec 8 × BitVec 8 × DictReq) := []
  spdm    : List (BitVec 8 × BitVec 8) := []
  deriving DecidableEq, Repr

/-- Operating modes (R438). -/
inductive Mode where
  | off | standby | loader | bringup | selftest | service | drowse | quiesce | hold | degraded | recovery | safe
  deriving DecidableEq, Repr

/-- A mode transition in progress (R442): its target, the base mode that goes with it, and the blocks that have not
acknowledged. -/
structure Trans where
  target  : Mode
  base    : Mode
  waiting : List Nat
  deriving DecidableEq, Repr

/-- Starts (R419 to R437). -/
structure Start where
  pendWarm  : Bool := false
  running   : Bool := false
  verifying : Bool := false
  relay     : Bool := false
  relayLen  : BitVec 32 := 0
  relayGot  : Nat := 0
  verified  : Bool := false
  wbDone    : Bool := true
  memDone   : Bool := false
  ownerHash : List (BitVec 8) := []
  fuse      : Bool := false
  burning   : Bool := false
  safeClass : BitVec 8 := 0
  bist      : Bool := false
  deriving DecidableEq, Repr

/-- Traffic that arrived in DROWSE and is handled once the device is awake (R439), with what its command carries. -/
inductive Held where
  | rload (h : Hdr) (addr : BitVec 59) (size : BitVec 2) (acquire : Bool)
  | rstore (h : Hdr) (addr : BitVec 59) (word : W) (size : BitVec 2) (mask : BitVec 8)
  | ratom (h : Hdr) (addr : BitVec 59) (word expected : W) (op : BitVec 3) (ord : BitVec 2)
  | doorbell (h : Hdr) (lcn gen events origin : BitVec 16) (hops : BitVec 3)
  | inv (h : Hdr) (page : BitVec 47)
  | migrate (h : Hdr) (pkt : MigPacket)
  | coll (port : BitVec 4) (m : CollMsg)
  | bar0Write (lpa : BitVec 43) (v : BitVec 64)
  | bar4Read (off : BitVec 38) (len : BitVec 13)
  | bar4Write (off : BitVec 38) (data : List (BitVec 8)) (ep : Bool)
  deriving DecidableEq, Repr

/-- The management plane: mode, transition, waiting triggers, the traffic that DROWSE holds until the device is awake (R439), dictionary values by index × 256 + subindex (numbers, and
blobs as bytes), the mailboxes, notices, requests relayed to other devices, home translation faults (R464). -/
structure Mgmt where
  mode     : Mode := .off
  base     : Mode := .off
  trans    : Option Trans := none
  waiting  : List Mode := []
  held     : List Held := []
  dict     : Tbl Nat := []
  blobs    : Tbl (List (BitVec 8)) := []
  boxes    : Tbl Mbox := []
  remotes  : List (BitVec 8 × BitVec 4 × BitVec 8 × DictReq) := []
  xlateLog : List (List (BitVec 8)) := []
  start    : Start := {}
  pd       : Tbl Power := []
  pdPend   : List Nat := []
  quiet    : Tbl Nat := []
  mirror   : Tbl (List (BitVec 8)) := []
  deriving DecidableEq, Repr

/-- A fault record (R481). -/
structure FRec where
  seq    : BitVec 32
  cls    : BitVec 8
  react  : BitVec 8
  mode   : Mode
  start  : BitVec 32
  unit   : BitVec 16
  site   : BitVec 16
  addr   : BitVec 64
  detail : List (BitVec 8)
  deriving DecidableEq, Repr

/-- A record of the persistent store (R483): its kind, sequence number, payload, and whether its commit word was
programmed. -/
structure PRec where
  kind    : BitVec 16
  seq     : Nat
  payload : List (BitVec 8)
  commit  : Bool
  deriving DecidableEq, Repr

/-- Sarking (R469 to R488) and the persistent store; `counts` holds what is counted to Sarking without an entry of the
dictionary (0: discards of a dead tile's share, R251; 1: tag recoveries, R230; 2: on-chip corrections, R52). -/
structure Sark where
  nextSeq  : BitVec 32 := 0
  waiting  : List FRec := []
  log      : List FRec := []
  last     : Option FRec := none
  drops    : Tbl Nat := []
  snap     : List (BitVec 8) := []
  store    : List PRec := []
  storeSeq : Nat := 0
  bankPend : List (Nat × Nat) := []
  withdrawn : List Nat := []
  bankUsed : Tbl Nat := []
  counts   : Tbl Nat := []
  deriving DecidableEq, Repr

/-- Pins and straps (R495, R501, R504). -/
structure Pins where
  pwrok     : Bool := false
  sysRst    : Bool := false
  boardSlot : BitVec 2 := 0
  lockup    : Bool := false
  safe      : Bool := false
  therm     : Bool := false
  tapIr     : BitVec 8 := 1
  deriving DecidableEq, Repr

/-- The device, with the queue of commands that wait (first in, first out) the model's own counter of free
values drawn, and its own count of activations and bindings, which tells which came first (R63, R99). -/
structure State where
  pending : List Instr := []
  free    : Nat := 0
  seq     : Nat := 0
  ctxs    : Tbl Ctx := []
  cores   : Tbl Core := []
  tiles   : Tbl Tile := []
  mem     : Mem := {}
  mesh    : List Msg := []
  tlbs    : Tbl (List TlbEntry) := []
  tlbis   : List Tlbi := []
  nextTlbi : Nat := 0
  ws      : WorldSt := {}
  wj      : WorldSt := {}
  gcLag   : List Nat := []
  gcBy    : Option Exec := none
  svc     : Svc := {}
  remote  : Remote := {}
  ports   : Tbl Port := []
  groups  : Tbl Group := []
  collNote : BitVec 64 := 0
  chans   : Tbl Chan := []
  grants  : Nat := 0
  grantPtr : Nat := 0
  seqs    : Tbl Seq := []
  host    : HostIf := {}
  mg      : Mgmt := {}
  sark    : Sark := {}
  pins    : Pins := {}
  deriving DecidableEq, Repr

/-- The device before power is applied (mode OFF, R438), every field at the value its Reset column gives. -/
def State.reset : State := {}

/-- The device stops. No meaning raises it: every error the manual describes is an exception, a fault record or a
status, which are next states. It is kept so that the interface has a name for a stop; safe. -/
inductive Fault where
  | stopped
  deriving DecidableEq, Repr

/-- Why a command has no meaning. `notModelled` stands in Dispatch.lean alone. `tapUnspecified` is answered by
TAP_INSTRUCTION for the boundary-scan and debug instructions, in LOADER with jtag_en at 1, whose effect the manual does
not give (R504; log entry 90); safe. -/
inductive Refusal where
  | notModelled (mnemonic : String)
  | tapUnspecified
  deriving DecidableEq, Repr

end Sys2Proof.Machine
end

