-- ==== Sys2Proof/Machine/Tbl.lean ====
section
/-! DEFINITION. Tables in ascending order of key, memory words in their canonical form, and bit-field helpers. -/

namespace Sys2Proof

/-- The number of a world (R160). -/
def World.num : World → Nat
  | .sys => 0
  | .job => 1

/-- The world of a number. -/
def worldOf (n : Nat) : World := if n % 2 = 0 then .sys else .job

/-- The other world. -/
def World.other : World → World
  | .sys => .job
  | .job => .sys

end Sys2Proof

namespace Sys2Proof.Machine

/-- The value listed for a key. -/
def tget {α : Type} (t : Tbl α) (k : Nat) : Option α :=
  match t with
  | [] => none
  | (j, v) :: r => if j = k then some v else tget r k

/-- The value of a key, or the default of the unlisted. -/
def tgetD {α : Type} (t : Tbl α) (k : Nat) (d : α) : α := (tget t k).getD d

/-- Lists a value for a key, in order. -/
def tset {α : Type} (t : Tbl α) (k : Nat) (v : α) : Tbl α :=
  match t with
  | [] => [(k, v)]
  | (j, u) :: r => if k < j then (k, v) :: (j, u) :: r else if j = k then (k, v) :: r else (j, u) :: tset r k v

/-- Removes a key. -/
def tdel {α : Type} (t : Tbl α) (k : Nat) : Tbl α :=
  match t with
  | [] => []
  | (j, u) :: r => if j = k then r else (j, u) :: tdel r k

/-- Changes the value of a key. -/
def tmod {α : Type} (t : Tbl α) (k : Nat) (d : α) (f : α → α) : Tbl α := tset t k (f (tgetD t k d))

/-- UNINIT with payload zero (R24, R45): what a word of memory that is not listed reads as. -/
def uninitW : W := ⟨0x000, 0⟩

/-- XOR of two numbers. -/
def nxor (a b : Nat) : Nat := Nat.xor a b

/-- The home share of an LPA (R226). -/
def homeShare (lpa : Nat) : Nat :=
  (List.range 7).foldl (fun h i => nxor h (lpa / 2 ^ (7 + 5 * i) % 32)) (lpa / 2 ^ 42 % 2)

/-- What a word of memory that is not listed reads as, by its key: UNINIT zero (R45), or the LOST word that a start wrote
throughout the share of a dead tile (R251). -/
def dfltW (lost : Tbl W) (k : Nat) : W := tgetD lost (homeShare (8 * k)) uninitW

/-- Writes a word of memory; the word an unlisted address reads as is removed, so that equal memories are equal. -/
def memPut (lost : Tbl W) (t : Tbl W) (k : Nat) (v : W) : Tbl W := if v = dfltW lost k then tdel t k else tset t k v

/-- Keys rise strictly from a bound on, and no entry equals the word of an unlisted address. -/
def memWfFrom (lost : Tbl W) (t : Tbl W) (lo : Nat) : Bool :=
  match t with
  | [] => true
  | (k, v) :: r => decide (lo ≤ k) && decide (v ≠ dfltW lost k) && memWfFrom lost r (k + 1)

/-- The canonical form of memory. -/
def Memory.wf (m : Mem) : Bool := memWfFrom m.lost m.words 0

/-- The n bits of x from bit lo on, as a number. -/
def bitsN {w : Nat} (x : BitVec w) (lo n : Nat) : Nat := x.toNat / 2 ^ lo % 2 ^ n

/-- Bit i of x. -/
def bitN {w : Nat} (x : BitVec w) (i : Nat) : Bool := x.toNat / 2 ^ i % 2 = 1

/-- 1 or 0. -/
def b2n (b : Bool) : Nat := if b then 1 else 0

/-- x with the n bits from lo on replaced by v. -/
def putN {w : Nat} (x : BitVec w) (lo n v : Nat) : BitVec w :=
  BitVec.ofNat w (x.toNat - bitsN x lo n * 2 ^ lo + (v % 2 ^ n) * 2 ^ lo)

/-- The numbers of the context states (R61). -/
def CState.num : CState → Nat
  | .free => 0 | .ready => 1 | .active => 2 | .waitMem => 3 | .waitEvent => 4 | .held => 5 | .migrating => 6
  | .stub => 7 | .lockup => 8

/-- The numbers of the modes (R438). -/
def Mode.num : Mode → Nat
  | .off => 0 | .standby => 1 | .loader => 2 | .bringup => 3 | .selftest => 4 | .service => 5 | .drowse => 6
  | .quiesce => 7 | .hold => 8 | .degraded => 9 | .recovery => 10 | .safe => 11

/-- A number as little-endian bytes. -/
def toBytes (v n : Nat) : List (BitVec 8) :=
  match n with
  | 0 => []
  | n + 1 => BitVec.ofNat 8 v :: toBytes (v / 256) n

/-- Little-endian bytes as a number. -/
def ofBytes (l : List (BitVec 8)) : Nat :=
  match l with
  | [] => 0
  | b :: r => b.toNat + 256 * ofBytes r

/-- The first element that answers, with the elements before it and after it. -/
def splitAtFirst {α : Type} (p : α → Bool) (l : List α) : Option (List α × α × List α) :=
  match l with
  | [] => none
  | a :: r => if p a then some ([], a, r) else (splitAtFirst p r).map fun q => (a :: q.1, q.2.1, q.2.2)

end Sys2Proof.Machine
end

