-- ==== Sys2Proof/Machine/Dict.lean ====
section
/-! DEFINITION. The parameter dictionary's table of entries (R451, R452) and the values of the entries that hold one. -/

namespace Sys2Proof.Machine

/-- An entry or a run of entries of one index: subindices from `lo` to `hi`, the type code of R451, the access class
(0 RO, 1 RW, 2 WO, 3 RWL, 4 RWS), persistence, default, range, and for STR and BLOB the greatest length. -/
structure DEnt where
  index : Nat
  lo    : Nat
  hi    : Nat
  ty    : Nat
  cls   : Nat
  p     : Bool := false
  dflt  : Nat := 0
  min   : Nat := 0
  max   : Nat := 2 ^ 64 - 1
  len   : Nat := 0
  deriving DecidableEq, Repr

/-- Identity, modes, clocks and power (R450, R463, R497, R504, R384). -/
def dictA : List DEnt := [
  ⟨0x0100, 0x01, 0x01, 0x03, 0, false, 0, 0, 0xFFFF, 0⟩, ⟨0x0100, 0x02, 0x02, 0x03, 0, false, 0, 0, 0xFFFF, 0⟩,
  ⟨0x0100, 0x03, 0x03, 0x0C, 0, false, 0, 0, 0, 64⟩, ⟨0x0100, 0x04, 0x04, 0x02, 0, false, 0xB0, 0, 255, 0⟩,
  ⟨0x0100, 0x05, 0x05, 0x0C, 0, false, 0, 0, 0, 64⟩, ⟨0x0100, 0x06, 0x07, 0x04, 0, false, 0, 0, 0xFFFFFFFF, 0⟩,
  ⟨0x0100, 0x08, 0x08, 0x02, 0, false, 0, 0, 255, 0⟩, ⟨0x0100, 0x09, 0x09, 0x04, 0, false, 0, 0, 0xFFFFFFFF, 0⟩,
  ⟨0x0200, 0x01, 0x02, 0x0B, 0, false, 0, 0, 11, 0⟩, ⟨0x0200, 0x03, 0x03, 0x0B, 2, false, 0, 1, 4, 0⟩,
  ⟨0x0200, 0x04, 0x04, 0x02, 4, false, 0, 0, 1, 0⟩, ⟨0x0200, 0x05, 0x05, 0x01, 4, false, 1, 0, 1, 0⟩,
  ⟨0x0200, 0x06, 0x06, 0x04, 4, false, 10000, 1000, 10000000, 0⟩,
  ⟨0x0208, 0x01, 0x01, 0x02, 4, false, 0, 0, 255, 0⟩, ⟨0x0208, 0x02, 0x02, 0x01, 0, false, 0, 0, 1, 0⟩,
  ⟨0x0208, 0x03, 0x03, 0x01, 2, false, 0, 0, 1, 0⟩,
  ⟨0x0400, 0x01, 0x20, 0x02, 4, false, 22, 8, 22, 0⟩, ⟨0x0400, 0x40, 0x40, 0x09, 4, false, 1520, 0, 0xFFFF, 0⟩,
  ⟨0x0400, 0x41, 0x41, 0x09, 4, false, 1680, 0, 0xFFFF, 0⟩, ⟨0x0400, 0x42, 0x42, 0x03, 4, false, 650, 200, 650, 0⟩,
  ⟨0x0400, 0x43, 0x43, 0x03, 0, false, 0, 0, 0xFFFF, 0⟩, ⟨0x0400, 0x44, 0x44, 0x0A, 0, false, 0, 650, 850, 0⟩,
  ⟨0x0401, 0x01, 0x20, 0x02, 0, false, 0, 0, 22, 0⟩, ⟨0x0402, 0x01, 0x01, 0x03, 4, false, 64, 16, 65535, 0⟩,
  ⟨0x0402, 0x02, 0x02, 0x04, 4, false, 200, 0, 0xFFFFFFFF, 0⟩,
  ⟨0x0410, 0x01, 0x01, 0x04, 4, false, 10000, 100, 1000000, 0⟩,
  ⟨0x0420, 0x01, 0x4C, 0x02, 4, false, 0, 0, 1, 0⟩, ⟨0x0421, 0x01, 0x4C, 0x0B, 0, false, 0, 0, 4, 0⟩]

/-- Memory and Laraor (R296, R350). -/
def dictB : List DEnt := [
  ⟨0x0800, 0x01, 0x01, 0x03, 0, false, 0, 0, 0xFFFF, 0⟩, ⟨0x0800, 0x02, 0x02, 0x05, 0, false, 0, 0, 2 ^ 64 - 1, 0⟩,
  ⟨0x0800, 0x03, 0x03, 0x03, 0, false, 0, 0, 0xFFFF, 0⟩, ⟨0x0800, 0x04, 0x04, 0x03, 3, true, 6400, 4800, 6400, 0⟩,
  ⟨0x0800, 0x05, 0x05, 0x04, 0, false, 1677568, 0, 0xFFFFFFFF, 0⟩,
  ⟨0x0800, 0x06, 0x06, 0x03, 4, false, 32, 1, 65535, 0⟩, ⟨0x0800, 0x07, 0x07, 0x03, 4, false, 4, 1, 65535, 0⟩,
  ⟨0x0810, 0x01, 0x10, 0x0D, 0, true, 0, 0, 0, 40⟩, ⟨0x0811, 0x01, 0x10, 0x02, 0, true, 0, 0, 15, 0⟩,
  ⟨0x0818, 0x01, 0x08, 0x0D, 0, true, 0, 0, 0, 1024⟩, ⟨0x0819, 0x01, 0x08, 0x0D, 0, true, 0, 0, 0, 32⟩,
  ⟨0x0C00, 0x01, 0x02, 0x03, 3, true, 0, 0, 0xFFFF, 0⟩, ⟨0x0C00, 0x03, 0x03, 0x04, 4, false, 1000, 10, 10000000, 0⟩,
  ⟨0x0C00, 0x04, 0x04, 0x04, 4, false, 4000, 0, 0xFFFFFFFF, 0⟩,
  ⟨0x0C10, 0x01, 0x08, 0x03, 3, true, 0x0010, 0, 0xFFFF, 0⟩, ⟨0x0C10, 0x09, 0x10, 0x03, 3, true, 0x000F, 0, 0xFFFF, 0⟩,
  ⟨0x0C11, 0x01, 0x10, 0x0B, 0, false, 0, 0, 4, 0⟩, ⟨0x0C12, 0x01, 0x10, 0x01, 4, false, 0, 0, 1, 0⟩]

/-- Faults, reactions, spares, counters, sensors and logs (R463, R488 and the chapters that name each counter). -/
def dictC : List DEnt := [
  ⟨0x1000, 0x01, 0x01, 0x04, 0, false, 0, 0, 0xFFFFFFFF, 0⟩,
  ⟨0x1001, 0x01, 0x06, 0x0B, 3, true, 0, 0, 1, 0⟩, ⟨0x1001, 0x07, 0x07, 0x0B, 3, true, 1, 1, 1, 0⟩,
  ⟨0x1001, 0x08, 0x0A, 0x0B, 3, true, 0, 0, 1, 0⟩, ⟨0x1001, 0x0B, 0x0D, 0x0B, 3, true, 1, 1, 1, 0⟩,
  ⟨0x1001, 0x0E, 0x0F, 0x0B, 3, true, 0, 0, 1, 0⟩, ⟨0x1001, 0x10, 0x12, 0x0B, 3, true, 1, 1, 1, 0⟩,
  ⟨0x1001, 0x13, 0x15, 0x0B, 3, true, 0, 0, 1, 0⟩,
  ⟨0x1002, 0x01, 0x08, 0x04, 0, false, 0, 0, 0xFFFFFFFF, 0⟩, ⟨0x1003, 0x01, 0x02, 0x04, 0, false, 0, 0, 0xFFFFFFFF, 0⟩,
  ⟨0x1400, 0x01, 0x01, 0x0D, 0, true, 0, 0, 0, 288⟩, ⟨0x1400, 0x02, 0x02, 0x0D, 0, true, 0, 0, 0, 32⟩,
  ⟨0x1400, 0x03, 0x03, 0x0D, 0, true, 0, 0, 0, 256⟩, ⟨0x1400, 0x04, 0x04, 0x0D, 0, true, 0, 0, 0, 64⟩,
  ⟨0x1400, 0x05, 0x05, 0x0D, 0, true, 0, 0, 0, 288⟩, ⟨0x1400, 0x06, 0x06, 0x04, 0, true, 0, 0, 0xFFFFFFFF, 0⟩,
  ⟨0x1400, 0x10, 0x10, 0x03, 4, false, 60, 0, 0xFFFF, 0⟩, ⟨0x1400, 0x11, 0x11, 0x04, 4, false, 64, 0, 0xFFFFFFFF, 0⟩,
  ⟨0x1400, 0x12, 0x13, 0x03, 4, false, 16, 0, 0xFFFF, 0⟩, ⟨0x1401, 0x01, 0x20, 0x0D, 0, false, 0, 0, 0, 18⟩,
  ⟨0x1800, 0x20, 0x26, 0x05, 0, false, 0, 0, 2 ^ 64 - 1, 0⟩, ⟨0x1800, 0x30, 0x31, 0x05, 0, false, 0, 0, 2 ^ 64 - 1, 0⟩,
  ⟨0x1800, 0x40, 0x40, 0x05, 0, false, 0, 0, 2 ^ 64 - 1, 0⟩, ⟨0x1800, 0x50, 0x50, 0x05, 0, false, 0, 0, 2 ^ 64 - 1, 0⟩,
  ⟨0x1800, 0x60, 0x60, 0x0B, 0, false, 0, 0, 2, 0⟩, ⟨0x1800, 0x61, 0x61, 0x05, 0, false, 0, 0, 2 ^ 64 - 1, 0⟩,
  ⟨0x1801, 0x01, 0x20, 0x09, 0, false, 0, 0, 0xFFFF, 0⟩, ⟨0x1802, 0x01, 0x01, 0x09, 0, false, 0, 0, 0xFFFF, 0⟩,
  ⟨0x1803, 0x01, 0x08, 0x09, 0, false, 0, 0, 0xFFFF, 0⟩, ⟨0x1804, 0x01, 0x06, 0x0A, 0, false, 0, 0, 0xFFFF, 0⟩,
  ⟨0x1810, 0x01, 0x03, 0x04, 0, false, 0, 0, 0xFFFFFFFF, 0⟩, ⟨0x1811, 0x01, 0x01, 0x0D, 0, false, 0, 0, 0, 2048⟩,
  ⟨0x1811, 0x02, 0x02, 0x05, 0, false, 0, 0, 2 ^ 64 - 1, 0⟩]

/-- Starts, keys, microcode, worlds, contexts, remote operations, Cowslip, host and debug (R437, R195, R154, R162, R165,
R172, R180, R197, R36, R84, R98, R322, R363, R418, R463). -/
def dictD : List DEnt := [
  ⟨0x2000, 0x01, 0x02, 0x0B, 0, false, 0, 0, 255, 0⟩, ⟨0x2000, 0x03, 0x03, 0x02, 0, false, 0, 0, 255, 0⟩,
  ⟨0x2000, 0x04, 0x04, 0x0B, 2, false, 0, 1, 4, 0⟩, ⟨0x2000, 0x05, 0x05, 0x02, 0, true, 0, 0, 255, 0⟩,
  ⟨0x2000, 0x06, 0x06, 0x04, 0, false, 0, 0, 0xFFFFFFFF, 0⟩, ⟨0x2000, 0x07, 0x08, 0x04, 0, true, 0, 0, 0xFFFFFFFF, 0⟩,
  ⟨0x2000, 0x09, 0x09, 0x0B, 0, false, 0, 0, 2, 0⟩, ⟨0x2010, 0x01, 0x01, 0x0D, 3, false, 0, 0, 0, 48⟩,
  ⟨0x2010, 0x02, 0x02, 0x0B, 0, false, 0, 0, 1, 0⟩, ⟨0x2010, 0x03, 0x03, 0x03, 3, true, 0, 0, 0xFFFF, 0⟩,
  ⟨0x2010, 0x04, 0x04, 0x02, 0, false, 0, 0, 255, 0⟩,
  ⟨0x2020, 0x01, 0x01, 0x04, 0, false, 0xB00, 0, 0xFFFFFFFF, 0⟩, ⟨0x2020, 0x02, 0x02, 0x04, 0, false, 0, 0, 0xFFFFFFFF, 0⟩,
  ⟨0x2020, 0x03, 0x03, 0x0B, 0, false, 0, 0, 2, 0⟩, ⟨0x2020, 0x04, 0x04, 0x02, 0, false, 0, 0, 255, 0⟩,
  ⟨0x2030, 0x01, 0x01, 0x0D, 0, false, 0, 0, 0, 4096⟩,
  ⟨0x3000, 0x01, 0x10, 0x05, 3, false, 0, 0, 2 ^ 64 - 1, 0⟩, ⟨0x3000, 0x20, 0x20, 0x03, 3, false, 0, 0, 0xFFFF, 0⟩,
  ⟨0x3000, 0x21, 0x21, 0x03, 3, false, 0x3F, 0, 0xFFFF, 0⟩, ⟨0x3000, 0x22, 0x22, 0x02, 3, false, 3, 0, 255, 0⟩,
  ⟨0x3010, 0x01, 0x03, 0x05, 3, false, 0, 0, 2 ^ 64 - 1, 0⟩, ⟨0x3010, 0x04, 0x04, 0x02, 0, false, 0, 0, 255, 0⟩,
  ⟨0x3020, 0x01, 0x02, 0x05, 3, false, 0, 0, 2 ^ 64 - 1, 0⟩, ⟨0x3020, 0x03, 0x03, 0x02, 0, false, 0, 0, 255, 0⟩,
  ⟨0x3040, 0x01, 0x20, 0x05, 3, false, 0, 0, 2 ^ 64 - 1, 0⟩, ⟨0x3041, 0x01, 0x20, 0x04, 3, false, 0, 0, 0xFFFFFFFF, 0⟩,
  ⟨0x3042, 0x01, 0x20, 0x05, 3, false, 0, 0, 2 ^ 64 - 1, 0⟩, ⟨0x3043, 0x01, 0x20, 0x04, 3, false, 0, 0, 0xFFFFFFFF, 0⟩,
  ⟨0x3080, 0x00, 0xFF, 0x04, 3, false, 0, 0, 0xFFFFFFFF, 0⟩,
  ⟨0x3100, 0x01, 0x02, 0x01, 4, false, 1, 0, 1, 0⟩, ⟨0x3100, 0x03, 0x04, 0x05, 3, false, 0, 0, 2 ^ 64 - 1, 0⟩,
  ⟨0x3100, 0x05, 0x05, 0x02, 0, false, 0, 0, 255, 0⟩,
  ⟨0x3200, 0x01, 0x01, 0x02, 4, false, 32, 0, 128, 0⟩, ⟨0x3200, 0x02, 0x02, 0x03, 4, false, 200, 0, 0xFFFF, 0⟩,
  ⟨0x3200, 0x03, 0x03, 0x04, 4, false, 65536, 0, 0xFFFFFFFF, 0⟩, ⟨0x3200, 0x04, 0x04, 0x03, 4, false, 30, 0, 0xFFFF, 0⟩,
  ⟨0x3200, 0x05, 0x05, 0x03, 4, false, 60, 0, 0xFFFF, 0⟩, ⟨0x3200, 0x06, 0x06, 0x03, 4, false, 300, 0, 0xFFFF, 0⟩,
  ⟨0x3200, 0x07, 0x07, 0x03, 4, false, 500, 0, 0xFFFF, 0⟩, ⟨0x3200, 0x08, 0x08, 0x03, 4, false, 4000, 0, 0xFFFF, 0⟩,
  ⟨0x3200, 0x09, 0x09, 0x02, 3, false, 1, 0, 4, 0⟩,
  ⟨0x3210, 0x01, 0x01, 0x04, 4, false, 200, 10, 1000000, 0⟩, ⟨0x3210, 0x02, 0x02, 0x02, 4, false, 3, 0, 255, 0⟩,
  ⟨0x3210, 0x03, 0x03, 0x04, 4, false, 10000, 100, 1000000, 0⟩, ⟨0x3210, 0x04, 0x04, 0x02, 3, false, 2, 0, 4, 0⟩,
  ⟨0x3220, 0x01, 0x01, 0x04, 4, false, 1000, 10, 10000000, 0⟩, ⟨0x3220, 0x02, 0x02, 0x04, 4, false, 5, 1, 1000000, 0⟩,
  ⟨0x4001, 0x01, 0x01, 0x01, 3, false, 0, 0, 1, 0⟩, ⟨0x4010, 0x01, 0x10, 0x05, 4, false, 0, 0, 2 ^ 64 - 1, 0⟩,
  ⟨0x4011, 0x01, 0x10, 0x04, 4, false, 0, 0, 0xFFFFFFFF, 0⟩, ⟨0x4020, 0x01, 0x01, 0x05, 2, false, 0, 0, 2 ^ 64 - 1, 0⟩]

/-- Every entry of the dictionary, in ascending order. -/
def dictTable : List DEnt := dictA ++ (dictB ++ (dictC ++ dictD))

/-- The entry of an index and a subindex. -/
def dictEntry (i j : Nat) : Option DEnt := dictTable.find? fun e => e.index == i && (decide (e.lo ≤ j) && decide (j ≤ e.hi))

/-- The default of an entry. -/
def dictDefault (i j : Nat) : Nat :=
  match dictEntry i j with
  | some e => e.dflt
  | none => 0

/-- The value an entry holds, as a number. -/
def dval (s : State) (i j : Nat) : Nat := (tget s.mg.dict (i * 256 + j)).getD (dictDefault i j)

/-- The state with an entry's value. -/
def setDval (s : State) (i j v : Nat) : State := { s with mg := { s.mg with dict := tset s.mg.dict (i * 256 + j) v } }

/-- A counter entry of 64 bits, increased by n modulo 2^64. -/
def countUp (s : State) (i j n : Nat) : State := setDval s i j ((dval s i j + n) % 2 ^ 64)

/-- The first entry after an index and subindex, with its subindex (R457 NEXT). -/
def dictNext (i j : Nat) : Option (DEnt × Nat) :=
  (dictTable.findSome? fun e =>
    if decide (e.index < i) || (e.index == i && decide (e.hi ≤ j)) then none
    else if e.index == i && decide (e.lo ≤ j) then some (e, j + 1) else some (e, e.lo))

end Sys2Proof.Machine
end

