-- ==== Sys2Proof/Machine/Ops.lean ====
section
/-! DEFINITION. Named operations over the parts of State that every meaning uses: access to contexts, cores, tiles and
blocks, the fault log, interrupts, doorbells, the slot scheduler, and taking and leaving exceptions. -/

namespace Sys2Proof.Machine

/-- The outcome of a command. -/
abbrev Out := Host.Outcome State Fault Refusal

/-! ## Parts of State -/

def State.ctx (s : State) (n : Nat) : Ctx := tgetD s.ctxs n {}
def State.setCtx (s : State) (n : Nat) (c : Ctx) : State := { s with ctxs := tset s.ctxs n c }
def State.modCtx (s : State) (n : Nat) (f : Ctx → Ctx) : State := s.setCtx n (f (s.ctx n))
def State.core (s : State) (n : Nat) : Core := tgetD s.cores n {}
def State.setCore (s : State) (n : Nat) (c : Core) : State := { s with cores := tset s.cores n c }
def State.modCore (s : State) (n : Nat) (f : Core → Core) : State := s.setCore n (f (s.core n))
def State.tile (s : State) (n : Nat) : Tile := tgetD s.tiles n {}
def State.setTile (s : State) (n : Nat) (t : Tile) : State := { s with tiles := tset s.tiles n t }
def State.modTile (s : State) (n : Nat) (f : Tile → Tile) : State := s.setTile n (f (s.tile n))
def State.chan (s : State) (n : Nat) : Chan := tgetD s.chans n {}
def State.setChan (s : State) (n : Nat) (c : Chan) : State := { s with chans := tset s.chans n c }
def State.sq (s : State) (n : Nat) : Seq := tgetD s.seqs n {}
def State.setSq (s : State) (n : Nat) (q : Seq) : State := { s with seqs := tset s.seqs n q }
def State.port (s : State) (n : Nat) : Port := tgetD s.ports n {}
def State.setPort (s : State) (n : Nat) (p : Port) : State := { s with ports := tset s.ports n p }
def State.group (s : State) (n : Nat) : Group := tgetD s.groups n {}
def State.setGroup (s : State) (n : Nat) (g : Group) : State := { s with groups := tset s.groups n g }
def State.mc (s : State) (n : Nat) : Mc := tgetD s.mem.mcs n {}
def State.setMc (s : State) (n : Nat) (m : Mc) : State := { s with mem := { s.mem with mcs := tset s.mem.mcs n m } }
def State.world (s : State) (w : World) : WorldSt := match w with | .sys => s.ws | .job => s.wj
def State.setWorld (s : State) (w : World) (v : WorldSt) : State :=
  match w with
  | .sys => { s with ws := v }
  | .job => { s with wj := v }

/-- A DDR5 channel belongs to the served set (R285). -/
def served (s : State) (c : Nat) : Bool := s.mem.farN == 16 || (s.mem.farN == 8 && (c % 2 == 1) == s.mem.farOdd)

/-- A start trigger is being acted on: it has precedence over SAFE (R443). -/
def starting (s : State) : Bool := match s.mg.trans with | some t => t.target == .loader | none => false

/-- MC_STAT.state (R295), as the mode gives it (R438, R420, R507): 0 absent, 1 training, 2 in service, 3 self-refresh. A
start under way has left memory in self-refresh when it is warm, and without power when it is cold. -/
def mcState (s : State) (mc : Nat) : Nat :=
  let held := if s.mg.start.pendWarm then 3 else 0
  if s.mg.mode = .bringup then 1
  else if 8 ≤ mc ∧ !served s (mc - 8) then 0
  else if starting s then (if s.mg.start.wbDone then held else 2)
  else
    match s.mg.mode with
    | .off | .standby => 0
    | .loader => held
    | .drowse | .safe => 3
    | _ => 2

/-- The same state on the next occasion for free choices. -/
def State.tick (s : State) : State := { s with free := s.free + 1 }

/-- The core of a context (R53). -/
def coreOf (lcn : Nat) : Nat := lcn / 160

/-- The tile of a core (R14). -/
def tileOf (core : Nat) : Nat := core / 8

/-- Whether a core is in service. -/
def coreLive (s : State) (c : Nat) : Bool :=
  decide (c < 256) && (!(s.core c).dead && (!((s.core c).life == .retired) && !(s.tile (tileOf c)).dead))

/-- The modes in which contexts issue, and those in which the FICs run (R438). -/
def issuing (m : Mode) : Bool := m == .service || (m == .degraded || m == .recovery)
def ficRuns (m : Mode) : Bool := issuing m || (m == .quiesce || m == .hold)

/-! ## Transitions of the mode: their start (R441 to R443) -/

/-- The domains (R448) whose blocks a transition commands: the live tiles, Valley and Cowslip. -/
def affected (s : State) : List Nat :=
  ((List.range 32).filter fun t => !(s.tile t).dead && !((s.tile t).power == .off))
    ++ [72, 73].filter fun d => tgetD s.mg.pd d .off == .on

/-- A transition begins, or its target waits until the one in progress ends (R443). -/
def beginTrans (s : State) (target base : Mode) : State :=
  match s.mg.trans with
  | none => { s with mg := { s.mg with trans := some ⟨target, base, affected s⟩ } }
  | some _ => { s with mg := { s.mg with waiting := s.mg.waiting ++ [target] } }

/-- The mode in which a tile handles what crosses into it (R21): the new one once it has acknowledged a transition. -/
def modeAt (s : State) (t : Nat) : Mode :=
  match s.mg.trans with
  | some x => if x.target ≠ .loader ∧ x.target ≠ .standby ∧ x.waiting.contains t = false then x.target else s.mg.mode
  | none => s.mg.mode

/-- The modes that discard doorbells (R439). -/
def noBells (m : Mode) : Bool := m == .bringup || (m == .selftest || m == .safe)

/-- A wake event of R445: in DROWSE it begins the transition to the base mode; on the way to DROWSE it waits, as SERVICE (R443). -/
def wakeDevice (s : State) : State :=
  match s.mg.trans with
  | none => if s.mg.mode = .drowse then beginTrans s s.mg.base s.mg.base else s
  | some t => if t.target = .drowse ∧ s.mg.waiting.contains .service = false then beginTrans s .service .service else s

/-- Starts the fast clock of a sleeping tile (R22, R445). -/
def wakeTile (s : State) (t : Nat) : State :=
  if (s.tile t).power = .nap ∨ (s.tile t).power = .doze then s.modTile t fun x => { x with waking := true } else s

/-! ## Doorbells and the slot scheduler (R62 to R77) -/

/-- A FIXNUM word. -/
def fixW (n : Nat) : W := ⟨0x001, BitVec.ofNat 64 n⟩

/-- A RAW word. -/
def rawW (n : Nat) : W := ⟨0x006, BitVec.ofNat 64 n⟩

/-- The table and key that hold a general register of a context (R59, R60, R85, R86, R95): the globals, the ring or the
trap window; g0 has none. -/
inductive RegAt where
  | zero | g (k : Nat) | ring (k : Nat) | trap (k : Nat)
  deriving DecidableEq, Repr

/-- Where register r of a context lies in the current window. -/
def regAt (c : Ctx) (r : Nat) : RegAt :=
  if r = 0 then .zero
  else if r < 8 then .g (r - 1)
  else if r < 16 then .ring (16 * (if c.r.tw then c.r.wp.toNat else (c.r.wp.toNat + 3) % 4) + r)
  else if r < 24 then (if c.r.tw then .trap (r - 16) else .ring (16 * c.r.wp.toNat + (r - 16)))
  else .ring (16 * c.r.wp.toNat + (r - 16))

/-- Reads a general register of a context. -/
def ctxReg (c : Ctx) (r : Nat) : W :=
  match regAt c r with
  | .zero => nilW
  | .g k => tgetD c.g k nilW
  | .ring k => tgetD c.ring k nilW
  | .trap k => tgetD c.trap k nilW

/-- Writes a general register of a context; a write of g0 is discarded. -/
def setCtxReg (c : Ctx) (r : Nat) (v : W) : Ctx :=
  match regAt c r with
  | .zero => c
  | .g k => { c with g := tset c.g k v }
  | .ring k => { c with ring := tset c.ring k v }
  | .trap k => { c with trap := tset c.trap k v }

/-- The first free slot of a core for which no swap is queued. -/
def freeSlot (c : Core) : Option Nat :=
  (List.range 16).find? fun k => (tget c.slots k).isNone && (c.testing != some k && !(c.swaps.any fun w => w.slot == k))

/-- Queues a swap into a free slot when more contexts are ready than the queued swaps will take (R63). -/
def fillSlot (c : Core) : Core :=
  if (c.swaps.filter fun w => !w.started).length < c.readyQ.length ∧ !c.halting then
    match freeSlot c with
    | some k => { c with swaps := c.swaps ++ [{ slot := k, out := none, goal := .ready }] }
    | none => c
  else c

/-- A context that occupies no slot becomes READY, at the tail of the queue of its priority (R63). -/
def makeReady (s : State) (n : Nat) : State :=
  let s := s.modCtx n fun c => { c with dir := { c.dir with state := .ready } }
  let s := s.modCore (coreOf n) fun c => fillSlot { c with readyQ := c.readyQ ++ [n] }
  wakeTile s (tileOf (coreOf n))

/-- The end of a context's wait (R62): it becomes READY, or is READY when it is released, or when its swap-out ends. -/
def endWait (s : State) (n : Nat) : State :=
  let c := s.ctx n
  let s := s.setCtx n { c with dir := { c.dir with wait := 0, deadline := 0 }, monitor := none }
  match c.dir.state with
  | .waitMem | .waitEvent => makeReady s n
  | .held => s.modCtx n fun c => { c with dir := { c.dir with heldFrom := .ready } }
  | .active => s.modCore (coreOf n) fun k =>
      { k with swaps := k.swaps.map fun w => if w.out = some n then { w with goal := .ready } else w }
  | _ => s

/-- A context leaves ACTIVE or READY for another state at an instruction boundary (R62): it issues nothing more, and the slot it
holds becomes free through a swap-out, in the order of the core's swaps (R71). -/
def vacate (s : State) (n : Nat) : State :=
  let c := s.ctx n
  let s := s.setCtx n { c with stopped := c.slot.isSome }
  s.modCore (coreOf n) fun k =>
    let swaps := k.swaps.map fun w => { w with inc := if w.inc = some n then none else w.inc }
    { k with swaps := match c.slot with
               | some j => if swaps.any fun w => w.out == some n then swaps else swaps ++ [{ slot := j, out := some n, goal := .ready }]
               | none => swaps,
             readyQ := k.readyQ.filter fun m => m != n }

/-- Queues the swap-out of an ACTIVE context to a state; it stops issuing (R71). -/
def queueSwap (s : State) (n : Nat) (st : CState) : State :=
  let c := s.ctx n
  match c.slot with
  | some k => (s.setCtx n { c with stopped := true }).modCore (coreOf n) fun q =>
      { q with swaps := q.swaps ++ [{ slot := k, out := some n, goal := st }] }
  | none => s

/-- An ACTIVE context is at an instruction boundary when no access of it is pending; it is then swapped out to READY (R63, R189). -/
def swapOutReady (s : State) (n : Nat) : State := if (s.ctx n).pend.isSome then s else queueSwap s n .ready

/-- The target of DB_RING discards the write (R76). -/
def discardRing (s : State) : State := countUp s 0x1800 0x20 1

/-- Sends a message into the fabric. -/
def sendMsg (s : State) (m : Sent) : State := { s with remote := { s.remote with sent := s.remote.sent ++ [m] } }

/-- This device's number (R336), as the last entry to SERVICE took it. -/
def devNo (s : State) : BitVec 16 := s.svc.coord

/-- Enters a notice in a world's MOVED ring (R320). -/
def movedNotice (s : State) (w : World) (oldId : BitVec 32) (oldGen : BitVec 16) (newId : BitVec 32) (newGen : BitVec 16) :
    State :=
  let x := s.world w
  if (x.prod - x.cons).toNat = 64 then
    s.setWorld w { x with lost := if x.lost = 0xFFFFFFFF then x.lost else x.lost + 1 }
  else s.setWorld w { x with prod := x.prod + 1, ring := tset x.ring (x.prod.toNat % 64) (oldGen ++ oldId, newGen ++ newId) }

/-- The message a stub forwards (R319). -/
def forwardDoorbell (s : State) (st : Stub) (w : World) (events : BitVec 16) (origin : BitVec 16) (hops : BitVec 3) : State :=
  let dest := st.newId.extractLsb' 16 16
  sendMsg s ⟨⟨dest, devNo s, 0xFFFF, w, true, 0, 0⟩, 6, .doorbell (st.newId.extractLsb' 0 16) st.newGen events origin hops⟩

/-- Sets event bits of a context, without a world check: the outcome by the target's state (R73, R76, R319). -/
def ringBits (s : State) (n : Nat) (ev : BitVec 16) : State :=
  let c := s.ctx n
  let s := wakeDevice s
  if c.dir.state = .free ∨ c.dir.dying ∨ 40960 ≤ n then discardRing s
  else if c.dir.state = .stub then
    match tget s.remote.stubs c.dir.stub.toNat with
    | some st => movedNotice (forwardDoorbell s st c.dir.owner ev (devNo s) 0) c.dir.owner
        ((devNo s) ++ BitVec.ofNat 16 n) st.oldGen st.newId st.newGen
    | none => discardRing s
  else
    let s := wakeTile s (tileOf (coreOf n))
    let all := c.dir.events ||| ev
    let hit := (if c.dir.state = .held then ev else all) &&& c.dir.mask
    if c.dir.wait = 4 ∧ hit ≠ 0 then
      let c := setCtxReg { c with dir := { c.dir with events := all &&& ~~~hit } } c.waitRd.toNat (fixW hit.toNat)
      endWait (s.setCtx n c) n
    else s.setCtx n { c with dir := { c.dir with events := all } }

/-! ## Interrupt sources and the fault log (R179 to R182, R481) -/

/-- Sets a source pending at the FIC of a core (R181). -/
def pendFic (s : State) (core src : Nat) (info : BitVec 64) : State :=
  wakeTile (s.modCore core fun c => { c with fic := { c.fic with pending := tset c.fic.pending src info } }) (tileOf core)

/-- Event bits of a sequencer are set; a WAITE on one of them ends (R397). -/
def seqEvent (s : State) (k : Nat) (ev : BitVec 16) : State :=
  let q := s.sq k
  let all := q.events ||| ev
  match q.waitM with
  | some (mask, dst) =>
    let hit := all &&& mask
    if hit = 0 then s.setSq k { q with events := all }
    else s.setSq k { q with events := all &&& ~~~hit, waitM := none, st := .running, pc := q.pc + 1,
                            q := match dst with | some r => tset q.q r.toNat (fixW hit.toNat) | none => q.q }
  | none => s.setSq k { q with events := all }

/-- A source signals and is routed to a FIC, a doorbell or a sequencer (R180, R399). -/
def signal (s : State) (src : Nat) (info : BitVec 64) : State :=
  let s := wakeDevice s
  let r := dval s 0x3080 src
  if r % 4 = 1 then (if s.svc.ficVec.isSome then pendFic s (r / 4 % 256) src info else s)
  else if r % 4 = 2 then
    let n := r / 1024 % 65536
    let ev : BitVec 16 := 1 <<< (r / 2 ^ 26 % 16)
    if 0xFF00 ≤ n ∧ n < 0xFF64 then seqEvent s (n - 0xFF00) ev else ringBits s n ev
  else s

/-- Sends an MSI-X vector; a masked one becomes pending (R415, PCIe 6.0). -/
def msix (s : State) (v : Nat) : State :=
  let x := tgetD s.host.vecs v {}
  if x.mask ∨ !s.host.master then { s with host := { s.host with vecs := tset s.host.vecs v { x with pba := true } } }
  else { s with host := { s.host with sentMsi := s.host.sentMsi ++ [BitVec.ofNat 11 v] } }

/-- The PCIe link changes, or AER reports an error: source 0xA3 (R179). Its detail is stated nowhere: a free value. -/
def pcieEvent (s : State) : State := signal s 0xA3 (Config.freeValue s.free 4)

/-- The state of the PCIe link (R407); a change is an event of source 0xA3. -/
def setLink (s : State) (v : BitVec 2) : State :=
  if s.host.link = v then s else pcieEvent { s with host := { s.host with link := v } }

/-- The causes for which R416 names an AER status. BAR0 refusals (REGBLOCK) are reported for reads alone. -/
def aerCause (cause : Nat) : Bool := decide (2 ≤ cause) && (decide (cause ≤ 8) && cause != 5)

/-- A host-interface error is recorded (R416), and reported through AER where the table names a status. -/
def hostError (s : State) (off bar cause : Nat) : State :=
  let s := countUp s 0x1800 0x61 1
  let s := { s with host := { s.host with errOff := BitVec.ofNat 40 off, errBar := BitVec.ofNat 3 bar, errCause := BitVec.ofNat 8 cause,
                                          errCnt := if s.host.errCnt = 0xFFFFFFFF then s.host.errCnt else s.host.errCnt + 1 } }
  let s := if aerCause cause then pcieEvent s else s
  msix s 4

/-- A fault record (R481): its number, the class seen, the notice and the interrupts of R480. The reaction is given. -/
def logFault (s : State) (cls react unit : Nat) (site : Nat) (addr : BitVec 64) (detail : List (BitVec 8)) : State :=
  let r : FRec := ⟨s.sark.nextSeq, BitVec.ofNat 8 cls, BitVec.ofNat 8 react, s.mg.mode,
    BitVec.ofNat 32 (dval s 0x2000 0x07 + dval s 0x2000 0x08 + 1), BitVec.ofNat 16 unit, BitVec.ofNat 16 site, addr, detail⟩
  let full := decide (256 ≤ s.sark.waiting.length)
  let s := setDval s 0x1000 0x01 (dval s 0x1000 0x01 ||| 2 ^ cls)
  let s := if full then countUp s 0x1003 0x01 1 else s
  let s := { s with sark := { s.sark with nextSeq := s.sark.nextSeq + 1, last := some r,
                                          waiting := if full then s.sark.waiting else s.sark.waiting ++ [r] } }
  msix (signal s 0xA1 (BitVec.ofNat 64 (r.seq.toNat + 2 ^ 32 * cls))) 2

/-- Distinct members of a list, drawn one after another: which is free (R463). -/
def drawSites (tile : Nat) (n : Nat) (left : List Nat) : List Nat :=
  match n with
  | 0 => []
  | n + 1 =>
    let j := left.getD (Config.factorySite (16 * tile + n) % max 1 left.length) 0
    j :: drawSites tile n (left.erase j)

/-- The repair map that a tile had at manufacture (R463): its eight logical cores on eight distinct sites of its nine. -/
def factoryMap (tile : Nat) : List Nat := drawSites tile 8 (List.range 9)

/-- Site of a logical core (R14): the repair map. -/
def siteOf (s : State) (c : Nat) : Nat :=
  match (s.core c).site with
  | some k => k
  | none => tileOf c * 9 + (factoryMap (tileOf c)).getD (c % 8) 0

/-- The logical core of a site, if one is bound to it. -/
def coreOn (s : State) (site : Nat) : Option Nat := (List.range 256).find? fun c => siteOf s c == site

/-- A record lies in a Thatch bank that was withdrawn at its core's site (R486). -/
def withdrawnRec (s : State) (n : Nat) : Bool := s.sark.withdrawn.contains (siteOf s (coreOf n) * 16 + n % 160 / 16)

/-! ## Exceptions of contexts (R166, R167, R177) and of the FIC (R105) -/

/-- xpc, xstat and xvalid of a world. -/
def Rec.xpc (r : Rec) (w : World) : BitVec 59 := match w with | .sys => r.xpcS | .job => r.xpcJ
def Rec.xstat (r : Rec) (w : World) : BitVec 32 := match w with | .sys => r.xstatS | .job => r.xstatJ
def Rec.xvalid (r : Rec) (w : World) : Bool := match w with | .sys => r.xvalidS | .job => r.xvalidJ
def Rec.setXpc (r : Rec) (w : World) (v : BitVec 59) : Rec := match w with | .sys => { r with xpcS := v } | .job => { r with xpcJ := v }
def Rec.setXstat (r : Rec) (w : World) (v : BitVec 32) : Rec := match w with | .sys => { r with xstatS := v } | .job => { r with xstatJ := v }
def Rec.setXvalid (r : Rec) (w : World) (v : Bool) : Rec := match w with | .sys => { r with xvalidS := v } | .job => { r with xvalidJ := v }

/-- Fields of ctx_stat (R161). -/
def Rec.world (r : Rec) : World := if r.ctxStat.getLsbD 0 then .job else .sys
def Rec.sup (r : Rec) : Bool := r.ctxStat.getLsbD 1
def Rec.space (r : Rec) : BitVec 12 := r.ctxStat.extractLsb' 2 12
def Rec.gateOpen (r : Rec) : Bool := r.ctxStat.getLsbD 14
def Rec.token (r : Rec) : BitVec 4 := r.ctxStat.extractLsb' 15 4
def Rec.gate (r : Rec) : BitVec 5 := r.ctxStat.extractLsb' 19 5
def Rec.wsup (r : Rec) : Bool := r.ctxStat.getLsbD 24

/-- The vector of a world, as the last entry to SERVICE checked it (R165). -/
def vector (s : State) (w : World) : Option (BitVec 59) := match w with | .sys => s.svc.vecS | .job => s.svc.vecJ

/-- The saved status of an exception entry (R166, R168): the low 15 bits are world, level, space and tw. -/
def savedStat (r : Rec) (gframe : Bool) (token : Nat) (wfix : Nat) : BitVec 32 :=
  BitVec.ofNat 32 (r.ctxStat.toNat % 2 ^ 14 + 2 ^ 14 * b2n r.tw + 2 ^ 15 * b2n gframe + 2 ^ 16 * token + 2 ^ 21 * wfix)

/-- An exception that cannot be delivered (R167): the context enters LOCKUP, LOCKUP_N asserts, Sarking logs it. -/
def lockup (s : State) (n : Nat) (cause : Nat) : State :=
  let held := (s.ctx n).r.xcause
  let s := vacate s n
  let s := s.modCtx n fun c => { c with dir := { c.dir with state := .lockup, fault := false }, pend := none, exn := none }
  let s := { s with pins := { s.pins with lockup := true } }
  let s := s.modCore (coreOf n) fillSlot
  logFault s 0x13 0 (coreOf n) (siteOf s (coreOf n)) 0 (toBytes n 4 ++ [BitVec.ofNat 8 cause, held])

/-- Counter k of a core counts an event (R114): of a context in the counters of its world, at the level and slot that pmsel
selects; an event of no context in pmc0 to pmc3. -/
def countsEvent (sel : BitVec 32) (k : Nat) (who : Option (World × Bool × Nat)) (ev : Nat) : Bool :=
  let mine : Bool := match who with
    | none => decide (k < 4)
    | some w => k / 4 == w.1.num && ((if w.2.1 then sel.getLsbD 10 else sel.getLsbD 9) && sel.getLsbD (16 + w.2.2))
  sel.toNat % 256 == ev && (sel.getLsbD 8 && mine)

/-- Counter k of a core takes an event (R114, R115): a counter that wraps sets its overflow bit and may interrupt. -/
def countOne (core : Nat) (who : Option (World × Bool × Nat)) (ev : Nat) (s : State) (k : Nat) : State :=
  let c := s.core core
  let sel := tgetD c.pmsel k 0xFFFF0000
  if countsEvent sel k who ev then
    let v := tgetD c.pmc k 0
    let s := s.setCore core { c with pmc := tset c.pmc k (v + 1),
                                     pmsel := if v = 0xFFFFFFFFFFFF then tset c.pmsel k (sel ||| 0x1000) else c.pmsel }
    if v = 0xFFFFFFFFFFFF ∧ sel.getLsbD 11 = true ∧ s.svc.ficVec.isSome then pendFic s core 0xB0 (Config.freeValue s.free 3) else s
  else s

/-- The counts of a performance counter event in the eight counters of a core (R114). -/
def countEvent (s : State) (core : Nat) (who : Option (World × Bool × Nat)) (ev : Nat) : State :=
  if (s.core core).pmsel = [] then s else (List.range 8).foldl (countOne core who ev) s

/-- The attribution of an event of a context (R114). -/
def evWho (c : Ctx) : Option (World × Bool × Nat) := some (c.r.world, c.r.sup, c.slot.getD 0)

/-- The window adjustment that an entry records (R93). -/
def wfixOf (cause : Nat) : Nat := if cause = 0x11 then 1 else if cause = 0x12 then 2 else 0

/-- The performance events of an exception entry (R115). -/
def entryEvents (s : State) (n : Nat) (cause : Nat) : State :=
  let c := s.ctx n
  let k := coreOf n
  let s := countEvent s k (evWho c) 0x1B
  let s := if cause = 0x05 then countEvent s k (evWho c) 0x1E else s
  let s := if cause = 0x10 then countEvent s k (evWho c) 0x18 else s
  let s := if cause = 0x11 then countEvent s k (evWho c) 0x19 else s
  if cause = 0x12 then countEvent s k (evWho c) 0x1A else s

/-- Enters the current world's supervisor at an address (R166; R157 for a dispatch). -/
def enterAt (c : Ctx) (e : Exn) (pc : BitVec 59) : Ctx :=
  let w := c.r.world
  let r := (c.r.setXpc w c.r.pc).setXstat w (savedStat c.r false 0 (wfixOf e.cause.toNat))
  let r := r.setXvalid w true
  { c with r := { r with xcause := e.cause, xaddr := e.addr, xinfo := e.info, tw := true, pc := pc,
                         ctxStat := (r.ctxStat ||| 2) &&& ~~~(0x1000000 : BitVec 32) } }

/-- Takes an exception of a context (R166), at the vector of its cause or, for a dispatch, at a handler (R157). -/
def enter (s : State) (n : Nat) (e : Exn) : State :=
  let c := s.ctx n
  match vector s c.r.world with
  | none => lockup s n e.cause.toNat
  | some v =>
    if c.r.xvalid c.r.world then lockup s n e.cause.toNat
    else
      let s := entryEvents s n e.cause.toNat
      s.setCtx n (enterAt c e (e.handler.getD (v + BitVec.ofNat 59 (0x40 * e.cause.toNat))))

/-- ILLEGAL_RETURN (R177): the vector is entered and only xcause, xaddr, xinfo and pc change. -/
def illegalReturn (s : State) (n : Nat) (sub : Nat) : State :=
  let c := s.ctx n
  match vector s c.r.world with
  | none => lockup s n 0x18
  | some v =>
    let s := entryEvents s n 0x18
    s.setCtx n { c with r := { c.r with xcause := 0x18, xaddr := c.r.pc, xinfo := BitVec.ofNat 64 sub,
                                        pc := v + BitVec.ofNat 59 (0x40 * 0x18) } }

/-- An exception in the fast interrupt context (R105). -/
def ficLockup (s : State) (core : Nat) (cause : Nat) : State :=
  let s := s.modCore core fun c => { c with fic := { c.fic with mode := .lockup, pend := none } }
  let s := { s with pins := { s.pins with lockup := true } }
  logFault s 0x13 0 core (siteOf s core) 0 ([0, 0, 0, 0, BitVec.ofNat 8 cause, 0])

/-- Raises an exception of whoever executes. -/
def raise (s : State) (x : Exec) (e : Exn) : State :=
  match x with
  | .ctx n => if e.cause = 0x18 then illegalReturn s n.toNat e.info.toNat else enter s n.toNat e
  | .fic k => ficLockup s k.toNat e.cause.toNat

/-- The window adjustment of an ordinary return (R93). -/
def applyWfix (vwc : BitVec 3) (wfix : Nat) : BitVec 3 :=
  if wfix = 1 then (if 1 < vwc.toNat then vwc - 1 else vwc) else if wfix = 2 then (if vwc.toNat < 4 then vwc + 1 else vwc) else vwc

/-- The status a return restores from a saved status (R176): world, level and space; wsup as given. -/
def restoreStat (stat sv : BitVec 32) (wsup : Bool) : BitVec 32 :=
  BitVec.ofNat 32 (stat.toNat / 2 ^ 14 * 2 ^ 14 % 2 ^ 24 + sv.toNat % 2 ^ 14 + 2 ^ 24 * b2n wsup)

/-- RETX of a context (R176): the context after it, or the subcode of ILLEGAL_RETURN. -/
def retx (c : Ctx) : Except Nat Ctx :=
  let w := c.r.world
  let t := w.other
  if c.r.xvalid w then
    let sv := c.r.xstat w
    if worldOf (b2n (sv.getLsbD 0)) ≠ w ∨ sv.getLsbD 15 = true then .error 2
    else
      let r := { c.r with ctxStat := restoreStat c.r.ctxStat sv (sv.getLsbD 20), tw := sv.getLsbD 14,
                          vwc := applyWfix c.r.vwc (bitsN sv 21 2), pc := c.r.xpc w }
      .ok { c with r := r.setXvalid w false }
  else if c.r.gateOpen ∧ c.r.xvalid t then
    let sv := c.r.xstat t
    if worldOf (b2n (sv.getLsbD 0)) ≠ t ∨ t ≠ c.dir.owner ∨ sv.getLsbD 15 = false then .error 2
    else if bitsN sv 16 4 ≠ c.r.token.toNat then .error 3
    else
      let st := restoreStat c.r.ctxStat sv false
      let r := { c.r with ctxStat := putN (putN st 14 1 0) 19 5 0, tw := sv.getLsbD 14, pc := c.r.xpc t }
      .ok { c with r := r.setXvalid t false }
  else .error 1

/-! ## Ending contexts (R54, R81) -/

/-- What the registers of a bank hold once its contents are discarded: the manual does not say, so free values. -/
def discarded (s : State) (bank : Nat) : Tbl (BitVec 64) :=
  (List.range 16).map fun i => (i, Config.freeValue s.free (64 + 16 * bank + i))

/-- The FP bank a context holds is unbound and its contents discarded; its claim ends (R81, R101). -/
def releaseBanks (s : State) (n : Nat) : State :=
  let c := s.ctx n
  let i := n % 160
  let s := s.setCtx n { c with r := { c.r with fpBound := false, fpBank := 0 } }
  s.modCore (coreOf n) fun k =>
    { k with holder := k.holder.filter (fun h => h.2.1 != i),
             claim := k.claim.filter (fun h => h.2 != i),
             fp := if c.r.fpBound then tset k.fp c.r.fpBank.toNat (discarded s c.r.fpBank.toNat) else k.fp }

/-- The transition of a record into FREE (R54): the generation was increased already for a dying record. -/
def becomeFree (s : State) (n : Nat) : State :=
  let s := releaseBanks s n
  s.modCtx n fun c => { c with dir := { c.dir with state := .free, gen := if c.dir.dying then c.dir.gen else c.dir.gen + 1,
                                                   dying := false, wait := 0, fault := false },
                               pend := none, exn := none, monitor := none, sfault := none, touch := none }

/-- A dying record becomes FREE once nothing of it is outstanding (R62). -/
def drainDone (c : Ctx) : Bool := c.dir.dying && (c.slot.isNone && (!c.dir.accessOut && c.dir.storesOut == 0))

/-- CTXKILL and CTXEND of a context (R81): out of its slot, dying, its generation increased at once. -/
def killCtx (s : State) (n : Nat) : State :=
  let s := releaseBanks (vacate s n) n
  let s := s.modCtx n fun c => { c with dir := { c.dir with dying := true, gen := c.dir.gen + 1, wait := 0 },
                                        pend := if c.dir.accessOut then c.pend else none, exn := none, monitor := none }
  s.modCore (coreOf n) fillSlot

/-- CTXHOLD (R80): the context is HELD; its wait, if any, continues. -/
def holdCtx (s : State) (n : Nat) : State :=
  let c := s.ctx n
  let from_ := match c.dir.state with
    | .active => if c.dir.wait = 4 then .waitEvent else if c.pend.isSome ∨ c.dir.wait ≠ 0 then .waitMem else .ready
    | st => st
  let wait := if c.pend.isSome ∧ c.dir.wait = 0 then 1 else c.dir.wait
  let s := vacate s n
  let s := s.modCtx n fun c => { c with dir := { c.dir with state := .held, heldFrom := from_, wait := wait } }
  s.modCore (coreOf n) fillSlot

/-- CTXREL (R62, R73): back to held_from, or READY; a WAIT whose bits match ends at the release. -/
def releaseCtx (s : State) (n : Nat) : State :=
  let c := s.ctx n
  match c.dir.heldFrom with
  | .waitEvent =>
    let s := s.setCtx n { c with dir := { c.dir with state := .waitEvent } }
    if c.dir.events &&& c.dir.mask ≠ 0 then ringBits s n 0 else s
  | .waitMem => s.setCtx n { c with dir := { c.dir with state := .waitMem } }
  | _ => makeReady s n

/-! ## Worlds, the partition and register space (R162 to R164, R276) -/

/-- Register space (R276). -/
def isReg (lpa : Nat) : Bool := decide (0x7F000000000 ≤ lpa) && decide (lpa < 0x80000000000)

/-- An LPA that exists as memory (R276). -/
def isMem (s : State) (lpa : Nat) : Bool :=
  decide (lpa < s.mem.farBytes) || (decide (0x40000000000 ≤ lpa) && decide (lpa < 0x43800000000))

/-- The owner bits of the descriptor that decides for an LPA (R162). -/
def partOwner (l : List (Nat × Nat × BitVec 2)) (lpa : Nat) : BitVec 2 :=
  match l.find? fun d => decide (d.1 ≤ lpa / 2 ^ 21) && decide (lpa / 2 ^ 21 ≤ d.2.1) with
  | some d => d.2.2
  | none => 0

/-- A world may access an LPA of memory (R163, R277). -/
def owns (s : State) (w : World) (lpa : Nat) : Bool :=
  isMem s lpa && (partOwner s.svc.parts lpa).getLsbD w.num

/-- A world may reach a block of register space (R164), apart from the rules of the blocks themselves. -/
def regBlockOk (s : State) (w : World) (lpa : Nat) : Bool :=
  match w with
  | .sys => true
  | .job =>
    let bit := fun i => decide (dval s 0x3000 0x20 / 2 ^ i % 2 = 1)
    let b := lpa / 2 ^ 32 - 0x7F0
    if 8 ≤ b then bit 5 else
    match b with
    | 0 => bit 0 | 1 => bit 1 | 2 => bit 2 | 3 => bit 3 | 4 => bit 4 | 6 => true
    | _ => false

/-! ## The persistent store (R483) -/

/-- Commits a record. -/
def persist (s : State) (kind : Nat) (payload : List (BitVec 8)) : State :=
  { s with sark := { s.sark with storeSeq := s.sark.storeSeq + 1,
                                 store := s.sark.store ++ [⟨BitVec.ofNat 16 kind, s.sark.storeSeq, payload, true⟩] } }

/-! ## Remote operations: the outstanding-operation table (R344) -/

/-- The lowest free slot of the table. -/
def freeOp (ops : Tbl OutOp) : Option Nat :=
  if 65536 ≤ ops.length then none
  else (List.range (ops.length + 1)).find? fun k => (tget ops k).isNone

/-- Takes a slot for an operation: the slot and its generation. -/
def takeOp (s : State) (o : OutOp) : Option (Nat × BitVec 16 × State) :=
  match freeOp s.remote.ops with
  | none => none
  | some k => some (k, tgetD s.remote.gens k 0, { s with remote := { s.remote with ops := tset s.remote.ops k o } })

/-- Frees a slot; its generation increases by 1. -/
def freeOpSlot (s : State) (k : Nat) : State :=
  { s with remote := { s.remote with ops := tdel s.remote.ops k, gens := tset s.remote.gens k (tgetD s.remote.gens k 0 + 1) } }

/-- A stored word is valid: its parity bit makes the number of ones even (R190). -/
def evenOnes (n v : Nat) : Bool := (List.range n).foldl (fun a i => a != v.testBit i) false == false

/-- A word with the parity bit that it is stored with, above its own bits. -/
def withParity (n v : Nat) : Nat := v + (if evenOnes n v then 0 else 2 ^ n)

end Sys2Proof.Machine
end

