-- ==== Sys2Proof/Machine/Codeword.lean ====
section
/-! DEFINITION. Stored codewords: the placement of line pairs in near and far memory (R280 to R287), the RS(80,74) code
(R45), the decoding of a codeword that is read (R46), correction, replacement and diagnosis (R47, R48, R291). A line is
named by its LPA divided by 64, a pair by its LPA divided by 128, a word by its LPA divided by 8. -/

namespace Sys2Proof.Machine

/-! ## The field and the code -/

/-- Product in GF(2^16) modulo x^16 + x^12 + x^3 + x + 1, by n steps of shift and add (R45). -/
def gfMulN (n : Nat) (a b : BitVec 16) : BitVec 16 :=
  match n with
  | 0 => 0
  | n + 1 =>
    let d := (a <<< 1) ^^^ (if a.getLsbD 15 then 0x100B else 0)
    (if b.getLsbD 0 then a else 0) ^^^ gfMulN n d (b >>> 1)

def gfMul (a b : BitVec 16) : BitVec 16 := gfMulN 16 a b

/-- Power. -/
def gfPow (a : BitVec 16) (n : Nat) : BitVec 16 :=
  match n with
  | 0 => 1
  | n + 1 => gfMul a (gfPow a n)

/-- Inverse: the product of a^2, a^4, ..., a^(2^15). -/
def gfInv (a : BitVec 16) : BitVec 16 :=
  (List.range 15).foldl (fun (p : BitVec 16 × BitVec 16) (_ : Nat) => (gfMul p.1 (gfMul p.2 p.2), gfMul p.2 p.2)) ((1 : BitVec 16), a) |>.1

/-- The locator of position k: α^(79 − k). -/
def locator (k : Nat) : BitVec 16 := gfPow 2 (79 - k)

/-- An error pattern: symbol positions with the values added to the stored codeword. -/
abbrev Err := List (Nat × BitVec 16)

/-- Syndrome S_i of an error pattern. -/
def syndrome (e : Err) (i : Nat) : BitVec 16 :=
  e.foldl (fun a p => a ^^^ gfMul p.2 (gfPow (locator p.1) i)) 0

/-- The coefficients of the product of (x + r) over r. -/
def rootsPoly (rs : List (BitVec 16)) : List (BitVec 16) :=
  rs.foldl (fun p r => List.zipWith (· ^^^ ·) (p.map (gfMul r) ++ [0]) (0 :: p)) [1]

/-- An error pattern plus a value at one position. -/
def errAdd (e : Err) (k : Nat) (v : BitVec 16) : Err :=
  let e' := match e.find? fun p => p.1 == k with
    | some p => e.map (fun (q : Nat × BitVec 16) => if q.1 = k then (k, p.2 ^^^ v) else q)
    | none => e ++ [(k, v)]
  List.filter (fun (p : Nat × BitVec 16) => p.2 != 0) e'

/-- Decoding (R46): what the pattern becomes, with whether a correction was made; none for an uncorrectable codeword. -/
def rsDecode (er : List Nat) (e : Err) : Option (Err × List (Nat × BitVec 16)) :=
  let s := (List.range 6).map (syndrome e)
  if er = [] then
    if s.all (· == 0) then some (e, [])
    else
      let s0 := s.getD 0 0
      match (List.range 80).find? fun k =>
          s0 != 0 && (List.range 5).all fun i => s.getD (i + 1) 0 == gfMul (locator k) (s.getD i 0) with
      | some k => some (errAdd e k s0, [(k, s0)])
      | none => none
  else
    let xs := er.map locator
    let g := rootsPoly xs
    let n := er.length
    -- the erasures explain the syndromes iff every window of them is orthogonal to the locator polynomial
    let ok := (List.range (6 - n)).all fun i =>
      ((List.range (n + 1)).foldl (fun a j => a ^^^ gfMul (g.getD j 0) (s.getD (i + j) 0)) (0 : BitVec 16)) == 0
    if !ok then none
    else
      let fix := er.map fun k =>
        let x := locator k
        let others := xs.filter (· != x)
        let p := rootsPoly others
        let num := (List.range p.length).foldl (fun a i => a ^^^ gfMul (p.getD i 0) (s.getD i 0)) (0 : BitVec 16)
        let den := others.foldl (fun a r => gfMul a (x ^^^ r)) (1 : BitVec 16)
        (k, gfMul num (gfInv den))
      some (fix.foldl (fun a p => errAdd a p.1 p.2) e, fix.filter fun p => p.2 != 0)

/-- The coefficients of g(x) (R45), that of x^0 first. -/
def generator : List (BitVec 16) := rootsPoly ((List.range 6).map (gfPow 2))

/-- One step of the division by g(x): the remainder r(x), coefficient of x^0 first, takes the next symbol of m(x). -/
def checkStep (r : List (BitVec 16)) (s : BitVec 16) : List (BitVec 16) :=
  let top := r.getD 5 0 ^^^ s
  List.zipWith (· ^^^ ·) (0 :: r.take 5) ((generator.take 6).map (gfMul top))

/-- The check symbols 74 to 79 of 74 data symbols (R45): symbol 79 − j is the coefficient of x^j of the remainder. -/
def checkSymbols (data : List (BitVec 16)) : List (BitVec 16) := (data.foldl checkStep (List.replicate 6 0)).reverse

/-! ## Lines and pairs as bits (R42, R44) -/

/-- The 592 bits of a line. -/
def lineBits (l : Line) : Nat :=
  (l.foldl (fun (a : Nat × Nat) w => (a.1 + w.payload.toNat * 2 ^ (64 * a.2) + w.tag.toNat * 2 ^ (512 + 10 * a.2), a.2 + 1)) (0, 0)).1

/-- The line of 592 bits. -/
def bitsLine (n : Nat) : Line :=
  (List.range 8).map fun i => ⟨BitVec.ofNat 10 (n / 2 ^ (512 + 10 * i)), BitVec.ofNat 64 (n / 2 ^ (64 * i))⟩

/-- The words of a line in memory. -/
def memLine (s : State) (line : Nat) : Line := (List.range 8).map fun i => tgetD s.mem.words (line * 8 + i) (dfltW s.mem.lost (line * 8 + i))

/-- Writes words from a key on. -/
def putWords (lost : Tbl W) (t : Tbl W) (k : Nat) (ws : List W) : Tbl W :=
  match ws with
  | [] => t
  | w :: r => putWords lost (memPut lost t k w) (k + 1) r

/-- Writes a line of memory, as valid codeword data. -/
def setMemLine (s : State) (line : Nat) (l : Line) : State :=
  { s with mem := { s.mem with words := putWords s.mem.lost s.mem.words (line * 8) l } }

/-- The 160 bytes of a stored codeword as its 80 symbols (R44, R45): lines A and B, the check symbols, and what was altered since
they were written. The decoder works on what was altered alone (R46): a valid codeword has no syndromes, so those of the sum are
those of the error pattern. -/
def storedCodeword (s : State) (pair : Nat) : List (BitVec 16) :=
  let bits := lineBits (memLine s (2 * pair)) + lineBits (memLine s (2 * pair + 1)) * 2 ^ 592
  let data := (List.range 74).map fun k => BitVec.ofNat 16 (bits / 2 ^ (16 * k))
  let e := tgetD s.mem.errs pair []
  (data ++ checkSymbols data).mapIdx fun k v => (e.filter fun q => q.1 == k).foldl (fun v q => v ^^^ q.2) v

/-! ## Placement -/

/-- Where a pair lies: the controller (0 to 7 near, 8 to 23 far), the pseudo-channel or rank, and the codeword's number. -/
structure Place where
  mc    : Nat
  group : Nat
  q     : Nat
  deriving DecidableEq, Repr

/-- Placement of a near pair (R280), in the reserve where it was moved there (R293), and of a far pair (R286). -/
def placeOf (s : State) (pair : Nat) : Place :=
  let lpa := pair * 128
  if 0x40000000000 ≤ lpa then
    let n := (lpa - 0x40000000000) / 4096
    let pc := nxor (nxor (n % 256) (n / 256 % 256)) (n / 65536 % 256)
    let q := 32 * (n / 256) + lpa / 128 % 32
    match (if q < tgetD s.mem.moved pc 0 then tget s.mem.homes (pc * 229376 + q / 32) else none) with
    | some r => ⟨r / 6553 % 8, r / 6553 / 8, 7340032 + 32 * (r % 6553) + q % 32⟩
    | none => ⟨pc % 8, pc / 8, q⟩
  else
    let p := lpa / 4096
    let ch := if s.mem.farN = 16 then nxor (p / 16 % 16) (p / 65536 % 16) else 2 * nxor (p / 16 % 8) (p / 65536 % 8) + b2n s.mem.farOdd
    let i := if s.mem.farN = 16 then p / 256 * 16 + p % 16 else p / 128 * 16 + p % 16
    let rank := if s.mem.farD / 8192 ≤ i ∧ 0 < s.mem.farD ∧ tgetD (tgetD s.mem.mcs (8 + ch) {}).groups 1 .inService ≠ .absent then 1 else 0
    ⟨8 + ch, rank, 32 * i + lpa / 128 % 32⟩

/-- The units that carry a symbol: DQ lines (R282; symbol 5d + 2 is carried half by DQ d and half by DQ d + 16), or the
device 10u + n (R287). The value tells which halves are meant. -/
def unitsOf (near : Bool) (k : Nat) (v : BitVec 16) : List Nat :=
  if near then
    let d := k / 5
    match k % 5 with
    | 0 | 1 => [d]
    | 2 => (if v.toNat % 256 = 0 then [] else [d]) ++ (if v.toNat / 256 = 0 then [] else [d + 16])
    | _ => [d + 16]
  else if k < 36 then [k / 4] else if k = 36 then [9] else if k < 69 then [10 + (k - 37) / 4]
  else if k < 72 then [9] else if k < 76 then [18] else [19]

/-- The symbols a unit carries. -/
def symbolsOf (near : Bool) (u : Nat) : List Nat := (List.range 80).filter fun k => (unitsOf near k 0xFFFF).contains u

/-- The key of a unit in its controller: 32 × pseudo-channel + DQ, or 20 × rank + 10u + n (R296). -/
def unitKey (near : Bool) (group u : Nat) : Nat := (if near then 32 else 20) * group + u

/-- The erasure set of a group's codewords (R46). -/
def erasures (s : State) (p : Place) : List Nat :=
  let near := decide (p.mc < 8)
  let m := s.mc p.mc
  match (List.range (if near then 32 else 20)).find? fun u => tgetD m.units (unitKey near p.group u) .healthy == .erased with
  | some u => symbolsOf near u
  | none => []

/-! ## Controller events and diagnosis -/

/-- The interrupt source of a controller (R295). -/
def mcSource (mc : Nat) : Nat := if mc < 8 then 0x90 + mc else 0x80 + (mc - 8)

/-- An event bit of a controller becomes 1; its source signals when enabled (R295). -/
def mcEvent (s : State) (mc bit : Nat) : State :=
  let m := s.mc mc
  let ev := m.event ||| BitVec.ofNat 4 (2 ^ bit)
  let s := s.setMc mc { m with event := ev }
  if m.event.getLsbD bit = false ∧ m.irqEn.getLsbD bit = true then signal s (mcSource mc) (BitVec.ofNat 64 ev.toNat) else s

/-- The start of the entry to DEGRADED (R441, R479). -/
def toDegraded (s : State) : State :=
  match s.mg.mode with
  | .service => beginTrans s .degraded .degraded
  | .drowse | .quiesce | .hold => { s with mg := { s.mg with base := .degraded } }
  | _ => s

/-- A spare class is exhausted (R486): the class's bit in degraded, a record, and DEGRADED. -/
def spareExhausted (s : State) (bit unit : Nat) : State :=
  let s := setDval s 0x1400 0x06 (dval s 0x1400 0x06 ||| 2 ^ bit)
  toDegraded (logFault s 0x14 1 unit 0xFFFF 0 [])

/-- The numbers of the unit and group states (R296). -/
def UnitSt.num : UnitSt → Nat
  | .healthy => 0 | .suspect => 1 | .erased => 2 | .repaired => 3
def GroupSt.num : GroupSt → Nat
  | .inService => 0 | .retiring => 1 | .retired => 2 | .absent => 3

/-- A unit changes state; Eaves records it (R291). -/
def setUnit (s : State) (mc unit : Nat) (st : UnitSt) (clear : Bool) : State :=
  let m := s.mc mc
  let s := s.setMc mc { m with units := tset m.units unit st, counts := if clear then tdel m.counts unit else m.counts }
  mcEvent (persist s 6 ([BitVec.ofNat 8 mc] ++ toBytes unit 2 ++ [BitVec.ofNat 8 st.num])) mc 0

/-- A group changes state; Eaves records it (R291). -/
def setGroupSt (s : State) (mc group : Nat) (st : GroupSt) : State :=
  let m := s.mc mc
  let s := s.setMc mc { m with groups := tset m.groups group st }
  mcEvent (persist s 6 ([BitVec.ofNat 8 mc] ++ toBytes (0x8000 + group) 2 ++ [BitVec.ofNat 8 st.num])) mc 2

/-- The pages of other pseudo-channels that lie in the reserve of one. -/
def hosted (s : State) (pc : Nat) : Tbl Nat := s.mem.homes.filter fun e => e.2 / 6553 == pc

/-- The free reserve pages (R283, R293): those of the pseudo-channels that are not retired, nor on the way to it. -/
def freePages (s : State) : Nat :=
  let live := (List.range 256).filter fun p => (tget s.mem.moved p).isNone
  live.foldl (fun a p => a + (6553 - (hosted s p).length)) 0

/-- The pages that pseudo-channels on the way to retirement have still to move. -/
def owedPages (s : State) : Nat := s.mem.moved.foldl (fun a m => a + (229376 - (m.2 + 31) / 32)) 0

/-- A group becomes RETIRING (R291, R293, R294): a pseudo-channel whose pages, and those that its reserve holds, find room in the
reserve of the others begins to move. -/
def groupRetiring (s : State) (mc group : Nat) : State :=
  if tgetD (s.mc mc).groups group .inService = .inService then
    let s := setGroupSt s mc group .retiring
    if mc < 8 then
      let pc := mc + 8 * group
      let guests := (hosted s pc).length
      (if freePages s < owedPages s + (6553 - guests) + 229376 + guests then spareExhausted s 5 pc
       else { s with mem := { s.mem with moved := tset s.mem.moved pc 0 } })
    else spareExhausted s 4 (mc - 8)
  else s

/-- A HEALTHY unit whose count has reached corr_thresh becomes SUSPECT, and a targeted scrub of its group starts (R291). -/
def suspectUnit (s : State) (mc k : Nat) : State :=
  let m := s.mc mc
  if dval s 0x0800 0x06 ≤ tgetD m.counts k 0 ∧ tgetD m.units k .healthy = .healthy then
    setUnit (s.setMc mc { m with targets := m.targets ++ [k] }) mc k .suspect false
  else s

/-- A corrected symbol is counted against its unit (R291). -/
def countUnit (s : State) (p : Place) (u : Nat) : State :=
  let k := unitKey (decide (p.mc < 8)) p.group u
  let m := s.mc p.mc
  suspectUnit (s.setMc p.mc { m with counts := tset m.counts k (tgetD m.counts k 0 + 1) }) p.mc k

/-- A group with uncorrectable codewords at ue_thresh or more distinct line pairs becomes RETIRING (R291). -/
def retireGroup (s : State) (mc group : Nat) : State :=
  if dval s 0x0800 0x07 ≤ (tgetD (s.mc mc).ues group []).eraseDups.length then groupRetiring s mc group else s

/-- An uncorrectable codeword is counted against its group. -/
def countUe (s : State) (p : Place) (pair : Nat) : State :=
  let m := s.mc p.mc
  retireGroup (s.setMc p.mc { m with ues := tset m.ues p.group (tgetD m.ues p.group [] ++ [pair]) }) p.mc p.group

/-- The thresholds apply to the counts already held (R296). -/
def applyThresholds (s : State) : State :=
  s.mem.mcs.foldl (fun s m =>
    let s := m.2.counts.foldl (fun s e => suspectUnit s m.1 e.1) s
    m.2.ues.foldl (fun s e => if e.2 = [] then s else retireGroup s m.1 e.1) s) s

/-- The payload of a LOST word (R38). -/
def lostW (s : State) (reason origin unit : Nat) (event : BitVec 32) : W :=
  ⟨0x301, event.extractLsb' 0 16 ++ devNo s ++ BitVec.ofNat 16 unit ++ BitVec.ofNat 8 origin ++ BitVec.ofNat 8 reason⟩

/-- The copy of a line that an L1 of the table owns. -/
def ownerData (cs : Tbl Core) (line : Nat) : Option Line :=
  cs.findSome? fun c =>
    match tget c.2.l1d line with
    | some l =>
      match l.st with
      | .m | .o | .omA | .e => some l.data
      | _ => none
    | none => none

/-- Data of a line on its way: to an owner, or written back. -/
def flyingData (ms : List Msg) (line : Nat) : Option Line :=
  ms.findSome? fun m =>
    if m.line = line then
      match m.kind with
      | .datm | .date | .wbd => m.data
      | .ackd => m.data
      | _ => none
    else none

/-- A copy of a line that counts as its data when its codeword is uncorrectable (R48): of a cache that holds it in M, O or E, on
its way or with its home's transaction, in an L2 slice, a stash line too, or in S in an L1. -/
def cachedCopy (s : State) (line : Nat) : Option Line :=
  let held := fun (t : Nat × Tile) => match (tgetD t.2.sf line {}).txn.bind fun x => x.data with
    | some l => some l
    | none => (tget t.2.l2 line).map fun l => l.data
  let shared := fun (c : Nat × Core) => match tget c.2.l1d line, tget c.2.l1i line with
    | some l, i => if l.st = .s ∨ l.st = .smA then some l.data else i.bind fun l => if l.st = .s then some l.data else none
    | none, some l => if l.st = .s then some l.data else none
    | none, none => none
  (ownerData s.cores line).or ((flyingData s.mesh line).or ((s.tiles.findSome? held).or (s.cores.findSome? shared)))

/-- One line of an uncorrectable pair (R48): the new codeword holds a cached copy, which a later writeback replaces where the copy is
dirty, or 8 LOST words. -/
def replaceLine (s : State) (p : Place) (line : Nat) (event : BitVec 32) : State :=
  match cachedCopy s line with
  | some l => setMemLine s line l
  | none =>
    let near := decide (p.mc < 8)
    let w := lostW s 1 (if near then 0 else 1) (if near then p.mc + 8 * p.group else p.mc - 8) event
    setMemLine s line (List.replicate 8 w)

/-- The residual pattern of a codeword that was delivered becomes part of its words. -/
def applyErr (s : State) (pair : Nat) (e : Err) : State :=
  if e = [] then s
  else
    let bits := lineBits (memLine s (2 * pair)) + lineBits (memLine s (2 * pair + 1)) * 2 ^ 592
    let bits := e.foldl (fun b q => if q.1 < 74 then nxor b (q.2.toNat * 2 ^ (16 * q.1)) else b) bits
    setMemLine (setMemLine s (2 * pair) (bitsLine (bits % 2 ^ 592))) (2 * pair + 1) (bitsLine (bits / 2 ^ 592))

/-- Saturating increment of a 32-bit count. -/
def satInc (x : BitVec 32) : BitVec 32 := if x = 0xFFFFFFFF then x else x + 1

/-- An event is counted to Sarking. -/
def sarkCount (s : State) (k : Nat) : State := { s with sark := { s.sark with counts := tmod s.sark.counts k 0 fun n => n + 1 } }

/-- Fields of an armed injection (R466). -/
def injArray (v : BitVec 64) : Nat := bitsN v 0 4
def injUnit (v : BitVec 64) : Nat := bitsN v 4 8
def injBits (v : BitVec 64) : Nat := bitsN v 12 2

/-- The unit that R466 names for a pair: the pseudo-channel unit, or the channel. -/
def injPlace (p : Place) : Nat × Nat := if p.mc < 8 then (4, p.mc + 8 * p.group) else (5, p.mc - 8)

/-- Errors in distinct symbols, at positions and with values that are free. -/
def freeErrs (n occ pair : Nat) : Err :=
  ((List.range n).foldl (fun (a : List Nat × Err) i =>
    let k := 2 ^ 56 + 4 * pair + i
    let p := a.1.getD (Config.choice occ k % max 1 a.1.length) 0
    let v := (Config.freeValue occ k).extractLsb' 0 16
    (a.1.erase p, a.2 ++ [(p, if v = 0 then 1 else v)])) (List.range 80, [])).2

/-- An injection that is armed for the codeword's unit takes place at this access (R466). -/
def injectPair (s : State) (pair : Nat) : State :=
  let p := placeOf s pair
  match splitAtFirst (fun (v : BitVec 64) => (injArray v, injUnit v) == injPlace p) s.mem.armed with
  | none => s
  | some (a, v, b) =>
    let e := (freeErrs (injBits v) s.free pair).foldl (fun e q => errAdd e q.1 q.2) (tgetD s.mem.errs pair [])
    { s with mem := { s.mem with armed := a ++ b, errs := tset s.mem.errs pair e } }

/-- Corrected symbols of a codeword: counted for the controller and against the units that carry them (R47, R291). -/
def corrected (s : State) (p : Place) (fixes : List (Nat × BitVec 16)) : State :=
  let m := s.mc p.mc
  let s := s.setMc p.mc { m with ce := satInc m.ce }
  let us := fixes.foldl (fun l q => l ++ unitsOf (decide (p.mc < 8)) q.1 q.2) []
  us.foldl (fun s u => countUnit s p u) s

/-- An uncorrectable codeword: the record, the controller's registers and its event (R48, R295). A pair in the reserve has no LPA
there. -/
def uncorrected (s : State) (p : Place) (lpa : Nat) : State :=
  let s := logFault s 0x06 0 (if p.mc < 8 then p.mc else p.mc - 8) 0xFFFF (BitVec.ofNat 64 lpa) []
  let m := s.mc p.mc
  let rsv := decide (p.mc < 8 ∧ 7340032 ≤ p.q)
  mcEvent (s.setMc p.mc { m with ue := satInc m.ue, lastUe := if rsv then 0 else BitVec.ofNat 43 lpa, lastRsv := rsv, lastGrp := BitVec.ofNat 5 p.group }) p.mc 1

/-- A controller reads a codeword (R46): decoded, corrected and written back (R47), or replaced (R48). Afterwards the
words that memory lists are the pair's data. In erasure mode nothing is written back, so that the stored codeword still differs from
the one delivered where that was corrected. -/
def readPair (s : State) (pair : Nat) : State :=
  let s := injectPair s pair
  match tget s.mem.errs pair with
  | none => s
  | some e =>
    let p := placeOf s pair
    let er := erasures s p
    match rsDecode er e with
    | some (res, fixes) =>
      let s := applyErr (if fixes = [] then s else corrected s p fixes) pair res
      { s with mem := { s.mem with errs := if er = [] ∨ fixes = [] then tdel s.mem.errs pair else tset s.mem.errs pair fixes } }
    | none =>
      let ev := s.sark.nextSeq
      let s := replaceLine (replaceLine s p (2 * pair) ev) p (2 * pair + 1) ev
      let s := { s with mem := { s.mem with errs := tdel s.mem.errs pair } }
      countUe (uncorrected s p (pair * 128)) p pair

/-- A write of one line is a read-modify-write of its codeword (R49). -/
def writeMemLine (s : State) (line : Nat) (l : Line) : State := setMemLine (readPair s (line / 2)) line l

end Sys2Proof.Machine
end

