-- ==== Sys2Proof/Machine/Cache.lean ====
section
/-! DEFINITION. The homes and caches as data: home shares (R226), L1 lines and their data errors (R52), messages in flight with
the order of their channels (R234), and the requests a core sends (R236). -/

namespace Sys2Proof.Machine

/-- The tile that is home of a line: share_map (0x1400.02), share s on tile s unless a start moved it (R226, R251). -/
def homeTile (s : State) (line : Nat) : Nat :=
  let h := homeShare (line * 64)
  match tget s.mg.blobs (0x1400 * 256 + 2) with
  | some l => (l.getD h 0).toNat % 32
  | none => h

/-- The node number of a line's home in messages. -/
def homeNode (s : State) (line : Nat) : Nat := 256 + homeTile s line

/-- The word of a line. -/
def lineWord (l : Line) (key : Nat) : W := l.getD (key % 8) uninitW

/-- Merges the bytes of a mask into a word (R39): a whole word replaces; fewer bytes merge into RAW, or into UNINIT whose
other bytes are zero; other words stay. -/
def mergeWord (old new : W) (mask : BitVec 8) : W :=
  if mask = 255 then new
  else
    let keep := if old.tag = 0x006 then old.payload else 0
    let v := (List.range 8).foldl (fun (a : Nat) i =>
      a + (if mask.getLsbD i then bitsN new.payload (8 * i) 8 else bitsN keep (8 * i) 8) * 2 ^ (8 * i)) 0
    if old.tag = 0x006 ∨ old.tag = 0x000 then ⟨0x006, BitVec.ofNat 64 v⟩ else old

/-- A line with a word merged in. -/
def mergeLine (l : Line) (key : Nat) (new : W) (mask : BitVec 8) : Line :=
  l.set (key % 8) (mergeWord (lineWord l key) new mask)

/-! ## Messages in flight (R234, R235) -/

/-- The virtual channel of a message. -/
def MsgK.vc : MsgK → Nat
  | .rds | .rdx | .upg | .rdo | .wrm | .atm | .cln | .fls | .inv | .tagq => 0
  | .sns | .snx | .sni | .snr | .snc | .snf => 1
  | .ack | .ackd | .ackw | .acku | .ackn | .nakst | .rty | .naks | .prg | .gnt | .cmp | .wba | .tagr => 2
  | .dats | .date | .datm | .dato => 3
  | .wbd | .evc => 4

/-- The tile that a message goes to. -/
def Msg.tile (m : Msg) : Nat := if m.dst < 256 then tileOf m.dst else m.dst - 256

/-- Sends a coherence message, which wakes a tile that sleeps (R445). -/
def post (s : State) (m : Msg) : State := wakeTile { s with mesh := s.mesh ++ [m] } m.tile

/-- A tile whose fast clock is stopped takes no message: the router holds it (R445). -/
def asleep (s : State) (t : Nat) : Bool := (s.tile t).power == .nap || (s.tile t).power == .doze

/-- An atomic that has its line in M but is not yet performed holds every snoop for the line (R243). -/
def pinned (s : State) (core line : Nat) : Bool :=
  let waits := fun (p : Option Pend) => match p with
    | some p => p.ready && (p.excl && p.needs == some line)
    | none => false
  s.ctxs.any (fun c => coreOf c.1 == core && waits c.2.pend) || waits (s.core core).fic.pend

/-- Accesses to a set of an L1 wait for the recovery of its tags (R230). -/
def recovering (s : State) (core line : Nat) : Bool := (s.core core).tagErr.any fun t => t.set == line % 128

/-- A snoop that the L1 holds (R237): its line is in IM_D, or an atomic holds it, or its set's tags are under recovery, or a
GNT that the home sent before the snoop is on its way (log entry 94). -/
def heldSnoop (s : State) (m : Msg) : Bool :=
  m.kind.vc == 1 && ((match tget (s.core m.dst).l1d m.line with | some l => l.st == .imD | none => false)
    || (pinned s m.dst m.line || (recovering s m.dst m.line
    || s.mesh.any fun n => n.kind == .gnt && (n.dst == m.dst && n.line == m.line))))

/-- Takes the first message that matches, unless an earlier one of its source, destination and channel is undelivered;
a snoop that is held has been delivered. -/
def takeMsg (s : State) (p : Msg → Bool) : Option (Msg × State) :=
  match splitAtFirst p s.mesh with
  | none => none
  | some (before, m, after) =>
    if asleep s m.tile || before.any fun n => n.src == m.src && (n.dst == m.dst && (n.kind.vc == m.kind.vc && !heldSnoop s n)) then none
    else some (m, { s with mesh := before ++ after })

/-! ## L1 lines -/

/-- A state in which a load hits (R236). -/
def L1.hit : L1 → Bool
  | .m | .o | .e | .s | .smA | .omA => true
  | _ => false

/-- A stable state. -/
def L1.stable : L1 → Bool
  | .m | .o | .e | .s => true
  | _ => false

def Core.setL1 (c : Core) (line : Nat) (l : L1Line) : Core := { c with l1d := tset c.l1d line l }
def Core.setL1i (c : Core) (line : Nat) (l : L1Line) : Core := { c with l1i := tset c.l1i line l }

/-- The attribution of an event of whoever executes (R114). -/
def whoOf (s : State) (x : Exec) : Option (World × Bool × Nat) :=
  match x with
  | .ctx n => evWho (s.ctx n.toNat)
  | .fic _ => none

/-- A read or write of the data of a stable L1D line meets an injected error that is armed for the core (R466, R52): the state
after it, and whether a clean copy has failed. The failed word of a dirty line that no other cache holds becomes LOST; where an
S copy of an O line exists the word keeps the value that copy has. -/
def l1dError (s : State) (core line : Nat) (word : Option Nat) : State × Bool :=
  match tget (s.core core).l1d line with
  | none => (s, false)
  | some l =>
    match if l.st.stable then splitAtFirst (fun (v : BitVec 64) => injArray v == 0 && injUnit v == core) s.mem.armed else none with
    | none => (s, false)
    | some (a, v, b) =>
      let s := { s with mem := { s.mem with armed := a ++ b } }
      if injBits v < 2 then (sarkCount s 2, false)
      else
        let lost := lostW s 4 3 core s.sark.nextSeq
        let shared := s.cores.any fun c => c.1 != core && ((match tget c.2.l1d line with | some l => l.st.hit | none => false)
          || (match tget c.2.l1i line with | some l => l.st.hit | none => false))
        let s := logFault s 0x05 0 core (siteOf s core) (BitVec.ofNat 64 (line * 64)) []
        if l.st = .m ∨ (l.st = .o ∧ shared = false) then
          (s.modCore core fun c => c.setL1 line { l with data := l.data.set (word.getD (Config.choice s.free 112 % 8)) lost }, false)
        else (s, l.st == .e || l.st == .s)

/-- Sends WBD or EVC for a line, which waits for WBA (R236). -/
def evictL1 (s : State) (core : Nat) (who : Option (World × Bool × Nat)) (line : Nat) : State :=
  let s := match tget (s.core core).l1d line with
    | some l => if l.st = .m ∨ l.st = .o then (l1dError s core line none).1 else s
    | none => s
  match tget (s.core core).l1d line with
  | none => s
  | some l =>
    let dirty := l.st == .m || l.st == .o
    let s := s.modCore core fun c => c.setL1 line { l with st := .xiA, dirty := dirty }
    let s := if dirty then countEvent s core who 0x09 else s
    post s { kind := if dirty then .wbd else .evc, src := core, dst := homeNode s line, line := line, data := if dirty then some l.data else none,
             flag := l.na }

/-- Writebacks of a core to one home that are not yet answered (R234). -/
def wbOut (s : State) (core home : Nat) : Nat :=
  let out := fun (t : Tbl L1Line) => (t.filter fun l => l.2.st == .xiA && homeNode s l.1 == home).length
  out (s.core core).l1d + out (s.core core).l1i

/-- Makes room in a set of the L1D: some state when a way is free or a victim could be evicted (R225, R234). A line in
XI_A no longer takes a way. -/
def makeRoom (s : State) (core : Nat) (who : Option (World × Bool × Nat)) (line : Nat) : Option State :=
  let set := (s.core core).l1d.filter fun l => l.1 % 128 == line % 128 && !(l.2.st == .xiA)
  if set.length < 8 then some s
  else
    let vs := set.filter fun l => l.2.st.stable && decide (wbOut s core (homeNode s l.1) < 4)
    match vs[Config.choice s.free (16 * line + 1) % (max 1 vs.length)]? with
    | some v => some (evictL1 s core who v.1)
    | none => none

/-- The core has sent WBD or EVC for the line from one of its L1s, and sends no new request for it until WBA (R236). -/
def leaving (s : State) (core line : Nat) : Bool :=
  let out := fun (t : Tbl L1Line) => match tget t line with | some l => l.st == .xiA | none => false
  out (s.core core).l1d || out (s.core core).l1i

/-- What a core's access finds in a line that its L1D holds. -/
inductive Hit where
  | data | gone | wait
  deriving DecidableEq, Repr

/-- An access of the core to a line it holds (R52): its data; or the copy failed and is released, so that the access fetches the
line again; or the release itself has to wait (R234). -/
def l1dHit (s : State) (core : Nat) (who : Option (World × Bool × Nat)) (line : Nat) (word : Option Nat) : Hit × State :=
  if !(s.mem.armed.any fun v => injArray v == 0 && injUnit v == core) then (.data, s)
  else if 4 ≤ wbOut s core (homeNode s line) then (.wait, s)
  else
    match l1dError s core line word with
    | (s, true) => (.gone, evictL1 s core who line)
    | (s, false) => (.data, s)

/-- A read miss of the L1D (R236): RDS is sent, or a request is already on its way; none when no way can be had. -/
def missRead (s : State) (core : Nat) (who : Option (World × Bool × Nat)) (line : Nat) (wt na : Bool) : Option State :=
  match tget (s.core core).l1d line with
  | some _ => some s
  | none =>
    if leaving s core line then some s else
    match makeRoom s core who line with
    | none => none
    | some s =>
      let s := s.modCore core fun c => c.setL1 line { st := .isD, na := na }
      let s := countEvent s core who 0x08
      let spec := !((s.core core).cfg.getLsbD 1) && Config.choice s.free (16 * line + 5) % 2 == 1
      some (post s { kind := .rds, src := core, dst := homeNode s line, line := line,
                     req := some { kind := .rds, core := core, line := line, wt := wt, na := na, spec := spec } })

/-- Makes room in a set of the L1I, of 4 ways (R225): a victim that the L1D does not hold is released with EVC (R232). -/
def makeRoomI (s : State) (core line : Nat) : Option State :=
  let c := s.core core
  let set := c.l1i.filter fun l => l.1 % 128 == line % 128 && !(l.2.st == .xiA)
  if set.length < 4 then some s
  else
    let vs := set.filter fun l => l.2.st.stable && decide (wbOut s core (homeNode s l.1) < 4)
    match vs[Config.choice s.free (2 ^ 60 + line) % (max 1 vs.length)]? with
    | some v =>
      let both : Bool := match tget c.l1d v.1 with | some l => l.st != .xiA | none => false
      some (if both then s.setCore core { c with l1i := tdel c.l1i v.1 }
        else post (s.setCore core (c.setL1i v.1 { v.2 with st := .xiA })) { kind := .evc, src := core, dst := homeNode s v.1, line := v.1, toward := 1 })
    | none => none

/-- A fetch miss of the L1I: RDS is sent, or a request is already on its way; none when no way can be had. -/
def missFetch (s : State) (core : Nat) (who : Option (World × Bool × Nat)) (line : Nat) (na : Bool) : Option State :=
  match tget (s.core core).l1i line with
  | some _ => some s
  | none =>
   if leaving s core line then some s else
   match makeRoomI s core line with
   | none => none
   | some s =>
    let s := s.modCore core fun c => c.setL1i line { st := .isD, na := na }
    let s := countEvent s core who 0x07
    some <| post s { kind := .rds, src := core, dst := homeNode s line, line := line, req := some { kind := .rds, core := core, line := line, ifetch := true, na := na } }

/-- A core needs a line in M (R236): RDX or UPG, or it waits; none when no way can be had. Its own L1I keeps no copy beside it
(R231): an S copy goes, and a fill on its way becomes use-once. -/
def missWrite (s : State) (core : Nat) (who : Option (World × Bool × Nat)) (line : Nat) (na : Bool) : Option State :=
  if leaving s core line then some s else
  let s := s.modCore core fun c => { c with l1i := c.l1i.filterMap fun l =>
    if l.1 = line then (match l.2.st with | .s => none | .isD => some (l.1, { l.2 with once := true }) | _ => some l) else some l }
  let up := fun (st : L1) (l : L1Line) =>
    let s := s.modCore core fun c => c.setL1 line { l with st := st }
    some (post s { kind := .upg, src := core, dst := homeNode s line, line := line, req := some { kind := .upg, core := core, line := line, na := na } })
  match tget (s.core core).l1d line with
  | some l =>
    match l.st with
    | .s => up .smA l
    | .o => up .omA l
    | _ => some s
  | none =>
    match makeRoom s core who line with
    | none => none
    | some s =>
      let s := s.modCore core fun c => c.setL1 line { st := .imD, na := na }
      let s := countEvent s core who 0x08
      some (post s { kind := .rdx, src := core, dst := homeNode s line, line := line, req := some { kind := .rdx, core := core, line := line, na := na } })

/-! ## The current data of a line -/

/-- The current data of a line: with its owner, on its way, with its home's transaction, in L2, or in memory (R231). -/
def curLine (s : State) (line : Nat) : Line :=
  match ownerData s.cores line with
  | some l => l
  | none =>
    match flyingData s.mesh line with
    | some l => l
    | none =>
      let t := s.tile (homeTile s line)
      match (tgetD t.sf line {}).txn with
      | some x => (match x.data with
                   | some l => l
                   | none => (match tget t.l2 line with | some l => l.data | none => memLine s line))
      | none => (match tget t.l2 line with | some l => l.data | none => memLine s line)

/-- The current word at a key. -/
def curWord (s : State) (key : Nat) : W := lineWord (curLine s (key / 8)) key

/-! ## Homes of dead tiles -/

/-- A tile that was declared dead answers for its share with LOST words (R251). -/
def deadHome (s : State) (line : Nat) : Bool := (s.tile (homeTile s line)).dead

/-- The word a dead tile's router answers with. -/
def deadWord (s : State) (line : Nat) : W :=
  lostW s 3 5 (homeTile s line) (s.tile (homeTile s line)).deadEv

/-- The word that a line of a dead core becomes (R250), or of a core whose tile died (R251). -/
def deadCoreWord (s : State) (core : Nat) : W :=
  let t := tileOf core
  if (s.tile t).dead then lostW s 3 5 t (s.tile t).deadEv else lostW s 3 4 core (s.core core).deadEv

/-! ## Monitors (R74) -/

/-- Re-compares the monitored words of a line at an event that can change it: a wait whose words differ ends with
FIXNUM 1. -/
def recompare (s : State) (line : Nat) : State :=
  s.ctxs.foldl (fun s e =>
    match e.2.monitor with
    | some (key, w) =>
      if key / 8 = line ∧ (if deadHome s line then deadWord s line else curWord s key) ≠ w then
        endWait (s.modCtx e.1 fun c => setCtxReg c c.waitRd.toNat (fixW 1)) e.1
      else s
    | none => s) s

/-- A demand read of a codeword, after which the waits on its lines are compared again (R48, R74). -/
def demandRead (s : State) (pair : Nat) : State := recompare (recompare (readPair s pair) (2 * pair)) (2 * pair + 1)

/-- A line is written to memory; the other line of its pair may have been replaced (R49). -/
def storeLine (s : State) (line : Nat) (l : Line) : State :=
  recompare (writeMemLine s line l) (if line % 2 = 0 then line + 1 else line - 1)

/-! ## What atomics compute -/

/-- Reserved tag codes (R24). -/
def reservedTag (t : BitVec 10) : Bool :=
  let n := t.toNat
  !(decide (n ≤ 0x007) || n == 0x00F || (decide (0x080 ≤ n) && decide (n ≤ 0x0FF)) || (decide (0x100 ≤ n) && decide (n ≤ 0x10A))
    || (decide (0x1C0 ≤ n) && decide (n ≤ 0x1FF)) || (decide (0x200 ≤ n) && decide (n ≤ 0x20A)) || (decide (0x2C0 ≤ n) && decide (n ≤ 0x2FF))
    || n == 0x300 || n == 0x301 || n == 0x309 || n == 0x30A)

/-- Integer tags (R124). -/
def isInt (w : W) : Bool := w.tag == 0x001 || w.tag == 0x006

/-- What an atomic makes of a memory word (R131): the cause and subcode that its checks of the word find, or the new word. -/
def atomNew (op : Nat) (old rt rd : W) : Except (Nat × Nat) W :=
  let integerOp := op = 0 ∨ op = 2 ∨ op = 3
  if (integerOp ∨ op = 4) ∧ old.tag = 0x301 then .error (0x08, 0)
  else if (integerOp ∨ op = 4) ∧ old.tag = 0x000 then .error (0x07, 4)
  else if (integerOp ∨ op = 4) ∧ reservedTag old.tag then .error (0x05, 2)
  else if op = 0 then (if isInt old ∧ isInt rt then .ok ⟨old.tag, old.payload + rt.payload⟩ else .error (0x05, 1))
  else if op = 1 then .ok rt
  else if op = 2 ∨ op = 3 then
    if old.tag = rt.tag ∧ isInt old then
      let lt := if old.tag = 0x001 then old.payload.slt rt.payload else old.payload.ult rt.payload
      .ok (if (op == 2) == lt then old else ⟨old.tag, rt.payload⟩)
    else .error (0x05, 1)
  else if op = 4 then .ok (if old.payload = rd.payload then rt else old)
  else .ok (if old = rd then rt else old)

end Sys2Proof.Machine
end

