-- ==== Sys2Proof/Machine/Home.lean ====
section
/-! DEFINITION. The home of a line: its transactions, snoops, retries and the L2 slice (R227, R232, R233, R238 to R242,
R245), and the core's store buffer (R236). -/

namespace Sys2Proof.Machine

/-! ## L2 slices (R225, R227) -/

/-- The set of a line in an L2 slice. -/
def l2Set (line : Nat) : Nat := line / 64 % 4096 * 2 + line % 2

/-- The ways of a set that home and stash lines, and replicas, take. -/
def l2Ways (t : Tile) (set : Nat) : Nat :=
  (t.l2.filter fun l => l2Set l.1 == set).length
    + (t.reps.filter fun r => l2Set (2 * r.pair) == set || l2Set (2 * r.pair + 1) == set).length

/-- Evicts a line of a slice: dirty data goes to memory (R49), a stash line is released with EVC on its core's behalf, which
then waits for WBA as the core's own evictions do (R234, R245). -/
def l2Evict (s : State) (tile line : Nat) : State :=
  let t := s.tile tile
  match tget t.l2 line with
  | none => s
  | some l =>
    let s := s.setTile tile { t with l2 := tdel t.l2 line }
    match l.stash with
    | some c =>
      let s := s.modCore c fun k => if (tget k.l1d line).isNone then k.setL1 line { st := .xiA } else k
      post s { kind := .evc, src := c, dst := homeNode s line, line := line }
    | none => if l.dirty then storeLine s line l.data else s

/-- A line that may leave a slice now: the EVC of a stash line counts among its core's writebacks (R234). -/
def l2May (s : State) (l : Nat × L2Line) : Bool :=
  match l.2.stash with
  | some c => decide (wbOut s c (homeNode s l.1) < 4)
  | none => true

/-- Whether a set of a slice has a way in service that nothing takes. -/
def l2Free (t : Tile) (set : Nat) : Bool := decide (l2Ways t set < 17 - max 1 (tgetD t.waysOut set 0))

/-- Makes a way free in a set: a replica is dropped, or a line that replacement chooses is evicted. -/
def l2Room (s : State) (tile set : Nat) : State :=
  let t := s.tile tile
  if l2Free t set then s
  else
    match t.reps.find? fun r => l2Set (2 * r.pair) == set || l2Set (2 * r.pair + 1) == set with
    | some r => s.setTile tile { t with reps := t.reps.filter fun q => q != r }
    | none =>
      let vs := t.l2.filter fun l => l2Set l.1 == set && l2May s l
      match vs[Config.choice s.free (16 * set + 4) % (max 1 vs.length)]? with
      | some v => l2Evict s tile v.1
      | none => s

/-- Installs a line in a slice, or updates it in place. Where no way can be had, dirty data goes to memory. -/
def l2Put (s : State) (tile line : Nat) (l : L2Line) : State :=
  let held := (tget (s.tile tile).l2 line).isSome
  let s := if held then s else l2Room s tile (l2Set line)
  if held || l2Free (s.tile tile) (l2Set line) then s.modTile tile fun t => { t with l2 := tset t.l2 line l }
  else if l.dirty then storeLine s line l.data
  else s

/-- Dirty data reaches the home (R227): a copy in L2 is updated, else it is installed, or with na written to memory. -/
def absorb (s : State) (line : Nat) (d : Line) (na : Bool) : State :=
  let h := homeTile s line
  if (tget (s.tile h).l2 line).isSome ∨ na = false then l2Put s h line { dirty := true, data := d }
  else storeLine s line d

/-- A dirty L2 copy is written to memory, and the copy stays clean or is dropped. -/
def cleanL2 (s : State) (line : Nat) (drop : Bool) : State :=
  let h := homeTile s line
  match tget (s.tile h).l2 line with
  | none => s
  | some l =>
    let s := if l.dirty then storeLine s line l.data else s
    s.modTile h fun t => { t with l2 := if drop then tdel t.l2 line else tset t.l2 line { l with dirty := false } }

/-! ## Entries of the snoop filter (R232) -/

/-- The entry of a line. -/
def entryOf (s : State) (line : Nat) : Sf := tgetD (s.tile (homeTile s line)).sf line {}

/-- Sets the entry of a line; an empty one is no entry. -/
def setEntry (s : State) (line : Nat) (e : Sf) : State :=
  s.modTile (homeTile s line) fun t =>
    { t with sf := if e.st = .np ∧ e.txn = none then tdel t.sf line else tset t.sf line e }

/-- The cores an entry names. -/
def Sf.holders (e : Sf) : List Nat :=
  match e.st with
  | .np => []
  | .sh => e.sharers
  | .ex => [e.owner]
  | .os => e.owner :: e.sharers

/-- An entry without a core. -/
def Sf.drop (e : Sf) (c : Nat) : Sf :=
  let sh := e.sharers.filter (· != c)
  match e.st with
  | .np => e
  | .sh => if sh = [] then { e with st := .np, sharers := [], bcast := false } else { e with sharers := sh }
  | .ex => if e.owner = c then { e with st := .np, sharers := [], bcast := false } else e
  | .os =>
    if e.owner = c then (if sh = [] then { e with st := .np, sharers := [], bcast := false } else { e with st := .sh, sharers := sh })
    else { e with sharers := sh }

/-- An entry with a core as a sharer; an owner whose own L1I reads the line stays the owner. -/
def Sf.addSharer (e : Sf) (c : Nat) : Sf :=
  if e.owner = c ∧ (e.st = .ex ∨ e.st = .os) then { e with st := .os }
  else
  let e := e.drop c
  match e.st with
  | .np => { e with st := .sh, sharers := [c] }
  | .ex => { e with st := .os, sharers := [c] }
  | _ => { e with sharers := c :: e.sharers }

/-- An entry with a core as its only holder. -/
def Sf.own (e : Sf) (c : Nat) : Sf := { e with st := .ex, owner := c, sharers := [], bcast := false }

/-- An entry after a snooped core reported its state. -/
def Sf.report (e : Sf) (c : Nat) (st : Option L1) : Sf :=
  match st with
  | none => e.drop c
  | some .s | some .smA =>
    if e.st = .sh then e
    else if e.owner = c then { e with st := .sh, sharers := c :: e.sharers.filter (· != c) } else e
  | some .o | some .omA => if e.st = .ex ∧ e.owner = c then { e with st := .os } else e
  | some _ => if e.owner = c then { e with st := .ex, sharers := [] } else e

/-- Modes in which the homes use the directory form (R233). -/
def directoryForm (m : Mode) : Bool := m == .bringup || (m == .selftest || m == .recovery)

/-- The set of a line in a snoop filter (R225). -/
def sfSet (line : Nat) : Nat := line % 128 * 16 + line / 128 % 16

/-- The broadcast bit of a directory entry: set by a fifth holder (R233). -/
def Sf.settle (e : Sf) (dir : Bool) : Sf := if dir && decide (4 < e.holders.length) then { e with bcast := true } else e

/-! ## Answers of the home -/

/-- The home's answer to a request. -/
def answer (s : State) (r : Req) (k : MsgK) (d : Option Line) (contended : Bool) : State :=
  if (s.core r.core).dead then s
  else post s { kind := k, src := homeNode s r.line, dst := r.core, line := r.line, data := d, flag := contended, req := some r }

/-- Starts the memory read of a transaction: PRG goes to the core (R238). -/
def startRead (s : State) (r : Req) : State :=
  if r.kind = .evict then s
  else answer s r .prg none (decide (0x40000000000 ≤ r.line * 64))

/-- The L2 data of a line at its home. -/
def l2Data (s : State) (line : Nat) : Option Line := (tget (s.tile (homeTile s line)).l2 line).map fun l => l.data

/-- Whether a request needs the line's data from the home. -/
def Txn.needs (x : Txn) : Bool :=
  match x.req.kind with
  | .rds => !x.moved && !x.declined
  | .rdx => !x.moved
  | .upg => !x.named && !x.moved
  | .rdo | .atm => true
  | _ => false

/-- An error injected into an L2 slice takes place at an access to a line it holds (R466, R52): one bit is corrected; two lose
a clean copy (a stash line is released), and make a word of a dirty line that no L1 holds LOST. -/
def injectL2 (s : State) (h line : Nat) : State :=
  match tget (s.tile h).l2 line with
  | none => s
  | some l =>
    match splitAtFirst (fun (v : BitVec 64) => injArray v == 1 && injUnit v == h) s.mem.armed with
    | none => s
    | some (a, v, b) =>
      let s := { s with mem := { s.mem with armed := a ++ b } }
      if injBits v < 2 then sarkCount s 2
      else
        let lost := lostW s 4 2 h s.sark.nextSeq
        let s := logFault s 0x05 0 h 0xFFFF (BitVec.ofNat 64 (line * 64)) []
        if l.stash.isSome then l2Evict s h line
        else if !l.dirty then s.modTile h fun t => { t with l2 := tdel t.l2 line }
        else if (entryOf s line).holders ≠ [] then s
        else recompare (s.modTile h fun t => { t with l2 := tset t.l2 line { l with data := l.data.set (Config.choice s.free 96 % 8) lost } }) line

/-- A transaction takes its data from L2, or starts the memory read. -/
def fetchData (s : State) (x : Txn) : State × Txn :=
  let s := injectL2 s (homeTile s x.req.line) x.req.line
  match l2Data s x.req.line with
  | some d => (s, { x with data := some d })
  | none => (startRead s x.req, { x with memory := true })

/-- The snoops a request needs (R238): the holders and the snoop each gets. -/
def snoopsFor (e : Sf) (r : Req) (named : Bool) : List (Nat × MsgK) :=
  let sh := e.sharers.filter (· != r.core)
  let all := fun (k : MsgK) (keep : Nat → Bool) =>
    match e.st with
    | .np => []
    | .sh => (e.sharers.filter fun c => !keep c).map fun c => (c, MsgK.sni)
    | .ex => if keep e.owner then [] else [(e.owner, k)]
    | .os => (if keep e.owner then [] else [(e.owner, k)]) ++ ((e.sharers.filter fun c => !keep c).map fun c => (c, MsgK.sni))
  match r.kind with
  | .rds => if e.st = .ex ∨ e.st = .os then [(e.owner, .sns)] else []
  | .rdx => (if e.st = .ex ∨ e.st = .os then [(e.owner, .snx)] else []) ++ (if e.st = .sh ∨ e.st = .os then sh.map fun c => (c, MsgK.sni) else [])
  | .upg =>
    if named then (e.holders.filter (· != r.core)).map fun c => (c, MsgK.sni)
    else (if e.st = .ex ∨ e.st = .os then [(e.owner, .snx)] else []) ++ (if e.st = .sh ∨ e.st = .os then sh.map fun c => (c, MsgK.sni) else [])
  | .rdo => if e.st = .ex ∨ e.st = .os then [(e.owner, .snr)] else []
  | .wrm => all .snf fun c => decide (c = r.core) && (r.wt && e.st == .sh)
  | .atm => all .snf fun _ => false
  | .cln => if e.st = .ex ∨ e.st = .os then [(e.owner, .snc)] else []
  | .fls => all .snf fun _ => false
  | .inv | .wrf => all .sni fun _ => false
  | .evict => all .snf fun _ => false

/-- Sends one snoop; the slice of a core answers for its stash line as an E line (R245). Data that it forwards leaves the
slice without the line; SNR and SNC leave the line there. -/
def sendSnoop (s : State) (r : Req) (x : Txn) (t : Nat × MsgK) : State × Txn :=
  let c := t.1
  let s := injectL2 s (tileOf c) r.line
  let slice := s.tile (tileOf c)
  let sent := fun (_ : Unit) => (post s { kind := t.2, src := homeNode s r.line, dst := c, line := r.line, toward := r.core, flag := r.spec, req := some r },
          { x with awaiting := x.awaiting ++ [c] })
  match tget slice.l2 r.line with
  | some l =>
    if l.stash = some c then
      let gone := fun (_ : Unit) => setEntry (s.setTile (tileOf c) { slice with l2 := tdel slice.l2 r.line }) r.line ((entryOf s r.line).drop c)
      let data := fun (k : MsgK) => post (gone ()) { kind := k, src := c, dst := r.core, line := r.line, data := some l.data, flag := true, req := some r }
      match t.2 with
      | .sns => (data .dats, { x with moved := true })
      | .snx => (data .datm, { x with moved := true })
      | .snr => (s, { x with data := some l.data })
      | .snc => (s, x)
      | _ => (gone (), x)
    else sent ()
  | none => sent ()

/-- Sends a list of snoops. -/
def sendSnoops (s : State) (r : Req) (x : Txn) (ts : List (Nat × MsgK)) : State × Txn :=
  ts.foldl (fun (a : State × Txn) t => sendSnoop a.1 r a.2 t) (s, x)

/-- Opens a transaction for a request on a line that is not busy: its snoops go out, and the read of its data starts. An
owner is asked to supply data in M only once the other copies are gone (R231). A speculative RDS of a line with an owner and
sharers is not served. -/
def openTxn (s : State) (r : Req) : State :=
  let e := entryOf s r.line
  if r.kind == .rds && (r.spec && e.st == .os) then answer s r .naks none false
  else
    let named := r.kind == .upg && (e.holders.contains r.core &&
      (match tget (s.core r.core).l1d r.line with | some l => l.st == .smA || l.st == .omA | none => false))
    let ts := snoopsFor e r named
    let ts := if e.bcast && ts.any (fun t => t.2 == .sni) then
        ts ++ (((List.range 256).filter fun c => coreLive s c && (decide (c ≠ r.core) && !(ts.any fun t => t.1 == c))).map fun c => (c, MsgK.sni))
      else ts
    let first := ts.filter fun t => t.2 == .sni
    let supplies := ts.any fun t => t.2 == .snx
    let split := supplies && first != []
    let x : Txn := { req := r, named := named, contended := (e.holders.filter (· != r.core)) != [],
                     later := if split then ts.filter fun t => t.2 != .sni else [] }
    let s := setEntry s r.line { e with txn := some x }
    let (s, x) := sendSnoops s r x (if split then first else ts)
    let owned := e.st == .ex || e.st == .os
    let (s, x) := if x.needs && (!owned && x.data.isNone) then fetchData s x else (s, x)
    setEntry s r.line { entryOf s r.line with txn := some x }

/-- STH reaches the core that a stash hint names (R237, R245): the L1D installs the line in E and answers ACK, or refuses it
with NAKST when it holds the line in some state or has no invalid way. The home awaits the answer. -/
def stashTo (s : State) (core line : Nat) (data : Line) : State :=
  let c := s.core core
  let ways := (c.l1d.filter fun l => l.1 % 128 == line % 128 && !(l.2.st == .xiA)).length
  let x : Txn := { req := { kind := .evict, core := core, line := line }, awaiting := [core] }
  let reply : Msg := { kind := .nakst, src := core, dst := homeNode s line, line := line }
  if (tget c.l1d line).isNone ∧ recovering s core line = false ∧ ways < 8 then
    let s := setEntry (s.setCore core (c.setL1 line { st := .e, data := data })) line { (entryOf s line).own core with txn := some x }
    post s { reply with kind := .ack, st := some .e }
  else post (setEntry s line { entryOf s line with txn := some x }) { reply with data := some data }

/-- A whole line is written at its home once no L1 holds it (R238 WRF); a stash hint of a live core ends with STH (R245). -/
def wrfWrite (s : State) (line : Nat) (data : Line) (stash : Option Nat) : State :=
  let h := homeTile s line
  let s := if (l2Data s line).isSome then l2Put s h line { dirty := true, data := data } else storeLine s line data
  let s := recompare s line
  match stash with
  | some c => if coreLive s c then stashTo s c line data else s
  | none => s

/-- The merged write of a WRM at the home. -/
def homeMerge (s : State) (st : PStore) : State :=
  let line := st.key / 8
  let s := injectL2 s (homeTile s line) line
  let s := match l2Data s line with
    | some d => l2Put s (homeTile s line) line { dirty := true, data := mergeLine d st.key st.word st.mask }
    | none =>
      let s := demandRead s (line / 2)
      storeLine s line (mergeLine (memLine s line) st.key st.word st.mask)
  recompare s line

/-- Closes a transaction whose answers and data are there: the last messages and the entry (R238). -/
def closeTxn (s : State) (x : Txn) : State :=
  let r := x.req
  let line := r.line
  let e := { entryOf s line with txn := none }
  let dir := directoryForm s.mg.mode
  let gone := (s.core r.core).dead
  let put := fun (s : State) (e : Sf) => setEntry s line (e.settle dir)
  let data := x.data.getD (memLine s line)
  match r.kind with
  | .rds =>
    if x.declined then answer (put s e) r .naks none false
    else if gone then put s e
    else if x.moved then put s (e.addSharer r.core)
    else if e.st = .np ∧ r.ifetch = false ∧ r.wt = false then answer (put s (e.own r.core)) r .date (some data) x.contended
    else answer (put s (e.addSharer r.core)) r .dats (some data) x.contended
  | .rdx =>
    if gone then
      (if x.moved then recompare (storeLine (put s (e.drop r.core)) line (List.replicate 8 (deadCoreWord s r.core))) line else put s e)
    else if x.moved then put s (e.own r.core)
    else answer (put s (e.own r.core)) r .datm (some data) x.contended
  | .upg =>
    if gone then put s (e.drop r.core)
    else if x.named then answer (put s (e.own r.core)) r .gnt none x.contended
    else if x.moved then put s (e.own r.core)
    else answer (put s (e.own r.core)) r .datm (some data) x.contended
  | .rdo => answer (put s e) r .dato (some data) x.contended
  | .wrm =>
    let s := put s e
    let s := match r.word with | some st => homeMerge s st | none => s
    answer s r .cmp none x.contended
  | .atm =>
    let s := put s e
    let s := match r.atom with
      | some (key, op, rt, rd) =>
        (match atomNew op.toNat (lineWord data key) rt rd with
         | .ok w =>
           let d := data.set (key % 8) w
           recompare (if r.na && (l2Data s line).isNone then storeLine s line d else l2Put s (homeTile s line) line { dirty := true, data := d }) line
         | .error _ => s)
      | none => s
    answer s r .dato (some data) x.contended
  | .cln => answer (cleanL2 (put s e) line false) r .cmp none false
  | .fls => answer (cleanL2 (put s e) line true) r .cmp none false
  | .inv =>
    let s := (put s e).modTile (homeTile s line) fun t => { t with l2 := tdel t.l2 line }
    answer (recompare s line) r .cmp none false
  | .wrf => wrfWrite (put s e) line (r.data.getD []) r.stash
  | .evict => put s e

/-- A request that needs a snoop-filter entry for its line (R240). -/
def allocates (s : State) (r : Req) : Bool := (r.kind == .rds || (r.kind == .rdx || r.kind == .upg)) && (entryOf s r.line).st == .np

/-- An entry takes a way of its set: it names a core, or a request that allocates is open for it. -/
def Sf.takesWay (e : Sf) : Bool :=
  e.st != .np || (match e.txn with
    | some x => !x.blocked && (x.req.kind == .rds || (x.req.kind == .rdx || x.req.kind == .upg))
    | none => false)

/-- Accepts a request on a line that is not busy (R240): its transaction opens, or, where its set is full, the transaction that
evicts a victim, with the request's own line busy meanwhile. The state and the line whose transaction opened; none when every
way of the set is busy. -/
def acceptReq (s : State) (r : Req) : Option (State × Nat) :=
  let inSet := (s.tile (homeTile s r.line)).sf.filter fun x => sfSet x.1 == sfSet r.line && x.2.takesWay
  if allocates s r && decide ((if directoryForm s.mg.mode then 4 else 12) ≤ inSet.length) then
    let vs := inSet.filter fun x => x.2.txn.isNone
    match vs[Config.choice s.free (16 * r.line + 7) % (max 1 vs.length)]? with
    | none => none
    | some v =>
      let s := setEntry s r.line { entryOf s r.line with txn := some { req := r, blocked := true } }
      let s := openTxn s { kind := .evict, core := r.core, line := v.1 }
      let e := entryOf s v.1
      some (setEntry s v.1 { e with txn := e.txn.map fun x => { x with queued := some r } }, v.1)
  else some (openTxn s r, r.line)

/-- The priority request that the home accepts when a transaction closes (R241): the oldest for its line, else the oldest that
waits for a way of its set. -/
def nextPrio (s : State) (tile line : Nat) : Option (Req × State) :=
  let q := (s.tile tile).prioQ
  let take := fun (p : Req → Bool) => (splitAtFirst p q).map fun a => (a.2.1, s.modTile tile fun t => { t with prioQ := a.1 ++ a.2.2 })
  match if (entryOf s line).txn.isNone then take fun r => r.line == line else none with
  | some r => some r
  | none => take fun r => sfSet r.line == sfSet line && (allocates s r && (entryOf s r.line).txn.isNone)

/-- RTY goes to the requester, or a priority request waits in the home's queue (R241). -/
def refuse (s : State) (r : Req) : State :=
  if r.prio then s.modTile (homeTile s r.line) fun t => { t with prioQ := t.prioQ ++ [r] }
  else answer s r .rty none false

/-- Carries a line's transaction on: the snoops that follow the first answers go out; it closes when nothing is awaited, and the
home accepts what waited for it: the request of an eviction, then a priority request. -/
def homeGo (fuel : Nat) (s : State) (line : Nat) : State :=
  match fuel with
  | 0 => s
  | fuel + 1 =>
    match (entryOf s line).txn with
    | none => s
    | some x =>
      if x.awaiting ≠ [] ∨ x.wbWait ≠ [] ∨ x.memory = true ∨ x.blocked = true then s
      else if x.later ≠ [] then
        let (s, x) := sendSnoops s x.req { x with later := [] } x.later
        homeGo fuel (setEntry s line { entryOf s line with txn := some x }) line
      else if x.needs && x.data.isNone then
        let (s, x) := fetchData s x
        let s := setEntry s line { entryOf s line with txn := some x }
        if x.memory then s else homeGo fuel s line
      else
        let s := closeTxn s x
        let s := match x.queued with
          | none => s
          | some r =>
            let s := setEntry s r.line { entryOf s r.line with txn := none }
            if (s.core r.core).dead then s
            else match acceptReq s r with
              | some (s, l) => homeGo fuel s l
              | none => refuse s r
        match nextPrio s (homeTile s line) line with
        | none => s
        | some (r, t) => match acceptReq t r with
          | some (t, l) => homeGo fuel t l
          | none => s

/-- A dead tile's router answers a request of its share (R251). -/
def deadAnswer (s : State) (r : Req) : State :=
  let lost : Line := List.replicate 8 (deadWord s r.line)
  let h := homeNode s r.line
  match r.kind with
  | .rds | .rdx | .upg =>
    post s { kind := if r.kind = .rds then .dats else .datm, src := h, dst := r.core, line := r.line, data := some lost, toward := 1, req := some r }
  | .rdo | .atm => post s { kind := .dato, src := h, dst := r.core, line := r.line, data := some lost, req := some r }
  | _ => sarkCount (post s { kind := .cmp, src := h, dst := r.core, line := r.line, req := some r }) 0

/-- The home takes a request off its channel (R238 to R242). -/
def takeReq (s : State) (r : Req) : State :=
  let h := homeTile s r.line
  let t := s.tile h
  let waits := fun (q : Req) => q.line == r.line || (allocates s r && (allocates s q && sfSet q.line == sfSet r.line))
  if t.dead then deadAnswer s r
  else if (s.core r.core).dead then s
  else if (entryOf s r.line).txn.isSome ∨ t.prioQ.any waits then refuse s r
  else if !r.credit && ((t.sf.any fun x => x.2.txn.isSome) && Config.choice s.free (16 * r.line + 6) % 2 == 1) then refuse s r
  else
    match acceptReq s r with
    | none => refuse s r
    | some (s, l) => homeGo 600 (s.modTile h fun t => { t with ptr := (tileOf r.core + 1) % 32 }) l

/-! ## The core's side -/

/-- The credit of a request comes back with the home's answer (R241). -/
def returnCredit (s : State) (r : Option Req) : State :=
  match r with
  | some r =>
    if r.credit then s.modCore r.core fun c => { c with credits := tmod c.credits (homeNode s r.line) 0 fun n => n - 1 } else s
  | none => s

/-- The append that goes with a store enters the append buffer (R267, R268). -/
def Core.addCard (c : Core) (st : PStore) : Core :=
  match st.card with
  | some (k, w, mt, na) => { c with appends := c.appends ++ [{ who := st.who, key := k, word := w, mask := 255, mt := mt, na := na }] }
  | none => c

/-- The counter of the atomic predictor after an atomic (R243). -/
def trainAtom (s : State) (core i : Nat) (contended : Bool) : State :=
  s.modCore core fun c =>
    let v := (tgetD c.atomPred i 1).toNat
    { c with atomPred := tset c.atomPred i (BitVec.ofNat 2 (if contended then min 3 (v + 1) else v - 1)) }

/-- A store is performed in the L1D (R236), with the append that goes with it (R267). -/
def perfStore (s : State) (core : Nat) (st : PStore) : State :=
  let line := st.key / 8
  match tget (s.core core).l1d line with
  | none => s
  | some l =>
    let s := s.modCore core fun c =>
      (c.setL1 line { l with st := .m, data := mergeLine l.data st.key st.word st.mask }).addCard st
    recompare s line

/-- A write that the home performs (WRM) leaves the core; an S copy that the core holds of a write-through line is
updated (R228). -/
def sendWrm (s : State) (core : Nat) (st : PStore) : State :=
  let line := st.key / 8
  let go := { st with sent := true }
  let s := s.modCore core fun c =>
    { c with stores := (match splitAtFirst (· == st) c.stores with | some (a, _, b) => a ++ go :: b | none => c.stores),
             l1d := c.l1d.map fun l => if l.1 = line ∧ l.2.st = .s ∧ st.mt = 1 then (l.1, { l.2 with data := mergeLine l.2.data st.key st.word st.mask }) else l }
  post s { kind := .wrm, src := core, dst := homeNode s line, line := line,
           req := some { kind := .wrm, core := core, line := line, wt := st.mt == 1, na := st.na, word := some go } }

/-- A line that the tile's slice holds as a stash line for the core moves into the L1D in E (R245). -/
def takeStash (s : State) (core : Nat) (who : Option (World × Bool × Nat)) (line : Nat) : Option State :=
  let s := injectL2 s (tileOf core) line
  match tget (s.tile (tileOf core)).l2 line with
  | some l =>
    if l.stash = some core then
      (makeRoom s core who line).map fun s =>
        (s.modTile (tileOf core) fun t => { t with l2 := tdel t.l2 line }).modCore core fun c => c.setL1 line { st := .e, data := l.data }
    else none
  | none => none

/-- An earlier store of the same executor to the word is not yet performed (R253). -/
def storeAhead (c : Core) (st : PStore) : Bool := (c.stores.takeWhile (· != st)).any fun p => p.who == st.who && p.key == st.key

/-- A store performed in the L1D is one that waits no longer. -/
def doStore (s : State) (core : Nat) (st : PStore) : State :=
  perfStore (s.modCore core fun c => { c with stores := c.stores.erase st }) core st

/-- Carries one waiting store on: performed, sent to the home, or its line is asked for (R236, R245, R253). -/
def kickStore (s : State) (core : Nat) (st : PStore) : State :=
  let line := st.key / 8
  let c := s.core core
  if st.sent || (storeAhead c st || recovering s core line) then s
  else
    match if st.home then none else tget c.l1d line with
    | some l =>
      (match l.st with
       | .m | .e =>
         (match l1dHit s core (whoOf s st.who) line none with
          | (.data, s) => doStore s core st
          | (_, s) => s)
       | .s | .o => if c.bypass then s else (missWrite s core (whoOf s st.who) line st.na).getD s
       | _ => s)
    | none =>
      if leaving s core line then s
      else if st.home || c.bypass then sendWrm s core st
      else match takeStash s core (whoOf s st.who) line with
        | some s => doStore s core st
        | none => (missWrite s core (whoOf s st.who) line st.na).getD s

/-- Carries the waiting stores of a core on, in program order. -/
def kickStores (s : State) (core : Nat) : State := (s.core core).stores.foldl (fun s st => kickStore s core st) s

/-- A store of a core to write-back memory, or to a page whose writes go to the home. -/
def issueStore (s : State) (core : Nat) (st : PStore) : State :=
  let st := { st with home := decide (st.mt ≠ 0) || (s.core core).bypass }
  kickStore (s.modCore core fun c => { c with stores := c.stores ++ [st] }) core st

/-- What a core's pending accesses receive. -/
def wakePends (s : State) (core : Nat) (f : Pend → Pend) : State :=
  let s := { s with ctxs := s.ctxs.map fun (c : Nat × Ctx) => if coreOf c.1 = core then (c.1, { c.2 with pend := c.2.pend.map f }) else c }
  s.modCore core fun c => { c with fic := { c.fic with pend := c.fic.pend.map f } }

/-- A pending access waits for a line at the L1I, or at the L1D. -/
def Pend.waitsFor (p : Pend) (ifetch : Bool) (line : Nat) : Bool :=
  p.why.isLine && (p.needs == some line && (p.fetch && p.why == .line) == ifetch)

/-- A line that arrived at an L1 for the accesses that wait for it there: they take its data with them, or, `early`, only those
do that waited when a snoop met the fill, and the others ask again (R247). Contention counts for an access that needs the line
to write (R243). -/
def wakeLine (s : State) (core line : Nat) (ifetch : Bool) (d : Option Line) (contended early : Bool) : State :=
  let s := if contended && !ifetch then s.modCore core fun c => { c with heals := c.heals.map fun h => if h.key / 8 = line then { h with cont := true } else h } else s
  wakePends s core fun p =>
    if p.waitsFor ifetch line then
      { p with ready := true, early := false, contended := p.contended || (contended && p.excl),
               once := match d with | some l => if p.excl || (early && !p.early) then p.once else tset p.once line l | none => p.once }
    else p

/-- The key under which a pending access keeps that its maintenance step of a line is complete, and those of words of
global addresses; keys of words of memory lie below. -/
def maintKey (line : Nat) : Nat := 2 ^ 62 + line
def globKey (va : BitVec 59) : Nat := 2 ^ 61 + va.toNat / 8

/-- Delivers to the one executor of a request: the word of an uncached read or of a far atomic, or its completion. -/
def deliver (s : State) (r : Req) (d : Option Line) (contended : Bool) : State :=
  match r.who with
  | none => s
  | some x =>
    let f := fun (p : Pend) =>
      if p.why.isLine ∧ p.needs = some r.line then
        match d with
        | some l => { p with ready := true, contended := p.contended || (contended && r.kind == .atm), words := (List.range 8).foldl (fun t i => tset t (r.line * 8 + i) (lineWord l i)) p.words }
        | none => { p with ready := true, words := tset p.words (maintKey r.line) nilW }
      else p
    match x with
    | .ctx n => s.modCtx n.toNat fun c => { c with pend := c.pend.map f }
    | .fic k => s.modCore k.toNat fun c => { c with fic := { c.fic with pend := c.fic.pend.map f } }

/-- Takes a message for a core. -/
def takeFor (s : State) (k : MsgK) (core line : Nat) : Option (Msg × State) :=
  takeMsg s fun m => m.kind == k && (m.dst == core && m.line == line)

/-- Words of a dead tile's share reach a core that waits to write them (R251): the fill is use-once, the line goes, and the stores
that wait for it are discarded, each counted. -/
def killFill (s : State) (core line : Nat) : State :=
  let dead := fun (p : PStore) => !p.sent && (!p.home && p.key / 8 == line)
  let n := ((s.core core).stores.filter dead).length
  (List.range n).foldl (fun s _ => sarkCount s 0)
    (s.modCore core fun c => { c with l1d := c.l1d.filter fun l => l.1 != line, stores := c.stores.filter fun p => !dead p })

/-- Data granted to an L1 arrives (R236, R247): installed, or delivered use-once. During a drain the line is delivered and
released (R249). -/
def fill (s : State) (m : Msg) (st : L1) : State :=
  let core := m.dst
  let line := m.line
  let d := m.data.getD []
  let s := returnCredit s m.req
  let ifetch := match m.req with | some r => r.ifetch | none => false
  let c := s.core core
  if ifetch then
    match tget c.l1i line with
    | some l => wakeLine (s.setCore core { c with l1i := if l.once || m.toward == 1 then tdel c.l1i line else tset c.l1i line { l with st := .s, data := d } }) core line true (some d) false l.once
    | none => s
  else
    match tget c.l1d line with
    | none => s
    | some l =>
      let early := l.once && l.st == .isD
      let s := s.setCore core { c with l1d := if early || m.toward == 1 then tdel c.l1d line else tset c.l1d line { l with st := st, data := d, once := false } }
      let s := wakeLine s core line false (some d) (m.flag && st == .m) early
      let s := match m.req with
        | some r => if r.kind = .rds ∧ r.who.isSome then countEvent s core (r.who.elim none (whoOf s)) 0x0A else s
        | none => s
      let s := if c.draining && (l.st == .isD && !(early || m.toward == 1)) then evictL1 s core none line else s
      kickStores (if m.toward = 1 then killFill s core line else s) core

/-- The answers of a core to a snoop (R237). -/
def snoopReply (s : State) (m : Msg) (k : MsgK) (st : Option L1) (d : Option Line) (fwd na : Bool) : State :=
  post s { kind := k, src := m.dst, dst := m.src, line := m.line, st := st, data := d, flag := fwd || na, req := m.req }

/-- Data from an owner to the requester. -/
def forward (s : State) (m : Msg) (k : MsgK) (d : Line) : State :=
  post s { kind := k, src := m.dst, dst := m.toward, line := m.line, data := some d, flag := true, req := m.req }

/-- A snoop marks the fills of a line that an L1 awaits use-once, for the accesses that wait for them now (R247). -/
def useOnce (s : State) (core line : Nat) (ifetch : Bool) : State :=
  let mark := fun (l : Nat × L1Line) => if l.1 = line ∧ l.2.st = .isD then (l.1, { l.2 with once := true }) else l
  let s := s.modCore core fun c => if ifetch then { c with l1i := c.l1i.map mark } else { c with l1d := c.l1d.map mark }
  wakePends s core fun p => if p.waitsFor ifetch line && !p.ready then { p with early := true } else p

/-- The L1I's part of a snoop that invalidates: an S copy goes, a fill becomes use-once. -/
def snoopL1i (s : State) (core line : Nat) : State :=
  match tget (s.core core).l1i line with
  | some l =>
    (match l.st with
     | .s => s.modCore core fun c => { c with l1i := tdel c.l1i line }
     | .isD => useOnce s core line true
     | _ => s)
  | none => s

/-- A snoop that takes data from an L1D line reads its array (R52): a clean copy that fails is gone. -/
def snoopError (s : State) (k : MsgK) (core line : Nat) : State × Bool :=
  match tget (s.core core).l1d line with
  | none => (s, false)
  | some l =>
    let reads := k == .sns || (k == .snx || (k == .snr || ((k == .snc || k == .snf) && (l.st == .m || l.st == .o))))
    if !reads then (s, false)
    else match l1dError s core line none with
      | (s, true) => (s.modCore core fun c => { c with l1d := tdel c.l1d line }, true)
      | (s, false) => (s, false)

/-- A snoop that has reached a core finds its L1D without the line (R237): a fill that the L1I awaits becomes use-once. -/
def snoopAbsent (s : State) (m : Msg) (core line : Nat) (inval : Bool) (i : Option L1Line) : State :=
  match i with
  | some l =>
    if l.st = .isD then snoopReply (useOnce s core line true) m .acku none none false false
    else
      let here := l.st == .s
      snoopReply s m (if m.kind == .snr && here then .ackd else .ack) (if here && !inval then some .s else none)
        (if m.kind == .snr && here then some l.data else none) false false
  | none => snoopReply s m .ack none none false false

/-- The answer of an L1D that holds the line in some state (R237). -/
def snoopHeld (s : State) (m : Msg) (k : MsgK) (core line : Nat) (l : L1Line) : State :=
  let inval := k == .snx || (k == .sni || k == .snf)
  let set := fun (s : State) (st : L1) => s.modCore core fun c => c.setL1 line { l with st := st }
  let del := fun (s : State) => s.modCore core fun c => { c with l1d := tdel c.l1d line }
  let ack := fun (s : State) (st : Option L1) (fwd : Bool) => snoopReply s m .ack st none fwd false
  let data := fun (s : State) (st : Option L1) => snoopReply s m .ackd st (some l.data) false l.na
  match l.st with
  | .isD => snoopReply (useOnce s core line false) m .acku none none false false
  | .imD => s
  | .xiA => snoopReply s m (if l.dirty then .ackw else .ack) none none false false
  | .s => if inval then ack (del s) none false else if k = .snr then data s (some .s) else ack s (some .s) false
  | .smA => if inval then ack (set s .imD) none false else if k = .snr then data s (some .s) else ack s (some .s) false
  | .e =>
    (match k with
     | .sns => ack (forward (set s .s) m .dats l.data) (some .s) true
     | .snx => ack (forward (del s) m .datm l.data) none true
     | .snr => snoopReply s m .ackd (some .e) (some l.data) false false
     | .snc => ack s (some .e) false
     | _ => ack (del s) none false)
  | .m =>
    (match k with
     | .sns => if m.flag then snoopReply s m .ackn (some .m) none false false else ack (forward (set s .o) m .dats l.data) (some .o) true
     | .snx => ack (forward (del s) m .datm l.data) none true
     | .sni => ack (del s) none false
     | .snr => data s (some .m)
     | .snc => data (set s .e) (some .e)
     | _ => data (del s) none)
  | .o =>
    (match k with
     | .snx => ack (forward (del s) m .datm l.data) none true
     | .sni => ack (del s) none false
     | .snr => data s (some .o)
     | .snc => data (set s .s) (some .s)
     | .sns => ack (forward s m .dats l.data) (some .o) true
     | _ => data (del s) none)
  | .omA =>
    (match k with
     | .sns => ack (forward s m .dats l.data) (some .o) true
     | .snx => ack (forward (set s .imD) m .datm l.data) none true
     | .sni => ack (set s .imD) none false
     | .snr => data s (some .o)
     | .snc => data (set s .smA) (some .s)
     | _ => data (set s .imD) none)

/-- A snoop reaches a core (R237). SNS of a line in O, which the table marks as never produced and the home's RDS sends, is
answered as from OM_A (log entry 94). -/
def snoop (s : State) (k : MsgK) (core line : Nat) : State :=
  match takeFor s k core line with
  | none => s
  | some (m, s') =>
    if heldSnoop s m then s
    else
      let i := tget (s'.core core).l1i line
      let inval := k == .snx || (k == .sni || k == .snf)
      match snoopError s' k core line with
      | (s, true) => snoopReply (if inval then snoopL1i s core line else s) m .acku none none false false
      | (s, false) =>
        match tget (s.core core).l1d line with
        | none => snoopAbsent (if inval then snoopL1i s core line else s) m core line inval i
        | some l => snoopHeld (if inval then snoopL1i s core line else s) m k core line l

/-- A home receives an answer to a snoop (R239). -/
def snoopAnswer (s : State) (k : MsgK) (core line : Nat) : State :=
  match takeMsg s fun m => m.kind == k && (m.src == core && (m.line == line && m.dst == homeNode s line)) with
  | none => s
  | some (m, s) =>
    let e := entryOf s line
    match e.txn with
    | none => s
    | some x =>
      if !x.awaiting.contains core then s
      else
        let x := { x with awaiting := x.awaiting.erase core }
        match k with
        | .ack =>
          let x := if m.flag then { x with moved := true } else x
          homeGo 600 (setEntry s line { e.report core m.st with txn := some x }) line
        | .ackd =>
          -- data returned to the home is written to L2 (R238), but for clean data of an SNR, which R227 does not install
          let clean := m.st == some .e && x.req.kind == .rdo || m.st == some .s && x.req.kind == .rdo
          let x := if x.needs then { x with data := m.data } else x
          let s := setEntry s line { e.report core m.st with txn := some x }
          let s := match m.data with
            | some d => if clean ∨ x.req.kind = .inv then s else absorb s line d m.flag
            | none => s
          homeGo 600 s line
        | .ackw =>
          if x.wbSeen.contains core then homeGo 600 (setEntry s line { e with txn := some x }) line
          else setEntry s line { e with txn := some { x with wbWait := x.wbWait ++ [core] } }
        | .acku => homeGo 600 (setEntry s line { e.drop core with txn := some x }) line
        | .ackn => homeGo 600 (setEntry s line { e with txn := some { x with declined := true } }) line
        | _ => s

/-- A core that still holds a line in its other L1 stays named (R232). -/
def otherL1 (s : State) (core line : Nat) (fromD : Bool) : Bool :=
  let t := if fromD then (s.core core).l1i else (s.core core).l1d
  match tget t line with
  | some l => l.st != .xiA
  | none => false

/-- A home processes WBD or EVC (R238, R239): always, busy or not. -/
def homeWb (s : State) (k : MsgK) (core line : Nat) : State :=
  match takeMsg s fun m => m.kind == k && (m.src == core && (m.line == line && m.dst == homeNode s line)) with
  | none => s
  | some (m, s) =>
    let t := s.tile (homeTile s line)
    let wba := fun (s : State) => if (s.core core).dead then s else post s { kind := .wba, src := homeNode s line, dst := core, line := line, toward := m.toward }
    if t.dead then sarkCount (wba s) 0
    else if (s.core core).dead then s
    else
      let e := entryOf s line
      let e' := if otherL1 s core line (m.toward != 1) then (if e.owner = core ∧ (e.st = .ex ∨ e.st = .os) then e.report core (some .s) else e) else e.drop core
      let inv : Bool := match e.txn with | some x => x.req.kind == .inv | none => false
      let x := e.txn.map fun x =>
        { x with wbSeen := core :: x.wbSeen, wbWait := x.wbWait.erase core,
                 data := if k == .wbd && x.needs then m.data else x.data }
      let s := setEntry s line { e' with txn := x }
      let s := match m.data with
        | some d => if inv then s else absorb s line d m.flag
        | none => s
      homeGo 600 (wba s) line

/-- Messages about a line that reach its home in the same cycle as a given one, whose channels they head: which they are is a
free choice (R242). -/
def sameCycle (s : State) (m : Msg) (p : MsgK → Bool) : List Msg :=
  s.mesh.filter fun n => p n.kind && (n.line == m.line && (n.dst == m.dst && (n.src != m.src
    && ((takeMsg s fun q => q == n).isSome && Config.choice s.free (16 * n.src + 12) % 2 == 1))))

/-- Requests that a core sends about a line. -/
def MsgK.asks (k : MsgK) : Bool := k.vc == 0 && k != .tagq

/-- Of two requests, the one whose tile comes first counting upwards from the home's pointer (R242). -/
def firstFrom (ptr : Nat) (a b : Msg) : Msg :=
  let rank := fun (m : Msg) => ((tileOf m.src + 32 - ptr) % 32) * 256 + m.src
  if rank b < rank a then b else a

/-- A home takes the first message of a kind from a core about a line, with what reaches it in the same cycle (R242): first every
WBD and EVC, then one request, and the others are refused. Nothing happens where there is no such message. -/
def homeReq (s : State) (k : MsgK) (core line : Nat) : State :=
  match takeMsg s fun m => m.kind == k && (m.src == core && (m.line == line && m.dst == homeNode s line)) with
  | none => s
  | some (m, s') =>
    let rivals := sameCycle s m MsgK.asks
    let s' := (sameCycle s m fun k => k.vc == 4).foldl (fun s n => homeWb s n.kind n.src line) s'
    let first := rivals.foldl (firstFrom (s.tile (homeTile s line)).ptr) m
    let s' := { s' with mesh := s'.mesh.filter fun n => !rivals.contains n }
    let s' := match first.req with | some r => takeReq s' r | none => s'
    ((m :: rivals).filter (· != first)).foldl (fun s n => match n.req with | some r => refuse s r | none => s) s'

/-- The memory read of a line's transaction has come back (R238): the data, and the L2 copy under R227. -/
def memArrived (s : State) (line : Nat) : State :=
  let e := entryOf s line
  match e.txn with
  | some x =>
    if x.memory then
      let d := memLine s line
      let keeps := match x.req.kind with
        | .rds | .rdx | .upg | .atm => !x.req.na
        | _ => false
      let s := setEntry s line { e with txn := some { x with memory := false, data := some d } }
      let s := if keeps then l2Put s (homeTile s line) line { dirty := false, data := d } else s
      let mate := if line % 2 = 0 then line + 1 else line - 1
      let s := if keeps && ((l2Data s mate).isNone && ((ownerData s.cores mate).isNone && ((entryOf s mate).txn.isNone && Config.choice s.free (16 * line + 8) % 2 == 1)))
        then l2Put s (homeTile s mate) mate { dirty := false, data := memLine s mate } else s
      homeGo 600 s line
    else s
  | none => s

end Sys2Proof.Machine
end

