-- ==== Sys2Proof/Machine/Coherence.lean ====
section
/-! DEFINITION. The commands of the homes and the L1 caches (R230, R236 to R250). -/

namespace Sys2Proof.Machine

/-! ## Requests at the home -/

def execRds (core : BitVec 8) (line : BitVec 37) (s : State) : Out := .next (homeReq s .rds core.toNat line.toNat).tick
def execRdx (core : BitVec 8) (line : BitVec 37) (s : State) : Out := .next (homeReq s .rdx core.toNat line.toNat).tick
def execUpg (core : BitVec 8) (line : BitVec 37) (s : State) : Out := .next (homeReq s .upg core.toNat line.toNat).tick
def execRdo (core : BitVec 8) (line : BitVec 37) (s : State) : Out := .next (homeReq s .rdo core.toNat line.toNat).tick
def execWrm (core : BitVec 8) (line : BitVec 37) (s : State) : Out := .next (homeReq s .wrm core.toNat line.toNat).tick
def execAtm (core : BitVec 8) (line : BitVec 37) (s : State) : Out := .next (homeReq s .atm core.toNat line.toNat).tick
def execCln (core : BitVec 8) (line : BitVec 37) (s : State) : Out := .next (homeReq s .cln core.toNat line.toNat).tick
def execFls (core : BitVec 8) (line : BitVec 37) (s : State) : Out := .next (homeReq s .fls core.toNat line.toNat).tick
def execHomeInv (core : BitVec 8) (line : BitVec 37) (s : State) : Out := .next (homeReq s .inv core.toNat line.toNat).tick
def execWbd (core : BitVec 8) (line : BitVec 37) (s : State) : Out := .next (homeWb s .wbd core.toNat line.toNat).tick
def execEvc (core : BitVec 8) (line : BitVec 37) (s : State) : Out := .next (homeWb s .evc core.toNat line.toNat).tick

/-- WRF of an agent reaches the home (R238): every copy is invalidated and the line is written once the answers are there. On a
busy line the agent is sent RTY; its copy of the request stays with it. -/
def wrf (s : State) (line : Nat) (data : Line) (stash : Option Nat) : State :=
  if deadHome s line then sarkCount s 0
  else
    let s := wakeTile s (homeTile s line)
    if (entryOf s line).txn.isSome then s
    else homeGo 600 (openTxn s { kind := .wrf, core := 512, line := line, data := some data, stash := stash }) line

def execWrf (line : BitVec 37) (data : List W) (stash : Option (BitVec 9)) (s : State) : Out :=
  .next (if data.length = 8 then wrf s line.toNat data (stash.map fun c => c.toNat) else s).tick

/-! ## Tag recovery (R230) -/

/-- A tag parity error is found in a set of an L1: which ways of the L1D and of the L1I fail is a free choice, the first of the
stable ways at least; every home is asked. -/
def tagFault (s : State) (core set : Nat) : State :=
  let c := s.core core
  let ways := fun (i : Bool) (t : Tbl L1Line) => (t.filter fun l => l.1 % 128 == set && l.2.st.stable).map fun l => (i, l.1)
  let all := ways false c.l1d ++ ways true c.l1i
  let failed := (all.zip (List.range all.length)).filter fun w => w.2 == 0 || Config.choice s.free (16 * (16 * set + w.2) + 10) % 2 == 1
  let s := s.setCore core { c with tagErr := c.tagErr ++ [{ set := set, ways := failed.map fun w => w.1 }] }
  (List.range 32).foldl (fun s t => post s { kind := .tagq, src := core, dst := 256 + t, line := set }) s

/-- What a home lists in answer to TAGQ: the lines of the set whose entry names the core, and whether as owner. -/
def tagList (s : State) (core set tile : Nat) : List (Nat × Bool) :=
  ((s.tile tile).sf.filter fun e => e.1 % 128 == set && e.2.holders.contains core).map fun e =>
    (e.1, e.2.owner == core && (e.2.st == .ex || e.2.st == .os))

/-- A home answers TAGQ. -/
def tagQuery (s : State) (core set tile : Nat) : State :=
  let s := if (s.core core).tagErr.any fun e => e.set == set then s else tagFault s core set
  match takeMsg s fun m => m.kind == .tagq && (m.src == core && (m.line == set && m.dst == 256 + tile)) with
  | some (m, s) => post s { kind := .tagr, src := m.dst, dst := core, line := set, tags := tagList s core set tile }
  | none => s

def execTagq (core : BitVec 8) (set : BitVec 7) (tile : BitVec 5) (s : State) : Out :=
  .next (if coreLive s core.toNat then tagQuery s core.toNat set.toNat tile.toNat else s).tick

/-- A copy of a line in S at another core. -/
def otherShared (s : State) (core line : Nat) : Option Line :=
  s.cores.findSome? fun c =>
    if c.1 = core then none
    else match tget c.2.l1d line with
      | some l => if l.st = .s ∨ l.st = .smA then some l.data else none
      | none => (match tget c.2.l1i line with | some l => if l.st = .s then some l.data else none | none => none)

/-- A line whose way failed is recovered at its home as one of which the core was owner (R230 step 4): `sole`, the one line that
remains of one failed way, is written back. The words that become LOST carry the number of the next fault record, since the
recovery itself writes none (log entry 94). -/
def recoverOwned (s : State) (core line : Nat) (sole : Bool) : State :=
  match tget (s.core core).l1d line with
  | none => s
  | some l =>
    let armed := s.mem.armed.any fun v => injArray v == 0 && (injUnit v == core && injBits v == 2)
    if sole && !armed then evictL1 (s.modCore core fun c => c.setL1 line { l with st := .m }) core none line
    else
      let s := setEntry (s.modCore core fun c => { c with l1d := tdel c.l1d line }) line ((entryOf s line).drop core)
      match otherShared s core line with
      | some d => absorb s line d false
      | none =>
        let s := s.modTile (homeTile s line) fun t => { t with l2 := tdel t.l2 line }
        recompare (storeLine s line (List.replicate 8 (lostW s 2 3 core s.sark.nextSeq))) line

/-- One line that remains on the homes' lists: released as a sharer's, or recovered as an owner's. -/
def recoverWay (s : State) (core : Nat) (w : Bool × Nat) (owner sole : Bool) : State :=
  if owner then recoverOwned s core w.2 sole
  else if w.1 then
    post (s.modCore core fun c => c.setL1i w.2 { st := .xiA }) { kind := .evc, src := core, dst := homeNode s w.2, line := w.2, toward := 1 }
  else
    let l := tgetD (s.core core).l1d w.2 {}
    evictL1 (s.modCore core fun c => c.setL1 w.2 { l with st := .s }) core none w.2

/-- Recovers the ways that remain, as the limit of writebacks allows (R234); the recovery ends with the last of them. -/
def recoverSet (s : State) (core set : Nat) : State :=
  match (s.core core).tagErr.find? fun e => e.set == set && e.final with
  | none => s
  | some e =>
    let owned := fun (line : Nat) => e.got.any fun g => g.1 == line && g.2
    let sole := decide ((e.todo.filter fun w => owned w.2).length ≤ 1) && decide (e.ways.length = 1)
    let step := fun (a : State × List (Bool × Nat)) (w : Bool × Nat) =>
      if wbOut a.1 core (homeNode a.1 w.2) < 4 then (recoverWay a.1 core w (owned w.2) sole, a.2) else (a.1, a.2 ++ [w])
    let (s, left) := e.todo.foldl step (s, [])
    let keep := fun (x : TagErr) => if x.set = set then (if left = [] then none else some { x with todo := left }) else some x
    let s := s.modCore core fun c => { c with tagErr := c.tagErr.filterMap keep }
    if left = [] then kickStores (sarkCount s 1) core else s

/-- A core receives TAGR; with the last answer, the lines that no intact way holds, and no slice as a stash line for the core,
belong to the failed ways; the other failed ways held nothing. -/
def tagAnswer (s : State) (core set : Nat) : State :=
  match takeFor s .tagr core set with
  | none => s
  | some (m, s) =>
    let more := s.mesh.any fun m => m.line == set && ((m.kind == .tagr && m.dst == core) || (m.kind == .tagq && m.src == core))
    let c := s.core core
    let close := fun (e : TagErr) =>
      if e.set = set then
        let got := e.got ++ m.tags
        let e := { e with got := got }
        if more then e
        else
          let intact := fun (line : Nat) => (c.l1d.any fun l => l.1 == line && !e.ways.contains (false, line)) || ((c.l1i.any fun l => l.1 == line && !e.ways.contains (true, line))
            || (match tget (s.tile (tileOf core)).l2 line with | some l => l.stash == some core | none => false))
          let lost := got.filter fun g => !intact g.1
          { e with final := true, todo := lost.map fun g => (!e.ways.contains (false, g.1), g.1) }
      else e
    let s := s.setCore core { c with tagErr := c.tagErr.map close }
    if more then s
    else
      let todo := ((s.core core).tagErr.filter fun e => e.set == set).flatMap fun e => e.todo
      let ways := (c.tagErr.filter fun e => e.set == set).flatMap fun e => e.ways
      let gone := ways.filter fun w => !(todo.any fun d => d.2 == w.2 && d.1 == w.1)
      let s := s.modCore core fun c => { c with l1d := c.l1d.filter fun l => !gone.contains (false, l.1), l1i := c.l1i.filter fun l => !gone.contains (true, l.1) }
      recoverSet s core set

def execTagr (core : BitVec 8) (set : BitVec 7) (s : State) : Out := .next (tagAnswer s core.toNat set.toNat).tick

/-! ## Snoops at an L1 -/

def execSns (core : BitVec 8) (line : BitVec 37) (s : State) : Out := .next (snoop s .sns core.toNat line.toNat).tick
def execSnx (core : BitVec 8) (line : BitVec 37) (s : State) : Out := .next (snoop s .snx core.toNat line.toNat).tick
def execSni (core : BitVec 8) (line : BitVec 37) (s : State) : Out := .next (snoop s .sni core.toNat line.toNat).tick
def execSnr (core : BitVec 8) (line : BitVec 37) (s : State) : Out := .next (snoop s .snr core.toNat line.toNat).tick
def execSnc (core : BitVec 8) (line : BitVec 37) (s : State) : Out := .next (snoop s .snc core.toNat line.toNat).tick
def execSnf (core : BitVec 8) (line : BitVec 37) (s : State) : Out := .next (snoop s .snf core.toNat line.toNat).tick

/-! ## Answers at the home -/

def execAck (core : BitVec 8) (line : BitVec 37) (s : State) : Out := .next (snoopAnswer s .ack core.toNat line.toNat).tick
def execAckd (core : BitVec 8) (line : BitVec 37) (s : State) : Out := .next (snoopAnswer s .ackd core.toNat line.toNat).tick
def execAckw (core : BitVec 8) (line : BitVec 37) (s : State) : Out := .next (snoopAnswer s .ackw core.toNat line.toNat).tick
def execAcku (core : BitVec 8) (line : BitVec 37) (s : State) : Out := .next (snoopAnswer s .acku core.toNat line.toNat).tick
def execAckn (core : BitVec 8) (line : BitVec 37) (s : State) : Out := .next (snoopAnswer s .ackn core.toNat line.toNat).tick

/-- A refused stash line is placed in the L2 of the core's tile (R245): at the line's home as an ordinary home line, else as a
stash line held for the core, where a way can be had. A copy that the home already has keeps its data. -/
def stashRefused (s : State) (core line : Nat) : State :=
  match takeMsg s fun m => m.kind == .nakst && (m.src == core && (m.line == line && m.dst == homeNode s line)) with
  | none => s
  | some (m, s) =>
    let e := entryOf s line
    let d := m.data.getD []
    let t := tileOf core
    let x := e.txn.map fun x => { x with awaiting := x.awaiting.erase core }
    let s := if t = homeTile s line then
        setEntry (if (l2Data s line).isSome then s else l2Put s t line { dirty := false, data := d }) line { e with txn := x }
      else
        let s := l2Put s t line { dirty := false, data := d, stash := some core }
        setEntry s line (if (tget (s.tile t).l2 line).isSome then { e.own core with txn := x } else { e with txn := x })
    homeGo 600 s line

def execNakst (core : BitVec 8) (line : BitVec 37) (s : State) : Out := .next (stashRefused s core.toNat line.toNat).tick

/-! ## Answers at the requester -/

/-- RTY: the request waits to be sent again; its fifth attempt is marked priority (R241). -/
def retried (s : State) (core line : Nat) : State :=
  match takeFor s .rty core line with
  | none => s
  | some (m, s) =>
    let s := returnCredit s m.req
    match m.req with
    | some r => s.modCore core fun c => { c with retries := c.retries ++ [{ r with tries := r.tries + 1, credit := false, prio := decide (5 ≤ r.tries + 1) }] }
    | none => s

def execRty (core : BitVec 8) (line : BitVec 37) (s : State) : Out := .next (retried s core.toNat line.toNat).tick

/-- The message of a request. -/
def ReqK.msg : ReqK → MsgK
  | .rds => .rds | .rdx => .rdx | .upg => .upg | .rdo => .rdo | .wrm => .wrm | .atm => .atm | .cln => .cln | .fls => .fls
  | .inv => .inv | .evict => .inv | .wrf => .wrm

/-- Sends a request. -/
def sendReq (s : State) (r : Req) : State := post s { kind := r.kind.msg, src := r.core, dst := homeNode s r.line, line := r.line, req := some r }

/-- A refused request is sent again, with one of the core's two credits of the home (R241). -/
def resend (s : State) (core line : Nat) : State :=
  let c := s.core core
  match splitAtFirst (fun (r : Req) => r.line == line) c.retries with
  | none => s
  | some (a, r, b) =>
    let h := homeNode s line
    if tgetD c.credits h 0 < 2 then
      sendReq (s.setCore core { c with retries := a ++ b, credits := tmod c.credits h 0 fun n => n + 1 }) { r with credit := true }
    else s

def execRequestResend (core : BitVec 8) (line : BitVec 37) (s : State) : Out := .next (resend s core.toNat line.toNat).tick

/-- NAKS (R236): the load that waits sends RDS again once its branch is resolved; a fill nobody waits for is dropped. -/
def notServed (s : State) (core line : Nat) : State :=
  match takeFor s .naks core line with
  | none => s
  | some (m, s) =>
    let s := returnCredit s m.req
    let waits := fun (p : Option Pend) => match p with | some p => p.why.isLine && p.needs == some line | none => false
    let wanted := s.ctxs.any (fun c => coreOf c.1 == core && waits c.2.pend) || waits (s.core core).fic.pend
    if wanted then (match m.req with | some r => sendReq s { r with spec := false, credit := false, who := none } | none => s)
    else s.modCore core fun c => { c with l1d := c.l1d.filter fun l => !(l.1 == line && l.2.st == .isD) }

def execNaks (core : BitVec 8) (line : BitVec 37) (s : State) : Out := .next (notServed s core.toNat line.toNat).tick

/-- PRG (R65): the latency of the accesses that wait for the line is estimated again; above swap_thresh their contexts
swap out. -/
def progress (s : State) (core line : Nat) : State :=
  match takeFor s .prg core line with
  | none => s
  | some (m, s) =>
    let est := dval s 0x3200 (if m.flag then 0x06 else 0x07)
    if est ≤ dval s 0x3200 0x02 then s
    else
      s.ctxs.foldl (fun s c =>
        let p := (s.ctx c.1).pend
        let waits := match p with | some p => (p.why == .line || p.why == .walk) && (p.needs == some line && !p.ready) | none => false
        if coreOf c.1 = core ∧ waits = true ∧ c.2.dir.state = .active ∧ c.2.stopped = false then
          queueSwap (countEvent (s.modCtx c.1 fun c => { c with dir := { c.dir with wait := 1 } }) core (evWho c.2) 0x0F) c.1 .waitMem
        else s) s

def execPrg (core : BitVec 8) (line : BitVec 37) (s : State) : Out := .next (progress s core.toNat line.toNat).tick

/-- GNT: a line in SM_A or OM_A enters M, and the stores that wait for it are performed (R236). -/
def granted (s : State) (core line : Nat) : State :=
  match takeFor s .gnt core line with
  | none => s
  | some (m, s) =>
    let s := returnCredit s m.req
    match tget (s.core core).l1d line with
    | some l =>
      if l.st = .smA ∨ l.st = .omA then
        kickStores (wakeLine (s.modCore core fun c => c.setL1 line { l with st := .m }) core line false none m.flag false) core
      else s
    | none => s

def execGnt (core : BitVec 8) (line : BitVec 37) (s : State) : Out := .next (granted s core.toNat line.toNat).tick

/-- CMP: a write or a maintenance step is complete (R246). -/
def completed (s : State) (core line : Nat) : State :=
  match takeFor s .cmp core line with
  | none => s
  | some (m, s) =>
    let s := returnCredit s m.req
    match m.req with
    | some r =>
      match r.word with
      | some st => kickStores (s.modCore core fun c => { c with stores := c.stores.erase st }.addCard st) core
      | none => deliver s r none false
    | none => s

def execCmp (core : BitVec 8) (line : BitVec 37) (s : State) : Out := .next (completed s core.toNat line.toNat).tick

/-- WBA: a line leaves XI_A (R236), and what waited for it goes on. -/
def wbDone (s : State) (core line : Nat) : State :=
  match takeFor s .wba core line with
  | none => s
  | some (m, s) =>
    let gone := fun (t : Tbl L1Line) => t.filter fun l => !(l.1 == line && l.2.st == .xiA)
    let s := s.modCore core fun c => if m.toward = 1 then { c with l1i := gone c.l1i } else { c with l1d := gone c.l1d }
    let s := wakePends s core fun p => if p.why.isLine then { p with ready := p.ready || p.needs == some line } else p
    kickStores ((s.core core).tagErr.foldl (fun s e => recoverSet s core e.set) s) core

def execWba (core : BitVec 8) (line : BitVec 37) (s : State) : Out := .next (wbDone s core.toNat line.toNat).tick

/-- Data of a kind reaches an L1. -/
def dataTo (s : State) (k : MsgK) (st : L1) (core line : Nat) : State :=
  match takeFor s k core line with
  | none => s
  | some (m, s) => fill s m st

def execDats (core : BitVec 8) (line : BitVec 37) (s : State) : Out := .next (dataTo s .dats .s core.toNat line.toNat).tick
def execDate (core : BitVec 8) (line : BitVec 37) (s : State) : Out := .next (dataTo s .date .e core.toNat line.toNat).tick
def execDatm (core : BitVec 8) (line : BitVec 37) (s : State) : Out := .next (dataTo s .datm .m core.toNat line.toNat).tick

/-- DATO: uncached data or the old value of a far atomic (R238); a far heal is done (R262). -/
def uncached (s : State) (core line : Nat) : State :=
  match takeFor s .dato core line with
  | none => s
  | some (m, s) =>
    let s := returnCredit s m.req
    match m.req with
    | some r =>
      match r.who with
      | some _ => deliver s r m.data m.flag
      | none =>
        (match splitAtFirst (fun (h : Heal) => h.sent && h.key / 8 == line) (s.core core).heals with
         | some (a, h, b) => trainAtom (s.modCore core fun c => { c with heals := a ++ b }) core h.idx m.flag
         | none => s)
    | none => s

def execDato (core : BitVec 8) (line : BitVec 37) (s : State) : Out := .next (uncached s core.toNat line.toNat).tick

/-! ## The drain of an L1D (R249), heals (R262) and appends (R268) -/

/-- The drain writes back and releases the lines that remain, those of fills as they arrive; it ends when none does, and l1d_bypass then follows
l1d_off. -/
def drainStep (s : State) (core : Nat) : State :=
  let c := s.core core
  if !c.draining then s
  else if c.l1d = [] then s.setCore core { c with draining := false, bypass := c.cfg.getLsbD 0 }
  else
    c.l1d.foldl (fun s l => if l.2.st.stable && decide (wbOut s core (homeNode s l.1) < 4) then evictL1 s core none l.1 else s) s

def execL1dDrainComplete (core : BitVec 8) (s : State) : Out := .next (drainStep s core.toNat).tick

/-- A healing write is performed (R262), after the executor's earlier stores to the word: near where the L1D holds the line in M
or E, or once it does; far as the compare-and-swap of the home (R243). -/
def healStep (s : State) (core : Nat) : State :=
  match (s.core core).heals with
  | [] => s
  | h :: rest =>
    let line := h.key / 8
    let c := s.core core
    let own : Bool := match tget c.l1d line with | some l => l.st == .m || l.st == .e | none => false
    if h.sent || (recovering s core line || c.stores.any fun p => p.who == h.who && p.key == h.key) then s
    else if h.far || c.bypass then
      if leaving s core line then s
      else sendReq (s.modCore core fun c => { c with heals := { h with sent := true } :: rest })
        { kind := .atm, core := core, line := line, na := h.na, atom := some (h.key, 5, h.new, h.old) }
    else if own then
      match l1dHit s core (whoOf s h.who) line (some (h.key % 8)) with
      | (.data, s) =>
        let s := trainAtom (s.modCore core fun c => { c with heals := rest }) core h.idx h.cont
        (match tget (s.core core).l1d line with
         | some l => if lineWord l.data h.key = h.old then perfStore s core { who := h.who, key := h.key, word := h.new, mask := 255 } else s
         | none => s)
      | (_, s) => s
    else match takeStash s core (whoOf s h.who) line with
      | some s => s
      | none => (missWrite s core (whoOf s h.who) line h.na).getD s

def execLoadbarHealWrite (core : BitVec 8) (s : State) : Out := .next (healStep s core.toNat).tick

/-- A barrier append leaves the append buffer and is performed as a store of its context (R268). -/
def appendStep (s : State) (core : Nat) : State :=
  match (s.core core).appends with
  | [] => s
  | a :: rest => issueStore (countEvent (s.modCore core fun c => { c with appends := rest }) core (whoOf s a.who) 0x17) core a

def execLogAppend (core : BitVec 8) (s : State) : Out := .next (appendStep s core.toNat).tick

/-! ## Dead cores (R250) -/

/-- The words that a line of a dead owner becomes. -/
def deadCoreLine (s : State) (core : Nat) : Line :=
  List.replicate 8 (deadCoreWord s core)

/-- One entry that names the dead core. -/
def reclaimEntry (s : State) (core line : Nat) : State :=
  let e := entryOf s line
  let h := homeTile s line
  let owner := decide (e.owner = core) && (e.st == .ex || e.st == .os)
  let lose := fun (s : State) =>
    let s := s.modTile h fun t => { t with l2 := tdel t.l2 line }
    recompare (storeLine s line (deadCoreLine s core)) line
  let s := if !owner then setEntry s line (e.drop core)
    else if e.st = .os ∧ e.sharers ≠ [] then
      (match otherShared s core line with
       | some d => setEntry (l2Put s h line { dirty := true, data := d }) line (e.drop core)
       | none => lose (setEntry s line (e.drop core)))
    else lose (setEntry s line (e.drop core))
  let e := entryOf s line
  match e.txn with
  | none => s
  | some x =>
    let waits := x.awaiting.contains core || (x.wbWait.contains core || x.later.any fun t => t.1 == core)
    let x := { x with awaiting := x.awaiting.erase core, wbWait := x.wbWait.erase core, later := x.later.filter fun t => t.1 != core,
                      data := if waits && (owner && x.needs) then (match l2Data s line with | some d => some d | none => some (memLine s line)) else x.data }
    homeGo 600 (setEntry s line { e with txn := some x }) line

/-- The answers to snoops that a dead core sent before its declaration reach their homes. -/
def lastAnswers (s : State) (core : Nat) : State :=
  (s.mesh.filter fun m => m.src == core && (m.kind == .ack || (m.kind == .ackd || (m.kind == .acku || (m.kind == .ackn || m.kind == .ackw))))).foldl
    (fun s m => snoopAnswer s m.kind core m.line) s

/-- Every home reclaims the lines that name a dead core; its requests are discarded. A core that a spare site took over
is in service afterwards (R477). -/
def reclaimCore (s : State) (core : Nat) : State :=
  let s := lastAnswers s core
  let mine := fun (m : Msg) => (m.src == core && (m.kind.vc == 0 || m.kind.vc == 4)) || m.dst == core
  let s := { s with mesh := s.mesh.filter fun m => !mine m }
  let s := { s with tiles := s.tiles.map fun (t : Nat × Tile) => (t.1, { t.2 with prioQ := t.2.prioQ.filter fun r => r.core != core,
                                                                                  l2 := t.2.l2.filter fun l => l.2.stash != some core }) }
  let s := s.modCore core fun c => { c with l1d := [], l1i := [], stores := [], appends := [], heals := [], retries := [], credits := [], tagErr := [] }
  s.tiles.foldl (fun s t => t.2.sf.foldl (fun s e =>
    let waits := match e.2.txn with | some x => x.awaiting.contains core || (x.wbWait.contains core || x.later.any fun t => t.1 == core) | none => false
    if e.2.holders.contains core || waits then reclaimEntry s core e.1 else s) s) s

def execDeadCoreReclaim (core : BitVec 8) (s : State) : Out :=
  .next (if (s.core core.toNat).dead then
    (reclaimCore s core.toNat).modCore core.toNat fun c => { c with dead := c.life == .retired } else s).tick

end Sys2Proof.Machine
end

