-- ==== Sys2Proof/Machine/MemCtl.lean ====
section
/-! DEFINITION. The commands of the memory controllers (R46 to R49, R289 to R293). -/

namespace Sys2Proof.Machine

/-- The read of a codeword that a home started comes back (R46, R238). -/
def codewordRead (s : State) (pair : Nat) : State :=
  let waits := fun (line : Nat) => match (entryOf s line).txn with | some x => x.memory | none => false
  if waits (2 * pair) || waits (2 * pair + 1) then memArrived (memArrived (demandRead s pair) (2 * pair)) (2 * pair + 1) else s

def execCodewordReadComplete (pair : BitVec 36) (s : State) : Out := .next (codewordRead s pair.toNat).tick

/-- The pair that a codeword of a controller holds (R280, R286); none for a reserve codeword. -/
def pairAt (s : State) (mc group q : Nat) : Option Nat :=
  let i := q / 32
  if mc < 8 then
    if 7340032 ≤ q then none
    else
      let low := nxor (nxor (mc + 8 * group) (i % 256)) (i / 256 % 256)
      some ((0x40000000000 + (i * 256 + low) * 4096) / 128 + q % 32)
  else
    let ch := mc - 8
    let p := if s.mem.farN = 16 then i / 16 * 256 + nxor ch (i / 4096 % 16) * 16 + i % 16
      else i / 16 * 128 + nxor (ch / 2) (i / 8192 % 8) * 16 + i % 16
    some (p * 32 + q % 32)

/-- The codewords of a group's sequence: a pseudo-channel with its reserve, or a far channel with all its ranks. -/
def scrubLen (s : State) (mc : Nat) : Nat := if mc < 8 then 7549747 else s.mem.farD / 128

/-- The scrub position after this one; with whether a pass ended. -/
def scrubNext (s : State) (mc group q : Nat) : Nat × Nat × Bool :=
  if q + 1 < scrubLen s mc then ((if mc < 8 then group else if s.mem.farD / 8192 * 32 ≤ q + 1 ∧ 0 < s.mem.farD ∧ tgetD (s.mc mc).groups 1 .inService ≠ .absent then 1 else 0), q + 1, false)
  else if mc < 8 ∧ group < 31 then (group + 1, 0, false)
  else (0, 0, true)

/-- The pair that lies at a codeword of a controller: none for a reserve codeword in no use, and for a codeword whose pair was moved
away. -/
def pairHere (s : State) (mc group q : Nat) : Option Nat :=
  let pc := mc + 8 * group
  if mc < 8 then
    if 7340032 ≤ q then
      let r := pc * 6553 + (q - 7340032) / 32
      (if 209696 ≤ q - 7340032 then none else s.mem.homes.find? fun e => e.2 == r).bind fun e =>
        let from_ := e.1 / 229376
        let k := 32 * (e.1 % 229376) + q % 32
        if k < tgetD s.mem.moved from_ 0 then pairAt s (from_ % 8) (from_ / 8) k else none
    else if q < tgetD s.mem.moved pc 0 then none
    else pairAt s mc group q
  else pairAt s mc group q

/-- A reserve codeword in no use is read by its controller alone (R289, R290): an error that is injected there is corrected, or the
codeword is uncorrectable and written again (R48). -/
def readReserve (s : State) (p : Place) : State :=
  match splitAtFirst (fun (v : BitVec 64) => (injArray v, injUnit v) == injPlace p) s.mem.armed with
  | none => s
  | some (a, v, b) =>
    let s := { s with mem := { s.mem with armed := a ++ b } }
    match rsDecode (erasures s p) (freeErrs (injBits v) s.free (2 ^ 40 + p.q)) with
    | some (_, []) => s
    | some (_, fixes) => corrected s p fixes
    | none => uncorrected s p 0

/-- The scrubber reads its next codeword (R289, R290), unless its line is busy; it skips a dead tile's share. -/
def scrub (s : State) (mc : Nat) : State :=
  let m := s.mc mc
  if mcState s mc ≠ 2 then s
  else
    let group := m.scrubG.toNat
    let q := m.scrubQ.toNat
    let here := pairHere s mc group q
    let busy := match here with | some p => (entryOf s (2 * p)).txn.isSome || (entryOf s (2 * p + 1)).txn.isSome | none => false
    if busy then s
    else
      let s := match here with
        | some p => if deadHome s (2 * p) then s else demandRead s p
        | none => if mc < 8 ∧ 7340032 ≤ q ∧ tgetD m.groups group .inService ≠ .retired then readReserve s ⟨mc, group, q⟩ else s
      let (g, q, done) := scrubNext s mc group q
      let s := s.setMc mc { s.mc mc with scrubQ := BitVec.ofNat 32 q, scrubG := BitVec.ofNat 5 g }
      if done then mcEvent s mc 3 else s

def execScrubRead (mc : BitVec 5) (s : State) : Out := .next (scrub s mc.toNat).tick

/-- The group of a unit. -/
def unitGroup (mc unit : Nat) : Nat := if mc < 8 then unit / 32 else unit / 20

/-- The ERASED transition of a SUSPECT unit: at most one unit of a group is ERASED, otherwise the group retires. -/
def eraseUnit (s : State) (mc unit : Nat) : State :=
  let m := s.mc mc
  let g := unitGroup mc unit
  let other := m.units.any fun u => u.1 != unit && (unitGroup mc u.1 == g && u.2 == .erased)
  if other then groupRetiring s mc g else setUnit s mc unit .erased false

/-- A targeted scrub ends (R291): few errors clear the unit, errors of one row are repaired, others erase it. -/
def scrubbed (s : State) (mc unit found : Nat) (oneRow : Bool) : State :=
  let m := s.mc mc
  if tgetD m.units unit .healthy ≠ .suspect ∨ m.targets.contains unit = false then s
  else
    let s := s.setMc mc { m with targets := m.targets.filter fun u => u != unit }
    if found < 4 then setUnit s mc unit .healthy true
    else if oneRow then persist (s.setMc mc { s.mc mc with rows := (s.mc mc).rows ++ [unit] }) 6 (BitVec.ofNat 8 mc :: toBytes (0x4000 + unit) 2)
    else eraseUnit s mc unit

def execTargetedScrubComplete (mc : BitVec 5) (unit : BitVec 10) (found : Nat) (oneRow : Bool) (s : State) : Out :=
  .next (scrubbed s mc.toNat unit.toNat found oneRow).tick

/-- The oldest correction of a unit, or uncorrectable codeword of a group, leaves the scrub period (R291). -/
def windowExpiry (s : State) (mc : Nat) (ue : Bool) (unit : Nat) : State :=
  let m := s.mc mc
  if ue then s.setMc mc { m with ues := tset m.ues unit ((tgetD m.ues unit []).drop 1) }
  else s.setMc mc { m with counts := tset m.counts unit (tgetD m.counts unit 0 - 1) }

def execErrorWindowExpiry (mc : BitVec 5) (ue : Bool) (unit : BitVec 10) (s : State) : Out := .next (windowExpiry s mc.toNat ue unit.toNat).tick

/-- Soft PPR of a far row ends (R292): the row's codewords were read through the decoder and are written back; without a
resource the unit takes the ERASED transition. -/
def softPpr (s : State) (mc unit : Nat) (ok : Bool) : State :=
  let m := s.mc mc
  if mc < 8 ∨ tgetD m.units unit .healthy ≠ .suspect ∨ m.rows.contains unit = false then s
  else if ok then
    let mine := s.mem.errs.filter fun e => (placeOf s e.1).mc == mc && (placeOf s e.1).group == unitGroup mc unit
    setUnit (mine.foldl (fun s e => demandRead s e.1) s) mc unit .healthy true
  else eraseUnit (s.setMc mc { m with rows := m.rows.filter fun u => u != unit }) mc unit

def execSoftPprComplete (mc : BitVec 5) (unit : BitVec 10) (ok : Bool) (s : State) : Out := .next (softPpr s mc.toNat unit.toNat ok).tick

/-- A reserve page for a page of a pseudo-channel: the first free one from a free choice on among the pseudo-channels that are not
retiring or retired. The placement is not architectural (R293). -/
def takePage (s : State) (k : Nat) : State :=
  let from_ := Config.choice s.free (2 ^ 59 + k) % 256
  let room := fun (p : Nat) => (tget s.mem.moved p).isNone && decide ((hosted s p).length < 6553)
  match ((List.range 256).map fun i => (from_ + i) % 256).find? room with
  | none => s
  | some p =>
    let free := (List.range 6553).find? fun j => !(s.mem.homes.any fun e => e.2 == p * 6553 + j)
    { s with mem := { s.mem with homes := tset s.mem.homes k (p * 6553 + free.getD 0) } }

/-- The last pair of a pseudo-channel has moved: pages that its reserve holds move on too, and it is RETIRED (R293). -/
def retirePc (s : State) (pc : Nat) : State :=
  let s := (hosted s pc).foldl (fun s e => takePage s e.1) s
  persist (setGroupSt s (pc % 8) (pc / 8) .retired) 1 [BitVec.ofNat 8 pc]

/-- One pair of a retiring pseudo-channel moves into the reserve (R293), in ascending order; after the last one the
pseudo-channel is RETIRED. -/
def pcMove (s : State) (pc q : Nat) : State :=
  let mc := pc % 8
  let g := pc / 8
  match tget s.mem.moved pc, pairAt s mc g q with
  | some n, some pair =>
    if n ≠ q ∨ tgetD (s.mc mc).groups g .inService ≠ .retiring ∨ (entryOf s (2 * pair)).txn.isSome ∨ (entryOf s (2 * pair + 1)).txn.isSome then s
    else
      let s := demandRead s pair
      let s := if q % 32 = 0 then takePage s (pc * 229376 + q / 32) else s
      let s := { s with mem := { s.mem with moved := tset s.mem.moved pc (q + 1), errs := tdel s.mem.errs pair } }
      if q + 1 = 7340032 then retirePc s pc else s
  | _, _ => s

def execPseudoChannelMove (pc : BitVec 8) (q : BitVec 23) (s : State) : Out := .next (pcMove s pc.toNat q.toNat).tick

end Sys2Proof.Machine
end

