-- ==== Sys2Proof/Machine/Arrays.lean ====
section
/-! DEFINITION. Maintenance of the arrays by set and way, which Eaves performs in SELFTEST alone (R248): the read, the write and the
invalidation of an entry of an L1, an L2 slice or a snoop filter. The tile block gives them no offsets. Which way holds which line is
not architectural (R225): way w of a set is the w-th of the lines that the model lists there. -/

namespace Sys2Proof.Machine

/-- An array: the L1D or the L1I of a core, the L2 slice or the snoop filter of a tile. -/
inductive ArrayId where
  | l1d (core : Nat) | l1i (core : Nat) | l2 (tile : Nat) | sf (tile : Nat)
  deriving DecidableEq, Repr

/-- What an entry holds. -/
inductive ArrayEntry where
  | l1 (l : L1Line) | l2 (l : L2Line) | sf (e : Sf)
  deriving DecidableEq, Repr

/-- The entries of an array, by line. -/
def arrayLines (s : State) (a : ArrayId) : Tbl ArrayEntry :=
  match a with
  | .l1d k => (s.core k).l1d.map fun e => (e.1, .l1 e.2)
  | .l1i k => (s.core k).l1i.map fun e => (e.1, .l1 e.2)
  | .l2 t => (s.tile t).l2.map fun e => (e.1, .l2 e.2)
  | .sf t => (s.tile t).sf.map fun e => (e.1, .sf e.2)

/-- The set of a line in an array (R225). -/
def ArrayId.set (a : ArrayId) (line : Nat) : Nat :=
  match a with
  | .l1d _ | .l1i _ => line % 128
  | .l2 _ => l2Set line
  | .sf _ => sfSet line

/-- The entry at a set and way: its line and what it holds. -/
def entryAt (s : State) (a : ArrayId) (set way : Nat) : Option (Nat × ArrayEntry) := ((arrayLines s a).filter fun e => a.set e.1 == set)[way]?

/-- Read by set and way: refused, with no answer, in every mode but SELFTEST. -/
def arrayRead (s : State) (a : ArrayId) (set way : Nat) : Option (Nat × ArrayEntry) := if s.mg.mode = .selftest then entryAt s a set way else none

/-- An entry of a line leaves its array. -/
def dropEntry (s : State) (a : ArrayId) (line : Nat) : State :=
  match a with
  | .l1d k => s.modCore k fun c => { c with l1d := tdel c.l1d line }
  | .l1i k => s.modCore k fun c => { c with l1i := tdel c.l1i line }
  | .l2 t => s.modTile t fun x => { x with l2 := tdel x.l2 line }
  | .sf t => s.modTile t fun x => { x with sf := tdel x.sf line }

/-- Invalidation by set and way, in SELFTEST alone. -/
def arrayInvalidate (s : State) (a : ArrayId) (set way : Nat) : State :=
  if s.mg.mode = .selftest then (match entryAt s a set way with | some e => dropEntry s a e.1 | none => s) else s

/-- A write by set and way, in SELFTEST alone: the entry takes a line of its set, in place of what the way held. -/
def arrayWrite (s : State) (a : ArrayId) (way line : Nat) (e : ArrayEntry) : State :=
  if s.mg.mode = .selftest then
    let s := arrayInvalidate s a (a.set line) way
    match a, e with
    | .l1d k, .l1 l => s.modCore k fun c => { c with l1d := tset c.l1d line l }
    | .l1i k, .l1 l => s.modCore k fun c => { c with l1i := tset c.l1i line l }
    | .l2 t, .l2 l => s.modTile t fun x => { x with l2 := tset x.l2 line l }
    | .sf t, .sf f => s.modTile t fun x => { x with sf := tset x.sf line f }
    | _, _ => s
  else s

/-- Eaves invalidates every entry of an array, way 0 of each set until none is left. -/
def clearArray (s : State) (a : ArrayId) : State := (arrayLines s a).foldl (fun s e => arrayInvalidate s a (a.set e.1) 0) s

/-- The arrays that the self-test leaves invalid. -/
def clearArrays (s : State) : State :=
  let cores := s.cores.map fun c => c.1
  let tiles := s.tiles.map fun t => t.1
  (cores.foldl (fun l k => l ++ [ArrayId.l1d k, ArrayId.l1i k]) [] ++ tiles.foldl (fun l t => l ++ [ArrayId.l2 t, ArrayId.sf t]) []).foldl clearArray s

end Sys2Proof.Machine
end

