-- ==== Sys2Proof/Machine/Messages.lean ====
section
/-! DEFINITION. Transport messages as bytes (R314, R342, R343, R50, R358) and codeword sets on the lanes of a port (R324 to R326). The MCTP
packet of MGMT is framed by MCTP itself (R460), so that a MGMT message stays as bytes. -/

namespace Sys2Proof.Machine

/-- n bytes from offset o, as a number. -/
def bN (b : List (BitVec 8)) (o n : Nat) : Nat := ofBytes ((b.drop o).take n)

/-! ## Words and lines -/

/-- A word as 10 bytes (R343), and the word at an offset. -/
def wordOut (w : W) : List (BitVec 8) := toBytes w.payload.toNat 8 ++ toBytes w.tag.toNat 2
def wordAt (b : List (BitVec 8)) (o : Nat) : W := ⟨BitVec.ofNat 10 (bN b (o + 8) 2), BitVec.ofNat 64 (bN b o 8)⟩

/-- A line as its 74 bytes (R42), and the line at an offset. -/
def lineOut (l : Line) : List (BitVec 8) := toBytes (lineBits l) 74
def lineIn (b : List (BitVec 8)) (o : Nat) : Line := bitsLine (bN b o 74)

/-- A line pair as it travels (R50): the 148 bytes of lines A and B, and the sixteen words of those at an offset. -/
def pairOut (ws : List W) : List (BitVec 8) := lineOut (ws.take 8) ++ lineOut (ws.drop 8)
def pairAtByte (b : List (BitVec 8)) (o : Nat) : List W := lineIn b o ++ lineIn b (o + 74)

/-! ## Migration packets (R314) -/

/-- The bytes of a packet, padded to its length. -/
def packetOut (p : MigPacket) : List (BitVec 8) :=
  let head := toBytes p.srcId.toNat 4 ++ (toBytes p.srcGen.toNat 2 ++ (toBytes p.lmask.toNat 2 ++ (toBytes (p.addr.toNat + 2 ^ 59 * p.acc.toNat) 8
    ++ (toBytes p.migId.toNat 4 ++ (toBytes p.length.toNat 2 ++ (toBytes p.events.toNat 2
    ++ ([BitVec.ofNat 8 (p.prio.toNat + 4 * p.owner.num + 8 * b2n p.fp.isSome)] ++ List.replicate 7 0)))))))
  let regs := toBytes (p.pc.toNat + 2 ^ 59 * p.wp.toNat + 2 ^ 61 * p.vwc.toNat) 8 ++ (toBytes p.lk.toNat 8 ++ (toBytes p.cnt.toNat 8
    ++ (toBytes p.pkr.toNat 8 ++ (toBytes p.wsp.toNat 8 ++ (toBytes p.ctxStat.toNat 4 ++ (toBytes p.fpsr.toNat 2 ++ [0, 0]))))))
  let lines := p.lines.foldl (fun (a : List (BitVec 8)) l => a ++ lineOut l) []
  let fp := match p.fp with | some vs => vs.foldl (fun (a : List (BitVec 8)) v => a ++ toBytes v.toNat 8) [] | none => []
  let b := head ++ (regs ++ (lines ++ fp))
  b ++ List.replicate (p.length.toNat - b.length) 0

/-- The packet at an offset: as many lines as lmask has bits. -/
def packetAt (b : List (BitVec 8)) (o : Nat) : MigPacket :=
  let b := b.drop o
  let lmask := BitVec.ofNat 9 (bN b 6 2)
  let n := ((List.range 9).filter fun i => lmask.getLsbD i).length
  let acc := bN b 8 8
  let fl := bN b 0x18 1
  let pc := bN b 0x20 8
  { srcId := BitVec.ofNat 32 (bN b 0 4), srcGen := BitVec.ofNat 16 (bN b 4 2), lmask := lmask, addr := BitVec.ofNat 59 acc,
    acc := BitVec.ofNat 2 (acc / 2 ^ 59), migId := BitVec.ofNat 32 (bN b 0x10 4), length := BitVec.ofNat 16 (bN b 0x14 2),
    events := BitVec.ofNat 16 (bN b 0x16 2), prio := BitVec.ofNat 2 fl, owner := worldOf (fl / 4 % 2), pc := BitVec.ofNat 59 pc,
    wp := BitVec.ofNat 2 (pc / 2 ^ 59), vwc := BitVec.ofNat 3 (pc / 2 ^ 61), lk := BitVec.ofNat 59 (bN b 0x28 8),
    cnt := BitVec.ofNat 64 (bN b 0x30 8), pkr := BitVec.ofNat 64 (bN b 0x38 8), wsp := BitVec.ofNat 59 (bN b 0x40 8),
    ctxStat := BitVec.ofNat 32 (bN b 0x48 4), fpsr := BitVec.ofNat 12 (bN b 0x4C 2),
    lines := (List.range n).map fun i => lineIn b (0x50 + 74 * i),
    fp := if fl / 8 % 2 = 1 then some ((List.range 16).map fun i => BitVec.ofNat 64 (bN b (0x50 + 74 * n + 8 * i) 8)) else none }

/-! ## Messages (R342, R343, R358) -/

/-- The type of a message. -/
def Body.mtype : Body → Nat
  | .rload .. => 0x01 | .rstore .. => 0x02 | .ratom .. => 0x03 | .doorbell .. => 0x04 | .rdata .. => 0x10 | .rpair _ => 0x11 | .rack => 0x12
  | .rfault .. => 0x13 | .invack => 0x14 | .moved .. => 0x15 | .migrate _ => 0x20 | .migans .. => 0x21 | .migq _ => 0x22 | .coll .. => 0x30
  | .mgmt .. => 0x40 | .imgreq .. => 0x41 | .imgrel .. => 0x42 | .inv _ => 0x50

/-- The body of a message from offset 0x10 on, without its padding. -/
def Body.out : Body → List (BitVec 8)
  | .rload a size acq => toBytes a.toNat 8 ++ [BitVec.ofNat 8 (size.toNat + 4 * b2n acq)]
  | .rstore a w size mask rel => toBytes a.toNat 8 ++ (wordOut w ++ [BitVec.ofNat 8 (size.toNat + 4 * b2n rel), mask])
  | .ratom a w e op ord => toBytes a.toNat 8 ++ (wordOut w ++ (wordOut e ++ [BitVec.ofNat 8 (op.toNat + 8 * ord.toNat)]))
  | .doorbell lcn gen ev origin _ => toBytes lcn.toNat 2 ++ (toBytes gen.toNat 2 ++ (toBytes ev.toNat 2 ++ toBytes origin.toNat 2))
  | .rdata w ack => wordOut w ++ [BitVec.ofNat 8 (b2n ack)]
  | .rpair ws => pairOut ws
  | .rack | .invack | .mgmt .. => []
  | .rfault c sub level acc => [c, sub, BitVec.ofNat 8 (level.toNat + 8 * acc.toNat)]
  | .moved i g j k => toBytes i.toNat 4 ++ (toBytes g.toNat 2 ++ (toBytes j.toNat 4 ++ toBytes k.toNat 2))
  | .migrate p => packetOut p
  | .migans i o r j k => toBytes i.toNat 4 ++ ([o.setWidth 8, r] ++ (toBytes j.toNat 4 ++ toBytes k.toNat 2))
  | .migq i => toBytes i.toNat 4
  | .coll _ m =>
    [m.group.setWidth 8, BitVec.ofNat 8 (b2n m.down + 2 * b2n m.term + 4 * b2n m.ovf)] ++ (toBytes m.seq.toNat 2 ++ ([m.err, 0]
      ++ (toBytes m.errDev.toNat 2 ++ (toBytes m.shape.toNat 2 ++ (List.replicate 6 0 ++ m.words.foldl (fun a w => a ++ wordOut w) [])))))
  | .imgreq _ o => toBytes o.toNat 4
  | .imgrel _ o n d => toBytes o.toNat 4 ++ (toBytes n.toNat 4 ++ (toBytes d.length 4 ++ (List.replicate 4 0 ++ d)))
  | .inv p => toBytes p.toNat 8

/-- A message stays on one link (R342, R343). -/
def Body.local_ : Body → Bool
  | .coll .. | .imgreq .. | .imgrel .. => true
  | _ => false

/-- The hops of a DOORBELL. -/
def Body.hops : Body → Nat
  | .doorbell _ _ _ _ h => h.toNat
  | _ => 0

/-- A message as bytes: the header, in class D0, and the body padded to whole units. -/
def Sent.out (x : Sent) : List (BitVec 8) :=
  let b := x.body.out
  let n := max (if x.body.mtype = 0x12 ∨ x.body.mtype = 0x14 then 1 else 2) (1 + (b.length + 15) / 16)
  [BitVec.ofNat 8 x.body.mtype, BitVec.ofNat 8 n] ++ (toBytes x.h.dest.toNat 2 ++ (toBytes x.h.src.toNat 2 ++ (toBytes x.h.lcn.toNat 2
    ++ ([BitVec.ofNat 8 (x.h.world.num + 2 * b2n x.h.sup + 4 * b2n x.body.local_), BitVec.ofNat 8 x.body.hops, x.vc.setWidth 8, 0]
    ++ (toBytes x.h.slot.toNat 2 ++ (toBytes x.h.gen.toNat 2 ++ (b ++ List.replicate (16 * (n - 1) - b.length) 0)))))))

/-- The header of a message. -/
def hdrAt (m : List (BitVec 8)) : Hdr :=
  { dest := BitVec.ofNat 16 (bN m 2 2), src := BitVec.ofNat 16 (bN m 4 2), lcn := BitVec.ofNat 16 (bN m 6 2), world := worldOf (bN m 8 1 % 2),
    sup := (m.getD 8 0).getLsbD 1, slot := BitVec.ofNat 16 (bN m 12 2), gen := BitVec.ofNat 16 (bN m 14 2) }

/-- The body of a message that arrived on a port; none for a reserved type and for MGMT. -/
def bodyAt (port : BitVec 4) (m : List (BitVec 8)) : Option Body :=
  let addr := BitVec.ofNat 59 (bN m 0x10 8)
  match (m.getD 0 0).toNat with
  | 0x01 => some (.rload addr ((m.getD 0x18 0).setWidth 2) ((m.getD 0x18 0).getLsbD 2))
  | 0x02 => some (.rstore addr (wordAt m 0x18) ((m.getD 0x22 0).setWidth 2) (m.getD 0x23 0) ((m.getD 0x22 0).getLsbD 2))
  | 0x03 => some (.ratom addr (wordAt m 0x18) (wordAt m 0x22) ((m.getD 0x2C 0).setWidth 3) ((m.getD 0x2C 0).extractLsb' 3 2))
  | 0x04 => some (.doorbell (BitVec.ofNat 16 (bN m 0x10 2)) (BitVec.ofNat 16 (bN m 0x12 2)) (BitVec.ofNat 16 (bN m 0x14 2)) (BitVec.ofNat 16 (bN m 0x16 2))
      ((m.getD 9 0).setWidth 3))
  | 0x10 => some (.rdata (wordAt m 0x10) ((m.getD 0x1A 0).getLsbD 0))
  | 0x11 => some (.rpair (pairAtByte m 0x10))
  | 0x12 => some .rack
  | 0x13 => some (.rfault (m.getD 0x10 0) (m.getD 0x11 0) ((m.getD 0x12 0).setWidth 3) ((m.getD 0x12 0).extractLsb' 3 2))
  | 0x14 => some .invack
  | 0x15 => some (.moved (BitVec.ofNat 32 (bN m 0x10 4)) (BitVec.ofNat 16 (bN m 0x14 2)) (BitVec.ofNat 32 (bN m 0x16 4)) (BitVec.ofNat 16 (bN m 0x1A 2)))
  | 0x20 => some (.migrate (packetAt m 0x10))
  | 0x21 => some (.migans (BitVec.ofNat 32 (bN m 0x10 4)) ((m.getD 0x14 0).setWidth 2) (m.getD 0x15 0) (BitVec.ofNat 32 (bN m 0x16 4)) (BitVec.ofNat 16 (bN m 0x1A 2)))
  | 0x22 => some (.migq (BitVec.ofNat 32 (bN m 0x10 4)))
  | 0x30 =>
    let b := m.getD 0x11 0
    let shape := BitVec.ofNat 12 (bN m 0x18 2)
    let n := match shape.toNat % 4 with | 0 => 0 | 1 => if b.getLsbD 0 then shape.toNat / 64 + 1 else 0 | 2 => shape.toNat / 64 + 1 | _ => 2
    some (.coll port ⟨(m.getD 0x10 0).setWidth 6, b.getLsbD 0, b.getLsbD 1, b.getLsbD 2, BitVec.ofNat 16 (bN m 0x12 2), m.getD 0x14 0,
      BitVec.ofNat 16 (bN m 0x16 2), shape, (List.range (min n ((m.length - 32) / 10))).map fun i => wordAt m (0x20 + 10 * i)⟩)
  | 0x41 => some (.imgreq port (BitVec.ofNat 32 (bN m 0x10 4)))
  | 0x42 => some (.imgrel port (BitVec.ofNat 32 (bN m 0x10 4)) (BitVec.ofNat 32 (bN m 0x14 4)) ((m.drop 0x20).take (bN m 0x18 4)))
  | 0x50 => some (.inv (BitVec.ofNat 47 (bN m 0x10 8)))
  | _ => none

/-- A message that arrived on a port, decoded. -/
def sentAt (port : BitVec 4) (m : List (BitVec 8)) : Option Sent := (bodyAt port m).map fun b => ⟨hdrAt m, (m.getD 0x0A 0).setWidth 3, b⟩

/-! ## Codewords on the lanes (R324 to R326) -/

/-- The lane control field (R325): the logical position and the codeword-set counter. -/
def laneCtl (pos set : Nat) : Nat := pos % 8 + 2 ^ 4 * (set % 4096)

/-- The 5,140 message bits of a codeword (R324): the lane control field, and data byte b at bits 20 + 8b to 27 + 8b. -/
def codewordBits (ctl : Nat) (data : List (BitVec 8)) : Nat := ctl + 2 ^ 20 * ofBytes data

/-- The lane control field and the 640 data bytes of a codeword's message bits. -/
def codewordCtl (v : Nat) : Nat := v % 2 ^ 20
def codewordData (v : Nat) : List (BitVec 8) := toBytes (v / 2 ^ 20) 640

/-- A lane control field is valid (R325). -/
def ctlOk (c : Nat) : Bool := (decide (c % 8 < 4) || c % 8 == 7) && (c / 8 % 2 == 0 && c / 2 ^ 16 == 0)

/-- The data bytes of logical lane k in a codeword set of 2,560 bytes (R324): byte j travels on lane j mod 4 as data byte j div 4. -/
def laneBytes (set : List (BitVec 8)) (k : Nat) : List (BitVec 8) := (List.range 640).map fun b => set.getD (4 * b + k) 0

/-- The set of four lanes' data bytes, lane 0 first. -/
def joinLanes (ls : List (List (BitVec 8))) : List (BitVec 8) := (List.range 2560).map fun j => (ls.getD (j % 4) []).getD (j / 4) 0

/-- The logical position that a physical lane sends (R326): its own, but for the lane that the spare replaces; 7 is idle. -/
def sentPos (failed : Option (BitVec 3)) (lane : Nat) : Nat :=
  match failed with
  | some f => if lane = f.toNat then 7 else if lane = 4 then (if f.toNat < 4 then f.toNat else 7) else lane
  | none => if lane = 4 then 7 else lane

/-- What physical lane l carries of a numbered set of ten flits' bytes; none for an idle codeword, whose data bytes are stated nowhere. -/
def laneOut (failed : Option (BitVec 3)) (n : Nat) (set : List (BitVec 8)) (l : Nat) : Option Nat :=
  let p := sentPos failed l
  if p < 4 then some (codewordBits (laneCtl p n) (laneBytes set p)) else none

/-- The set that a receiver assembles from one codeword of each physical lane, each at the logical position that its field names;
none where a position is missing or a field is not valid. -/
def setIn (ws : List Nat) : Option (List (BitVec 8)) :=
  let at_ := fun (k : Nat) => ws.find? fun v => ctlOk (codewordCtl v) && codewordCtl v % 8 == k
  match at_ 0, at_ 1, at_ 2, at_ 3 with
  | some a, some b, some c, some d => some (joinLanes [codewordData a, codewordData b, codewordData c, codewordData d])
  | _, _, _, _ => none

end Sys2Proof.Machine
end

