-- ==== Sys2Proof/Machine/Flags.lean ====
section
/-! DEFINITION. Floating-point status (R149): rounding, sticky flags, trap enables, and the result of an operation with the
flags it raises (R150, R151). -/

namespace Sys2Proof.Machine

/-- Rounding directions, by fpsr.rm. -/
inductive Rm where
  | rne | rtz | rup | rdn
  deriving DecidableEq, Repr

/-- fpsr.rm. -/
def rmOf (fpsr : BitVec 12) : Rm :=
  match bitsN fpsr 0 2 with
  | 0 => .rne
  | 1 => .rtz
  | 2 => .rup
  | _ => .rdn

/-- The flags an operation raises: invalid, division by zero, overflow, inexact; whether its result is tiny, and whether it is
tiny and that same rounding is inexact (R150). -/
structure Fl where
  nv   : Bool := false
  dz   : Bool := false
  of   : Bool := false
  nx   : Bool := false
  tiny : Bool := false
  uf   : Bool := false
  deriving DecidableEq, Repr

/-- The flags in the order nv, dz, of, uf, nx (R150): a tiny result raises uf when its rounding is inexact, or when uf traps. -/
def Fl.bits (f : Fl) (fpsr : BitVec 12) : Nat :=
  b2n f.nv + 2 * b2n f.dz + 4 * b2n f.of + 8 * b2n (f.uf || (f.tiny && fpsr.getLsbD 10)) + 16 * b2n f.nx

/-- Both sets of flags. -/
def Fl.or (f g : Fl) : Fl := ⟨f.nv || g.nv, f.dz || g.dz, f.of || g.of, f.nx || g.nx, f.tiny || g.tiny, f.uf || g.uf⟩

/-- A flag raised has its trap enabled (R151). -/
def trapped (fpsr : BitVec 12) (flags : Nat) : Bool := Nat.land flags (bitsN fpsr 7 5) != 0

/-- fpsr with flags ORed in. -/
def orFlags (fpsr : BitVec 12) (flags : Nat) : BitVec 12 := fpsr ||| BitVec.ofNat 12 (4 * flags)

end Sys2Proof.Machine
end

