-- ==== Sys2Proof/Machine/Fp.lean ====
section
/-! DEFINITION. binary64 arithmetic of IEEE 754 (R146 to R152), computed exactly on integers and rounded once. -/

namespace Sys2Proof.Machine

/-- A binary64 datum. -/
abbrev F64 := BitVec 64

/-- Decoded numbers: zero, a finite m × 2^e with m > 0, infinity, NaN. -/
inductive Fv where
  | zero (s : Bool)
  | fin (s : Bool) (m : Nat) (e : Int)
  | inf (s : Bool)
  | nan
  deriving DecidableEq, Repr

/-- The sign bit. -/
def fsign (x : F64) : Bool := x.getLsbD 63

/-- Decodes. -/
def fdec (x : F64) : Fv :=
  let s := fsign x
  let ex := bitsN x 52 11
  let fr := bitsN x 0 52
  if ex = 2047 then (if fr = 0 then .inf s else .nan)
  else if ex = 0 then (if fr = 0 then .zero s else .fin s fr (-1074))
  else .fin s (2 ^ 52 + fr) (ex - 1075 : Int)

def isNan (x : F64) : Bool := bitsN x 52 11 == 2047 && bitsN x 0 52 != 0
def isSnan (x : F64) : Bool := isNan x && !x.getLsbD 51
def quiet (x : F64) : F64 := x ||| 0x0008000000000000
def defNan : F64 := 0x7FF8000000000000
def finf (s : Bool) : F64 := if s then 0xFFF0000000000000 else 0x7FF0000000000000
def fmaxFin (s : Bool) : F64 := if s then 0xFFEFFFFFFFFFFFFF else 0x7FEFFFFFFFFFFFFF
def fzero (s : Bool) : F64 := if s then 0x8000000000000000 else 0

/-- Rounds m, of which `rem` of `2 ^ d` was dropped, with a sticky bit below it. -/
def roundUp (rm : Rm) (s : Bool) (kept rem d : Nat) (sticky : Bool) : Bool :=
  let inexact := rem != 0 || sticky
  match rm with
  | .rne => decide (2 ^ d < 2 * rem) || (decide (2 * rem = 2 ^ d) && (decide (0 < d) && (sticky || kept % 2 == 1)))
  | .rtz => false
  | .rup => !s && inexact
  | .rdn => s && inexact

/-- Rounds (−1)^s × (m + sticky) × 2^e at the place q: the integer in units of 2^q, and whether it is inexact. -/
def roundAt (rm : Rm) (s : Bool) (m : Nat) (e q : Int) (sticky : Bool) : Nat × Bool :=
  if q ≤ e then (m * 2 ^ (e - q).toNat, sticky)
  else
    let d := (q - e).toNat
    let kept := m / 2 ^ d
    let rem := m % 2 ^ d
    (if roundUp rm s kept rem d sticky then kept + 1 else kept, rem != 0 || sticky)

/-- Rounds a non-zero number to binary64 (R150): tininess after rounding, default results. -/
def fround (rm : Rm) (s : Bool) (m : Nat) (e : Int) (sticky : Bool) : F64 × Fl :=
  let top : Int := e + Nat.log2 m
  let q0 : Int := top - 52
  let q : Int := if q0 < -1074 then -1074 else q0
  let (k, nx) := roundAt rm s m e q sticky
  let (k0, _) := roundAt rm s m e q0 sticky
  let tiny := decide (q0 + Nat.log2 k0 < -1022)
  let bits : Int := (q + 1075) * 2 ^ 52 + k - 2 ^ 52
  if 2047 * 2 ^ 52 ≤ bits then
    let big := match rm with | .rne => true | .rtz => false | .rup => !s | .rdn => s
    (if big then finf s else fmaxFin s, { of := true, nx := true })
  else (BitVec.ofNat 64 (bits.toNat + (if s then 2 ^ 63 else 0)), { nx := nx, tiny := tiny, uf := tiny && nx })

/-- The first NaN of the operands, quieted; invalid when one of them is signalling (R150). -/
def fnan (xs : List F64) : Option (F64 × Fl) :=
  (xs.find? isNan).map fun x => (quiet x, { nv := xs.any isSnan })

/-- An invalid operation. -/
def finvalid : F64 × Fl := (defNan, { nv := true })

/-- The signed integer of a number in units of 2^e, for e no greater than its exponent. -/
def fint (s : Bool) (m : Nat) (e e0 : Int) : Int :=
  let v : Int := m * 2 ^ (e - e0).toNat
  if s then -v else v

/-- Rounds a signed integer in units of 2^e; an exact zero sum takes the sign IEEE 754 gives it. -/
def fsum (rm : Rm) (v : Int) (e : Int) : F64 × Fl :=
  if v = 0 then (fzero (rm == .rdn), {}) else fround rm (decide (v < 0)) v.natAbs e false

/-- A non-zero number below the smallest normal one. -/
def isSubnormal (x : F64) : Bool := bitsN x 52 11 == 0 && bitsN x 0 52 != 0

/-- Addition of decoded numbers that are no NaNs. -/
def addV (rm : Rm) (a b : Fv) (ra rb : F64) : F64 × Fl :=
  match a, b with
  | .inf s, .inf t => if s = t then (finf s, {}) else finvalid
  | .inf s, _ => (finf s, {})
  | _, .inf t => (finf t, {})
  | .zero s, .zero t => (if s = t then fzero s else fzero (rm == .rdn), {})
  | .zero _, _ => (rb, { tiny := isSubnormal rb })
  | _, .zero _ => (ra, { tiny := isSubnormal ra })
  | .fin s m e, .fin t n f =>
    let g := if e ≤ f then e else f
    fsum rm (fint s m e g + fint t n f g) g
  | _, _ => finvalid

def fnegB (x : F64) : F64 := x ^^^ 0x8000000000000000

def fadd (rm : Rm) (x y : F64) : F64 × Fl :=
  match fnan [x, y] with
  | some r => r
  | none => addV rm (fdec x) (fdec y) x y

def fsub (rm : Rm) (x y : F64) : F64 × Fl :=
  match fnan [x, y] with
  | some r => r
  | none => addV rm (fdec x) (fdec (fnegB y)) x (fnegB y)

def fmul (rm : Rm) (x y : F64) : F64 × Fl :=
  match fnan [x, y] with
  | some r => r
  | none =>
    let s := fsign x != fsign y
    match fdec x, fdec y with
    | .inf _, .zero _ | .zero _, .inf _ => finvalid
    | .inf _, _ | _, .inf _ => (finf s, {})
    | .fin _ m e, .fin _ n f => fround rm s (m * n) (e + f) false
    | _, _ => (fzero s, {})

def fdiv (rm : Rm) (x y : F64) : F64 × Fl :=
  match fnan [x, y] with
  | some r => r
  | none =>
    let s := fsign x != fsign y
    match fdec x, fdec y with
    | .inf _, .inf _ | .zero _, .zero _ => finvalid
    | .inf _, _ => (finf s, {})
    | _, .inf _ => (fzero s, {})
    | .zero _, _ => (fzero s, {})
    | .fin _ _ _, .zero _ => (finf s, { dz := true })
    | .fin _ m e, .fin _ n f => fround rm s (m * 2 ^ 120 / n) (e - f - 120) (m * 2 ^ 120 % n != 0)
    | _, _ => finvalid

/-- Integer square root, from bit n down. -/
def isqrt (n : Nat) (x r : Nat) : Nat :=
  match n with
  | 0 => r
  | n + 1 => let c := r + 2 ^ n
             if c * c ≤ x then isqrt n x c else isqrt n x r

def fsqrt (rm : Rm) (x : F64) : F64 × Fl :=
  match fnan [x] with
  | some r => r
  | none =>
    match fdec x with
    | .zero s => (fzero s, {})
    | .inf s => if s then finvalid else (finf false, {})
    | .fin s m e =>
      if s then finvalid
      else
        let (m, e) := if e % 2 = 0 then (m, e) else (2 * m, e - 1)
        let v := m * 2 ^ 120
        let r := isqrt 90 v 0
        fround rm false r (e / 2 - 60) (r * r != v)
    | .nan => finvalid

/-- fd + fs × ft with one rounding (R127); the NaN order is rs, rt, fd. -/
def ffma (rm : Rm) (d x y : F64) : F64 × Fl :=
  let bad := match fdec x, fdec y with
    | .inf _, .zero _ | .zero _, .inf _ => true
    | _, _ => false
  match fnan [x, y, d] with
  | some r => r
  | none =>
    if bad then finvalid
    else
      let s := fsign x != fsign y
      match fdec x, fdec y with
      | .inf _, _ | _, .inf _ => addV rm (.inf s) (fdec d) (finf s) d
      | .fin _ m e, .fin _ n f =>
        (match fdec d with
         | .inf t => (finf t, {})
         | .fin t k g =>
           let h := if e + f ≤ g then e + f else g
           fsum rm (fint s (m * n) (e + f) h + fint t k g h) h
         | _ => fround rm s (m * n) (e + f) false)
      | _, _ => addV rm (.zero s) (fdec d) (fzero s) d

/-- REM (R146): a − b × trunc(a / b), exact. -/
def frem (x y : F64) : F64 × Fl :=
  match fnan [x, y] with
  | some r => r
  | none =>
    match fdec x, fdec y with
    | .inf _, _ => finvalid
    | _, .zero _ => finvalid
    | .zero s, _ => (fzero s, {})
    | _, .inf _ => (x, {})
    | .fin s m e, .fin _ n f =>
      let g := if e ≤ f then e else f
      let r := m * 2 ^ (e - g).toNat % (n * 2 ^ (f - g).toNat)
      if r = 0 then (fzero s, {}) else ((fround .rtz s r g false).1, {})
    | _, _ => finvalid

/-- Compares two numbers that are no NaNs, as −1, 0 or 1. -/
def fcmpV (a b : Fv) : Int :=
  let rank := fun (v : Fv) => match v with
    | .inf s => if s then (-2 : Int) else 2
    | .fin s _ _ => if s then -1 else 1
    | _ => 0
  match a, b with
  | .fin s m e, .fin t n f =>
    let g := if e ≤ f then e else f
    let u := fint s m e g
    let v := fint t n f g
    if u < v then -1 else if u = v then 0 else 1
  | _, _ => if rank a < rank b then -1 else if rank a = rank b then 0 else 1

/-- A FIXNUM as an exact number. -/
def fixV (n : Int) : Fv := if n = 0 then .zero false else .fin (decide (n < 0)) n.natAbs 0

/-- The relations NUMEQ, LT and LE (R148) by number 0, 1 and 2, with their flags. -/
def frel (k : Nat) (a b : Fv) (snan : Bool) : Bool × Fl :=
  if a = .nan ∨ b = .nan then (false, { nv := snan || k != 0 })
  else
    let c := fcmpV a b
    (if k = 0 then c == 0 else if k = 1 then c == -1 else c != 1, {})

/-- FMIN and FMAX (R150). -/
def fminmax (mx : Bool) (x y : F64) : F64 × Fl :=
  if isSnan x || (isSnan y || (isNan x && isNan y)) then
    ((match fnan [x, y] with | some r => r.1 | none => defNan), { nv := true })
  else if isNan x then (y, {})
  else if isNan y then (x, {})
  else
    let c := fcmpV (fdec x) (fdec y)
    let xLess := c == -1 || (c == 0 && (fsign x && !fsign y))
    let yLess := c == 1 || (c == 0 && (fsign y && !fsign x))
    (if mx then (if xLess then y else x) else (if yLess then y else x), {})

/-- A FIXNUM converted to binary64 (R147, R152). -/
def fromInt (rm : Rm) (n : Int) : F64 × Fl := if n = 0 then (0, {}) else fround rm (decide (n < 0)) n.natAbs 0 false

/-- binary64 converted to FIXNUM (R152), saturating. -/
def toFix (rm : Rm) (x : F64) : BitVec 64 × Fl :=
  let top : BitVec 64 := 0x7FFFFFFFFFFFFFFF
  let bot : BitVec 64 := 0x8000000000000000
  match fdec x with
  | .nan => (0, { nv := true })
  | .zero _ => (0, {})
  | .inf s => (if s then bot else top, { nv := true })
  | .fin s m e =>
    let (k, nx) := roundAt rm s m e 0 false
    let v : Int := if s then -(k : Int) else k
    if v < -(2 ^ 63) then (bot, { nv := true })
    else if 2 ^ 63 ≤ v then (top, { nv := true })
    else (BitVec.ofInt 64 v, { nx := nx })

end Sys2Proof.Machine
end

