-- ==== Sys2Proof/Machine/Agents.lean ====
section
/-! DEFINITION. Accesses of agents without caches (R244): Valley, the Teasel engines, Cowslip, Laraor inbound traffic and host
accesses. An agent's transaction at a home is one event (log entry 46); where the line is busy, the agent is sent RTY and comes
again once the messages about the line have let its open transaction close. Also the flush of a change between the forms of the
snoop filter (R233). -/

namespace Sys2Proof.Machine

/-! ## Busy lines (R239) -/

/-- A message that moves a line or answers for it: what an open transaction waits for, or what ends an L1's transient state. -/
def MsgK.moves (k : MsgK) : Bool :=
  k.vc == 1 || (k.vc == 4 || (k == .ack || (k == .ackd || (k == .ackw || (k == .acku || (k == .ackn || (k == .nakst
    || (k == .gnt || (k == .dats || (k == .date || k == .datm))))))))))

/-- Whether the home has the line busy, or a message that moves it is in flight. -/
def lineBusy (s : State) (line : Nat) : Bool :=
  (tgetD (s.tile (homeTile s line)).sf line {}).txn.isSome || s.mesh.any fun m => m.line == line && m.kind.moves

/-- Delivers one message about a line. -/
def deliverMsg (s : State) (m : Msg) : State :=
  match m.kind with
  | .sns | .snx | .sni | .snr | .snc | .snf => snoop s m.kind m.dst m.line
  | .ack | .ackd | .ackw | .acku | .ackn => snoopAnswer s m.kind m.src m.line
  | .nakst => stashRefused s m.src m.line
  | .wbd | .evc => homeWb s m.kind m.src m.line
  | .gnt => granted s m.dst m.line
  | .dats => dataTo s .dats .s m.dst m.line
  | .date => dataTo s .date .e m.dst m.line
  | .datm => dataTo s .datm .m m.dst m.line
  | _ => s

/-- The first message that moves a line and can be delivered now. -/
def nextMove (s : State) (line : Nat) : Option Msg :=
  s.mesh.find? fun m => m.line == line && (m.kind.moves && (!heldSnoop s m && (takeMsg s fun n => n == m).isSome))

/-- The messages about a busy line are delivered, oldest first, and the memory read of its transaction comes back, until the line
is not busy or only what no message ends is left: a snoop that an atomic holds, or a tile that sleeps. -/
def settleLine (fuel : Nat) (s : State) (line : Nat) : State :=
  match fuel with
  | 0 => s
  | fuel + 1 =>
    if lineBusy s line then
      match nextMove s line with
      | some m => settleLine fuel (deliverMsg s m) line
      | none =>
        match (entryOf s line).txn with
        | some x => if x.memory then settleLine fuel (memArrived (demandRead s (line / 2)) line) line else s
        | none => s
    else s

/-- An agent's request reaches the home of a line, whose tile wakes (R22), after the transactions before it. -/
def reachHome (s : State) (line : Nat) : State := settleLine 2000 (wakeTile s (homeTile s line)) line

/-- The line still waits for something that no message ends: the agent's access takes its place in the line's order before it. -/
def stuck (s : State) (line : Nat) : Bool := lineBusy s line || (s.cores.map fun c => c.1).any fun k => pinned s k line

/-! ## Reads -/

/-- An agent without a cache reads a word (R238 RDO): from the owner, from L2, or through the codeword's decoding from memory. -/
def agentRead (s : State) (key : Nat) : W × State :=
  let line := key / 8
  if deadHome s line then (deadWord s line, s)
  else
    let s := reachHome s line
    let s := if (ownerData s.cores line).isSome then s
      else
        let s := injectL2 s (homeTile s line) line
        if (l2Data s line).isSome then s else demandRead s (line / 2)
    (curWord s key, s)

/-! ## Writes -/

/-- Applies a change to every copy of a line, wherever it is: what a write does whose order falls before something that holds the
line's transaction open. -/
def pokeLine (s : State) (line : Nat) (f : Line → Line) : State :=
  let s := storeLine s line (f (memLine s line))
  let h := homeTile s line
  let cores := s.cores.map fun c => (c.1, { c.2 with l1d := c.2.l1d.map fun l => if l.1 = line then (l.1, { l.2 with data := f l.2.data }) else l })
  let mesh := s.mesh.map fun m => if m.line = line ∧ m.kind.moves = true then { m with data := m.data.map f } else m
  let t := s.tile h
  let t := { t with l2 := t.l2.map (fun l => if l.1 = line then (l.1, { l.2 with data := f l.2.data }) else l),
                    sf := t.sf.map fun e => if e.1 = line then (e.1, { e.2 with txn := e.2.txn.map fun x => { x with data := x.data.map f } }) else e }
  { s with cores := cores, mesh := mesh }.setTile h t

/-- Every copy of a line outside its home goes (R238, SNF and SNI): of the L1s and of the slices that hold it as a stash line.
An upgrade that is under way becomes a read for ownership, and a fill that an L1 awaits is use-once (R237, R247). -/
def dropCopies (s : State) (line : Nat) : State :=
  let cores := s.cores.map fun c =>
      (c.1, { c.2 with
        l1d := c.2.l1d.filterMap (fun l => if l.1 = line then
          (match l.2.st with
           | .m | .o | .e | .s => none
           | .smA | .omA => some (l.1, { l.2 with st := .imD })
           | _ => some l) else some l),
        l1i := c.2.l1i.filter fun l => !(l.1 == line && l.2.st == .s) })
  let tiles := s.tiles.map fun t => (t.1, { t.2 with l2 := t.2.l2.filter fun l => !(l.1 == line && l.2.stash.isSome) })
  s.cores.foldl (fun s c => useOnce (useOnce s c.1 line false) c.1 line true) { s with cores := cores, tiles := tiles }

/-- The dirty data of a line's owner reaches its home (R227, R238). -/
def ownerBack (s : State) (line : Nat) : State :=
  match s.cores.findSome? fun c => match tget c.2.l1d line with
      | some l => if l.st = .m ∨ l.st = .o ∨ l.st = .omA then some l else none
      | none => none with
  | some l => absorb s line l.data l.na
  | none => s

/-- An agent changes a line through a function: the copies are invalidated, an owner's dirty data reaches the home first, and the L2
copy or memory takes the change (R238 WRM); `install`: an absent line is installed in L2 (ATM). A dead home discards and counts
it (R251). -/
def agentModify (s : State) (line : Nat) (install : Bool) (f : Line → Line) : State :=
  if deadHome s line then sarkCount s 0
  else
    let s := reachHome s line
    let s :=
      if stuck s line then pokeLine s line f
      else
        let s := injectL2 (dropCopies (ownerBack s line) line) (homeTile s line) line
        let s := s.modTile (homeTile s line) fun t => { t with sf := tdel t.sf line }
        match l2Data s line with
        | some d => l2Put s (homeTile s line) line { dirty := true, data := f d }
        | none =>
          let s := demandRead s (line / 2)
          if install then l2Put s (homeTile s line) line { dirty := true, data := f (memLine s line) } else storeLine s line (f (memLine s line))
    recompare s line

/-- A write of the bytes of a mask of one word. -/
def agentWrite (s : State) (key : Nat) (w : W) (mask : BitVec 8) : State :=
  agentModify s (key / 8) false fun l => mergeLine l key w mask

/-- A whole line is written, with a stash hint or none (R238 WRF, R245). -/
def agentLine (s : State) (line : Nat) (data : Line) (stash : Option Nat) : State :=
  if deadHome s line then sarkCount s 0
  else
    let s := reachHome s line
    if stuck s line then recompare (pokeLine s line fun _ => data) line
    else
      let s := dropCopies s line
      wrfWrite (s.modTile (homeTile s line) fun t => { t with sf := tdel t.sf line }) line data stash

/-- An atomic of an agent at the line's home (R131, R238 ATM): the old word, or what its checks of the memory word find. -/
def agentAtom (s : State) (key op : Nat) (rt rd : W) : Except (Nat × Nat) W × State :=
  let (old, s) := agentRead s key
  match atomNew op old rt rd with
  | .error f => (.error f, s)
  | .ok w => (.ok old, agentModify s (key / 8) true fun l => l.set (key % 8) w)

/-! ## The change between the forms of the snoop filter (R233) -/

/-- Every home flushes every L1 line it tracks, as FLS does, dirty data going to L2, and the other form starts with no entries.
What is in flight about a line arrives first; a stash line is given up like the copy of an L1. -/
def flushTracked (s : State) : State :=
  let s := (s.mesh.filter fun m => m.kind.moves).foldl (fun s m => settleLine 2000 s m.line) s
  let s := s.cores.foldl (fun s c => c.2.l1d.foldl (fun s l =>
    match l.2.st with
    | .m | .o | .omA => absorb s l.1 l.2.data l.2.na
    | _ => s) s) s
  let l1i := fun (l : Nat × L1Line) => if l.2.st = .isD then some (l.1, { l.2 with once := true }) else if l.2.st = .xiA then some l else none
  let l1d := fun (l : Nat × L1Line) =>
    match l.2.st with
    | .m | .o | .e | .s => none
    | .smA | .omA => some (l.1, { l.2 with st := L1.imD })
    | .isD => some (l.1, { l.2 with once := true })
    | _ => some l
  let sf := fun (e : Nat × Sf) => if e.2.txn.isSome then some (e.1, { e.2 with st := SfState.np, sharers := [], bcast := false }) else none
  let cores := s.cores.map fun (c : Nat × Core) => (c.1, { c.2 with l1i := c.2.l1i.filterMap l1i, l1d := c.2.l1d.filterMap l1d })
  let tiles := s.tiles.map fun (t : Nat × Tile) => (t.1, { t.2 with sf := t.2.sf.filterMap sf, l2 := t.2.l2.filter fun l => l.2.stash.isNone })
  { s with cores := cores, tiles := tiles }

end Sys2Proof.Machine
end

