-- ==== Sys2Proof/Machine/Walk.lean ====
section
/-! DEFINITION. What an instruction's body answers, and translation: the walk (R203 to R205), the checks of a leaf
(R206 to R209), TLBs (R218, R212, R224) and the home's translation of a global offset (R215). -/

namespace Sys2Proof.Machine

/-- What a body waits for when it cannot go on: a line (`walk`: for a table walk), its line again after a copy failed, a word read
uncached or a far atomic, with the leaf that the access keeps (R207, R224), and so on. -/
inductive Need where
  | line (line : Nat) (excl ifetch wt na walk : Bool)
  | refetch (line : Nat) (ifetch : Bool)
  | rdo (key : Nat) (walk : Bool) (pins : List (Nat × W))
  | atm (key : Nat) (op : BitVec 3) (rt rd : W) (na : Bool) (pins : List (Nat × W)) (bar : Barrier)
  | remote (va : BitVec 59) (acc : BitVec 2) (body : Body)
  | outb (lpa : Nat) (pins : List (Nat × W))
  | maint (kind : ReqK) (line : Nat)
  | sync (why : Why)
  | migrate (va : BitVec 59) (acc : BitVec 2)
  | latch
  | held
  deriving DecidableEq, Repr

/-- Why a body stopped: an exception, or something it waits for. -/
inductive Stop where
  | exn (e : Exn)
  | need (n : Need)
  deriving DecidableEq, Repr

/-- The answer of a body. -/
abbrev Res (α : Type) := Except Stop α

/-- What a body runs in: who executes, the instruction word for xinfo, and what arrived for its pending access, with the barrier
of a far atomic that the home has performed. -/
structure Env where
  x     : Exec
  word  : BitVec 32
  once  : Tbl Line := []
  words : Tbl W := []
  contended : Bool := false
  bar   : Option Barrier := none
  deriving DecidableEq, Repr

/-- Raises an exception in a body. -/
def throwX {α : Type} (cause : Nat) (addr : BitVec 59) (info : Nat) : Res α :=
  .error (.exn { cause := BitVec.ofNat 8 cause, addr := addr, info := BitVec.ofNat 64 info })

/-- A leaf as an access uses it: the page's LPA divided by 4,096, the entry, and its level. -/
structure Leaf where
  page : Nat
  pte  : BitVec 64
  lvl  : Nat
  deriving DecidableEq, Repr

/-- Fields of an entry (R201). -/
def pteMt (p : BitVec 64) : Nat := bitsN p 7 2
def pteNa (p : BitVec 64) : Bool := p.getLsbD 9
def pteG (p : BitVec 64) : Bool := p.getLsbD 48

/-- The LPA of an address through a leaf. -/
def Leaf.lpa (l : Leaf) (va : BitVec 59) : Nat := l.page * 4096 + va.toNat % 4096

/-- The circumstances of a translation: whose tables, the space, and what the fault reports (R213). -/
structure TCtx where
  world : World
  space : BitVec 12
  acc   : Nat
  sup   : Bool
  tlb   : Option Nat
  glob  : Bool := false
  deriving DecidableEq, Repr

/-- xinfo of a translation fault (R213). -/
def xlInfo (t : TCtx) (sub lvl key lpa : Nat) : Nat :=
  sub + 2 ^ 8 * lvl + 2 ^ 11 * t.acc + 2 ^ 13 * b2n t.sup + 2 ^ 16 * key + 2 ^ 21 * lpa

/-- A translation fault. -/
def xlFault {α : Type} (t : TCtx) (va : BitVec 59) (cause sub lvl key lpa : Nat) : Res α :=
  throwX cause va (xlInfo t sub lvl key lpa)

/-- An XLATE fault that an entry at an LPA gives. -/
def xlEntry {α : Type} (t : TCtx) (va : BitVec 59) (sub lvl lpa : Nat) : Res α :=
  .error (.exn { cause := 0x09, addr := va, info := BitVec.ofNat 64 (xlInfo t sub lvl 0 0), word := BitVec.ofNat 43 lpa })

/-- An entry as its tables mean it: the reserved part of R202 and R204. -/
def pteBad (p : BitVec 64) (last : Bool) : Bool := bitsN p 56 8 != 0 || (bitsN p 10 2 == 3 || p.getLsbD 1 != last)

/-- A root word's reserved bits (R199). -/
def rootBad (p : BitVec 64) (glob : Bool) : Bool :=
  p.getLsbD 1 || (bitsN p 4 8 != 0 || (bitsN p 43 21 != 0 || (bitsN p 2 2 == 3 || (glob && bitsN p 2 2 == 2))))

/-- The tag check of a word that a walk read (R205). -/
def checkWalkWord (t : TCtx) (va : BitVec 59) (w : W) (lvl lpa : Nat) : Res Unit :=
  if w.tag = 0x301 then xlFault t va 0x0E 0x03 lvl 0 lpa
  else if w.tag = 0x309 then .ok ()
  else xlFault t va 0x0E 0x01 lvl 0 lpa

/-- TLB entries of an agent. -/
def tlbOf (s : State) (a : Option Nat) : List TlbEntry := match a with | some k => tgetD s.tlbs k [] | none => []

/-- An entry serves a space of a world (R218). -/
def tlbFits (t : TCtx) (e : TlbEntry) : Bool := e.world == t.world && (e.glob || e.space == t.space)

/-- An entry, or its contiguous group (R212), covers a page. -/
def tlbCovers (e : TlbEntry) (page : Nat) : Bool :=
  e.leaf && (match bitsN e.pte 10 2 with
    | 1 => e.key / 16 == page / 16
    | 2 => e.key / 512 == page / 512
    | _ => e.key == page)

/-- A held leaf for a page: the TLB may use it or have lost it (R224), which is a free choice. -/
def tlbLeaf (s : State) (t : TCtx) (page : Nat) : Option Leaf :=
  match (tlbOf s t.tlb).find? fun e => tlbFits t e && tlbCovers e page with
  | some e =>
    if Config.choice s.free (16 * page + 2) % 2 = 0 then
      some ⟨(bitsN e.pte 12 31 + page + 2 ^ 31 - e.key) % 2 ^ 31, e.pte, e.lvl⟩
    else none
  | none => none

/-- A held walk word (R218), by the same choice. -/
def tlbNode (s : State) (t : TCtx) (key : Nat) : Option (BitVec 64) :=
  match (tlbOf s t.tlb).find? fun e => !e.leaf && (e.world == t.world && (e.space == t.space && e.key == key)) with
  | some e => if Config.choice s.free (16 * key + 3) % 2 = 0 then some e.pte else none
  | none => none

/-- The home translator's TLB number. -/
def homeTlb : Nat := 356

/-- How many entries of a kind the translation caches of an agent hold (R218): of a core, 96, 32 and 2,048 leaves and 64 walk
words; of the home translator, 4,096 leaves and no walk word. -/
def tlbRoom (a : Nat) (leaf : Bool) : Nat :=
  if a = homeTlb then (if leaf then 4096 else 0) else if leaf then 2176 else 64

/-- Holds an entry in a TLB, in place of one with its key; the oldest of its kind leaves where there is no room. -/
def tlbInstall (s : State) (a : Option Nat) (e : TlbEntry) : State :=
  match a with
  | none => s
  | some k =>
    let l := (tgetD s.tlbs k []).filter fun f => !(f.world == e.world && (f.space == e.space && (f.leaf == e.leaf && f.key == e.key)))
    let all := e :: l
    { s with tlbs := tset s.tlbs k ((all.filter fun f => f.leaf).take (tlbRoom k true) ++ (all.filter fun f => !f.leaf).take (tlbRoom k false)) }

/-- A part of a body that answers, and leaves the state it made either way. -/
abbrev Act (α : Type) := State → Except Stop α × State

/-- Reads of table words. -/
abbrev Reader := Nat → Act W

/-- The levels of a walk from level l on (R204): table t at the level, n levels in all. -/
def walkLevels (rd : Reader) (t : TCtx) (va : BitVec 59) (addr n fuel l tab : Nat) (dev : Bool) (s : State) : Except Stop Leaf × State :=
  match fuel with
  | 0 => (xlFault t va 0x09 0x03 l 0 0, s)
  | fuel + 1 =>
    let sh := 12 + 9 * (n - l)
    let p := tab + 8 * (addr / 2 ^ sh % 512)
    if dev ∨ isReg p then (xlFault t va 0x0E 0x02 l 0 p, s)
    else if owns s t.world p = false then (xlFault t va 0x0A 0x30 l 0 p, s)
    else
      match (if l < n then tlbNode s t (sh + 64 * (addr / 2 ^ sh)) else none) with
      | some e =>
        walkLevels rd t va addr n fuel (l + 1) (bitsN e 12 31 * 4096) (pteMt e == 3) s
      | none =>
        match rd p s with
        | (.error x, s) => (.error x, s)
        | (.ok w, s) =>
          match checkWalkWord t va w l p with
          | .error x => (.error x, s)
          | .ok _ =>
            let e := w.payload
            if e.getLsbD 0 = false then (xlEntry t va 0x02 l p, s)
            else if pteBad e (l == n) then (xlEntry t va 0x03 l p, s)
            else if l = n then
              let page := addr / 4096
              let s := if e.getLsbD 2 then tlbInstall s t.tlb ⟨t.world, t.space, pteG e && !t.glob, true, page, n, e⟩ else s
              (.ok ⟨bitsN e 12 31, e, n⟩, s)
            else
              let s := tlbInstall s t.tlb ⟨t.world, t.space, false, false, sh + 64 * (addr / 2 ^ sh), l, e⟩
              walkLevels rd t va addr n fuel (l + 1) (bitsN e 12 31 * 4096) (pteMt e == 3) s

/-- The walk from a root word (R204, R215): `addr` is VA[56:0] of a private address or the offset of a global one. -/
def walkRoot (rd : Reader) (t : TCtx) (va : BitVec 59) (addr rootLpa : Nat) (s : State) : Except Stop Leaf × State :=
  let go := fun (r : BitVec 64) (s : State) =>
    if r.getLsbD 0 = false then (xlEntry t va 0x04 0 rootLpa, s)
    else if rootBad r t.glob then (xlEntry t va 0x03 0 rootLpa, s)
    else
      let n := 3 + bitsN r 2 2
      if addr / 2 ^ (12 + 9 * n) ≠ 0 then (xlFault t va 0x09 0x01 0 0 0, s)
      else walkLevels rd t va addr n (n + 1) 1 (bitsN r 12 31 * 4096) false s
  match tlbNode s t 63 with
  | some r => go r s
  | none =>
    match rd rootLpa s with
    | (.error x, s) => (.error x, s)
    | (.ok w, s) =>
      match checkWalkWord t va w 0 rootLpa with
      | .error x => (.error x, s)
      | .ok _ =>
        let s := if w.payload.getLsbD 0 && !rootBad w.payload t.glob then tlbInstall s t.tlb ⟨t.world, t.space, false, false, 63, 0, w.payload⟩ else s
        go w.payload s

/-- The root table of a world, as the last entry to SERVICE checked it (R197). -/
def rootOf (s : State) (w : World) : Option Nat := match w with | .sys => s.svc.rootS | .job => s.svc.rootJ

/-- Translates a private address: from a TLB or by a walk (R204). -/
def walkPrivate (rd : Reader) (t : TCtx) (va : BitVec 59) (s : State) : Except Stop Leaf × State :=
  if va.getLsbD 57 then (xlFault t va 0x09 0x01 0 0 0, s)
  else
    match rootOf s t.world with
    | none => (xlFault t va 0x09 0x04 0 0 0, s)
    | some root =>
      match tlbLeaf s t (va.toNat / 4096) with
      | some l => (.ok l, s)
      | none => walkRoot rd t va va.toNat (root + 8 * t.space.toNat) s

/-- Reads of an agent without a cache. -/
def agentReader : Reader := fun lpa s => let r := agentRead s (lpa / 8); (.ok r.1, r.2)

/-- The write check of a leaf (R206 order 5). -/
def leafWrite (t : TCtx) (va : BitVec 59) (l : Leaf) : Res Unit :=
  if (t.acc = 1 ∨ t.acc = 3) ∧ l.pte.getLsbD 4 = false then xlFault t va 0x0A 0x02 l.lvl 0 0 else .ok ()

/-- The accessed and dirty checks of a leaf (R206 orders 7 and 8). -/
def leafAD (t : TCtx) (va : BitVec 59) (l : Leaf) : Res Unit :=
  if l.pte.getLsbD 2 = false then xlFault t va 0x0C 0 l.lvl 0 0
  else if (t.acc = 1 ∨ t.acc = 3) ∧ l.pte.getLsbD 3 = false then xlFault t va 0x0D 0 l.lvl 0 0
  else .ok ()

/-- The home's checks of a leaf (R215). -/
def homeLeaf (s : State) (t : TCtx) (va : BitVec 59) (l : Leaf) : Res Leaf := do
  if t.sup = false ∧ l.pte.getLsbD 6 = false then xlFault t va 0x0A 0x01 l.lvl 0 0
  if pteMt l.pte = 3 ∨ isReg (l.lpa va) then xlFault t va 0x0A 0x04 l.lvl 0 0
  leafWrite t va l
  leafAD t va l
  if owns s t.world (l.lpa va) = false then xlFault t va 0x0A 0x30 l.lvl 0 0
  return l

/-- The home's translation and checks of a global address for a requester (R215): the leaf. -/
def walkHome (t : TCtx) (va : BitVec 59) (s : State) : Except Stop Leaf × State :=
  let off := va.toNat % 2 ^ 42
  let t := { t with glob := true, space := 0, tlb := some homeTlb }
  match rootOf s t.world with
  | none => (xlFault t va 0x09 0x04 0 0 0, s)
  | some root =>
    let r : Except Stop Leaf × State := match tlbLeaf s t (off / 4096) with
      | some l => (.ok l, s)
      | none => walkRoot agentReader t va off (root + 0x8000) s
    (r.1.bind (homeLeaf r.2 t va), r.2)

/-- The checks of a leaf for an agent that is no core (R272, R375): no register space, no device page; `cached`: only
mt = 00. -/
def agentLeaf (s : State) (t : TCtx) (cached : Bool) (va : BitVec 59) (l : Leaf) : Res Leaf := do
  if pteMt l.pte = 3 ∨ isReg (l.lpa va) ∨ (cached ∧ pteMt l.pte ≠ 0) then xlFault t va 0x0A 0x04 l.lvl 0 0
  leafWrite t va l
  leafAD t va l
  if owns s t.world (l.lpa va) = false then xlFault t va 0x0A 0x30 l.lvl 0 0
  return l

/-- The translation of an agent that is no core and issues private addresses at Supervisor level without keys: TLB
number, world and space. -/
def walkAgent (tlb : Nat) (w : World) (space : BitVec 12) (acc : Nat) (cached : Bool) (va : BitVec 59) (s : State) :
    Except Stop Nat × State :=
  let t : TCtx := ⟨w, space, acc, true, some tlb, false⟩
  let r := walkPrivate agentReader t va s
  ((r.1.bind (agentLeaf r.2 t cached va)).map fun l => l.lpa va, r.2)

end Sys2Proof.Machine
end

