-- ==== Sys2Proof/Machine/Globe.lean ====
section
/-! DEFINITION. Global operations: coordinates and links (R336 to R338), what a home device does with one (R298, R301,
R305, R439), and the slots and messages of a requester (R344). -/

namespace Sys2Proof.Machine

/-! ## Coordinates and links -/

/-- Coordinate d of a device number (R336). -/
def coordOf (dev : BitVec 16) (d : Nat) : Nat := bitsN dev (4 * d) 4

/-- The size of dimension d. -/
def dimSize (s : State) (d : Nat) : Nat := bitsN s.svc.dims (4 * d) 4 + 1

/-- The distance going + in dimension d. -/
def plusDist (s : State) (src dest : BitVec 16) (d : Nat) : Nat :=
  (coordOf dest d + dimSize s d - coordOf src d % dimSize s d) % dimSize s d

/-- The links of a direction (R337): its torus port and its doubling ports, in ascending number. -/
def linksOf (s : State) (dir : Nat) : List Nat :=
  dir :: ((List.range 8).map (· + 8)).filter fun p => dval s 0x0C10 (p + 1) % 16 == dir

/-- A link that carries traffic: UP, not fenced, and its peer sends no HOLD (R340, R341, R346, R440). -/
def usable (s : State) (p : Nat) : Bool := (s.port p).st == .up && (!(s.port p).fence && (s.port p).hold == 0)

/-- A link carries traffic for a destination on a channel: a peer in SAFE takes VC 4 and what is for itself (R440). -/
def carries (s : State) (p : Nat) (dest : BitVec 16) (vc : Nat) : Bool :=
  let q := s.port p
  q.st == .up && (!q.fence && (q.hold == 0 || (q.hold == 3 && (q.peerDev == dest || vc == 4))))

/-- The directions that reduce the distance to a device (R340). -/
def towards (s : State) (dest : BitVec 16) : List Nat :=
  (List.range 4).foldl (fun l d =>
    let k := dimSize s d
    let n := plusDist s (devNo s) dest d
    if n = 0 then l
    else (if n ≤ k - n then l ++ [2 * d] else l) ++ (if k - n ≤ n then [2 * d + 1] else [])) []

/-- Why an operation cannot be sent (R301 UNREACHABLE): its subcode. -/
def unreachable (s : State) (dest : BitVec 16) : Option Nat :=
  if (List.range 4).any fun d => decide (dimSize s d ≤ coordOf dest d) then some 1
  else if dest = devNo s then none
  else if (towards s dest).any fun d => (linksOf s d).any fun p => carries s p dest 0 then none
  else some 2

/-! ## The home device -/

/-- A home-side fault (R216, R301). -/
structure HF where
  cause : BitVec 8
  sub   : BitVec 8
  lvl   : BitVec 3
  acc   : BitVec 2
  deriving DecidableEq, Repr

/-- What a mode does with requests that are addressed to the device (R439). -/
inductive Traffic where
  | performed | answered | afterWake | nothing
  deriving DecidableEq, Repr

/-- R439 for REQ. -/
def reqTraffic (m : Mode) : Traffic :=
  match m with
  | .service | .degraded | .quiesce | .recovery => .performed
  | .bringup | .selftest | .hold | .safe => .answered
  | .drowse => .afterWake
  | .off | .standby | .loader => .nothing

/-- A home translation fault is recorded in xlate_log (R464). -/
def logXlate (s : State) (dev : BitVec 16) (w : World) (sup : Bool) (va : BitVec 59) (f : HF) (lpa : Nat) : State :=
  let r := toBytes dev.toNat 2 ++ [BitVec.ofNat 8 (w.num + 2 * b2n sup), BitVec.ofNat 8 f.acc.toNat, f.cause, f.sub, 0, 0]
    ++ toBytes va.toNat 8 ++ toBytes lpa 8 ++ toBytes (Config.freeValue s.free 1).toNat 8
  let l := s.mg.xlateLog ++ [r]
  countUp { s with mg := { s.mg with xlateLog := l.drop (l.length - 64) } } 0x1811 0x02 1

/-- A leaf whose a or d is 0 leaves the home translator's TLB (R211, R217). -/
def homeDrop (s : State) (w : World) (va : BitVec 59) (e : Exn) : State :=
  if e.cause = 0x0C ∨ e.cause = 0x0D then
    { s with tlbs := tset s.tlbs homeTlb ((tgetD s.tlbs homeTlb []).filter fun f => !(f.world == w && tlbCovers f (va.toNat % 2 ^ 42 / 4096))) }
  else s

/-- The home's translation for a requester: the leaf, or the fault that answers it. -/
def homeXlate (s : State) (dev : BitVec 16) (w : World) (sup : Bool) (acc : Nat) (va : BitVec 59) : Except HF Leaf × State :=
  if reqTraffic s.mg.mode ≠ .performed then
    (.error ⟨0x42, BitVec.ofNat 8 s.mg.mode.num, BitVec.ofNat 3 (b2n sup), BitVec.ofNat 2 acc⟩, s)
  else
    match walkHome ⟨w, 0, acc, sup, some homeTlb, true⟩ va s with
    | (.ok l, s) => (.ok l, s)
    | (.error (.exn e), s) =>
      let f : HF := ⟨e.cause, BitVec.ofNat 8 (bitsN e.info 0 8), BitVec.ofNat 3 (bitsN e.info 8 3), BitVec.ofNat 2 acc⟩
      (.error f, logXlate (homeDrop s w va e) dev w sup va f (if e.cause = 0x09 then e.word.toNat else bitsN e.info 21 43))
    | (.error (.need _), s) => (.error ⟨0x09, 0x04, 0, BitVec.ofNat 2 acc⟩, s)

/-- A remote load at its home (R298): the word whole. -/
def homeLoad (s : State) (dev : BitVec 16) (w : World) (sup : Bool) (va : BitVec 59) : Except HF (W × Leaf) × State :=
  match homeXlate s dev w sup 0 va with
  | (.ok l, s) => let r := agentRead s (l.lpa va / 8); (.ok (r.1, l), r.2)
  | (.error f, s) => (.error f, s)

/-- The bytes that a store of a size writes: the word in place and its byte mask (R343). -/
def placeBytes (va : BitVec 59) (word : W) (size : Nat) (mask : BitVec 8) : W × BitVec 8 :=
  let o := va.toNat % 8
  match size with
  | 3 => (word, 255)
  | 2 => (word, mask)
  | 1 => (⟨0x006, BitVec.ofNat 64 (word.payload.toNat % 2 ^ 16 * 2 ^ (8 * o))⟩, BitVec.ofNat 8 (3 * 2 ^ o))
  | _ => (⟨0x006, BitVec.ofNat 64 (word.payload.toNat % 2 ^ 8 * 2 ^ (8 * o))⟩, BitVec.ofNat 8 (2 ^ o))

/-- What R39 answers to a partial write of a word: a cause and subcode when it is refused. -/
def partialWrite (old : W) : Option (Nat × Nat) :=
  if old.tag = 0x006 ∨ old.tag = 0x000 then none else if old.tag = 0x301 then some (0x08, 0) else some (0x05, 4)

/-- A remote store at its home (R298, R39). -/
def homeStore (s : State) (dev : BitVec 16) (w : World) (sup : Bool) (va : BitVec 59) (word : W) (size : Nat) (mask : BitVec 8) :
    Except HF Unit × State :=
  match homeXlate s dev w sup 1 va with
  | (.error f, s) => (.error f, s)
  | (.ok l, s) =>
    let key := l.lpa va / 8
    if size = 3 then (.ok (), agentWrite s key word 255)
    else
      let r := agentRead s key
      match partialWrite r.1 with
      | some (c, sub) => (.error ⟨BitVec.ofNat 8 c, BitVec.ofNat 8 sub, BitVec.ofNat 3 l.lvl, 1⟩, r.2)
      | none =>
        let b := placeBytes va word size mask
        (.ok (), agentWrite r.2 key b.1 b.2)

/-- A remote atomic at its home (R298, R131): the old word. -/
def homeAtom (s : State) (dev : BitVec 16) (w : World) (sup : Bool) (va : BitVec 59) (op : Nat) (rt rd : W) :
    Except HF W × State :=
  match homeXlate s dev w sup 3 va with
  | (.error f, s) => (.error f, s)
  | (.ok l, s) =>
    let key := l.lpa va / 8
    match agentAtom s key op rt rd with
    | (.error (c, sub), s) => (.error ⟨BitVec.ofNat 8 c, BitVec.ofNat 8 (if c = 5 then sub else 0), BitVec.ofNat 3 l.lvl, 3⟩, s)
    | (.ok old, s) => (.ok old, s)

/-! ## The requester -/

/-- xinfo of REMOTE_FAULT (R216). -/
def remoteInfo (f : HF) (home : BitVec 16) : Nat :=
  f.cause.toNat + 2 ^ 8 * f.sub.toNat + 2 ^ 16 * f.lvl.toNat + 2 ^ 19 * f.acc.toNat + 2 ^ 32 * home.toNat

/-- REMOTE_FAULT. -/
def remoteExn (va : BitVec 59) (f : HF) (home : BitVec 16) : Exn := { cause := 0x0F, addr := va, info := BitVec.ofNat 64 (remoteInfo f home) }

/-- The home device of a global address. -/
def homeDev (va : BitVec 59) : BitVec 16 := BitVec.ofNat 16 (bitsN va 42 16)

/-- Takes a slot and sends an operation's message (R344); none when the table is full. -/
def sendOp (s : State) (o : OutOp) (lcn : BitVec 16) (w : World) (sup : Bool) (vc : BitVec 3) (b : Body) : Option (Nat × State) :=
  match takeOp s o with
  | none => none
  | some (k, gen, s) => some (k, sendMsg s ⟨⟨o.dev, devNo s, lcn, w, sup, BitVec.ofNat 16 k, gen⟩, vc, b⟩)

/-- An operation to the issuing device takes a slot, and its answer frees it (R217, R344). -/
def ownSlot (s : State) : Option State :=
  match freeOp s.remote.ops with
  | none => none
  | some k => some (freeOpSlot s k)

/-- Contexts that wait for a slot of the table (wait = 3) return to READY when one is freed (R344). -/
def wakeSlotWaits (s : State) : State :=
  s.ctxs.foldl (fun s c => if (s.ctx c.1).dir.wait = 3 ∧ (s.ctx c.1).dir.storesOut ≠ 0xFFF then endWait s c.1 else s) s

/-- Frees the slot of an operation. -/
def closeOp (s : State) (k : Nat) : State := wakeSlotWaits (freeOpSlot s k)

end Sys2Proof.Machine
end

