-- ==== Sys2Proof/Machine/Collective.lean ====
section
/-! DEFINITION. Cowslip: collective operations and quiescence detection (R351 to R362). -/

namespace Sys2Proof.Machine

/-- Ports of a mask, in ascending number. -/
def childPorts (g : Group) : List Nat := (List.range 16).filter fun p => g.children.getLsbD p

/-- kind, rop, type and count as a message carries them (R358). -/
def shapeOf (g : Group) : BitVec 12 :=
  BitVec.ofNat 12 (g.kind.toNat + 4 * g.rop.toNat + 32 * b2n g.ty + 64 * g.count.toNat)

/-- A message of the group's current operation. -/
def collMsg (g : Group) (n : Nat) (down term : Bool) (err : BitVec 8) (dev : BitVec 16) (ws : List W) : CollMsg :=
  ⟨BitVec.ofNat 6 n, down, term, g.ovf, g.seq, err, dev, shapeOf g, if err = 0 then ws else []⟩

/-- Sends a collective message on a port (R358). -/
def sendColl (s : State) (port : Nat) (m : CollMsg) : State :=
  sendMsg s ⟨⟨0, devNo s, 0xFFFF, .sys, true, 0, 0⟩, 3, .coll (BitVec.ofNat 4 port) m⟩

/-- Completion notification (R362 CW_GNOTE). -/
def collNotify (s : State) (n : Nat) : State :=
  let g := s.group n
  let s := if g.dbEn then ringBits s g.lcn.toNat (1 <<< g.event.toNat) else s
  if g.irqEn then
    let s := { s with collNote := s.collNote ||| BitVec.ofNat 64 (2 ^ n) }
    signal s 0x64 s.collNote
  else s

/-- States in which an operation is in progress. -/
def GSt.busy : GSt → Bool
  | .armed | .up | .down => true
  | _ => false

/-- The group enters ERROR with a code that arose at a device (R360): sent up while the operation still goes up, down on
every child port at the root or once it has turned. A group that is in ERROR stays as it is. -/
def groupError (s : State) (n : Nat) (err : BitVec 8) (dev : BitVec 16) : State :=
  let g := s.group n
  let busy := g.st.busy
  let root := g.root
  if g.st = .error then s else
  let s := s.setGroup n { g with st := .error, err := err, errDev := dev, quiet := 3, wave := none,
                                 upSent := g.upSent || busy, turned := g.turned || (busy && root) }
  let s := if !busy then s
    else if root || g.turned then
      (childPorts g).foldl (fun s p => sendColl s p (collMsg g n true false err dev [])) s
    else if g.upSent then s
    else sendColl s g.parent.toNat (collMsg g n false false err dev [])
  collNotify s n

/-- A group's words in memory may be accessed by its owner world (R163, R360 PARTITION). -/
def groupOwns (s : State) (g : Group) (lpa : BitVec 43) (k : Nat) : Bool :=
  (List.range k).all fun i => owns s g.owner (lpa.toNat + 8 * i)

/-- Reads words as an agent without a cache (R244). -/
def readWords (s : State) (key n : Nat) : List W × State :=
  match n with
  | 0 => ([], s)
  | n + 1 =>
    let r := agentRead s key
    let q := readWords r.2 (key + 1) n
    (r.1 :: q.1, q.2)

/-- Writes words as an agent without a cache. -/
def writeWords (s : State) (key : Nat) (ws : List W) : State :=
  match ws with
  | [] => s
  | w :: r => writeWords (agentWrite s key w 255) (key + 1) r

/-- The identity contribution of an operation (R354). -/
def identityW (g : Group) : W :=
  if g.kind = 1 then nilW
  else
    match g.rop.toNat, g.ty with
    | 0, false => fixW 0
    | 0, true => ⟨0x002, 0x8000000000000000⟩
    | 1, false => fixW (2 ^ 63 - 1)
    | 1, true => ⟨0x002, finf false⟩
    | 2, false => fixW (2 ^ 63)
    | 2, true => ⟨0x002, finf true⟩
    | 3, false => fixW (2 ^ 64 - 1)
    | 4, false => fixW 0
    | _, ty => ⟨if ty then 0x002 else 0x001, Config.reservedIdentity ty g.rop⟩

/-- Combines two words of a reduction (R355), with whether a FIXNUM sum overflowed. -/
def combineW (g : Group) (a b : W) : W × Bool :=
  let x := a.payload
  let y := b.payload
  if g.ty then
    match g.rop.toNat with
    | 0 => (⟨0x002, (fadd .rne x y).1⟩, false)
    | 1 => (⟨0x002, (fminmax false x y).1⟩, false)
    | 2 => (⟨0x002, (fminmax true x y).1⟩, false)
    | _ => (⟨0x002, Config.reservedRop true g.rop x y⟩, false)
  else
    match g.rop.toNat with
    | 0 => (⟨0x001, x + y⟩, x.saddOverflow y)
    | 1 => (⟨0x001, if y.slt x then y else x⟩, false)
    | 2 => (⟨0x001, if x.slt y then y else x⟩, false)
    | 3 => (⟨0x001, x &&& y⟩, false)
    | 4 => (⟨0x001, x ||| y⟩, false)
    | _ => (⟨0x001, Config.reservedRop false g.rop x y⟩, false)

/-- Combines lists of words element by element. -/
def combineWs (g : Group) (a b : List W) : List W × Bool :=
  let l := List.zipWith (combineW g) a b
  (l.map fun p => p.1, l.any fun p => p.2)

/-- A device's value: its own contribution, then its children's in ascending port number (R355). -/
def groupValue (g : Group) : List W × Bool :=
  (childPorts g).foldl (fun (a : List W × Bool) p =>
    match tget g.ups p with
    | some m =>
      (match g.kind.toNat with
       | 2 => let r := combineWs g a.1 m.words
              (r.1, a.2 || (r.2 || m.ovf))
       | 3 => (List.zipWith (fun (x y : W) => ⟨0x001, x.payload + y.payload⟩) a.1 m.words, a.2 || m.ovf)
       | _ => (a.1, a.2 || m.ovf))
    | none => a) (g.mine, false)

/-- The operation ends on this device (R353 step 3): output words, state, notification. -/
def collDone (s : State) (n : Nat) (ws : List W) : State :=
  let g := s.group n
  if groupOwns s g g.out ws.length = false then groupError (s.setGroup n { g with turned := true, upSent := true, st := .done }) n 0x05 (devNo s)
  else
    let s := writeWords s (g.out.toNat / 8) ws
    collNotify (s.setGroup n { g with st := .done, quiet := 2, wave := none, turned := true }) n

/-- The down message of a wave has come (R394): the sequencer that runs a QUIESCE group is told. -/
def tellSeq (s : State) (n : Nat) : State := if (s.group n).kind = 3 then seqEvent s (96 + n % 4) (1 <<< (n / 4)) else s

/-- The next wave of a QUIESCE group begins (R357). -/
def nextWave (s : State) (n : Nat) : State :=
  let g := s.group n
  tellSeq (s.setGroup n { g with st := .up, upSent := false, turned := false, ready := false, quiet := 1, ups := [], wave := none }) n

/-- The down message of the current operation goes to every child. -/
def sendDown (s : State) (n : Nat) (term : Bool) (ws : List W) : State :=
  let g := s.group n
  (childPorts g).foldl (fun s p => sendColl s p (collMsg g n true term 0 0 ws)) s

/-- The root forms the result (R353 step 2, R357). -/
def rootResult (s : State) (n : Nat) (v : List W) : State :=
  let g := s.group n
  if g.kind = 3 then
    let t := ((v.getD 0 nilW).payload, (v.getD 1 nilW).payload)
    let s := s.setGroup n { g with st := .down, prev := some t, wave := some t, ups := [] }
    if g.prev = some t ∧ t.1 = t.2 then tellSeq (collDone (sendDown s n true v) n v) n else s
  else
    let s := s.setGroup n { g with st := .down, ups := [] }
    collDone (sendDown s n false v) n (if g.kind = 0 then [] else v)

/-- A tree port is down or fenced (R360 LINK); a neighbour in SAFE still takes what is for itself (R440). -/
def treeDown (s : State) (g : Group) : Bool :=
  let up := fun (p : Nat) => carries s p (s.port p).peerDev 5
  (childPorts g).any (fun p => !up p) || (!g.root && !up g.parent.toNat)

/-- Carries an operation on (R353 steps 1 and 2): once the local contribution is ready and every child's up message is
there, the device sends up, or the root forms the result. An error that a child reported, or a dead tree link, ends it. -/
def collGo (s : State) (n : Nat) : State :=
  let g := s.group n
  if g.st ≠ .armed ∧ g.st ≠ .up then s
  else
    match g.ups.find? fun m => m.2.err != 0 with
    | some m => groupError s n m.2.err m.2.errDev
    | none =>
      if g.upSent ∨ !g.ready then s
      else
        let s := s.setGroup n { g with st := .up }
        if treeDown s g then groupError s n 0x04 (devNo s)
        else if (childPorts g).all fun p => (tget g.ups p).isSome then
          let mine := if g.kind = 3 then [⟨0x001, g.sent⟩, ⟨0x001, g.recv⟩] else g.mine
          let g := { g with st := .up, mine := mine }
          let v := groupValue g
          let g := { g with ovf := g.ovf || v.2 }
          if g.root then rootResult (s.setGroup n g) n v.1
          else
            let s := s.setGroup n { g with upSent := true, ups := [] }
            sendColl s g.parent.toNat (collMsg g n false false 0 0 (if g.kind = 2 ∨ g.kind = 3 then v.1 else []))
        else s

/-- The errors of a configuration that a go finds (R360 CONFIG). -/
def badConfig (g : Group) : Bool :=
  (g.kind == 2 && (g.ty && (g.rop == 3 || g.rop == 4))) || (!g.root && g.children.getLsbD g.parent.toNat)

/-- The device's contribution (R352, R354): read at the go, or the identity; a QUIESCE contribution waits for QUP. -/
def contribute (s : State) (n : Nat) : State :=
  let g := s.group n
  let k := g.count.toNat + 1
  let set := fun (s : State) (ws : List W) => collGo (s.setGroup n { s.group n with mine := ws, ready := true }) n
  match g.kind.toNat with
  | 0 => set s []
  | 3 => s
  | kind =>
    let reads := g.member && (kind == 2 || g.root)
    if !reads then set s (List.replicate k (identityW g))
    else if groupOwns s g g.inp k = false then groupError s n 0x05 (devNo s)
    else
      let r := readWords s (g.inp.toNat / 8) k
      let want : BitVec 10 := if g.ty then 0x002 else 0x001
      if kind = 2 ∧ (r.1.any fun w => w.tag != want) then groupError r.2 n 0x01 (devNo s)
      else set r.2 r.1

/-- A write of 1 to CW_GGO (R352, R362). -/
def collStart (s : State) (n : Nat) : State :=
  let g := s.group n
  if g.st.busy then s.setGroup n { g with lostGo := if g.lostGo = 255 then 255 else g.lostGo + 1 }
  else if !g.en then s
  else
    let s := s.setGroup n { g with st := .armed, seq := g.seq + 1, ovf := false, err := 0, errDev := 0, ups := g.early, early := [],
                                   prev := none, wave := none, mine := [], ready := false, quiet := 0, upSent := false, turned := false }
    if badConfig g then groupError s n 0x03 (devNo s) else collGo (contribute s n) n

/-- A COLL message is discarded and counted (R359). -/
def collDrop (s : State) : State := countUp s 0x1800 0x40 1

/-- An up message of a child (R353, R359). -/
def collUp (s : State) (n port : Nat) (m : CollMsg) : State :=
  let g := s.group n
  if !g.children.getLsbD port then collDrop s
  else if m.shape ≠ shapeOf g then groupError (collDrop s) n 0x03 (devNo s)
  else if m.seq = g.seq + 1 then
    if (tget g.early port).isSome then groupError (collDrop s) n 0x02 (devNo s)
    else s.setGroup n { g with early := tset g.early port m }
  else if m.seq ≠ g.seq then groupError (collDrop s) n 0x02 (devNo s)
  else if g.st = .error then s
  else if (g.st = .armed ∨ g.st = .up) ∧ !g.upSent ∧ (tget g.ups port).isNone then
    collGo (s.setGroup n { g with ups := tset g.ups port m, ovf := g.ovf || m.ovf }) n
  else groupError (collDrop s) n 0x02 (devNo s)

/-- A down message of the parent (R353 step 3, R357, R360): forwarded on every child port, then completed here. -/
def collDown (s : State) (n port : Nat) (m : CollMsg) : State :=
  let g := s.group n
  if g.root ∨ port ≠ g.parent.toNat then collDrop s
  else if m.shape ≠ shapeOf g then groupError (collDrop s) n 0x03 (devNo s)
  else if m.seq ≠ g.seq ∨ (!g.st.busy ∧ g.st ≠ .error) then groupError (collDrop s) n 0x02 (devNo s)
  else if g.turned then s
  else
    let fwd := fun (s : State) => (childPorts g).foldl (fun s p => sendColl s p m) s
    if g.st = .error then fwd (s.setGroup n { g with turned := true })
    else if m.err ≠ 0 then
      let s := fwd (s.setGroup n { g with st := .error, err := m.err, errDev := m.errDev, quiet := 3, turned := true, upSent := true })
      tellSeq (collNotify s n) n
    else
      let s := fwd (s.setGroup n { g with st := .down, turned := true, ovf := g.ovf || m.ovf })
      if g.kind = 3 ∧ !m.term then nextWave s n else tellSeq (collDone s n (if g.kind = 0 then [] else m.words)) n

/-- A COLL message arrives on a port (R359, R439). -/
def collRecv (s : State) (port : Nat) (m : CollMsg) : State :=
  if (s.port port).st ≠ .up ∨ (s.port port).fence then s
  else
    match s.mg.mode with
    | .service | .degraded | .quiesce | .recovery =>
      let n := m.group.toNat
      if !(s.group n).en then collDrop s else if m.down then collDown s n port m else collUp s n port m
    | .drowse =>
      let s := wakeDevice s
      { s with mg := { s.mg with held := s.mg.held ++ [.coll (BitVec.ofNat 4 port) m] } }
    | .bringup | .selftest | .hold | .safe => collDrop s
    | .off | .standby | .loader => s

def execColl (port : BitVec 4) (m : CollMsg) (s : State) : Out := .next (collRecv s port.toNat m).tick

/-- The hold of q_period ends (R357): the down message with term = 0 is sent and the next wave begins. -/
def qPeriod (s : State) (n : Nat) : State :=
  let g := s.group n
  match g.wave with
  | some t => if g.st = .down ∧ g.root then nextWave (sendDown s n false [⟨0x001, t.1⟩, ⟨0x001, t.2⟩]) n else s
  | none => s

def execQPeriodExpiry (group : BitVec 6) (s : State) : Out := .next (qPeriod s group.toNat).tick

/-- A group is UP or DOWN for longer than coll_timeout (R360). -/
def execCollTimeout (group : BitVec 6) (s : State) : Out :=
  .next (if (s.group group.toNat).st = .up ∨ (s.group group.toNat).st = .down then groupError s group.toNat 0x06 (devNo s) else s).tick

/-- A store to QUP by the sequencer that runs the group (R394): the device's contribution to the wave is ready. -/
def qup (s : State) (n : Nat) : State :=
  let g := s.group n
  if (g.st = .armed ∨ g.st = .up) ∧ !g.upSent then collGo (s.setGroup n { g with ready := true, quiet := 0 }) n else s

/-- Every group in progress enters ERROR (R360 MODE; a sequencer's fault with SEQ_FAULT). -/
def groupsError (s : State) (p : Nat → Group → Bool) (err : BitVec 8) : State :=
  (List.range 64).foldl (fun s n => if (s.group n).st.busy && p n (s.group n) then groupError s n err (devNo s) else s) s

/-- A tree port went down (R360 LINK). -/
def groupsLink (s : State) (port : Nat) : State :=
  (List.range 64).foldl (fun s n =>
    let g := s.group n
    if (g.st == .up || g.st == .down) && (g.children.getLsbD port || (!g.root && g.parent.toNat == port)) then groupError s n 0x04 (devNo s) else s) s

end Sys2Proof.Machine
end

