-- ==== Sys2Proof/Machine/Engines.lean ====
section
/-! DEFINITION. Valley's channels (R364 to R382) and what the Reed sequencers share with their hosts (R385 to R405). -/

namespace Sys2Proof.Machine

/-! ## Sequencers and their hosts (R385) -/

/-- Kinds of host. -/
inductive SeqHost where
  | valley | teasel | cowslip
  deriving DecidableEq, Repr

/-- The host of sequencer k. -/
def seqHost (k : Nat) : SeqHost := if k < 64 then .valley else if k < 96 then .teasel else .cowslip

/-- The world a sequencer acts for. -/
def seqWorld (s : State) (k : Nat) : World :=
  match seqHost k with
  | .valley => (s.chan k).owner
  | .teasel => (s.sq k).owner
  | .cowslip => .sys

/-- The space it translates with. -/
def seqSpace (s : State) (k : Nat) : BitVec 12 :=
  match seqHost k with
  | .valley => (s.chan k).space
  | .teasel => (s.sq k).space
  | .cowslip => 0

/-- Its TLB. -/
def seqTlb (k : Nat) : Nat := 256 + k

/-- The interrupt source of a Teasel or Cowslip sequencer. -/
def seqSource (k : Nat) : Nat := if k < 96 then 0x40 + (k - 64) else 0x60 + (k - 96)

/-- A power domain is on (R448). -/
def domOn (s : State) (d : Nat) : Bool := tgetD s.mg.pd d .off == .on

/-- The host of a sequencer is powered and clocked. -/
def seqPowered (s : State) (k : Nat) : Bool :=
  match seqHost k with
  | .valley => domOn s 72
  | .teasel => (s.tile (k - 64)).power == .on && (!(s.tile (k - 64)).waking && !(s.tile (k - 64)).dead)
  | .cowslip => domOn s 73

/-- The GC registers of a world as an agent applies them (R258): while a write is in progress, an agent that has not applied it
uses the old values. -/
def gcFor (s : State) (w : World) (agent : Nat) : Gc := if s.gcLag.contains agent then (s.world w).gcOld else (s.world w).gc

/-- An agent may apply a write that is in progress, which is a free choice; from then on it uses the new values. -/
def applyGc (s : State) (agent : Nat) : State :=
  if s.gcLag.contains agent && Config.choice s.free (16 * agent + 13) % 2 == 1 then { s with gcLag := s.gcLag.filter (· != agent) } else s

/-- Starts a program at a word (R386). -/
def startProgram (s : State) (k : Nat) (entry : BitVec 12) : State :=
  s.setSq k { s.sq k with st := .running, fault := 0, pc := entry, z := false, n := false, b := false, t := false, stack := [],
                          pfx := none, waitM := none, ld := none, halt := false, lateFault := none }

/-! ## Valley: state and errors (R370, R380, R383) -/

/-- The numbers of the channel states. -/
def ChSt.num : ChSt → Nat
  | .idle => 0 | .running => 1 | .atEoc => 2 | .halted => 3

/-- fic_info of a channel's source (R383). -/
def chanInfo (c : Chan) : BitVec 64 := BitVec.ofNat 64 (c.doneCnt.toNat + 2 ^ 32 * c.err.toNat + 2 ^ 40 * c.st.num)

/-- Why a channel cannot go on: an error of R380, or a full table of operations. -/
inductive VStop where
  | halt (err : Nat) (addr : BitVec 59) (info : Nat)
  | full
  deriving DecidableEq, Repr

/-- The destination bytes below the first burst that is not wholly performed (R381). -/
def doneBytes (c : Chan) : Nat :=
  c.unacked.foldl (fun m (u : Nat × Nat × Nat) => if u.2.1 = c.descNo ∧ u.2.2 < m then u.2.2 else m) c.pos

/-- An error halts a channel (R380). -/
def vlHalt (s : State) (ch err : Nat) (addr : BitVec 59) (info : Nat) : State :=
  let c := s.chan ch
  let c := { c with st := .halted, err := BitVec.ofNat 8 err, errAddr := addr, errInfo := BitVec.ofNat 64 info,
                    progress := BitVec.ofNat 40 (doneBytes c), phase := .none, want := [], got := [], link0 := none, held := false,
                    drainFor := none, abort := false, recheck := false }
  let q := s.sq ch
  let s := (s.setChan ch c).setSq ch { q with st := .idle, ld := none, waitM := none, pfx := none, halt := false, lateFault := none }
  let s := if err = 8 then countUp s 0x1800 0x50 1 else s
  if c.errIrq then signal s ch (chanInfo c) else s

/-- What a translation fault of an agent reports in VL_ERRINFO (R380 ACCESS): cause, subcode, level, acc. -/
def accessInfo (e : Exn) : Nat :=
  e.cause.toNat + 2 ^ 8 * bitsN e.info 0 8 + 2 ^ 16 * bitsN e.info 8 3 + 2 ^ 19 * bitsN e.info 11 2

/-- The LPA of a private address of a channel (R375). -/
def vlXlate (s : State) (ch acc : Nat) (va : BitVec 59) : Except VStop Nat × State :=
  let c := s.chan ch
  match walkAgent (seqTlb ch) c.owner c.space acc false va s with
  | (.ok l, s) => (.ok l, s)
  | (.error (.exn e), s) => (.error (.halt 4 va (accessInfo e)), s)
  | (.error (.need _), s) => (.error .full, s)

/-- A word of a private address. -/
def vlRead (s : State) (ch : Nat) (va : BitVec 59) : Except VStop W × State :=
  match vlXlate s ch 0 va with
  | (.ok l, s) => let r := agentRead s (l / 8); (.ok r.1, r.2)
  | (.error x, s) => (.error x, s)

/-- Words of private addresses. -/
def vlReads (s : State) (ch : Nat) (va : BitVec 59) (n : Nat) : Except VStop (List W) × State :=
  match n with
  | 0 => (.ok [], s)
  | n + 1 =>
    match vlRead s ch va with
    | (.error x, s) => (.error x, s)
    | (.ok w, s) =>
      match vlReads s ch (va + 8) n with
      | (.ok l, s) => (.ok (w :: l), s)
      | (.error x, s) => (.error x, s)

/-- Asks for the words of global addresses (R376): one RLOAD each; a word of this device comes at once. -/
def vlAsk (s : State) (ch : Nat) (va : BitVec 59) (i n : Nat) : Except VStop Unit × State :=
  match n with
  | 0 => (.ok (), s)
  | n + 1 =>
    if va.getLsbD 58 = false then vlAsk s ch (va + 8) (i + 1) n
    else
      let c := s.chan ch
      let dev := homeDev va
      match unreachable s dev with
      | some sub => (.error (.halt 7 va (remoteInfo ⟨0x40, BitVec.ofNat 8 sub, 1, 0⟩ dev)), s)
      | none =>
        if dev = devNo s then
          match ownSlot s with
          | none => (.error .full, s)
          | some s =>
            match homeLoad s dev c.owner true va with
            | (.ok (w, _), s) => vlAsk (s.setChan ch { s.chan ch with got := tset (s.chan ch).got i w }) ch (va + 8) (i + 1) n
            | (.error f, s) => (.error (.halt 7 va (remoteInfo f dev)), s)
        else
          match sendOp s ⟨.valley ch, dev, va, 0, false, true⟩ 0xFFFF c.owner true 6 (.rload va 3 false) with
          | none => (.error .full, s)
          | some (k, s) => vlAsk (s.setChan ch { s.chan ch with want := tset (s.chan ch).want k i }) ch (va + 8) (i + 1) n

/-- Whether some word of a range lies in the global half. -/
def anyGlobal (va : BitVec 59) (n : Nat) : Bool := (List.range n).any fun i => (va + BitVec.ofNat 59 (8 * i)).getLsbD 58

/-- The words of a range, those of global addresses having arrived. -/
def vlCollect (s : State) (ch : Nat) (va : BitVec 59) (i n : Nat) : Except VStop (List W) × State :=
  match n with
  | 0 => (.ok [], s)
  | n + 1 =>
    let r : Except VStop W × State := if va.getLsbD 58 then (.ok (tgetD (s.chan ch).got i nilW), s) else vlRead s ch va
    match r with
    | (.error x, s) => (.error x, s)
    | (.ok w, s) =>
      match vlCollect s ch (va + 8) (i + 1) n with
      | (.ok l, s) => (.ok (w :: l), s)
      | (.error x, s) => (.error x, s)

/-- Takes an answer: an error halts the channel, a full table changes nothing. -/
def vlRun {α : Type} (s0 : State) (ch : Nat) (r : Except VStop α × State) (f : α → State → State) : State :=
  match r with
  | (.ok a, s) => f a s
  | (.error (.halt e a i), s) => vlHalt s ch e a i
  | (.error .full, _) => s0

/-! ## Valley: links and power (R370, R382) -/

/-- The link read of a channel issues: recheck is cleared at that instant; the word as it stands then is one answer the
read may bring. -/
def issueLink (s : State) (ch : Nat) : State :=
  let c := s.chan ch
  match vlRead s ch (c.cur + 24) with
  | (.ok w, s) => s.setChan ch { s.chan ch with recheck := false, phase := .link, link0 := some w }
  | (.error _, s) => s.setChan ch { s.chan ch with recheck := false, phase := .link, link0 := none }

/-- An operation of a channel or of its sequencer is outstanding through a port. -/
def outVia (s : State) (ch port : Nat) : Bool :=
  s.remote.ops.any fun o => (o.2.owner == .valley ch || o.2.owner == .seq ch) &&
    (towards s o.2.dev).any fun d => (linksOf s d).contains port

/-- A channel no longer keeps a domain from powering down (R382). -/
def drained (s : State) (ch : Nat) : Bool :=
  let c := s.chan ch
  c.held || (c.st != .running || (match c.drainFor with
    | some d => 56 ≤ d && (d < 72 && !outVia s ch (d - 56))
    | none => true))

/-- A domain powers down; the channels held for it resume. -/
def powerDomain (s : State) (d : Nat) : State :=
  let s := { s with mg := { s.mg with pd := tset s.mg.pd d .off, pdPend := s.mg.pdPend.filter (· != d) } }
  let s := if 56 ≤ d ∧ d < 72 then s.setPort (d - 56) { s.port (d - 56) with powered := false, st := .down } else s
  let s := if d < 32 then s.modTile d fun t => { t with power := .off } else s
  s.chans.foldl (fun s c =>
    if c.2.drainFor = some d then
      let s := s.setChan c.1 { s.chan c.1 with drainFor := none, held := false }
      if c.2.held then issueLink s c.1 else s
    else s) s

/-- The channels that a power-down affects, at the request or while it waits (R382): those with an access outstanding through the port,
or every RUNNING one. -/
def affectChans (s : State) (d : Nat) : State :=
  let hit := fun (n : Nat) (c : Chan) => c.st == .running && (d == 72 || (decide (56 ≤ d) && (decide (d < 72) && outVia s n (d - 56))))
  { s with chans := s.chans.map fun (c : Nat × Chan) => if hit c.1 c.2 then (c.1, { c.2 with drainFor := some d }) else c }

/-- A domain whose power-down waits powers down once every affected channel is held or has no access outstanding. -/
def drainCheck (s : State) : State :=
  s.mg.pdPend.foldl (fun s d =>
    let s := affectChans s d
    if 32 ≤ d ∧ d ≠ 73 ∧ s.chans.all fun c => c.2.drainFor != some d || drained s c.1 then powerDomain s d else s) s

/-! ## Valley: descriptors (R366 to R370) -/

/-- Fields of word 0. -/
def vlOp (c : Chan) : Nat := bitsN c.w0 0 3
def vlLen (c : Chan) : Nat := bitsN c.w0 24 40
def vlOrdered (c : Chan) : Bool := c.w0.getLsbD 4

/-- The first field of descriptor words 0 to 2 that is wrong (R366, R380 DESC): the number of its word. -/
def descBad (w0 w1 w2 : W) : Option Nat :=
  let op := bitsN w0.payload 0 3
  let d := w2.payload
  if w0.tag ≠ 0x30A ∨ 4 ≤ op ∨ bitsN w0.payload 14 10 ≠ 0 then some 0
  else if w1.tag ≠ 0x30A ∨ bitsN w1.payload 59 5 ≠ 0 then some 1
  else if w2.tag ≠ 0x30A ∨ bitsN d 59 5 ≠ 0 then some 2
  else if op = 3 ∧ (bitsN d 25 34 ≠ 0 ∨ (d.getLsbD 24 ∧ 4096 < bitsN d 12 12 + bitsN w0.payload 24 40 / 8 * 4)) then some 2
  else none

/-- Writes program words of a sequencer. -/
def loadProg (t : Tbl (BitVec 14)) (i : Nat) (ws : List (BitVec 14)) : Tbl (BitVec 14) :=
  match ws with
  | [] => t
  | w :: r => loadProg (tset t i w) (i + 1) r

/-- Loads program words, each with valid parity. -/
def Seq.load (q : Seq) (i : Nat) (ws : List (BitVec 14)) : Seq :=
  { q with prog := loadProg q.prog i ws, progBad := q.progBad.filter fun a => decide (a < i ∨ i + ws.length ≤ a) }

/-- A RUN descriptor's program starts (R368). -/
def vlStart (s : State) (ch : Nat) : State :=
  let c := s.chan ch
  let s := s.setChan ch { c with phase := .program }
  startProgram s ch (BitVec.ofNat 12 (bitsN c.dst 0 12))

/-- The first word of an image that is wrong (R380 IMAGE), with its index. -/
def badImage (ws : List W) (i : Nat) : Option (Nat × W) :=
  match ws with
  | [] => none
  | w :: r => if w.tag = 0x006 ∧ bitsN w.payload 56 8 = 0 then badImage r (i + 1) else some (i, w)

/-- The fill word or the image is there. -/
def vlFetched (s : State) (ch : Nat) : State :=
  let c := s.chan ch
  if vlOp c = 2 then
    vlRun s ch (vlCollect s ch c.src 0 1) fun ws s => s.setChan ch { s.chan ch with fill := ws.getD 0 nilW, phase := .burst, got := [] }
  else
    vlRun s ch (vlCollect s ch c.src 0 (vlLen c / 8)) fun ws s =>
      match badImage ws 0 with
      | some (i, w) => vlHalt s ch 6 (c.src + BitVec.ofNat 59 (8 * i)) w.tag.toNat
      | none =>
        let q := s.sq ch
        let ps := ws.foldl (fun (l : List (BitVec 14)) w => l ++ (List.range 4).map fun j => BitVec.ofNat 14 (bitsN w.payload (14 * j) 14)) []
        let s := s.setSq ch (q.load (bitsN c.dst 12 12) ps)
        vlStart (s.setChan ch { s.chan ch with got := [] }) ch

/-- A descriptor's words 0 to 2 have arrived and are checked (R370). -/
def vlDesc (s : State) (ch : Nat) : State :=
  let d := (s.chan ch).cur
  if d.toNat % 32 ≠ 0 ∨ d.getLsbD 58 then vlHalt s ch 3 d (s.chan ch).linkTag.toNat
  else
    vlRun s ch (vlReads s ch d 3) fun ws s =>
      let w0 := ws.getD 0 nilW
      let w1 := ws.getD 1 nilW
      let w2 := ws.getD 2 nilW
      match descBad w0 w1 w2 with
      | some k => vlHalt s ch 2 d k
      | none =>
        let op := bitsN w0.payload 0 3
        let len := bitsN w0.payload 24 40
        let src : BitVec 59 := BitVec.ofNat 59 w1.payload.toNat
        let dst : BitVec 59 := BitVec.ofNat 59 w2.payload.toNat
        let c := s.chan ch
        let s := s.setChan ch { c with w0 := w0.payload, src := src, dst := dst, pos := 0, descNo := c.descNo + 1, want := [], got := [] }
        if src.toNat % 8 ≠ 0 ∨ len % 8 ≠ 0 ∨ (op ≠ 3 ∧ dst.toNat % 8 ≠ 0) then vlHalt s ch 1 d 0
        else if len = 0 then s.setChan ch { s.chan ch with phase := .done }
        else if op < 2 then s.setChan ch { s.chan ch with phase := .burst }
        else if op = 3 ∧ dst.getLsbD 24 = false then
          let q := s.sq ch
          vlStart (s.setSq ch { q with a := tset q.a 0 src, c := BitVec.ofNat 32 (len / 8) }) ch
        else
          let n := if op = 2 then 1 else len / 8
          if anyGlobal src n then
            vlRun s ch (vlAsk s ch src 0 n) fun _ s =>
              let s := s.setChan ch { s.chan ch with phase := .fetch }
              if (s.chan ch).want = [] then vlFetched s ch else s
          else vlFetched s ch

/-- Valley runs: its clock and power are on. -/
def valleyOn (s : State) : Bool := ficRuns s.mg.mode && domOn s 72

/-- DESCRIPTOR_READ_COMPLETE. -/
def descArrived (s : State) (ch : Nat) : State :=
  let c := s.chan ch
  if !valleyOn s || c.st != .running then s
  else if c.phase = .desc then vlDesc s ch
  else if c.phase = .fetch ∧ c.want = [] then vlFetched s ch
  else s

def execDescriptorReadComplete (ch : BitVec 6) (s : State) : Out := .next (drainCheck (descArrived s ch.toNat)).tick

/-! ## Valley: bursts (R373, R374) -/

/-- The words of a channel's next burst. -/
def burstWords (c : Chan) : Nat :=
  let at_ := c.dst.toNat + c.pos
  (min (1024 - at_ % 1024) (vlLen c - c.pos)) / 8

/-- The channels that may be granted a burst. -/
def candidates (s : State) : List (Nat × Chan) :=
  s.chans.filter fun c => c.2.st == .running && (c.2.phase == .burst && !c.2.held)

/-- The channel that the next grant goes to (R374), with whether it is an ageing grant. -/
def grantTo (s : State) : Option (Nat × Bool) :=
  let cs := candidates s
  let top := cs.foldl (fun m (c : Nat × Chan) => max m c.2.prio.toNat) 0
  let best := cs.filter fun c => c.2.prio.toNat == top
  let normal := match best.find? fun c => decide (s.grantPtr ≤ c.1) with
    | some c => some c.1
    | none => best.head?.map fun (c : Nat × Chan) => c.1
  let old := cs.filter fun c => decide (c.2.prio.toNat < top)
  let aged := old.foldl (fun (a : Option (Nat × Nat)) (c : Nat × Chan) =>
    match a with
    | some b => if c.2.lastGrant < b.2 then some (c.1, c.2.lastGrant) else a
    | none => some (c.1, c.2.lastGrant)) none
  if 64 ≤ s.grants then (match aged with | some a => some (a.1, true) | none => normal.map fun (c : Nat) => (c, false))
  else normal.map fun (c : Nat) => (c, false)

/-- BURST_GRANT. -/
def grantBurst (s : State) : State :=
  if !valleyOn s then s
  else
    match grantTo s with
    | none => s
    | some (ch, aged) =>
      let c := s.chan ch
      let src := c.src + BitVec.ofNat 59 c.pos
      let t := { s with grants := if aged || decide (64 ≤ s.grants) then 0 else s.grants + 1,
                        grantPtr := if aged then s.grantPtr else (ch + 1) % 64, seq := s.seq + 1 }
      let t := t.setChan ch { c with phase := .granted, lastGrant := s.seq + 1, want := [], got := [] }
      if vlOp c = 2 then t else vlRun s ch (vlAsk t ch src 0 (burstWords c)) fun _ s => s

def execBurstGrant (s : State) : Out := .next (drainCheck (grantBurst s)).tick

/-- Writes words of private memory (R376): whole lines with WRF and its stash hint, parts of lines with WRM. -/
def vlWrite (fuel : Nat) (s : State) (key : Nat) (ws : List W) (stash : Option Nat) : State :=
  match fuel with
  | 0 => s
  | fuel + 1 =>
    if ws = [] then s
    else
      let n := min (8 - key % 8) ws.length
      let now := ws.take n
      let line := key / 8
      let s := if n = 8 then agentLine s line now stash
        else agentModify s line false fun l => (List.range n).foldl (fun (l : Line) i => l.set (key % 8 + i) (now.getD i nilW)) l
      vlWrite fuel s (key + n) (ws.drop n) stash

/-- Writes words of global memory (R376): one RSTORE each; a store to this device is performed at once. -/
def vlSend (s : State) (ch : Nat) (va : BitVec 59) (ws : List W) (at_ : Nat) : Except VStop Unit × State :=
  match ws with
  | [] => (.ok (), s)
  | w :: r =>
    let c := s.chan ch
    let dev := homeDev va
    match unreachable s dev with
    | some sub => (.error (.halt 7 va (remoteInfo ⟨0x40, BitVec.ofNat 8 sub, 1, 1⟩ dev)), s)
    | none =>
      if dev = devNo s then
        match ownSlot s with
        | none => (.error .full, s)
        | some s =>
          match homeStore s dev c.owner true va w 3 255 with
          | (.ok _, s) => vlSend s ch (va + 8) r at_
          | (.error f, s) => (.error (.halt 7 va (remoteInfo f dev)), s)
      else
        match sendOp s ⟨.valley ch, dev, va, 1, true, true⟩ 0xFFFF c.owner true 6 (.rstore va w 3 0 false) with
        | none => (.error .full, s)
        | some (k, s) => vlSend (s.setChan ch { s.chan ch with unacked := tset (s.chan ch).unacked k (c.descNo, at_) }) ch (va + 8) r at_

/-- The words that a burst writes (R367); an error for a LOST word of RAWCOPY. -/
def burstData (c : Chan) (src : BitVec 59) (ws : List W) : Except VStop (List W) :=
  if vlOp c = 1 then
    match (List.range ws.length).find? fun i => (ws.getD i nilW).tag == 0x301 with
    | some i => .error (.halt 5 (src + BitVec.ofNat 59 (8 * i)) (ws.getD i nilW).payload.toNat)
    | none => .ok (ws.map fun w => if w.tag = 0x000 then rawW 0 else ⟨0x006, w.payload⟩)
  else .ok ws

/-- A burst's writes have left Valley: the next burst, an abort, or the descriptor's end. -/
def burstOver (s : State) (ch n : Nat) : State :=
  let c := s.chan ch
  let c := { c with pos := c.pos + 8 * n, got := [] }
  let s := s.setChan ch c
  if c.abort then vlHalt s ch 0x0A c.cur 0
  else s.setChan ch { c with phase := if vlLen c ≤ c.pos then .done else .burst }

/-- BURST_SOURCE_READ_COMPLETE. -/
def burstArrived (s : State) (ch : Nat) : State :=
  let c := s.chan ch
  if !valleyOn s || (c.st != .running || (c.phase != .granted || c.want != [])) then s
  else
    let n := burstWords c
    let src := c.src + BitVec.ofNat 59 c.pos
    let dst := c.dst + BitVec.ofNat 59 c.pos
    let r : Except VStop (List W) × State := if vlOp c = 2 then (.ok (List.replicate n c.fill), s) else vlCollect s ch src 0 n
    vlRun s ch r fun ws s =>
      match burstData c src ws with
      | .error (.halt e a i) => vlHalt s ch e a i
      | .error .full => s
      | .ok ws =>
        if dst.getLsbD 58 then vlRun s ch (vlSend s ch dst ws c.pos) fun _ s => burstOver s ch n
        else
          vlRun s ch (vlXlate s ch 1 dst) fun l s =>
            burstOver (vlWrite 200 s (l / 8) ws (if c.w0.getLsbD 5 then some (bitsN c.w0 6 8) else none)) ch n

def execBurstSourceReadComplete (ch : BitVec 6) (s : State) : Out := .next (drainCheck (burstArrived s ch.toNat)).tick

/-! ## Valley: completion, links and doorbells (R370, R371, R378) -/

/-- Whether the writes of the current descriptor are performed. -/
def descPerformed (s : State) (ch : Nat) : Bool :=
  let c := s.chan ch
  !(c.unacked.any fun u => u.2.1 == c.descNo) && !(s.remote.ops.any fun o => o.2.owner == .seq ch && o.2.posted)

/-- DESCRIPTOR_DONE (R378): the count, the interrupt, then the link. -/
def descDone (s : State) (ch : Nat) : State :=
  let c := s.chan ch
  if !valleyOn s || (c.st != .running || c.phase != .done) then s
  else if (vlOrdered c || c.drainFor.isSome) && !descPerformed s ch then s
  else
    let c := { c with doneCnt := c.doneCnt + 1, phase := .link, link0 := none }
    let s := s.setChan ch c
    let s := if c.w0.getLsbD 3 then signal s ch (chanInfo c) else s
    if c.drainFor.isSome then drainCheck (s.setChan ch { s.chan ch with held := true }) else issueLink s ch

def execDescriptorDone (ch : BitVec 6) (s : State) : Out := .next (drainCheck (descDone s ch.toNat)).tick

/-- A link word has returned (R370). -/
def followLink (s : State) (ch : Nat) (w : W) : State :=
  let c := s.chan ch
  if w.tag = 0x00F then
    if c.recheck then issueLink s ch
    else s.setChan ch { c with tail := c.cur + 24, st := .atEoc, phase := .none, link0 := none }
  else if w.tag = 0x006 ∨ bitsN w.tag 8 2 = 1 then
    s.setChan ch { c with cur := BitVec.ofNat 59 w.payload.toNat, phase := .desc, pos := 0, linkTag := w.tag, link0 := none }
  else vlHalt s ch 3 (c.cur + 24) w.tag.toNat

/-- LINK_READ_COMPLETE. -/
def linkArrived (s : State) (ch : Nat) : State :=
  let c := s.chan ch
  if !valleyOn s || (c.st != .running || (c.phase != .link || c.held)) then s
  else
    match c.link0, Config.choice s.free (16 * ch + 14) % 2 with
    | some w, 0 => followLink s ch w
    | _, _ => vlRun s ch (vlRead s ch (c.cur + 24)) fun w s => followLink s ch w

def execLinkReadComplete (ch : BitVec 6) (s : State) : Out := .next (drainCheck (linkArrived s ch.toNat)).tick

/-- A write of 1 to VL_DOORBELL, or SIGNAL (R371). -/
def vlRing (s : State) (ch : Nat) : State :=
  let c := s.chan ch
  match c.st with
  | .running => s.setChan ch { c with recheck := true }
  | .atEoc => issueLink (s.setChan ch { c with st := .running }) ch
  | _ => s

/-- A write to VL_HEAD (R370). -/
def vlHead (s : State) (ch : Nat) (a : BitVec 59) : State :=
  let c := s.chan ch
  if c.st = .running then s
  else s.setChan ch { c with err := 0, recheck := false, progress := 0, cur := a, st := .running, phase := .desc, pos := 0, linkTag := 0,
                             link0 := none, held := false, abort := false, want := [], got := [] }

/-- A write of 1 to VL_ABORT (R381): at the burst boundary, or at the sequencer's instruction boundary. -/
def vlAbort (s : State) (ch : Nat) : State :=
  let c := s.chan ch
  if c.st ≠ .running then s
  else if c.phase = .granted ∨ (c.phase = .program ∧ (s.sq ch).ld.isSome) then s.setChan ch { c with abort := true }
  else vlHalt s ch 0x0A c.cur 0

/-- The drain bound passes (R382): the affected channels that are not yet held halt, and the domain powers down. -/
def drainTimeout (s : State) (d : Nat) : State :=
  if s.mg.pdPend.contains d then
    let s := s.chans.foldl (fun s c =>
      if c.2.drainFor = some d ∧ c.2.held = false ∧ c.2.st = .running then vlHalt s c.1 8 c.2.cur d else s) s
    powerDomain s d
  else s

/-- An answer to a word that a channel asked for. -/
def vlWord (s : State) (ch slot : Nat) (w : W) : State :=
  let c := s.chan ch
  match tget c.want slot with
  | some i => s.setChan ch { c with want := tdel c.want slot, got := tset c.got i w }
  | none => s

/-- A remote store of a channel is answered. -/
def vlAcked (s : State) (ch slot : Nat) : State :=
  let c := s.chan ch
  drainCheck (s.setChan ch { c with unacked := tdel c.unacked slot })

/-- A fault or a timeout of a channel's remote operation (R376). -/
def vlRemote (s : State) (ch slot : Nat) (va : BitVec 59) (info : Nat) : State :=
  let c := s.chan ch
  let mine := (tget c.want slot).isSome || (tget c.unacked slot).isSome
  let s := if mine ∧ c.st ≠ .halted ∧ c.st ≠ .idle then vlHalt s ch 7 va info else s
  drainCheck (s.setChan ch { s.chan ch with unacked := tdel (s.chan ch).unacked slot })

end Sys2Proof.Machine
end

