-- ==== Sys2Proof/Machine/Reed.lean ====
section
/-! DEFINITION. The Reed instructions (R386 to R405): each command is one instruction of sequencer k, fetched at its pc. -/

namespace Sys2Proof.Machine

/-! ## Operands (R391) -/

/-- A Reed fault: its code (R403), the address accessed, and what VL_ERRINFO says of ACCESS and REMOTE. -/
structure RFault where
  code : Nat
  addr : BitVec 59 := 0
  info : Nat := 0
  deriving DecidableEq, Repr

def Seq.qv (q : Seq) (r : BitVec 3) : W := tgetD q.q r.toNat nilW
def Seq.setQ (q : Seq) (r : BitVec 3) (w : W) : Seq := { q with q := tset q.q r.toNat w }
def Seq.av (q : Seq) (a : BitVec 2) : BitVec 59 := tgetD q.a a.toNat 0
def Seq.setA (q : Seq) (a : BitVec 2) (v : BitVec 59) : Seq := { q with a := tset q.a a.toNat v }

/-- The tag of an integer result. -/
def intTag (a b : W) : BitVec 10 := if a.tag = 0x001 ∧ b.tag = 0x001 then 0x001 else 0x006

/-- The address form of a word. -/
def addrForm (w : W) : Option (BitVec 59) :=
  if bitsN w.tag 8 2 = 1 ∨ w.tag = 0x300 ∨ isInt w then some (BitVec.ofNat 59 w.payload.toNat) else none

/-- A tag-setting operation's result (R25, R27, R32): the subcode of TAG_TRAP when it is refused. -/
def retag (w : W) (code : BitVec 10) : Except Nat W :=
  let v := w.payload.toNat
  if reservedTag code then .error 2
  else if code = 0x003 ∧ (0x10FFFF < v ∨ (0xD800 ≤ v ∧ v ≤ 0xDFFF)) then .error 3
  else if code = 0x000 ∨ code = 0x004 ∨ code = 0x005 ∨ code = 0x00F then .ok ⟨code, 0⟩
  else .ok ⟨code, w.payload⟩

/-- Tag classes (R135): whether a tag belongs to a class. -/
def inClass (cls : Nat) (t : BitVec 10) : Bool :=
  let n := t.toNat
  if cls < 8 then n == cls
  else if cls < 12 then bitsN t 8 2 == cls - 8
  else if cls < 23 then n == 0x100 + (cls - 12)
  else
    match cls with
    | 23 => decide (0x080 ≤ n) && decide (n ≤ 0x0FF)
    | 24 => decide (0x1C0 ≤ n) && decide (n ≤ 0x1FF)
    | 25 => n == 0x300
    | 26 => n == 0x301
    | 27 => n == 0x00F
    | 28 => n == 0x001 || n == 0x002
    | 29 => n == 0x100 || n == 0x004
    | _ => false

/-- The identity comparison of R30. -/
def identical (a b : W) : Bool :=
  if bitsN a.tag 8 2 = 1 ∧ bitsN b.tag 8 2 = 1 then a.tag == b.tag && bitsN a.payload 0 59 == bitsN b.payload 0 59 else a == b

/-- An immediate of n bits, with the extension of a PFX (R395). -/
def simm (n v : Nat) (ext : Option (BitVec 10)) : Int :=
  let (w, x) := match ext with
    | some e => (n + 10, e.toNat * 2 ^ n + v)
    | none => (n, v)
  if 2 ^ (w - 1) ≤ x then (x : Int) - 2 ^ w else x
def uimm (n v : Nat) (ext : Option (BitVec 10)) : Nat :=
  match ext with
  | some e => e.toNat * 2 ^ n + v
  | none => v

/-! ## Encodings (R388 to R390) -/

/-- A Reed word of a class and its fields. -/
def reedWord (cls fields : Nat) : BitVec 14 := BitVec.ofNat 14 (cls * 1024 + fields)

/-- A word that R388 to R390 give a meaning. -/
def reedLegal (w : BitVec 14) : Bool :=
  let f := bitsN w 0 10
  match bitsN w 10 4 with
  | 0 => decide (f % 16 < 13)
  | 1 | 2 | 4 | 5 | 7 | 8 | 12 | 13 => true
  | 3 =>
    let x := f % 32
    match f / 32 % 8 with
    | 0 | 1 | 3 => decide (x < 8)
    | 2 => true
    | 4 | 5 => decide (x < 8) && f / 256 == 0
    | 6 => decide (x < 4)
    | _ => false
  | 6 => match f / 32 % 4 with
    | 0 => decide (f % 32 < 30)
    | 1 => true
    | _ => false
  | 9 => f / 128 % 4 == 0
  | 10 => f % 128 == 0
  | 11 => decide (f < 512) || f == 512
  | 15 => f == 0
  | _ => false

/-! ## Faults and the course of a program (R401, R403, R404) -/

/-- Source and destination of done: the interrupt of a Teasel or Cowslip sequencer. -/
def seqDone (s : State) (k : Nat) : State :=
  if (s.sq k).irqEn then signal s (seqSource k) (Config.freeValue s.free 2) else s

/-- A fault is reported as R404 says. -/
def reedFault (s : State) (k : Nat) (f : RFault) : State :=
  let q := s.sq k
  match seqHost k with
  | .valley =>
    match f.code with
    | 8 => vlHalt s k 4 f.addr f.info
    | 9 => vlHalt s k 7 f.addr f.info
    | c => vlHalt s k 9 f.addr (c + 2 ^ 8 * q.pc.toNat)
  | .teasel | .cowslip =>
    let s := s.setSq k { q with st := .faulted, fault := BitVec.ofNat 8 f.code, done := true, faddr := f.addr, pfx := none, ld := none,
                                waitM := none, halt := false }
    let s := seqDone s k
    if seqHost k = .cowslip then groupsError s (fun n g => g.kind == 3 && n % 4 == k - 96) 0x07 else s

/-- The sequencer is at an instruction boundary of a running program, and its host runs. -/
def reedReady (s : State) (k : Nat) : Bool :=
  let q := s.sq k
  k < 100 && (ficRuns s.mg.mode && (seqPowered s k && (q.st == .running && (q.ld.isNone && (q.waitM.isNone && (q.lateFault.isNone &&
    (seqHost k != .valley || ((s.chan k).st == .running && (s.chan k).phase == .program))))))))

/-- The word address of the instruction, after its PFX. -/
def Seq.at_ (q : Seq) : Nat := q.pc.toNat + (if q.pfx.isSome then 1 else 0)

/-- What a body answers: the fault, or the state and where pc goes (none: the next word; a stay: pc is set already). -/
inductive Flow where
  | seq | jump (target : Int) | stay
  deriving DecidableEq, Repr

/-- One instruction: the word must stand at pc; a PFX belongs only before the instructions that it extends; the lowest
code of several is raised (R403). -/
def reedStep (s : State) (k : Nat) (word : BitVec 14) (pfxable : Bool) (falls : Bool)
    (body : Seq → Option (BitVec 10) → State → Except RFault (Flow × Seq) × State) : State :=
  let q := s.sq k
  if !reedReady s k then s
  else if q.progBad.contains q.at_ then reedFault s k { code := 1 }
  else if tgetD q.prog q.at_ 0 != word then s
  else if q.pfx.isSome && !pfxable then reedFault s k { code := 2 }
  else
    let last := falls && decide (4095 ≤ q.at_)
    match body q q.pfx s with
    | (.error f, t) => if last ∧ 3 < f.code then reedFault s k { code := 3 } else reedFault t k f
    | (.ok (fl, q), t) =>
      if last then reedFault s k { code := 3 } else
      let s := t
      match fl with
      | .seq => if 4095 ≤ q.at_ then reedFault s k { code := 3 } else s.setSq k { q with pc := BitVec.ofNat 12 (q.at_ + 1), pfx := none }
      | .jump t => if t < 0 ∨ 4095 < t then reedFault s k { code := 3 } else s.setSq k { q with pc := BitVec.ofInt 12 t, pfx := none }
      | .stay => s.setSq k q

/-- An instruction that only changes the sequencer. -/
def reedPlain (s : State) (k : Nat) (word : BitVec 14) (pfxable : Bool) (f : Seq → Option (BitVec 10) → Except RFault Seq) : State :=
  reedStep s k word pfxable true fun q e s => ((f q e).map fun q => (.seq, q), s)

/-- An ALU instruction (R389). -/
def reedAlu (s : State) (k func : Nat) (qd qs : BitVec 3) (f : Seq → W → W → Except RFault Seq) : Out :=
  .next (reedPlain s k (reedWord 0 (qd.toNat * 128 + qs.toNat * 16 + func)) false fun q _ => f q (q.qv qd) (q.qv qs)).tick

/-- An ALU instruction on two integers. -/
def reedInt (s : State) (k func : Nat) (qd qs : BitVec 3) (f : BitVec 64 → BitVec 64 → BitVec 64) : Out :=
  reedAlu s k func qd qs fun q a b =>
    if isInt a ∧ isInt b then .ok (q.setQ qd ⟨intTag a b, f a.payload b.payload⟩) else .error { code := 5 }

/-- A shift, which keeps the tag of qd. -/
def reedShift (s : State) (k func : Nat) (qd qs : BitVec 3) (f : BitVec 64 → Nat → BitVec 64) : Out :=
  reedAlu s k func qd qs fun q a b =>
    if isInt a ∧ isInt b then .ok (q.setQ qd ⟨a.tag, f a.payload (bitsN b.payload 0 6)⟩) else .error { code := 5 }

/-- CMP's flags. -/
def Seq.cmp (q : Seq) (x y : BitVec 64) : Seq := { q with z := x == y, n := x.slt y, b := x.ult y }

def execReedMov (k : BitVec 7) (qd qs : BitVec 3) (s : State) : Out := reedAlu s k.toNat 0 qd qs fun q _ b => .ok (q.setQ qd b)
def execReedAdd (k : BitVec 7) (qd qs : BitVec 3) (s : State) : Out := reedInt s k.toNat 1 qd qs fun x y => x + y
def execReedSub (k : BitVec 7) (qd qs : BitVec 3) (s : State) : Out := reedInt s k.toNat 2 qd qs fun x y => x - y
def execReedAnd (k : BitVec 7) (qd qs : BitVec 3) (s : State) : Out := reedInt s k.toNat 3 qd qs fun x y => x &&& y
def execReedOr (k : BitVec 7) (qd qs : BitVec 3) (s : State) : Out := reedInt s k.toNat 4 qd qs fun x y => x ||| y
def execReedXor (k : BitVec 7) (qd qs : BitVec 3) (s : State) : Out := reedInt s k.toNat 5 qd qs fun x y => x ^^^ y
def execReedShl (k : BitVec 7) (qd qs : BitVec 3) (s : State) : Out := reedShift s k.toNat 6 qd qs fun x n => x <<< n
def execReedShr (k : BitVec 7) (qd qs : BitVec 3) (s : State) : Out := reedShift s k.toNat 7 qd qs fun x n => x >>> n
def execReedCmp (k : BitVec 7) (qd qs : BitVec 3) (s : State) : Out :=
  reedAlu s k.toNat 8 qd qs fun q a b => if isInt a ∧ isInt b then .ok (q.cmp a.payload b.payload) else .error { code := 5 }
def execReedEq (k : BitVec 7) (qd qs : BitVec 3) (s : State) : Out :=
  reedAlu s k.toNat 9 qd qs fun q a b => .ok { q with z := identical a b, n := false, b := false }
def execReedTagof (k : BitVec 7) (qd qs : BitVec 3) (s : State) : Out :=
  reedAlu s k.toNat 10 qd qs fun q _ b => .ok (q.setQ qd (fixW b.tag.toNat))
def execReedSettag (k : BitVec 7) (qd qs : BitVec 3) (s : State) : Out :=
  reedAlu s k.toNat 11 qd qs fun q a b =>
    if isInt b then
      match retag a (BitVec.ofNat 10 b.payload.toNat) with
      | .ok w => .ok (q.setQ qd w)
      | .error _ => .error { code := 5 }
    else .error { code := 5 }
def execReedVa (k : BitVec 7) (qd qs : BitVec 3) (s : State) : Out :=
  reedAlu s k.toNat 12 qd qs fun q _ b =>
    match addrForm b with
    | some a => .ok (q.setQ qd (rawW a.toNat))
    | none => .error { code := 5 }

/-- An instruction with a q register and a signed immediate. -/
def reedImm (s : State) (k cls : Nat) (qd : BitVec 3) (imm : BitVec 7) (f : Seq → W → BitVec 64 → Except RFault Seq) : Out :=
  .next (reedPlain s k (reedWord cls (qd.toNat * 128 + imm.toNat)) true fun q e =>
    f q (q.qv qd) (BitVec.ofInt 64 (simm 7 imm.toNat e))).tick

def execReedMovi (k : BitVec 7) (qd : BitVec 3) (imm : BitVec 7) (s : State) : Out :=
  reedImm s k.toNat 1 qd imm fun q _ v => .ok (q.setQ qd ⟨0x001, v⟩)
def execReedAddi (k : BitVec 7) (qd : BitVec 3) (imm : BitVec 7) (s : State) : Out :=
  reedImm s k.toNat 2 qd imm fun q a v => if isInt a then .ok (q.setQ qd ⟨a.tag, a.payload + v⟩) else .error { code := 5 }
def execReedCmpi (k : BitVec 7) (qd : BitVec 3) (imm : BitVec 7) (s : State) : Out :=
  reedImm s k.toNat 13 qd imm fun q a v => if isInt a then .ok (q.cmp a.payload v) else .error { code := 5 }

/-- An AOP instruction (R390). -/
def reedAop (s : State) (k an sub x : Nat) (pfxable : Bool) (f : Seq → Option (BitVec 10) → Except RFault Seq) : Out :=
  .next (reedPlain s k (reedWord 3 (an * 256 + sub * 32 + x)) pfxable f).tick

def execReedMvaq (k : BitVec 7) (an : BitVec 2) (qs : BitVec 3) (s : State) : Out :=
  reedAop s k.toNat an.toNat 0 qs.toNat false fun q _ =>
    match addrForm (q.qv qs) with
    | some a => .ok (q.setA an a)
    | none => .error { code := 5 }
def execReedMvqa (k : BitVec 7) (an : BitVec 2) (qs : BitVec 3) (s : State) : Out :=
  reedAop s k.toNat an.toNat 1 qs.toNat false fun q _ => .ok (q.setQ qs (rawW (q.av an).toNat))
def execReedAdda (k : BitVec 7) (an : BitVec 2) (imm : BitVec 5) (s : State) : Out :=
  reedAop s k.toNat an.toNat 2 imm.toNat true fun q e => .ok (q.setA an (q.av an + BitVec.ofInt 59 (8 * simm 5 imm.toNat e)))
def execReedAddaq (k : BitVec 7) (an : BitVec 2) (qs : BitVec 3) (s : State) : Out :=
  reedAop s k.toNat an.toNat 3 qs.toNat false fun q _ =>
    let w := q.qv qs
    if isInt w then .ok (q.setA an (q.av an + BitVec.ofNat 59 (8 * w.payload.toNat))) else .error { code := 5 }
def execReedMvcq (k : BitVec 7) (q : BitVec 3) (s : State) : Out :=
  reedAop s k.toNat 0 4 q.toNat false fun x _ =>
    let w := x.qv q
    if isInt w then .ok { x with c := w.payload.extractLsb' 0 32 } else .error { code := 5 }
def execReedMvqc (k : BitVec 7) (q : BitVec 3) (s : State) : Out :=
  reedAop s k.toNat 0 5 q.toNat false fun x _ => .ok (x.setQ q (fixW x.c.toNat))
def execReedMvaa (k : BitVec 7) (an am : BitVec 2) (s : State) : Out :=
  reedAop s k.toNat an.toNat 6 am.toNat false fun q _ => .ok (q.setA an (q.av am))

/-! ## Memory and ports (R392 to R394, R273) -/

/-- The private translation of a sequencer's access (R272, R375). -/
def seqXlate (s : State) (k acc : Nat) (va : BitVec 59) : Except RFault Nat × State :=
  if va.getLsbD 58 then (.error { code := 8, addr := va }, s)
  else
    match walkAgent (seqTlb k) (seqWorld s k) (seqSpace s k) acc (seqHost k != .valley) va s with
    | (.ok l, s) => (.ok l, s)
    | (.error (.exn e), s) => (.error { code := 8, addr := va, info := accessInfo e }, s)
    | (.error (.need _), s) => (.error { code := 8, addr := va }, s)

/-- An address that names a port. -/
def isPort (va : BitVec 59) : Bool := bitsN va 57 2 == 1

/-- A load from a port (R394). -/
def portLoad (s : State) (k : Nat) (va : BitVec 59) : Except RFault W :=
  let off := bitsN va 0 57
  match seqHost k with
  | .teasel => if off = 0 then .ok (fixW (s.sq k).mark.toNat) else .error { code := 7, addr := va }
  | .cowslip =>
    if 0x200 ≤ off ∧ off < 0x400 then .ok (fixW (s.group ((off - 0x200) / 8)).quiet.toNat) else .error { code := 7, addr := va }
  | .valley => .error { code := 7, addr := va }

/-- A store to MARK (R273, R269). -/
def markStore (s : State) (k : Nat) (va : BitVec 59) (w : W) : Except RFault State × State :=
  let world := seqWorld s k
  let s := applyGc s (256 + k)
  let gc := gcFor s world (256 + k)
  let a : BitVec 59 := BitVec.ofNat 59 w.payload.toNat
  let q := s.sq k
  if bitsN w.tag 8 2 ≠ 1 then (.error { code := 7, addr := va }, s)
  else if a.getLsbD 58 ∨ a < gc.lo ∨ gc.hi ≤ a then (.ok (s.setSq k { q with mark := 2 }), s)
  else
    let i := (a.toNat - gc.lo.toNat) / 8
    let lpa := gc.mark.toNat + 8 * (i / 64)
    if owns s world lpa = false then (.error { code := 8, addr := va, info := 0x0A + 2 ^ 8 * 0x30 + 2 ^ 19 }, s)
    else
      let r := agentRead s (lpa / 8)
      if r.1.tag ≠ 0x006 then (.error { code := 7, addr := va }, r.2)
      else if r.1.payload.getLsbD (i % 64) then (.ok (r.2.setSq k { q with mark := 0 }), r.2)
      else
        let s := agentWrite r.2 (lpa / 8) ⟨0x006, r.1.payload ||| BitVec.ofNat 64 (2 ^ (i % 64))⟩ 255
        (.ok (s.setSq k { q with mark := 1, marks := q.marks + 1 }), s)

/-- A store to a port. -/
def portStore (s : State) (k : Nat) (va : BitVec 59) (w : W) : Except RFault State × State :=
  let off := bitsN va 0 57
  match seqHost k with
  | .teasel => if off = 0 then markStore s k va w else (.error { code := 7, addr := va }, s)
  | .cowslip =>
    let n := w.payload.toNat
    let g := s.group n
    if off = 0 ∧ w.tag = 0x001 ∧ n < 64 ∧ g.en ∧ g.kind = 3 ∧ n % 4 = k - 96 then (.ok (qup s n), s)
    else (.error { code := 7, addr := va }, s)
  | .valley => (.error { code := 7, addr := va }, s)

/-- Posted stores of a sequencer whose answers are outstanding (R393). -/
def storesOutOf (s : State) (k : Nat) : Nat := (s.remote.ops.filter fun o => o.2.owner == .seq k && o.2.posted).length

/-- The word of an LD is delivered (R392). -/
def Seq.deliver (q : Seq) (r : BitVec 3) (an : BitVec 2) (post : Bool) (va : BitVec 59) (w : W) : Seq :=
  let _ := va
  let q := if post then q.setA an (q.av an + 8) else q
  q.setQ r w

/-- LD. A port answers at once; memory and other devices answer with REED_LOAD_ANSWER. -/
def reedLd (s : State) (k : Nat) (r : BitVec 3) (an : BitVec 2) (p : Bool) (off : BitVec 4) : State :=
  reedStep s k (reedWord 4 (r.toNat * 128 + an.toNat * 32 + b2n p * 16 + off.toNat)) true true fun q e s =>
    let va := q.av an + BitVec.ofNat 59 (8 * uimm 4 off.toNat e)
    let wait := fun (x : SeqLd) (s : State) => ((.ok (.stay, { q with ld := some x }) : Except RFault (Flow × Seq)), s)
    if va.toNat % 8 ≠ 0 then (.error { code := 6, addr := va }, s)
    else if isPort va then ((portLoad s k va).map fun w => (.seq, q.deliver r an p va w), s)
    else if va.getLsbD 58 ∧ seqHost k = .valley then
      let dev := homeDev va
      let w := seqWorld s k
      match unreachable s dev with
      | some sub => (.error { code := 9, addr := va, info := remoteInfo ⟨0x40, BitVec.ofNat 8 sub, 1, 0⟩ dev }, s)
      | none =>
        if dev = devNo s then
          match ownSlot s with
          | none => (.ok (.stay, q), s)
          | some s =>
            match homeLoad s dev w true va with
            | (.ok (x, _), s) => wait ⟨r, an, p, va, none, none, some x⟩ s
            | (.error f, s) => (.error { code := 9, addr := va, info := remoteInfo f dev }, s)
        else
          match sendOp s ⟨.seq k, dev, va, 0, false, true⟩ 0xFFFF w true 6 (.rload va 3 false) with
          | none => (.ok (.stay, q), s)
          | some (slot, s) => wait ⟨r, an, p, va, none, some slot, none⟩ s
    else
      match seqXlate s k 0 va with
      | (.error f, s) => (.error f, s)
      | (.ok l, s) => wait ⟨r, an, p, va, some l, none, none⟩ s

def execReedLd (k : BitVec 7) (q : BitVec 3) (an : BitVec 2) (p : Bool) (off : BitVec 4) (s : State) : Out :=
  .next (reedLd s k.toNat q an p off).tick

/-- A program stops at an instruction boundary (R401): an abort of its channel, or a halt. -/
def seqBoundary (s : State) (k : Nat) : State :=
  let q := s.sq k
  if seqHost k = .valley then (if (s.chan k).abort then vlHalt s k 0x0A (s.chan k).cur 0 else s)
  else if q.halt then s.setSq k { q with st := .idle, halt := false, waitM := none, pfx := none }
  else s

/-- REED_LOAD_ANSWER (R393). -/
def loadAnswer (s : State) (k : Nat) : State :=
  let q := s.sq k
  match q.ld with
  | none => s
  | some x =>
    if !seqPowered s k || !ficRuns s.mg.mode then s
    else
      let done := fun (w : W) (s : State) =>
        let q := s.sq k
        seqBoundary (s.setSq k { q.deliver x.q x.an x.post x.va w with pc := BitVec.ofNat 12 (q.at_ + 1), pfx := none, ld := none }) k
      match x.lpa, x.word with
      | some l, _ => let r := agentRead s (l / 8); done r.1 r.2
      | none, some w => done w s
      | none, none => s

def execReedLoadAnswer (k : BitVec 7) (s : State) : Out := .next (loadAnswer s k.toNat).tick

/-- ST: performed at once in private memory, posted to another device. -/
def reedSt (s : State) (k : Nat) (r : BitVec 3) (an : BitVec 2) (p : Bool) (off : BitVec 4) : State :=
  reedStep s k (reedWord 5 (r.toNat * 128 + an.toNat * 32 + b2n p * 16 + off.toNat)) true true fun q e s =>
    let va := q.av an + BitVec.ofNat 59 (8 * uimm 4 off.toNat e)
    let w := q.qv r
    let post := fun (q : Seq) => if p then q.setA an (q.av an + 8) else q
    let fin := fun (s : State) => ((.ok (.seq, post (s.sq k)) : Except RFault (Flow × Seq)), s)
    if va.toNat % 8 ≠ 0 then (.error { code := 6, addr := va }, s)
    else if isPort va then
      match portStore s k va w with
      | (.ok s, _) => fin s
      | (.error f, s) => (.error f, s)
    else if va.getLsbD 58 ∧ seqHost k = .valley then
      let dev := homeDev va
      let wd := seqWorld s k
      match unreachable s dev with
      | some sub => (.error { code := 9, addr := va, info := remoteInfo ⟨0x40, BitVec.ofNat 8 sub, 1, 1⟩ dev }, s)
      | none =>
        if dev = devNo s then
          match ownSlot s with
          | none => (.ok (.stay, q), s)
          | some s =>
            match homeStore s dev wd true va w 3 255 with
            | (.ok _, s) => fin s
            | (.error f, s) => (.error { code := 9, addr := va, info := remoteInfo f dev }, s)
        else if 8 ≤ storesOutOf s k then (.ok (.stay, q), s)
        else
          match sendOp s ⟨.seq k, dev, va, 1, true, true⟩ 0xFFFF wd true 6 (.rstore va w 3 0 false) with
          | none => (.ok (.stay, q), s)
          | some (_, s) => fin s
    else
      match seqXlate s k 1 va with
      | (.error f, s) => (.error f, s)
      | (.ok l, s) => fin (agentWrite s (l / 8) w 255)

def execReedSt (k : BitVec 7) (q : BitVec 3) (an : BitVec 2) (p : Bool) (off : BitVec 4) (s : State) : Out :=
  .next (reedSt s k.toNat q an p off).tick

/-! ## Control flow (R396) -/

/-- TT. -/
def execReedTt (k : BitVec 7) (q : BitVec 3) (mode : BitVec 2) (cls : BitVec 5) (s : State) : Out :=
  .next (reedPlain s k.toNat (reedWord 6 (q.toNat * 128 + mode.toNat * 32 + cls.toNat)) (mode == 1) fun x e =>
    let t := (x.qv q).tag
    match mode.toNat with
    | 0 => if 30 ≤ cls.toNat then .error { code := 2 } else .ok { x with t := inClass cls.toNat t }
    | 1 => let v := uimm 5 cls.toNat e
           if 0x3FF < v then .error { code := 2 } else .ok { x with t := t.toNat == v }
    | _ => .error { code := 2 }).tick

/-- A branch to the address of its own word plus its offset. -/
def reedBranch (s : State) (k : Nat) (word : BitVec 14) (n off : Nat) (taken : Seq → Bool × Seq) : Out :=
  .next (reedStep s k word true false fun q e s =>
    let (t, q') := taken q
    ((.ok (if t then .jump (q.at_ + simm n off e) else .seq, q') : Except RFault (Flow × Seq)), s)).tick

/-- Branch conditions. -/
def Seq.cond (q : Seq) (c : Nat) : Bool :=
  match c with
  | 0 => true | 1 => q.t | 2 => !q.t | 3 => q.z | 4 => !q.z | 5 => q.n | 6 => !q.n | _ => q.b

def execReedBr (k : BitVec 7) (cond : BitVec 3) (off : BitVec 7) (s : State) : Out :=
  reedBranch s k.toNat (reedWord 7 (cond.toNat * 128 + off.toNat)) 7 off.toNat fun q => (q.cond cond.toNat, q)
def execReedLoop (k : BitVec 7) (off : BitVec 9) (s : State) : Out :=
  reedBranch s k.toNat (reedWord 8 off.toNat) 9 off.toNat fun q =>
    let c := if q.c = 0 then 0 else q.c - 1
    (c != 0, { q with c := c })
def execReedJcz (k : BitVec 7) (off : BitVec 9) (s : State) : Out :=
  reedBranch s k.toNat (reedWord 8 (512 + off.toNat)) 9 off.toNat fun q => (q.c == 0, q)

/-- CALL: a target or a return address outside the memory is PC, before a full stack. -/
def execReedCall (k : BitVec 7) (off : BitVec 9) (s : State) : Out :=
  .next (reedStep s k.toNat (reedWord 11 off.toNat) true true fun q e s =>
    let t := (q.at_ : Int) + simm 9 off.toNat e
    if t < 0 ∨ 4095 < t then (.error { code := 3 }, s)
    else if 8 ≤ q.stack.length then (.error { code := 4 }, s)
    else (.ok (.jump t, { q with stack := BitVec.ofNat 12 (q.at_ + 1) :: q.stack }), s)).tick

def execReedRet (k : BitVec 7) (s : State) : Out :=
  .next (reedStep s k.toNat (reedWord 11 512) false false fun q _ s =>
    match q.stack with
    | [] => (.error { code := 4 }, s)
    | a :: r => (.ok (.jump a.toNat, { q with stack := r }), s)).tick

/-- PFX: it stays before its instruction, at which pc remains; a PFX before a PFX is ILLEGAL. -/
def execReedPfx (k : BitVec 7) (ext : BitVec 10) (s : State) : Out :=
  .next (reedStep s k.toNat (reedWord 12 ext.toNat) false true fun q _ s => (.ok (.stay, { q with pfx := some ext }), s)).tick

/-! ## Waiting, signalling and ending (R397 to R401) -/

/-- WAITE. -/
def execReedWaite (k : BitVec 7) (m : Bool) (q : BitVec 3) (e : BitVec 4) (s : State) : Out :=
  .next (reedStep s k.toNat (reedWord 9 (b2n m * 512 + q.toNat * 16 + e.toNat)) false true fun x _ s =>
    let w := x.qv q
    if m ∧ !isInt w then (.error { code := 5 }, s)
    else
      let mask : BitVec 16 := if m then w.payload.extractLsb' 0 16 else 1 <<< e.toNat
      let hit := x.events &&& mask
      if hit = 0 then (.ok (.stay, { x with st := .waiting, waitM := some (mask, if m then some q else none) }), s)
      else
        let x := { x with events := x.events &&& ~~~hit }
        (.ok (.seq, if m then x.setQ q (fixW hit.toNat) else x), s)).tick

/-- SIGNAL (R398): it issues once every earlier store is performed. -/
def execReedSignal (k : BitVec 7) (q : BitVec 3) (s : State) : Out :=
  .next (reedStep s k.toNat (reedWord 10 (q.toNat * 128)) false true fun x _ s =>
    let k := k.toNat
    let w := x.qv q
    let v := w.payload
    let target := bitsN v 2 7
    let ev : BitVec 16 := 1 <<< bitsN v 9 4
    let fin := fun (s : State) => ((.ok (.seq, s.sq k) : Except RFault (Flow × Seq)), s)
    if !isInt w then (.error { code := 5 }, s)
    else if storesOutOf s k ≠ 0 then (.ok (.stay, x), s)
    else if bitsN v 29 35 ≠ 0 then (.error { code := 10 }, s)
    else
      match bitsN v 0 2 with
      | 0 => if target < 64 ∧ (s.chan target).owner = seqWorld s k then fin (vlRing s target) else (.error { code := 10 }, s)
      | 1 => if target < 100 ∧ seqHost target = seqHost k ∧ seqWorld s target = seqWorld s k then fin (seqEvent s target ev)
             else (.error { code := 10 }, s)
      | 2 => let n := bitsN v 13 16
             if n < 40960 then fin (ringBits s n ev) else (.error { code := 10 }, s)
      | _ => (.error { code := 10 }, s)).tick

/-- END (R400). -/
def reedEnd (s : State) (k : Nat) : State :=
  reedStep s k (reedWord 15 0) false false fun q _ s =>
    match seqHost k with
    | .valley => (.ok (.stay, { q with st := .ended }), s.setChan k { s.chan k with phase := .done })
    | _ => (.ok (.stay, { q with st := .ended, done := true, pc := BitVec.ofNat 12 (q.at_ + 1) }), s)

/-- The interrupt of a program that has just ended. -/
def endNotice (s0 s : State) (k : Nat) : State :=
  if seqHost k ≠ .valley ∧ (s0.sq k).st = .running ∧ (s.sq k).st = .ended then seqDone s k else s

def execReedEnd (k : BitVec 7) (s : State) : Out := .next (endNotice s (reedEnd s k.toNat) k.toNat).tick

/-- REED_ILLEGAL (R403): the word at pc has no meaning. -/
def execReedIllegal (k : BitVec 7) (word : BitVec 14) (s : State) : Out :=
  .next (if reedLegal word then s else reedStep s k.toNat word true false fun _ _ s => (.error { code := 2 }, s)).tick

/-- The late fault of a posted global store halts the channel (R404). -/
def execReedLateStoreFault (k : BitVec 7) (addr : BitVec 59) (info : BitVec 64) (s : State) : Out :=
  .next (match (s.sq k.toNat).lateFault with
    | some f => if f = (addr, info) ∧ (s.sq k.toNat).ld.isNone then vlHalt s k.toNat 7 addr info.toNat else s
    | none => s).tick

/-! ## Starting and stopping programs (R271, R401) -/

/-- TSL_CTL.go. -/
def seqGo (s : State) (k : Nat) : State :=
  let q := s.sq k
  if q.st = .running ∨ q.st = .waiting ∨ (seqHost k = .teasel ∧ (s.tile (k - 64)).dead = true) then s
  else
    let s := startProgram s k q.entry
    let s := s.setSq k { s.sq k with marks := 0 }
    if seqHost k = .teasel then wakeTile s (k - 64) else s

/-- TSL_CTL.halt: at once at an instruction boundary, else when the outstanding LD is answered. -/
def seqHalt (s : State) (k : Nat) : State :=
  let q := s.sq k
  if q.st = .running ∨ q.st = .waiting then
    if q.ld.isSome then s.setSq k { q with halt := true } else s.setSq k { q with st := .idle, waitM := none, pfx := none }
  else s

/-- An answer to a sequencer's remote load. -/
def seqWord (s : State) (k slot : Nat) (w : W) : State :=
  let q := s.sq k
  match q.ld with
  | some x => if x.slot = some slot then s.setSq k { q with ld := some { x with word := some w } } else s
  | none => s

/-- A fault or timeout of a sequencer's remote operation: of its LD at once, of a posted store at the next boundary. -/
def seqRemote (s : State) (k slot : Nat) (va : BitVec 59) (info : Nat) (posted : Bool) : State :=
  let q := s.sq k
  let c := s.chan k
  if posted then
    if c.st = .running ∧ c.phase = .program then
      (if q.lateFault.isNone then s.setSq k { q with lateFault := some (va, BitVec.ofNat 64 info) } else s)
    else if c.st = .running ∨ c.st = .atEoc then vlHalt s k 7 va info
    else s
  else
    match q.ld with
    | some x => if x.slot = some slot then reedFault s k { code := 9, addr := va, info := info } else s
    | none => s

end Sys2Proof.Machine
end

