-- ==== Sys2Proof/Machine/Remote.lean ====
section
/-! DEFINITION. Transport messages at their device (R298 to R308, R343 to R345) and migration (R313 to R320). -/

namespace Sys2Proof.Machine

/-! ## Requests at the home -/

/-- Answers a message: to its source, with its tag (R344). -/
def reply (s : State) (h : Hdr) (vc : BitVec 3) (b : Body) : State :=
  sendMsg s ⟨⟨h.src, devNo s, h.lcn, h.world, h.sup, h.slot, h.gen⟩, vc, b⟩

/-- A home-side fault returns (R301). -/
def replyFault (s : State) (h : Hdr) (f : HF) : State := reply s h 1 (.rfault f.cause f.sub f.lvl f.acc)

/-- Traffic that DROWSE holds (R439, R445). -/
def holdMsg (s : State) (m : Held) : State :=
  let s := wakeDevice s
  { s with mg := { s.mg with held := s.mg.held ++ [m] } }

/-- A request addressed to the device, by what its mode does with it (R439). -/
def gated (s : State) (h : Hdr) (m : Held) (f : State → State) : State :=
  if h.dest ≠ devNo s then s
  else
    match reqTraffic s.mg.mode with
    | .nothing => s
    | .afterWake => holdMsg s m
    | _ => f s

/-- A replica of a read-only-shared page goes to a device (R307): the tracker after it, or none without room. -/
def track (s : State) (w : World) (page : Nat) (dev : BitVec 16) : Option State :=
  let t := s.remote.tracker
  let set := fun t => some { s with remote := { s.remote with tracker := t } }
  match t.find? fun e => e.1 == w && e.2.1 == page with
  | some e =>
    if e.2.2.1.contains dev ∨ e.2.2.2 then some s
    else
      let new := if e.2.2.1.length < 4 then (w, page, e.2.2.1 ++ [dev], false) else (w, page, e.2.2.1, true)
      set (t.map fun x => if x = e then new else x)
  | none => if t.length < 16384 then set (t ++ [(w, page, [dev], false)]) else none

/-- The sixteen words of the pair of a word. -/
def pairWords (s : State) (key : Nat) : List W := curLine s (key / 16 * 2) ++ curLine s (key / 16 * 2 + 1)

/-- Both lines of a pair are read at their home (R46, R50). -/
def readBoth (s : State) (key : Nat) : State := (agentRead (agentRead s (key / 16 * 16)).2 (key / 16 * 16 + 8)).2

/-- RLOAD (R298, R306). -/
def rload (s : State) (h : Hdr) (addr : BitVec 59) : State :=
  match homeLoad s h.src h.world h.sup addr with
  | (.error f, s) => replyFault s h f
  | (.ok (w, l), s) =>
    let shared := pteG l.pte && (!l.pte.getLsbD 4 && decide (0 < dval s 0x3210 0x04))
    match (if shared then track s h.world (bitsN addr 12 47) h.src else none) with
    | some s => let s := readBoth s (l.lpa addr / 8); reply s h 1 (.rpair (pairWords s (l.lpa addr / 8)))
    | none => reply s h 1 (.rdata w false)

def execRload (h : Hdr) (addr : BitVec 59) (size : BitVec 2) (acquire : Bool) (s : State) : Out :=
  .next (gated s h (.rload h addr size acquire) fun s => rload s h addr).tick

/-- RSTORE (R298). -/
def rstore (s : State) (h : Hdr) (addr : BitVec 59) (word : W) (size : BitVec 2) (mask : BitVec 8) : State :=
  match homeStore s h.src h.world h.sup addr word size.toNat mask with
  | (.error f, s) => replyFault s h f
  | (.ok _, s) => reply s h 1 .rack

def execRstore (h : Hdr) (addr : BitVec 59) (word : W) (size : BitVec 2) (mask : BitVec 8) (s : State) : Out :=
  .next (gated s h (.rstore h addr word size mask) fun s => rstore s h addr word size mask).tick

/-- RATOM (R298). -/
def ratom (s : State) (h : Hdr) (addr : BitVec 59) (word expected : W) (op : BitVec 3) : State :=
  match homeAtom s h.src h.world h.sup addr op.toNat word expected with
  | (.error f, s) => replyFault s h f
  | (.ok w, s) => reply s h 1 (.rdata w true)

def execRatom (h : Hdr) (addr : BitVec 59) (word expected : W) (op : BitVec 3) (ord : BitVec 2) (s : State) : Out :=
  .next (gated s h (.ratom h addr word expected op ord) fun s => ratom s h addr word expected op).tick

/-- A MOVED notice for the device where a doorbell originated (R319). -/
def sendMoved (s : State) (w : World) (origin : BitVec 16) (oldId : BitVec 32) (st : Stub) : State :=
  if origin = devNo s then movedNotice s w oldId st.oldGen st.newId st.newGen
  else sendMsg s ⟨⟨origin, devNo s, 0xFFFF, w, true, 0, 0⟩, 1, .moved oldId st.oldGen st.newId st.newGen⟩

/-- An inbound doorbell reaches a record or its stub (R345, R319). -/
def doorbellIn (s : State) (w : World) (lcn gen events origin : BitVec 16) (hops : BitVec 3) : State :=
  let n := lcn.toNat
  let c := s.ctx n
  if 40960 ≤ n then discardRing s
  else if c.dir.state = .stub then
    match tget s.remote.stubs c.dir.stub.toNat with
    | some st =>
      if st.oldGen ≠ gen then discardRing s
      else
        let s := if 5 ≤ hops.toNat + 1 then countUp s 0x1800 0x26 1 else forwardDoorbell s st w events origin (hops + 1)
        sendMoved s w origin (devNo s ++ lcn) st
    | none => discardRing s
  else if c.dir.gen ≠ gen then discardRing s
  else ringBits s n events

/-- DOORBELL: acknowledged always; discarded in BRINGUP, SELFTEST and SAFE (R439). -/
def doorbellMsg (s : State) (h : Hdr) (lcn gen events origin : BitVec 16) (hops : BitVec 3) : State :=
  let s := if noBells (modeAt s (tileOf (coreOf lcn.toNat))) then s else doorbellIn s h.world lcn gen events origin hops
  reply s h 1 .rack

def execDoorbell (h : Hdr) (lcn gen events origin : BitVec 16) (hops : BitVec 3) (s : State) : Out :=
  .next (gated s h (.doorbell h lcn gen events origin hops) fun s => doorbellMsg s h lcn gen events origin hops).tick

/-- The tile that holds replicas of a global address (R306). -/
def replicaTile (va : Nat) : Nat :=
  (List.range 9).foldl (fun r i => nxor r (va / 2 ^ (12 + 5 * i) % 32)) (va / 2 ^ 57 % 2)

/-- INV (R307): the page's replicas go, and the home is told. -/
def invPage (s : State) (h : Hdr) (page : BitVec 47) : State :=
  let s := s.modTile (replicaTile (page.toNat * 4096)) fun t =>
    { t with reps := t.reps.filter fun r => !(r.world == h.world && r.pair / 32 == page.toNat) }
  reply s h 1 .invack

def execInv (h : Hdr) (page : BitVec 47) (s : State) : Out := .next (gated s h (.inv h page) fun s => invPage s h page).tick

/-- INVACK (R222, R307): one acknowledgement of a TLBI less. -/
def invAck (s : State) (h : Hdr) : State :=
  if h.dest ≠ devNo s then s
  else { s with tlbis := s.tlbis.map fun t =>
           if t.id % 65536 = h.slot.toNat then { t with acks := t.acks.filter fun a => !(a.1 == h.src.toNat && a.2 == h.gen.toNat) } else t }

def execInvack (h : Hdr) (s : State) : Out := .next (invAck s h).tick

/-! ## Answers at the requester -/

/-- A store of a context is acknowledged (R70, R304): SYNC.G ends, and what waited for stores_out or a credit is READY. -/
def ackStore (s : State) (n : Nat) : State :=
  let c := s.ctx n
  let out := c.dir.storesOut - 1
  let s := s.setCtx n { c with dir := { c.dir with storesOut := out } }
  if c.dir.wait = 2 ∧ out = 0 then
    let past : Bool := match c.pend with | some p => p.why == .syncG && c.sfault.isNone | none => false
    let s := s.modCtx n fun c => { c with pend := none, r := if past then { c.r with pc := c.r.pc + 4 } else c.r }
    endWait s n
  else if c.dir.wait = 3 then endWait s n
  else s

/-- The stub of a migration that ends without ACCEPT is returned, and the context is READY (R313 step 5). -/
def unmigrate (s : State) (n : Nat) : State :=
  let c := s.ctx n
  let s := { s with remote := { s.remote with stubs := tdel s.remote.stubs c.dir.stub.toNat } }
  let s := s.setCtx n { c with dir := { c.dir with stub := 0, events := c.dir.events ||| c.migEvents }, migEvents := 0, migSent := false, refused := true }
  makeReady (countUp s 0x1800 0x23 1) n

/-- A fault of a posted store of a context is latched or counted (R303); it ends a migration that has not sent its
packet. -/
def latchFault (s : State) (n : Nat) (f : SFault) : State :=
  let c := s.ctx n
  if c.dir.dying ∨ c.sfault.isSome then countUp s 0x1800 0x25 1
  else
    let s := s.setCtx n { c with sfault := some f }
    if c.dir.state = .migrating ∧ !c.migSent then
      unmigrate (s.modCtx n fun c => { c with dir := { c.dir with fault := true } }) n
    else s

/-- Hands a word to the access of whoever waits for slot k. -/
def giveWord (s : State) (x : Exec) (k : Nat) (w : W) : State :=
  let f := fun (p : Pend) => if p.why = .remote ∧ p.needs = some k then { p with words := tset p.words 0 w, ready := true } else p
  match x with
  | .ctx n => s.modCtx n.toNat fun c => { c with pend := c.pend.map f }
  | .fic c => s.modCore c.toNat fun q => { q with fic := { q.fic with pend := q.fic.pend.map f } }

/-- An acknowledgement for whoever executes. -/
def giveAck (s : State) (x : Exec) : State :=
  match x with
  | .ctx n => ackStore s n.toNat
  | .fic c => s.modCore c.toNat fun q => { q with fic := { q.fic with storesOut := q.fic.storesOut - 1 } }

/-! ## Notices -/

def execMoved (h : Hdr) (oldId : BitVec 32) (oldGen : BitVec 16) (newId : BitVec 32) (newGen : BitVec 16) (s : State) : Out :=
  .next (if h.dest = devNo s then movedNotice s h.world oldId oldGen newId newGen else s).tick

/-! ## Migration: the packet (R314) -/

/-- The word slots of line i of a packet with wp and vwc: keys of g as 64 and up, of the ring below 64. -/
def packetLine (wp vwc i : Nat) : List (Option Nat) :=
  let win := fun (j off : Nat) => (List.range 8).map fun k => some (16 * ((wp + 4 - j) % 4) + off + k)
  if i = 0 then ((List.range 7).map fun k => some (64 + k)) ++ [none]
  else if i ≤ 2 * vwc then win ((i - 1) / 2) (if i % 2 = 1 then 0 else 8)
  else win vwc 8

/-- The number of lines that the table defines. -/
def packetLines (vwc : Nat) : Nat := if vwc < 4 then 2 * vwc + 2 else 2 * vwc + 1

/-- The words of line i of a context. -/
def ctxLine (c : Ctx) (i : Nat) : Line :=
  (packetLine c.r.wp.toNat c.r.vwc.toNat i).map fun k =>
    match k with
    | some k => if 64 ≤ k then tgetD c.g (k - 64) nilW else tgetD c.ring k nilW
    | none => nilW

/-- The lines of a context that its packet carries. -/
def presentLines (c : Ctx) : List Nat := (List.range (packetLines c.r.vwc.toNat)).filter fun i => ctxLine c i != List.replicate 8 nilW

/-- The packet's length in bytes. -/
def packetLen (c : Ctx) : Nat := max 256 ((80 + 74 * (presentLines c).length + 128 * b2n c.r.fpBound + 15) / 16 * 16)

/-- Builds the packet. -/
def buildPacket (s : State) (n : Nat) : MigPacket :=
  let c := s.ctx n
  let ls := presentLines c
  let bank := tgetD (s.core (coreOf n)).fp c.r.fpBank.toNat []
  { srcId := devNo s ++ BitVec.ofNat 16 n, srcGen := c.dir.gen, lmask := BitVec.ofNat 9 (ls.foldl (fun m i => m + 2 ^ i) 0),
    addr := c.migVa, acc := c.migAcc, migId := c.migId, length := BitVec.ofNat 16 (packetLen c), events := c.dir.events,
    prio := c.dir.prio, owner := c.dir.owner, pc := c.r.pc, wp := c.r.wp, vwc := c.r.vwc, lk := c.r.lk, cnt := c.r.cnt,
    pkr := c.r.pkr, wsp := c.r.wsp, ctxStat := c.r.ctxStat, fpsr := c.r.fpsr, lines := ls.map (ctxLine c),
    fp := if c.r.fpBound then some ((List.range 16).map fun i => tgetD bank i 0) else none }

/-- MIGRATION_PACKET_SEND (R313 steps 2 and 3): the stores and appends of the context are performed. -/
def sendPacket (s : State) (n : Nat) : State :=
  let c := s.ctx n
  let core := s.core (coreOf n)
  let mine := fun (p : PStore) => p.who == .ctx (BitVec.ofNat 16 n)
  if c.dir.state ≠ .migrating ∨ c.migSent ∨ c.slot.isSome ∨ c.dir.storesOut ≠ 0 ∨ core.stores.any mine ∨ core.appends.any mine then s
  else
    let s' := s.setCtx n { c with migSent := true, migEvents := c.dir.events, dir := { c.dir with events := 0 } }
    sendMsg s' ⟨⟨homeDev c.migVa, devNo s, BitVec.ofNat 16 n, c.r.world, c.r.sup, 0, 0⟩, 2, .migrate (buildPacket s n)⟩

def execMigrationPacketSend (lcn : BitVec 16) (s : State) : Out := .next (sendPacket s lcn.toNat).tick

/-! ## Migration: admission (R316, R317) -/

/-- FREE pool records of a core (R57). -/
def poolFree (s : State) (core : Nat) : List Nat :=
  ((List.range 160).filter fun i => decide (160 - dval s 0x3200 0x01 ≤ i)).filter fun i => (s.ctx (core * 160 + i)).dir.state == .free && !withdrawnRec s (core * 160 + i)

/-- The banks of a world (R98). -/
def banksOf (s : State) (w : World) : List Nat :=
  (List.range 4).filter fun b => if w = .sys then decide (b < s.svc.fpSys) else decide (s.svc.fpSys ≤ b)

/-- A bank of a world that no context holds or has claimed. -/
def freeBank (s : State) (core : Nat) (w : World) : Option Nat :=
  let k := s.core core
  (banksOf s w).find? fun b => (tget k.holder b).isNone && (tget k.claim b).isNone

/-- The core that takes a context in (R316). -/
def placeCore (s : State) (tile : Nat) (fp : Bool) (w : World) : Option Nat :=
  let good := fun c => coreLive s c && (poolFree s c != [] && (!fp || (freeBank s c w).isSome))
  let inTile := fun (t : Nat) =>
    let cs := ((List.range 8).map fun i => t * 8 + i).filter good
    cs.foldl (fun (a : Option Nat) c =>
      match a with
      | some b => if (poolFree s b).length < (poolFree s c).length then some c else a
      | none => some c) none
  (((List.range 32).map fun i => (tile + i) % 32).filter fun t => !(s.tile t).dead).findSome? inTile

/-- Fills the registers of an admitted context from the packet's lines. -/
def unpackLines (c : Ctx) (wp vwc : Nat) (mask : BitVec 9) (i : Nat) (ls : List Line) (fuel : Nat) : Ctx :=
  match fuel with
  | 0 => c
  | fuel + 1 =>
    if mask.getLsbD i then
      match ls with
      | [] => c
      | l :: r =>
        let ks := (packetLine wp vwc i).zip l
        let c := ks.foldl (fun (c : Ctx) (p : Option Nat × W) =>
          match p.1 with
          | some k => if 64 ≤ k then { c with g := tset c.g (k - 64) p.2 } else { c with ring := tset c.ring k p.2 }
          | none => c) c
        unpackLines c wp vwc mask (i + 1) r fuel
    else unpackLines c wp vwc mask (i + 1) ls fuel

/-- The context that a packet makes on a record (R315, R316). -/
def admitCtx (s : State) (p : MigPacket) (core n : Nat) : State :=
  let old := s.ctx n
  let bank := if p.fp.isSome then freeBank s core p.owner else none
  let r : Rec := { pc := p.pc, wp := p.wp, vwc := p.vwc, lk := p.lk, cnt := p.cnt, pkr := p.pkr, wsp := p.wsp, ctxStat := p.ctxStat,
                   fpsr := p.fpsr, fpBound := bank.isSome, fpBank := BitVec.ofNat 2 (bank.getD 0) }
  let c : Ctx := { dir := { prio := p.prio, owner := p.owner, gen := old.dir.gen, events := p.events }, r := r }
  let c := unpackLines c p.wp.toNat p.vwc.toNat p.lmask 0 p.lines 9
  let s := s.setCtx n c
  let s := match bank, p.fp with
    | some b, some vs =>
      let vals := (List.range 16).foldl (fun (t : Tbl (BitVec 64)) i => tset t i (vs.getD i 0)) []
      { s.modCore core (fun k => { k with holder := tset k.holder b (n % 160, s.seq + 1), fp := tset k.fp b vals }) with seq := s.seq + 1 }
    | _, _ => s
  makeReady s n

/-- The modes that take migrations in (R439). -/
def admits (m : Mode) : Bool := m == .service || m == .degraded

/-- The decision on a packet (R316): the core, or the reason of the refusal. -/
def admission (s : State) (h : Hdr) (p : MigPacket) : Except Nat Nat × State :=
  if !admits s.mg.mode then (.error 4, s)
  else if (dval s 0x3210 0x02 / 2 ^ p.owner.num) % 2 = 0 then (.error 5, s)
  else if 65536 ≤ s.remote.admitted.length ∧ Config.choice s.free 15 % 2 = 0 then (.error 6, s)
  else
    match homeXlate s h.src h.world h.sup p.acc.toNat p.addr with
    | (.error _, s) => (.error 3, s)
    | (.ok l, s) =>
      let tile := homeTile s (l.lpa p.addr / 64)
      match placeCore s tile p.fp.isSome p.owner with
      | some c => (.ok c, s)
      | none => (.error (if (List.range 256).any fun c => coreLive s c && poolFree s c != [] then 2 else 1), s)

/-- Records the outcome of a packet (R317). -/
def logAdmission (s : State) (src : BitVec 16) (mig : BitVec 32) (ok : Bool) (reason : BitVec 8) (newId : BitVec 32) (gen : BitVec 16) :
    State :=
  let l := s.remote.admitted
  let l := if 65536 ≤ l.length then l.drop 1 else l
  { s with remote := { s.remote with admitted := l ++ [(src, mig, ok, reason, newId, gen)] } }

/-- MIGRATE. -/
def migrateIn (s : State) (h : Hdr) (p : MigPacket) : State :=
  match admission s h p with
  | (.error reason, s) =>
    let r := BitVec.ofNat 8 reason
    let s := if reason = 6 then s else logAdmission s h.src p.migId false r 0 0
    reply s h 2 (.migans p.migId 1 r 0 0)
  | (.ok core, s) =>
    let n := core * 160 + (poolFree s core).headD 0
    let gen := (s.ctx n).dir.gen
    let id : BitVec 32 := devNo s ++ BitVec.ofNat 16 n
    let s := countUp (admitCtx s p core n) 0x1800 0x22 1
    let s := logAdmission s h.src p.migId true 0 id gen
    reply s h 2 (.migans p.migId 0 0 id gen)

def execMigrate (h : Hdr) (pkt : MigPacket) (s : State) : Out := .next (gated s h (.migrate h pkt) fun s => migrateIn s h pkt).tick

/-- MIGQ (R317). -/
def migQuery (s : State) (h : Hdr) (mig : BitVec 32) : State :=
  if h.dest ≠ devNo s then s
  else
    match s.remote.admitted.reverse.find? fun e => e.1 == h.src && e.2.1 == mig with
    | some (_, _, ok, reason, id, gen) => reply s h 2 (.migans mig (if ok then 0 else 1) reason id gen)
    | none => reply s h 2 (.migans mig 2 0 0 0)

def execMigq (h : Hdr) (migId : BitVec 32) (s : State) : Out := .next (migQuery s h migId).tick

/-! ## Migration: the source (R313, R317, R318) -/

/-- The context of this device whose migration waits for an answer. -/
def migrating (s : State) (h : Hdr) (mig : BitVec 32) : Option Nat :=
  (s.ctxs.find? fun c => c.2.dir.state == .migrating && (c.2.migSent && (c.2.migId == mig && homeDev c.2.migVa == h.src))).map fun c => c.1

/-- ACCEPT (R313 step 4): the record becomes STUB; bits that arrived since go on as one doorbell. -/
def migrated (s : State) (n : Nat) (newId : BitVec 32) (newGen : BitVec 16) : State :=
  let c := s.ctx n
  let st : Stub := ⟨n, newId, newGen, c.dir.gen⟩
  let s := releaseBanks s n
  let s := { s with remote := { s.remote with stubs := tset s.remote.stubs c.dir.stub.toNat st } }
  let ev := c.dir.events
  let s := s.modCtx n fun c => { c with dir := { c.dir with state := .stub, events := 0 }, migEvents := 0, migSent := false, touch := none, refused := false }
  let s := if ev ≠ 0 then forwardDoorbell s st c.dir.owner ev (devNo s) 0 else s
  countUp s 0x1800 0x21 1

/-- MIGANS. -/
def migAnswer (s : State) (h : Hdr) (mig : BitVec 32) (outcome : BitVec 2) (newId : BitVec 32) (newGen : BitVec 16) : State :=
  if h.dest ≠ devNo s then s
  else
    match migrating s h mig with
    | none => s
    | some n => if outcome = 0 then migrated s n newId newGen else unmigrate s n

def execMigans (h : Hdr) (migId : BitVec 32) (outcome : BitVec 2) (reason : BitVec 8) (newId : BitVec 32) (newGen : BitVec 16) (s : State) : Out :=
  let _ := reason
  .next (migAnswer s h migId outcome newId newGen).tick

/-- No answer within 1 ms: MIGQ is sent (R317). -/
def migAsk (s : State) (n : Nat) : State :=
  let c := s.ctx n
  if c.dir.state = .migrating ∧ c.migSent then
    sendMsg s ⟨⟨homeDev c.migVa, devNo s, BitVec.ofNat 16 n, c.r.world, c.r.sup, 0, 0⟩, 2, .migq c.migId⟩
  else s

def execMigReplyTimeout (lcn : BitVec 16) (s : State) : Out := .next (migAsk s lcn.toNat).tick

/-- stub_ttl passes (R318). -/
def stubEnd (s : State) (n : Nat) : State :=
  let c := s.ctx n
  if c.dir.state = .stub then
    becomeFree { s with remote := { s.remote with stubs := tdel s.remote.stubs c.dir.stub.toNat } } n
  else s

def execStubRelease (lcn : BitVec 16) (s : State) : Out := .next (stubEnd s lcn.toNat).tick

end Sys2Proof.Machine
end

