-- ==== Sys2Proof/Machine/Laraor.lean ====
section
/-! DEFINITION. The Laraor links (R323 to R350): flits, retry, lanes, link initialisation, fences and transit. The
sending of the device's own messages is Machine/Transmit.lean. -/

namespace Sys2Proof

/-! ## Fields of a flit's link word (R329) -/

def Flit.ftype (f : Flit) : Nat := Machine.bitsN f.link 0 4
def Flit.cc0 (f : Flit) : Nat := Machine.bitsN f.link 4 4
def Flit.cn0 (f : Flit) : Nat := Machine.bitsN f.link 8 6
def Flit.cc1 (f : Flit) : Nat := Machine.bitsN f.link 14 4
def Flit.cn1 (f : Flit) : Nat := Machine.bitsN f.link 18 6
def Flit.first (f : Flit) : Nat := Machine.bitsN f.link 24 4

end Sys2Proof

namespace Sys2Proof.Machine

/-! ## Flits (R328 to R331) -/

/-- One byte of CRC-32C. -/
def crcByte (c : BitVec 32) (b : BitVec 8) : BitVec 32 :=
  (List.range 8).foldl (fun (r : BitVec 32) (_ : Nat) => if r.getLsbD 0 then (r >>> 1) ^^^ 0x82F63B78 else r >>> 1) (c ^^^ b.setWidth 32)

/-- CRC-32C of bytes (R331). -/
def crc32c (l : List (BitVec 8)) : BitVec 32 := l.foldl crcByte 0xFFFFFFFF ^^^ 0xFFFFFFFF

/-- Bytes 0 to 251 of a flit. -/
def flitBytes (f : Flit) : List (BitVec 8) :=
  toBytes f.seq.toNat 2 ++ (toBytes f.ack.toNat 2 ++ (toBytes f.link.toNat 4 ++ (f.area ++ toBytes f.fec.toNat 4)))

/-- A flit passes R331: its codewords decoded, its CRC holds and its reserved fields are zero. -/
def flitGood (f : Flit) : Bool :=
  f.fecOk && (f.crc == crc32c (flitBytes f) && (bitsN f.link 28 4 == 0 && (!f.fec.getLsbD 31 && (decide (f.ftype < 7)
    && (f.ftype == 1 || (f.ftype == 2 || (f.cn0 == 0 && f.cn1 == 0)))))))

/-- The 256 bytes of a flit. -/
def flitOut (f : Flit) : List (BitVec 8) := flitBytes f ++ toBytes f.crc.toNat 4

/-- What physical lane l of a port carries of the n-th codeword set that it sends: ten flits in the order of sending (R324, R326). -/
def sentLane (q : Port) (n l : Nat) : Option Nat :=
  laneOut q.txFailed n (((q.sentFl.drop (10 * n)).take 10).foldl (fun (a : List (BitVec 8)) f => a ++ flitOut f) []) l

/-- Sequenced types (R330). -/
def sequenced (ty : Nat) : Bool := ty == 1 || (ty == 2 || ty == 5)

/-- The area of a flit whose body is given. -/
def areaOf (b : List (BitVec 8)) : List (BitVec 8) := b ++ List.replicate (240 - b.length) 0

/-- A flit with its CRC. -/
def withCrc (f : Flit) : Flit := { f with crc := crc32c (flitBytes f) }

/-- A flit as the device sends it: no message starts in it, and it returns no credits. -/
def mkFlit (seq ack : BitVec 16) (ty : Nat) (body : List (BitVec 8)) (fec : BitVec 32) : Flit :=
  withCrc ⟨seq, ack, BitVec.ofNat 32 (ty + 15 * 2 ^ 24), areaOf body, fec, 0, true⟩

/-! ## Ports -/

/-- An event of a port (R349). -/
def portEvent (s : State) (p bit : Nat) : State :=
  let q := s.port p
  let ev := q.event ||| BitVec.ofNat 4 (2 ^ bit)
  let s := s.setPort p { q with event := ev }
  if q.event.getLsbD bit = false ∧ q.irqEn.getLsbD bit = true then signal s (0x70 + p) (BitVec.ofNat 64 ev.toNat) else s

/-- Sends an unsequenced flit (R330), with what the receiver corrected since the last one (R329). -/
def sendFlit (s : State) (p ty : Nat) (body : List (BitVec 8)) : State :=
  let q := s.port p
  s.setPort p { q with sentFl := q.sentFl ++ [mkFlit 0 (q.rxSeq - 1) ty body q.fec], fec := 0 }

/-- Sends a sequenced flit, its number and ack filled in, and keeps it for replay (R330). -/
def sendNumbered (s : State) (p : Nat) (f : Flit) : State :=
  let q := s.port p
  let f := withCrc { f with seq := q.txSeq, ack := q.rxSeq - 1, fec := q.fec }
  s.setPort p { q with sentFl := q.sentFl ++ [f], replay := q.replay ++ [f], txSeq := q.txSeq + 1, fec := 0 }

/-- Sends a sequenced flit in which no message starts. -/
def sendSeq (s : State) (p ty : Nat) (body : List (BitVec 8)) : State := sendNumbered s p (mkFlit 0 0 ty body 0)

/-- The messages that start in a flit's message area from an offset on (R329, R335). -/
def startsFrom (fuel : Nat) (area : List (BitVec 8)) : Nat :=
  match fuel with
  | 0 => 0
  | fuel + 1 =>
    let n := bitsN (area.getD 1 0) 0 6
    if n = 0 then 0 else 1 + startsFrom fuel (area.drop (16 * n))

/-- The messages that start in a DATA flit. -/
def startsIn (f : Flit) : Nat := if f.ftype = 1 ∧ f.first < 15 then startsFrom 15 (f.area.drop (16 * f.first)) else 0

/-- Messages discarded at a port are counted (R333, R341). -/
def countDiscards (s : State) (p n : Nat) : State :=
  let q := s.port p
  let s := s.setPort p { q with discards := BitVec.ofNat 32 (min 0xFFFFFFFF (q.discards.toNat + n)) }
  countUp s 0x1800 0x31 n

/-- The direction a port serves (R337). -/
def portDir (s : State) (p : Nat) : Option Nat :=
  if p < 8 then some p
  else
    let d := dval s 0x0C10 (p + 1) % 16
    if d < 8 then some d else none

/-- A port that is enabled, not fenced, and whose dimension has neighbours (R327, R337). -/
def portWanted (s : State) (p : Nat) : Bool :=
  decide (dval s 0x0C10 (p + 1) / 16 % 2 = 1) && (!(s.port p).fence && (s.port p).powered &&
    (match portDir s p with | some d => decide (1 < dimSize s (d / 2)) | none => false))

/-- Starts training (R327 step 1). -/
def portTrain (s : State) (p : Nat) : State :=
  s.setPort p { s.port p with st := .training, trained := 0, locked := 0, lanePos := [], rxFailed := none, txFailed := none, spare := false, failed := 7 }

/-- A port goes down (R333): its messages are discarded, and Sarking records LINK_LOSS with the reason. -/
def portDown (s : State) (p reason : Nat) : State :=
  let q := s.port p
  let held := q.replay.foldl (fun (n : Nat) f => n + startsIn f) 0
  let n := held + q.txq.length + (if q.txRest ≠ [] ∧ held = 0 then 1 else 0)
  let s := s.setPort p { q with st := .down, replay := [], partial_ := [], txq := [], txRest := [], recovery := false, reroute := false, lowPower := false,
                                hold := 0 }
  let s := portEvent (countDiscards s p n) p 1
  let s := groupsLink s p
  logFault s 0x09 0 p 0xFFFF 0 [BitVec.ofNat 8 p, BitVec.ofNat 8 reason]

/-- Full credits by class code (R334). -/
def fullCredits : Tbl Nat :=
  [(0, 256), (1, 256), (2, 88), (3, 88), (4, 44), (5, 44), (6, 128), (7, 128), (10, 88), (12, 44), (13, 44), (14, 128), (15, 128)]

/-- Returns credits of a class; an amount above the class's full amount cannot be held. -/
def addCredit (t : Tbl Nat) (cc n : Nat) : Tbl Nat :=
  match tget fullCredits cc with
  | some m => tset t cc (min m (tgetD t cc 0 + n))
  | none => t

/-- The ack of a good flit (R330, R332): what it covers leaves the replay buffer. -/
def takeAck (q : Port) (ack : BitVec 16) : Port :=
  match splitAtFirst (fun (f : Flit) => f.seq == ack) q.replay with
  | some (_, _, rest) => { q with replay := rest, ackSeq := ack }
  | none => q

/-- The receiver is in recovery and sends NAK (R332); the 16th for one e takes the port down (R333). -/
def recover (s : State) (p : Nat) : State :=
  let q := s.port p
  let s := s.setPort p { q with recovery := true, sentNaks := q.sentNaks + 1 }
  let s := sendFlit s p 3 []
  if 16 ≤ q.sentNaks + 1 then portDown s p 1 else s

/-- The receiver enters recovery, with its first NAK; one that is in recovery goes on as it is (R332). -/
def enterRecovery (s : State) (p : Nat) : State := if (s.port p).recovery then s else recover s p

/-- A flit that fails R331 at a port. -/
def discardFlit (s : State) (p : Nat) (f : Flit) : State :=
  let q := s.port p
  let s := if f.fecOk then s else s.setPort p { q with ue := satInc q.ue, fec := q.fec ||| 0x40000000 }
  if (s.port p).st = .up then enterRecovery s p else s

/-- A flit arrives: on a port that receives, a good flit of the type named takes effect and its ack is used; a bad one is
discarded (R331); a fenced port discards all (R346). A flit other than IDLE ends low-power idle (R445). -/
def onFlit (s : State) (p ty : Nat) (f : Flit) (k : State → State) : State :=
  match (s.port p).st with
  | .up | .init =>
    if !flitGood f then discardFlit s p f
    else if f.ftype ≠ ty then s
    else
      let q := takeAck (s.port p) f.ack
      k (s.setPort p { q with lowPower := q.lowPower && ty == 0 })
  | _ => s

/-- A sequenced flit (R332): accepted in order, else the receiver recovers. -/
def onSeq (s : State) (p ty : Nat) (f : Flit) (k : State → State) : State :=
  onFlit s p ty f fun s =>
    let q := s.port p
    if q.st ≠ .up then s
    else if f.seq ≠ q.rxSeq then enterRecovery s p
    else
      let c := if ty = 5 then q.credits else addCredit (addCredit q.credits f.cc0 f.cn0) f.cc1 f.cn1
      k (s.setPort p { q with rxSeq := q.rxSeq + 1, recovery := false, sentNaks := 0, credits := c })

/-! ## Messages in DATA flits (R335, R342, R343) -/

/-- The lengths in units that a message type may have. -/
def lenOk (ty n : Nat) : Bool :=
  match ty with
  | 0x01 | 0x04 | 0x10 | 0x13 | 0x15 | 0x21 | 0x22 | 0x41 | 0x50 => n == 2
  | 0x02 | 0x03 => n == 3
  | 0x11 => n == 11
  | 0x12 | 0x14 => n == 1
  | 0x20 => decide (17 ≤ n) && decide (n ≤ 43)
  | 0x30 | 0x40 | 0x42 => decide (2 ≤ n) && decide (n ≤ 44)
  | _ => false

/-- The length in units that a message's header names. -/
def unitsIn (m : List (BitVec 8)) : Nat := bitsN (m.getD 1 0) 0 6

/-- A whole message is for this device or for the port's peer. -/
def forUs (s : State) (m : List (BitVec 8)) : Bool :=
  (m.getD 8 0).getLsbD 2 || ofBytes ((m.drop 2).take 2) == (devNo s).toNat

/-- The units of a message in the receive buffer are owed back to the peer as they are freed, by credit class (R334). -/
def owe (t : Tbl Nat) (m : List (BitVec 8)) : Tbl Nat :=
  let v := (m.getD 0x0A 0).toNat
  let cc := v % 8 + 8 * (v / 8 % 2)
  tset t cc (tgetD t cc 0 + unitsIn m)

/-- A message that leaves the receive buffer of its port. -/
def freed (s : State) (p : Nat) (m : List (BitVec 8)) : State := s.setPort p { s.port p with owed := owe (s.port p).owed m }

/-- A whole message has arrived: decoded for its own command where it is for this device and kept as bytes where it goes on, unless
it is discarded at its destination. -/
def gotMsg (s : State) (p : Nat) (m : List (BitVec 8)) : State :=
  if forUs s m && !lenOk (m.getD 0 0).toNat (unitsIn m) then countDiscards (freed s p m) p 1
  else
    match (if forUs s m then sentAt (BitVec.ofNat 4 p) m else none) with
    | some x => (let s := freed s p m; s.setPort p { s.port p with got := (s.port p).got ++ [x] })
    | none => (let s := if forUs s m then freed s p m else s; s.setPort p { s.port p with rxMsgs := (s.port p).rxMsgs ++ [m] })

/-- Takes messages that begin at the start of a list of units. -/
def takeMsgs (fuel : Nat) (s : State) (p : Nat) (u : List (BitVec 8)) : State :=
  match fuel with
  | 0 => s
  | fuel + 1 =>
    let n := 16 * unitsIn u
    if u = [] ∨ n = 0 ∨ 704 < n then s
    else if u.length < n then s.setPort p { s.port p with partial_ := u }
    else takeMsgs fuel (gotMsg s p (u.take n)) p (u.drop n)

/-- The message area of a DATA flit: the rest of the message in progress, then those from unit `first` on. -/
def dataArea (s : State) (p : Nat) (f : Flit) : State :=
  let q := s.port p
  let s :=
    if q.partial_ = [] then s
    else
      let need := 16 * unitsIn q.partial_ - q.partial_.length
      let m := q.partial_ ++ f.area.take need
      if need ≤ 240 then gotMsg (s.setPort p { q with partial_ := [] }) p m else s.setPort p { q with partial_ := m }
  if f.first < 15 then takeMsgs 16 s p (f.area.drop (16 * f.first)) else s

/-- Sends every unacknowledged flit again, with its original link word and the current ack (R330, R332). -/
def resendAll (q : Port) : Port := { q with sentFl := q.sentFl ++ q.replay.map fun f => withCrc { f with ack := q.rxSeq - 1 } }

/-- NAK: every unacknowledged flit is sent again (R332); 16 that name the same e take the port down (R333). -/
def nakIn (s : State) (p : Nat) (f : Flit) : State :=
  let q := s.port p
  let n := if 0 < q.naks ∧ q.lastNak = f.ack then q.naks + 1 else 1
  let q := { q with naks := n, lastNak := f.ack }
  let s := if q.replay = [] then s.setPort p q
    else countUp (s.setPort p (resendAll { q with replays := satInc q.replays })) 0x1800 0x30 1
  if 16 ≤ n then portDown s p 1 else s

def execNakFlit (port : BitVec 4) (f : Flit) (s : State) : Out :=
  .next (onFlit s port.toNat 3 f fun s => if (s.port port.toNat).st = .up then nakIn s port.toNat f else s).tick

/-- The NAK of a port in recovery is repeated. -/
def execNakRepeat (port : BitVec 4) (s : State) : Out :=
  let q := s.port port.toNat
  .next (if q.st = .up ∧ q.recovery then recover s port.toNat else s).tick

/-! ## Lanes (R325 to R327) -/

/-- A second lane of a direction failed (R326, R333). -/
def secondLane (s : State) (p : Nat) : State := spareExhausted (portDown s p 2) 3 p

/-- A spare switch was made (R326). -/
def spareMade (s : State) (p : Nat) (lane : BitVec 3) : State :=
  portEvent (s.setPort p { s.port p with spare := true, failed := lane }) p 2

/-- From the next set after the switch the spare carries the failed lane's logical position, and that lane is idle (R326). -/
def movePos (q : Port) (lane : Nat) : Port :=
  match tget q.lanePos lane with
  | some pos => { q with lanePos := tset (tset q.lanePos 4 pos) lane 7 }
  | none => q

/-- The receiver has lost a lane: it asks for the spare, or the port goes down. -/
def laneLost (s : State) (p : Nat) (lane : BitVec 3) : State :=
  let q := s.port p
  match q.rxFailed with
  | none =>
    let s := s.setPort p { q with rxFailed := some lane, locked := q.locked &&& ~~~((1 : BitVec 5) <<< lane.toNat) }
    if lane = 4 then s
    else
      let s := sendSeq s p 5 [lane.setWidth 8]
      spareMade (s.setPort p (movePos (s.port p) lane.toNat)) p lane
  | some f => if f = lane then s else secondLane s p

def execLaneLockLoss (port : BitVec 4) (lane : BitVec 3) (s : State) : Out :=
  .next (if (s.port port.toNat).st = .up then laneLost s port.toNat lane else s).tick

/-- The corrections of a lane within 1 ms: more than lane_ce_thresh, by an amount that is free. -/
def laneCe (s : State) (p : Nat) (lane : BitVec 3) : State :=
  let q := s.port p
  let more := dval s 0x0C00 0x04 + 1 + Config.choice s.free 80
  let n := (tgetD q.laneCe lane.toNat 0).toNat + more
  let ce := min 63 ((q.fec.extractLsb' (6 * lane.toNat) 6).toNat + more)
  let s := s.setPort p { q with laneCe := tset q.laneCe lane.toNat (BitVec.ofNat 32 (min n 0xFFFFFFFF)),
                                fec := putN q.fec (6 * lane.toNat) 6 ce }
  if q.rxFailed.isSome then s else laneLost s p lane

def execLaneCeThreshold (port : BitVec 4) (lane : BitVec 3) (s : State) : Out :=
  .next (if (s.port port.toNat).st = .up then laneCe s port.toNat lane else s).tick

/-- SPARE: the transmitter moves a lane's logical position to the spare (R326). -/
def spareIn (s : State) (p : Nat) (f : Flit) : State :=
  let lane : BitVec 3 := (f.area.getD 0 0).setWidth 3
  let q := s.port p
  if 3 < (f.area.getD 0 0).toNat then s
  else
    match q.txFailed with
    | none => spareMade (s.setPort p { q with txFailed := some lane }) p lane
    | some l => if l = lane then s else secondLane s p

def execSpareFlit (port : BitVec 4) (f : Flit) (s : State) : Out := .next (onSeq s port.toNat 5 f fun s => spareIn s port.toNat f).tick

/-- PMD training ends (R327 step 1): with two lanes failed it is retried. -/
def pmdDone (s : State) (p : Nat) (failed : BitVec 5) : State :=
  let q := s.port p
  let bad := (List.range 5).filter fun l => failed.getLsbD l
  if q.st ≠ .training ∨ 2 ≤ bad.length then s
  else
    let f : Option (BitVec 3) := bad.head?.map (BitVec.ofNat 3)
    let used := match f with | some l => l != 4 | none => false
    s.setPort p { q with trained := ~~~failed, locked := 0, rxFailed := f, spare := used, failed := if used then f.getD 7 else 7 }

def execPmdTrainingDone (port : BitVec 4) (failed : BitVec 5) (s : State) : Out := .next (pmdDone s port.toNat failed).tick

/-- The body of an INIT flit: device, port, dims, direction served, and the credits of each class code. -/
def initBody (s : State) (p : Nat) : List (BitVec 8) :=
  toBytes (devNo s).toNat 2 ++ ([BitVec.ofNat 8 p] ++ (toBytes s.svc.dims.toNat 2 ++ ([BitVec.ofNat 8 ((portDir s p).getD 15)]
    ++ (List.range 16).foldl (fun (a : List (BitVec 8)) cc => a ++ toBytes (tgetD fullCredits cc 0) 2) [])))

/-- Step 3 of R327 begins: the replay buffer and the credits are reset and INIT is sent. -/
def sendInit (s : State) (p : Nat) : State :=
  let s := s.setPort p { s.port p with st := .init, replay := [], partial_ := [], credits := fullCredits, owed := [], txq := [], txRest := [], txSeq := 0, rxSeq := 0,
                                       ackSeq := 0xFFFF, recovery := false, naks := 0, sentNaks := 0 }
  sendFlit s p 4 (initBody s p)

/-- The locked lanes name each logical position (R325). -/
def lanesFull (q : Port) : Bool := (List.range 4).all fun k => q.lanePos.any fun e => q.locked.getLsbD e.1 && e.2.toNat == k

/-- A lane gains codeword lock and names its logical position (R325); the port goes on once every trained lane has, and the positions
are complete. -/
def laneLock (s : State) (p : Nat) (lane pos : BitVec 3) : State :=
  let q := s.port p
  if (4 ≤ pos.toNat ∧ pos.toNat < 7) ∨ !(q.trained.getLsbD lane.toNat) ∨ (q.st ≠ .training ∧ q.st ≠ .init ∧ q.st ≠ .up) then s
  else
    let q := { q with locked := q.locked ||| ((1 : BitVec 5) <<< lane.toNat), lanePos := tset q.lanePos lane.toNat pos }
    let s := s.setPort p q
    if q.st = .training ∧ q.locked = q.trained ∧ lanesFull q then sendInit s p else s

def execCodewordLock (port : BitVec 4) (lane pos : BitVec 3) (s : State) : Out := .next (laneLock s port.toNat lane pos).tick

/-- The neighbour in a direction (R337). -/
def neighbour (s : State) (dir : Nat) : BitVec 16 :=
  let d := dir / 2
  let k := dimSize s d
  let c := coordOf (devNo s) d
  putN (devNo s) (4 * d) 4 (if dir % 2 = 0 then (c + 1) % k else (c + k - 1) % k)

/-- INIT (R327 step 3): the peer must be the neighbour of the port's direction, and its port must serve the opposite one. -/
def initIn (s : State) (p : Nat) (f : Flit) : State :=
  let q := s.port p
  if q.st = .up ∧ q.hold = 0 then s
  else
    let dev := BitVec.ofNat 16 (ofBytes (f.area.take 2))
    let ok : Bool := match portDir s p with
      | some d => dev == neighbour s d && (f.area.getD 5 0).toNat == (if d % 2 = 0 then d + 1 else d - 1)
      | none => false
    if ok then
      let s := if q.st = .up then sendInit s p else s
      portEvent (s.setPort p { s.port p with st := .up, peerDev := dev, peerPort := (f.area.getD 2 0).setWidth 4, hold := 0, reroute := false }) p 0
    else if q.st = .up then portDown s p 3
    else logFault (s.setPort p { q with st := .down }) 0x09 0 p 0xFFFF 0 [BitVec.ofNat 8 p, 3]

def execInitFlit (port : BitVec 4) (f : Flit) (s : State) : Out := .next (onFlit s port.toNat 4 f fun s => initIn s port.toNat f).tick

/-- HOLD: of a warm start (1), a fence (2) or SAFE (3). -/
def execHoldFlit (port : BitVec 4) (f : Flit) (s : State) : Out :=
  .next (onFlit s port.toNat 6 f fun s =>
    let b := f.area.getD 0 0
    if (s.port port.toNat).st = .up ∧ 1 ≤ b.toNat ∧ b.toNat ≤ 3 then s.setPort port.toNat { s.port port.toNat with hold := b } else s).tick

/-- No good flit for 10 µs (R333). -/
def execLinkSilenceTimeout (port : BitVec 4) (s : State) : Out :=
  let q := s.port port.toNat
  .next (if q.st = .up ∧ !q.lowPower then portDown s port.toNat 0 else s).tick

/-- Modes in which ports run (R438, R446). -/
def portsRun (m : Mode) : Bool := match m with | .off | .standby | .loader => false | _ => true

/-- A port runs in the mode: in LOADER port 0 while an image is relayed (R432, R438). -/
def portRuns (s : State) (p : Nat) : Bool := portsRun s.mg.mode || (s.mg.mode == .loader && (s.mg.start.relay && p == 0))

/-- The retry of a port that is not UP (R327). -/
def execPortRetry (port : BitVec 4) (s : State) : Out :=
  let q := s.port port.toNat
  .next (if portRuns s port.toNat ∧ portWanted s port.toNat ∧ q.st ≠ .up then portTrain s port.toNat else s).tick

/-- reroute_hold has passed for a port that carries no traffic (R341). -/
def execRerouteHoldExpiry (port : BitVec 4) (s : State) : Out :=
  .next (if usable s port.toNat then s else s.setPort port.toNat { s.port port.toNat with reroute := true }).tick

/-- Low-power idle (R445). -/
def execLowPowerIdleEntry (port : BitVec 4) (s : State) : Out :=
  let q := s.port port.toNat
  .next (if s.mg.mode = .drowse ∧ q.st = .up then s.setPort port.toNat { q with lowPower := true } else s).tick

/-- HOLD flits on every UP port with a body byte. -/
def holdPorts (s : State) (b : BitVec 8) : State :=
  (List.range 16).foldl (fun s p => if (s.port p).st = .up then sendFlit s p 6 [b] else s) s

/-- The HOLD flits of SAFE (R440). -/
def execSafeHoldTick (s : State) : Out := .next (if s.mg.mode = .safe then holdPorts s 3 else s).tick

/-! ## Fences (R346, R350) -/

/-- Fences a port. -/
def fencePort (s : State) (p : Nat) : State :=
  let s := setDval s 0x0C12 (p + 1) 1
  if (s.port p).fence then s
  else
    let s := s.setPort p { s.port p with fence := true, st := .fenced, partial_ := [], recovery := false, lowPower := false }
    groupsLink (portEvent (sendFlit s p 6 [2]) p 3) p

/-- Unfences a port: it is retried under R327. -/
def unfencePort (s : State) (p : Nat) : State :=
  let s := setDval s 0x0C12 (p + 1) 0
  if (s.port p).fence then portEvent (s.setPort p { s.port p with fence := false, st := .down, replay := [], txq := [], txRest := [] }) p 3 else s

/-! ## Transit (R338 to R341) -/

/-- The direction of the ordered route's next hop, whether the message begins the dimension, and its dateline class there
(R338). -/
structure Hop where
  dir    : Nat
  begins : Bool
  d1     : Bool
  deriving DecidableEq, Repr

/-- The class after a hop in a direction (R338). -/
def hopClass (s : State) (dir : Nat) (begins d1 : Bool) : Bool :=
  let d := dir / 2
  let c := coordOf (devNo s) d
  (!begins && d1) || (if dir % 2 = 0 then c + 1 == dimSize s d else c == 0)

/-- The ordered next hop: the first dimension with distance left; a message that travels in it keeps its direction.
`at_` is the port on which a message of an ordered route arrived. -/
def nextHop (s : State) (dest : BitVec 16) (at_ : Option Nat) (d1 : Bool) : Option Hop :=
  match (List.range 4).find? fun d => plusDist s (devNo s) dest d != 0 with
  | none => none
  | some d =>
    let k := dimSize s d
    let n := plusDist s (devNo s) dest d
    let short := 2 * d + (if n ≤ k - n then 0 else 1)
    match at_.bind (portDir s) with
    | some a =>
      if a / 2 = d then
        let dir := if a % 2 = 0 then a + 1 else a - 1
        some ⟨dir, false, hopClass s dir false d1⟩
      else some ⟨short, true, hopClass s short true d1⟩
    | none => some ⟨short, true, hopClass s short true d1⟩

/-- The credit class of a channel (R334). -/
def creditClass (vc : Nat) (d1 : Bool) : Nat := if d1 then 8 + vc else vc

/-- What a router does with a message: onward on a link and channel, wait, or discard. -/
inductive Route where
  | onward (port vc : Nat) (d1 : Bool)
  | wait
  | discard
  deriving DecidableEq, Repr

/-- The ordered route of a message on a channel (R337, R338). A link that carries no traffic keeps its messages, which
wait, until reroute_hold has passed for it (R341). -/
def orderedRoute (s : State) (h : Hdr) (vc : Nat) (at_ : Option Nat) (len : Nat) (d1 : Bool) : Route :=
  match nextHop s h.dest at_ d1 with
  | none => .discard
  | some hop =>
    let key := if 6 ≤ vc then h.lcn.toNat else h.src.toNat
    let via := fun (dir : Nat) (d1 : Bool) =>
      let ls := (linksOf s dir).filter fun p => carries s p h.dest vc || !(s.port p).reroute
      match ls[key % max 1 ls.length]? with
      | some p => some (if carries s p h.dest vc && decide (len ≤ tgetD (s.port p).credits (creditClass vc d1) 0) then Route.onward p vc d1 else .wait)
      | none => none
    match via hop.dir hop.d1 with
    | some r => r
    | none =>
      if hop.begins then
        let dir := if hop.dir % 2 = 0 then hop.dir + 1 else hop.dir - 1
        (via dir (hopClass s dir true d1)).getD .wait
      else .discard

/-- The route of a message that arrived on a port, or of the device's own. -/
def routeOf (s : State) (h : Hdr) (vc : Nat) (at_ : Option Nat) (len : Nat) (d1 : Bool) : Route :=
  if vc = 3 then .discard
  else if s.mg.mode = .safe ∧ vc ≠ 4 then .discard
  else if vc < 2 then
    let ls := ((towards s h.dest).foldl (fun (l : List Nat) dir => l ++ linksOf s dir) []).filter fun p =>
      carries s p h.dest vc && decide (len ≤ tgetD (s.port p).credits vc 0)
    let best := ls.foldl (fun (b : Option Nat) p =>
      match b with
      | none => some p
      | some a =>
        let ca := tgetD (s.port a).credits vc 0
        let cp := tgetD (s.port p).credits vc 0
        if ca < cp ∨ (ca = cp ∧ p < a) then some p else b) none
    match best with
    | some p => .onward p vc false
    | none => orderedRoute s h (6 + vc) none len d1
  else orderedRoute s h vc at_ len d1

end Sys2Proof.Machine
end

