-- ==== Sys2Proof/Machine/Modes.lean ====
section
/-! DEFINITION. Operating modes (R438 to R444): entry to a mode, start triggers (R419, R420, R507), failed starts (R436), SAFE
and the last-gasp snapshot (R482). -/

namespace Sys2Proof.Machine

/-! ## Entering a mode -/

/-- mode_base of a mode (R438). -/
def modeBase (m b : Mode) : Mode := match m with | .drowse | .quiesce | .hold => b | _ => m

/-- The end of a transition (R442 step 3): source 0xA2 and MSI-X vector 3 signal, mode and mode_base are updated. -/
def enterMode (s : State) (m b : Mode) : State :=
  let info := m.num + 16 * s.mg.mode.num + 256 * (modeBase m b).num
  let s := msix (signal s 0xA2 (BitVec.ofNat 64 info)) 3
  { s with mg := { s.mg with mode := m, base := modeBase m b, trans := none } }

/-- A change of start_status sends MSI-X vector 1 (R435). -/
def setStatus (s : State) (code : Nat) : State :=
  if dval s 0x2000 0x01 = code then s else msix (setDval s 0x2000 0x01 code) 1

/-- start_step (R437). -/
def setStep (s : State) (n : Nat) : State := setDval s 0x2000 0x03 n

/-- Commits the value of a persistent entry (R453): kind 4 for the start counters, 5 for other entries (R483). -/
def persistVal (s : State) (kind i j : Nat) : State :=
  persist s kind (toBytes i 2 ++ ([BitVec.ofNat 8 j] ++ toBytes (dval s i j) 8))

/-- Modes in which a start can be triggered: LOADER or later (R419). -/
def startable (m : Mode) : Bool := match m with | .off | .standby => false | _ => true

/-! ## The repair map -/

/-- The site within its tile of a logical core. -/
def siteIn (s : State) (c : Nat) : Nat := siteOf s c % 9

/-- The spare site of a tile, when it is free (R477): the site that no logical core of the tile is on. -/
def spareSite (s : State) (t : Nat) : Option Nat :=
  if (List.range 8).any fun k => (s.core (8 * t + k)).life == .substituted then none
  else (List.range 9).find? fun j => (List.range 8).all fun k => siteIn s (8 * t + k) != j

/-- core_map (0x1400.01). -/
def coreMap (s : State) : List (BitVec 8) :=
  (List.range 256).map (fun c => BitVec.ofNat 8 (siteIn s c)) ++ (List.range 32).map fun t => BitVec.ofNat 8 ((spareSite s t).getD 0xFF)

/-! ## Resetting the blocks -/

/-- The blocks at a start or without power: every register at its reset value; what lies in the repair map, the memory and
its diagnosis, dead tiles, and on a warm start the lanes of the ports (R327) stays. -/
def resetBlocks (s : State) (warm : Bool) : State :=
  let core := fun (c : Core) => ({ life := c.life, site := c.site, dead := c.life == .retired } : Core)
  let port := fun (q : Port) =>
    if warm then ({ trained := q.trained, locked := q.locked, lanePos := q.lanePos, rxFailed := q.rxFailed, txFailed := q.txFailed,
                    spare := q.spare, failed := q.failed, sentFl := q.sentFl } : Port)
    else { sentFl := q.sentFl }
  let mc := fun (m : Mc) => ({ units := m.units, groups := m.groups, rows := m.rows, lanes := m.lanes } : Mc)
  { State.reset with
    pending := s.pending, free := s.free, seq := s.seq,
    cores := s.cores.map fun c => (c.1, core c.2),
    tiles := s.tiles.map fun t => (t.1, { dead := t.2.dead, waysOut := t.2.waysOut, deadEv := t.2.deadEv }),
    mem := { s.mem with mcs := s.mem.mcs.map fun m => (m.1, mc m.2), armed := [] },
    ports := s.ports.map fun p => (p.1, port p.2),
    remote := { sent := s.remote.sent, forwarded := s.remote.forwarded, taken := s.remote.sent.length },
    host := s.host, mg := { s.mg with held := [], boxes := [], xlateLog := [], pd := [], pdPend := [], quiet := [], mirror := [] }, sark := s.sark, pins := s.pins }

/-- An entry keeps its value at a start trigger (R453): a persistent one, and those that report starts and keys. -/
def survives (k : Nat) : Bool :=
  match dictEntry (k / 256) (k % 256) with
  | some e => e.p || ((e.index == 0x2000 && k != 0x200009) || e.index == 0x2010)
  | none => false

/-- What a start trigger resets beside the blocks: dictionary entries (R453), host registers (R413), staging on a cold start
(R411), LOCKUP_N and SAFE_N (R480). -/
def resetPlane (s : State) (warm : Bool) : State :=
  let h := s.host
  let st := s.mg.start
  let host : HostIf := { vecs := h.vecs, sentMsi := h.sentMsi, staging := if warm then h.staging else [], link := h.link, perst := h.perst,
                         master := h.master, barSize := h.barSize, writes := h.writes, replies := h.replies, spdm := h.spdm }
  let start : Start := { pendWarm := warm, verified := warm && st.verified, ownerHash := st.ownerHash, fuse := st.fuse, burning := st.burning }
  { s with
    host := host,
    mg := { s.mg with waiting := [], start := start, dict := s.mg.dict.filter fun e => survives e.1, blobs := s.mg.blobs.filter fun e => survives e.1 },
    sark := { s.sark with last := none, drops := [], counts := [] },
    pins := { s.pins with lockup := false, safe := false } }

/-! ## Start triggers -/

/-- Step 1 of a start, towards LOADER. -/
def beginStart (s : State) (warm : Bool) : State :=
  let s := setStep (resetPlane (resetBlocks s warm) warm) 1
  let s := setDval s 0x2000 0x02 (if warm then 2 else 1)
  { s with mg := { s.mg with trans := some ⟨.loader, .loader, []⟩ } }

/-- Lines that a cache holds newer than memory, or that a core or a message carries (R507). -/
def dirtyLines (s : State) : List Nat :=
  let l1 := s.cores.foldl (fun (l : List Nat) c => l ++ (c.2.l1d.filter fun e =>
    match e.2.st with | .m | .o | .omA => true | .xiA => e.2.dirty | _ => false).map fun e => e.1) []
  let l2 := s.tiles.foldl (fun (l : List Nat) t => if t.2.dead then l else l ++ (t.2.l2.filter fun e => e.2.dirty).map fun e => e.1) []
  let fly := s.mesh.filterMap fun m => match m.kind with | .datm | .wbd | .ackd => some m.line | _ => none
  l1 ++ (l2 ++ fly)

/-- Every home makes memory hold the current data of its lines (R507). -/
def writeback (s : State) : State :=
  (dirtyLines s).foldl (fun s line => if deadHome s line then s else writeMemLine s line (curLine s line)) s

/-- A committed trained-values record of this repair map exists (R420). -/
def trainedOk (s : State) : Bool :=
  match (s.sark.store.filter fun r => r.kind == 2 && r.commit).getLast? with
  | some r => r.payload == coreMap s
  | none => false

/-- A warm trigger stays warm (R420): trained values exist, fewer than three starts failed, and SAFE, if the device is in
it, was not entered for CLOCK, VOLTAGE, THERMAL or SARKING (R507). -/
def warmOk (s : State) : Bool :=
  let c := s.mg.start.safeClass
  trainedOk s && (decide (dval s 0x2000 0x05 < 3) && !(s.mg.mode == .safe && (c == 0x0B || (c == 0x0C || (c == 0x0D || c == 0x10)))))

/-- A warm trigger: HOLD flits on every UP port, LOCKUP_N released; the writeback begins, or is empty (R420, R507). -/
def beginWarm (s : State) : State :=
  let s := holdPorts s 1
  let s := { s with pins := { s.pins with lockup := false } }
  if dirtyLines s = [] ∧ (s.cores.all fun c => c.2.stores == []) then beginStart s true
  else { s with mg := { s.mg with waiting := [], trans := some ⟨.loader, .loader, []⟩, start := { s.mg.start with wbDone := false, pendWarm := true } } }

/-- A start trigger of R419 in LOADER or later. -/
def trigger (s : State) (warm : Bool) : State :=
  if !startable s.mg.mode then s else if warm && warmOk s then beginWarm s else beginStart s false

/-- The writeback of a warm start ends (R507); one that does not complete makes the start cold (R420). -/
def writebackDone (s : State) (ok : Bool) : State :=
  if s.mg.start.wbDone then s
  else
    let s := { s with mg := { s.mg with start := { s.mg.start with wbDone := true } } }
    if ok then beginStart (writeback s) true else beginStart s false

/-- Asks the peer of port 0 for image data (R347, R432). -/
def askImage (s : State) (off : Nat) : State :=
  sendMsg s ⟨⟨s.port 0 |>.peerDev, devNo s, 0xFFFF, .sys, true, 0, 0⟩, 4, .imgreq 0 (BitVec.ofNat 32 off)⟩

/-- The torus dimensions and coordinates that the ports train with (R325, R336). -/
def takeDims (s : State) : State :=
  { s with svc := { s.svc with dims := BitVec.ofNat 16 (dval s 0x0C00 1), coord := BitVec.ofNat 16 (dval s 0x0C00 2) } }

/-- A link trains, or resumes after a warm start (R327, R434). -/
def startPort (s : State) (p : Nat) : State :=
  let q := s.port p
  if !portWanted s p ∨ q.st = .up ∨ q.st = .init then s
  else if s.mg.start.pendWarm ∧ q.trained ≠ 0 ∧ q.locked = q.trained then sendInit s p
  else portTrain s p

/-- Entry to LOADER: without a PCIe link port 0 is powered, and the image is asked for there (R432, R438). -/
def enterLoader (s : State) : State :=
  let s := setStep (enterMode s .loader .loader) 2
  if s.host.link = 1 then s
  else
    let s := { s with mg := { s.mg with pd := tset s.mg.pd 56 .on, start := { s.mg.start with relay := true, relayLen := 0, relayGot := 0 } } }
    askImage (startPort (takeDims s) 0) 0

/-- A failed start (R436): the device returns to LOADER with the code, what it concerns, and the step. -/
def failStart (s : State) (code arg : Nat) : State :=
  let step := dval s 0x2000 0x03
  let fails := min 255 (dval s 0x2000 0x05 + 1)
  let s := persistVal (setDval s 0x2000 0x05 fails) 5 0x2000 0x05
  let s := setDval s 0x2000 0x06 (code + 2 ^ 8 * (arg % 2 ^ 16) + 2 ^ 24 * (step % 256))
  let s := setStatus s (if 3 ≤ fails then 0x30 else code)
  let s := resetBlocks s false
  let st := s.mg.start
  let s := { s with mg := { s.mg with start := { st with running := false, verifying := false, relay := false, relayLen := 0, bist := false, memDone := false } } }
  let s := enterMode s .loader .loader
  setStep s step

/-! ## SAFE -/

/-- The modes from which SAFE and the other reactions act (R441). -/
def reacting (m : Mode) : Bool :=
  match m with | .service | .drowse | .quiesce | .hold | .degraded | .recovery => true | _ => false

/-- The device is taken to SAFE for a class (R441, R443, R480); in BRINGUP and SELFTEST the start fails with BIST. -/
def toSafe (s : State) (cls : Nat) : State :=
  if starting s then s
  else match s.mg.mode with
  | .bringup | .selftest => failStart s 0x22 0
  | m =>
    if reacting m then
      { s with pins := { s.pins with safe := true },
               mg := { s.mg with trans := some ⟨.safe, .safe, affected s⟩, waiting := [], start := { s.mg.start with safeClass := BitVec.ofNat 8 cls } } }
    else s

/-- The bits of a directory entry (R61). -/
def dirBits (d : Dir) : Nat :=
  d.state.num + 2 ^ 4 * d.prio.toNat + 2 ^ 6 * d.owner.num + 2 ^ 7 * b2n d.dying + 2 ^ 8 * d.heldFrom.num + 2 ^ 12 * d.gen.toNat + 2 ^ 28 * d.events.toNat
    + 2 ^ 44 * d.mask.toNat + 2 ^ 60 * d.wait.toNat + 2 ^ 63 * b2n d.fault + 2 ^ 64 * d.deadline.toNat + 2 ^ 96 * d.storesOut.toNat
    + 2 ^ 108 * b2n d.accessOut + 2 ^ 109 * d.stub.toNat

/-- LA_STAT (R349). -/
def PortSt.num : PortSt → Nat
  | .down => 0 | .training => 1 | .init => 2 | .up => 3 | .fenced => 4
def laStat (q : Port) : Nat :=
  q.st.num + 8 * b2n q.spare + 16 * q.failed.toNat + 2 ^ 7 * q.peerDev.toNat + 2 ^ 23 * q.peerPort.toNat

/-- A fault record's 64 bytes (R481); the ticks since the trigger are free. -/
def frecBytes (r : FRec) : List (BitVec 8) :=
  toBytes r.seq.toNat 4 ++ ([r.cls, r.react, BitVec.ofNat 8 r.mode.num, 0] ++ (toBytes (Config.freeValue r.seq.toNat 30).toNat 8
    ++ (toBytes r.start.toNat 4 ++ (toBytes r.unit.toNat 2 ++ (toBytes r.site.toNat 2 ++ (toBytes r.addr.toNat 8 ++ (r.detail ++ List.replicate (32 - r.detail.length) 0)))))))


/-- Power states as pd_state reports them (R450). -/
def Power.num : Power → Nat
  | .off => 0 | .on => 1 | .nap => 2 | .doze => 3 | .retention => 4

/-- pd_state of a domain (R438, R450): a tile's own state, the domain's otherwise; PCIe and the always-on domain run from STANDBY, and
in SAFE tiles and memories are in retention, Valley and Cowslip without power. -/
def pdState (s : State) (d : Nat) : Nat :=
  let safe := s.mg.mode == .safe
  let p := if d < 32 then (s.tile d).power else tgetD s.mg.pd d (if 74 ≤ d ∧ s.mg.mode ≠ .off then .on else .off)
  if safe ∧ d < 56 ∧ p ≠ .off then 4 else if safe ∧ (d = 72 ∨ d = 73) then 0 else p.num

/-- A record of the snapshot. -/
def snapRec (ty : Nat) (body : List (BitVec 8)) : List (BitVec 8) :=
  toBytes ty 2 ++ (toBytes 0 2 ++ (toBytes body.length 4 ++ (body ++ List.replicate ((8 - body.length % 8) % 8) 0)))

/-- The last-gasp snapshot (R482). -/
def snapshot (s : State) : List (BitVec 8) :=
  let l (f : Nat → List (BitVec 8)) (n : Nat) := (List.range n).foldl (fun a i => a ++ f i) []
  let dirs := (List.range 40960).foldl (fun (a : List (BitVec 8)) n => if coreLive s (coreOf n) then a ++ toBytes (dirBits (s.ctx n).dir) 16 else a) []
  let body := snapRec 1 (s.sark.waiting.foldl (fun (a : List (BitVec 8)) r => a ++ frecBytes r) [])
    ++ (snapRec 2 ([BitVec.ofNat 8 s.mg.mode.num, BitVec.ofNat 8 s.mg.base.num] ++ l (fun d => [BitVec.ofNat 8 (pdState s d)]) 76)
    ++ (snapRec 3 dirs ++ (snapRec 4 (l (fun p => toBytes (laStat (s.port p)) 8) 16)
    ++ snapRec 5 (l (fun m => toBytes (mcState s m) 8 ++ toBytes (s.mc m).lastUe.toNat 8) 24))))
  let seq := match s.sark.last with | some r => r.seq.toNat | none => 0
  [0x53, 0x4E, 0x41, 0x50] ++ (toBytes (16 + body.length) 4 ++ (toBytes seq 4 ++ ([0, 0, 0, 0] ++ body)))

/-- CRC-32 of IEEE 802.3 over bytes, reflected (R483). -/
def crc32 (bs : List (BitVec 8)) : BitVec 32 :=
  let bit := fun (c : BitVec 32) (_ : Nat) => if c.getLsbD 0 then (c >>> 1) ^^^ 0xEDB88320 else c >>> 1
  ~~~(bs.foldl (fun (c : BitVec 32) b => (List.range 8).foldl bit (c ^^^ b.setWidth 32)) 0xFFFFFFFF)

/-- A record of the persistent store as the flash holds it (R483): header, payload, CRC, and the commit word of one that exists. -/
def flashBytes (r : PRec) : List (BitVec 8) :=
  let body := toBytes r.kind.toNat 2 ++ (toBytes 1 2 ++ (toBytes r.seq 4 ++ (toBytes r.payload.length 4 ++ ([0, 0, 0, 0] ++
    (r.payload ++ List.replicate ((4 - r.payload.length % 4) % 4) 0)))))
  body ++ (toBytes (crc32 body).toNat 4 ++ (if r.commit then toBytes 0x5A5AC0DE 4 else List.replicate 4 0xFF))

/-- Writes the snapshot in place of the previous one. -/
def takeSnapshot (s : State) : State :=
  let b := snapshot s
  persist { s with sark := { s.sark with snap := b } } 7 b

/-! ## Commands that trigger starts -/

def execStartCmdResetCold (s : State) : Out := .next (trigger s false).tick
def execStartCmdResetWarm (s : State) : Out := .next (trigger s true).tick

/-- start_cmd LOAD, and what R467 takes to LOADER from STANDBY: a cold start is pending. -/
def loadCmd (s : State) : State :=
  if s.mg.mode = .standby ∧ s.mg.trans.isNone then
    enterLoader (setDval (resetPlane (resetBlocks s false) false) 0x2000 0x02 1)
  else s

def execStartCmdLoad (s : State) : Out := .next (loadCmd s).tick

/-- FORCE of start_cmd (R467). -/
def forceStart (s : State) (warm : Bool) : State := if s.mg.mode = .standby then loadCmd s else trigger s warm

def execForceStartCold (s : State) : Out := .next (forceStart s false).tick
def execForceStartWarm (s : State) : Out := .next (forceStart s true).tick
def execWarmWritebackComplete (ok : Bool) (s : State) : Out := .next (writebackDone s ok).tick

/-- PWROK rises (R419, R501): the boot ROM runs towards STANDBY with a cold start pending. -/
def pwrokUp (s : State) (slot : BitVec 2) : State :=
  if s.pins.pwrok then s
  else
    let s := setStep { s with pins := { s.pins with pwrok := true, boardSlot := slot } } 1
    { s with mg := { s.mg with trans := some ⟨.standby, .standby, []⟩, start := { s.mg.start with pendWarm := false } } }

def execPwrokRise (boardSlot : BitVec 2) (s : State) : Out := .next (pwrokUp s boardSlot).tick

/-- PWROK falls (R441, R499): everything but the persistent store, the fuses and the repair map is lost. -/
def pwrokDown (s : State) : State :=
  let keep := s.mg.blobs.filter fun e => survives e.1
  let perm := s.mg.dict.filter fun e => match dictEntry (e.1 / 256) (e.1 % 256) with | some d => d.p || e.1 == 0x2010 * 256 + 2 | none => false
  let core := fun (c : Core) => ({ life := c.life, site := c.site, dead := c.life == .retired } : Core)
  { State.reset with
    pending := s.pending, free := s.free, seq := s.seq,
    cores := s.cores.map fun c => (c.1, core c.2), tiles := s.tiles.map fun t => (t.1, { dead := t.2.dead, waysOut := t.2.waysOut, deadEv := t.2.deadEv }),
    mem := { moved := s.mem.moved, homes := s.mem.homes,
             mcs := s.mem.mcs.map fun m => (m.1, { units := m.2.units, groups := m.2.groups, rows := m.2.rows, lanes := m.2.lanes }) },
    remote := { sent := s.remote.sent, forwarded := s.remote.forwarded, taken := s.remote.sent.length },
    mg := { dict := perm, blobs := keep, start := { ownerHash := s.mg.start.ownerHash, fuse := s.mg.start.fuse } },
    sark := { nextSeq := s.sark.nextSeq, snap := s.sark.snap, log := s.sark.log, store := s.sark.store, storeSeq := s.sark.storeSeq,
              bankPend := s.sark.bankPend, withdrawn := s.sark.withdrawn, bankUsed := s.sark.bankUsed } }

def execPwrokFall (s : State) : Out := .next (pwrokDown s).tick

/-- SYS_RST_N low for 50 µs (R419, R501): ignored in STANDBY; with PWROK low it holds the device in step 1. -/
def sysRst (s : State) (warm : Bool) : State :=
  match s.mg.mode with
  | .off => { s with pins := { s.pins with sysRst := true } }
  | .standby => s
  | _ => trigger s warm

def execSysRstNAssert (warmHigh : Bool) (s : State) : Out := .next (sysRst s warmHigh).tick
def execSysRstNRelease (s : State) : Out := .next ({ s with pins := { s.pins with sysRst := false } }).tick

/-- The boot ROM has run (R433 step 1): STANDBY after PWROK, else LOADER. -/
def bootDone (s : State) : State :=
  match s.mg.trans with
  | some t =>
    if s.pins.sysRst ∨ !s.mg.start.wbDone then s
    else if t.target = .standby then enterMode s .standby .standby
    else if t.target = .loader then enterLoader s
    else s
  | none => s

def execBootRomDone (s : State) : Out := .next (bootDone s).tick

end Sys2Proof.Machine
end

