-- ==== Sys2Proof/Machine/Sarking.lean ====
section
/-! DEFINITION. Sarking (R469 to R488): the classes of the safety table, cores and tiles declared dead, periodic checks,
self-tests, wear and spares, and the power domains (R448) that its reactions gate. -/

namespace Sys2Proof.Machine

/-! ## Cores and tiles declared dead (R476 to R478) -/

/-- A record becomes FREE at once, one generation above the one it held at the declaration, a dying one too (R476). -/
def endRecord (s : State) (n : Nat) : State :=
  let c := s.ctx n
  let s := if c.dir.state = .stub then { s with remote := { s.remote with stubs := tdel s.remote.stubs c.dir.stub.toNat } } else s
  s.setCtx n { dir := { gen := c.dir.gen + 1 } }

/-- The slots of a core's operations are freed, so that every later answer is late (R476). -/
def freeCoreOps (s : State) (core : Nat) : State :=
  let mine := fun (o : OutOp) => match o.owner with
    | .exec (.ctx n) => coreOf n.toNat == core
    | .exec (.fic k) => k.toNat == core
    | _ => false
  let ks := s.remote.ops.filterMap fun o => if mine o.2 then some o.1 else none
  if ks = [] then s else wakeSlotWaits (ks.foldl freeOpSlot s)

/-- The core that takes what was directed to a core that is retired (R476 step 3). -/
def successor (s : State) (core : Nat) : Option Nat :=
  let t := tileOf core
  (((List.range 8).map fun k => 8 * t + k) ++ List.range 256).find? (coreLive s)

/-- Pending interrupts and routes of a retired core go to its successor. -/
def redirect (s : State) (core : Nat) : State :=
  match successor s core with
  | none => s
  | some d =>
    let p := (s.core core).fic.pending
    let nmi := (s.core core).fic.nmi
    let s := (List.range 256).foldl (fun s src =>
      let r := dval s 0x3080 src
      if r % 4 = 1 ∧ r / 4 % 256 = core then setDval s 0x3080 src (r - 4 * core + 4 * d) else s) s
    let s := p.foldl (fun s e => pendFic s d e.1 e.2) s
    let s := if nmi then s.modCore d fun c => { c with fic := { c.fic with nmi := true } } else s
    s.modCore core fun c => { c with fic := { c.fic with pending := [], nmi := false } }

/-- The bitmap of R481. -/
def recordBits (s : State) (core : Nat) : List (BitVec 8) :=
  toBytes ((List.range 160).foldl (fun a i => if (s.ctx (core * 160 + i)).dir.state = .free then a else a + 2 ^ i) 0) 20

/-- A core stops: its records end and what it held is gone; the homes reclaim its lines afterwards (R250). -/
def stopCore (s : State) (core : Nat) : State :=
  let s := freeCoreOps s core
  let s := (List.range 160).foldl (fun s i => endRecord s (core * 160 + i)) s
  s.modCore core fun c => { l1d := c.l1d, l1i := c.l1i, fic := { pending := c.fic.pending, nmi := c.fic.nmi }, life := c.life, site := c.site, dead := true,
                            cfg := c.cfg, bypass := c.bypass }

/-- The reaction of a class (R479): SAFE where react selects it. -/
def react (s : State) (cls : Nat) : State := if dval s 0x1001 cls = 1 then toSafe s cls else s

/-- A core is declared dead: the spare site takes its number when it is free and every generation could be read, or the core
is retired (R477). -/
def declareCore (s : State) (core cls : Nat) (addr : BitVec 64) (sub : Bool) : State :=
  if !coreLive s core then s
  else
    let intact : Bool := cls != 3 || Config.choice s.free 48 % 2 == 0
    let site := siteOf s core
    let free := (spareSite s (tileOf core)).isSome
    let spare := if sub && intact then spareSite s (tileOf core) else none
    let bits := recordBits s core
    let s := (stopCore s core).modCore core fun c => { c with deadEv := s.sark.nextSeq }
    let s := match spare with
      | some j => let s := s.modCore core fun c => { c with life := .substituted, site := some (9 * tileOf core + j) }
                  persist s 1 (coreMap s)
      | none => redirect (s.modCore core fun c => { c with life := .retired }) core
    let s := logFault s cls 3 core site addr (bits ++ [BitVec.ofNat 8 (b2n spare.isSome)])
    if spare.isSome ∨ !sub then s else if free then toDegraded s else spareExhausted s 0 core

/-- RECOVERY after a tile died (R441). -/
def toRecovery (s : State) : State :=
  match s.mg.mode with
  | .service | .drowse | .quiesce | .hold | .degraded => beginTrans s .recovery .recovery
  | _ => s

/-- The waits on words whose home is a tile's share are compared again (R74, R251). -/
def recompareShare (s : State) (t : Nat) : State :=
  s.ctxs.foldl (fun s e => match e.2.monitor with
    | some (key, _) => if homeTile s (key / 8) = t then recompare s (key / 8) else s
    | none => s) s

/-- A tile is declared dead (R478, R251, R275). -/
def declareTile (s : State) (t cls : Nat) (addr : BitVec 64) : State :=
  if (s.tile t).dead ∨ 32 ≤ t then s
  else
    let s := (logFault s cls 3 t 0xFFFF addr []).modTile t fun x => { x with deadEv := s.sark.nextSeq }
    let s := (List.range 8).foldl (fun s k => declareCore s (8 * t + k) cls 0 false) s
    let old := s.tile t
    let reqs := (old.sf.filterMap fun e => e.2.txn.map fun x => x.req) ++ (old.sf.filterMap fun e => e.2.txn.bind fun x => x.queued) ++ old.prioQ
    let s := s.setTile t { old with dead := true, l2 := [], sf := [], reps := [], prioQ := [], waking := false }
    let s := reqs.foldl (fun s r => if r.kind = .evict then s else deadAnswer s r) s
    let s := s.setSq (64 + t) { s.sq (64 + t) with st := .faulted, fault := 0xFF, done := true, ld := none, waitM := none }
    let s := seqDone { s with tlbs := tdel s.tlbs (320 + t) } (64 + t)
    let s := recompareShare s t
    let s := setDval s 0x1400 0x06 (Nat.lor (dval s 0x1400 0x06) 64)
    toRecovery (persistVal s 5 0x1400 0x06)

/-! ## Power domains (R448) -/

/-- The state with a domain's power. -/
def setPd (s : State) (d : Nat) (p : Power) : State := { s with mg := { s.mg with pd := tset s.mg.pd d p } }

/-- Cowslip powers down after its bound (R448): groups still busy enter ERROR with MODE, sequencers stop. -/
def cowslipOff (s : State) : State :=
  let s := groupsError s (fun _ _ => true) 0x08
  powerDomain ((List.range 4).foldl (fun s k => seqHalt s (96 + k)) s) 73

/-- Affects the channels that a power-down concerns (R382) and lets the domain go when none keeps it. -/
def askDrain (s : State) (d : Nat) : State :=
  drainCheck { s with mg := { s.mg with pdPend := s.mg.pdPend ++ [d] } }

/-- Gating through the operations that always complete (R448, R467). -/
def gateDomain (s : State) (d : Nat) : State :=
  let forced := fun (s : State) (safe : Bool) => logFault s 0x16 (if safe then 2 else 1) d 0xFFFF 0 []
  let s := if d < 75 then setDval s 0x0420 (d + 1) 1 else s
  if d < 32 then
    let s := declareTile (forced s false) d 0x16 0
    s.modTile d fun t => { t with power := .off }
  else if d < 40 then setPd (toSafe (forced s true) 0x16) d .off
  else if d < 56 then
    if served s (d - 40) then setPd (toSafe (forced s true) 0x16) d .off else setPd (toDegraded (forced s false)) d .off
  else if d < 72 then powerDomain (fencePort (toDegraded (forced s false)) (d - 56)) d
  else if d = 72 then drainTimeout (askDrain (toDegraded (forced s false)) 72) 72
  else if d = 73 then cowslipOff (toDegraded (forced s false))
  else if d = 74 then
    let s := setPd (toDegraded (forced s false)) 74 .off
    setLink s 0
  else s

def execForceGateDomain (dom : BitVec 7) (s : State) : Out := .next (if s.mg.mode = .off then s else gateDomain s dom.toNat).tick

/-- Whether pd_ctl OFF is carried out, and whether the mode and condition of R448 permit it. -/
def pdOffOk (s : State) (d : Nat) : Bool :=
  (s.mg.mode == .service || (s.mg.mode == .degraded || s.mg.mode == .recovery)) &&
    (if d < 32 then (s.tile d).dead
     else if d < 40 then false
     else if d < 56 then !served s (d - 40)
     else if d < 72 then (s.port (d - 56)).fence || decide (dval s 0x0C10 (d - 56 + 1) / 16 % 2 = 0)
     else if d < 74 then true
     else if d = 74 then s.host.link == 0
     else false)

/-- pd_ctl := OFF. -/
def pdOff (s : State) (d : Nat) : State :=
  if !pdOffOk s d then s
  else
    let s := setDval s 0x0420 (d + 1) 1
    if d < 32 then
      -- an engine that runs defers it (R275)
      (if (s.sq (64 + d)).st = .running ∨ (s.sq (64 + d)).st = .waiting then { s with mg := { s.mg with pdPend := s.mg.pdPend ++ [d] } }
       else s.modTile d fun t => { t with power := .off })
    else if 56 ≤ d ∧ d ≤ 72 then askDrain s d
    else if d = 73 then
      let busy := (List.range 64).any (fun n => (s.group n).st.busy) || (List.range 4).any fun k => (s.sq (96 + k)).st == .running || (s.sq (96 + k)).st == .waiting
      if busy then { s with mg := { s.mg with pdPend := s.mg.pdPend ++ [73] } } else powerDomain s 73
    else powerDomain s d

def execPdCtlOff (dom : BitVec 7) (s : State) : Out := .next (pdOff s dom.toNat).tick

/-- pd_ctl := ON of a domain that may be switched back on: it is ready when its power-on completes. -/
def pdOn (s : State) (d : Nat) : State := setDval s 0x0420 (d + 1) 0

def execPdCtlOn (dom : BitVec 7) (s : State) : Out := .next (if startable s.mg.mode ∧ dom.toNat < 76 then pdOn s dom.toNat else s).tick

/-- A domain that was switched back on is ready (R448). -/
def pdReady (s : State) (d : Nat) : State :=
  let mayReturn := (decide (56 ≤ d) && decide (d ≤ 74)) || (decide (40 ≤ d) && (decide (d < 56) && !served s (d - 40)))
  if mayReturn ∧ dval s 0x0420 (d + 1) = 0 ∧ tgetD s.mg.pd d .off = .off ∧ portsRun s.mg.mode then
    let s := setPd s d .on
    if 56 ≤ d ∧ d < 72 then
      let s := s.setPort (d - 56) { s.port (d - 56) with powered := true }
      if portWanted s (d - 56) then portTrain s (d - 56) else s
    else s
  else s

def execDomainPowerOnComplete (dom : BitVec 7) (s : State) : Out := .next (pdReady s dom.toNat).tick
def execCowslipGateTimeout (s : State) : Out := .next (if s.mg.pdPend.contains 73 then cowslipOff s else s).tick
def execDomainDrainTimeout (dom : BitVec 7) (s : State) : Out := .next (if dom.toNat = 73 then s else drainTimeout s dom.toNat).tick

/-! ## Fences through the plane (R350, R467) -/

def execForcePortFence (port : BitVec 4) (s : State) : Out := .next (if s.mg.mode = .off then s else fencePort s port.toNat).tick
def execPortFenceWrite (port : BitVec 4) (on : Bool) (s : State) : Out :=
  .next (if on then fencePort s port.toNat else unfencePort s port.toNat).tick

/-- LOCKUP_N is released (R467): every FIC in LOCKUP returns to IDLE. -/
def releaseLockup (s : State) : State :=
  { s with pins := { s.pins with lockup := false },
           cores := s.cores.map fun c => (c.1, if c.2.fic.mode = .lockup then { c.2 with fic := { c.2.fic with mode := .idle } } else c.2) }

def execForceLockupRelease (s : State) : Out := .next (releaseLockup s).tick

/-! ## Fault reports (R471) -/

/-- A DATAPATH failure (R471): BUS_ERROR of the context that it names, and the fourth within 10 ms declares the core dead. -/
def datapath (s : State) (core lcn : Nat) : State :=
  let s := if lcn < 40960 ∧ coreOf lcn = core ∧ (s.ctx lcn).dir.state = .active then
      s.modCtx lcn fun c => { c with busErr := some (BitVec.ofNat 8 (1 + Config.choice s.free 64 % 3), s.sark.nextSeq.extractLsb' 0 16) } else s
  let l := 0 :: (s.core core).dpFaults
  let s := s.modCore core fun c => { c with dpFaults := l }
  if 4 ≤ l.length then declareCore s core 0x02 0 true else logFault s 0x02 0 core (siteOf s core) 0 []

/-- A class that takes the device to SAFE (R471). -/
def safeClass (cls : Nat) : Bool := cls == 0x07 || (cls == 0x0B || (cls == 0x0C || (cls == 0x0D || (cls == 0x10 || (cls == 0x11 || cls == 0x12)))))

/-- The reaction field of a record of a dropped check (R475, R481). -/
def dropCode (s : State) (cls : Nat) : Nat := if safeClass cls ∨ dval s 0x1001 cls = 1 ∧ cls ≠ 0x0A then 2 else if cls = 0x0A then 0 else 1

/-- The reaction of a class to a dropped check (R475). -/
def dropReaction (s : State) (cls : Nat) : State :=
  if safeClass cls ∨ dval s 0x1001 cls = 1 ∧ cls ≠ 0x0A then toSafe s cls else if cls = 0x0A then s else toDegraded s

/-- The class of a check. -/
def checkClass (n : Nat) : Nat :=
  match n with
  | 1 => 0x11 | 2 => 0x0A | 3 => 0x07 | 4 => 0x08 | 5 => 0x12 | 6 => 0x08 | 7 => 0x12 | _ => 0x0E

/-- Whether a class exists. -/
def knownClass (cls : Nat) : Bool := decide (1 ≤ cls) && decide (cls ≤ 0x16)

/-- Sarking receives a report of a class about a unit and takes its action and reaction (R471, R479). In BRINGUP and SELFTEST
it fails the start (R441). -/
def report (s : State) (cls unit : Nat) (addr detail : BitVec 64) : State :=
  if s.mg.mode = .off ∨ !knownClass cls then s
  else
    let s := wakeDevice s
    let d := toBytes detail.toNat 8
    if s.mg.mode = .bringup ∨ s.mg.mode = .selftest then failStart (logFault s cls 0 unit 0xFFFF addr d) 0x22 unit
    else
      match cls with
      | 0x01 => if detail.getLsbD 0 then react (declareTile s unit cls addr) cls else logFault s cls 0 unit 0xFFFF addr d
      | 0x02 => if unit < 256 then react (datapath s unit (bitsN detail 0 16)) cls else s
      | 0x03 | 0x08 | 0x0E => if unit < 256 then react (declareCore s unit cls addr true) cls else s
      | 0x04 => react (declareTile s unit cls addr) cls
      | 0x09 => if unit < 16 ∧ (s.port unit).st = .up then portDown s unit 4 else s
      | 0x0A => if unit < 16 then fencePort (logFault s cls 0 unit 0xFFFF addr d) unit else s
      | 0x13 => logFault { s with pins := { s.pins with lockup := true } } cls 0 unit 0xFFFF addr d
      | 0x14 => toDegraded (logFault s cls 1 unit 0xFFFF addr d)
      | 0x16 => gateDomain s unit
      | 0x10 => toSafe (logFault { s with pins := { s.pins with safe := true } } cls 2 unit 0xFFFF addr d) cls
      | 0x0F => dropReaction (logFault s cls (dropCode s (checkClass unit)) unit 0xFFFF addr d) (checkClass unit)
      | _ => if safeClass cls then toSafe (logFault s cls 2 unit 0xFFFF addr d) cls else logFault s cls 0 unit 0xFFFF addr d

def execFaultReport (cls : BitVec 8) (unit : BitVec 16) (addr detail : BitVec 64) (s : State) : Out :=
  .next (report s cls.toNat unit.toNat addr detail).tick

def execWatchdogExpiry (core : BitVec 8) (what : BitVec 6) (s : State) : Out :=
  .next (report s 0x08 core.toNat 0 (what.setWidth 64)).tick

def execClockFault (clk : BitVec 8) (s : State) : Out := .next (if portsRun s.mg.mode then report s 0x0B clk.toNat 0 0 else s).tick

def execVoltageExcursion (rail : BitVec 3) (s : State) : Out := .next (report s 0x0C rail.toNat 0 0).tick

/-! ## Periodic checks (R474, R475) -/

/-- One check of a period: dropped, or finished with its finding. -/
def runCheck (s : State) (n : Nat) (done failed : Bool) (unit : Nat) : State :=
  if done then
    let s := { s with sark := { s.sark with drops := tset s.sark.drops n 0 } }
    if !failed then s
    else if n = 4 ∧ s.mg.mode ≠ .bringup ∧ s.mg.mode ≠ .selftest then react (declareTile s unit 0x08 0) 0x08
    else report s (checkClass n) unit 0 0
  else
    let k := tgetD s.sark.drops n 0 + 1
    let s := setDval s 0x1002 n (min 0xFFFFFFFF (dval s 0x1002 n + 1))
    let s := { s with sark := { s.sark with drops := tset s.sark.drops n k } }
    if k % 3 = 0 then report s 0x0F n 0 0 else s

/-- A period of 1 ms: the checks in ascending number, after those that the previous period abandoned; DATAPATH failures
age. -/
def period (s : State) (done failed : BitVec 8) (unit : Nat) : State :=
  if s.mg.mode = .off then s
  else
    let s := { s with cores := s.cores.map fun c => (c.1, { c.2 with dpFaults := (c.2.dpFaults.map (· + 1)).filter fun a => decide (a < 10) }) }
    let ns := (List.range 8).map (· + 1)
    let late := ns.filter fun n => tgetD s.sark.drops n 0 != 0
    (late ++ ns.filter fun n => !late.contains n).foldl (fun s n => runCheck s n (done.getLsbD (n - 1)) (failed.getLsbD (n - 1)) unit) s

def execPeriodicCheckPeriod (done failed : BitVec 8) (unit : BitVec 16) (s : State) : Out := .next (period s done failed unit.toNat).tick

/-! ## The rotating self-test (R473) -/

/-- The ACTIVE context of the lowest priority that has been ACTIVE longest. -/
def longestLow (s : State) (core : Nat) : Option Nat :=
  let acts := (s.core core).slots.filter fun e => (s.ctx e.2).dir.state == .active && !(s.ctx e.2).stopped
  (acts.foldl (fun (b : Option Nat) e =>
    match b with
    | none => some e.2
    | some a =>
      let x := s.ctx a
      let y := s.ctx e.2
      if y.dir.prio.toNat < x.dir.prio.toNat ∨ (y.dir.prio = x.dir.prio ∧ y.since < x.since) then some e.2 else b) none)

/-- A test starts: it takes a free slot, or one whose context is swapped out, for which that context must be at an instruction
boundary (R189). -/
def testStart (s : State) (core : Nat) : State :=
  let c := s.core core
  if !coreLive s core ∨ (s.tile (tileOf core)).power ≠ .on ∨ c.testing.isSome ∨ !ficRuns s.mg.mode then s
  else
    match freeSlot c with
    | some k => s.setCore core { c with testing := some k }
    | none =>
      match longestLow s core with
      | some n => if (s.ctx n).pend.isSome then s else queueSwap (s.setCore core { c with testing := (s.ctx n).slot }) n .ready
      | none => s

def execSelftestStart (core : BitVec 8) (s : State) : Out := .next (testStart s core.toNat).tick

/-- The result reaches Sarking. -/
def testResult (s : State) (core : Nat) (ok : Bool) : State :=
  if (s.core core).testing.isNone then s
  else
    let s := s.modCore core fun c => fillSlot { c with testing := none }
    if ok then s else report s 0x0E core 0 0

def execSelftestResult (core : BitVec 8) (ok : Bool) (s : State) : Out := .next (testResult s core.toNat ok).tick

/-! ## Temperatures and limits (R449) -/

/-- A sample: the reading and the package power are recorded; at tj_crit the device goes to SAFE. Kind 0: a tile, 1: the hub,
2: a stack, 3: power alone. -/
def sample (s : State) (kind unit : Nat) (temp power : BitVec 16) : State :=
  if s.mg.mode = .off then s
  else
    let s := setDval s 0x0400 0x43 power.toNat
    let s := match kind with
      | 0 => setDval s 0x1801 (unit + 1) temp.toNat
      | 1 => setDval s 0x1802 1 temp.toNat
      | 2 => setDval s 0x1803 (unit % 8 + 1) temp.toNat
      | _ => s
    if kind ≠ 3 ∧ (BitVec.ofNat 16 (dval s 0x0400 0x41)).sle temp then report s 0x0D unit 0 0 else s

def execThermalSample (kind : BitVec 2) (unit : BitVec 5) (temp power : BitVec 16) (s : State) : Out :=
  .next (sample s kind.toNat unit.toNat temp power).tick

/-- The effective clock of a tile (R447): the lesser of tile_freq and the limit. -/
def effClock (s : State) (t : Nat) : Nat := min (dval s 0x0400 (t + 1)) (s.tile t).limit.toNat

/-- A change of the effective clock: the PLL of a tile that runs relocks (R447). -/
def relock (old s : State) (t : Nat) : State :=
  if effClock s t ≠ effClock old t ∧ ((s.tile t).power = .on ∨ (s.tile t).power = .nap) then s.modTile t fun x => { x with relock := true } else s

/-- A step of a tile's limit, under its condition. -/
def throttle (s : State) (t : Nat) (up : Bool) : State :=
  let temp := BitVec.ofNat 16 (dval s 0x1801 (t + 1))
  let warn := BitVec.ofNat 16 (dval s 0x0400 0x40)
  let power := dval s 0x0400 0x43
  let cap := dval s 0x0400 0x42
  let hot := warn.sle temp || decide (cap < power)
  let cool := temp.sle (warn - 80) && decide (100 * power ≤ 95 * cap)
  let l := (s.tile t).limit
  relock s (if up then (if cool && decide (l.toNat < 22) then s.modTile t fun x => { x with limit := l + 1 } else s)
    else if hot && decide (8 < l.toNat) then s.modTile t fun x => { x with limit := l - 1 } else s) t

def execThrottleStep (tile : BitVec 5) (up : Bool) (s : State) : Out := .next (throttle s tile.toNat up).tick

/-- THERMTRIP_N (R449, R480, R499): every fast clock stops. -/
def execThermtrip (s : State) : Out :=
  .next ({ s with pins := { s.pins with therm := true, safe := true },
                  tiles := s.tiles.map fun (t : Nat × Tile) => (t.1, if t.2.power == Power.off then t.2 else { t.2 with power := .retention }) }).tick

/-! ## Wear and spares (R485 to R487) -/

/-- The record of a spare that is brought in (R485): reaction 4; the manual names no class for it, which is free. -/
def logWear (s : State) (unit site : Nat) : State :=
  let seen := dval s 0x1000 0x01
  setDval (logFault s ((Config.freeValue s.free 31).toNat % 256) 4 unit site 0 []) 0x1000 0x01 seen

/-- A live substitution begins: slots are swapped out to READY and the L1D drains (R487 steps 1 and 2). A context whose access is
pending reaches its next boundary when the access completes. -/
def beginSubst (s : State) (core : Nat) : State :=
  let s := s.modCore core fun c => { c with halting := true, subst := true, draining := true, l1i := [] }
  (s.core core).slots.foldl (fun s e => if (s.ctx e.2).dir.state = .active ∧ !(s.ctx e.2).stopped then swapOutReady s e.2 else s) s

/-- Copies the banks that await substitution to the spare bank of their site, or withdraws their records (R486). A site that a
substitution has left in the meantime has nothing to copy. -/
def copyBanks (s : State) : State :=
  let one := fun (s : State) (b : Nat × Nat) =>
    match coreOn s b.1 with
    | none => s
    | some c =>
    if (tget s.sark.bankUsed b.1).isNone then { s with sark := { s.sark with bankUsed := tset s.sark.bankUsed b.1 b.2 } }
    else spareExhausted { s with sark := { s.sark with withdrawn := s.sark.withdrawn ++ [b.1 * 16 + b.2] } } 2 c
  let l := s.sark.bankPend
  l.foldl one { s with sark := { s.sark with bankPend := [] } }

/-- A wear monitor crosses its threshold (R485); a sleeping tile brings in its spare after it wakes (R486). The unit of monitors 0 and 1 is a core, of 2 a tile in [4:0] and a set
above, of 3 a core in [11:4] and a bank in [3:0] of its site. -/
def wear (s : State) (mon unit : Nat) : State :=
  let live := issuing s.mg.mode
  match mon with
  | 0 | 1 =>
    if !live ∨ !coreLive s unit ∨ (s.core unit).subst ∨ (s.tile (tileOf unit)).power ≠ .on then s
    else if (spareSite s (tileOf unit)).isSome then beginSubst (logWear s unit (siteOf s unit)) unit
    else spareExhausted s 0 unit
  | 2 =>
    let t := unit % 32
    let set := unit / 32
    if !live ∨ (s.tile t).dead ∨ (s.tile t).power ≠ .on then s
    else
      let n := tgetD (s.tile t).waysOut set 0 + 1
      let s := l2Room s t set
      let s := s.modTile t fun x => { x with waysOut := tset x.waysOut set n }
      if n = 1 then logWear s t 0xFFFF
      else
        let s := spareExhausted s 1 t
        if 17 - n < 12 then declareTile s t 0x14 0 else s
  | 3 =>
    let b := (siteOf s (unit / 16 % 256), unit % 16)
    if 10 ≤ b.2 ∨ s.sark.bankPend.contains b then s
    else
      let s := logWear s unit 0xFFFF
      let s := { s with sark := { s.sark with bankPend := s.sark.bankPend ++ [b] } }
      if s.mg.mode = .quiesce then copyBanks s else s
  | _ => logWear s unit 0xFFFF

def execWearThreshold (mon : BitVec 3) (unit : BitVec 16) (s : State) : Out := .next (wear s mon.toNat unit.toNat).tick

/-- The substitution ends (R487 steps 3 and 4): only the site changes. -/
def substDone (s : State) (core : Nat) : State :=
  let c := s.core core
  if !c.subst ∨ c.draining ∨ c.slots ≠ [] ∨ c.swaps ≠ [] ∨ c.fic.mode ≠ .idle ∨ c.dead then s
  else
    match spareSite s (tileOf core) with
    | none => s
    | some j =>
      let s := s.setCore core (fillSlot { c with subst := false, halting := !issuing s.mg.mode, bypass := c.cfg.getLsbD 0, l1i := [], life := .substituted,
                                                 site := some (9 * tileOf core + j) })
      persist s 1 (coreMap s)

def execCoreSubstitutionComplete (core : BitVec 8) (s : State) : Out := .next (substDone s core.toNat).tick

/-- An injection is armed for an array of a core (R466): the Thatch store (2) or the register banks (3). -/
def coreArmed (s : State) (core arr : Nat) : Bool := s.mem.armed.any fun v => injArray v == arr && injUnit v == core

/-- An access of such an array meets the injected error (R51, R52): one flipped bit is corrected and counted, two are
CORE_STATE_UE. -/
def arrayAccess (s : State) (core arr : Nat) : State :=
  match splitAtFirst (fun (v : BitVec 64) => injArray v == arr && injUnit v == core) s.mem.armed with
  | none => s
  | some (a, v, b) =>
    let s := { s with mem := { s.mem with armed := a ++ b } }
    if injBits v < 2 then sarkCount s 2 else react (declareCore s core 0x03 0 true) 0x03

/-! ## Clocks, keys of debug, commits -/

def execTileFreqWrite (tile : BitVec 5) (freq : BitVec 8) (s : State) : Out :=
  .next (if 8 ≤ freq.toNat ∧ freq.toNat ≤ 22 then relock s (setDval s 0x0400 (tile.toNat + 1) freq.toNat) tile.toNat else s).tick

def execPllRelockComplete (tile : BitVec 5) (s : State) : Out := .next (s.modTile tile.toNat fun t => { t with relock := false }).tick

/-- An injection is accepted while jtag_en = 1 (R466). -/
def injOk (s : State) (v : BitVec 64) : Bool :=
  decide (dval s 0x4001 1 = 1) && (decide (injArray v ≤ 5) && (decide (1 ≤ injBits v) && (decide (injBits v ≤ if injArray v < 4 then 2 else 3) && decide (bitsN v 14 50 = 0))))

def inject (s : State) (v : BitVec 64) : State := if injOk s v then { s with mem := { s.mem with armed := s.mem.armed ++ [v] } } else s

def execInjectError (v : BitVec 64) (s : State) : Out := .next (inject s v).tick

/-- A record is committed (R483); one that power loss interrupted does not exist. A fault record leaves the buffer. -/
def commit (s : State) (kind : Nat) (payload : List (BitVec 8)) (interrupted : Bool) : State :=
  if s.mg.mode = .off then s
  else if interrupted then
    { s with sark := { s.sark with storeSeq := s.sark.storeSeq + 1, store := s.sark.store ++ [⟨BitVec.ofNat 16 kind, s.sark.storeSeq, payload, false⟩] } }
  else if kind = 3 then
    (match s.sark.waiting with
     | r :: rest =>
       let s := persist { s with sark := { s.sark with waiting := rest, log := s.sark.log ++ [r] } } 3 (frecBytes r)
       { s with sark := { s.sark with log := s.sark.log.drop (s.sark.log.length - 16384) } }
     | [] => s)
  else persist s kind payload

def execPersistentCommit (kind : BitVec 16) (payload : List (BitVec 8)) (interrupted : Bool) (s : State) : Out :=
  .next (commit s kind.toNat payload interrupted).tick

end Sys2Proof.Machine
end

