-- ==== Sys2Proof/Machine/Start.lean ====
section
/-! DEFINITION. The Xoesk image and its verification (R421 to R432) and the cold and warm sequences (R433 to R437, R288,
R251). -/

namespace Sys2Proof.Machine

/-! ## Values of dictionary entries (R451, R452) -/

/-- The value bytes of a numeric type code. -/
def tyLen (ty : Nat) : Option Nat :=
  match ty with
  | 1 | 2 | 11 => some 1
  | 3 | 6 | 9 | 10 => some 2
  | 4 | 7 => some 4
  | 5 | 8 => some 8
  | _ => none

/-- The length of a value agrees with its entry; every BLOB but reed_lib_dir has a stated length. -/
def lenFits (e : DEnt) (v : List (BitVec 8)) : Bool :=
  match tyLen e.ty with
  | some n => v.length == n
  | none => if e.ty = 0x0D ∧ e.index ≠ 0x2030 then v.length == e.len else decide (v.length ≤ e.len)

/-- A value lies in its entry's range. -/
def inRange (s : State) (e : DEnt) (j : Nat) (v : List (BitVec 8)) : Bool :=
  let n := ofBytes v
  match tyLen e.ty with
  | none => true
  | some _ =>
    decide (e.min ≤ n) && (decide (n ≤ e.max) &&
      (if e.index = 0x0800 ∧ j = 4 then n == 4800 || (n == 5600 || n == 6400)
       else if e.index = 0x0400 ∧ j = 0x41 then (BitVec.ofNat 16 (dval s 0x0400 0x40)).slt (BitVec.ofNat 16 n)
       else if e.index = 0x0400 ∧ j = 0x40 then (BitVec.ofNat 16 n).slt (BitVec.ofNat 16 (dval s 0x0400 0x41))
       else true))

/-- An entry's value as bytes, where it holds one. -/
def blobOf (s : State) (i j : Nat) : List (BitVec 8) := tgetD s.mg.blobs (i * 256 + j) []

/-- The bits of an entry below its reserved field, which reads as zero and whose write is discarded (R7, R162, R164, R172, R180, R350,
R465). -/
def entryBits (e : DEnt) (j : Nat) : Nat :=
  match e.index with
  | 0x3000 => if j ≤ 0x10 then 46 else if j ≤ 0x21 then 6 else 64
  | 0x3041 | 0x3043 => 14
  | 0x3080 => 30
  | 0x4011 => 23
  | 0x0C10 => 6
  | _ => 64

/-- Writes a value; a persistent one is committed unless it equals the committed value (R453). -/
def putVal (s : State) (e : DEnt) (j : Nat) (v : List (BitVec 8)) : State :=
  match tyLen e.ty with
  | some _ =>
    let n := ofBytes v % 2 ^ entryBits e j
    let same := dval s e.index j == n
    let s := setDval s e.index j n
    if e.p && !same then persistVal s 5 e.index j else s
  | none => { s with mg := { s.mg with blobs := tset s.mg.blobs (e.index * 256 + j) v } }

/-! ## The image in staging (R421, R422) -/

/-- A byte of staging. -/
def stB (s : State) (off : Nat) : BitVec 8 := tgetD s.host.staging off 0
def stBytes (s : State) (off n : Nat) : List (BitVec 8) := (List.range n).map fun i => stB s (off + i)
def stN (s : State) (off n : Nat) : Nat := ofBytes (stBytes s off n)

/-- Writes bytes of staging; zero bytes are not listed. -/
def stPut (t : List Host.Cell) (off : Nat) (bs : List (BitVec 8)) : List Host.Cell :=
  match bs with
  | [] => t
  | b :: r => stPut (if b = 0 then tdel t off else tset t off b) (off + 1) r

/-- A section directory entry (R422). -/
structure Section_ where
  ty    : Nat
  key   : Nat
  flags : Nat
  svn   : Nat
  zero  : Nat
  off   : Nat
  len   : Nat
  deriving DecidableEq, Repr

def sectionAt (s : State) (i : Nat) : Section_ :=
  let o := 0x100 + 16 * i
  ⟨stN s o 2, stN s (o + 2) 1, stN s (o + 3) 1, stN s (o + 4) 2, stN s (o + 6) 2, stN s (o + 8) 4, stN s (o + 12) 4⟩

def sections (s : State) : List Section_ := (List.range (stN s 6 2)).map (sectionAt s)

def findSection (s : State) (ty : Nat) : Option Section_ := (sections s).find? fun x => x.ty == ty

/-- A failure of verification: its code (R435) and what it concerns. -/
abbrev VFail := Nat × Nat

/-- Step 1: the header. -/
def checkHeader (s : State) : Option VFail :=
  let n := stN s 6 2
  if stBytes s 0 4 ≠ [0x58, 0x4F, 0x53, 0x4B] ∨ stN s 4 2 ≠ 1 ∨ n < 1 ∨ 7 < n then some (0x10, 0)
  else if 66060288 < stN s 8 4 ∨ stN s 8 4 < 0x100 + 16 * n then some (0x10, 0)
  else if stN s 0x11 15 ≠ 0 ∨ stN s 0x81 127 ≠ 0 then some (0x10, 0)
  else if stN s 0x0C 4 ≠ 0x4807 ∨ stN s 0x10 1 ≠ 0xB0 then some (0x11, 0)
  else none

/-- Two byte ranges overlap. -/
def overlap (a b : Section_) : Bool := decide (a.off < b.off + b.len + 96) && decide (b.off < a.off + a.len + 96)

/-- Step 2: the directory. -/
def checkDirectory (s : State) : Option VFail :=
  let l := sections s
  let bad := fun (x : Section_) =>
    decide (x.ty < 1) || (decide (7 < x.ty) || ((decide (3 < x.key) && x.key != 0x10) || (decide (1 < x.flags) || (x.zero != 0 ||
      (x.flags != (if x.ty = 2 ∨ x.ty = 3 then 1 else 0) || (decide (x.off % 16 ≠ 0) || (decide (x.off < 0x100 + 16 * l.length)
        || decide (stN s 8 4 < x.off + x.len + 96))))))))
  match l.find? bad with
  | some x => some (0x10, x.ty)
  | none =>
    if !decide (List.Pairwise (fun a b => overlap a b = false ∧ a.ty ≠ b.ty) l) then some (0x10, 0)
    else if (findSection s 1).isNone then some (0x10, 1)
    else if 0 < dval s 0x2010 3 ∧ ((findSection s 2).isNone ∨ (findSection s 3).isNone) then some (0x13, if (findSection s 2).isNone then 2 else 3)
    else none

/-- A key that a section may name (R424, R193). -/
def keyOk (s : State) (keyHash : List (BitVec 8)) (x : Section_) : Bool :=
  if x.key = 0x10 then
    (x.ty == 4 || x.ty == 5) && (s.mg.start.fuse && keyHash == blobOf s 0x2010 1)
  else decide ((Config.identity (0x2010 * 256 + 4)).toNat / 2 ^ x.key % 2 = 0)

/-! ## Section bodies -/

/-- The patch sections (R193 steps 4 and 5, R194). -/
def patchOk (micro nano : List (BitVec 8)) : Bool :=
  let n := bN micro 0x0A 2
  let m := bN nano 8 2
  let used := bN micro 8 2
  let rom := 0xB00
  let micros := (List.range n).map fun i => bN micro (0x90 + 2 * i) 2
  let nanoOf := fun i => bN nano (0x10 + 16 * i) 16
  let mword := fun w => w / 2048 < 0x0C && (w % 2048 < 0x780 || w % 2048 - 0x780 < m) &&
    (if w / 2048 ∈ [2, 3, 4, 5] then
      let t := (if w % 2048 < 0x780 then (Config.romNano (w % 2048)).toNat else nanoOf (w % 2048 - 0x780)) / 2 ^ 113 % 2 ^ 15
      decide (t < 0x4000 + n)
     else true)
  let reg := fun i => bN micro (0x10 + 4 * i) 4
  micro.length == 0x90 + 2 * n && (nano.length == 0x10 + 16 * m && (bN micro 0x0C 4 == 0 && (bN nano 0x0A 6 == 0 && (bN micro 0 4 == rom && (bN nano 0 4 == rom && (bN micro 4 4 == bN nano 4 4 && (decide (n ≤ 512) && (decide (m ≤ 128) && (decide (used ≤ 32)
    && (micros.all mword && (List.range 32).all fun i =>
      if i < used then decide (reg i / 2 ^ 24 = 0) && (decide (reg i / 2 ^ 23 % 2 = 0) || decide (reg i / 2 ^ 14 % 512 < n)) else reg i == 0))))))))))

/-- REED_LIB (R428). -/
def reedLibOk (b : List (BitVec 8)) : Bool :=
  let m := bN b 0 2
  bN b 2 6 == 0 && (List.range m).all fun i =>
    let o := 8 + 32 * i
    let base := bN b (o + 0x12) 2
    let entry := bN b (o + 0x14) 2
    let w := bN b (o + 0x16) 2
    let d := bN b (o + 0x18) 4
    decide (bN b (o + 0x10) 1 < 3) && (bN b (o + 0x11) 1 == 0 && (bN b (o + 0x1C) 4 == 0 && (decide (base + w ≤ 4096) && (decide (base ≤ entry)
      && (decide (entry < base + w) && (decide (d % 8 = 0) && (decide (d + 8 * ((w + 3) / 4) ≤ b.length)
        && (List.range ((w + 3) / 4)).all fun k => bN b (d + 8 * k + 7) 1 == 0)))))))

/-- A segment of RUNTIME_BOOT: its address, its words, and its warm bit. -/
structure Segment where
  lpa  : Nat
  ws   : List W
  warm : Bool
  deriving DecidableEq, Repr

/-- The segments from an offset on; none where the layout is broken (R429). -/
def segmentsFrom (b : List (BitVec 8)) (o n : Nat) : Option (List Segment) :=
  match n with
  | 0 => some []
  | n + 1 =>
    let cnt := bN b (o + 8) 4
    let len := 16 + (10 * cnt + 15) / 16 * 16
    let ws := (List.range cnt).map fun i => wordAt b (o + 16 + 10 * i)
    if b.length < o + len ∨ bN b o 8 % 8 ≠ 0 ∨ 1 < bN b (o + 12) 1 ∨ bN b (o + 13) 3 ≠ 0 ∨ bN b (o + 16 + 10 * cnt) (len - 16 - 10 * cnt) ≠ 0
        ∨ (ws.any fun w => reservedTag w.tag) ∨ ((List.range cnt).any fun i => decide (3 < bN b (o + 16 + 10 * i + 9) 1)) then none
    else (segmentsFrom b (o + len) n).map fun l => ⟨bN b o 8, ws, decide (bN b (o + 12) 1 = 1)⟩ :: l

def bootSegments (b : List (BitVec 8)) : Option (List Segment) := segmentsFrom b (8 + 32 * bN b 2 2) (bN b 0 2)

/-- A boot record (R429). -/
structure BootRec where
  world : World
  core  : Nat
  space : Nat
  entry : Nat
  g1    : W
  deriving DecidableEq, Repr

def bootRecs (b : List (BitVec 8)) : List BootRec :=
  (List.range (bN b 2 2)).map fun i =>
    let o := 8 + 32 * i
    ⟨worldOf (bN b o 1), bN b (o + 1) 1, bN b (o + 2) 2, bN b (o + 8) 8, wordAt b (o + 16)⟩

def runtimeOk (b : List (BitVec 8)) : Bool :=
  let n := bN b 2 2
  let rec_ := fun i =>
    let o := 8 + 32 * i
    decide (bN b o 1 < 2) && (decide (bN b (o + 2) 2 < 4096) && (bN b (o + 4) 4 == 0 && (decide (bN b (o + 8) 8 < 2 ^ 59) && (decide (bN b (o + 8) 8 % 4 = 0)
      && (decide (bN b (o + 0x19) 1 < 4) && (!reservedTag (wordAt b (o + 16)).tag && bN b (o + 0x1A) 6 == 0))))))
  bN b 4 4 == 0 && (decide (n ≤ 2) && ((List.range n).all rec_ && ((n != 2 || bN b 8 1 != bN b 40 1) && (bootSegments b).isSome)))

/-- TRAINING_OVERRIDE (R430). -/
def trainingOk (b : List (BitVec 8)) (o fuel : Nat) : Bool :=
  match fuel with
  | 0 => true
  | fuel + 1 =>
    if b.length ≤ o then b.length == o
    else
      let next := o + 16 * ((8 + bN b (o + 4) 4 + 15) / 16)
      let used := o + 8 + bN b (o + 4) 4
      decide (bN b o 1 < 3) && (decide (next ≤ b.length) && (bN b used (next - used) == 0 && trainingOk b next fuel))

/-- The body format of a section (R427 step 3.5). -/
def bodyOk (s : State) (x : Section_) : Bool :=
  let b := stBytes s x.off x.len
  match x.ty with
  | 1 => decide (4 ≤ x.len) && bN b 0 4 == (Config.identity (0x0100 * 256 + 7)).toNat % 2 ^ 32
  | 2 | 3 => (findSection s 2).isSome && ((findSection s 3).isSome && patchOk (Config.patchPlain 2) (Config.patchPlain 3))
  | 4 => reedLibOk b
  | 5 => runtimeOk b
  | 6 => trainingOk b 0 (x.len / 16 + 1)
  | _ => true

/-- Step 3: a section, with what the signature check and the decryption found. -/
def checkSection (s : State) (sig dec : BitVec 7) (keyHash : List (BitVec 8)) (x : Section_) : Option VFail :=
  if !keyOk s keyHash x then some (0x12, x.ty)
  else if x.svn < dval s 0x2010 3 then some (0x13, x.ty)
  else if sig.getLsbD (x.ty - 1) = false then some (0x14, x.ty)
  else if x.flags = 1 ∧ dec.getLsbD (x.ty - 1) = false then some (0x15, x.ty)
  else if bodyOk s x then none else some (0x16, x.ty)

/-- Verification (R427): the first failure. -/
def verify (s : State) (sig dec : BitVec 7) (keyHash : List (BitVec 8)) : Option VFail :=
  match checkHeader s with
  | some f => some f
  | none =>
    match checkDirectory s with
    | some f => some f
    | none => (sections s).findSome? (checkSection s sig dec keyHash)

/-- The write of an entry whose value acts on a block: the status and the state; any other keeps its value (R84). -/
def blockWrite (s : State) (e : DEnt) (j n : Nat) (v : List (BitVec 8)) : Nat × State :=
  match e.index with
  | 0x0800 => (0, applyThresholds (putVal s e j v))
  | 0x0C12 => (0, if n = 1 then fencePort s (j - 1) else unfencePort s (j - 1))
  | 0x0420 => if n = 1 then (if pdOffOk s (j - 1) then (0, pdOff s (j - 1)) else (5, s)) else (0, pdOn s (j - 1))
  | 0x0400 => (0, if j ≤ 0x20 then relock s (putVal s e j v) (j - 1) else putVal s e j v)
  | _ => (0, putVal s e j v)

/-- Applies the records of DICT_DEFAULTS from an offset on, in order (R431): false when one is rejected, with those before it
applied. -/
def applyDefaults (s : State) (b : List (BitVec 8)) (o fuel : Nat) : State × Bool :=
  match fuel with
  | 0 => (s, true)
  | fuel + 1 =>
    if b.length ≤ o then (s, true)
    else
      let i := bN b o 2
      let j := bN b (o + 2) 1
      let len := bN b (o + 4) 2
      let v := (b.drop (o + 8)).take len
      match dictEntry i j with
      | none => (s, false)
      | some e =>
        if e.ty ≠ bN b (o + 3) 1 ∨ v.length ≠ len ∨ !lenFits e v ∨ !inRange s e j v ∨ (e.cls = 0 ∨ e.cls = 2)
            ∨ (i = 0x2010 ∧ (j = 1 ∨ j = 3)) then (s, false)
        else applyDefaults (blockWrite s e j (ofBytes v) v).2 b (o + 8 + (len + 7) / 8 * 8) fuel

/-! ## GO, relay and verification -/

/-- Verification begins (R427, R432): from the host (1) or the relay (2). The entries of microcode start from their defaults (R195). -/
def beginVerify (s : State) (src : Nat) : State :=
  let s := setStep (setDval s 0x2000 0x09 src) 3
  let s := setDval (setDval (setDval s 0x2020 2 0) 0x2020 3 0) 0x2020 4 0
  let s := setDval s 0x2000 0x02 (if s.mg.start.pendWarm then 2 else 1)
  let s := setStatus s 1
  { s with mg := { s.mg with start := { s.mg.start with verifying := true, running := true, relay := false } } }

/-- Whether start_cmd GO is permitted (R437). -/
def goOk (s : State) : Bool :=
  s.mg.mode == .loader && (s.mg.trans.isNone && (!s.mg.start.running && (!s.mg.start.verifying && !(s.mg.start.relay && s.mg.start.relayLen != 0))))

def startGo (s : State) : State := if goOk s then beginVerify s 1 else s

def execStartCmdGo (s : State) : Out := .next (startGo s).tick

/-- Every domain is powered up in BRINGUP (R438); each live tile runs, with its Flashing cleared (R192). -/
def powerUp (s : State) : State :=
  let s := (List.range 44).foldl (fun s i => setPd s (32 + i) .on) s
  let s := (List.range 32).foldl (fun s t => if (s.tile t).dead then s else s.modTile t fun x => { x with power := .on, micro := [], nano := [], matches_ := [] }) s
  takeDims s

/-- Links train, or resume after a warm start (R327, R434); port 0 may run since LOADER (R438). -/
def startPorts (s : State) : State := (List.range 16).foldl startPort s

/-- Verification ends (R427): BRINGUP with DICT_DEFAULTS applied, or a failed start. -/
def verified (s : State) (sig dec : BitVec 7) (keyHash : List (BitVec 8)) : State :=
  if !s.mg.start.verifying ∨ s.mg.mode ≠ .loader ∨ s.mg.trans.isSome then s
  else
    let s := setStep s 4
    match verify s sig dec keyHash with
    | some (c, a) =>
      let s := if (c = 0x12 ∨ c = 0x13 ∨ c = 0x14 ∨ c = 0x15 ∨ c = 0x16) ∧ (a = 2 ∨ a = 3) then setDval s 0x2020 3 2 else s
      failStart s c a
    | none =>
      let s := { s with mg := { s.mg with start := { s.mg.start with verifying := false, verified := true } } }
      let s := setStep s 5
      let body := match findSection s 7 with | some x => stBytes s x.off x.len | none => []
      match applyDefaults s body 0 (body.length + 1) with
      | (s, false) => failStart s 0x17 7
      | (s, true) => startPorts (powerUp (setStep (enterMode s .bringup .bringup) 6))

def execImageVerified (sig dec : BitVec 7) (keyHash : List (BitVec 8)) (s : State) : Out := .next (verified s sig dec keyHash).tick

/-- An image request is answered from staging (R347, R432). -/
def imgReq (s : State) (port : BitVec 4) (off : Nat) : State :=
  let q := s.port port.toNat
  if q.st ≠ .up then s
  else
    let len := if s.mg.start.verified then stN s 8 4 else 0
    let data := if off < len then stBytes s off (min 672 (len - off)) else []
    sendMsg s ⟨⟨q.peerDev, devNo s, 0xFFFF, .sys, true, 0, 0⟩, 4, .imgrel port (BitVec.ofNat 32 off) (BitVec.ofNat 32 len) data⟩

def execImgreq (port : BitVec 4) (offset : BitVec 32) (s : State) : Out := .next (imgReq s port offset.toNat).tick

/-- Relayed image data (R432). -/
def imgRel (s : State) (port : BitVec 4) (off len : Nat) (data : List (BitVec 8)) : State :=
  let st := s.mg.start
  if s.mg.mode ≠ .loader ∨ !st.relay ∨ port ≠ 0 ∨ len = 0 ∨ 66060288 < off + data.length then s
  else
    let s := { s with host := { s.host with staging := stPut s.host.staging off data },
                      mg := { s.mg with start := { st with relayLen := BitVec.ofNat 32 len, relayGot := st.relayGot + data.length } } }
    if len ≤ st.relayGot + data.length then beginVerify s 2 else askImage s (off + data.length)

def execImgrel (port : BitVec 4) (offset len : BitVec 32) (data : List (BitVec 8)) (s : State) : Out :=
  .next (imgRel s port offset.toNat len.toNat data).tick

def execImageRelayRetry (s : State) : Out :=
  .next (if s.mg.mode = .loader ∧ s.mg.start.relay ∧ s.mg.start.relayLen = 0 then askImage s 0 else s).tick

/-! ## BRINGUP and SELFTEST -/

/-- Flashing is loaded in every tile (R192, R194, R195). -/
def loadFlashing (s : State) : State :=
  if (findSection s 2).isNone then s
  else
    let m := Config.patchPlain 2
    let n := Config.patchPlain 3
    let micro := (List.range (bN m 0x0A 2)).foldl (fun (t : Tbl (BitVec 17)) i => tset t i (BitVec.ofNat 17 (withParity 16 (bN m (0x90 + 2 * i) 2)))) []
    let nano := (List.range (bN n 8 2)).foldl (fun (t : Tbl (BitVec 129)) i => tset t i (BitVec.ofNat 129 (withParity 128 (bN n (0x10 + 16 * i) 16)))) []
    let regs := (List.range (bN m 8 2)).foldl (fun (t : Tbl (BitVec 24)) i => tset t i (BitVec.ofNat 24 (bN m (0x10 + 4 * i) 4))) []
    let s := (List.range 32).foldl (fun s t => if (s.tile t).dead then s else s.modTile t fun x => { x with micro := micro, nano := nano, matches_ := regs }) s
    setDval (setDval (setDval s 0x2020 2 (bN m 4 4)) 0x2020 3 1) 0x2020 4 (regs.filter fun r => r.2.getLsbD 23).length

/-- The ranks that the DIMMs have (R284): ABSENT where a channel has none, or the DIMMs have one rank; a retired rank stays
retired. -/
def presentRanks (s : State) (chans : BitVec 16) (oneRank : Bool) : State :=
  (List.range 16).foldl (fun s c =>
    let m := s.mc (8 + c)
    let st := fun (r : Nat) (there : Bool) =>
      let g := tgetD m.groups r GroupSt.inService
      if g = .retired then GroupSt.retired else if there then (if g = .absent then GroupSt.inService else g) else GroupSt.absent
    s.setMc (8 + c) { m with groups := tset (tset m.groups 0 (st 0 (chans.getLsbD c))) 1 (st 1 (chans.getLsbD c && !oneRank)) }) s

/-- The rate at which the far channels train, and those that do (R285): the highest that every DIMM supports and far_rate_cap allows
at which every channel trains, otherwise DDR5-4800 with the channels that train there. -/
def trainFar (s : State) (rate : Nat) (chans t48 t56 t64 : BitVec 16) : Nat × BitVec 16 :=
  let top := min rate (dval s 0x0800 4)
  if chans = 0 ∨ top < 4800 then (0, 0)
  else if 6400 ≤ top ∧ chans &&& ~~~t64 = 0 then (6400, chans)
  else if 5600 ≤ top ∧ chans &&& ~~~t56 = 0 then (5600, chans)
  else (4800, chans &&& t48)

/-- The capacities of a DIMM (R284, R285). -/
def dimmSizes : List Nat := [64 * 2 ^ 30, 128 * 2 ^ 30, 256 * 2 ^ 30]

/-- Far memory is configured (R285): the channels that hold a DIMM and trained, with every rank usable, and the capacity of one
DIMM. A capacity that R284 does not name serves no channel. -/
def configFar (s : State) (chans : BitVec 16) (cap rate : Nat) : State :=
  let ok := fun c => dimmSizes.contains cap && (chans.getLsbD c && (s.mc (8 + c)).groups.all fun g => g.2 != GroupSt.retired)
  let set := fun p => (List.range 16).all fun c => !p c || ok c
  let (n, odd) := if set fun _ => true then (16, false) else if set fun c => c % 2 == 0 then (8, false) else if set fun c => c % 2 == 1 then (8, true) else (0, false)
  { s with mem := { s.mem with farN := n, farOdd := odd, farD := cap, farBytes := n * cap, farRate := rate } }

/-- far_present, far_bytes and far_rate report what is served (R296). -/
def reportFar (s : State) : State :=
  let mask := if s.mem.farN = 16 then 0xFFFF else if s.mem.farN = 0 then 0 else if s.mem.farOdd then 0xAAAA else 0x5555
  setDval (setDval (setDval s 0x0800 1 mask) 0x0800 2 s.mem.farBytes) 0x0800 3 s.mem.farRate

/-- At a cold start the records of a DIMM whose SPD serial number has changed are cleared (R291). -/
def clearDimm (s : State) (c : Nat) : State :=
  let mc := 8 + c
  let m := s.mc mc
  let s := m.units.foldl (fun s u => if u.2 = .healthy then s else setUnit s mc u.1 .healthy true) s
  let s := m.groups.foldl (fun s g => if g.2 = .inService then s else setGroupSt s mc g.1 .inService) s
  s.setMc mc { s.mc mc with counts := [], ues := [], rows := [], targets := [] }

/-- An ERASED DQ group takes a free redundant lane of its channel and is REPAIRED (R291). -/
def repairLane (s : State) (mc unit : Nat) : State :=
  let used := tgetD (s.mc mc).lanes (unit / 64) 0
  if used < Config.redundantLanes then setUnit (s.setMc mc { s.mc mc with lanes := tset (s.mc mc).lanes (unit / 64) (used + 1) }) mc unit .repaired false
  else s

/-- A recorded row of a unit is repaired with row repair or hard PPR (R292); whether a resource remains for that is free, and without
one the unit takes the ERASED transition. -/
def repairRow (s : State) (mc unit : Nat) : State :=
  let st := tgetD (s.mc mc).units unit .healthy
  let s := s.setMc mc { s.mc mc with rows := (s.mc mc).rows.filter fun u => u != unit }
  if st = .erased ∨ st = .repaired then s
  else if Config.choice s.free (2 ^ 58 + 1024 * mc + unit) % 2 = 1 then eraseUnit s mc unit
  else if st = .suspect then setUnit s mc unit .healthy true
  else s

/-- The targeted scrub of a SUSPECT unit, which a start ended, starts again (R291). -/
def restartTargets (s : State) (mc : Nat) : State :=
  let m := s.mc mc
  let open_ := m.units.filter fun u => u.2 == .suspect && (!m.rows.contains u.1 && tgetD m.groups (unitGroup mc u.1) .inService == .inService)
  s.setMc mc { m with targets := open_.map fun u => u.1 }

/-- The memory repair of BRINGUP: lanes (R291) and recorded rows (R292) of near memory at every start; at a cold start the records of
changed DIMMs are cleared, recorded far rows repaired, and far ranks that are RETIRING are RETIRED (R294). -/
def repairMem (s : State) (warm : Bool) (changed : BitVec 16) : State :=
  let ks := s.mem.mcs.map fun m => m.1
  let near := ks.filter fun k => decide (k < 8)
  let far := if warm then [] else ks.filter fun k => decide (8 ≤ k)
  let s := near.foldl (fun s mc => ((s.mc mc).units.filter fun u => u.2 == .erased).foldl (fun s u => repairLane s mc u.1) s) s
  let s := far.foldl (fun s mc => if changed.getLsbD (mc - 8) then clearDimm s (mc - 8) else s) s
  let s := (near ++ far).foldl (fun s mc => (s.mc mc).rows.foldl (fun s u => repairRow s mc u) s) s
  let s := far.foldl (fun s mc => (s.mc mc).groups.foldl (fun s g => if g.2 = .retiring then setGroupSt s mc g.1 .retired else s) s) s
  ks.foldl restartTargets s

/-- BRINGUP ends (R433 step 6). `fail` is 0 or the code of R435, and `unit` what it concerns. -/
def bringupDone (s : State) (fail unit rate cap : Nat) (far : Training) (oneRank : Bool) : State :=
  if s.mg.mode ≠ .bringup ∨ s.mg.trans.isSome then s
  else if fail ≠ 0 then failStart s fail unit
  else
    let warm := s.mg.start.pendWarm
    let s := copyBanks (loadFlashing (repairMem s warm far.changed))
    let (rate, trained) := trainFar s rate far.chans far.t48 far.t56 far.t64
    let s := if warm then s else configFar (presentRanks s far.chans oneRank) trained cap rate
    setStep (enterMode (reportFar s) .selftest .selftest) 7

def execBringupComplete (fail : BitVec 8) (unit rate : BitVec 16) (far : BitVec 64) (chans : Training) (oneRank : Bool) (s : State) : Out :=
  .next (bringupDone s fail.toNat unit.toNat rate.toNat far.toNat chans oneRank).tick

/-- The self-test ends (R433 step 7); it leaves every array invalid (R248). -/
def bistDone (s : State) (ok : Bool) : State :=
  if s.mg.mode ≠ .selftest ∨ s.mg.trans.isSome ∨ s.mg.start.bist then s
  else if ok then (let s := clearArrays s
    setStep { s with mg := { s.mg with start := { s.mg.start with bist := true } } } 8)
  else failStart s 0x22 0

def execBistComplete (ok : Bool) (s : State) : Out := .next (bistDone s ok).tick

/-- The tile that takes the share of a dead tile (R251). -/
def shareHeir (s : State) (t : Nat) : Option Nat :=
  let live := fun t => !(s.tile t).dead
  if live (nxor t 1) then some (nxor t 1) else (List.range 32).find? live

/-- The shares of dead tiles are written LOST and assigned to live tiles (R251). -/
def moveShares (s : State) : State :=
  let map := fun h => homeTile s (2 * h)
  let shares := (List.range 32).filter fun h => (s.tile (map h)).dead
  let lost := shares.map fun h => (h, lostW s 3 5 (map h) (s.tile (map h)).deadEv)
  let gone := fun k => shares.contains (homeShare (8 * k))
  let s' := { s with mem := { s.mem with lost := lost.foldl (fun (t : Tbl W) (e : Nat × W) => tset t e.1 e.2) s.mem.lost,
                                         words := s.mem.words.filter fun e => !gone e.1,
                                         errs := s.mem.errs.filter fun e => !gone (16 * e.1) } }
  if shares = [] then s
  else
    let new := (List.range 32).map fun h => BitVec.ofNat 8 (if (s.tile (map h)).dead then (shareHeir s (map h)).getD (map h) else map h)
    persist { s' with mg := { s'.mg with blobs := tset s'.mg.blobs (0x1400 * 256 + 2) new } } 1 (coreMap s ++ new)

/-- Memory initialisation ends (R288, R251): a cold start has written the all-zero codeword everywhere. -/
def memInit (s : State) : State :=
  let st := s.mg.start
  if s.mg.mode ≠ .selftest ∨ s.mg.trans.isSome ∨ !st.bist ∨ st.memDone then s
  else
    let s := if st.pendWarm then s else { s with mem := { s.mem with words := [], errs := [], lost := [] } }
    let s := moveShares s
    setStep { s with mg := { s.mg with start := { s.mg.start with memDone := true } } } 9

def execMemoryInitComplete (s : State) : Out := .next (memInit s).tick

/-! ## The entry to SERVICE -/

/-- The partition descriptors (R162). -/
def partsOf (s : State) : List (Nat × Nat × BitVec 2) :=
  ((List.range 16).map fun i => dval s 0x3000 (i + 1)).filterMap fun d =>
    let base := d % 2 ^ 22
    let last := d / 2 ^ 22 % 2 ^ 22
    if last < base ∨ d / 2 ^ 44 % 4 = 0 ∨ 0x3F8000 ≤ last then none else some (base, last, BitVec.ofNat 2 (d / 2 ^ 44 % 4))

/-- Every word of a range lies in memory of a world's partition. -/
def rangeOwned (s : State) (w : World) (lpa n : Nat) : Bool := (List.range ((n + 7) / 8)).all fun i => owns s w (lpa + 8 * i)

/-- A table address that is valid (R197, R154). -/
def tableOk (s : State) (w : World) (a n : Nat) : Option Nat := if a ≠ 0 ∧ a % 4096 = 0 ∧ rangeOwned s w a n then some a else none

/-- A vector address that is valid (R165). -/
def vectorOk (a : Nat) : Option (BitVec 59) := if a ≠ 0 ∧ a % 4096 = 0 ∧ a < 2 ^ 57 then some (BitVec.ofNat 59 a) else none

/-- The checks at the entry to SERVICE. -/
def takeSettings (s : State) : State :=
  let s := { s with svc := { parts := partsOf s, dims := BitVec.ofNat 16 (dval s 0x0C00 1), coord := BitVec.ofNat 16 (dval s 0x0C00 2), fpSys := dval s 0x3200 9 } }
  let v : Svc := { s.svc with
    vecS := vectorOk (dval s 0x3010 1), vecJ := vectorOk (dval s 0x3010 2), ficVec := vectorOk (dval s 0x3010 3),
    rootS := tableOk s .sys (dval s 0x3020 1) 0x9000, rootJ := tableOk s .job (dval s 0x3020 2) 0x9000,
    ttdS := tableOk s .sys (dval s 0x3100 3) 0x4800, ttdJ := tableOk s .job (dval s 0x3100 4) 0x4800 }
  let s := { s with svc := v }
  let s := setDval s 0x3010 4 (b2n v.vecS.isSome + 2 * b2n v.vecJ.isSome + 4 * b2n v.ficVec.isSome)
  let s := setDval s 0x3020 3 (b2n v.rootS.isSome + 2 * b2n v.rootJ.isSome)
  setDval s 0x3100 5 (b2n v.ttdS.isSome + 2 * b2n v.ttdJ.isSome)

/-- Loads the programs of REED_LIB into every sequencer of their host kind (R405, R428). -/
def loadReedLib (s : State) : State :=
  match findSection s 4 with
  | none => s
  | some x =>
    let b := stBytes s x.off x.len
    let m := bN b 0 2
    let ks := fun kind => match kind with | 0 => List.range 64 | 1 => (List.range 32).map (64 + ·) | _ => (List.range 4).map (96 + ·)
    let one := fun (s : State) (i : Nat) =>
      let o := 8 + 32 * i
      let d := bN b (o + 0x18) 4
      let ws := (List.range (bN b (o + 0x16) 2)).map fun k => BitVec.ofNat 14 (bN b (d + 8 * (k / 4)) 8 / 2 ^ (14 * (k % 4)))
      (ks (bN b (o + 0x10) 1)).foldl (fun (s : State) q => s.setSq q ((s.sq q).load (bN b (o + 0x12) 2) ws)) s
    let s := (List.range m).foldl one s
    { s with mg := { s.mg with blobs := tset s.mg.blobs (0x2030 * 256 + 1) ((b.drop 8).take (32 * m)) } }

/-- A record outside the migration pool that SPAWN and boot may take (R57, R78): FREE and not withdrawn. The records of a
retired core never leave FREE (R477). -/
def freeRecord (s : State) (core : Nat) : Option Nat :=
  if (s.core core).life = .retired then none
  else ((List.range (160 - dval s 0x3200 0x01)).map fun i => core * 160 + i).find? fun n => (s.ctx n).dir.state == .free && !withdrawnRec s n

/-- A fresh context (R78): every field zero and every word NIL, but for those given. -/
def freshCtx (gen : BitVec 16) (owner : World) (prio : BitVec 2) (sup : Bool) (space : BitVec 12) (pc : BitVec 59) (pkr : BitVec 64) : Ctx :=
  { dir := { state := .held, heldFrom := .ready, gen := gen, owner := owner, prio := prio },
    r := { pc := pc, pkr := pkr, ctxStat := BitVec.ofNat 32 (owner.num + 2 * b2n sup + 4 * space.toNat) } }

/-- The context of a boot record (R429). -/
def bootCtx (s : State) (r : BootRec) : State :=
  let core := if (s.tile (tileOf r.core)).dead then ((List.range 256).find? fun c => !(s.tile (tileOf c)).dead).getD r.core else r.core
  match freeRecord s core with
  | none => s
  | some n =>
    let c := freshCtx (s.ctx n).dir.gen r.world 3 true (BitVec.ofNat 12 r.space) (BitVec.ofNat 59 r.entry) 0
    makeReady (s.setCtx n (setCtxReg c 1 r.g1)) n

/-- A segment lies in memory that a descriptor assigns to a world or to both (R429). -/
def segmentOk (s : State) (x : Segment) : Bool :=
  (List.range x.ws.length).all fun i => isMem s (x.lpa + 8 * i) && partOwner s.svc.parts (x.lpa + 8 * i) != 0

/-- Writes the words of a segment through the homes. -/
def writeSegment (s : State) (x : Segment) : State :=
  (List.range x.ws.length).foldl (fun s i => agentWrite s (x.lpa / 8 + i) (x.ws.getD i nilW) 255) s

/-- The device enters SERVICE (R433 step 9), or the boot segments fail the start. -/
def enterService (s : State) : State :=
  if s.mg.mode ≠ .selftest ∨ s.mg.trans.isSome ∨ !s.mg.start.memDone then s
  else
    let warm := s.mg.start.pendWarm
    let s := loadReedLib (takeSettings s)
    let body := match findSection s 5 with | some x => stBytes s x.off x.len | none => []
    let segs := (if body = [] then [] else (bootSegments body).getD []).filter fun x => !warm || x.warm
    if segs.any fun x => !segmentOk s x then failStart s 0x23 5
    else
      let seq := s.sark.nextSeq
      let s := segs.foldl writeSegment s
      if s.sark.nextSeq ≠ seq then failStart s 0x22 0 else
      let s := (if body = [] then [] else bootRecs body).foldl bootCtx s
      let s := enterMode (flushTracked s) .service .service
      let s := persistVal (setDval s 0x2000 0x05 0) 5 0x2000 0x05
      let k := if warm then 0x08 else 0x07
      let s := persistVal (setDval s 0x2000 k (dval s 0x2000 k + 1)) 4 0x2000 k
      let s := setStatus (setStep s 9) 2
      persist { s with mg := { s.mg with start := { s.mg.start with running := false } } } 2 (coreMap s)

def execServiceEntry (s : State) : Out := .next (enterService s).tick

/-- A step exceeds its bound (R433), the boot ROM's of step 1 among them. -/
def stepTimeout (s : State) (step : Nat) : State :=
  let boot := match s.mg.trans with | some t => step == 1 && (t.target == .loader || t.target == .standby) | none => false
  if dval s 0x2000 0x03 = step ∧ (boot = true ∨ (s.mg.start.running = true ∧ (s.mg.mode = .loader ∨ s.mg.mode = .bringup ∨ s.mg.mode = .selftest) ∧ s.mg.trans.isNone))
  then failStart s 0x24 0 else s

def execStartStepTimeout (step : BitVec 8) (s : State) : Out := .next (stepTimeout s step.toNat).tick

/-! ## Keys (R425, R426) -/

/-- owner_key_hash may be written (R425): the reply status, 0 where it is accepted. -/
def ownerHashStatus (s : State) (h : List (BitVec 8)) : Nat :=
  if s.mg.mode ≠ .loader ∨ s.mg.start.fuse ∨ s.mg.start.burning then 3 else if h.all (· == 0) then 4 else 0

def ownerHash (s : State) (h : List (BitVec 8)) : State :=
  if ownerHashStatus s h ≠ 0 then s
  else { s with mg := { s.mg with blobs := tset s.mg.blobs (0x2010 * 256 + 1) h, start := { s.mg.start with ownerHash := h, burning := true } } }

def execOwnerKeyHashWrite (hash : List (BitVec 8)) (s : State) : Out := .next (ownerHash s hash).tick

def fuseBurnt (s : State) : State :=
  if s.mg.start.burning then setDval { s with mg := { s.mg with start := { s.mg.start with burning := false, fuse := true } } } 0x2010 0x02 1 else s

def execFuseBurnComplete (s : State) : Out := .next (fuseBurnt s).tick

/-- Modes in which RWL entries are written (R452). -/
def rwlMode (m : Mode) : Bool := m == .loader || (m == .bringup || m == .selftest)

def minSvn (s : State) (v : Nat) : State :=
  if rwlMode s.mg.mode ∧ dval s 0x2010 3 ≤ v then persistVal (setDval s 0x2010 3 v) 5 0x2010 3 else s

def execMinSvnWrite (v : BitVec 16) (s : State) : Out := .next (minSvn s v.toNat).tick

end Sys2Proof.Machine
end

