-- ==== Sys2Proof/Machine/Plane.lean ====
section
/-! DEFINITION. The management plane (R451 to R468): mode commands, dictionary requests on every path, mailboxes, relayed
requests; BAR2, BAR4, FLR and the PCIe link (R407 to R417), and the test access port (R504). -/

namespace Sys2Proof.Machine

/-! ## Mode commands (R441, R444) -/

/-- A mode_cmd value from the current mode: the status of R458. -/
def modeStatus (s : State) (v : Nat) : Nat :=
  if s.mg.trans.isSome then 6
  else
    match s.mg.mode, v with
    | .drowse, _ => 0
    | .service, 1 | .service, 2 | .degraded, 1 | .degraded, 2 => 0
    | .quiesce, 3 | .hold, 3 => 0
    | m, 4 => if reacting m then 0 else 5
    | _, _ => 5

/-- The mode that a mode_cmd names. -/
def modeOfCmd (s : State) (v : Nat) : Mode := match v with | 1 => .quiesce | 2 => .hold | 3 => s.mg.base | _ => .safe

/-- mode_cmd: in DROWSE it wakes the device and waits (R444). -/
def modeCmd (s : State) (v : Nat) : State :=
  if modeStatus s v ≠ 0 then s
  else if s.mg.mode = .drowse then
    let t := modeOfCmd s v
    let s := wakeDevice s
    if v = 3 then s else { s with mg := { s.mg with waiting := s.mg.waiting ++ [t] } }
  else
    match v with
    | 1 => beginTrans s .quiesce s.mg.mode
    | 2 => beginTrans s .hold s.mg.mode
    | 3 => beginTrans s s.mg.base s.mg.base
    | _ => toSafe s 0

def execModeCmdQuiesce (s : State) : Out := .next (modeCmd s 1).tick
def execModeCmdHold (s : State) : Out := .next (modeCmd s 2).tick
def execModeCmdResume (s : State) : Out := .next (modeCmd s 3).tick
def execModeCmdSafe (s : State) : Out := .next (modeCmd s 4).tick

/-! ## Reading entries (R457) -/

/-- States of the units of a controller as bytes (R296). -/
def unitBytes (s : State) (mc n : Nat) : List (BitVec 8) := (List.range n).map fun u => BitVec.ofNat 8 (tgetD (s.mc mc).units u .healthy).num

/-- Service states of cores (R488). -/
def CoreLife.num : CoreLife → Nat
  | .inService => 0 | .substituted => 1 | .retired => 2

/-- thatch_state (R488): the bank out of service at each site. -/
def thatchState (s : State) : List (BitVec 8) :=
  (List.range 288).map fun j =>
    if s.sark.withdrawn.any fun b => b / 16 == j then 0xFF
    else (match tget s.sark.bankUsed j with | some b => BitVec.ofNat 8 b | none => 0x0A)

/-- The bytes of an entry that is text or a BLOB. -/
def blobVal (s : State) (i j : Nat) : List (BitVec 8) :=
  match i, j with
  | 0x0100, 3 => [0x4D, 0x4B, 0x2D, 0x48, 0x47, 0x37]
  | 0x0100, 5 => Config.serial
  | 0x0810, _ => unitBytes s (8 + (j - 1)) 40
  | 0x0818, _ => unitBytes s (j - 1) 1024
  | 0x0819, _ => (List.range 32).map fun g => BitVec.ofNat 8 (tgetD (s.mc (j - 1)).groups g .inService).num
  | 0x1400, 1 => coreMap s
  | 0x1400, 2 => (match tget s.mg.blobs (0x1400 * 256 + 2) with | some l => l | none => (List.range 32).map (BitVec.ofNat 8))
  | 0x1400, 3 => (List.range 256).map fun c => BitVec.ofNat 8 (s.core c).life.num
  | 0x1400, 4 => (List.range 32).foldl (fun (l : List (BitVec 8)) t => l ++ toBytes ((s.tile t).waysOut.foldl (fun a e => a + e.2) 0) 2) []
  | 0x1400, 5 => thatchState s
  | 0x1401, _ => (List.range 9).foldl (fun (l : List (BitVec 8)) k => l ++ toBytes (Config.sensor (0x1401 * 256 + 16 * j + k) s.free).toNat 2) []
  | 0x1811, 1 =>
    let b := s.mg.xlateLog.foldl (fun (a : List (BitVec 8)) r => a ++ r) []
    b ++ List.replicate (2048 - b.length) 0
  | 0x2010, 1 => (match blobOf s i j with | [] => List.replicate 48 0 | l => l)
  | _, _ => blobOf s i j

/-- The value of a numeric entry. -/
def numVal (s : State) (i j : Nat) : Nat :=
  let sens := if (tget s.mg.dict (i * 256 + j)).isSome then dval s i j else (Config.sensor (i * 256 + j) s.free).toNat
  match i with
  | 0x0100 => if j = 4 then 0xB0 else if j = 8 then 0x54 + s.pins.boardSlot.toNat
      else if j = 9 then 0x14807001 + (1 + (Config.identity (i * 256 + j)).toNat % 2047) * 2 else (Config.identity (i * 256 + j)).toNat
  | 0x0200 => if j = 1 then s.mg.mode.num else if j = 2 then (modeBase s.mg.mode s.mg.base).num else dval s i j
  | 0x0208 => if j = 2 then b2n s.pins.lockup else dval s i j
  | 0x0400 => if j = 0x44 then 650 + (Config.identity (i * 256 + j)).toNat % 201 else dval s i j
  | 0x0401 =>
    let t := s.tile (j - 1)
    if t.power = .off then 0 else if t.relock then 8 else effClock s (j - 1)
  | 0x0421 => pdState s (j - 1)
  | 0x0800 => if j = 5 then freePages s else dval s i j
  | 0x0811 => (tgetD (s.mc (8 + (j - 1))).groups 0 .inService).num + 4 * (tgetD (s.mc (8 + (j - 1))).groups 1 .inService).num
  | 0x0C11 => (s.port (j - 1)).st.num
  | 0x1800 => if j = 0x60 then s.host.link.toNat else dval s i j
  | 0x1801 | 0x1802 | 0x1803 | 0x1804 => sens
  | 0x1810 =>
    if j = 1 then (match s.sark.log with | r :: _ => r.seq.toNat | [] => s.sark.nextSeq.toNat)
    else if j = 2 then (match s.sark.waiting with | r :: _ => r.seq.toNat | [] => s.sark.nextSeq.toNat)
    else s.sark.snap.length
  | 0x2010 => if j = 2 then b2n s.mg.start.fuse else if j = 4 then (Config.identity (i * 256 + j)).toNat % 16 else dval s i j
  | _ => dval s i j

/-- The value bytes of an entry. -/
def readVal (s : State) (e : DEnt) (j : Nat) : List (BitVec 8) :=
  match tyLen e.ty with
  | some n => toBytes (numVal s e.index j) n
  | none => blobVal s e.index j

/-- The domain of the block that reports an entry (R455): a tile, a port, Cowslip, Valley or PCIe. -/
def reporter (i j : Nat) : Option Nat :=
  match i with
  | 0x0401 | 0x1401 => some (j - 1)
  | 0x0C11 => some (55 + j)
  | 0x1800 => if j = 0x40 then some 73 else if j = 0x50 then some 72 else if 0x60 ≤ j then some 74 else none
  | _ => none

/-- A block reports while its domain has power and is not dead. -/
def reports (s : State) (d : Nat) : Bool := pdState s d != 0 && !(decide (d < 32) && (s.tile d).dead)

/-- The entries that blocks report. -/
def mirrored : List (Nat × Nat) :=
  ((List.range 32).map fun t => (0x0401, t + 1)) ++ (((List.range 32).map fun t => (0x1401, t + 1)) ++
  (((List.range 16).map fun p => (0x0C11, p + 1)) ++ [(0x1800, 0x40), (0x1800, 0x50), (0x1800, 0x60), (0x1800, 0x61)]))

/-- A millisecond of mirroring (R455): a block that reports leaves its values, and the time since the last report of any other grows. -/
def mirrorTick (s : State) : State :=
  let quiet := (List.range 76).foldl (fun (q : Tbl Nat) d => if reports s d then tdel q d else tset q d (min 10 (tgetD q d 0 + 1))) s.mg.quiet
  let mirror := mirrored.foldl (fun (m : Tbl (List (BitVec 8))) e =>
    match reporter e.1 e.2, dictEntry e.1 e.2 with
    | some d, some x => if reports s d then tset m (e.1 * 256 + e.2) (readVal s x e.2) else m
    | _, _ => m) s.mg.mirror
  { s with mg := { s.mg with quiet := quiet, mirror := mirror } }

/-- An entry whose block has not reported for 10 ms (R455). -/
def stale (s : State) (i j : Nat) : Bool := match reporter i j with | some d => decide (10 ≤ tgetD s.mg.quiet d 0) | none => false

/-! ## Operations (R457, R467, R506) -/

/-- What Eaves answers: a status, the reply's header fields and value. -/
structure Answer where
  status : Nat
  req    : DictReq
  deriving DecidableEq, Repr

/-- A refusal: no value. -/
def refuseReq (r : DictReq) (st : Nat) : Answer := ⟨st, { r with value := [] }⟩

/-- READ. -/
def dictRead (s : State) (r : DictReq) : Answer :=
  match dictEntry r.index.toNat r.sub.toNat with
  | none => refuseReq r 1
  | some e =>
    if e.ty ≠ r.type.toNat ∨ r.value ≠ [] then refuseReq r 2
    else if e.cls = 2 then refuseReq r 3
    else
      let j := r.sub.toNat
      let old := stale s e.index j
      let v := if old then (tget s.mg.mirror (e.index * 256 + j)).getD (readVal s e j) else readVal s e j
      ⟨if old then 0x0C else 0, { r with value := if e.ty = 0x0D then (v.drop r.arg.toNat).take 4080 else v }⟩

/-- The actions of WO entries and of the entries whose write needs more than its range: the status and the state. -/
def writeAction (s : State) (e : DEnt) (j n : Nat) (v : List (BitVec 8)) : Nat × State :=
  match e.index with
  | 0x0200 => if j = 3 then (let st := modeStatus s n; (st, if st = 0 then modeCmd s n else s)) else (0, putVal s e j v)
  | 0x0208 => if j = 3 then (3, s) else (0, putVal s e j v)
  | 0x2000 =>
    (match n with
     | 1 => if s.mg.mode = .standby ∧ s.mg.trans.isNone then (0, loadCmd s) else (5, s)
     | 2 => if startable s.mg.mode then (0, trigger s false) else (5, s)
     | 3 => if startable s.mg.mode then (0, trigger s true) else (5, s)
     | _ => if goOk s then (0, startGo s) else (5, s))
  | 0x4020 => if injOk s (BitVec.ofNat 64 n) then (0, inject s (BitVec.ofNat 64 n)) else (if dval s 0x4001 1 = 1 then 4 else 3, s)
  | 0x2010 =>
    if j = 1 then (let st := ownerHashStatus s v; (st, ownerHash s v))
    else if n < dval s 0x2010 3 then (4, s) else (0, putVal s e j v)
  | _ => blockWrite s e j n v

/-- WRITE. -/
def dictWrite (s : State) (r : DictReq) : Answer × State :=
  match dictEntry r.index.toNat r.sub.toNat with
  | none => (refuseReq r 1, s)
  | some e =>
    if e.ty ≠ r.type.toNat ∨ !lenFits e r.value then (refuseReq r 2, s)
    else if e.cls = 0 ∨ (e.cls = 3 ∧ !rwlMode s.mg.mode) ∨ (e.cls = 4 ∧ r.job) ∨ (e.index = 0x0208 ∧ r.sub = 3)
        ∨ (e.index = 0x4020 ∧ dval s 0x4001 1 ≠ 1) ∨ (e.index = 0x2010 ∧ r.sub = 1 ∧ ownerHashStatus s r.value = 3) then (refuseReq r 3, s)
    else if !inRange s e r.sub.toNat r.value then (refuseReq r 4, s)
    else
      let a := writeAction s e r.sub.toNat (ofBytes r.value) r.value
      (refuseReq r a.1, a.2)

/-- FORCE (R467). -/
def dictForce (s : State) (r : DictReq) : Answer × State :=
  match dictEntry r.index.toNat r.sub.toNat with
  | none => (refuseReq r 1, s)
  | some e =>
    let n := ofBytes r.value
    let j := r.sub.toNat
    if r.job then (refuseReq r 0x0B, s)
    else if e.ty ≠ r.type.toNat ∨ !lenFits e r.value then (refuseReq r 2, s)
    else if e.index = 0x0C12 ∧ n = 1 then (refuseReq r 0, fencePort s (j - 1))
    else if e.index = 0x0420 ∧ n = 1 ∧ j < 76 then (refuseReq r 0, gateDomain s (j - 1))
    else if e.index = 0x2000 ∧ j = 4 ∧ (n = 2 ∨ n = 3) then (refuseReq r 0, forceStart s (n == 3))
    else if e.index = 0x0208 ∧ j = 3 ∧ n = 1 then (refuseReq r 0, releaseLockup s)
    else (refuseReq r 4, s)

/-- NEXT. -/
def dictNextOp (r : DictReq) : Answer :=
  match dictNext r.index.toNat r.sub.toNat with
  | none => refuseReq r 1
  | some (e, j) =>
    let len := match tyLen e.ty with | some n => n | none => e.len
    ⟨0, { r with type := BitVec.ofNat 8 e.ty, index := BitVec.ofNat 16 e.index, sub := BitVec.ofNat 8 j,
                 value := [BitVec.ofNat 8 e.cls, BitVec.ofNat 8 (b2n e.p)] ++ toBytes len 2 }⟩

/-- LOG. -/
def dictLog (s : State) (r : DictReq) : Answer :=
  match s.sark.log.find? fun f => f.seq == r.arg with
  | some f => ⟨0, { r with value := frecBytes f }⟩
  | none => refuseReq r 8

/-- SNAP. -/
def dictSnap (s : State) (r : DictReq) : Answer :=
  if r.arg.toNat < s.sark.snap.length then ⟨0, { r with value := (s.sark.snap.drop r.arg.toNat).take 4080 }⟩ else refuseReq r 8

/-- The header is well formed (R456): a known operation, arg zero but where the operation uses it, and no type for NEXT,
LOG and SNAP. -/
def formatOk (op : Nat) (r : DictReq) : Bool :=
  decide (1 ≤ op ∧ op ≤ 6) && ((r.arg == 0 || (op == 5 || (op == 6 || (op == 1 && r.type == 0x0D)))) && (decide (op < 4) || r.type == 0))

/-- A request at the device that performs it. -/
def perform (s : State) (op : Nat) (r : DictReq) : Answer × State :=
  if !formatOk op r then (refuseReq r 7, s)
  else match op with
  | 1 => (dictRead s r, s)
  | 2 => dictWrite s r
  | 3 => dictForce s r
  | 4 => (dictNextOp r, s)
  | 5 => (dictLog s r, s)
  | 6 => (dictSnap s r, s)
  | _ => (refuseReq r 7, s)

/-! ## Paths (R459 to R461) -/

/-- A message's bytes (R456). -/
def msgBytes (op status : Nat) (r : DictReq) : List (BitVec 8) :=
  [BitVec.ofNat 8 op, r.tag, BitVec.ofNat 8 status, r.type] ++ (toBytes r.index.toNat 2 ++ ([r.sub, BitVec.ofNat 8 (b2n r.remote + 2 * b2n r.job)]
    ++ (toBytes r.arg.toNat 4 ++ (toBytes r.value.length 2 ++ (toBytes r.dest.toNat 2 ++ r.value)))))

/-- Bytes as 64-bit words from word k on. -/
def packWords (bs : List (BitVec 8)) : Tbl (BitVec 64) :=
  (List.range ((bs.length + 7) / 8)).map fun i => (i, BitVec.ofNat 64 (ofBytes ((bs.drop (8 * i)).take 8)))

/-- A reply reaches the BAR2 mailbox (R414). -/
def replyBar2 (s : State) (b : List (BitVec 8)) : State :=
  msix { s with host := { s.host with staging := stPut s.host.staging 0x3F01000 b,
                                      dm := { s.host.dm with rlen := BitVec.ofNat 13 b.length, done := true, busy := false } } } 0

/-- A reply reaches register-space mailbox m (R461). -/
def replyBox (s : State) (m : Nat) (b : List (BitVec 8)) : State :=
  let x := tgetD s.mg.boxes m {}
  let s := { s with mg := { s.mg with boxes := tset s.mg.boxes m { x with rpy := packWords b, rlen := BitVec.ofNat 13 b.length, done := true, busy := false } } }
  let s := if x.dbEn then ringBits s x.lcn.toNat (1 <<< x.event.toNat) else s
  if x.irqEn then signal s 0xA0 (BitVec.ofNat 64 m) else s

/-- A reply goes back on the path of its request. -/
def deliverReply (s : State) (op : Nat) (a : Answer) : State :=
  let r := a.req
  let out := { s with host := { s.host with replies := s.host.replies ++ [(r.path, BitVec.ofNat 8 (op + 0x80), BitVec.ofNat 8 a.status, r)] } }
  match r.path.toNat with
  | 2 => replyBar2 s (msgBytes (op + 0x80) a.status r)
  | 4 | 5 | 6 | 7 => replyBox s (r.path.toNat - 4) (msgBytes (op + 0x80) a.status r)
  | _ => out

/-- A path carries requests in the device's mode (R460). -/
def pathOpen (s : State) (path : Nat) : Bool :=
  match path with
  | 0 => s.mg.mode != .off
  | 1 | 2 => startable s.mg.mode && s.host.link == 1 || (s.mg.mode == .standby && s.host.link == 1)
  | 4 | 5 | 6 | 7 => issuing s.mg.mode
  | _ => false

/-- A request on a path: performed here, or relayed to its device (R459). -/
def request (s : State) (op : Nat) (r : DictReq) : State :=
  if !pathOpen s r.path.toNat then s
  else if !formatOk op r ∨ (r.remote = false ∧ r.dest ≠ 0) then deliverReply s op (refuseReq r 7)
  else
    if !r.remote then
      let a := perform s op r
      deliverReply a.2 op a.1
    else
      match unreachable s r.dest with
      | some _ => deliverReply s op (refuseReq r 9)
      | none =>
        if r.dest = devNo s then
          let a := perform s op { r with remote := false }
          deliverReply a.2 op ⟨a.1.status, { a.1.req with remote := true }⟩
        else
          let w : World := if r.job then .job else .sys
          let s := sendMsg s ⟨⟨r.dest, devNo s, 0xFFFF, w, true, 0, 0⟩, 4, .mgmt false (BitVec.ofNat 8 op) 0 { r with remote := false }⟩
          let s := { s with mg := { s.mg with remotes := s.mg.remotes ++ [(r.tag, r.path, BitVec.ofNat 8 op, r)] } }
          if r.path = 2 then { s with host := { s.host with dm := { s.host.dm with busy := true } } }
          else if 4 ≤ r.path.toNat ∧ r.path.toNat < 8 then
            let m := r.path.toNat - 4
            { s with mg := { s.mg with boxes := tset s.mg.boxes m { tgetD s.mg.boxes m {} with busy := true } } }
          else s

def execDictRead (req : DictReq) (s : State) : Out := .next (request s 1 req).tick
def execDictWrite (req : DictReq) (s : State) : Out := .next (request s 2 req).tick
def execDictForce (req : DictReq) (s : State) : Out := .next (request s 3 req).tick
def execDictNext (req : DictReq) (s : State) : Out := .next (request s 4 req).tick
def execDictLog (req : DictReq) (s : State) : Out := .next (request s 5 req).tick
def execDictSnap (req : DictReq) (s : State) : Out := .next (request s 6 req).tick

/-- Reported values are mirrored (R455). -/
def execDictMirrorTick (s : State) : Out := .next (mirrorTick s).tick

/-- A relayed request is performed, or a reply delivered (R459). -/
def mgmtIn (s : State) (h : Hdr) (isReply : Bool) (op status : BitVec 8) (r : DictReq) : State :=
  if h.dest ≠ devNo s ∨ !portsRun s.mg.mode then s
  else if isReply then
    match splitAtFirst (fun (e : BitVec 8 × BitVec 4 × BitVec 8 × DictReq) => e.1 == r.tag && (e.2.2.1 == op && e.2.2.2.dest == h.src)) s.mg.remotes with
    | none => s
    | some (a, e, b) =>
      deliverReply { s with mg := { s.mg with remotes := a ++ b } } op.toNat ⟨status.toNat, { r with path := e.2.1, remote := true, dest := e.2.2.2.dest }⟩
  else
    let r := { r with path := 3, job := h.world == .job }
    let a := if r.remote ∨ r.dest ≠ devNo s then (refuseReq r 7, s) else perform s op.toNat r
    sendMsg a.2 ⟨⟨h.src, devNo s, 0xFFFF, h.world, true, 0, 0⟩, 4, .mgmt true op (BitVec.ofNat 8 a.1.status) { a.1.req with remote := false }⟩

def execMgmt (h : Hdr) (reply : Bool) (op status : BitVec 8) (req : DictReq) (s : State) : Out :=
  .next (mgmtIn s h reply op status req).tick

/-- A relayed request has had no reply for 100 ms (R458). -/
def remoteLate (s : State) (tag : BitVec 8) : State :=
  match splitAtFirst (fun (e : BitVec 8 × BitVec 4 × BitVec 8 × DictReq) => e.1 == tag) s.mg.remotes with
  | none => s
  | some (a, e, b) => deliverReply { s with mg := { s.mg with remotes := a ++ b } } e.2.2.1.toNat (refuseReq e.2.2.2 0x0A)

def execDictRemoteTimeout (tag : BitVec 8) (s : State) : Out := .next (remoteLate s tag).tick

/-- Saturating increment of a count of lost gos. -/
def lostGo (x : BitVec 8) : BitVec 8 := if x = 0xFF then x else x + 1

/-- Earlier BAR4 accesses of the host are still outstanding (R414). -/
def hostBusy (s : State) : Bool := s.host.barOut != 0 || s.host.barQ != []

/-- What has to wait for them. -/
def hostLater (s : State) (x : HostOp) : State := { s with host := { s.host with barQ := s.host.barQ ++ [x] } }

/-- HI_DM_CTL.go (R414). -/
def hiDmGo (s : State) (op : Nat) (r : DictReq) : State :=
  let d := s.host.dm
  if d.busy ∨ d.len.toNat < 1 ∨ 4096 < d.len.toNat then { s with host := { s.host with dm := { d with lostGo := lostGo d.lostGo } } }
  else
    let s := { s with host := { s.host with dm := { d with busy := true } } }
    let r := { r with path := 2 }
    if d.len.toNat < 16 then deliverReply s op (refuseReq r 7) else request s op r

/-- The host reaches the device over PCIe. -/
def linkUp (s : State) : Bool := s.host.link == 1 && s.mg.mode != .off

def execHiDmGo (op : BitVec 8) (req : DictReq) (s : State) : Out := .next (if !linkUp s then s else if hostBusy s then hostLater s (.request op req) else hiDmGo s op.toNat req).tick

/-- DMB_CTL.go (R461). -/
def dmbGo (s : State) (m op : Nat) (r : DictReq) : State :=
  let x := tgetD s.mg.boxes m {}
  if x.busy ∨ x.len.toNat < 16 ∨ 4096 < x.len.toNat then { s with mg := { s.mg with boxes := tset s.mg.boxes m { x with lostGo := lostGo x.lostGo } } }
  else
    let s := { s with mg := { s.mg with boxes := tset s.mg.boxes m { x with busy := true } } }
    request s op { r with path := BitVec.ofNat 4 (4 + m) }

def execDmbGo (m : BitVec 2) (op : BitVec 8) (req : DictReq) (s : State) : Out :=
  .next (if issuing s.mg.mode then dmbGo s m.toNat op.toNat req else s).tick

/-- A request message's bytes (R456): op, the request, and whether its format is good. -/
def parseReq (b : List (BitVec 8)) (path : BitVec 4) : Nat × DictReq × Bool :=
  let op := (b.getD 0 0).toNat
  let fl := b.getD 7 0
  let len := bN b 12 2
  let r : DictReq := ⟨path, b.getD 1 0, b.getD 3 0, BitVec.ofNat 16 (bN b 4 2), b.getD 6 0, fl.getLsbD 0, fl.getLsbD 1, BitVec.ofNat 32 (bN b 8 4),
    BitVec.ofNat 16 (bN b 14 2), (b.drop 16).take len⟩
  (op, r, formatOk op r && (b.getD 2 0 == 0 && (decide (fl.toNat < 4) && (b.length == 16 + len && (r.remote || r.dest == 0)))))

/-! ## BAR2, BAR4 and the link -/

/-- A write of staging bytes (R411, R427): the image area takes them in LOADER before GO only; a write there ends the
verified state (R432). -/
def bar2Write (s : State) (off : Nat) (data : List (BitVec 8)) : State :=
  let stop := off + data.length
  let img := decide (off < 0x3F00000)
  let free := s.mg.mode == .loader && (!s.mg.start.running && !(s.mg.start.relay && s.mg.start.relayLen != 0))
  if img && !free then hostError s off 2 6
  else
    let d := (data.take (min data.length (0x3F02000 - off)))
    let s := { s with host := { s.host with staging := if off < 0x3F02000 then stPut s.host.staging off d else s.host.staging } }
    if img && decide (0 < stop) then { s with mg := { s.mg with start := { s.mg.start with verified := false } } } else s

def execBar2Write (off : BitVec 26) (data : List (BitVec 8)) (s : State) : Out := .next (if linkUp s then bar2Write s off.toNat data else s).tick

/-- The modes that refuse BAR0 and BAR4 (R439). -/
def hostRefused (m : Mode) : Bool :=
  match m with | .off | .standby | .loader | .bringup | .selftest | .safe => true | _ => false

/-- BAR4 is open (R412): enabled, a global base, and a world that host_worlds permits. -/
def barOpen (s : State) : Bool :=
  s.host.barEn && (s.host.barBase.getLsbD 58 && decide (dval s 0x3000 0x22 / 2 ^ s.host.barW.num % 2 = 1))

/-- What waits in the host's order survives an FLR but for reads, whose data nobody takes, and requests of the mailbox. -/
def flrKeeps (x : HostOp) : Bool :=
  match x with
  | .word _ _ _ data => data.isSome
  | .effect lpa _ => lpa != 0xD00028
  | .request _ _ => false

/-- FLR (R408): host registers, the MSI-X table and the dictionary mailbox are reset; BAR4 operations in flight are performed,
and their answers are discarded. -/
def flrReset (s : State) : State :=
  let h := s.host
  let gone := fun (o : OutOp) => match o.owner with | .host _ read => { o with owner := .hostGone read } | _ => o
  { s with
    remote := { s.remote with ops := s.remote.ops.map fun o => (o.1, gone o.2) }
    host := { sentMsi := h.sentMsi, staging := h.staging, link := h.link, perst := h.perst, barSize := h.barSize, writes := h.writes,
              reads := h.reads, barOut := h.barOut, barQ := h.barQ.filter flrKeeps, barData := h.barData, replies := h.replies, spdm := h.spdm } }

def execFlr (s : State) : Out := .next (if linkUp s then flrReset s else s).tick

/-- PE_PERST_N low (R501). -/
def execPePerstNAssert (s : State) : Out :=
  let t := flrReset s
  .next (setLink { t with host := { t.host with perst := true } } 0).tick

/-- The link trains (R407): 0 DOWN, 1 UP, 2 NARROW. -/
def execPcieLinkChange (state : BitVec 2) (s : State) : Out :=
  .next (if s.mg.mode = .off ∨ state = 3 then s else setLink { s with host := { s.host with perst := s.host.perst && state == 0 } } state).tick

/-- An outbound read has had no completion for 50 ms (R415): all ones, and OUTBOUND is recorded. -/
def outLate (s : State) (x : Exec) : State :=
  match s.host.reads.find? fun r => r.1 == x with
  | none => s
  | some r =>
    let s := hostError { s with host := { s.host with reads := s.host.reads.filter fun q => q != r } } (r.2.toNat % 2 ^ 35) 7 9
    let f := fun (p : Pend) => if p.why = .outbound then { p with words := tset p.words 0 ⟨0x006, 0xFFFFFFFFFFFFFFFF⟩, ready := true } else p
    match x with
    | .ctx n => s.modCtx n.toNat fun c => { c with pend := c.pend.map f }
    | .fic k => s.modCore k.toNat fun c => { c with fic := { c.fic with pend := c.fic.pend.map f } }

def execOutboundReadTimeout (x : Exec) (s : State) : Out := .next (outLate s x).tick

/-- The response code to an SPDM request (R417): each of the seven requests that the device supports has its own response, and any
other ERROR; the codes are SPDM's (PRESUMED). -/
def spdmResponse (code : BitVec 8) : BitVec 8 :=
  if [0x81, 0x82, 0x83, 0x84, 0xE0, 0xE1, 0xE3].contains code then code - 0x80 else 0x7F

/-- Eaves answers an SPDM request as responder (R417). -/
def execSpdmRequest (code : BitVec 8) (s : State) : Out :=
  .next (if linkUp s then { s with host := { s.host with spdm := s.host.spdm ++ [(code, spdmResponse code)] } } else s).tick

/-! ## The test access port (R504) -/

def execTrstNAssert (s : State) : Out := .next ({ s with pins := { s.pins with tapIr := 1 } }).tick

/-- IDCODE (1) and BYPASS (all ones) act always; boundary scan and debug only in LOADER with jtag_en set, and what they do
is not stated. -/
def execTapInstruction (ir : BitVec 8) (s : State) : Out :=
  if ir = 1 ∨ ir = 0xFF then .next ({ s with pins := { s.pins with tapIr := ir } }).tick
  else if dval s 0x4001 1 = 1 ∧ s.mg.mode = .loader then .refused .tapUnspecified
  else .next s.tick

end Sys2Proof.Machine
end

