-- ==== Sys2Proof/Machine/Regs.lean ====
section
/-! DEFINITION. Register space (R276, R278) and BAR0 (R409, R410, R413): what a location reads as, what a write does, which
world and which host access may reach it; and the commands that write registers. -/

namespace Sys2Proof.Machine

/-! ## Where a location lies (R278) -/

/-- A block of register space that a chapter lays out, with the offset in it. -/
inductive RegBlk where
  | seq (k o : Nat)
  | prog (k i : Nat)
  | gc (w : World) (o : Nat)
  | gpt (w : World) (o : Nat)
  | chan (n o : Nat)
  | group (g o : Nat)
  | port (p o : Nat)
  | mc (m o : Nat)
  | mbox (m o : Nat)
  | notice (o : Nat)
  | slot (n o : Nat)
  | moved (w : World) (o : Nat)
  | dbRemote
  | msixSend
  | none_
  deriving DecidableEq, Repr

/-- The block of a register-space LPA. -/
def regBlk (lpa : Nat) : RegBlk :=
  let o := lpa % 2 ^ 32
  match lpa / 2 ^ 32 with
  | 0x7F0 =>
    let t := o / 2 ^ 24
    let p := o % 2 ^ 24
    if 32 ≤ t then .none_
    else if 0x800000 ≤ p ∧ p < 0x810000 then .seq (64 + t) (p - 0x800000)
    else if 0x810000 ≤ p ∧ p < 0x818000 then .prog (64 + t) ((p - 0x810000) / 8)
    else if 0x880000 ≤ p ∧ p < 0x881000 then .gc .sys (p - 0x880000)
    else if 0x881000 ≤ p ∧ p < 0x882000 then .gc .job (p - 0x881000)
    else if 0x890000 ≤ p ∧ p < 0x891000 then .gpt .sys (p - 0x890000)
    else if 0x891000 ≤ p ∧ p < 0x892000 then .gpt .job (p - 0x891000)
    else .none_
  | 0x7F1 =>
    if o < 0x40000 then .chan (o / 0x1000) (o % 0x1000)
    else if 0x1000000 ≤ o ∧ o < 0x1200000 then .prog ((o - 0x1000000) / 0x8000) (o % 0x8000 / 8)
    else .none_
  | 0x7F2 =>
    if o < 0x4000 then .group (o / 0x100) (o % 0x100)
    else if 0x10000 ≤ o ∧ o < 0x50000 then
      (if o % 0x10000 < 0x8000 then .seq (96 + (o - 0x10000) / 0x10000) (o % 0x10000) else .prog (96 + (o - 0x10000) / 0x10000) (o % 0x8000 / 8))
    else .none_
  | 0x7F3 => if o < 0x1000000 then .port (o / 0x100000) (o % 0x100000) else .none_
  | 0x7F4 =>
    if o < 0x800000 then .mc (o / 0x100000) (o % 0x100000)
    else if 0x1000000 ≤ o ∧ o < 0x2000000 then .mc (8 + (o - 0x1000000) / 0x100000) (o % 0x100000)
    else .none_
  | 0x7F5 =>
    if o < 0x20000 then .notice o
    else if o < 0x30000 then .mbox ((o - 0x20000) / 0x4000) (o % 0x4000)
    else .none_
  | 0x7F6 =>
    if o < 0x280000 then .slot (o / 0x40) (o % 0x40)
    else if 0x1000000 ≤ o ∧ o < 0x1001000 then .moved .sys (o - 0x1000000)
    else if 0x1001000 ≤ o ∧ o < 0x1002000 then .moved .job (o - 0x1001000)
    else if o = 0x1002000 then .dbRemote
    else if o = 0x1003000 then .msixSend
    else .none_
  | _ => .none_

/-- The outbound window (R415). -/
def isOut (lpa : Nat) : Bool := decide (0x7F800000000 ≤ lpa) && decide (lpa < 0x80000000000)

/-! ## Reading -/

/-- Numbers of the sequencer states (R271). -/
def SeqSt.num : SeqSt → Nat
  | .idle => 0 | .running => 1 | .waiting => 2 | .ended => 3 | .faulted => 4

/-- Numbers of the group states (R362). -/
def GSt.num : GSt → Nat
  | .idle => 0 | .armed => 1 | .up => 2 | .down => 3 | .done => 4 | .error => 5

/-- The registers q, a and c of a sequencer, at offsets 0x100 to 0x1A0 (R271, R365). -/
def seqFileRead (q : Seq) (o : Nat) : Nat :=
  if 0x100 ≤ o ∧ o < 0x140 then (tgetD q.q ((o - 0x100) / 8) nilW).payload.toNat
  else if 0x140 ≤ o ∧ o < 0x180 then (tgetD q.q ((o - 0x140) / 8) nilW).tag.toNat
  else if 0x180 ≤ o ∧ o < 0x1A0 then (tgetD q.a ((o - 0x180) / 8) 0).toNat
  else if o = 0x1A0 then q.c.toNat
  else 0

/-- A Teasel or Cowslip sequencer block (R271). -/
def seqRead (q : Seq) (o : Nat) : Nat :=
  match o with
  | 0x000 => 4 * q.owner.num + 8 * q.space.toNat + 2 ^ 15 * q.entry.toNat + 2 ^ 27 * b2n q.irqEn
  | 0x008 => q.st.num + 8 * q.fault.toNat + 2 ^ 11 * q.pc.toNat + 2 ^ 23 * b2n q.done
  | 0x010 => q.faddr.toNat
  | 0x018 => q.events.toNat
  | 0x020 => q.marks.toNat
  | _ => seqFileRead q o

/-- The GC registers (R257). -/
def gcRead (g : Gc) (o : Nat) : Nat :=
  match o with
  | 0x00 => g.ctl.toNat
  | 0x08 => g.est.toNat + 2 ^ 63 * b2n g.estV
  | 0x10 => g.mark.toNat
  | 0x18 => g.lo.toNat
  | 0x20 => g.hi.toNat
  | _ => 0

/-- The Global Policy Table (R309). -/
def gptRead (w : WorldSt) (o : Nat) : Nat :=
  if o % 16 = 0 then (tgetD w.gptB (o / 16) 0).toNat else (tgetD w.gptN (o / 16) 0).toNat

/-- A Valley channel block (R383, R387). -/
def chanRead (c : Chan) (q : Seq) (o : Nat) : Nat :=
  match o with
  | 0x00 => c.owner.num + 2 * c.space.toNat + 2 ^ 13 * c.prio.toNat + 2 ^ 16 * b2n c.errIrq
  | 0x20 => c.st.num + 4 * b2n c.recheck + 8 * b2n c.held + 2 ^ 8 * c.err.toNat
  | 0x28 => c.cur.toNat
  | 0x30 => c.tail.toNat
  | 0x38 => c.doneCnt.toNat
  | 0x40 => c.progress.toNat
  | 0x48 => c.errAddr.toNat
  | 0x50 => c.errInfo.toNat
  | 0x1A8 => q.events.toNat
  | _ => seqFileRead q o

/-- A Cowslip group (R362). -/
def groupRead (g : Group) (o : Nat) : Nat :=
  match o with
  | 0x00 => g.kind.toNat + 4 * g.rop.toNat + 2 ^ 5 * b2n g.ty + 2 ^ 6 * g.count.toNat + 2 ^ 12 * b2n g.member + 2 ^ 13 * b2n g.root
      + 2 ^ 14 * g.parent.toNat + 2 ^ 18 * g.children.toNat + 2 ^ 34 * g.owner.num + 2 ^ 35 * b2n g.en
  | 0x08 => g.inp.toNat
  | 0x10 => g.out.toNat
  | 0x18 => g.lcn.toNat + 2 ^ 16 * g.event.toNat + 2 ^ 20 * b2n g.dbEn + 2 ^ 21 * b2n g.irqEn
  | 0x28 => g.st.num + 8 * b2n g.ovf + 2 ^ 8 * g.err.toNat + 2 ^ 16 * g.seq.toNat + 2 ^ 32 * g.lostGo.toNat + 2 ^ 48 * g.errDev.toNat
  | 0x40 => g.sent.toNat
  | 0x48 => g.recv.toNat
  | _ => 0

/-- A Laraor port (R349). -/
def portRead (p : Port) (o : Nat) : Nat :=
  match o with
  | 0x00 => laStat p
  | 0x08 => p.event.toNat
  | 0x10 => p.irqEn.toNat
  | 0x18 => p.replays.toNat
  | 0x20 => p.discards.toNat
  | 0x50 => p.ue.toNat
  | _ => if 0x28 ≤ o ∧ o < 0x50 then (tgetD p.laneCe ((o - 0x28) / 8) 0).toNat else 0

/-- A memory controller (R295). -/
def mcRead (m : Mc) (state o : Nat) : Nat :=
  match o with
  | 0x00 => state
  | 0x08 => m.ce.toNat
  | 0x10 => m.ue.toNat
  | 0x18 => m.lastUe.toNat + 2 ^ 43 * b2n m.lastRsv + 2 ^ 44 * m.lastGrp.toNat
  | 0x20 => m.scrubQ.toNat + 2 ^ 32 * m.scrubG.toNat
  | 0x28 => m.event.toNat
  | 0x30 => m.irqEn.toNat
  | _ => 0

/-- A register-space mailbox (R461). -/
def mboxRead (x : Mbox) (o : Nat) : Nat :=
  if 0x1000 ≤ o ∧ o < 0x2000 then (tgetD x.req ((o - 0x1000) / 8) 0).toNat
  else if 0x2000 ≤ o ∧ o < 0x3000 then (tgetD x.rpy ((o - 0x2000) / 8) 0).toNat
  else
    match o with
    | 0x000 => x.owner.toNat
    | 0x008 => x.len.toNat + 2 ^ 13 * b2n x.irqEn + 2 ^ 14 * b2n x.dbEn + 2 ^ 17 * x.lcn.toNat + 2 ^ 33 * x.event.toNat
    | 0x010 => b2n x.busy + 2 * b2n x.done + 4 * x.rlen.toNat + 2 ^ 15 * x.lostGo.toNat
    | _ => 0

/-- The notice areas (R462). -/
def noticeRead (s : State) (o : Nat) : Nat :=
  match o with
  | 0x00000 => (match s.sark.last with
      | some r => r.seq.toNat + 2 ^ 32 * r.cls.toNat + 2 ^ 40 * r.react.toNat + 2 ^ 48 * r.mode.num
      | none => 0)
  | 0x00008 => dval s 0x1000 1
  | 0x00010 => b2n s.pins.lockup
  | 0x10000 => s.mg.mode.num + 2 ^ 4 * (modeBase s.mg.mode s.mg.base).num + 2 ^ 8 * b2n s.mg.trans.isSome
  | 0x10008 => dval s 0x2000 1 + 2 ^ 8 * dval s 0x2000 2
  | _ => 0

/-- A doorbell slot (R75). -/
def slotRead (d : Dir) (o : Nat) : Nat :=
  match o with
  | 0x00 | 0x08 => d.events.toNat
  | 0x10 => d.state.num + 2 ^ 4 * d.prio.toNat + 2 ^ 6 * d.owner.num + 2 ^ 8 * d.gen.toNat
  | _ => 0

/-- A MOVED ring (R320). -/
def movedRead (w : WorldSt) (o : Nat) : Nat :=
  if 0x100 ≤ o ∧ o < 0x500 then
    let e := tgetD w.ring ((o - 0x100) / 16) (0, 0)
    if o % 16 = 0 then e.1.toNat else e.2.toNat
  else
    match o with
    | 0x000 => w.prod.toNat
    | 0x008 => w.cons.toNat
    | 0x010 => w.lost.toNat
    | _ => 0

/-- What a location of register space reads as; zero where no chapter assigns it (R278). -/
def regRead (s : State) (lpa : Nat) : W :=
  rawW (match regBlk lpa with
    | .seq k o => seqRead (s.sq k) o
    | .prog k i => (tgetD (s.sq k).prog i 0).toNat
    | .gc w o => gcRead (s.world w).gc o
    | .gpt w o => gptRead (s.world w) o
    | .chan n o => chanRead (s.chan n) (s.sq n) o
    | .group g o => groupRead (s.group g) o
    | .port p o => portRead (s.port p) o
    | .mc m o => mcRead (s.mc m) (mcState s m) o
    | .mbox m o => mboxRead (tgetD s.mg.boxes m {}) o
    | .notice o => noticeRead s o
    | .slot n o => slotRead (s.ctx n).dir o
    | .moved w o => movedRead (s.world w) o
    | .dbRemote | .msixSend | .none_ => 0)

/-! ## Worlds (R164, R257, R271, R309, R320, R362, R364) -/

/-- A world may read a location. -/
def regReadOk (s : State) (w : World) (lpa : Nat) : Bool :=
  regBlockOk s w lpa && (match regBlk lpa with
    | .group g _ => (s.group g).owner == w || w == .sys && decide (lpa % 0x100 = 0)
    | .seq k _ | .prog k _ => decide (k < 96) || w == .sys
    | .moved v _ => v == w
    | _ => true)

/-- A world may write a value to a location. -/
def regWriteOk (s : State) (w : World) (lpa : Nat) (v : BitVec 64) : Bool :=
  regBlockOk s w lpa && (match regBlk lpa with
    | .gc u _ | .gpt u _ | .moved u _ => u == w
    | .seq k o => if 96 ≤ k then w == .sys else (s.sq k).owner == w || (w == .sys && (o == 0 && v.getLsbD 1))
    | .prog k _ => if 96 ≤ k then w == .sys else seqWorld s k == w
    | .chan n o => (s.chan n).owner == w || (w == .sys && o == 0)
    | .group g o => (s.group g).owner == w || (w == .sys && o == 0)
    | _ => true)

/-! ## Writing -/

/-- A sequencer accepts writes to the registers and program words that are idle only. -/
def seqIdle (s : State) (k : Nat) : Bool :=
  if k < 64 then (s.chan k).st != .running else !((s.sq k).st == .running || (s.sq k).st == .waiting)

/-- Writes q, a or c (R271, R365). -/
def seqFileWrite (s : State) (k o : Nat) (v : BitVec 64) : State :=
  let q := s.sq k
  if !seqIdle s k then s
  else if 0x100 ≤ o ∧ o < 0x140 then s.setSq k (q.setQ (BitVec.ofNat 3 ((o - 0x100) / 8)) { q.qv (BitVec.ofNat 3 ((o - 0x100) / 8)) with payload := v })
  else if 0x140 ≤ o ∧ o < 0x180 then
    let t := BitVec.ofNat 10 v.toNat
    if reservedTag t then s
    else s.setSq k (q.setQ (BitVec.ofNat 3 ((o - 0x140) / 8)) { q.qv (BitVec.ofNat 3 ((o - 0x140) / 8)) with tag := t })
  else if 0x180 ≤ o ∧ o < 0x1A0 then s.setSq k (q.setA (BitVec.ofNat 2 ((o - 0x180) / 8)) (BitVec.ofNat 59 v.toNat))
  else if o = 0x1A0 then s.setSq k { q with c := BitVec.ofNat 32 v.toNat }
  else s

/-- Writes a program word (R405). -/
def progWrite (s : State) (k i : Nat) (v : BitVec 64) : State :=
  if seqIdle s k then s.setSq k { s.sq k with prog := tset (s.sq k).prog i (BitVec.ofNat 14 v.toNat), progBad := (s.sq k).progBad.filter (· != i) } else s

/-- TSL_CTL (R271): its fields, then halt of a program that runs, or go. System World that is not the owner only halts. -/
def seqCtlWrite (s : State) (w : World) (k : Nat) (v : BitVec 64) : State :=
  let q := s.sq k
  if q.owner ≠ w ∧ k < 96 then seqHalt s k
  else
    let idle := seqIdle s k
    let q := { q with irqEn := v.getLsbD 27, owner := if idle then worldOf (bitsN v 2 1) else q.owner,
                      space := if idle then BitVec.ofNat 12 (bitsN v 3 12) else q.space,
                      entry := if idle then BitVec.ofNat 12 (bitsN v 15 12) else q.entry }
    let s := s.setSq k q
    if idle then (if v.getLsbD 0 then seqGo s k else s) else (if v.getLsbD 1 then seqHalt s k else s)

/-- A Teasel or Cowslip sequencer block. -/
def seqRegWrite (s : State) (w : World) (k o : Nat) (v : BitVec 64) : State :=
  match o with
  | 0x000 => seqCtlWrite s w k v
  | 0x008 => if v.getLsbD 23 then s.setSq k { s.sq k with done := false } else s
  | 0x018 => seqEvent s k (BitVec.ofNat 16 v.toNat)
  | _ => seqFileWrite s k o v

/-- Agents that apply the GC registers (R258): the live cores and the Teasel engines. -/
def gcAgents (s : State) : List Nat :=
  (List.range 256).filter (coreLive s) ++ ((List.range 32).filter fun t => !(s.tile t).dead).map (· + 320)

/-- A write of GC registers or of the Global Policy Table is not performed until every agent applies it (R258, R309). -/
def gcBegin (s : State) (x : Option Exec) : State :=
  let old := fun (w : WorldSt) => { w with gcOld := w.gc, gptOld := (w.gptB, w.gptN) }
  { s with gcLag := gcAgents s, gcBy := x, ws := old s.ws, wj := old s.wj }

/-- Writes a GC register (R257). -/
def gcWrite (s : State) (x : Option Exec) (w : World) (o : Nat) (v : BitVec 64) : State :=
  let s := gcBegin s x
  let t := s.world w
  let g := t.gc
  let g := match o with
    | 0x00 => { g with ctl := BitVec.ofNat 7 v.toNat }
    | 0x08 => { g with est := BitVec.ofNat 43 v.toNat, estV := v.getLsbD 63 }
    | 0x10 => { g with mark := BitVec.ofNat 43 v.toNat }
    | 0x18 => { g with lo := BitVec.ofNat 59 v.toNat }
    | 0x20 => { g with hi := BitVec.ofNat 59 v.toNat }
    | _ => g
  s.setWorld w { t with gc := g }

/-- Writes an entry of the Global Policy Table (R309). -/
def gptWrite (s : State) (x : Option Exec) (w : World) (o : Nat) (v : BitVec 64) : State :=
  let s := gcBegin s x
  let t := s.world w
  s.setWorld w (if o % 16 = 0 then { t with gptB := tset t.gptB (o / 16) (BitVec.ofNat 58 v.toNat) }
                else { t with gptN := tset t.gptN (o / 16) (BitVec.ofNat 47 v.toNat) })

/-- VL_CTL (R383, R364): owner by System World only. -/
def vlCtlWrite (s : State) (w : World) (n : Nat) (v : BitVec 64) : State :=
  let c := s.chan n
  let idle := decide (c.st ≠ .running)
  s.setChan n { c with owner := if idle && w == .sys then worldOf (bitsN v 0 1) else c.owner,
                       space := if idle then BitVec.ofNat 12 (bitsN v 1 12) else c.space,
                       prio := BitVec.ofNat 3 (bitsN v 13 3), errIrq := v.getLsbD 16 }

/-- A Valley channel block. -/
def chanWrite (s : State) (w : World) (n o : Nat) (v : BitVec 64) : State :=
  match o with
  | 0x00 => vlCtlWrite s w n v
  | 0x08 => vlHead s n (BitVec.ofNat 59 v.toNat)
  | 0x10 => if v.getLsbD 0 then vlRing s n else s
  | 0x18 => if v.getLsbD 0 then vlAbort s n else s
  | 0x1A8 => seqEvent s n (BitVec.ofNat 16 v.toNat)
  | _ => seqFileWrite s n o v

/-- A group accepts writes to the fields that are idle only. -/
def GSt.idleFor (g : GSt) : Bool := g == .idle || (g == .done || g == .error)

/-- CW_GCFG (R362). -/
def groupCfg (g : Group) (w : World) (v : BitVec 64) : Group :=
  if !g.st.idleFor then g
  else { g with kind := BitVec.ofNat 2 (bitsN v 0 2), rop := BitVec.ofNat 3 (bitsN v 2 3), ty := v.getLsbD 5, count := BitVec.ofNat 6 (bitsN v 6 6),
                member := v.getLsbD 12, root := v.getLsbD 13, parent := BitVec.ofNat 4 (bitsN v 14 4), children := BitVec.ofNat 16 (bitsN v 18 16),
                owner := if w = .sys then worldOf (bitsN v 34 1) else g.owner, en := v.getLsbD 35 }

/-- A Cowslip group. -/
def groupWrite (s : State) (w : World) (n o : Nat) (v : BitVec 64) : State :=
  let g := s.group n
  match o with
  | 0x00 => s.setGroup n (groupCfg g w v)
  | 0x08 => if g.st.idleFor then s.setGroup n { g with inp := BitVec.ofNat 43 v.toNat } else s
  | 0x10 => if g.st.idleFor then s.setGroup n { g with out := BitVec.ofNat 43 v.toNat } else s
  | 0x18 => s.setGroup n { g with lcn := BitVec.ofNat 16 v.toNat, event := BitVec.ofNat 4 (bitsN v 16 4), dbEn := v.getLsbD 20, irqEn := v.getLsbD 21 }
  | 0x20 => if v.getLsbD 0 then collStart s n else s
  | 0x30 => s.setGroup n { g with sent := g.sent + v }
  | 0x38 => s.setGroup n { g with recv := g.recv + v }
  | _ => s

/-- A Laraor port. -/
def portWrite (s : State) (p o : Nat) (v : BitVec 64) : State :=
  let q := s.port p
  match o with
  | 0x08 => s.setPort p { q with event := q.event &&& ~~~(BitVec.ofNat 4 v.toNat) }
  | 0x10 => s.setPort p { q with irqEn := BitVec.ofNat 4 v.toNat }
  | _ => s

/-- A memory controller. -/
def mcWrite (s : State) (m o : Nat) (v : BitVec 64) : State :=
  let c := s.mc m
  match o with
  | 0x28 => s.setMc m { c with event := c.event &&& ~~~(BitVec.ofNat 4 v.toNat) }
  | 0x30 => s.setMc m { c with irqEn := BitVec.ofNat 4 v.toNat }
  | _ => s

def setBox (s : State) (m : Nat) (x : Mbox) : State := { s with mg := { s.mg with boxes := tset s.mg.boxes m x } }

/-- The bytes of a table of 64-bit words. -/
def wordBytes (t : Tbl (BitVec 64)) (len : Nat) : List (BitVec 8) :=
  ((List.range ((len + 7) / 8)).foldl (fun (l : List (BitVec 8)) i => l ++ toBytes (tgetD t i 0).toNat 8) []).take len

/-- DMB_CTL (R461). -/
def dmbCtl (s : State) (m : Nat) (v : BitVec 64) : State :=
  let x := tgetD s.mg.boxes m {}
  let x := { x with len := BitVec.ofNat 13 v.toNat, irqEn := v.getLsbD 13, dbEn := v.getLsbD 14, lcn := BitVec.ofNat 16 (bitsN v 17 16),
                    event := BitVec.ofNat 4 (bitsN v 33 4) }
  let s := setBox s m x
  if !v.getLsbD 16 then s
  else
    let r := parseReq (wordBytes x.req x.len.toNat) (BitVec.ofNat 4 (4 + m))
    if r.2.2 ∨ x.busy ∨ x.len.toNat < 16 ∨ 4096 < x.len.toNat then dmbGo s m r.1 r.2.1
    else deliverReply (setBox s m { x with busy := true }) r.1 (refuseReq r.2.1 7)

/-- A register-space mailbox. -/
def mboxWrite (s : State) (m o : Nat) (v : BitVec 64) : State :=
  let x := tgetD s.mg.boxes m {}
  if 0x1000 ≤ o ∧ o < 0x2000 then (if x.busy then s else setBox s m { x with req := tset x.req ((o - 0x1000) / 8) v })
  else
    match o with
    | 0x000 => setBox s m { x with owner := BitVec.ofNat 32 v.toNat }
    | 0x008 => dmbCtl s m v
    | 0x010 => if v.getLsbD 1 then setBox s m { x with done := false } else s
    | _ => s

/-- A write of a doorbell slot (R75, R76, R319): by a world other than the owner it is discarded and counted. -/
def slotWrite (s : State) (w : Option World) (n o : Nat) (v : BitVec 64) : State :=
  let d := (s.ctx n).dir
  let foreign : Bool := match w with | some u => d.owner != u | none => false
  if foreign ∨ noBells (modeAt s (tileOf (coreOf n))) = true then discardRing s
  else if o ≠ 0 ∧ o ≠ 8 then s
  else if o = 0 then ringBits s n (BitVec.ofNat 16 v.toNat)
  else if d.state = .stub then s
  else s.modCtx n fun c => { c with dir := { c.dir with events := c.dir.events &&& ~~~(BitVec.ofNat 16 v.toNat) } }

/-- MSIX_SEND (R415): vectors below 8 belong to the device. -/
def msixSend (s : State) (v : BitVec 64) : State :=
  let n := v.toNat % 2048
  if n < 8 then hostError s n 7 10 else msix s n

/-- A write to a location of register space other than DB_REMOTE and the outbound window, by software of a world or by the
host with System World authority; whoever executes is known for the rules of R258. -/
def regWrite (s : State) (w : World) (host : Bool) (x : Option Exec) (lpa : Nat) (v : BitVec 64) : State :=
  match regBlk lpa with
  | .seq k o => seqRegWrite s w k o v
  | .prog k i => progWrite s k i v
  | .gc u o => gcWrite s x u o v
  | .gpt u o => gptWrite s x u o v
  | .chan n o => chanWrite s w n o v
  | .group g o => groupWrite s w g o v
  | .port p o => portWrite s p o v
  | .mc m o => mcWrite s m o v
  | .mbox m o => mboxWrite s m o v
  | .slot n o => slotWrite s (if host then none else some w) n o v
  | .moved u o => if o = 8 then s.setWorld u { s.world u with cons := BitVec.ofNat 32 v.toNat } else s
  | .msixSend => msixSend s v
  | .notice _ | .dbRemote | .none_ => s

/-! ## BAR0 (R409, R410, R413) -/

/-- host_reg (0x3000.21) opens a block to the host; the doorbell slots are always reachable. -/
def hostBlockOk (s : State) (lpa : Nat) : Bool :=
  match lpa / 2 ^ 32 with
  | 0x7F0 => dval s 0x3000 0x21 % 2 == 1
  | 0x7F1 => dval s 0x3000 0x21 / 2 % 2 == 1
  | 0x7F2 => dval s 0x3000 0x21 / 4 % 2 == 1
  | 0x7F3 => dval s 0x3000 0x21 / 8 % 2 == 1
  | 0x7F4 => dval s 0x3000 0x21 / 16 % 2 == 1
  | _ => true

/-- An MSI-X table entry is written (R407): an unmasked vector that is pending is sent. -/
def msixTable (s : State) (o : Nat) (v : BitVec 64) : State :=
  let n := o / 16
  let x := tgetD s.host.vecs n {}
  let x := if o % 16 = 0 then { x with addr := v } else { x with data := BitVec.ofNat 32 v.toNat, mask := v.getLsbD 32 }
  let s := { s with host := { s.host with vecs := tset s.host.vecs n x } }
  if !x.mask && x.pba then msix { s with host := { s.host with vecs := tset s.host.vecs n { x with pba := false } } } n else s

/-- Bits of HI_RAISE (R413): each signals its source, whose detail is stated nowhere (R179): a free value. -/
def hiRaise (s : State) (v : BitVec 64) : State :=
  (List.range 64).foldl (fun s i => if v.getLsbD i then signal s (0xC0 + i) (Config.freeValue s.free (2 ^ 21 + i)) else s) s

/-- A go of HI_DM_CTL takes the request of its length from the buffer (R414). -/
def hiDmTake (s : State) (v : BitVec 64) : State :=
  let s := { s with host := { s.host with dm := { s.host.dm with len := BitVec.ofNat 13 v.toNat } } }
  let r := parseReq (stBytes s 0x3F00000 s.host.dm.len.toNat) 2
  if r.2.2 || (s.host.dm.busy || (decide (s.host.dm.len.toNat < 1) || decide (4096 < s.host.dm.len.toNat))) then hiDmGo s r.1 r.2.1
  else deliverReply { s with host := { s.host with dm := { s.host.dm with busy := true } } } r.1 (refuseReq r.2.1 7)

/-- HI_DM_CTL (R413, R414): its go waits for earlier BAR4 accesses. -/
def hiDmCtl (s : State) (v : BitVec 64) : State :=
  if !v.getLsbD 16 then { s with host := { s.host with dm := { s.host.dm with len := BitVec.ofNat 13 v.toNat } } }
  else if hostBusy s then hostLater s (.effect 0xD00028 v)
  else hiDmTake s v

/-- A host-interface register or an MSI-X location, by its BAR0 offset. -/
def hiWrite (s : State) (o : Nat) (v : BitVec 64) : State :=
  let h := s.host
  if 0xE00000 ≤ o ∧ o < 0xE08000 then msixTable s (o - 0xE00000) v
  else
    match o with
    | 0xD00000 => { s with host := { h with barBase := BitVec.ofNat 59 v.toNat } }
    | 0xD00008 => { s with host := { h with barEn := v.getLsbD 0, barW := worldOf (bitsN v 1 1) } }
    | 0xD00010 => { s with host := { h with outBase := BitVec.ofNat 29 (bitsN v 35 29) } }
    | 0xD00018 => { s with host := { h with outEn := v.getLsbD 0 } }
    | 0xD00020 => if hostBusy s then hostLater s (.effect 0xD00020 v) else hiRaise s v
    | 0xD00028 => hiDmCtl s v
    | 0xD00030 => if v.getLsbD 1 then { s with host := { h with dm := { h.dm with done := false } } } else s
    | _ => s

/-- A read of a host-interface register or an MSI-X location, by its BAR0 offset (R6, R407, R413): write-only bits and reserved ones
read zero. -/
def hiRead (s : State) (o : Nat) : Nat :=
  let h := s.host
  if 0xE00000 ≤ o ∧ o < 0xE08000 then
    let v := tgetD h.vecs ((o - 0xE00000) / 16) {}
    if o % 16 = 0 then v.addr.toNat else v.data.toNat + 2 ^ 32 * b2n v.mask
  else if 0xE10000 ≤ o ∧ o < 0xE10100 then
    (List.range 64).foldl (fun a i => a + 2 ^ i * b2n (tgetD h.vecs ((o - 0xE10000) * 8 + i) {}).pba) 0
  else
    match o with
    | 0xD00000 => h.barBase.toNat
    | 0xD00008 => b2n h.barEn + 2 * h.barW.num
    | 0xD00010 => 2 ^ 35 * h.outBase.toNat
    | 0xD00018 => b2n h.outEn
    | 0xD00028 => h.dm.len.toNat
    | 0xD00030 => b2n h.dm.busy + 2 * b2n h.dm.done + 2 ^ 2 * h.dm.rlen.toNat + 2 ^ 15 * h.dm.lostGo.toNat
    | 0xD00038 => h.errOff.toNat + 2 ^ 40 * h.errBar.toNat + 2 ^ 43 * h.errCause.toNat
    | 0xD00040 => h.errCnt.toNat
    | _ => 0

/-- The rows of R409 that map a run of BAR0 offsets to register space: the first offset, the LPA there, and the length. -/
def bar0Rows : List (Nat × Nat × Nat) :=
  (List.range 32).foldl (fun (l : List (Nat × Nat × Nat)) t =>
      let o := t * 0x40000
      let a := 0x7F000000000 + t * 0x1000000
      l ++ [(o, a + 0x800000, 0x20000), (o + 0x20000, a + 0x880000, 0x10000), (o + 0x30000, a + 0x890000, 0x10000)]) []
    ++ ([(0x800000, 0x7F100000000, 0x40000), (0xA00000, 0x7F101000000, 0x200000), (0xC00000, 0x7F200000000, 0x80000)]
    ++ ((List.range 16).map (fun p => (0xC80000 + p * 0x1000, 0x7F300000000 + p * 0x100000, 0x1000))
    ++ ((List.range 8).map (fun k => (0xC90000 + k * 0x1000, 0x7F400000000 + k * 0x100000, 0x1000))
    ++ ((List.range 16).map (fun c => (0xCA0000 + c * 0x1000, 0x7F401000000 + c * 0x100000, 0x1000))
    ++ [(0x1000000, 0x7F600000000, 0x280000)]))))

/-- The register-space location of a BAR0 offset (R409); none where the offset is reserved or of the host interface. -/
def bar0Lpa (o : Nat) : Option Nat :=
  (bar0Rows.find? fun r => decide (r.1 ≤ o) && decide (o < r.1 + r.2.2)).map fun r => r.2.1 + (o - r.1)

/-- The BAR0 offset that a host access names, itself or by the register-space LPA behind it. -/
def bar0Off (x : Nat) : Option Nat :=
  if x < 0x2000000 then some x
  else (bar0Rows.find? fun r => decide (r.2.1 ≤ x) && decide (x < r.2.1 + r.2.2)).map fun r => r.1 + (x - r.2.1)

/-- What a host read of 8 bytes at a BAR0 offset returns (R410); none: refused, or not aligned, and completed without data. -/
def bar0Read (s : State) (o : Nat) : Option (BitVec 64) :=
  match bar0Lpa o with
  | some lpa => if o % 8 = 0 ∧ hostBlockOk s lpa = true ∧ regReadOk s .sys lpa = true then some (regRead s lpa).payload else none
  | none => some (BitVec.ofNat 64 (hiRead s o))

/-- A host write of 8 bytes at a BAR0 offset (R409, R410, R414): SIZE where a register is not reached by an aligned access, REGBLOCK
where its block is refused. -/
def bar0Write (s : State) (o : Nat) (v : BitVec 64) : State :=
  match bar0Lpa o with
  | none => hiWrite s o v
  | some lpa =>
    if o % 8 ≠ 0 then hostError s o 0 8
    else
      match regBlk lpa with
      | .slot _ i => if hostBusy s ∧ i = 0 then hostLater s (.effect lpa v) else regWrite s .sys true none lpa v
      | .none_ => s
      | _ => if hostBlockOk s lpa && regWriteOk s .sys lpa v then regWrite s .sys true none lpa v else hostError s o 0 5

/-- What a host write does once it may take effect (R414). -/
def hostEffect (s : State) (lpa : Nat) (v : BitVec 64) : State :=
  if lpa = 0xD00020 then hiRaise s v else if lpa = 0xD00028 then hiDmTake s v else regWrite s .sys true none lpa v

/-- The registers of the dictionary mailbox over PCIe, which every mode serves (R439). -/
def isHostMbox (lpa : Nat) : Bool := lpa == 0xD00028 || lpa == 0xD00030

/-- A host write to a BAR0 offset, or to the register-space LPA behind one, by the mode of the device (R439): refused, held until the
device is awake, or made. No offset reaches any other LPA (R409). -/
def hostWrite (s : State) (x : Nat) (v : BitVec 64) : State :=
  match bar0Off x with
  | none => s
  | some o =>
    if !linkUp s then s
    else if isHostMbox o then bar0Write s o v
    else if hostRefused s.mg.mode then hostError s o 0 6
    else if s.mg.mode = .drowse then holdMsg s (.bar0Write (BitVec.ofNat 43 o) v)
    else bar0Write s o v

/-- Software of a world runs: contexts issue, or the fast interrupt contexts of System World do (R439). -/
def worldRuns (s : State) (w : World) : Bool := issuing s.mg.mode || (ficRuns s.mg.mode && w == .sys)

/-- A register write by whoever the command names: nothing where the writer cannot reach the register. -/
def writeReg (s : State) (by_ : Writer) (lpa : Nat) (v : BitVec 64) : State :=
  match by_ with
  | .host => hostWrite s lpa v
  | .world w => if lpa % 8 == 0 && (worldRuns s w && (isReg lpa && (!isOut lpa && regWriteOk s w lpa v))) then regWrite s w false none lpa v else s

/-! ## Commands -/

/-- The block of tile t, of a channel, of a group. -/
def tileBase (t : Nat) : Nat := 0x7F000000000 + t * 0x1000000
def chanBase (n : Nat) : Nat := 0x7F100000000 + n * 0x1000
def groupBase (g : Nat) : Nat := 0x7F200000000 + g * 0x100

/-- The block of a Teasel or Cowslip sequencer. -/
def seqBase (k : Nat) : Nat := if k < 96 then tileBase (k - 64) + 0x800000 else 0x7F200010000 + (k - 96) * 0x10000

/-- A sequencer's number names a Teasel or Cowslip sequencer. -/
def hasCtl (k : Nat) : Bool := decide (64 ≤ k) && decide (k < 100)

/-- The value of TSL_CTL that changes no field and sets a command bit. -/
def ctlKeep (s : State) (k bit : Nat) : BitVec 64 := BitVec.ofNat 64 (seqRead (s.sq k) 0 + 2 ^ bit)

def execGcRegisterWrite (by_ : Writer) (w : World) (off : BitVec 12) (v : BitVec 64) (s : State) : Out :=
  .next (writeReg s by_ (tileBase 0 + (if w = .sys then 0x880000 else 0x881000) + off.toNat / 8 * 8) v).tick

/-- Every live core and engine applies the GC write in progress (R258). -/
def gcDone (s : State) : State := { s with gcLag := [], gcBy := none }

def execGcWritePerformed (s : State) : Out := .next (gcDone s).tick

def execTslGo (by_ : Writer) (k : BitVec 7) (s : State) : Out :=
  .next (if hasCtl k.toNat then writeReg s by_ (seqBase k.toNat) (ctlKeep s k.toNat 0) else s).tick

def execTslHalt (by_ : Writer) (k : BitVec 7) (s : State) : Out :=
  .next (if hasCtl k.toNat then writeReg s by_ (seqBase k.toNat) (ctlKeep s k.toNat 1) else s).tick

def execTslEventsWrite (by_ : Writer) (k : BitVec 7) (events : BitVec 16) (s : State) : Out :=
  .next (if hasCtl k.toNat then writeReg s by_ (seqBase k.toNat + 0x18) (events.setWidth 64) else s).tick

def execVlHeadWrite (by_ : Writer) (ch : BitVec 6) (v : BitVec 64) (s : State) : Out := .next (writeReg s by_ (chanBase ch.toNat + 0x08) v).tick
def execVlDoorbellWrite (by_ : Writer) (ch : BitVec 6) (v : BitVec 64) (s : State) : Out := .next (writeReg s by_ (chanBase ch.toNat + 0x10) v).tick
def execVlAbortWrite (by_ : Writer) (ch : BitVec 6) (v : BitVec 64) (s : State) : Out := .next (writeReg s by_ (chanBase ch.toNat + 0x18) v).tick
def execVlQeventsWrite (by_ : Writer) (ch : BitVec 6) (v : BitVec 64) (s : State) : Out := .next (writeReg s by_ (chanBase ch.toNat + 0x1A8) v).tick

def execDbRingWrite (by_ : Writer) (lcn : BitVec 16) (events : BitVec 16) (s : State) : Out :=
  .next (if lcn.toNat < 40960 then writeReg s by_ (0x7F600000000 + lcn.toNat * 0x40) (events.setWidth 64) else s).tick

def execDbPendingWrite (by_ : Writer) (lcn : BitVec 16) (events : BitVec 16) (s : State) : Out :=
  .next (if lcn.toNat < 40960 then writeReg s by_ (0x7F600000008 + lcn.toNat * 0x40) (events.setWidth 64) else s).tick

def execCwGgoWrite (by_ : Writer) (group : BitVec 6) (s : State) : Out := .next (writeReg s by_ (groupBase group.toNat + 0x20) 1).tick
def execCwQsentAdd (by_ : Writer) (group : BitVec 6) (v : BitVec 64) (s : State) : Out := .next (writeReg s by_ (groupBase group.toNat + 0x30) v).tick
def execCwQrecvAdd (by_ : Writer) (group : BitVec 6) (v : BitVec 64) (s : State) : Out := .next (writeReg s by_ (groupBase group.toNat + 0x38) v).tick

def execHiRaiseWrite (v : BitVec 64) (s : State) : Out := .next (hostWrite s 0xD00020 v).tick

def execRegisterWrite (by_ : Writer) (lpa : BitVec 43) (v : BitVec 64) (s : State) : Out := .next (writeReg s by_ lpa.toNat v).tick

end Sys2Proof.Machine
end

