-- ==== Sys2Proof/Machine/Answers.lean ====
section
/-! DEFINITION. BAR4 and the order of the host's accesses (R408, R412, R414), and the answers to remote operations at their
requester (R298 to R306, R344). -/

namespace Sys2Proof.Machine

/-! ## BAR4 (R412) -/

/-- A word that a BAR4 read returns: none where it is poisoned or aborted. -/
def hostRead (s : State) (off : BitVec 38) (v : Option (BitVec 64)) : State :=
  { s with host := { s.host with barData := s.host.barData ++ [(off, v)] } }

/-- A fault of a BAR4 access (R416): a refused partial write, a timeout, or a home fault. -/
def hostFault (s : State) (off : BitVec 38) (read : Bool) (f : HF) : State :=
  let cause := if f.cause = 0x41 then 4 else if !read && (f.cause == 5 || f.cause == 8) then 1 else 3
  let s := hostError s off.toNat 4 cause
  if read then hostRead s off none else s

/-- A word that came from the home: LOST is poisoned (R41). -/
def hostWord (s : State) (off : BitVec 38) (w : W) : State :=
  if w.tag = 0x301 then hostRead (hostError s off.toNat 4 2) off none else hostRead s off (some w.payload)

/-- The global address of a BAR4 offset: bits of the base below the BAR's size are ignored. -/
def barVa (s : State) (off : Nat) : BitVec 59 :=
  let size := s.host.barSize.toNat * 2 ^ 30
  BitVec.ofNat 59 (s.host.barBase.toNat / size * size + off % size)

/-- One word of a BAR4 access: performed at this device, or sent to its home; none when the table has no slot. Writes are
counted until they are acknowledged. -/
def barWord (s : State) (o : BitVec 38) (va : BitVec 59) (w : World) (data : Option (W × BitVec 8)) : Option State :=
  let read := data.isNone
  let acc : BitVec 2 := if read then 0 else 1
  match unreachable s (homeDev va) with
  | some sub => some (hostFault s o read ⟨0x40, BitVec.ofNat 8 sub, 1, acc⟩)
  | none =>
    if homeDev va = devNo s then
      (ownSlot s).map fun s =>
        match data with
        | none => (match homeLoad s (devNo s) w true va with
                   | (.ok r, s) => hostWord s o r.1
                   | (.error f, s) => hostFault s o true f)
        | some (v, m) => (match homeStore s (devNo s) w true va v (if m = 255 then 3 else 2) m with
                          | (.ok _, s) => s
                          | (.error f, s) => hostFault s o false f)
    else
      let body := match data with
        | none => Body.rload va 3 false
        | some (v, m) => Body.rstore va v (if m = 255 then 3 else 2) m false
      (sendOp s ⟨.host o read, homeDev va, va, acc, !read, true⟩ 0xFFFF w true 6 body).map fun r =>
        { r.2 with host := { r.2.host with barOut := r.2.host.barOut + b2n (!read) } }

/-- The bytes of a host write that lie in the word at an offset, with their mask. -/
def barBytes (off : Nat) (data : List (BitVec 8)) (at_ : Nat) : W × BitVec 8 :=
  let pick := fun (a : Nat × Nat) (i : Nat) =>
    let k := at_ + i
    if off ≤ k ∧ k < off + data.length then (a.1 + (data.getD (k - off) 0).toNat * 2 ^ (8 * i), a.2 + 2 ^ i) else a
  let r := (List.range 8).foldl pick (0, 0)
  (⟨0x006, BitVec.ofNat 64 r.1⟩, BitVec.ofNat 8 r.2)

/-- The words of a BAR4 access, with the addresses that the window gives them now. -/
def barOps (s : State) (off : BitVec 38) (len : Nat) (data : Option (List (BitVec 8))) : List HostOp :=
  let o := off.toNat
  (List.range ((o + len + 7) / 8 - o / 8)).map fun i =>
    let k := o / 8 * 8 + 8 * i
    .word (BitVec.ofNat 38 k) (barVa s k) s.host.barW (data.map fun d => barBytes o d k)

/-- What waits goes on in order (R412, R414): a write of BAR4 at once, a read and what takes effect in other blocks only after
every earlier write has been acknowledged; a word that finds no slot stays at the front. -/
def barGo (s : State) (fuel : Nat) : State :=
  match fuel, s.host.barQ with
  | 0, _ => s
  | _, [] => s
  | fuel + 1, x :: rest =>
    let t := { s with host := { s.host with barQ := rest } }
    match x with
    | .word off va w data =>
      if data.isNone ∧ s.host.barOut ≠ 0 then s
      else
        (match barWord t off va w data with
         | some u => barGo u fuel
         | none => s)
    | .effect lpa v => if s.host.barOut ≠ 0 then s else barGo (hostEffect t lpa v) fuel
    | .request op r => if s.host.barOut ≠ 0 then s else barGo (hiDmGo t op.toNat r) fuel

def barRun (s : State) : State := barGo s (s.host.barQ.length + 1)

/-- An operation of BAR4 has been answered. -/
def barDone (s : State) (read : Bool) : State :=
  barRun { s with host := { s.host with barOut := s.host.barOut - b2n (!read) } }

/-- A slot of a full table is free: a word that waits for one goes on. -/
def barSlot (s : State) : State := if s.remote.ops.length = 65535 then barRun s else s

/-- What the host's queue does when an operation ends. -/
def barAfter (s : State) (o : OpOwner) : State :=
  match o with
  | .host _ read | .hostGone read => barDone s read
  | _ => barSlot s

/-- The operation of a tag: its slot is taken, its generation is the tag's, and the answer comes from its device. -/
def findOp (s : State) (h : Hdr) : Option OutOp :=
  match tget s.remote.ops h.slot.toNat with
  | some o => if tgetD s.remote.gens h.slot.toNat 0 = h.gen ∧ o.dev = h.src then some o else none
  | none => none

/-- A late answer is discarded and counted (R302, R344). -/
def lateAnswer (s : State) : State := countUp s 0x1800 0x24 1

/-- A word answers a load or an atomic (R298). -/
def answerWord (s : State) (k : Nat) (o : OutOp) (w : W) (ack : Bool) : State :=
  let s := match o.owner with
    | .exec x => let s := giveWord s x k w
                 if ack then giveAck s x else s
    | .valley ch => vlWord s ch k w
    | .seq q => seqWord s q k w
    | .host off _ => hostWord s off w
    | .hostGone _ => s
  barAfter (closeOp s k) o.owner

/-- RDATA. -/
def rdata (s : State) (h : Hdr) (w : W) (ack : Bool) : State :=
  if h.dest ≠ devNo s then s
  else
    match findOp s h with
    | none => lateAnswer s
    | some o => if o.posted then s else answerWord s h.slot.toNat o w ack

def execRdata (h : Hdr) (word : W) (ack : Bool) (s : State) : Out := .next (rdata s h word ack).tick

/-- Installs the pair of a read-only-shared page as replicas (R306): at most replica_ways ways of each set. -/
def installReplica (s : State) (w : World) (va : BitVec 59) (ws : List W) : State :=
  let t := replicaTile va.toNat
  let pair := va.toNat / 128
  let ways := dval s 0x3210 0x04
  let tile := s.tile t
  if tile.dead ∨ ways = 0 then s
  else
    let others := tile.reps.filter fun r => !(r.world == w && r.pair == pair)
    let same := others.filter fun r => l2Set (2 * r.pair) == l2Set (2 * pair)
    let gone := same.take (same.length + 1 - ways)
    let reps := others.filter fun r => !gone.contains r
    let s := s.setTile t { tile with reps := reps }
    let s := l2Room (l2Room s t (l2Set (2 * pair))) t (l2Set (2 * pair + 1))
    s.modTile t fun x => { x with reps := x.reps ++ [⟨w, pair, ws⟩] }

/-- RPAIR (R306). -/
def rpair (s : State) (h : Hdr) (ws : List W) : State :=
  if h.dest ≠ devNo s then s
  else
    match findOp s h with
    | none => lateAnswer s
    | some o =>
      if o.posted ∨ ws.length ≠ 16 then s
      else answerWord (installReplica s h.world o.addr ws) h.slot.toNat o (ws.getD (o.addr.toNat / 8 % 16) nilW) false

def execRpair (h : Hdr) (words : List W) (s : State) : Out := .next (rpair s h words).tick

/-- RACK (R300). -/
def rack (s : State) (h : Hdr) : State :=
  if h.dest ≠ devNo s then s
  else
    match findOp s h with
    | none => lateAnswer s
    | some o =>
      if !o.posted then s
      else
        let k := h.slot.toNat
        let s := match o.owner with
          | .exec x => giveAck s x
          | .valley ch => vlAcked s ch k
          | _ => s
        let s := closeOp s k
        let s := match o.owner with
          | .seq _ | .valley _ => drainCheck s
          | _ => s
        barAfter s o.owner

def execRack (h : Hdr) (s : State) : Out := .next (rack s h).tick

/-- An operation faulted or timed out (R301 to R303, R376, R404). -/
def opEnd (s : State) (k : Nat) (o : OutOp) (f : HF) : State :=
  let s := closeOp s k
  match o.owner with
  | .exec (.ctx n) =>
    let n := n.toNat
    if o.posted then ackStore (latchFault s n ⟨o.addr, f.cause, f.sub, f.lvl, f.acc, o.dev⟩) n
    else
      let s := s.modCtx n fun c =>
        match c.pend with
        | some p => if p.why = .remote ∧ p.needs = some k then { c with pend := some { p with ready := true }, exn := some (remoteExn o.addr f o.dev) } else c
        | none => c
      if o.acc = 3 then ackStore s n else s
  | .exec (.fic c) =>
    if o.posted then countUp (giveAck s (.fic c)) 0x1800 0x25 1
    else
      let s := if o.acc = 3 then giveAck s (.fic c) else s
      (match (s.core c.toNat).fic.pend with
       | some p => if p.why = .remote ∧ p.needs = some k then ficLockup s c.toNat 0x0F else s
       | none => s)
  | .valley ch => vlRemote s ch k o.addr (remoteInfo f o.dev)
  | .seq q => drainCheck (seqRemote s q k o.addr (remoteInfo f o.dev) o.posted)
  | .host off read => hostFault s off read f
  | .hostGone _ => s

def opFault (s : State) (k : Nat) (o : OutOp) (f : HF) : State := barAfter (opEnd s k o f) o.owner

/-- RFAULT. -/
def rfault (s : State) (h : Hdr) (f : HF) : State :=
  if h.dest ≠ devNo s then s
  else
    match findOp s h with
    | none => lateAnswer s
    | some o => opFault s h.slot.toNat o f

def execRfault (h : Hdr) (hcause hsub : BitVec 8) (level : BitVec 3) (acc : BitVec 2) (s : State) : Out :=
  .next (rfault s h ⟨hcause, hsub, level, acc⟩).tick

/-- remote_timeout passes for an operation (R302). -/
def remoteTimeout (s : State) (slot : Nat) (gen : BitVec 16) : State :=
  match tget s.remote.ops slot with
  | some o => if tgetD s.remote.gens slot 0 = gen then opFault s slot o ⟨0x41, 0, BitVec.ofNat 3 (b2n o.level), o.acc⟩ else s
  | none => s

def execRemoteTimeout (slot gen : BitVec 16) (s : State) : Out := .next (remoteTimeout s slot.toNat gen).tick

/-! ## BAR4 commands -/

/-- A BAR4 access (R412, R439, R416). -/
def bar4 (s : State) (off : BitVec 38) (len : BitVec 13) (data : Option (List (BitVec 8))) (ep : Bool) : State :=
  let refused := fun (s : State) (cause : Nat) =>
    let s := hostError s off.toNat 4 cause
    if data.isNone then hostRead s off none else s
  if ep then hostError s off.toNat 4 7
  else if hostRefused s.mg.mode ∨ !barOpen s then refused s 6
  else if s.mg.mode = .hold then refused s 3
  else barRun { s with host := { s.host with barQ := s.host.barQ ++ barOps s off len.toNat data } }

def execBar4Read (off : BitVec 38) (len : BitVec 13) (s : State) : Out :=
  .next (if !linkUp s then s else if s.mg.mode = .drowse then holdMsg s (.bar4Read off len) else bar4 s off len none false).tick

def execBar4Write (off : BitVec 38) (data : List (BitVec 8)) (ep : Bool) (s : State) : Out :=
  .next (if !linkUp s then s else if s.mg.mode = .drowse then holdMsg s (.bar4Write off data ep)
         else bar4 s off (BitVec.ofNat 13 data.length) (some data) ep).tick

end Sys2Proof.Machine
end

