-- ==== Sys2Proof/Machine/Words.lean ====
section
/-! DEFINITION. Instruction words (R106, R117): the instructions, their words, the decoder, and the checks of a word that
need no machine (R121: UNDEFINED, NONZERO_FIELD, REGISTER, SELECTOR). -/

namespace Sys2Proof.Machine

/-- An instruction of a Campion core, with its fields. `atomic` carries func of opcode 0x12 (R131), `bt` and `bnt` the
class, and `rep` stands for the prefix alone. -/
inductive Op where
  | iadd (rd rs rt : BitVec 5)
  | isub (rd rs rt : BitVec 5)
  | imul (rd rs rt : BitVec 5)
  | and (rd rs rt : BitVec 5)
  | or (rd rs rt : BitVec 5)
  | xor (rd rs rt : BitVec 5)
  | andn (rd rs rt : BitVec 5)
  | shl (rd rs rt : BitVec 5)
  | shr (rd rs rt : BitVec 5)
  | sar (rd rs rt : BitVec 5)
  | ult (rd rs rt : BitVec 5)
  | eq (rd rs rt : BitVec 5)
  | ne (rd rs rt : BitVec 5)
  | mov (rd rs : BitVec 5)
  | tagof (rd rs : BitVec 5)
  | add (rd rs rt : BitVec 5)
  | sub (rd rs rt : BitVec 5)
  | mul (rd rs rt : BitVec 5)
  | div (rd rs rt : BitVec 5)
  | rem (rd rs rt : BitVec 5)
  | neg (rd rs : BitVec 5)
  | numeq (rd rs rt : BitVec 5)
  | lt (rd rs rt : BitVec 5)
  | le (rd rs rt : BitVec 5)
  | addi (rd rs : BitVec 5) (imm : BitVec 14)
  | movi (rd : BitVec 5) (imm : BitVec 14)
  | moviR (rd : BitVec 5) (imm : BitVec 14)
  | ldc (rd rs : BitVec 5) (imm : BitVec 14)
  | eqi (rd rs : BitVec 5) (imm : BitVec 14)
  | lti (rd rs : BitVec 5) (imm : BitVec 14)
  | lei (rd rs : BitVec 5) (imm : BitVec 14)
  | gti (rd rs : BitVec 5) (imm : BitVec 14)
  | tagis (rd rs : BitVec 5) (imm : BitVec 10)
  | kindis (rd rs : BitVec 5) (imm : BitVec 2)
  | settag (rd rs : BitVec 5) (imm : BitVec 10)
  | shli (rd rs : BitVec 5) (imm : BitVec 6)
  | shri (rd rs : BitVec 5) (imm : BitVec 6)
  | sari (rd rs : BitVec 5) (imm : BitVec 6)
  | andi (rd rs : BitVec 5) (imm : BitVec 14)
  | fadd (fd fs ft : BitVec 5)
  | fsub (fd fs ft : BitVec 5)
  | fmul (fd fs ft : BitVec 5)
  | fdiv (fd fs ft : BitVec 5)
  | fsqrt (fd fs : BitVec 5)
  | fma (fd fs ft : BitVec 5)
  | fmin (fd fs ft : BitVec 5)
  | fmax (fd fs ft : BitVec 5)
  | fneg (fd fs : BitVec 5)
  | fabs (fd fs : BitVec 5)
  | fmov (fd fs : BitVec 5)
  | fceq (rd fs ft : BitVec 5)
  | fclt (rd fs ft : BitVec 5)
  | fcle (rd fs ft : BitVec 5)
  | fmvgf (fd rs : BitVec 5)
  | fmvfg (rd fs : BitVec 5)
  | fcvtxf (fd rs : BitVec 5)
  | fcvtfx (rd fs : BitVec 5)
  | ldw (rd rs : BitVec 5) (imm : BitVec 14)
  | ldwA (rd rs : BitVec 5) (imm : BitVec 14)
  | ldwP (rd rs : BitVec 5) (imm : BitVec 14)
  | stw (rd rs : BitVec 5) (imm : BitVec 14)
  | stwR (rd rs : BitVec 5) (imm : BitVec 14)
  | ldb (rd rs : BitVec 5) (imm : BitVec 14)
  | ldh (rd rs : BitVec 5) (imm : BitVec 14)
  | stb (rd rs : BitVec 5) (imm : BitVec 14)
  | sth (rd rs : BitVec 5) (imm : BitVec 14)
  | ldx (rd rs rt : BitVec 5)
  | stx (rd rs rt : BitVec 5)
  | ldxA (rd rs rt : BitVec 5)
  | stxR (rd rs rt : BitVec 5)
  | car (rd rs : BitVec 5)
  | cdr (rd rs : BitVec 5)
  | rplaca (rs rt : BitVec 5)
  | rplacd (rs rt : BitVec 5)
  | cons (rd rs rt : BitVec 5)
  | memq (rd rs rt : BitVec 5)
  | assq (rd rs rt : BitVec 5)
  | walk (rd rs rt : BitVec 5)
  | probe (rd rs rt : BitVec 5)
  | alloc (rd rs : BitVec 5) (imm : BitVec 14)
  | copyw (rd rs : BitVec 5)
  | fillw (rd rs : BitVec 5)
  | jr (rs : BitVec 5) (imm : BitVec 14)
  | jlr (rs : BitVec 5) (imm : BitVec 14)
  | callwr (rs : BitVec 5) (imm : BitVec 14)
  | retl 
  | syscall 
  | wcall (rs : BitVec 5)
  | retx 
  | brk 
  | yield 
  | fence 
  | syncG 
  | syncV 
  | syncT 
  | mfs (rd : BitVec 5) (imm : BitVec 12)
  | mts (rs : BitVec 5) (imm : BitVec 12)
  | rdw (rd : BitVec 5) (imm : BitVec 6)
  | wrw (rs : BitVec 5) (imm : BitVec 6)
  | fbrd (rd rs : BitVec 5)
  | fbwr (rs rt : BitVec 5)
  | spawn (rd rs rt : BitVec 5)
  | ctxhold (rs : BitVec 5)
  | ctxrel (rs : BitVec 5)
  | ctxkill (rs : BitVec 5)
  | ctxend 
  | wait (rd rs rt : BitVec 5)
  | waitM (rd rs rt : BitVec 5)
  | ctxrd (rd rs : BitVec 5) (imm : BitVec 12)
  | ctxwr (rd rs : BitVec 5) (imm : BitVec 12)
  | cleanL (rs : BitVec 5)
  | flushL (rs : BitVec 5)
  | invalL (rs : BitVec 5)
  | tlbiVa (rs : BitVec 5)
  | tlbiSp (rs : BitVec 5)
  | tlbiW 
  | setpkr (rs : BitVec 5)
  | atomic (op : BitVec 3) (ord : BitVec 2) (rd rs rt : BitVec 5)
  | ldpc (rd : BitVec 5) (off : BitVec 21)
  | bz (rs : BitVec 5) (off : BitVec 21)
  | bnz (rs : BitVec 5) (off : BitVec 21)
  | bnil (rs : BitVec 5) (off : BitVec 21)
  | bnnil (rs : BitVec 5) (off : BitVec 21)
  | bt (r cls : BitVec 5) (off : BitVec 14)
  | bnt (r cls : BitVec 5) (off : BitVec 14)
  | j (off : BitVec 26)
  | jl (off : BitVec 26)
  | callw (off : BitVec 26)
  | retw
  | rep
  deriving DecidableEq, Repr

/-! ## The formats (R106) -/

/-- RRR. -/
def rrr (op : BitVec 6) (rd rs rt : BitVec 5) (func : BitVec 11) : BitVec 32 := op ++ rd ++ rs ++ rt ++ func

/-- RRI. -/
def rri (op : BitVec 6) (rd rs : BitVec 5) (sub : BitVec 2) (imm : BitVec 14) : BitVec 32 := op ++ rd ++ rs ++ sub ++ imm

/-- BR. -/
def brw (op : BitVec 6) (r : BitVec 5) (off : BitVec 21) : BitVec 32 := op ++ r ++ off

/-- J. -/
def jw (op : BitVec 6) (off : BitVec 26) : BitVec 32 := op ++ off

/-- The word of an instruction. -/
def Op.word (o : Op) : BitVec 32 :=
  match o with
  | .iadd rd rs rt => rrr 0x00 rd rs rt 0x001
  | .isub rd rs rt => rrr 0x00 rd rs rt 0x002
  | .imul rd rs rt => rrr 0x00 rd rs rt 0x003
  | .and rd rs rt => rrr 0x00 rd rs rt 0x004
  | .or rd rs rt => rrr 0x00 rd rs rt 0x005
  | .xor rd rs rt => rrr 0x00 rd rs rt 0x006
  | .andn rd rs rt => rrr 0x00 rd rs rt 0x007
  | .shl rd rs rt => rrr 0x00 rd rs rt 0x008
  | .shr rd rs rt => rrr 0x00 rd rs rt 0x009
  | .sar rd rs rt => rrr 0x00 rd rs rt 0x00A
  | .ult rd rs rt => rrr 0x00 rd rs rt 0x00B
  | .eq rd rs rt => rrr 0x00 rd rs rt 0x00C
  | .ne rd rs rt => rrr 0x00 rd rs rt 0x00D
  | .mov rd rs => rrr 0x00 rd rs 0 0x000
  | .tagof rd rs => rrr 0x00 rd rs 0 0x020
  | .add rd rs rt => rrr 0x00 rd rs rt 0x010
  | .sub rd rs rt => rrr 0x00 rd rs rt 0x011
  | .mul rd rs rt => rrr 0x00 rd rs rt 0x012
  | .div rd rs rt => rrr 0x00 rd rs rt 0x013
  | .rem rd rs rt => rrr 0x00 rd rs rt 0x014
  | .neg rd rs => rrr 0x00 rd rs 0 0x015
  | .numeq rd rs rt => rrr 0x00 rd rs rt 0x018
  | .lt rd rs rt => rrr 0x00 rd rs rt 0x019
  | .le rd rs rt => rrr 0x00 rd rs rt 0x01A
  | .addi rd rs imm => rri 0x01 rd rs 0 imm
  | .movi rd imm => rri 0x02 rd 0 0 imm
  | .moviR rd imm => rri 0x02 rd 0 1 imm
  | .ldc rd rs imm => rri 0x03 rd rs 0 imm
  | .eqi rd rs imm => rri 0x04 rd rs 0 imm
  | .lti rd rs imm => rri 0x04 rd rs 1 imm
  | .lei rd rs imm => rri 0x04 rd rs 2 imm
  | .gti rd rs imm => rri 0x04 rd rs 3 imm
  | .tagis rd rs imm => rri 0x05 rd rs 0 (imm.zeroExtend 14)
  | .kindis rd rs imm => rri 0x05 rd rs 1 (imm.zeroExtend 14)
  | .settag rd rs imm => rri 0x06 rd rs 0 (imm.zeroExtend 14)
  | .shli rd rs imm => rri 0x07 rd rs 0 (imm.zeroExtend 14)
  | .shri rd rs imm => rri 0x07 rd rs 1 (imm.zeroExtend 14)
  | .sari rd rs imm => rri 0x07 rd rs 2 (imm.zeroExtend 14)
  | .andi rd rs imm => rri 0x07 rd rs 3 imm
  | .fadd fd fs ft => rrr 0x08 fd fs ft 0x000
  | .fsub fd fs ft => rrr 0x08 fd fs ft 0x001
  | .fmul fd fs ft => rrr 0x08 fd fs ft 0x002
  | .fdiv fd fs ft => rrr 0x08 fd fs ft 0x003
  | .fsqrt fd fs => rrr 0x08 fd fs 0 0x004
  | .fma fd fs ft => rrr 0x08 fd fs ft 0x005
  | .fmin fd fs ft => rrr 0x08 fd fs ft 0x006
  | .fmax fd fs ft => rrr 0x08 fd fs ft 0x007
  | .fneg fd fs => rrr 0x08 fd fs 0 0x008
  | .fabs fd fs => rrr 0x08 fd fs 0 0x009
  | .fmov fd fs => rrr 0x08 fd fs 0 0x00A
  | .fceq rd fs ft => rrr 0x08 rd fs ft 0x010
  | .fclt rd fs ft => rrr 0x08 rd fs ft 0x011
  | .fcle rd fs ft => rrr 0x08 rd fs ft 0x012
  | .fmvgf fd rs => rrr 0x08 fd rs 0 0x018
  | .fmvfg rd fs => rrr 0x08 rd fs 0 0x019
  | .fcvtxf fd rs => rrr 0x08 fd rs 0 0x01A
  | .fcvtfx rd fs => rrr 0x08 rd fs 0 0x01B
  | .ldw rd rs imm => rri 0x0C rd rs 0 imm
  | .ldwA rd rs imm => rri 0x0C rd rs 1 imm
  | .ldwP rd rs imm => rri 0x0C rd rs 2 imm
  | .stw rd rs imm => rri 0x0D rd rs 0 imm
  | .stwR rd rs imm => rri 0x0D rd rs 1 imm
  | .ldb rd rs imm => rri 0x0E rd rs 0 imm
  | .ldh rd rs imm => rri 0x0E rd rs 1 imm
  | .stb rd rs imm => rri 0x0F rd rs 0 imm
  | .sth rd rs imm => rri 0x0F rd rs 1 imm
  | .ldx rd rs rt => rrr 0x11 rd rs rt 0x000
  | .stx rd rs rt => rrr 0x11 rd rs rt 0x001
  | .ldxA rd rs rt => rrr 0x11 rd rs rt 0x002
  | .stxR rd rs rt => rrr 0x11 rd rs rt 0x003
  | .car rd rs => rrr 0x13 rd rs 0 0x000
  | .cdr rd rs => rrr 0x13 rd rs 0 0x001
  | .rplaca rs rt => rrr 0x13 0 rs rt 0x002
  | .rplacd rs rt => rrr 0x13 0 rs rt 0x003
  | .cons rd rs rt => rrr 0x13 rd rs rt 0x004
  | .memq rd rs rt => rrr 0x13 rd rs rt 0x008
  | .assq rd rs rt => rrr 0x13 rd rs rt 0x009
  | .walk rd rs rt => rrr 0x13 rd rs rt 0x00A
  | .probe rd rs rt => rrr 0x13 rd rs rt 0x00B
  | .alloc rd rs imm => rri 0x14 rd rs 0 imm
  | .copyw rd rs => rrr 0x15 rd rs 0 0x000
  | .fillw rd rs => rrr 0x15 rd rs 0 0x001
  | .jr rs imm => rri 0x23 0 rs 0 imm
  | .jlr rs imm => rri 0x23 0 rs 1 imm
  | .callwr rs imm => rri 0x23 0 rs 2 imm
  | .retl  => rri 0x23 0 0 3 0
  | .syscall  => rrr 0x28 0 0 0 0x000
  | .wcall rs => rrr 0x28 0 rs 0 0x001
  | .retx  => rrr 0x28 0 0 0 0x002
  | .brk  => rrr 0x28 0 0 0 0x003
  | .yield  => rrr 0x28 0 0 0 0x004
  | .fence  => rrr 0x28 0 0 0 0x008
  | .syncG  => rrr 0x28 0 0 0 0x009
  | .syncV  => rrr 0x28 0 0 0 0x00A
  | .syncT  => rrr 0x28 0 0 0 0x00B
  | .mfs rd imm => rri 0x29 rd 0 0 (imm.zeroExtend 14)
  | .mts rs imm => rri 0x29 0 rs 1 (imm.zeroExtend 14)
  | .rdw rd imm => rri 0x2A rd 0 0 (imm.zeroExtend 14)
  | .wrw rs imm => rri 0x2A 0 rs 1 (imm.zeroExtend 14)
  | .fbrd rd rs => rrr 0x2B rd rs 0 0x000
  | .fbwr rs rt => rrr 0x2B 0 rs rt 0x001
  | .spawn rd rs rt => rrr 0x2C rd rs rt 0x000
  | .ctxhold rs => rrr 0x2C 0 rs 0 0x001
  | .ctxrel rs => rrr 0x2C 0 rs 0 0x002
  | .ctxkill rs => rrr 0x2C 0 rs 0 0x003
  | .ctxend  => rrr 0x2C 0 0 0 0x004
  | .wait rd rs rt => rrr 0x2C rd rs rt 0x008
  | .waitM rd rs rt => rrr 0x2C rd rs rt 0x009
  | .ctxrd rd rs imm => rri 0x2D rd rs 0 (imm.zeroExtend 14)
  | .ctxwr rd rs imm => rri 0x2D rd rs 1 (imm.zeroExtend 14)
  | .cleanL rs => rrr 0x2E 0 rs 0 0x000
  | .flushL rs => rrr 0x2E 0 rs 0 0x001
  | .invalL rs => rrr 0x2E 0 rs 0 0x002
  | .tlbiVa rs => rrr 0x2F 0 rs 0 0x000
  | .tlbiSp rs => rrr 0x2F 0 rs 0 0x001
  | .tlbiW  => rrr 0x2F 0 0 0 0x002
  | .setpkr rs => rrr 0x2F 0 rs 0 0x008
  | .atomic op ord rd rs rt => rrr 0x12 rd rs rt ((0 : BitVec 6) ++ op ++ ord)
  | .ldpc rd off => brw 0x10 rd off
  | .bz rs off => brw 0x18 rs off
  | .bnz rs off => brw 0x19 rs off
  | .bnil rs off => brw 0x1A rs off
  | .bnnil rs off => brw 0x1B rs off
  | .bt r cls off => rri 0x1C r cls 0 off
  | .bnt r cls off => rri 0x1C r cls 1 off
  | .j off => jw 0x20 off
  | .jl off => jw 0x21 off
  | .callw off => jw 0x22 off
  | .retw => rrr 0x24 0 0 0 0
  | .rep => jw 0x3F 0

/-! ## Decoding -/

/-- A pointer type that ALLOC may name (R133). -/
def allocCode (c : Nat) : Bool := (decide (0x100 ≤ c) && decide (c ≤ 0x10A)) || (decide (0x1C0 ≤ c) && decide (c ≤ 0x1FF))

/-- An instruction whose unused fields are zero. -/
def zeroF (ok : Bool) (o : Op) : Except Nat Op := if ok then .ok o else .error 2

/-- Opcode 0x00. -/
def dec00 (rd rs rt : BitVec 5) (func : Nat) : Except Nat Op :=
  match func with
  | 0x000 => zeroF (rt == 0) (.mov rd rs)
  | 0x001 => .ok (.iadd rd rs rt)
  | 0x002 => .ok (.isub rd rs rt)
  | 0x003 => .ok (.imul rd rs rt)
  | 0x004 => .ok (.and rd rs rt)
  | 0x005 => .ok (.or rd rs rt)
  | 0x006 => .ok (.xor rd rs rt)
  | 0x007 => .ok (.andn rd rs rt)
  | 0x008 => .ok (.shl rd rs rt)
  | 0x009 => .ok (.shr rd rs rt)
  | 0x00A => .ok (.sar rd rs rt)
  | 0x00B => .ok (.ult rd rs rt)
  | 0x00C => .ok (.eq rd rs rt)
  | 0x00D => .ok (.ne rd rs rt)
  | 0x010 => .ok (.add rd rs rt)
  | 0x011 => .ok (.sub rd rs rt)
  | 0x012 => .ok (.mul rd rs rt)
  | 0x013 => .ok (.div rd rs rt)
  | 0x014 => .ok (.rem rd rs rt)
  | 0x015 => zeroF (rt == 0) (.neg rd rs)
  | 0x018 => .ok (.numeq rd rs rt)
  | 0x019 => .ok (.lt rd rs rt)
  | 0x01A => .ok (.le rd rs rt)
  | 0x020 => zeroF (rt == 0) (.tagof rd rs)
  | _ => .error 1

/-- Opcode 0x01. -/
def dec01 (rd rs : BitVec 5) (sub : Nat) (imm : BitVec 14) : Except Nat Op :=
  match sub with
  | 0 => .ok (.addi rd rs imm)
  | _ => .error 1

/-- Opcode 0x02. -/
def dec02 (rd rs : BitVec 5) (sub : Nat) (imm : BitVec 14) : Except Nat Op :=
  match sub with
  | 0 => zeroF (rs == 0) (.movi rd imm)
  | 1 => zeroF (rs == 0) (.moviR rd imm)
  | _ => .error 1

/-- Opcode 0x03. -/
def dec03 (rd rs : BitVec 5) (sub : Nat) (imm : BitVec 14) : Except Nat Op :=
  match sub with
  | 0 => .ok (.ldc rd rs imm)
  | _ => .error 1

/-- Opcode 0x04. -/
def dec04 (rd rs : BitVec 5) (sub : Nat) (imm : BitVec 14) : Except Nat Op :=
  match sub with
  | 0 => .ok (.eqi rd rs imm)
  | 1 => .ok (.lti rd rs imm)
  | 2 => .ok (.lei rd rs imm)
  | _ => .ok (.gti rd rs imm)

/-- Opcode 0x05. -/
def dec05 (rd rs : BitVec 5) (sub : Nat) (imm : BitVec 14) : Except Nat Op :=
  match sub with
  | 0 => zeroF (imm.extractLsb' 10 4 == 0) (.tagis rd rs (imm.extractLsb' 0 10))
  | 1 => zeroF (imm.extractLsb' 2 12 == 0) (.kindis rd rs (imm.extractLsb' 0 2))
  | _ => .error 1

/-- Opcode 0x06. -/
def dec06 (rd rs : BitVec 5) (sub : Nat) (imm : BitVec 14) : Except Nat Op :=
  match sub with
  | 0 => zeroF (imm.extractLsb' 10 4 == 0) (.settag rd rs (imm.extractLsb' 0 10))
  | _ => .error 1

/-- Opcode 0x07. -/
def dec07 (rd rs : BitVec 5) (sub : Nat) (imm : BitVec 14) : Except Nat Op :=
  match sub with
  | 0 => zeroF (imm.extractLsb' 6 8 == 0) (.shli rd rs (imm.extractLsb' 0 6))
  | 1 => zeroF (imm.extractLsb' 6 8 == 0) (.shri rd rs (imm.extractLsb' 0 6))
  | 2 => zeroF (imm.extractLsb' 6 8 == 0) (.sari rd rs (imm.extractLsb' 0 6))
  | _ => .ok (.andi rd rs imm)

/-- Opcode 0x08. -/
def dec08 (rd rs rt : BitVec 5) (func : Nat) : Except Nat Op :=
  match func with
  | 0x000 => .ok (.fadd rd rs rt)
  | 0x001 => .ok (.fsub rd rs rt)
  | 0x002 => .ok (.fmul rd rs rt)
  | 0x003 => .ok (.fdiv rd rs rt)
  | 0x004 => zeroF (rt == 0) (.fsqrt rd rs)
  | 0x005 => .ok (.fma rd rs rt)
  | 0x006 => .ok (.fmin rd rs rt)
  | 0x007 => .ok (.fmax rd rs rt)
  | 0x008 => zeroF (rt == 0) (.fneg rd rs)
  | 0x009 => zeroF (rt == 0) (.fabs rd rs)
  | 0x00A => zeroF (rt == 0) (.fmov rd rs)
  | 0x010 => .ok (.fceq rd rs rt)
  | 0x011 => .ok (.fclt rd rs rt)
  | 0x012 => .ok (.fcle rd rs rt)
  | 0x018 => zeroF (rt == 0) (.fmvgf rd rs)
  | 0x019 => zeroF (rt == 0) (.fmvfg rd rs)
  | 0x01A => zeroF (rt == 0) (.fcvtxf rd rs)
  | 0x01B => zeroF (rt == 0) (.fcvtfx rd rs)
  | _ => .error 1

/-- Opcode 0x0C. -/
def dec0C (rd rs : BitVec 5) (sub : Nat) (imm : BitVec 14) : Except Nat Op :=
  match sub with
  | 0 => .ok (.ldw rd rs imm)
  | 1 => .ok (.ldwA rd rs imm)
  | 2 => .ok (.ldwP rd rs imm)
  | _ => .error 1

/-- Opcode 0x0D. -/
def dec0D (rd rs : BitVec 5) (sub : Nat) (imm : BitVec 14) : Except Nat Op :=
  match sub with
  | 0 => .ok (.stw rd rs imm)
  | 1 => .ok (.stwR rd rs imm)
  | _ => .error 1

/-- Opcode 0x0E. -/
def dec0E (rd rs : BitVec 5) (sub : Nat) (imm : BitVec 14) : Except Nat Op :=
  match sub with
  | 0 => .ok (.ldb rd rs imm)
  | 1 => .ok (.ldh rd rs imm)
  | _ => .error 1

/-- Opcode 0x0F. -/
def dec0F (rd rs : BitVec 5) (sub : Nat) (imm : BitVec 14) : Except Nat Op :=
  match sub with
  | 0 => .ok (.stb rd rs imm)
  | 1 => .ok (.sth rd rs imm)
  | _ => .error 1

/-- Opcode 0x11. -/
def dec11 (rd rs rt : BitVec 5) (func : Nat) : Except Nat Op :=
  match func with
  | 0x000 => .ok (.ldx rd rs rt)
  | 0x001 => .ok (.stx rd rs rt)
  | 0x002 => .ok (.ldxA rd rs rt)
  | 0x003 => .ok (.stxR rd rs rt)
  | _ => .error 1

/-- Opcode 0x13. -/
def dec13 (rd rs rt : BitVec 5) (func : Nat) : Except Nat Op :=
  match func with
  | 0x000 => zeroF (rt == 0) (.car rd rs)
  | 0x001 => zeroF (rt == 0) (.cdr rd rs)
  | 0x002 => zeroF (rd == 0) (.rplaca rs rt)
  | 0x003 => zeroF (rd == 0) (.rplacd rs rt)
  | 0x004 => .ok (.cons rd rs rt)
  | 0x008 => .ok (.memq rd rs rt)
  | 0x009 => .ok (.assq rd rs rt)
  | 0x00A => .ok (.walk rd rs rt)
  | 0x00B => .ok (.probe rd rs rt)
  | _ => .error 1

/-- Opcode 0x14. -/
def dec14 (rd rs : BitVec 5) (sub : Nat) (imm : BitVec 14) : Except Nat Op :=
  match sub with
  | 0 => if allocCode (imm.toNat % 1024) then zeroF (imm.extractLsb' 10 4 == 0) (.alloc rd rs imm) else .error 1
  | _ => .error 1

/-- Opcode 0x15. -/
def dec15 (rd rs rt : BitVec 5) (func : Nat) : Except Nat Op :=
  match func with
  | 0x000 => zeroF (rt == 0) (.copyw rd rs)
  | 0x001 => zeroF (rt == 0) (.fillw rd rs)
  | _ => .error 1

/-- Opcode 0x23. -/
def dec23 (rd rs : BitVec 5) (sub : Nat) (imm : BitVec 14) : Except Nat Op :=
  match sub with
  | 0 => zeroF (rd == 0) (.jr rs imm)
  | 1 => zeroF (rd == 0) (.jlr rs imm)
  | 2 => zeroF (rd == 0) (.callwr rs imm)
  | _ => zeroF (rd == 0 && (rs == 0 && imm == 0)) (.retl)

/-- Opcode 0x28. -/
def dec28 (rd rs rt : BitVec 5) (func : Nat) : Except Nat Op :=
  match func with
  | 0x000 => zeroF (rd == 0 && (rs == 0 && rt == 0)) (.syscall)
  | 0x001 => zeroF (rd == 0 && rt == 0) (.wcall rs)
  | 0x002 => zeroF (rd == 0 && (rs == 0 && rt == 0)) (.retx)
  | 0x003 => zeroF (rd == 0 && (rs == 0 && rt == 0)) (.brk)
  | 0x004 => zeroF (rd == 0 && (rs == 0 && rt == 0)) (.yield)
  | 0x008 => zeroF (rd == 0 && (rs == 0 && rt == 0)) (.fence)
  | 0x009 => zeroF (rd == 0 && (rs == 0 && rt == 0)) (.syncG)
  | 0x00A => zeroF (rd == 0 && (rs == 0 && rt == 0)) (.syncV)
  | 0x00B => zeroF (rd == 0 && (rs == 0 && rt == 0)) (.syncT)
  | _ => .error 1

/-- Opcode 0x29. -/
def dec29 (rd rs : BitVec 5) (sub : Nat) (imm : BitVec 14) : Except Nat Op :=
  match sub with
  | 0 => zeroF (rs == 0 && imm.extractLsb' 12 2 == 0) (.mfs rd (imm.extractLsb' 0 12))
  | 1 => zeroF (rd == 0 && imm.extractLsb' 12 2 == 0) (.mts rs (imm.extractLsb' 0 12))
  | _ => .error 1

/-- Opcode 0x2A. -/
def dec2A (rd rs : BitVec 5) (sub : Nat) (imm : BitVec 14) : Except Nat Op :=
  match sub with
  | 0 => zeroF (rs == 0 && imm.extractLsb' 6 8 == 0) (.rdw rd (imm.extractLsb' 0 6))
  | 1 => zeroF (rd == 0 && imm.extractLsb' 6 8 == 0) (.wrw rs (imm.extractLsb' 0 6))
  | _ => .error 1

/-- Opcode 0x2B. -/
def dec2B (rd rs rt : BitVec 5) (func : Nat) : Except Nat Op :=
  match func with
  | 0x000 => zeroF (rt == 0) (.fbrd rd rs)
  | 0x001 => zeroF (rd == 0) (.fbwr rs rt)
  | _ => .error 1

/-- Opcode 0x2C. -/
def dec2C (rd rs rt : BitVec 5) (func : Nat) : Except Nat Op :=
  match func with
  | 0x000 => .ok (.spawn rd rs rt)
  | 0x001 => zeroF (rd == 0 && rt == 0) (.ctxhold rs)
  | 0x002 => zeroF (rd == 0 && rt == 0) (.ctxrel rs)
  | 0x003 => zeroF (rd == 0 && rt == 0) (.ctxkill rs)
  | 0x004 => zeroF (rd == 0 && (rs == 0 && rt == 0)) (.ctxend)
  | 0x008 => .ok (.wait rd rs rt)
  | 0x009 => .ok (.waitM rd rs rt)
  | _ => .error 1

/-- Opcode 0x2D. -/
def dec2D (rd rs : BitVec 5) (sub : Nat) (imm : BitVec 14) : Except Nat Op :=
  match sub with
  | 0 => zeroF (imm.extractLsb' 12 2 == 0) (.ctxrd rd rs (imm.extractLsb' 0 12))
  | 1 => zeroF (imm.extractLsb' 12 2 == 0) (.ctxwr rd rs (imm.extractLsb' 0 12))
  | _ => .error 1

/-- Opcode 0x2E. -/
def dec2E (rd rs rt : BitVec 5) (func : Nat) : Except Nat Op :=
  match func with
  | 0x000 => zeroF (rd == 0 && rt == 0) (.cleanL rs)
  | 0x001 => zeroF (rd == 0 && rt == 0) (.flushL rs)
  | 0x002 => zeroF (rd == 0 && rt == 0) (.invalL rs)
  | _ => .error 1

/-- Opcode 0x2F. -/
def dec2F (rd rs rt : BitVec 5) (func : Nat) : Except Nat Op :=
  match func with
  | 0x000 => zeroF (rd == 0 && rt == 0) (.tlbiVa rs)
  | 0x001 => zeroF (rd == 0 && rt == 0) (.tlbiSp rs)
  | 0x002 => zeroF (rd == 0 && (rs == 0 && rt == 0)) (.tlbiW)
  | 0x008 => zeroF (rd == 0 && rt == 0) (.setpkr rs)
  | _ => .error 1

/-- Opcode 0x1C (R135). -/
def dec1C (r cls : BitVec 5) (sub : Nat) (off : BitVec 14) : Except Nat Op :=
  if 30 ≤ cls.toNat then .error 1
  else match sub with
    | 0 => .ok (.bt r cls off)
    | 1 => .ok (.bnt r cls off)
    | _ => .error 1

/-- Opcode 0x12 (R131). -/
def dec12 (rd rs rt : BitVec 5) (func : BitVec 11) : Except Nat Op :=
  if func.toNat < 24 then .ok (.atomic (func.extractLsb' 2 3) (func.extractLsb' 0 2) rd rs rt) else .error 1

/-- The instruction of a word, or the subcode of ILLEGAL_OPCODE: 1 UNDEFINED, 2 NONZERO_FIELD (R117, R121). -/
def decodeInstr (w : BitVec 32) : Except Nat Op :=
  let rd := w.extractLsb' 21 5
  let rs := w.extractLsb' 16 5
  let rt := w.extractLsb' 11 5
  let func := w.extractLsb' 0 11
  let sub := (w.extractLsb' 14 2).toNat
  let imm := w.extractLsb' 0 14
  let off := w.extractLsb' 0 21
  let joff := w.extractLsb' 0 26
  match (w.extractLsb' 26 6).toNat with
  | 0x00 => dec00 rd rs rt func.toNat
  | 0x01 => dec01 rd rs sub imm
  | 0x02 => dec02 rd rs sub imm
  | 0x03 => dec03 rd rs sub imm
  | 0x04 => dec04 rd rs sub imm
  | 0x05 => dec05 rd rs sub imm
  | 0x06 => dec06 rd rs sub imm
  | 0x07 => dec07 rd rs sub imm
  | 0x08 => dec08 rd rs rt func.toNat
  | 0x0C => dec0C rd rs sub imm
  | 0x0D => dec0D rd rs sub imm
  | 0x0E => dec0E rd rs sub imm
  | 0x0F => dec0F rd rs sub imm
  | 0x11 => dec11 rd rs rt func.toNat
  | 0x13 => dec13 rd rs rt func.toNat
  | 0x14 => dec14 rd rs sub imm
  | 0x15 => dec15 rd rs rt func.toNat
  | 0x23 => dec23 rd rs sub imm
  | 0x28 => dec28 rd rs rt func.toNat
  | 0x29 => dec29 rd rs sub imm
  | 0x2A => dec2A rd rs sub imm
  | 0x2B => dec2B rd rs rt func.toNat
  | 0x2C => dec2C rd rs rt func.toNat
  | 0x2D => dec2D rd rs sub imm
  | 0x2E => dec2E rd rs rt func.toNat
  | 0x2F => dec2F rd rs rt func.toNat
  | 0x12 => dec12 rd rs rt func
  | 0x10 => .ok (.ldpc rd off)
  | 0x18 => .ok (.bz rd off)
  | 0x19 => .ok (.bnz rd off)
  | 0x1A => .ok (.bnil rd off)
  | 0x1B => .ok (.bnnil rd off)
  | 0x1C => dec1C rd rs sub imm
  | 0x20 => .ok (.j joff)
  | 0x21 => .ok (.jl joff)
  | 0x22 => .ok (.callw joff)
  | 0x24 => zeroF (joff == 0) .retw
  | 0x3F => zeroF (joff == 0) .rep
  | _ => .error 1

/-! ## Checks of an instruction (R118, R121) -/

/-- Selectors of MFS and MTS (R87) that a context may name. -/
def sprOk (n : Nat) : Bool :=
  decide (n ≤ 0x00C) || ((decide (0x010 ≤ n) && decide (n ≤ 0x014)) || (n == 0x020 || (n == 0x021 || (n == 0x030 || (n == 0x031
    || (decide (0x040 ≤ n) && decide (n ≤ 0x04F)))))))

/-- Selectors of the fast interrupt context alone. -/
def sprFic (n : Nat) : Bool := decide (0x060 ≤ n) && decide (n ≤ 0x062)

/-- Selectors of CTXRD and CTXWR (R82). -/
def itemOk (n : Nat) : Bool :=
  decide (n ≤ 0x046) || ((decide (0x048 ≤ n) && decide (n ≤ 0x064)) || (n == 0x070 || n == 0x071))

/-- The FP register fields. -/
def Op.fpFields (o : Op) : List (BitVec 5) :=
  match o with
  | .fadd d s t | .fsub d s t | .fmul d s t | .fdiv d s t | .fma d s t | .fmin d s t | .fmax d s t => [d, s, t]
  | .fsqrt d s | .fneg d s | .fabs d s | .fmov d s => [d, s]
  | .fceq _ s t | .fclt _ s t | .fcle _ s t => [s, t]
  | .fmvgf d _ | .fcvtxf d _ => [d]
  | .fmvfg _ s | .fcvtfx _ s => [s]
  | _ => []

/-- An instruction of opcode 0x08, of opcodes 0x2C and 0x2D, or a windowed call or return: what the fast interrupt context
may not execute (R102, R127, R136, R142). -/
def Op.notFic (o : Op) : Bool :=
  match o with
  | .fadd _ _ _ | .fsub _ _ _ | .fmul _ _ _ | .fdiv _ _ _ | .fma _ _ _ | .fmin _ _ _ | .fmax _ _ _ => true
  | .fsqrt _ _ | .fneg _ _ | .fabs _ _ | .fmov _ _ | .fceq _ _ _ | .fclt _ _ _ | .fcle _ _ _ => true
  | .fmvgf _ _ | .fcvtxf _ _ | .fmvfg _ _ | .fcvtfx _ _ => true
  | .spawn _ _ _ | .ctxhold _ | .ctxrel _ | .ctxkill _ | .ctxend | .wait _ _ _ | .waitM _ _ _ => true
  | .ctxrd _ _ _ | .ctxwr _ _ _ | .callw _ | .callwr _ _ | .retw => true
  | _ => false

/-- The instructions that REP repeats (R140). -/
def Op.repeatable (o : Op) : Bool :=
  match o with
  | .copyw _ _ | .fillw _ _ | .cleanL _ | .flushL _ | .invalL _ => true
  | _ => false

/-- The subcode of ILLEGAL_OPCODE that an instruction of its fields raises, up to SELECTOR. -/
def Op.bad (o : Op) (fic : Bool) : Option Nat :=
  match o with
  | .bt _ cls _ | .bnt _ cls _ => if 30 ≤ cls.toNat then some 1 else none
  | .atomic op _ _ _ _ => if 6 ≤ op.toNat then some 1 else none
  | .alloc _ _ imm => if !allocCode (imm.toNat % 1024) then some 1 else if imm.toNat < 1024 then none else some 2
  | .mfs _ sel | .mts _ sel => if sprOk sel.toNat || (fic && sprFic sel.toNat) then none else some 6
  | .ctxrd _ _ sel | .ctxwr _ _ sel => if itemOk sel.toNat then none else some 6
  | o => if o.fpFields.any fun r => r.getLsbD 4 then some 8 else none

end Sys2Proof.Machine
end

