-- ==== Sys2Proof/Machine/Operands.lean ====
section
/-! DEFINITION. Operands: registers of whoever executes, the operand checks (R119, R120, R121, R122), base and code targets
(R128, R136), and how the parts of an instruction's body are put together. -/

namespace Sys2Proof.Machine

/-! ## Registers -/

/-- A register of a fast interrupt context (R102): nl0 to nl7 serve as l0 to l7 in NMI. -/
def ficReg (f : Fic) (r : Nat) : W :=
  if r = 0 then nilW
  else if f.mode = .nmi ∧ 16 ≤ r ∧ r < 24 then tgetD f.nl (r - 16) nilW
  else tgetD f.regs r nilW

/-- Writes a register of a fast interrupt context; a write of g0 is discarded. -/
def setFicReg (f : Fic) (r : Nat) (v : W) : Fic :=
  if r = 0 then f
  else if f.mode = .nmi ∧ 16 ≤ r ∧ r < 24 then { f with nl := tset f.nl (r - 16) v }
  else { f with regs := tset f.regs r v }

/-- The fast interrupt context of a core. -/
def State.fic (s : State) (k : Nat) : Fic := (s.core k).fic
def State.modFic (s : State) (k : Nat) (f : Fic → Fic) : State := s.modCore k fun c => { c with fic := f c.fic }

/-- The core of whoever executes. -/
def xcore (x : Exec) : Nat := match x with | .ctx n => coreOf n.toNat | .fic k => k.toNat

/-- Reads a general register (R85, R86). -/
def xreg (s : State) (x : Exec) (r : BitVec 5) : W :=
  match x with
  | .ctx n => ctxReg (s.ctx n.toNat) r.toNat
  | .fic k => ficReg (s.fic k.toNat) r.toNat

/-- Writes a general register. -/
def setXreg (s : State) (x : Exec) (r : BitVec 5) (v : W) : State :=
  match x with
  | .ctx n => s.modCtx n.toNat fun c => setCtxReg c r.toNat v
  | .fic k => s.modFic k.toNat fun f => setFicReg f r.toNat v

/-- The world, level and space of whoever executes; a fast interrupt context runs in System World at Supervisor level
(R102). -/
def xworld (s : State) (x : Exec) : World := match x with | .ctx n => (s.ctx n.toNat).r.world | .fic _ => .sys
def xsup (s : State) (x : Exec) : Bool := match x with | .ctx n => (s.ctx n.toNat).r.sup | .fic _ => true
def xspace (s : State) (x : Exec) : BitVec 12 := match x with | .ctx n => (s.ctx n.toNat).r.space | .fic _ => 0

/-- pc, lk, cnt and fpsr of whoever executes. -/
def xpc (s : State) (x : Exec) : BitVec 59 := match x with | .ctx n => (s.ctx n.toNat).r.pc | .fic k => (s.fic k.toNat).pc
def xlk (s : State) (x : Exec) : BitVec 59 := match x with | .ctx n => (s.ctx n.toNat).r.lk | .fic k => (s.fic k.toNat).lk
def xcnt (s : State) (x : Exec) : BitVec 64 := match x with | .ctx n => (s.ctx n.toNat).r.cnt | .fic k => (s.fic k.toNat).cnt
def xfpsr (s : State) (x : Exec) : BitVec 12 := match x with | .ctx n => (s.ctx n.toNat).r.fpsr | .fic k => (s.fic k.toNat).fpsr
def setXpc (s : State) (x : Exec) (v : BitVec 59) : State :=
  match x with
  | .ctx n => s.modCtx n.toNat fun c => { c with r := { c.r with pc := v } }
  | .fic k => s.modFic k.toNat fun f => { f with pc := v }
def setXlk (s : State) (x : Exec) (v : BitVec 59) : State :=
  match x with
  | .ctx n => s.modCtx n.toNat fun c => { c with r := { c.r with lk := v } }
  | .fic k => s.modFic k.toNat fun f => { f with lk := v }
def setXcnt (s : State) (x : Exec) (v : BitVec 64) : State :=
  match x with
  | .ctx n => s.modCtx n.toNat fun c => { c with r := { c.r with cnt := v } }
  | .fic k => s.modFic k.toNat fun f => { f with cnt := v }
def setXfpsr (s : State) (x : Exec) (v : BitVec 12) : State :=
  match x with
  | .ctx n => s.modCtx n.toNat fun c => { c with r := { c.r with fpsr := v } }
  | .fic k => s.modFic k.toNat fun f => { f with fpsr := v }

/-- The record of whoever executes, for the registers that a fast interrupt context has not. -/
def xrec (s : State) (x : Exec) : Rec := match x with | .ctx n => (s.ctx n.toNat).r | .fic _ => {}

/-- Whether a fast interrupt context executes. -/
def isFicX (x : Exec) : Bool := match x with | .ctx _ => false | .fic _ => true

/-! ## Bodies -/

/-- Where the executor goes after an instruction: on, to an address, one further step at the same pc, or as the body left
it. -/
inductive Go where
  | next | goto (pc : BitVec 59) | step | done
  deriving DecidableEq, Repr

/-- A part of a body: it answers or stops, and carries the state it makes (a stop leaves none of it, R166). -/
abbrev M (α : Type) := ExceptT Stop (StateM State) α

/-- A body as a function of what it runs in. -/
abbrev Body_ := Env → M Go

/-- A function of the state that answers or stops, as a part of a body. -/
def act {α : Type} (f : State → Except Stop α × State) : M α := f

/-- A check as a part of a body. -/
def chkM {α : Type} (r : Res α) : M α := fun s => (r, s)

/-- A need that stops a body. -/
def needM {α : Type} (n : Need) : M α := chkM (.error (.need n))

/-- An instruction that computes a word from the state and writes it to rd. -/
def toReg (rd : BitVec 5) (f : Env → State → Res W) : Body_ := fun e s =>
  match f e s with
  | .ok v => (.ok .next, setXreg s e.x rd v)
  | .error x => (.error x, s)

/-! ## Checks of operands -/

/-- The instruction word in xinfo[63:32]. -/
def Env.hi (e : Env) : Nat := e.word.toNat * 2 ^ 32

/-- TAG_TRAP (R121): subcode, operand, the tag found, and the address of a memory word. -/
def tagTrap {α : Type} (sub opnd : Nat) (w : W) (addr : BitVec 59) : Res α := throwX 0x05 addr (sub + 2 ^ 8 * opnd + 2 ^ 10 * w.tag.toNat)

/-- The checks of an inspected register operand k (R120): LOST, UNINIT, a reserved code, a tag that is not accepted. -/
def chk (e : Env) (k : Nat) (w : W) (ok : Bool) : Res Unit :=
  if w.tag = 0x301 then throwX 0x08 (BitVec.ofNat 59 (4 + k)) w.payload.toNat
  else if w.tag = 0x000 then throwX 0x07 (BitVec.ofNat 59 (4 + k)) (2 + e.hi)
  else if reservedTag w.tag then tagTrap 2 k w 0
  else if ok then .ok () else tagTrap 1 k w 0

/-- The checks of an inspected word of memory at an address (R119 rank 13, R139). -/
def chkMem (e : Env) (va : BitVec 59) (w : W) (ok : Bool) : Res Unit :=
  if w.tag = 0x301 then throwX 0x08 (BitVec.ofNat 59 (va.toNat / 8 * 8)) w.payload.toNat
  else if w.tag = 0x000 then throwX 0x07 (BitVec.ofNat 59 (va.toNat / 8 * 8)) (2 + e.hi)
  else if reservedTag w.tag then tagTrap 2 3 w va
  else if ok then .ok () else tagTrap 1 3 w va

/-- ILLEGAL_OPCODE (R121). -/
def illegal {α : Type} (sub : Nat) (word : BitVec 32) : Res α := throwX 0x01 0 (sub + 2 ^ 32 * word.toNat)

/-- PRIVILEGED (R170). -/
def privileged {α : Type} (e : Env) (sub : Nat) : Res α := throwX 0x02 0 (sub + e.hi)

/-- The level rule of a supervisor instruction. -/
def needSup (e : Env) (s : State) : Res Unit := if xsup s e.x then .ok () else privileged e 1

/-- MISALIGNED (R122). -/
def misaligned {α : Type} (e : Env) (addr : BitVec 59) (sub size acc : Nat) : Res α :=
  throwX 0x03 addr (sub + 2 ^ 8 * size + 2 ^ 12 * acc + (if sub = 1 then 0 else e.hi))

/-- PERMISSION with a subcode alone (R170, R79). -/
def permission {α : Type} (addr : BitVec 59) (sub : Nat) : Res α := throwX 0x0A addr sub

/-! ## Integers and conditions -/

/-- A condition as a word. -/
def boolW (b : Bool) : W := ⟨0x001, if b then 1 else 0⟩

/-- The tag of an integer result (R124). -/
def intRes (a b : W) (v : BitVec 64) : W := ⟨intTag a b, v⟩

/-- Two integer operands. -/
def ints (e : Env) (s : State) (rs rt : BitVec 5) : Res (W × W) := do
  let a := xreg s e.x rs
  let b := xreg s e.x rt
  chk e 0 a (isInt a)
  chk e 1 b (isInt b)
  return (a, b)

/-- One integer operand. -/
def int1 (e : Env) (s : State) (rs : BitVec 5) : Res W := do
  let a := xreg s e.x rs
  chk e 0 a (isInt a)
  return a

/-- Sign extension of an immediate. -/
def sx {n : Nat} (imm : BitVec n) : BitVec 64 := imm.signExtend 64

/-- An address a number of bytes further. -/
def addOff (a : BitVec 59) (off : BitVec 64) : BitVec 59 := a + BitVec.ofNat 59 off.toNat

/-! ## Bases and targets -/

/-- A pointer-kind word. -/
def isPtr (w : W) : Bool := bitsN w.tag 8 2 == 1

/-- The va of a pointer, or the low bits of a RAW word. -/
def vaOf (w : W) : BitVec 59 := BitVec.ofNat 59 w.payload.toNat

/-- A base register (R128), operand k. -/
def baseOf (e : Env) (s : State) (k : Nat) (w : W) : Res (BitVec 59) := do
  chk e k w (isPtr w || (xsup s e.x && (w.tag == 0x300 || w.tag == 0x006)))
  return vaOf w

/-- The first access made through a pointer whose va is not a multiple of 8 (R29): MISALIGNED at the effective address. -/
def baseAligned (e : Env) (w : W) (va : BitVec 59) (size acc : Nat) : Res Unit :=
  if (isPtr w || w.tag == 0x300) && (vaOf w).toNat % 8 != 0 then misaligned e va 2 size acc else .ok ()

/-- A code target (R136), operand k: a CODE pointer, or RAW at Supervisor level; misaligned targets are refused. -/
def codeTarget (e : Env) (s : State) (k : Nat) (w : W) (off : BitVec 64) : Res (BitVec 59) := do
  chk e k w (w.tag == 0x108 || (xsup s e.x && w.tag == 0x006))
  let t := addOff (vaOf w) off
  if t.toNat % 4 = 0 then return t else misaligned e t 3 4 2

/-- A branch target (R106). -/
def branchTo {n : Nat} (pc : BitVec 59) (off : BitVec n) : BitVec 59 := addOff pc (sx off * 4)

end Sys2Proof.Machine
end

