-- ==== Sys2Proof/Machine/Access.lean ====
section
/-! DEFINITION. Accesses of instructions: cached reads, the checks of R206 to R210, data watches, the barriers of R260 to
R268, and loads, stores and atomics of private and global addresses. -/

namespace Sys2Proof.Machine

/-! ## Reads of one word through the core's caches (R228, R236, R252) -/

/-- The stores of an executor to a word that are not yet performed, oldest first. -/
def ownStores (s : State) (x : Exec) (key : Nat) : List PStore :=
  (s.core (xcore x)).stores.filter fun p => p.who == x && p.key == key

/-- A healing write or an append of the executor to a word is still to be performed: later accesses to the word wait
(R262, R268). -/
def ownBehind (s : State) (x : Exec) (key : Nat) : Bool :=
  let c := s.core (xcore x)
  c.heals.any (fun h => h.who == x && h.key == key) || (c.appends.any (fun p => p.who == x && p.key == key)
    || c.stores.any fun p => p.who == x && p.card.any fun a => a.1 == key)

/-- The word as the executor's own stores leave it (R252). -/
def forwarded (l : List PStore) (w : W) : W := l.foldl (fun w p => mergeWord w p.word p.mask) w

/-- A word of memory by a load of memory type mt; `walk` marks reads of tables. -/
def cacheWord (e : Env) (key mt : Nat) (na walk : Bool) : M W := fun s =>
  let core := xcore e.x
  let c := s.core core
  let line := key / 8
  let own := ownStores s e.x key
  let got := fun (s : State) (w : W) => (Except.ok (forwarded own w), s)
  let need := fun (n : Need) => (Except.error (Stop.need n), s)
  if ownBehind s e.x key then need .held
  else if own.any fun p => p.mask == 255 then got s uninitW
  else
    match tget e.words key with
    | some w => got s w
    | none =>
      match tget e.once line with
      | some l => got s (lineWord l key)
      | none =>
        if c.bypass || decide (2 ≤ mt) then need (.rdo key walk [])
        else if recovering s core line then need .held
        else
          match tget c.l1d line with
          | some l =>
            if l.st.hit then
              match l1dHit s core (whoOf s e.x) line (some (key % 8)) with
              | (.data, t) => got t (lineWord ((tgetD (t.core core).l1d line {}).data) key)
              | (.gone, _) => need (.refetch line false)
              | (.wait, _) => need .held
            else need (.line line false false (mt == 1) na walk)
          | none =>
            match takeStash s core (whoOf s e.x) line with
            | some t => got t (lineWord ((tgetD (t.core core).l1d line {}).data) key)
            | none => need (.line line false false (mt == 1) na walk)

/-- Reads of table words by a core (R205, R264): by LPA, of write-back type. -/
def tableReader (e : Env) : Reader := fun lpa => cacheWord e (lpa / 8) 0 false true

/-! ## Translation and its checks (R206 to R211) -/

/-- The circumstances of an access of kind acc. -/
def tctx (s : State) (x : Exec) (acc : Nat) : TCtx := ⟨xworld s x, xspace s x, acc, xsup s x, some (xcore x), false⟩

/-- pkr; a fast interrupt context has none (R208). -/
def pkrOf (s : State) (x : Exec) : Option (BitVec 64) := match x with | .ctx n => some (s.ctx n.toNat).r.pkr | .fic _ => none

/-- The protection key of a leaf. -/
def pteKey (p : BitVec 64) : Nat := bitsN p 43 5

/-- The rights that pkr gives a key (R209). -/
def keyRights (pkr : Option (BitVec 64)) (key : Nat) : Nat := match pkr with | some p => bitsN p (2 * key) 2 | none => 0

/-- The subcode of KEY when the rights refuse an access of kind acc (R209). -/
def keyRefused (rights acc : Nat) : Option Nat :=
  if rights = 1 ∧ (acc = 1 ∨ acc = 3) then some 2
  else if rights = 2 then some 1
  else if rights = 3 ∧ acc = 2 then some 3
  else none

/-- Orders 1 to 8 of R206. -/
def leafRights (t : TCtx) (pkr : Option (BitVec 64)) (va : BitVec 59) (l : Leaf) : Res Unit :=
  let u := l.pte.getLsbD 6
  if t.sup = false ∧ u = false then xlFault t va 0x0A 0x01 l.lvl 0 0
  else if t.acc = 2 ∧ t.sup = true ∧ u = true then xlFault t va 0x0A 0x05 l.lvl 0 0
  else if (t.acc = 2 ∧ 2 ≤ pteMt l.pte) ∨ (isReg (l.page * 4096) = true ∧ pteMt l.pte ≠ 3) then xlFault t va 0x0A 0x04 l.lvl 0 0
  else if t.acc = 2 ∧ l.pte.getLsbD 5 = false then xlFault t va 0x0A 0x03 l.lvl 0 0
  else
    match leafWrite t va l with
    | .error e => .error e
    | .ok _ =>
      match keyRefused (keyRights pkr (pteKey l.pte)) t.acc with
      | some sub => xlFault t va 0x0B sub l.lvl (pteKey l.pte) 0
      | none => leafAD t va l

/-- Orders 9 and 10 of R206: the partition, the world checks of register space, and its access size. A store names its
value. -/
def leafPlace (e : Env) (s : State) (t : TCtx) (va : BitVec 59) (size : Nat) (v : Option (BitVec 64)) (l : Leaf) : Res Leaf :=
  let lpa := l.lpa va
  if isReg lpa then
    let rd := decide (t.acc = 0 ∨ t.acc = 3)
    let wr := decide (t.acc = 1 ∨ t.acc = 3)
    if (rd && !regReadOk s t.world (lpa / 8 * 8)) || (wr && !regWriteOk s t.world (lpa / 8 * 8) (v.getD 0)) then xlFault t va 0x0A 0x31 l.lvl 0 0
    else if size = 8 then .ok l
    else misaligned e va 5 size t.acc
  else if owns s t.world lpa then .ok l
  else xlFault t va 0x0A 0x30 l.lvl 0 0

/-- An access goes on with the translation it was sent with (R207, R224): its leaf, kept beside the words of the access
under keys above every other. -/
def pinKey (va : BitVec 59) : Nat := 2 ^ 63 + 2 * va.toNat
def pinLeaf (va : BitVec 59) (l : Leaf) : List (Nat × W) := [(pinKey va, ⟨BitVec.ofNat 10 l.lvl, l.pte⟩), (pinKey va + 1, ⟨0, BitVec.ofNat 64 l.page⟩)]
/-- A far atomic leaves no new copy in L2: its page is not write-back (R228), or its line is not to be installed (R227). -/
def farNa (l : Leaf) : Bool := pteMt l.pte != 0 || pteNa l.pte

/-- The leaf that an access brought with it. -/
def heldLeaf (e : Env) (va : BitVec 59) : Option Leaf :=
  match tget e.words (pinKey va), tget e.words (pinKey va + 1) with
  | some a, some b => some ⟨b.payload.toNat, a.payload, a.tag.toNat⟩
  | _, _ => none

/-- The TLB misses of a translation that an executor makes (R115): a leaf that is held may be held by the second level
alone, which is a free choice. -/
def countXlate (s : State) (x : Exec) (t : TCtx) (page : Nat) : State :=
  if (s.core (xcore x)).pmsel = [] then s
  else
    let held := (tlbLeaf s t page).isSome
    let s := if t.acc = 2 ∨ (held && Config.choice s.free (16 * page + 9) % 2 == 0) = true then s else countEvent s (xcore x) (whoOf s x) 0x0B
    if held then s else countEvent s (xcore x) (whoOf s x) 0x0C

/-- Translates a private address and makes the checks of R206; `pre`, a check of rank 8 that needs the leaf, comes before them. -/
def translateAs (e : Env) (t : TCtx) (va : BitVec 59) (size : Nat) (v : Option (BitVec 64)) (pre : Leaf → Res Unit := fun _ => .ok ()) : M Leaf :=
  match heldLeaf e va with
  | some l => pure l
  | none => do
    modify fun s => countXlate s e.x t (va.toNat / 4096)
    let l ← act (walkPrivate (tableReader e) t va)
    let s ← get
    chkM (pre l)
    chkM (leafRights t (pkrOf s e.x) va l)
    chkM (leafPlace e s t va size v l)

/-- An access that is sent for a word keeps its leaf until the word is there, and is made once (R207). -/
def keepLeaf {α : Type} (va : BitVec 59) (l : Leaf) (m : M α) : M α := fun s =>
  match m s with
  | (.error (.need (.rdo k w _)), t) => (.error (.need (.rdo k w (pinLeaf va l))), t)
  | (.error (.need (.outb a _)), t) => (.error (.need (.outb a (pinLeaf va l))), t)
  | r => r

/-- Translates for an access of kind acc of the executor. -/
def translate (e : Env) (acc : Nat) (va : BitVec 59) (size : Nat) (v : Option (BitVec 64)) : M Leaf := do
  let s ← get
  translateAs e (tctx s e.x acc) va size v

/-! ## Data watches (R465, R170) -/

/-- Watch n matches an access. -/
def watchHit (s : State) (x : Exec) (va : BitVec 59) (store : Bool) (n : Nat) : Bool :=
  let ctl := dval s 0x4011 (n + 1)
  let addr := dval s 0x4010 (n + 1)
  let bit := fun (i : Nat) => ctl / 2 ^ i % 2 == 1
  let m := max 3 (ctl / 16 % 64)
  bit 0 && ((if store then bit 2 else bit 1) && (((ctl / 8 % 2) == (xworld s x).num)
    && ((bit 22 || ctl / 2 ^ 10 % 4096 == (xspace s x).toNat) && va.toNat / 2 ^ m == addr / 2 ^ m)))

/-- WATCH, unless the context's watches are suppressed; a fast interrupt context is not watched. -/
def watch (s : State) (x : Exec) (va : BitVec 59) (store : Bool) : Res Unit :=
  match x with
  | .fic _ => .ok ()
  | .ctx n =>
    if (s.ctx n.toNat).r.wsup then .ok ()
    else
      match (List.range 16).find? (watchHit s x va store) with
      | some k => throwX 0x1A va (k + 2 ^ 8 * b2n store)
      | none => .ok ()

/-! ## Order (R207, R254) -/

/-- Every earlier private-half store, append and heal of the executor is performed. -/
def earlierDone (s : State) (x : Exec) : Bool :=
  let c := s.core (xcore x)
  !(c.stores.any fun p => p.who == x) && (!(c.appends.any fun p => p.who == x) && !(c.heals.any fun h => h.who == x))

/-- Waits until they are. -/
def waitEarlier (x : Exec) : M Unit := do
  let s ← get
  if earlierDone s x then pure () else needM .held

/-- An access of an mt = 11 page waits for the earlier ones of the context, its stores and appends (R207). -/
def waitSide (x : Exec) (mt : Nat) : M Unit := do
  let s ← get
  let c := s.core (xcore x)
  let mine := fun (p : PStore) => p.who == x && (p.mt == 3 || p.card.any fun a => a.2.2.1 == 3)
  if mt == 3 && (c.stores.any mine || c.appends.any mine) then needM .held else pure ()

/-! ## The predictor of atomics (R243) -/

/-- The predictor's counter of an atomic. -/
def atomIdx (s : State) (x : Exec) (lpa : Nat) : Nat := nxor (bitsN (xpc s x) 2 8) (lpa / 64 % 256)

/-- A counter sends an atomic of write-back memory to the home. -/
def atomFar (s : State) (x : Exec) (i : Nat) : Bool :=
  (s.core (xcore x)).bypass || decide (2 ≤ (tgetD (s.core (xcore x)).atomPred i 1).toNat)

/-! ## The load barrier (R260 to R264) -/

/-- The GC registers that the executor's core applies (R258). -/
def gcOf (s : State) (x : Exec) : Gc := gcFor s (xworld s x) (xcore x)

/-- A barrier begins (R258): the core may apply a write that is in progress now, and from then on does. -/
def gcNow (e : Env) : M Gc := do
  modify fun s => applyGc s (xcore e.x)
  let s ← get
  pure (gcOf s e.x)

/-- Fields of a pointer (R28). -/
def ptrM (w : W) : Nat := bitsN w.payload 62 2
def ptrE (w : W) : Nat := bitsN w.payload 60 2
def ptrY (w : W) : Bool := w.payload.getLsbD 59
def ptrGlobal (w : W) : Bool := w.payload.getLsbD 58

/-- Fields of GC_CTL (R257). -/
def Gc.e (g : Gc) : Nat := bitsN g.ctl 0 2
def Gc.m (g : Gc) : Nat := bitsN g.ctl 2 2
def Gc.marking (g : Gc) : Bool := g.ctl.getLsbD 4
def Gc.young (g : Gc) : Bool := g.ctl.getLsbD 5
def Gc.en (g : Gc) : Bool := g.ctl.getLsbD 6

/-- A word of an evacuation or forwarding table; none where the world does not own it. -/
def gcWord (e : Env) (lpa : Nat) : M (Option W) := do
  let s ← get
  if owns s (xworld s e.x) lpa then
    let w ← act (tableReader e lpa)
    pure (some w)
  else pure none

/-- The probe of a forwarding table of n pairs for offset o, from pair q on. -/
def ftProbe (e : Env) (ft n o q fuel : Nat) : M (Option W) :=
  match fuel with
  | 0 => pure none
  | fuel + 1 => do
    let p := ft + 16 * ((o / 8 + q) % n)
    let x ← gcWord e p
    match x with
    | none => pure none
    | some x =>
      if x.tag = 0x005 then pure none
      else if x.tag = 0x001 ∧ x.payload.toNat = o then
        let y ← gcWord e (p + 8)
        pure (match y with | some y => if y.tag = 0x300 then some y else none | none => none)
      else ftProbe e ft n o (q + 1) fuel

/-- The probe of the Evacuation Set Table for page p, from entry h on (R264). -/
def estProbe (e : Env) (est space p o h fuel : Nat) : M (Option W) :=
  match fuel with
  | 0 => pure none
  | fuel + 1 => do
    let k := est + 16 * (h % 4096)
    let a ← gcWord e k
    match a with
    | none => pure none
    | some a =>
      let valid := a.payload.getLsbD 60
      let bad := a.tag != 0x006 || bitsN a.payload 62 2 != 0
      if bad ∨ (valid = false ∧ a.payload.getLsbD 61 = false) then pure none
      else if valid = true ∧ bitsN a.payload 0 47 = p ∧ (a.payload.getLsbD 59 = true ∨ bitsN a.payload 47 12 = space) then do
        let b ← gcWord e (k + 8)
        match b with
        | none => pure none
        | some b =>
          if b.tag ≠ 0x006 ∨ bitsN b.payload 47 17 ≠ 0 ∨ 9 < bitsN b.payload 43 4 then pure none
          else ftProbe e (bitsN b.payload 0 43) (2 ^ bitsN b.payload 43 4) o 0 (2 ^ bitsN b.payload 43 4)
      else estProbe e est space p o (h + 1) fuel

/-- forward of R264. -/
def estForward (e : Env) (g : Gc) (va : BitVec 59) : M (Option W) := do
  let s ← get
  if g.estV then
    let h := nxor (nxor (bitsN va 12 12) (bitsN va 24 12)) (nxor (bitsN va 36 12) (bitsN va 48 11))
    estProbe e g.est.toNat (xspace s e.x).toNat (bitsN va 12 47) (bitsN va 0 12) h 16
  else pure none

/-- target_leaf (R261): none where a load would fault on the way. -/
def targetLeaf (e : Env) (va : BitVec 59) : M (Option Leaf) := fun s =>
  match walkPrivate (tableReader e) (tctx s e.x 0) va (countXlate s e.x (tctx s e.x 0) (va.toNat / 4096)) with
  | (.ok l, s) => (.ok (some l), s)
  | (.error (.exn _), _) => (.ok none, s)
  | (.error (.need n), s) => (.error (.need n), s)

/-- A slot that a healing write may change (R262): its leaf, unless the slot is global. -/
def healable (s : State) (x : Exec) (l : Option Leaf) : Bool :=
  match l with
  | none => false
  | some l => pteMt l.pte == 0 && (l.pte.getLsbD 4 && (l.pte.getLsbD 3 && ((xsup s x || l.pte.getLsbD 6)
      && (keyRefused (keyRights (pkrOf s x) (pteKey l.pte)) 1).isNone)))

/-- A pointer with the epoch of GC_CTL, and the va and y of a FORWARD word. -/
def renewed (w : W) (g : Gc) : W := ⟨w.tag, putN w.payload 60 2 g.e⟩
def moved (w f : W) : W := ⟨w.tag, putN w.payload 0 60 (bitsN f.payload 0 60)⟩

/-- The load barrier on a word that was loaded from a slot (R260). -/
def loadBarrier (e : Env) (va : BitVec 59) (slot : Option Leaf) (w : W) : M W := do
  let g ← gcNow e
  if !g.en || !isPtr w || ptrGlobal w || ptrE w == g.e then pure w
  else
    let h := renewed w g
    let l ← targetLeaf e (vaOf w)
    let evac : Bool := match l with | some l => l.pte.getLsbD 49 | none => false
    let f ← if evac then estForward e g (vaOf w) else pure none
    let h ← if evac then (match f with
        | some f => pure (moved h f)
        | none => chkM (throwX 0x15 va w.payload.toNat))
      else pure h
    modify fun s => countEvent s (xcore e.x) (whoOf s e.x) 0x16
    let s ← get
    match slot with
    | some l =>
      if healable s e.x slot then
        modify fun s => s.modCore (xcore e.x) fun c =>
          let i := atomIdx s e.x (l.lpa va)
          { c with heals := c.heals ++ [{ who := e.x, key := l.lpa va / 8, old := w, new := h, na := pteNa l.pte, far := atomFar s e.x i, idx := i }] }
      else pure ()
    | none => pure ()
    pure h

/-! ## Global operations of a requester (R214, R217, R298 to R313) -/

/-- A global address (R196). -/
def isGlobal (va : BitVec 59) : Bool := va.getLsbD 58

/-- The policy of the Global Policy Table for a page: the entry, its policy and its touch count (R309, R310), as the core sees the
table: of a write in progress that it has not applied, the values before it. -/
def gptMatch (s : State) (core : Nat) (w : World) (va : BitVec 59) : Option (Nat × Nat × Nat) :=
  let p := bitsN va 12 47
  let t := if s.gcLag.contains core then (s.world w).gptOld else ((s.world w).gptB, (s.world w).gptN)
  (List.range 256).findSome? fun k =>
    let b := tgetD t.1 k 0
    let base := bitsN b 0 47
    if b.getLsbD 46 && (decide (base ≤ p) && decide (p < base + (tgetD t.2 k 0).toNat)) then
      some (k, bitsN b 47 3, max 1 (bitsN b 50 8)) else none

/-- The lowest free stub (R318). -/
def freeStub (s : State) : Option Nat := (List.range 4096).find? fun k => (tget s.remote.stubs k).isNone

/-- The conditions of R312, but for the free stub. Whether the 5 µs after a refusal have passed is a free choice. -/
def mayMigrate (s : State) (n : Nat) : Bool :=
  let c := s.ctx n
  let claimed := c.r.fpBound && (tget (s.core (coreOf n)).claim c.r.fpBank.toNat).isSome
  !c.r.tw && (!c.r.xvalidS && (!c.r.xvalidJ && (!c.r.gateOpen && (!claimed && (!c.dir.dying && (c.sfault.isNone
    && ((!c.refused || Config.choice s.free 16 % 2 == 1) && decide (packetLen c ≤ 704))))))))

/-- The touch tracker at a remote operation of a context (R311), and whether the operation migrates. Whether a window of
10 µs has passed is a free choice. -/
def touch (s : State) (x : Exec) (va : BitVec 59) : State × Bool :=
  match x with
  | .fic _ => (s, false)
  | .ctx n =>
    if homeDev va = devNo s then (s, false)
    else
      let n := n.toNat
      let s := applyGc s (coreOf n)
      let c := s.ctx n
      match gptMatch s (coreOf n) c.r.world va with
      | none => (s, false)
      | some (k, policy, need) =>
        let cnt := match c.touch with
          | some (j, v) => if j = k ∧ Config.choice s.free 32 % 2 = 0 then v else 0
          | none => 0
        let cnt := min 255 (cnt + 1)
        let go := policy == 1 || (policy == 2 && decide (need ≤ cnt))
        (s.setCtx n { c with touch := some (k, cnt) }, go && (mayMigrate s n && (freeStub s).isSome))

/-- The virtual channel of an operation of a context (R299, R339). -/
def vcOf (s : State) (x : Exec) (posted : Bool) : BitVec 3 :=
  match x with
  | .fic _ => 6
  | .ctx n => if posted ∨ (s.ctx n.toNat).dir.storesOut ≠ 0 then 6 else 0

/-- The context number that a message of an executor carries. -/
def lcnOf (x : Exec) : BitVec 16 := match x with | .ctx n => n | .fic _ => 0xFFFF

/-- stores_out of an executor, and its increase (R61, R300). -/
def storesOut (s : State) (x : Exec) : BitVec 12 := match x with | .ctx n => (s.ctx n.toNat).dir.storesOut | .fic k => (s.fic k.toNat).storesOut
def moreStores (s : State) (x : Exec) : State :=
  match x with
  | .ctx n => s.modCtx n.toNat fun c => { c with dir := { c.dir with storesOut := c.dir.storesOut + 1 } }
  | .fic k => s.modFic k.toNat fun f => { f with storesOut := f.storesOut + 1 }

/-- The rules of a global access with release ordering (R303, R304). -/
def globalRelease (e : Env) (release : Bool) : M Unit := do
  let s ← get
  if release then
    match e.x with
    | .ctx n => if (s.ctx n.toNat).sfault.isSome then needM .latch else pure ()
    | .fic _ => pure ()
    waitEarlier e.x
    if storesOut s e.x ≠ 0 then needM (.sync .remote) else pure ()
  else pure ()

/-- A home-side fault of an operation of the executor's own, found before a message is sent. -/
def localFault (s : State) (x : Exec) (cause sub acc : Nat) : HF :=
  ⟨BitVec.ofNat 8 cause, BitVec.ofNat 8 sub, BitVec.ofNat 3 (b2n (xsup s x)), BitVec.ofNat 2 acc⟩

/-- A replica of the word of a global address (R306). -/
def replicaOf (s : State) (w : World) (va : BitVec 59) : Option W :=
  ((s.tile (replicaTile va.toNat)).reps.find? fun r => r.world == w && r.pair == va.toNat / 128).map fun r =>
    r.words.getD (va.toNat / 8 % 16) nilW

/-- The replica that serves a load of another device's word (R306). -/
def replicaHit (s : State) (x : Exec) (va : BitVec 59) : Option W :=
  if homeDev va = devNo s then none else replicaOf s (xworld s x) va

/-- A word of a global address, whole (R298). A load is sent or served when it issues, at the issuing device itself (R217) and
from a replica too (R306), and goes on when its answer is there. -/
def globalLoad (e : Env) (va : BitVec 59) (size : BitVec 2) (acq : Bool) : M W := do
  let s ← get
  match tget e.words (globKey va) with
  | some w => pure w
  | none =>
    if (touch s e.x va).2 then needM (.migrate va 0)
    else
      match (if (replicaHit s e.x va).isSome then none else unreachable s (homeDev va)) with
      | some sub => chkM (.error (.exn (remoteExn va (localFault s e.x 0x40 sub 0) (homeDev va))))
      | none => needM (.remote va 0 (.rload va size acq))

/-- A fault of a posted store, found at once: latched for a context, counted for a fast interrupt context (R303). -/
def storeFault (s : State) (x : Exec) (va : BitVec 59) (f : HF) (home : BitVec 16) : State :=
  match x with
  | .ctx n => latchFault s n.toNat ⟨va, f.cause, f.sub, f.lvl, f.acc, home⟩
  | .fic _ => countUp s 0x1800 0x25 1

/-- A posted store to a global address (R300). At the issuing device (R217) the home performs it when it issues, and the
acknowledgement frees its slot. -/
def globalStore (e : Env) (va : BitVec 59) (word : W) (size : BitVec 2) (release : Bool) : M Unit := do
  globalRelease e release
  let s ← get
  let t := touch s e.x va
  if t.2 then needM (.migrate va 1)
  else if storesOut s e.x = 0xFFF then needM (.sync .slot)
  else
    let home := homeDev va
    let cnt := fun (s : State) => countEvent s (xcore e.x) (whoOf s e.x) 0x12
    let o : OutOp := { owner := .exec e.x, dev := home, addr := va, acc := 1, posted := true, level := xsup s e.x }
    if home = devNo s then
      match takeOp s o with
      | none => needM (.sync .slot)
      | some (k, _, s) =>
        match homeStore (moreStores (cnt s) e.x) (devNo s) (xworld s e.x) (xsup s e.x) va word size.toNat 0 with
        | (.ok _, s) => set s
        | (.error f, s) => set (opFault s k o f)
    else
      match unreachable s home with
      | some sub => set (storeFault t.1 e.x va (localFault s e.x 0x40 sub 1) home)
      | none =>
        match sendOp t.1 o (lcnOf e.x) (xworld s e.x) (xsup s e.x) (vcOf s e.x true) (.rstore va word size 0 release) with
        | some r => set (moreStores (cnt r.2) e.x)
        | none => needM (.sync .slot)

/-- A posted doorbell through DB_REMOTE (R345), written at a virtual address. -/
def sendDoorbell (e : Env) (va : BitVec 59) (v : BitVec 64) : M Unit := do
  let s ← get
  let home : BitVec 16 := v.extractLsb' 16 16
  let lcn : BitVec 16 := v.extractLsb' 0 16
  let gen : BitVec 16 := v.extractLsb' 32 16
  let ev : BitVec 16 := v.extractLsb' 48 16
  if home = devNo s then set (doorbellIn s (xworld s e.x) lcn gen ev (devNo s) 0)
  else if storesOut s e.x = 0xFFF then needM (.sync .slot)
  else
    match unreachable s home with
    | some sub => set (storeFault s e.x va (localFault s e.x 0x40 sub 1) home)
    | none =>
      let o : OutOp := { owner := .exec e.x, dev := home, addr := va, acc := 1, posted := true, level := xsup s e.x }
      match sendOp s o (lcnOf e.x) (xworld s e.x) (xsup s e.x) (vcOf s e.x true) (.doorbell lcn gen ev (devNo s) 0) with
      | some r => set (moreStores r.2 e.x)
      | none => needM (.sync .slot)

/-! ## Register space (R228, R278, R415) -/

/-- The outbound window is open (R415). -/
def outOpen (s : State) : Bool := s.host.outEn && s.host.master

/-- What a read of the outbound window that fails returns. -/
def outAbort : W := ⟨0x006, 0xFFFFFFFFFFFFFFFF⟩

/-- The host address of an outbound access. -/
def outAddr (s : State) (lpa : Nat) : Nat := s.host.outBase.toNat * 2 ^ 35 + (lpa - 0x7F800000000)

/-- Reads a location of register space. -/
def regLoad (e : Env) (lpa : Nat) : M W := do
  let s ← get
  let a := lpa / 8 * 8
  if isOut lpa then
    match tget e.words (lpa / 8) with
    | some w => pure w
    | none =>
      if outOpen s then needM (.outb a [])
      else do
        set (hostError s (lpa - 0x7F800000000) 7 9)
        pure outAbort
  else pure (regRead s a)

/-- Writes a location of register space through a virtual address. -/
def regStore (e : Env) (va : BitVec 59) (lpa : Nat) (w : W) : M Unit := do
  let s ← get
  let a := lpa / 8 * 8
  if isOut lpa then
    if outOpen s then set { s with host := { s.host with writes := s.host.writes ++ [(BitVec.ofNat 64 (outAddr s a), w.payload)] } }
    else set (hostError s (lpa - 0x7F800000000) 7 9)
  else
    match regBlk a with
    | .dbRemote => sendDoorbell e va w.payload
    | _ => set (regWrite s (xworld s e.x) false (some e.x) a w.payload)

/-! ## Loads (R129, R130) -/

/-- uninit_trap of the executor's world (R36). -/
def uninitTrap (s : State) (x : Exec) : Bool := dval s 0x3100 ((xworld s x).num + 1) != 0

/-- An alignment check of an access (rank 8). -/
def aligned (e : Env) (va : BitVec 59) (size acc : Nat) : Res Unit :=
  if va.toNat % size = 0 then .ok () else misaligned e va 2 size acc

/-- The word of a load of a size, with the leaf of its slot when it is private. -/
def rawLoad (e : Env) (va : BitVec 59) (size : Nat) (acq : Bool) : M (W × Option Leaf) := do
  chkM (aligned e va size 0)
  if isGlobal va then
    let w ← globalLoad e va (BitVec.ofNat 2 (Nat.log2 size)) acq
    pure (w, none)
  else
    let l ← translate e 0 va size none
    let s ← get
    chkM (watch s e.x va false)
    let lpa := l.lpa va
    waitSide e.x (pteMt l.pte)
    let w ← keepLeaf va l (if isReg lpa then regLoad e lpa else cacheWord e (lpa / 8) (pteMt l.pte) (pteNa l.pte) false)
    pure (w, some l)

/-- A word load (R129, R34, R35, R260). -/
def loadWord (e : Env) (va : BitVec 59) (acq : Bool) : M W := do
  let (w, l) ← rawLoad e va 8 acq
  let s ← get
  if w.tag = 0x000 ∧ uninitTrap s e.x = true then chkM (throwX 0x07 va (1 + e.hi)) else loadBarrier e va l w

/-- The load of LDW.P. -/
def loadPlain (e : Env) (va : BitVec 59) : M W := do
  let (w, _) ← rawLoad e va 8 false
  pure w

/-- A load of 1 or 2 bytes (R40). -/
def loadBytes (e : Env) (va : BitVec 59) (size : Nat) : M W := do
  let (w, _) ← rawLoad e va size false
  let s ← get
  let a := BitVec.ofNat 59 (va.toNat / 8 * 8)
  if w.tag = 0x006 then pure (rawW (bitsN w.payload (8 * (va.toNat % 8)) (8 * size)))
  else if w.tag = 0x000 then (if uninitTrap s e.x then chkM (throwX 0x07 a (3 + e.hi)) else pure (rawW 0))
  else if w.tag = 0x301 then chkM (throwX 0x08 a w.payload.toNat)
  else chkM (tagTrap 4 3 w a)

/-! ## The store barrier (R267, R268) -/

/-- The log slot that an append writes, checked as a Supervisor-level write. -/
def logSlot (e : Env) (ptr : BitVec 59) : M (Nat × Nat × Bool) := do
  let s ← get
  let l ← translateAs e { tctx s e.x 1 with sup := true } ptr 8 (some 0)
  pure (l.lpa ptr / 8, pteMt l.pte, pteNa l.pte)

/-- Whether a write of a word through a leaf uses the remembered-set log, and the snapshot log (R267). -/
def usesRs (g : Gc) (l : Leaf) (v : W) : Bool := g.en && (pteMt l.pte == 0 && (isPtr v && (ptrY v && l.pte.getLsbD 50)))
def usesSa (g : Gc) (l : Leaf) : Bool := g.en && (pteMt l.pte == 0 && g.marking)

/-- The alignment of the log pointers that a store would use (R267, rank 8), the snapshot log's first (log entry 43). -/
def logAligned (e : Env) (r : Rec) (g : Gc) (rs : Leaf → Bool) (l : Leaf) : Res Unit :=
  if usesSa g l && decide (r.satbPtr.toNat % 8 ≠ 0) then misaligned e r.satbPtr 2 8 1
  else if rs l && decide (r.rslogPtr.toNat % 8 ≠ 0) then misaligned e r.rslogPtr 2 8 1
  else .ok ()

/-- A log that a store would append to, with its slot: none where it is not used. -/
def logFor (e : Env) (used : Bool) (ptr : BitVec 59) : M (Option (Nat × Nat × Bool)) :=
  if used then do
    let p ← logSlot e ptr
    pure (some p)
  else pure none

/-- LOG_FULL (R267, rank 11). -/
def logFull (va : BitVec 59) (r : Rec) (rs sa : Bool) : Res Unit :=
  let rsFull := rs && decide (r.rslogLim.toNat < r.rslogPtr.toNat + 8)
  let saFull := sa && decide (r.satbLim.toNat < r.satbPtr.toNat + 8)
  if rsFull || saFull then throwX 0x14 va (b2n rsFull + 2 * b2n saFull) else .ok ()

/-- The store barrier of a write of a word to a slot, up to rank 11 (R267). A fast interrupt context has no log registers, so
that a log it would use has neither room nor a translation of its own (log entry 15). -/
def storeBarrier (e : Env) (g : Gc) (va : BitVec 59) (l : Leaf) (v : W) : M Barrier := do
  let s ← get
  let r := xrec s e.x
  chkM (logAligned e r g (fun l => usesRs g l v) l)
  let a ← logFor e (usesSa g l) r.satbPtr
  let b ← logFor e (usesRs g l v) r.rslogPtr
  chkM (watch s e.x va true)
  chkM (logFull va r b.isSome a.isSome)
  pure { rs := b, sa := a, m := g.m }

/-- Translates the slot of a word store or atomic, with the alignment of the logs it would use. -/
def translateSlot (e : Env) (g : Gc) (acc : Nat) (va : BitVec 59) (v : W) (reg : BitVec 64) : M Leaf := do
  let s ← get
  translateAs e (tctx s e.x acc) va 8 (some reg) (logAligned e (xrec s e.x) g fun l => usesRs g l v)

/-- The log append buffer has 8 entries (R268), some of which the appends of stores that are not yet performed will take. -/
def roomAppends (e : Env) (b : Barrier) : M Unit := do
  let s ← get
  let c := s.core (xcore e.x)
  let taken := c.appends.length + (c.stores.filter fun p => p.card.isSome).length
  if (b.rs.isSome || b.sa.isSome) && decide (7 ≤ taken) then needM .held else pure ()

/-- A store waits for the healing writes and appends of its executor to the word (R262, R268). -/
def waitBehind (e : Env) (key : Nat) : M Unit := do
  let s ← get
  if ownBehind s e.x key then needM .held else pure ()

/-- Advances a log pointer. -/
def bumpRs (s : State) (x : Exec) : State :=
  match x with
  | .ctx n => s.modCtx n.toNat fun c => { c with r := { c.r with rslogPtr := c.r.rslogPtr + 8 } }
  | .fic _ => s
def bumpSa (s : State) (x : Exec) : State :=
  match x with
  | .ctx n => s.modCtx n.toNat fun c => { c with r := { c.r with satbPtr := c.r.satbPtr + 8 } }
  | .fic _ => s

/-- An append enters the buffer. -/
def pushAppend (s : State) (x : Exec) (slot : Nat × Nat × Bool) (w : W) : State :=
  s.modCore (xcore x) fun c => { c with appends := c.appends ++ [{ who := x, key := slot.1, word := w, mask := 255, mt := slot.2.1, na := slot.2.2 }] }

/-- The card of a slot. -/
def cardOf (va : BitVec 59) : W := rawW (va.toNat / 512 * 512)

/-- The snapshot append of a write over an old word. -/
def snapAppend (s : State) (x : Exec) (b : Barrier) (old : W) : State :=
  match b.sa with
  | some slot => if isPtr old && (!ptrGlobal old && ptrM old != b.m) then bumpSa (pushAppend s x slot old) x else s
  | none => s

/-- The remembered-set append of a write that is performed. -/
def cardAppend (s : State) (x : Exec) (b : Barrier) (va : BitVec 59) : State :=
  match b.rs with
  | some slot => bumpRs (pushAppend s x slot (cardOf va)) x
  | none => s

/-! ## Stores (R129, R130) -/

/-- The executor's core holds the line in M or E, with no store of the executor to the word waiting; otherwise what the
access needs. -/
def ownLine (e : Env) (key : Nat) (na : Bool) : M Unit := do
  let s ← get
  let c := s.core (xcore e.x)
  let line := key / 8
  if ownBehind s e.x key || (ownStores s e.x key).length != 0 then needM .held
  else if recovering s (xcore e.x) line then needM .held
  else
    match tget c.l1d line with
    | some l =>
      if l.st = .m ∨ l.st = .e then
        match l1dHit s (xcore e.x) (whoOf s e.x) line (some (key % 8)) with
        | (.data, s) => set s
        | (.gone, _) => needM (.refetch line false)
        | (.wait, _) => needM .held
      else needM (.line line true false false na false)
    | none =>
      match takeStash s (xcore e.x) (whoOf s e.x) line with
      | some s => set s
      | none => needM (.line line true false false na false)

/-- The word in the core's own line. -/
def lineAt (s : State) (x : Exec) (key : Nat) : W := lineWord (tgetD (s.core (xcore x)).l1d (key / 8) {}).data key

/-- A store of a whole word with its barrier performed (R236, R267): posted to its line, performed at once where the
snapshot needs the old word, or written by the home. -/
def putWord (e : Env) (va : BitVec 59) (l : Leaf) (v : W) (b : Barrier) : M Unit := do
  let key := l.lpa va / 8
  let core := xcore e.x
  roomAppends e b
  let s ← get
  if b.sa.isSome then
    if (s.core core).bypass || e.bar.isSome then
      match tget e.words key with
      | some old => modify fun s => cardAppend (snapAppend s e.x b old) e.x b va
      | none =>
        waitBehind e key
        if (ownStores s e.x key).length != 0 then needM .held else needM (.atm key 1 v nilW (farNa l) (pinLeaf va l) b)
    else
      ownLine e key (pteNa l.pte)
      modify fun s => cardAppend (snapAppend (perfStore s core { who := e.x, key := key, word := v, mask := 255 }) e.x b (lineAt s e.x key)) e.x b va
  else
    waitBehind e key
    let card := b.rs.map fun p => (p.1, cardOf va, p.2.1, p.2.2)
    modify fun s =>
      let s := issueStore s core { who := e.x, key := key, word := v, mask := 255, mt := pteMt l.pte, na := pteNa l.pte, card := card }
      if card.isSome then bumpRs s e.x else s

/-- The barrier of a far atomic that the home has performed stays as it was when it was sent (R258). -/
def heldBarrier (e : Env) (m : M Barrier) : M Barrier := match e.bar with | some b => pure b | none => m

/-- A word store. -/
def storeWord (e : Env) (va : BitVec 59) (v : W) (release : Bool) : M Unit := do
  chkM (aligned e va 8 1)
  if isGlobal va then globalStore e va v 3 release
  else
    let g ← gcNow e
    let l ← translateSlot e g 1 va v v.payload
    let b ← heldBarrier e (storeBarrier e g va l v)
    if release then waitEarlier e.x else pure ()
    waitSide e.x (pteMt l.pte)
    if isReg (l.lpa va) then regStore e va (l.lpa va) v else putWord e va l v b

/-- A store of 1 or 2 bytes of an integer word (R39). -/
def storeBytes (e : Env) (va : BitVec 59) (v : W) (size : Nat) : M Unit := do
  chkM (aligned e va size 1)
  if isGlobal va then globalStore e va ⟨0x006, BitVec.ofNat 64 (v.payload.toNat % 2 ^ (8 * size))⟩ (BitVec.ofNat 2 (Nat.log2 size)) false
  else
    let l ← translate e 1 va size (some 0)
    let s ← get
    chkM (watch s e.x va true)
    let key := l.lpa va / 8
    let core := xcore e.x
    let p := placeBytes va v (Nat.log2 size) 0
    let a := BitVec.ofNat 59 (va.toNat / 8 * 8)
    let refuse := fun (old : W) => match partialWrite old with
      | some (8, _) => chkM (throwX 0x08 a old.payload.toNat)
      | some (_, sub) => chkM (tagTrap sub 3 old a)
      | none => pure ()
    waitSide e.x (pteMt l.pte)
    if pteMt l.pte = 0 ∧ (s.core core).bypass = false then
      ownLine e key (pteNa l.pte)
      let s ← get
      refuse (lineAt s e.x key)
      set (perfStore s core { who := e.x, key := key, word := p.1, mask := p.2 })
    else
      let old ← keepLeaf va l (cacheWord e key (pteMt l.pte) (pteNa l.pte) false)
      refuse old
      modify fun s => issueStore s core { who := e.x, key := key, word := p.1, mask := p.2, mt := pteMt l.pte, na := pteNa l.pte }

/-! ## Atomics (R131, R243) -/

/-- The exception that a check of an atomic's memory word raises (R119 rank 13). -/
def atomFault (e : Env) (va : BitVec 59) (old : W) (f : Nat × Nat) : Res Unit :=
  if f.1 = 8 then throwX 0x08 va old.payload.toNat
  else if f.1 = 7 then throwX 0x07 va (4 + e.hi)
  else tagTrap f.2 3 old va

/-- Whether an atomic writes (R131): a compare-and-swap only where the comparison holds, also when it writes what is there. -/
def atomWrites (op : Nat) (old rd : W) : Bool :=
  if op = 4 then old.payload == rd.payload else if op = 5 then old == rd else true

/-- An atomic of a private address: the old word. -/
def privateAtom (e : Env) (va : BitVec 59) (op ord : Nat) (rt rd : W) : M W := do
  let v := if op = 1 ∨ op = 4 ∨ op = 5 then rt else nilW
  let g ← gcNow e
  let l ← translateSlot e g 3 va v rt.payload
  let b ← heldBarrier e (storeBarrier e g va l v)
  if 2 ≤ ord then waitEarlier e.x else pure ()
  waitSide e.x (pteMt l.pte)
  let lpa := l.lpa va
  let key := lpa / 8
  let core := xcore e.x
  let finish := fun (old : W) (perf : State → State) (i : Nat) (ev : Nat) => do
    modify fun s =>
      let s := perf s
      let s := if atomWrites op old rd then cardAppend (snapAppend s e.x b old) e.x b va else s
      countEvent (trainAtom s core i e.contended) core (whoOf s e.x) ev
    pure old
  if isReg lpa then
    let old ← regLoad e lpa
    match atomNew op old rt rd with
    | .error f => do
      chkM (atomFault e va old f)
      pure old
    | .ok w => do
      regStore e va lpa w
      pure old
  else
    roomAppends e b
    let s ← get
    let i := atomIdx s e.x lpa
    let far := pteMt l.pte != 0 || atomFar s e.x i
    match tget e.words key with
    | some old =>
      match atomNew op old rt rd with
      | .error f => do
        chkM (atomFault e va old f)
        pure old
      | .ok _ => finish old (fun s => s) i 0x15
    | none =>
      if far then
        if ownBehind s e.x key || (ownStores s e.x key).length != 0 then needM .held
        else needM (.atm key (BitVec.ofNat 3 op) rt rd (farNa l) (pinLeaf va l) b)
      else
        ownLine e key (pteNa l.pte)
        let s ← get
        let old := lineAt s e.x key
        match atomNew op old rt rd with
        | .error f => do
          chkM (atomFault e va old f)
          pure old
        | .ok w => finish old (fun s => if w = old then s else perfStore s core { who := e.x, key := key, word := w, mask := 255 }) i 0x14

/-- An atomic of a global address (R131, R298). -/
def globalAtom (e : Env) (va : BitVec 59) (op ord : Nat) (rt rd : W) : M W := do
  match tget e.words (globKey va) with
  | some w => pure w
  | none =>
    globalRelease e (decide (2 ≤ ord))
    let s ← get
    let t := touch s e.x va
    if t.2 then needM (.migrate va 3)
    else if storesOut s e.x = 0xFFF then needM (.sync .slot)
    else
      match unreachable s (homeDev va) with
      | some sub => chkM (.error (.exn (remoteExn va (localFault s e.x 0x40 sub 3) (homeDev va))))
      | none => needM (.remote va 3 (.ratom va rt rd (BitVec.ofNat 3 op) (BitVec.ofNat 2 ord)))

/-- An atomic: the old word. -/
def atom (e : Env) (va : BitVec 59) (op ord : Nat) (rt rd : W) : M W := do
  chkM (aligned e va 8 3)
  if isGlobal va then globalAtom e va op ord rt rd else privateAtom e va op ord rt rd

/-! ## Maintenance (R246) -/

/-- One step of line maintenance at an address: the translation exceptions of a load, and the request to the home. A
global address and a page with mt = 11 take no access. -/
def maintain (e : Env) (kind : ReqK) (va : BitVec 59) : M Unit := do
  if isGlobal va then pure ()
  else
    let l ← translate e 0 va 8 none
    let s ← get
    let line := l.lpa va / 64
    if pteMt l.pte = 3 then pure ()
    else if (tget e.words (maintKey line)).isSome then pure ()
    else if (s.core (xcore e.x)).stores.any (fun p => p.who == e.x && p.key / 8 == line) then needM .held
    else needM (.maint kind line)

end Sys2Proof.Machine
end

