-- ==== Sys2Proof/Machine/Microcode.lean ====
section
/-! DEFINITION. The two-level control store of the cores and the Flashing patch memory of the tiles (R183 to R185, R190, R191): which
microwords an instruction or step runs from, where a microsequencer holds, and what a parity error does. The nanoword bits that
drive the datapath are not part of the architecture (R185): an instruction has the effect that its chapter states (R186). -/

namespace Sys2Proof.Machine

/-- The first address that a fetch of a microaddress reads: of the enabled match registers that name it, the lowest-numbered one
applies; fetches from Flashing are never redirected (R191). -/
def flashRedirect (t : Tile) (a : BitVec 15) : BitVec 15 :=
  if a.getLsbD 14 then a
  else
    match (List.range 32).find? fun i => let r := tgetD t.matches_ i 0; r.getLsbD 23 && r.extractLsb' 0 14 == a.setWidth 14 with
    | some i => 0x4000 + ((tgetD t.matches_ i 0).extractLsb' 14 9).setWidth 15
    | none => a

/-- A fetched microword, and whether its parity is valid: of ROM, of Flashing, or none at a reserved microaddress (R183). -/
def microAt (t : Tile) (a : BitVec 15) : Option (BitVec 16 × Bool) :=
  if a.toNat < 0x4000 then some (Config.romMicro a.toNat, true)
  else if a.toNat < 0x4200 then
    let w := tgetD t.micro (a.toNat - 0x4000) 0
    some (w.setWidth 16, evenOnes 17 w.toNat)
  else none

/-- The nanoword that a microword selects (R184). -/
def nanoAt (t : Tile) (a : BitVec 15) (w : BitVec 16) : BitVec 128 × Bool :=
  let n := w.toNat % 2048
  if 0x4000 ≤ a.toNat ∧ 0x780 ≤ n then
    let v := tgetD t.nano (n - 0x780) 0
    (v.setWidth 128, evenOnes 129 v.toNat)
  else (Config.romNano n, true)

/-- The values of seq (R185). -/
inductive SeqOp where
  | next | end_ | step | jump | brt | call | ret | abort | waitData | waitFpb | waitLog | waitAck
  deriving DecidableEq, Repr

/-- The value of seq of a microword; none where it is reserved. -/
def seqOp (w : BitVec 16) : Option SeqOp :=
  match w.toNat / 2048 with
  | 0x00 => some .next | 0x01 => some .end_ | 0x02 => some .step | 0x03 => some .jump | 0x04 => some .brt | 0x05 => some .call
  | 0x06 => some .ret | 0x07 => some .abort | 0x08 => some .waitData | 0x09 => some .waitFpb | 0x0A => some .waitLog | 0x0B => some .waitAck
  | _ => none

/-- The target of a jump, bits [127:113] of a nanoword; its condition, bits [112:108], is a number whose meaning is the ROM's. -/
def nanoTarget (n : BitVec 128) : BitVec 15 := n.extractLsb' 113 15
def nanoCond (n : BitVec 128) : Nat := (n.extractLsb' 108 5).toNat

/-- One microword that a microsequencer fetched: its address with the return register, its seq, and whether its parity and its
nanoword's are valid. -/
structure Fetched where
  at_  : MicroAt
  seq  : Option SeqOp
  good : Bool
  deriving DecidableEq, Repr

/-- What a microsequencer does after a microword (R185), given whether the condition of a branch holds: the next microaddress with
the return register, or none at the end of the instruction or step. -/
def afterSeq (q : SeqOp) (u : MicroAt) (target : BitVec 15) (holds : Bool) : Option MicroAt :=
  match q with
  | .next | .waitData | .waitFpb | .waitLog | .waitAck => some { u with addr := u.addr + 1 }
  | .jump => some { u with addr := target }
  | .brt => some { u with addr := if holds then target else u.addr + 1 }
  | .call => some ⟨target, u.addr + 1⟩
  | .ret => some { u with addr := u.ret }
  | .end_ | .step | .abort => none

/-- The microwords from a microaddress to the end of the instruction or step, at most `fuel` of them; `holds` answers the conditions of
branches, by the number of microwords left and the condition's number. -/
def microPath (fuel : Nat) (t : Tile) (holds : Nat → Nat → Bool) (u : MicroAt) : List Fetched :=
  match fuel with
  | 0 => []
  | fuel + 1 =>
    let u := { u with addr := flashRedirect t u.addr }
    match microAt t u.addr with
    | none => []
    | some (w, ok) =>
      let (n, ok') := nanoAt t u.addr w
      let q := seqOp w
      ⟨u, q, ok && ok'⟩ ::
        (match q.bind fun q => afterSeq q u (nanoTarget n) (holds fuel (nanoCond n)) with
         | some v => microPath fuel t holds v
         | none => [])

/-- The instructions that run from microcode whatever their operands (R123, R136), numbered. -/
def Op.micro (o : Op) : Option Nat :=
  match o with
  | .div _ _ _ => some 0 | .rem _ _ _ => some 1 | .fdiv _ _ _ => some 2 | .fsqrt _ _ => some 3 | .cons _ _ _ => some 4 | .alloc _ _ _ => some 5
  | .memq _ _ _ => some 6 | .assq _ _ _ => some 7 | .walk _ _ _ => some 8 | .probe _ _ _ => some 9 | .copyw _ _ => some 10 | .fillw _ _ => some 11
  | .cleanL _ => some 12 | .flushL _ => some 13 | .invalL _ => some 14 | .syscall => some 15 | .wcall _ => some 16 | .retx => some 17
  | .spawn _ _ _ => some 18 | .ctxhold _ => some 19 | .ctxrel _ => some 20 | .ctxkill _ => some 21 | .wait _ _ _ => some 22 | .waitM _ _ _ => some 23
  | .ctxrd _ _ _ => some 24 | .ctxwr _ _ _ => some 25 | .tlbiVa _ => some 26 | .tlbiSp _ => some 27 | .tlbiW => some 28
  | _ => none

/-- The operands of a generic instruction that its hardware paths do not take (R125, R159), numbered by the instruction. -/
def Op.slow (o : Op) (s : State) (x : Exec) : Option Nat :=
  let two := fun (k : Nat) (a b : W) => if (a.tag = 0x001 ∧ b.tag = 0x001) ∨ (a.tag = 0x002 ∧ b.tag = 0x002) then none else some k
  match o with
  | .add _ rs rt => two 32 (xreg s x rs) (xreg s x rt)
  | .sub _ rs rt => two 33 (xreg s x rs) (xreg s x rt)
  | .mul _ rs rt => two 34 (xreg s x rs) (xreg s x rt)
  | .neg _ rs => two 35 (xreg s x rs) (xreg s x rs)
  | .numeq _ rs rt => two 36 (xreg s x rs) (xreg s x rt)
  | .lt _ rs rt => two 37 (xreg s x rs) (xreg s x rt)
  | .le _ rs rt => two 38 (xreg s x rs) (xreg s x rt)
  | .addi _ rs _ => two 39 (xreg s x rs) ⟨0x001, 0⟩
  | _ => none

/-- Where a microsequencer begins an instruction or step that runs from microcode: an address of the ROM. -/
def microEntry (s : State) (x : Exec) (o : Op) : Option MicroAt :=
  ((o.micro).or (o.slow s x)).map fun k => ⟨(Config.microEntry k).setWidth 15, 0⟩

/-- The microwords that an instruction or step runs from on its core. -/
def microRun (s : State) (x : Exec) (u : MicroAt) : List Fetched :=
  microPath 4096 (s.tile (tileOf (xcore x))) (fun k c => Config.choice s.free (2 ^ 57 + 32 * k + c) % 2 == 1) u

/-- The microword at which an access or acknowledgement is waited for (R185, R187): the first of its kind from where the instruction
stands. -/
def microHold (s : State) (x : Exec) (o : Op) (old : Option MicroAt) (ack : Bool) : Option MicroAt :=
  ((old.map fun u => { u with addr := u.addr + 1 }).or (microEntry s x o)).bind fun u =>
    ((microRun s x u).find? fun f => f.seq == some (if ack then .waitAck else .waitData)).map fun f => f.at_

/-- Whether a word of a tile's Flashing has a parity error. -/
def flashBad (t : Tile) : Bool := (t.micro.any fun e => !evenOnes 17 e.2.toNat) || t.nano.any fun e => !evenOnes 129 e.2.toNat

/-- The microaddress at which an instruction or step meets a parity error (R190). -/
def microBad (s : State) (x : Exec) (o : Op) : Option (BitVec 15) :=
  if flashBad (s.tile (tileOf (xcore x))) then
    (microEntry s x o).bind fun u => ((microRun s x u).find? fun f => !f.good).map fun f => f.at_.addr
  else none

/-- A parity error is an uncorrectable error in core state, reported with the microaddress (R52, R190). -/
def microLost (s : State) (x : Exec) (a : BitVec 15) : State := react (declareCore s (xcore x) 0x03 (a.setWidth 64) true) 0x03

end Sys2Proof.Machine
end

