-- ==== Sys2Proof/Machine/Issue.lean ====
section
/-! DEFINITION. Issuing an instruction (R65 to R70, R116 to R121, R166, R178): when an executor issues, what comes of a body's
answer, and the swaps for accesses. -/

namespace Sys2Proof.Machine

/-! ## When an executor issues -/

/-- The device is in no transition to LOADER or OFF, which stops every core at once (R441). -/
def coresGo (s : State) : Bool := match s.mg.trans with | some t => t.target != .loader | none => true

/-- The core is live and clocked. -/
def coreUp (s : State) (k : Nat) : Bool :=
  coreLive s k && (((s.tile (tileOf k)).power == .on && !(s.tile (tileOf k)).waking) && coresGo s)

/-- The slots of the core run: no mode and no substitution stops them. -/
def coreRuns (s : State) (k : Nat) : Bool := coreUp s k && !(s.core k).halting

/-- A context issues: it is ACTIVE in a slot, no access of it is pending, and no swap has stopped it (R62, R65, R71). -/
def ctxIssues (s : State) (n : Nat) : Bool :=
  let c := s.ctx n
  decide (n < 40960) && (c.dir.state == .active && (c.slot.isSome && (c.pend.isNone && (!c.stopped && (!c.dir.dying
    && (coreRuns s (coreOf n) && issuing s.mg.mode))))))

/-- A fast interrupt context issues (R103). -/
def ficIssues (s : State) (k : Nat) : Bool :=
  let f := s.fic k
  (f.mode == .irq || f.mode == .nmi) && (f.pend.isNone && (coreUp s k && ficRuns (modeAt s (tileOf k))))

/-- Whoever executes issues its next instruction. -/
def canIssue (s : State) (x : Exec) : Bool := match x with | .ctx n => ctxIssues s n.toNat | .fic k => ficIssues s k.toNat

/-! ## Pending accesses and exceptions -/

/-- The pending access of an executor. -/
def pendOf (s : State) (x : Exec) : Option Pend := match x with | .ctx n => (s.ctx n.toNat).pend | .fic k => (s.fic k.toNat).pend

/-- Sets it; access_out is 1 while a load, atomic or fetch is outstanding (R61). -/
def setPend (s : State) (x : Exec) (p : Option Pend) : State :=
  let out : Bool := match p with
    | some p => p.why == .line || (p.why == .walk || (p.why == .remote || p.why == .outbound))
    | none => false
  match x with
  | .ctx n => s.modCtx n.toNat fun c => { c with pend := p, dir := { c.dir with accessOut := out } }
  | .fic k => s.modFic k.toNat fun f => { f with pend := p }

/-- The long or repeated instruction in progress. -/
def repeatedOf (s : State) (x : Exec) : Option (Bool × BitVec 32) :=
  match x with | .ctx n => (s.ctx n.toNat).repeated | .fic k => (s.fic k.toNat).repeated
def setRepeated (s : State) (x : Exec) (r : Option (Bool × BitVec 32)) : State :=
  match x with
  | .ctx n => s.modCtx n.toNat fun c => { c with repeated := r }
  | .fic k => s.modFic k.toNat fun f => { f with repeated := r }

/-- ACCESS_FLAG and DIRTY_FLAG remove the raising core's TLB entries for the page (R211). -/
def dropPage (s : State) (x : Exec) (va : BitVec 59) : State :=
  { s with tlbs := tset s.tlbs (xcore x) ((tgetD s.tlbs (xcore x) []).filter fun e => !(e.world == xworld s x && tlbCovers e (va.toNat / 4096))) }

/-- Raises the exception of an instruction. -/
def raiseX (s : State) (x : Exec) (e : Exn) : State :=
  let s := if e.cause = 0x0C ∨ e.cause = 0x0D then dropPage s x e.addr else s
  raise (setRepeated s x none) x e

/-- The fault of the store-fault latch is taken, which empties it (R303). -/
def takeLatch (s : State) (n : Nat) : State :=
  let c := s.ctx n
  match c.sfault with
  | some f =>
    let s := s.setCtx n { c with sfault := none, dir := { c.dir with fault := false } }
    raiseX s (.ctx (BitVec.ofNat 16 n)) (remoteExn f.addr ⟨f.hcause, f.hsub, f.level, f.acc⟩ f.home)
  | none => s.setCtx n { c with dir := { c.dir with fault := false } }

/-- The exception that an ACTIVE context takes before it issues anything: of an access that completed with fault = 1
(R66), or of a migration abandoned for a store fault (R313). -/
def takeFault (s : State) (n : Nat) : State :=
  let c := s.ctx n
  match c.exn with
  | some e => raiseX (s.setCtx n { c with exn := none, dir := { c.dir with fault := false } }) (.ctx (BitVec.ofNat 16 n)) e
  | none => takeLatch s n

/-! ## Going on -/

/-- An instruction has completed: it is counted (R115), and a suppression of watches ends (R161). -/
def commitX (s : State) (x : Exec) : State :=
  let s := countEvent s (xcore x) (whoOf s x) 0x01
  match x with
  | .ctx n => s.modCtx n.toNat fun c => { c with r := { c.r with ctxStat := c.r.ctxStat &&& ~~~(0x1000000 : BitVec 32) }, repeated := none }
  | .fic k => s.modFic k.toNat fun f => { f with repeated := none }

/-- What follows a body that answered: pc goes on, or the same instruction has a further step (R137). -/
def retire (s : State) (x : Exec) (word : BitVec 32) (rep : Bool) (go : Go) : State :=
  match go with
  | .next => setXpc (commitX s x) x (xpc s x + 4)
  | .goto a => setXpc (commitX s x) x a
  | .step => setRepeated s x (some (rep, word))
  | .done => s

/-! ## Waiting (R65, R70, R313) -/

/-- A context that issues is swapped out to WAIT_MEM; one that is out already stays there. -/
def swapWait (s : State) (x : Exec) (wait : Nat) : State :=
  match x with
  | .fic _ => s
  | .ctx n =>
    let s := s.modCtx n.toNat fun c => { c with dir := { c.dir with wait := BitVec.ofNat 3 wait } }
    let c := s.ctx n.toNat
    if c.dir.state = .active ∧ !c.stopped then queueSwap (countEvent s (coreOf n.toNat) (whoOf s x) 0x0F) n.toNat .waitMem else s

/-- The swap of an access whose estimate exceeds swap_thresh (R65). -/
def swapEst (s : State) (x : Exec) (est : Nat) : State :=
  if dval s 0x3200 0x02 < est then swapWait s x 1 else s

/-- The estimate for a line's home on this device (R65). -/
def estLine (s : State) (core line : Nat) : Nat := dval s 0x3200 (if homeTile s line = tileOf core then 0x04 else 0x05)

/-- A migration begins (R313 step 1): the context leaves its slot, a stub is reserved. -/
def beginMigration (s : State) (n : Nat) (va : BitVec 59) (acc : BitVec 2) : State :=
  match freeStub s with
  | none => s
  | some k =>
    let id := s.remote.nextMig
    let s := vacate s n
    let s := { s with remote := { s.remote with nextMig := id + 1, stubs := tset s.remote.stubs k ⟨n, 0, 0, (s.ctx n).dir.gen⟩ } }
    let s := s.modCtx n fun c => { c with dir := { c.dir with state := .migrating, stub := BitVec.ofNat 12 k }, migId := id, migSent := false,
                                          migVa := va, migAcc := acc, refused := false }
    s.modCore (coreOf n) fillSlot

/-- The writes of Valley that are not performed: the slots of remote stores with their generations (R379). -/
def valleyWrites (s : State) : List Nat :=
  s.chans.foldl (fun l c => l ++ c.2.unacked.map fun u => u.1 * 65536 + (tgetD s.remote.gens u.1 0).toNat) []

/-- The registers of a context, which its pending access keeps as it issued with them (R66). -/
def regFile (s : State) (x : Exec) : Option RegFile :=
  match x with
  | .ctx n => let c := s.ctx n.toNat; some { r := c.r, ring := c.ring, g := c.g, trap := c.trap }
  | .fic _ => none

/-- The microword at which an instruction that waits is held (R187); a fetch, and what runs without microcode, is held at none. -/
def heldAt (s : State) (x : Exec) (word : BitVec 32) (fetch : Bool) (old : Option MicroAt) (why : Why) : Option MicroAt :=
  match decodeInstr word with
  | .ok o => if fetch then none else microHold s x o old (why == .maint)
  | .error _ => none

/-- A pending access of an instruction, in place of the one it goes on from. -/
def pendFor (s : State) (x : Exec) (word : BitVec 32) (rep fetch : Bool) (old : Option Pend) (why : Why) : Pend :=
  match old with
  | some p => { p with why := why, needs := none, excl := false, ready := false, early := false, micro := heldAt s x word fetch p.micro why }
  | none => { word := word, rep := rep, fetch := fetch, why := why, regs := regFile s x, micro := heldAt s x word fetch none why }

/-- The words that an access keeps beside those that arrive. -/
def Pend.pin (p : Pend) (l : List (Nat × W)) : Pend := { p with words := l.foldl (fun m q => tset m q.1 q.2) p.words }

/-- Sends a request of an access, unless the core has WBD or EVC of the line outstanding: the access then asks again (R236). -/
def askHome (s : State) (x : Exec) (line : Nat) (p : Pend) (r : Req) : State :=
  if leaving s (xcore x) line then setPend s x (some { p with needs := some line })
  else setPend (sendReq s r) x (some { p with needs := some line })

/-- A line of an L1I that failed is released and fetched again (R52). -/
def refetchI (s : State) (core line : Nat) : State :=
  let s := s.modCore core fun c => c.setL1i line { st := .xiA }
  post (logFault s 0x05 0 core (siteOf s core) (BitVec.ofNat 64 (line * 64)) []) { kind := .evc, src := core, dst := homeNode s line, line := line, toward := 1 }

/-- Takes a slot for a load or an atomic to a global address, and sends it; one to the device itself stays here (R217). -/
def sendAccess (s : State) (x : Exec) (va : BitVec 59) (acc : BitVec 2) (body : Body) : Option (Nat × State) :=
  let o : OutOp := { owner := .exec x, dev := homeDev va, addr := va, acc := acc, posted := false, level := xsup s x }
  if homeDev va = devNo s then (takeOp s o).map fun r => (r.1, r.2.2)
  else sendOp s o (lcnOf x) (xworld s x) (xsup s x) (vcOf s x false) body

/-- The home's part of a load or an atomic whose home is the issuing device (R217): its answer comes to whoever waits for slot
k. -/
def ownHome (s : State) (x : Exec) (k : Nat) (va : BitVec 59) (body : Body) : State :=
  let give := fun (r : Except HF W × State) => match r with
    | (.ok w, s) => giveWord s x k w
    | (.error f, s) => opFault s k (tgetD s.remote.ops k { owner := .exec x, dev := devNo s, addr := va, acc := 0, posted := false, level := false }) f
  match body with
  | .rload .. =>
    (match homeLoad s (devNo s) (xworld s x) (xsup s x) va with
     | (.ok r, s) => give (.ok r.1, s)
     | (.error f, s) => give (.error f, s))
  | .ratom _ rt rd op _ => give (homeAtom s (devNo s) (xworld s x) (xsup s x) va op.toNat rt rd)
  | _ => s

/-- The slot of an operation to the device itself is freed when its access completes (R217, R344). -/
def closeOwn (s : State) (x : Exec) (p : Pend) : State :=
  match p.needs with
  | some k =>
    (match tget s.remote.ops k with
     | some o =>
       if p.why = .remote ∧ o.owner = .exec x ∧ o.dev = devNo s ∧ o.posted = false then
         (let s := closeOp s k
          if o.acc = 3 then giveAck s x else s)
       else s
     | none => s)
  | none => s

/-- What a body that cannot go on waits for. The state is the one before the body; a need that is only held leaves it. -/
def await (s : State) (x : Exec) (word : BitVec 32) (rep fetch : Bool) (old : Option Pend) (n : Need) : State :=
  let core := xcore x
  let p := pendFor s x word rep fetch old
  let wait := fun (s : State) (k : Nat) => match x with
    | .ctx _ => swapWait (setPend s x none) x k
    | .fic _ => s
  match n with
  | .held => s
  | .line line excl ifetch wt na walk =>
    let why := if walk then Why.walk else .line
    let sent := if ifetch then missFetch s core (whoOf s x) line na
      else if excl then missWrite s core (whoOf s x) line na else missRead s core (whoOf s x) line wt na
    (match sent with
     | some t => swapEst (setPend t x (some { p why with needs := some line, excl := excl })) x (estLine s core line)
     | none => setPend s x (some { p why with needs := some line, excl := excl, ready := true }))
  | .refetch line ifetch =>
    let t := if ifetch then refetchI s core line else (l1dHit s core (whoOf s x) line none).2
    swapEst (setPend t x (some { p .line with needs := some line })) x (estLine s core line)
  | .rdo key walk pins =>
    let q := (p .line).pin pins
    let q := if walk then { q with tab := key :: q.tab } else q
    swapEst (askHome s x (key / 8) q { kind := .rdo, core := core, line := key / 8, who := some x }) x (estLine s core (key / 8))
  | .atm key op rt rd na pins bar =>
    swapEst (askHome s x (key / 8) { (p .line).pin pins with bar := some bar }
      { kind := .atm, core := core, line := key / 8, na := na, who := some x, atom := some (key, op, rt, rd) }) x (estLine s core (key / 8))
  | .maint kind line => askHome s x line (p .maint) { kind := kind, core := core, line := line, who := some x }
  | .remote va acc body =>
    let t := countEvent (touch s x va).1 core (whoOf s x) (if acc = 3 then 0x13 else 0x11)
    (match (if acc = 0 then replicaHit s x va else none) with
     | some w => swapEst (setPend t x (some { (p .remote).pin [(0, w)] with addr := va, ready := true })) x (dval s 0x3200 0x08)
     | none =>
       match sendAccess t x va acc body with
       | none => wait s 3
       | some r =>
         let s := if acc = 3 then moreStores r.2 x else r.2
         let s := setPend s x (some { p .remote with needs := some r.1, addr := va })
         swapEst (if homeDev va = devNo s then ownHome s x r.1 va body else s) x (dval s 0x3200 0x08))
  | .outb lpa pins =>
    let s := { s with host := { s.host with reads := s.host.reads ++ [(x, BitVec.ofNat 64 (outAddr s lpa))] } }
    setPend s x (some { (p .outbound).pin pins with needs := some lpa })
  | .sync .slot => wait s 3
  | .sync .remote => wait s 2
  | .sync .syncG =>
    (match x with
     | .ctx _ => swapWait (setPend s x (some (p .syncG))) x 2
     | .fic _ => s)
  | .sync .syncV => swapWait (setPend s x (some { p .syncV with words := (valleyWrites s).map fun k => (k, nilW) })) x 1
  | .sync why => swapWait (setPend s x (some (p why))) x 1
  | .migrate va acc =>
    (match x with
     | .ctx n => if (s.ctx n.toNat).dir.state = .active then beginMigration (touch s x va).1 n.toNat va acc else endWait s n.toNat
     | .fic _ => s)
  | .latch => match x with
    | .ctx n => takeLatch s n.toNat
    | .fic _ => s

/-! ## Issuing -/

/-- Rank 1 of R119 without the words: pc is aligned and private. -/
def pcChecks (e : Env) (s : State) : Res Unit :=
  let pc := xpc s e.x
  if pc.toNat % 4 ≠ 0 then misaligned e pc 1 4 2
  else if pc.getLsbD 58 then xlFault (tctx s e.x 2) pc 0x09 0x05 0 0 0
  else if pc.getLsbD 57 then xlFault (tctx s e.x 2) pc 0x09 0x01 0 0 0
  else .ok ()

/-- A datapath failure of the instruction (R119 rank 2, R122). -/
def busCheck (e : Env) (s : State) : Res Unit :=
  match e.x with
  | .ctx n => (match (s.ctx n.toNat).busErr with
    | some (k, seq) => throwX 0x04 0 (k.toNat + 2 ^ 16 * seq.toNat + e.hi)
    | none => .ok ())
  | .fic _ => .ok ()

/-- Rank 3 of R119 up to FIC, for an instruction word. -/
def wordChecks (x : Exec) (op : Op) (word : BitVec 32) : Res Unit :=
  match op.bad (isFicX x) with
  | some sub => illegal sub word
  | none => if (isFicX x) && op.notFic then illegal 5 word else .ok ()

/-- Checks before an instruction's own. -/
def preChecks (e : Env) (s : State) (op : Op) : Res Unit := do
  pcChecks e s
  busCheck e s
  wordChecks e.x op e.word

/-- A datapath failure is taken once. -/
def clearBus (s : State) (x : Exec) : State :=
  match x with
  | .ctx n => if (s.ctx n.toNat).busErr.isSome then s.modCtx n.toNat fun c => { c with busErr := none } else s
  | .fic _ => s

/-- What a body that stopped leaves besides its exception or need: the write of GC registers that its barriers applied (R258), and
the branch history, which moves at the fetch (R109). -/
def kept (s : State) (x : Exec) (t : State) : State :=
  let core := xcore x
  let g := (t.core core).ghist
  let s := { s with gcLag := t.gcLag }
  if g = (s.core core).ghist then s else s.modCore core fun c => { c with ghist := g }

/-- A body that is held by its own healing write leaves that write to be performed (R262): each is counted when it is queued. -/
def keptHeals (s : State) (x : Exec) (t : State) : State :=
  let core := xcore x
  let new := (t.core core).heals.drop (s.core core).heals.length
  new.foldl (fun s _ => countEvent s core (whoOf s x) 0x16) (s.modCore core fun c => { c with heals := c.heals ++ new })

/-- What comes of a body's answer. -/
def settle (s : State) (x : Exec) (word : BitVec 32) (rep : Bool) (r : Except Stop Go × State) : State :=
  match r with
  | (.ok go, t) => retire t x word rep go
  | (.error (.exn e), t) => raiseX (kept s x t) x e
  | (.error (.need .held), t) => keptHeals s x t
  | (.error (.need n), _) => await s x word rep false none n

/-- Whether an ACTIVE context has an exception to take before it issues. -/
def faultDue (s : State) (x : Exec) : Bool := match x with | .ctx n => (s.ctx n.toNat).dir.fault | .fic _ => false

/-- An injected error waits in the register banks of the core on which a context issues. -/
def bankArmed (s : State) (x : Exec) : Bool := match x with | .ctx n => coreArmed s (coreOf n.toNat) 3 | .fic _ => false

/-- An instruction that issues reads the register banks, and meets an error injected there (R466). -/
def bankRead (s : State) (x : Exec) : State := if canIssue s x && bankArmed s x then arrayAccess s (xcore x) 3 else s

/-- An executor issues an instruction whose body is given. -/
def issue (x : Exec) (op : Op) (body : Body_) (s : State) : State :=
  let s := bankRead s x
  if !canIssue s x then s
  else if faultDue s x then (match x with | .ctx n => takeFault s n.toNat | .fic _ => s)
  else
    let e : Env := { x := x, word := op.word }
    match preChecks e s op with
    | .error (.exn f) => raiseX (clearBus s x) x f
    | .error (.need _) => s
    | .ok _ =>
      match microBad s x op with
      | some a => microLost s x a
      | none => settle s x op.word false (body e s)

end Sys2Proof.Machine
end

