-- ==== Sys2Proof/Machine/Integer.lean ====
section
/-! DEFINITION. Moves, immediates and integer operations (R124) and tag instructions (R126). -/

namespace Sys2Proof.Machine

/-! ## Bodies -/

/-- An operation of two integers whose result has their common tag. -/
def intOp (f : BitVec 64 → BitVec 64 → BitVec 64) (rd rs rt : BitVec 5) : Body_ := toReg rd fun e s =>
  (ints e s rs rt).map fun p => intRes p.1 p.2 (f p.1.payload p.2.payload)

/-- An operation of two integers whose result has the tag of rs. -/
def shiftOp (f : BitVec 64 → Nat → BitVec 64) (rd rs rt : BitVec 5) : Body_ := toReg rd fun e s =>
  (ints e s rs rt).map fun p => ⟨p.1.tag, f p.1.payload (p.2.payload.toNat % 64)⟩

/-- An operation of one integer and an immediate, with the tag of rs. -/
def immOp (f : BitVec 64 → BitVec 64) (rd rs : BitVec 5) : Body_ := toReg rd fun e s =>
  (int1 e s rs).map fun a => ⟨a.tag, f a.payload⟩

/-- A condition on a FIXNUM. -/
def fixCond (f : BitVec 64 → Bool) (rd rs : BitVec 5) : Body_ := toReg rd fun e s =>
  let a := xreg s e.x rs
  (chk e 0 a (a.tag == 0x001)).map fun _ => boolW (f a.payload)

/-- A condition on two words of any tag. -/
def wordCond (f : W → W → Bool) (rd rs rt : BitVec 5) : Body_ := toReg rd fun e s =>
  let a := xreg s e.x rs
  let b := xreg s e.x rt
  match chk e 0 a true with
  | .error x => .error x
  | .ok _ => (chk e 1 b true).map fun _ => boolW (f a b)

/-- A word computed from a pass-through operand. -/
def passOp (f : W → W) (rd rs : BitVec 5) : Body_ := toReg rd fun e s => .ok (f (xreg s e.x rs))

/-- The shifts. -/
def shlF (a : BitVec 64) (n : Nat) : BitVec 64 := a <<< n
def shrF (a : BitVec 64) (n : Nat) : BitVec 64 := a >>> n
def sarF (a : BitVec 64) (n : Nat) : BitVec 64 := a.sshiftRight n

def movBody (rd rs : BitVec 5) : Body_ := passOp (fun w => w) rd rs
def iaddBody (rd rs rt : BitVec 5) : Body_ := intOp (fun a b => a + b) rd rs rt
def isubBody (rd rs rt : BitVec 5) : Body_ := intOp (fun a b => a - b) rd rs rt
def imulBody (rd rs rt : BitVec 5) : Body_ := intOp (fun a b => a * b) rd rs rt
def andBody (rd rs rt : BitVec 5) : Body_ := intOp (fun a b => a &&& b) rd rs rt
def orBody (rd rs rt : BitVec 5) : Body_ := intOp (fun a b => a ||| b) rd rs rt
def xorBody (rd rs rt : BitVec 5) : Body_ := intOp (fun a b => a ^^^ b) rd rs rt
def andnBody (rd rs rt : BitVec 5) : Body_ := intOp (fun a b => a &&& ~~~b) rd rs rt
def shlBody (rd rs rt : BitVec 5) : Body_ := shiftOp shlF rd rs rt
def shrBody (rd rs rt : BitVec 5) : Body_ := shiftOp shrF rd rs rt
def sarBody (rd rs rt : BitVec 5) : Body_ := shiftOp sarF rd rs rt
def ultBody (rd rs rt : BitVec 5) : Body_ := toReg rd fun e s => (ints e s rs rt).map fun p => boolW (p.1.payload.ult p.2.payload)
def eqBody (rd rs rt : BitVec 5) : Body_ := wordCond identical rd rs rt
def neBody (rd rs rt : BitVec 5) : Body_ := wordCond (fun a b => !identical a b) rd rs rt
def tagofBody (rd rs : BitVec 5) : Body_ := passOp (fun w => fixW w.tag.toNat) rd rs
def moviBody (rd : BitVec 5) (imm : BitVec 14) : Body_ := toReg rd fun _ _ => .ok ⟨0x001, sx imm⟩
def moviRBody (rd : BitVec 5) (imm : BitVec 14) : Body_ := toReg rd fun _ _ => .ok ⟨0x006, sx imm⟩
def ldcBody (rd rs : BitVec 5) (imm : BitVec 14) : Body_ := immOp (fun a => a <<< 14 ||| imm.zeroExtend 64) rd rs
def eqiBody (rd rs : BitVec 5) (imm : BitVec 14) : Body_ := fixCond (fun a => a == sx imm) rd rs
def ltiBody (rd rs : BitVec 5) (imm : BitVec 14) : Body_ := fixCond (fun a => a.slt (sx imm)) rd rs
def leiBody (rd rs : BitVec 5) (imm : BitVec 14) : Body_ := fixCond (fun a => a.sle (sx imm)) rd rs
def gtiBody (rd rs : BitVec 5) (imm : BitVec 14) : Body_ := fixCond (fun a => (sx imm).slt a) rd rs
def shliBody (rd rs : BitVec 5) (imm : BitVec 6) : Body_ := immOp (fun a => shlF a imm.toNat) rd rs
def shriBody (rd rs : BitVec 5) (imm : BitVec 6) : Body_ := immOp (fun a => shrF a imm.toNat) rd rs
def sariBody (rd rs : BitVec 5) (imm : BitVec 6) : Body_ := immOp (fun a => sarF a imm.toNat) rd rs
def andiBody (rd rs : BitVec 5) (imm : BitVec 14) : Body_ := immOp (fun a => a &&& sx imm) rd rs
def tagisBody (rd rs : BitVec 5) (tag : BitVec 10) : Body_ := passOp (fun w => boolW (w.tag == tag)) rd rs
def kindisBody (rd rs : BitVec 5) (kind : BitVec 2) : Body_ := passOp (fun w => boolW (w.tag.extractLsb' 8 2 == kind)) rd rs

/-- The tag changes that User level may make (R31). -/
def userRetag (from_ into : BitVec 10) : Bool :=
  (from_ == into && !reservedTag into) ||
  (let n := into.toNat
   let imm := bitsN into 8 2 == 0 && (!reservedTag into && n != 0)
   match bitsN from_ 8 2 with
   | 0 => imm
   | 1 => imm || (decide (0x1C0 ≤ n) && decide (n ≤ 0x1FF))
   | _ => false)

/-- SETTAG (R126): PRIVILEGED at rank 4, a reserved target and the operand checks at rank 6, CHAR_RANGE at rank 13. -/
def settagBody (rd rs : BitVec 5) (tag : BitVec 10) : Body_ := toReg rd fun e s => do
  let a := xreg s e.x rs
  if !xsup s e.x && !userRetag a.tag tag then privileged e 3
  if reservedTag tag then throwX 0x05 0 (2 + 2 ^ 10 * tag.toNat)
  chk e 0 a true
  match retag a tag with
  | .ok w => return w
  | .error sub => tagTrap sub 0 a 0

/-! ## The commands -/

def execMov (x : Exec) (rd rs : BitVec 5) (s : State) : Out := .next (issue x (.mov rd rs) (movBody rd rs) s).tick
def execIadd (x : Exec) (rd rs rt : BitVec 5) (s : State) : Out := .next (issue x (.iadd rd rs rt) (iaddBody rd rs rt) s).tick
def execIsub (x : Exec) (rd rs rt : BitVec 5) (s : State) : Out := .next (issue x (.isub rd rs rt) (isubBody rd rs rt) s).tick
def execImul (x : Exec) (rd rs rt : BitVec 5) (s : State) : Out := .next (issue x (.imul rd rs rt) (imulBody rd rs rt) s).tick
def execAnd (x : Exec) (rd rs rt : BitVec 5) (s : State) : Out := .next (issue x (.and rd rs rt) (andBody rd rs rt) s).tick
def execOr (x : Exec) (rd rs rt : BitVec 5) (s : State) : Out := .next (issue x (.or rd rs rt) (orBody rd rs rt) s).tick
def execXor (x : Exec) (rd rs rt : BitVec 5) (s : State) : Out := .next (issue x (.xor rd rs rt) (xorBody rd rs rt) s).tick
def execAndn (x : Exec) (rd rs rt : BitVec 5) (s : State) : Out := .next (issue x (.andn rd rs rt) (andnBody rd rs rt) s).tick
def execShl (x : Exec) (rd rs rt : BitVec 5) (s : State) : Out := .next (issue x (.shl rd rs rt) (shlBody rd rs rt) s).tick
def execShr (x : Exec) (rd rs rt : BitVec 5) (s : State) : Out := .next (issue x (.shr rd rs rt) (shrBody rd rs rt) s).tick
def execSar (x : Exec) (rd rs rt : BitVec 5) (s : State) : Out := .next (issue x (.sar rd rs rt) (sarBody rd rs rt) s).tick
def execUlt (x : Exec) (rd rs rt : BitVec 5) (s : State) : Out := .next (issue x (.ult rd rs rt) (ultBody rd rs rt) s).tick
def execEq (x : Exec) (rd rs rt : BitVec 5) (s : State) : Out := .next (issue x (.eq rd rs rt) (eqBody rd rs rt) s).tick
def execNe (x : Exec) (rd rs rt : BitVec 5) (s : State) : Out := .next (issue x (.ne rd rs rt) (neBody rd rs rt) s).tick
def execTagof (x : Exec) (rd rs : BitVec 5) (s : State) : Out := .next (issue x (.tagof rd rs) (tagofBody rd rs) s).tick
def execMovi (x : Exec) (rd : BitVec 5) (imm : BitVec 14) (s : State) : Out := .next (issue x (.movi rd imm) (moviBody rd imm) s).tick
def execMoviR (x : Exec) (rd : BitVec 5) (imm : BitVec 14) (s : State) : Out := .next (issue x (.moviR rd imm) (moviRBody rd imm) s).tick
def execLdc (x : Exec) (rd rs : BitVec 5) (imm : BitVec 14) (s : State) : Out := .next (issue x (.ldc rd rs imm) (ldcBody rd rs imm) s).tick
def execEqi (x : Exec) (rd rs : BitVec 5) (imm : BitVec 14) (s : State) : Out := .next (issue x (.eqi rd rs imm) (eqiBody rd rs imm) s).tick
def execLti (x : Exec) (rd rs : BitVec 5) (imm : BitVec 14) (s : State) : Out := .next (issue x (.lti rd rs imm) (ltiBody rd rs imm) s).tick
def execLei (x : Exec) (rd rs : BitVec 5) (imm : BitVec 14) (s : State) : Out := .next (issue x (.lei rd rs imm) (leiBody rd rs imm) s).tick
def execGti (x : Exec) (rd rs : BitVec 5) (imm : BitVec 14) (s : State) : Out := .next (issue x (.gti rd rs imm) (gtiBody rd rs imm) s).tick
def execShli (x : Exec) (rd rs : BitVec 5) (imm : BitVec 6) (s : State) : Out := .next (issue x (.shli rd rs imm) (shliBody rd rs imm) s).tick
def execShri (x : Exec) (rd rs : BitVec 5) (imm : BitVec 6) (s : State) : Out := .next (issue x (.shri rd rs imm) (shriBody rd rs imm) s).tick
def execSari (x : Exec) (rd rs : BitVec 5) (imm : BitVec 6) (s : State) : Out := .next (issue x (.sari rd rs imm) (sariBody rd rs imm) s).tick
def execAndi (x : Exec) (rd rs : BitVec 5) (imm : BitVec 14) (s : State) : Out := .next (issue x (.andi rd rs imm) (andiBody rd rs imm) s).tick
def execTagis (x : Exec) (rd rs : BitVec 5) (tag : BitVec 10) (s : State) : Out := .next (issue x (.tagis rd rs tag) (tagisBody rd rs tag) s).tick
def execKindis (x : Exec) (rd rs : BitVec 5) (kind : BitVec 2) (s : State) : Out := .next (issue x (.kindis rd rs kind) (kindisBody rd rs kind) s).tick
def execSettag (x : Exec) (rd rs : BitVec 5) (tag : BitVec 10) (s : State) : Out := .next (issue x (.settag rd rs tag) (settagBody rd rs tag) s).tick

end Sys2Proof.Machine
end

