-- ==== Sys2Proof/Machine/Generic.lean ====
section
/-! DEFINITION. Generic operations (R125, R143 to R158): classes, the hardware paths, and the dispatch to handlers. -/

namespace Sys2Proof.Machine

/-! ## The dispatch table (R154 to R156) -/

/-- The valid dispatch table of the executor's world. -/
def dispatchTable (s : State) (x : Exec) : Option Nat := match xworld s x with | .sys => s.svc.ttdS | .job => s.svc.ttdJ

/-- The class that a class map word gives a tag code (R155, R156). -/
def mapClass (w : W) (code : Nat) : Nat :=
  if w.tag = 0x006 then (let v := bitsN w.payload (4 * (code % 16)) 4; if v = 1 ∨ v = 2 then 0 else v) else 0

/-- The handler that an entry word names (R156). -/
def entryHandler (w : W) : Option (BitVec 59) :=
  if w.tag = 0x006 ∧ bitsN w.payload 59 5 = 0 ∧ bitsN w.payload 0 2 = 0 ∧ w.payload ≠ 0 then some (vaOf w) else none

/-- Reads a word of the table at an offset. -/
def tableWord (e : Env) (off : Nat) : M (Option W) := do
  let s ← get
  match dispatchTable s e.x with
  | none => pure none
  | some t => do
    let w ← act (tableReader e (t + off))
    pure (some w)

/-- The class of an operand that passed its checks (R143). -/
def classOf (e : Env) (w : W) : M Nat :=
  if w.tag = 0x001 then pure 1
  else if w.tag = 0x002 then pure 2
  else do
    let m ← tableWord e (8 * (w.tag.toNat / 16))
    pure (match m with | some m => mapClass m w.tag.toNat | none => 0)

/-- The checks of operand k of a generic instruction, and its class (R120, R143). -/
def operandClass (e : Env) (k : Nat) (w : W) : M Nat := do
  chkM (chk e k w true)
  let c ← classOf e w
  if c = 0 then chkM (tagTrap 1 k w 0) else pure c

/-- The entry at an offset names a handler. -/
def handlerAt (e : Env) (off : Nat) : M (Option (BitVec 59)) := do
  let m ← tableWord e off
  pure (match m with | some m => entryHandler m | none => none)

/-- An exception that goes to a handler when the entry at an offset names one, and to the vector otherwise (R144, R157). -/
def dispatch (e : Env) (off cause info : Nat) : M Go := do
  let h ← handlerAt e off
  chkM (.error (.exn { cause := BitVec.ofNat 8 cause, addr := 0, info := BitVec.ofNat 64 info, handler := h }))

/-! ## The hardware paths (R145 to R148) -/

/-- The operations of the generic instructions, in the numbering of R153. -/
inductive GOp where
  | add | sub | mul | div | rem | numeq | lt | le | neg
  deriving DecidableEq, Repr

def GOp.num : GOp → Nat
  | .add => 0 | .sub => 1 | .mul => 2 | .div => 3 | .rem => 4 | .numeq => 5 | .lt => 6 | .le => 7 | .neg => 8

/-- xinfo of ARITH (R153). -/
def arithInfo (e : Env) (sub flags op : Nat) : Nat := sub + 2 ^ 8 * flags + 2 ^ 16 * op + e.hi

/-- An integer as a FIXNUM, or the result entry of its overflow. -/
def fixOr (v : Int) (entry : Nat) : Except Nat W :=
  if -(2 ^ 63) ≤ v ∧ v < 2 ^ 63 then .ok ⟨0x001, BitVec.ofInt 64 v⟩ else .error entry

/-- Two FIXNUMs (R145): the result, or the word of the result entries that its failure names (R155). -/
def genFix (op : GOp) (a b : Int) : Except Nat W :=
  match op with
  | .add => fixOr (a + b) 0
  | .sub => fixOr (a - b) 1
  | .mul => fixOr (a * b) 2
  | .div => if b = 0 then .error 5 else fixOr (a.tdiv b) 3
  | .rem => if b = 0 then .error 6 else fixOr (a.tmod b) 3
  | .neg => fixOr (-a) 4
  | .numeq => .ok (boolW (decide (a = b)))
  | .lt => .ok (boolW (decide (a < b)))
  | .le => .ok (boolW (decide (a ≤ b)))

/-- An operand as binary64 (R147), with the flags of its conversion. -/
def toF64 (rm : Rm) (w : W) : F64 × Fl := if w.tag = 0x001 then fromInt rm w.payload.toInt else (w.payload, {})

/-- An operand as an exact number (R148). -/
def toFv (w : W) : Fv := if w.tag = 0x001 then fixV w.payload.toInt else fdec w.payload

/-- A FLOAT64 operand that is a signalling NaN. -/
def wSnan (w : W) : Bool := w.tag == 0x002 && isSnan w.payload

/-- An arithmetic operation after the conversions of its operands. -/
def mixArith (f : Rm → F64 → F64 → F64 × Fl) (rm : Rm) (a b : W) : W × Fl :=
  let x := toF64 rm a
  let y := toF64 rm b
  let r := f rm x.1 y.1
  (⟨0x002, r.1⟩, (x.2.or y.2).or r.2)

/-- A comparison of exact numbers. -/
def mixRel (k : Nat) (a b : W) : W × Fl :=
  let r := frel k (toFv a) (toFv b) (wSnan a || wSnan b)
  (boolW r.1, r.2)

/-- The paths with a FLOAT64 operand (R146 to R148). -/
def genFloat (op : GOp) (rm : Rm) (a b : W) : W × Fl :=
  match op with
  | .add => mixArith fadd rm a b
  | .sub => mixArith fsub rm a b
  | .mul => mixArith fmul rm a b
  | .div => mixArith fdiv rm a b
  | .rem => mixArith (fun _ x y => frem x y) rm a b
  | .neg => (⟨0x002, fnegB a.payload⟩, {})
  | .numeq => mixRel 0 a b
  | .lt => mixRel 1 a b
  | .le => mixRel 2 a b

/-- The flags of an operation: ARITH when one of them traps, else they are ORed into fpsr (R151). -/
def raiseFlags (e : Env) (op : Nat) (f : Fl) : M Unit := do
  let s ← get
  let fpsr := xfpsr s e.x
  let bits := f.bits fpsr
  if trapped fpsr bits then chkM (throwX 0x06 0 (arithInfo e 3 bits op)) else set (setXfpsr s e.x (orFlags fpsr bits))

/-- A generic instruction (R144) whose second operand is given as a function of the state; `chkB` says that it is a
register. -/
def generic (op : GOp) (rd rs : BitVec 5) (rt : Option (BitVec 5)) (imm : BitVec 64) : Body_ := fun e => do
  let s ← get
  let a := xreg s e.x rs
  let ca ← operandClass e 0 a
  let b : W := match rt with | some r => xreg s e.x r | none => ⟨0x001, imm⟩
  let cb ← match rt with | some _ => operandClass e 1 b | none => pure 1
  if ca ≤ 2 ∧ cb ≤ 2 then
    if (a.tag = 0x001 ∧ b.tag = 0x001) then
      match genFix op a.payload.toInt b.payload.toInt with
      | .ok w => do
        modify fun s => setXreg s e.x rd w
        pure .next
      | .error k => dispatch e (0x200 + 8 * k) 0x06 (arithInfo e (if 5 ≤ k then 2 else 1) 0 op.num)
    else do
      let s ← get
      let r := genFloat op (rmOf (xfpsr s e.x)) a b
      raiseFlags e op.num r.2
      modify fun s => setXreg s e.x rd r.1
      pure .next
  else
    let (k, w) := if 2 < ca then (0, a) else (1, b)
    let off := if op = .neg then 0x400 + 8 * ca else 0x800 + 0x800 * op.num + 8 * (16 * ca + cb)
    dispatch e off 0x05 (1 + 2 ^ 8 * k + 2 ^ 10 * w.tag.toNat)

def addBody (rd rs rt : BitVec 5) : Body_ := generic .add rd rs (some rt) 0
def subBody (rd rs rt : BitVec 5) : Body_ := generic .sub rd rs (some rt) 0
def mulBody (rd rs rt : BitVec 5) : Body_ := generic .mul rd rs (some rt) 0
def divBody (rd rs rt : BitVec 5) : Body_ := generic .div rd rs (some rt) 0
def remBody (rd rs rt : BitVec 5) : Body_ := generic .rem rd rs (some rt) 0
def numeqBody (rd rs rt : BitVec 5) : Body_ := generic .numeq rd rs (some rt) 0
def ltBody (rd rs rt : BitVec 5) : Body_ := generic .lt rd rs (some rt) 0
def leBody (rd rs rt : BitVec 5) : Body_ := generic .le rd rs (some rt) 0
def negBody (rd rs : BitVec 5) : Body_ := generic .neg rd rs none 0
def addiBody (rd rs : BitVec 5) (imm : BitVec 14) : Body_ := generic .add rd rs none (sx imm)

/-! ## The commands -/

def execAdd (x : Exec) (rd rs rt : BitVec 5) (s : State) : Out := .next (issue x (.add rd rs rt) (addBody rd rs rt) s).tick
def execSub (x : Exec) (rd rs rt : BitVec 5) (s : State) : Out := .next (issue x (.sub rd rs rt) (subBody rd rs rt) s).tick
def execMul (x : Exec) (rd rs rt : BitVec 5) (s : State) : Out := .next (issue x (.mul rd rs rt) (mulBody rd rs rt) s).tick
def execDiv (x : Exec) (rd rs rt : BitVec 5) (s : State) : Out := .next (issue x (.div rd rs rt) (divBody rd rs rt) s).tick
def execRem (x : Exec) (rd rs rt : BitVec 5) (s : State) : Out := .next (issue x (.rem rd rs rt) (remBody rd rs rt) s).tick
def execNumeq (x : Exec) (rd rs rt : BitVec 5) (s : State) : Out := .next (issue x (.numeq rd rs rt) (numeqBody rd rs rt) s).tick
def execLt (x : Exec) (rd rs rt : BitVec 5) (s : State) : Out := .next (issue x (.lt rd rs rt) (ltBody rd rs rt) s).tick
def execLe (x : Exec) (rd rs rt : BitVec 5) (s : State) : Out := .next (issue x (.le rd rs rt) (leBody rd rs rt) s).tick
def execNeg (x : Exec) (rd rs : BitVec 5) (s : State) : Out := .next (issue x (.neg rd rs) (negBody rd rs) s).tick
def execAddi (x : Exec) (rd rs : BitVec 5) (imm : BitVec 14) (s : State) : Out := .next (issue x (.addi rd rs imm) (addiBody rd rs imm) s).tick

end Sys2Proof.Machine
end

