-- ==== Sys2Proof/Machine/FloatP.lean ====
section
/-! DEFINITION. Floating point on the bound bank (R98 to R101, R127, R149 to R152). -/

namespace Sys2Proof.Machine

/-! ## Banks -/

/-- FP_UNAVAILABLE (R99); the manual gives its xaddr and xinfo no layout, so both are free values. -/
def fpUnavailable {α : Type} (s : State) : Res α :=
  .error (.exn { cause := 0x10, addr := (Config.freeValue s.free 40).extractLsb' 0 59, info := Config.freeValue s.free 41 })

/-- The bank that an FP instruction uses (R99, R101, R175): one is bound, it is a bank of the current world, and no
context has claimed it; while one has, the instruction stalls. -/
def needBank (e : Env) : M Nat := do
  let s ← get
  let r := xrec s e.x
  let b := r.fpBank.toNat
  if !(r.fpBound && (banksOf s (xworld s e.x)).contains b) then chkM (fpUnavailable s)
  else if (tget (s.core (xcore e.x)).claim b).isSome then needM .held
  else pure b

/-- Reads and writes a register of a bank; a bank that nothing has written holds zero. -/
def fpGet (s : State) (core bank : Nat) (r : BitVec 5) : F64 := tgetD (tgetD (s.core core).fp bank []) (r.toNat % 16) 0
def fpPut (s : State) (core bank : Nat) (r : BitVec 5) (v : F64) : State :=
  s.modCore core fun c => { c with fp := tset c.fp bank (tset (tgetD c.fp bank []) (r.toNat % 16) v) }

/-- An operation on FP registers, with its flags and the register that takes its result. -/
def fpOp (fd : BitVec 5) (srcs : List (BitVec 5)) (f : Rm → List F64 → F64 × Fl) : Body_ := fun e => do
  let b ← needBank e
  let s ← get
  let r := f (rmOf (xfpsr s e.x)) (srcs.map (fpGet s (xcore e.x) b))
  raiseFlags e 0xF r.2
  modify fun s => fpPut s (xcore e.x) b fd r.1
  pure .next

/-- An operation of two registers. -/
def fpBin (f : Rm → F64 → F64 → F64 × Fl) (fd fs ft : BitVec 5) : Body_ :=
  fpOp fd [fs, ft] fun rm l => f rm (l.getD 0 0) (l.getD 1 0)

/-- A sign operation or copy. -/
def fpMove (f : F64 → F64) (fd fs : BitVec 5) : Body_ := fpOp fd [fs] fun _ l => (f (l.getD 0 0), {})

/-- A comparison into a general register. -/
def fpRel (k : Nat) (rd fs ft : BitVec 5) : Body_ := fun e => do
  let b ← needBank e
  let s ← get
  let x := fpGet s (xcore e.x) b fs
  let y := fpGet s (xcore e.x) b ft
  let r := frel k (fdec x) (fdec y) (isSnan x || isSnan y)
  raiseFlags e 0xF r.2
  modify fun s => setXreg s e.x rd (boolW r.1)
  pure .next

/-! ## Bodies -/

def faddBody (fd fs ft : BitVec 5) : Body_ := fpBin fadd fd fs ft
def fsubBody (fd fs ft : BitVec 5) : Body_ := fpBin fsub fd fs ft
def fmulBody (fd fs ft : BitVec 5) : Body_ := fpBin fmul fd fs ft
def fdivBody (fd fs ft : BitVec 5) : Body_ := fpBin fdiv fd fs ft
def fsqrtBody (fd fs : BitVec 5) : Body_ := fpOp fd [fs] fun rm l => fsqrt rm (l.getD 0 0)
def fmaBody (fd fs ft : BitVec 5) : Body_ := fpOp fd [fd, fs, ft] fun rm l => ffma rm (l.getD 0 0) (l.getD 1 0) (l.getD 2 0)
def fminBody (fd fs ft : BitVec 5) : Body_ := fpBin (fun _ x y => fminmax false x y) fd fs ft
def fmaxBody (fd fs ft : BitVec 5) : Body_ := fpBin (fun _ x y => fminmax true x y) fd fs ft
def fnegBody (fd fs : BitVec 5) : Body_ := fpMove fnegB fd fs
def fabsBody (fd fs : BitVec 5) : Body_ := fpMove (fun x => x &&& 0x7FFFFFFFFFFFFFFF) fd fs
def fmovBody (fd fs : BitVec 5) : Body_ := fpMove (fun x => x) fd fs
def fceqBody (rd fs ft : BitVec 5) : Body_ := fpRel 0 rd fs ft
def fcltBody (rd fs ft : BitVec 5) : Body_ := fpRel 1 rd fs ft
def fcleBody (rd fs ft : BitVec 5) : Body_ := fpRel 2 rd fs ft

/-- FMVGF (R127). -/
def fmvgfBody (fd rs : BitVec 5) : Body_ := fun e => do
  let b ← needBank e
  let s ← get
  let a := xreg s e.x rs
  chkM (chk e 0 a (a.tag == 0x002))
  set (fpPut s (xcore e.x) b fd a.payload)
  pure .next

/-- FMVFG (R127). -/
def fmvfgBody (rd fs : BitVec 5) : Body_ := fun e => do
  let b ← needBank e
  let s ← get
  set (setXreg s e.x rd ⟨0x002, fpGet s (xcore e.x) b fs⟩)
  pure .next

/-- FCVTXF (R127, R152). -/
def fcvtxfBody (fd rs : BitVec 5) : Body_ := fun e => do
  let b ← needBank e
  let s ← get
  let a := xreg s e.x rs
  chkM (chk e 0 a (a.tag == 0x001))
  let r := fromInt (rmOf (xfpsr s e.x)) a.payload.toInt
  raiseFlags e 0xF r.2
  modify fun s => fpPut s (xcore e.x) b fd r.1
  pure .next

/-- FCVTFX (R127, R152). -/
def fcvtfxBody (rd fs : BitVec 5) : Body_ := fun e => do
  let b ← needBank e
  let s ← get
  let r := toFix (rmOf (xfpsr s e.x)) (fpGet s (xcore e.x) b fs)
  raiseFlags e 0xF r.2
  modify fun s => setXreg s e.x rd ⟨0x001, r.1⟩
  pure .next

/-! ## The commands -/

def execFadd (x : Exec) (fd fs ft : BitVec 5) (s : State) : Out := .next (issue x (.fadd fd fs ft) (faddBody fd fs ft) s).tick
def execFsub (x : Exec) (fd fs ft : BitVec 5) (s : State) : Out := .next (issue x (.fsub fd fs ft) (fsubBody fd fs ft) s).tick
def execFmul (x : Exec) (fd fs ft : BitVec 5) (s : State) : Out := .next (issue x (.fmul fd fs ft) (fmulBody fd fs ft) s).tick
def execFdiv (x : Exec) (fd fs ft : BitVec 5) (s : State) : Out := .next (issue x (.fdiv fd fs ft) (fdivBody fd fs ft) s).tick
def execFma (x : Exec) (fd fs ft : BitVec 5) (s : State) : Out := .next (issue x (.fma fd fs ft) (fmaBody fd fs ft) s).tick
def execFmin (x : Exec) (fd fs ft : BitVec 5) (s : State) : Out := .next (issue x (.fmin fd fs ft) (fminBody fd fs ft) s).tick
def execFmax (x : Exec) (fd fs ft : BitVec 5) (s : State) : Out := .next (issue x (.fmax fd fs ft) (fmaxBody fd fs ft) s).tick
def execFsqrt (x : Exec) (fd fs : BitVec 5) (s : State) : Out := .next (issue x (.fsqrt fd fs) (fsqrtBody fd fs) s).tick
def execFneg (x : Exec) (fd fs : BitVec 5) (s : State) : Out := .next (issue x (.fneg fd fs) (fnegBody fd fs) s).tick
def execFabs (x : Exec) (fd fs : BitVec 5) (s : State) : Out := .next (issue x (.fabs fd fs) (fabsBody fd fs) s).tick
def execFmov (x : Exec) (fd fs : BitVec 5) (s : State) : Out := .next (issue x (.fmov fd fs) (fmovBody fd fs) s).tick
def execFceq (x : Exec) (rd fs ft : BitVec 5) (s : State) : Out := .next (issue x (.fceq rd fs ft) (fceqBody rd fs ft) s).tick
def execFclt (x : Exec) (rd fs ft : BitVec 5) (s : State) : Out := .next (issue x (.fclt rd fs ft) (fcltBody rd fs ft) s).tick
def execFcle (x : Exec) (rd fs ft : BitVec 5) (s : State) : Out := .next (issue x (.fcle rd fs ft) (fcleBody rd fs ft) s).tick
def execFmvgf (x : Exec) (fd rs : BitVec 5) (s : State) : Out := .next (issue x (.fmvgf fd rs) (fmvgfBody fd rs) s).tick
def execFcvtxf (x : Exec) (fd rs : BitVec 5) (s : State) : Out := .next (issue x (.fcvtxf fd rs) (fcvtxfBody fd rs) s).tick
def execFmvfg (x : Exec) (rd fs : BitVec 5) (s : State) : Out := .next (issue x (.fmvfg rd fs) (fmvfgBody rd fs) s).tick
def execFcvtfx (x : Exec) (rd fs : BitVec 5) (s : State) : Out := .next (issue x (.fcvtfx rd fs) (fcvtfxBody rd fs) s).tick

end Sys2Proof.Machine
end

