-- ==== Sys2Proof/Machine/Memory.lean ====
section
/-! DEFINITION. Memory access (R128 to R131), lists and allocation (R132, R133, R259). -/

namespace Sys2Proof.Machine

/-! ## Shared bodies -/

/-- A word delivered to rd. -/
def putRd (e : Env) (rd : BitVec 5) (w : W) : M Go := do
  modify fun s => setXreg s e.x rd w
  pure .next

/-- base + offset, with the base of register rs as operand 0 (R128). -/
def effective (e : Env) (rs : BitVec 5) (off : BitVec 64) : M (BitVec 59) := do
  let s ← get
  let b ← chkM (baseOf e s 0 (xreg s e.x rs))
  pure (addOff b off)

/-- base + 8 × rt, with rt a FIXNUM (R129). -/
def indexed (e : Env) (rs rt : BitVec 5) : M (BitVec 59) := do
  let s ← get
  let b ← chkM (baseOf e s 0 (xreg s e.x rs))
  let i := xreg s e.x rt
  chkM (chk e 1 i (i.tag == 0x001))
  pure (addOff b (i.payload * 8))

/-- Rank 8 of an access through the base register rs (R29). -/
def through (e : Env) (rs : BitVec 5) (va : BitVec 59) (size acc : Nat) : M Unit := do
  let s ← get
  chkM (baseAligned e (xreg s e.x rs) va size acc)

/-- A word load into rd from an address, through a base register. -/
def loadTo (addr : Env → M (BitVec 59)) (rd rs : BitVec 5) (acq : Bool) : Body_ := fun e => do
  let va ← addr e
  through e rs va 8 0
  let w ← loadWord e va acq
  putRd e rd w

/-- A word store of rd, a pass-through operand, through a base register. -/
def storeFrom (addr : Env → M (BitVec 59)) (rd rs : BitVec 5) (release : Bool) : Body_ := fun e => do
  let va ← addr e
  through e rs va 8 1
  let s ← get
  storeWord e va (xreg s e.x rd) release
  pure .next

/-- A load of 1 or 2 bytes. -/
def loadPart (size : Nat) (rd rs : BitVec 5) (imm : BitVec 14) : Body_ := fun e => do
  let va ← effective e rs (sx imm)
  through e rs va size 0
  let w ← loadBytes e va size
  putRd e rd w

/-- A store of 1 or 2 bytes of an integer rd (R130). -/
def storePart (size : Nat) (rd rs : BitVec 5) (imm : BitVec 14) : Body_ := fun e => do
  let va ← effective e rs (sx imm)
  let s ← get
  let v := xreg s e.x rd
  chkM (chk e 2 v (isInt v))
  through e rs va size 1
  storeBytes e va v size
  pure .next

/-! ## Loads and stores -/

def ldwBody (rd rs : BitVec 5) (imm : BitVec 14) : Body_ := loadTo (fun e => effective e rs (sx imm)) rd rs false
def ldwABody (rd rs : BitVec 5) (imm : BitVec 14) : Body_ := loadTo (fun e => effective e rs (sx imm)) rd rs true

/-- LDW.P (R129). -/
def ldwPBody (rd rs : BitVec 5) (imm : BitVec 14) : Body_ := fun e => do
  let s ← get
  chkM (needSup e s)
  let va ← effective e rs (sx imm)
  through e rs va 8 0
  let w ← loadPlain e va
  putRd e rd w

def stwBody (rd rs : BitVec 5) (imm : BitVec 14) : Body_ := storeFrom (fun e => effective e rs (sx imm)) rd rs false
def stwRBody (rd rs : BitVec 5) (imm : BitVec 14) : Body_ := storeFrom (fun e => effective e rs (sx imm)) rd rs true

/-- LDPC: the word at pc + 4 × off. -/
def ldpcBody (rd : BitVec 5) (off : BitVec 21) : Body_ := fun e => do
  let s ← get
  let w ← loadWord e (branchTo (xpc s e.x) off) false
  putRd e rd w

def ldxBody (rd rs rt : BitVec 5) : Body_ := loadTo (fun e => indexed e rs rt) rd rs false
def ldxABody (rd rs rt : BitVec 5) : Body_ := loadTo (fun e => indexed e rs rt) rd rs true
def stxBody (rd rs rt : BitVec 5) : Body_ := storeFrom (fun e => indexed e rs rt) rd rs false
def stxRBody (rd rs rt : BitVec 5) : Body_ := storeFrom (fun e => indexed e rs rt) rd rs true
def ldbBody (rd rs : BitVec 5) (imm : BitVec 14) : Body_ := loadPart 1 rd rs imm
def ldhBody (rd rs : BitVec 5) (imm : BitVec 14) : Body_ := loadPart 2 rd rs imm
def stbBody (rd rs : BitVec 5) (imm : BitVec 14) : Body_ := storePart 1 rd rs imm
def sthBody (rd rs : BitVec 5) (imm : BitVec 14) : Body_ := storePart 2 rd rs imm

/-! ## Atomics -/

/-- The inspected register operands of an atomic: rt of AMOADD, AMOMIN and AMOMAX, rd of CAS and CAST (R131). -/
def atomChecks (e : Env) (op : Nat) (rt rd : W) : Res Unit :=
  if op = 0 ∨ op = 2 ∨ op = 3 then chk e 1 rt (isInt rt)
  else if op = 4 ∨ op = 5 then chk e 2 rd true
  else .ok ()

/-- An atomic (R131): the old word goes to rd. -/
def atomicBody (op : BitVec 3) (ord : BitVec 2) (rd rs rt : BitVec 5) : Body_ := fun e => do
  let va ← effective e rs 0
  let s ← get
  let b := xreg s e.x rt
  let d := xreg s e.x rd
  chkM (atomChecks e op.toNat b d)
  let old ← atom e va op.toNat ord.toNat b d
  putRd e rd old

/-! ## Lists -/

/-- CAR and CDR (R132): the word at an offset of a CONS, and NIL of NIL. -/
def carBody_ (off : Nat) (rd rs : BitVec 5) : Body_ := fun e => do
  let s ← get
  let a := xreg s e.x rs
  chkM (chk e 0 a (a.tag == 0x100 || a.tag == 0x004))
  if a.tag = 0x004 then putRd e rd nilW
  else do
    let w ← loadWord e (vaOf a + BitVec.ofNat 59 off) false
    putRd e rd w

/-- RPLACA and RPLACD (R132). -/
def rplacBody_ (off : Nat) (rs rt : BitVec 5) : Body_ := fun e => do
  let s ← get
  let a := xreg s e.x rs
  chkM (chk e 0 a (a.tag == 0x100))
  storeWord e (vaOf a + BitVec.ofNat 59 off) (xreg s e.x rt) false
  pure .next

def carBody (rd rs : BitVec 5) : Body_ := carBody_ 8 rd rs
def cdrBody (rd rs : BitVec 5) : Body_ := carBody_ 16 rd rs
def rplacaBody (rs rt : BitVec 5) : Body_ := rplacBody_ 8 rs rt
def rplacdBody (rs rt : BitVec 5) : Body_ := rplacBody_ 16 rs rt

/-! ## Allocation (R133) -/

/-- ALLOC_LIMIT; the manual gives its xaddr no layout, so it is a free value. -/
def allocLimit {α : Type} (s : State) (sub : Nat) : Res α := throwX 0x13 ((Config.freeValue s.free 42).extractLsb' 0 59) sub

/-- The state checks of ALLOC, and the alignment of alloc_ptr. -/
def allocChecks (e : Env) (s : State) (n : Nat) : Res Unit :=
  let r := xrec s e.x
  if 4095 < n then allocLimit s 1
  else if r.allocPtr.getLsbD 58 then allocLimit s 2
  else if r.allocLim.toNat < r.allocPtr.toNat + 8 * (n + 1) then allocLimit s 0
  else if r.allocPtr.toNat % 8 = 0 then .ok ()
  else misaligned e r.allocPtr 4 8 1

/-- Translates a write to each page of the object, lowest first: the leaves by VA[58:12]. -/
def allocPages (e : Env) (l : List (BitVec 59)) : M (Tbl Leaf) :=
  match l with
  | [] => pure []
  | va :: r => do
    let p ← translate e 1 va 8 (some 0)
    let q ← allocPages e r
    pure ((va.toNat / 4096, p) :: q)

/-- The watches of the object's words, lowest first. -/
def allocWatch (e : Env) (s : State) (l : List (BitVec 59)) : Res Unit :=
  match l with
  | [] => .ok ()
  | va :: r => match watch s e.x va true with
    | .error x => .error x
    | .ok _ => allocWatch e s r

/-- Writes the words of the object. -/
def allocWrite (e : Env) (pages : Tbl Leaf) (l : List (BitVec 59 × W)) : M Unit :=
  match l with
  | [] => pure ()
  | (va, w) :: r => do
    match tget pages (va.toNat / 4096) with
    | none => pure ()
    | some p =>
      if isReg (p.lpa va) then regStore e va (p.lpa va) w
      else modify fun s => issueStore s (xcore e.x) { who := e.x, key := p.lpa va / 8, word := w, mask := 255, mt := pteMt p.pte, na := pteNa p.pte }
    allocWrite e pages r

/-- Advances alloc_ptr. -/
def setAllocPtr (s : State) (x : Exec) (v : BitVec 59) : State :=
  match x with
  | .ctx n => s.modCtx n.toNat fun c => { c with r := { c.r with allocPtr := v } }
  | .fic _ => s

/-- The pointer to a new object, with the colours of R259. -/
def newPointer (g : Gc) (code : Nat) (a : BitVec 59) : W :=
  ⟨BitVec.ofNat 10 code, BitVec.ofNat 64 (a.toNat + 2 ^ 59 * b2n g.young + 2 ^ 60 * g.e + 2 ^ 62 * g.m)⟩

/-- Allocates an object of a type with its body words: the new pointer. -/
def allocate (e : Env) (code n : Nat) (body : List W) : M W := do
  let s ← get
  chkM (allocChecks e s n)
  let a := (xrec s e.x).allocPtr
  let hdr : W := ⟨BitVec.ofNat 10 (code + 0x100), BitVec.ofNat 64 n⟩
  let words := ((List.range (n + 1)).map fun i => a + BitVec.ofNat 59 (8 * i)).zip (hdr :: body)
  let p0 := a.toNat / 4096
  let later := ((List.range ((a.toNat + 8 * n) / 4096 - p0)).map fun i => BitVec.ofNat 59 ((p0 + 1 + i) * 4096))
  let pages ← allocPages e (a :: later)
  let s ← get
  chkM (allocWatch e s (words.map fun w => w.1))
  waitSide e.x (if pages.any fun p => pteMt p.2.pte == 3 then 3 else 0)
  if words.any fun w => (tget pages (w.1.toNat / 4096)).any fun p => ownBehind s e.x (p.lpa w.1 / 8) then needM .held else pure ()
  allocWrite e pages words
  modify fun s => setAllocPtr s e.x (a + BitVec.ofNat 59 (8 * (n + 1)))
  let s ← get
  pure (newPointer (gcOf s e.x) code a)

/-- ALLOC (R133). -/
def allocBody (rd rs : BitVec 5) (imm : BitVec 14) : Body_ := fun e => do
  let s ← get
  let len := xreg s e.x rs
  chkM (chk e 0 len (len.tag == 0x001))
  let code := imm.toNat % 1024
  let n := len.payload.toNat
  let fill := if code = 0x102 then rawW 0 else nilW
  let p ← allocate e code n (List.replicate (min n 4096) fill)
  putRd e rd p

/-- CONS (R132). -/
def consBody (rd rs rt : BitVec 5) : Body_ := fun e => do
  let s ← get
  let p ← allocate e 0x100 2 [xreg s e.x rs, xreg s e.x rt]
  putRd e rd p

/-! ## The commands -/

def execLdw (x : Exec) (rd rs : BitVec 5) (imm : BitVec 14) (s : State) : Out := .next (issue x (.ldw rd rs imm) (ldwBody rd rs imm) s).tick
def execLdwA (x : Exec) (rd rs : BitVec 5) (imm : BitVec 14) (s : State) : Out := .next (issue x (.ldwA rd rs imm) (ldwABody rd rs imm) s).tick
def execLdwP (x : Exec) (rd rs : BitVec 5) (imm : BitVec 14) (s : State) : Out := .next (issue x (.ldwP rd rs imm) (ldwPBody rd rs imm) s).tick
def execStw (x : Exec) (rd rs : BitVec 5) (imm : BitVec 14) (s : State) : Out := .next (issue x (.stw rd rs imm) (stwBody rd rs imm) s).tick
def execStwR (x : Exec) (rd rs : BitVec 5) (imm : BitVec 14) (s : State) : Out := .next (issue x (.stwR rd rs imm) (stwRBody rd rs imm) s).tick
def execLdb (x : Exec) (rd rs : BitVec 5) (imm : BitVec 14) (s : State) : Out := .next (issue x (.ldb rd rs imm) (ldbBody rd rs imm) s).tick
def execLdh (x : Exec) (rd rs : BitVec 5) (imm : BitVec 14) (s : State) : Out := .next (issue x (.ldh rd rs imm) (ldhBody rd rs imm) s).tick
def execStb (x : Exec) (rd rs : BitVec 5) (imm : BitVec 14) (s : State) : Out := .next (issue x (.stb rd rs imm) (stbBody rd rs imm) s).tick
def execSth (x : Exec) (rd rs : BitVec 5) (imm : BitVec 14) (s : State) : Out := .next (issue x (.sth rd rs imm) (sthBody rd rs imm) s).tick
def execAlloc (x : Exec) (rd rs : BitVec 5) (imm : BitVec 14) (s : State) : Out := .next (issue x (.alloc rd rs imm) (allocBody rd rs imm) s).tick
def execLdpc (x : Exec) (rd : BitVec 5) (off : BitVec 21) (s : State) : Out := .next (issue x (.ldpc rd off) (ldpcBody rd off) s).tick
def execLdx (x : Exec) (rd rs rt : BitVec 5) (s : State) : Out := .next (issue x (.ldx rd rs rt) (ldxBody rd rs rt) s).tick
def execLdxA (x : Exec) (rd rs rt : BitVec 5) (s : State) : Out := .next (issue x (.ldxA rd rs rt) (ldxABody rd rs rt) s).tick
def execStx (x : Exec) (rd rs rt : BitVec 5) (s : State) : Out := .next (issue x (.stx rd rs rt) (stxBody rd rs rt) s).tick
def execStxR (x : Exec) (rd rs rt : BitVec 5) (s : State) : Out := .next (issue x (.stxR rd rs rt) (stxRBody rd rs rt) s).tick
def execCons (x : Exec) (rd rs rt : BitVec 5) (s : State) : Out := .next (issue x (.cons rd rs rt) (consBody rd rs rt) s).tick
def execAmoadd (x : Exec) (rd rs rt : BitVec 5) (ord : BitVec 2) (s : State) : Out := .next (issue x (.atomic 0 ord rd rs rt) (atomicBody 0 ord rd rs rt) s).tick
def execAmoswap (x : Exec) (rd rs rt : BitVec 5) (ord : BitVec 2) (s : State) : Out := .next (issue x (.atomic 1 ord rd rs rt) (atomicBody 1 ord rd rs rt) s).tick
def execAmomin (x : Exec) (rd rs rt : BitVec 5) (ord : BitVec 2) (s : State) : Out := .next (issue x (.atomic 2 ord rd rs rt) (atomicBody 2 ord rd rs rt) s).tick
def execAmomax (x : Exec) (rd rs rt : BitVec 5) (ord : BitVec 2) (s : State) : Out := .next (issue x (.atomic 3 ord rd rs rt) (atomicBody 3 ord rd rs rt) s).tick
def execCas (x : Exec) (rd rs rt : BitVec 5) (ord : BitVec 2) (s : State) : Out := .next (issue x (.atomic 4 ord rd rs rt) (atomicBody 4 ord rd rs rt) s).tick
def execCast (x : Exec) (rd rs rt : BitVec 5) (ord : BitVec 2) (s : State) : Out := .next (issue x (.atomic 5 ord rd rs rt) (atomicBody 5 ord rd rs rt) s).tick
def execCar (x : Exec) (rd rs : BitVec 5) (s : State) : Out := .next (issue x (.car rd rs) (carBody rd rs) s).tick
def execCdr (x : Exec) (rd rs : BitVec 5) (s : State) : Out := .next (issue x (.cdr rd rs) (cdrBody rd rs) s).tick
def execRplaca (x : Exec) (rs rt : BitVec 5) (s : State) : Out := .next (issue x (.rplaca rs rt) (rplacaBody rs rt) s).tick
def execRplacd (x : Exec) (rs rt : BitVec 5) (s : State) : Out := .next (issue x (.rplacd rs rt) (rplacdBody rs rt) s).tick

end Sys2Proof.Machine
end

