-- ==== Sys2Proof/Machine/Long.lean ====
section
/-! DEFINITION. Long instructions (R137 to R139), repeatable instructions and REP (R140, R141). A body is one step. -/

namespace Sys2Proof.Machine

/-! ## Long instructions -/

/-- A word load whose word is inspected (R139): the checks of rank 13, `extra` the last of them, precede the load barrier. -/
def loadChecked (e : Env) (va : BitVec 59) (ok : W → Bool) (extra : W → Res Unit := fun _ => .ok ()) : M W := do
  let (w, l) ← rawLoad e va 8 false
  let s ← get
  if w.tag = 0x000 ∧ uninitTrap s e.x = true then chkM (throwX 0x07 va (1 + e.hi))
  else do
    chkM (chkMem e va w (ok w))
    chkM (extra w)
    loadBarrier e va l w

/-- The end of a step that leaves the instruction unfinished: a progress register takes a word and cnt falls by 1. -/
def stepOn (e : Env) (r : BitVec 5) (w : W) : M Go := do
  modify fun s =>
    let s := setXreg s e.x r w
    setXcnt s e.x (xcnt s e.x - 1)
  pure .step

/-- The list position of MEMQ and ASSQ: the CONS of rt, or the end of the instruction. A pass that finds cnt at 0 inspects
nothing (R139 names no operand of these two for the start of a step). -/
def listStep (e : Env) (rd rs rt : BitVec 5) (step : W → W → M Go) : M Go := do
  let s ← get
  let key := xreg s e.x rs
  let pos := xreg s e.x rt
  if xcnt s e.x = 0 then pure .next
  else do
    chkM (chk e 0 key true)
    chkM (chk e 1 pos true)
    if pos.tag = 0x004 then putRd e rd nilW
    else if pos.tag ≠ 0x100 then chkM (tagTrap 1 1 pos 0)
    else step key pos

/-- The next position of a list search. -/
def listNext (e : Env) (rt : BitVec 5) (pos : W) : M Go := do
  let d ← loadWord e (vaOf pos + 16) false
  stepOn e rt d

def memqBody (rd rs rt : BitVec 5) : Body_ := fun e => listStep e rd rs rt fun key pos => do
  let a ← loadChecked e (vaOf pos + 8) fun _ => true
  if identical a key then putRd e rd pos else listNext e rt pos

def assqBody (rd rs rt : BitVec 5) : Body_ := fun e => listStep e rd rs rt fun key pos => do
  let p ← loadChecked e (vaOf pos + 8) fun w => w.tag == 0x100
  let k ← loadChecked e (vaOf p + 8) fun _ => true
  if identical k key then putRd e rd p else listNext e rt pos

def walkBody (rd rs rt : BitVec 5) : Body_ := fun e => do
  let s ← get
  let node := xreg s e.x rs
  let b ← chkM (baseOf e s 0 node)
  let off := xreg s e.x rt
  chkM (chk e 1 off (off.tag == 0x001))
  if xcnt s e.x = 0 then pure .next
  else
    chkM (baseAligned e node (addOff b off.payload) 8 0)
    let w ← loadChecked e (addOff b off.payload) fun _ => true
    if isPtr w then stepOn e rs w else putRd e rd node

/-- The number of pairs of a table of PROBE, from its header. -/
def probeSize (h : W) : Option Nat :=
  let len := bitsN h.payload 0 48
  let n := len / 2
  if h.tag = 0x201 ∧ len % 2 = 0 ∧ n ≠ 0 ∧ 2 ^ Nat.log2 n = n then some n else none

def probeBody (rd rs rt : BitVec 5) : Body_ := fun e => do
  let s ← get
  let tab := xreg s e.x rs
  let key := xreg s e.x rt
  let idx := xreg s e.x rd
  chkM (chk e 0 tab (tab.tag == 0x101))
  if xcnt s e.x ≠ 0 then chkM (chk e 1 key true) else pure ()
  chkM (chk e 2 idx (idx.tag == 0x001))
  if xcnt s e.x = 0 then pure .next
  else
    let h ← loadChecked e (vaOf tab) (fun _ => true) fun h => if (probeSize h).isSome then .ok () else tagTrap 5 3 h (vaOf tab)
    match probeSize h with
    | none => chkM (tagTrap 5 3 h (vaOf tab))
    | some n => do
      let i := idx.payload.toNat % n
      let k ← loadChecked e (vaOf tab + BitVec.ofNat 59 (8 + 16 * i)) fun _ => true
      if identical k key then putRd e rd (fixW i)
      else if k.tag = 0x005 then putRd e rd ⟨0x001, BitVec.ofInt 64 (-1 - (i : Int))⟩
      else stepOn e rd (fixW ((i + 1) % n))

/-! ## Repeatable instructions -/

/-- A word whose va is advanced; tag and colour bits stay (R141). -/
def advance (w : W) (by_ : Nat) : W := ⟨w.tag, putN w.payload 0 59 ((vaOf w + BitVec.ofNat 59 by_).toNat)⟩

/-- Advances the va of a register. -/
def advanceReg (e : Env) (r : BitVec 5) (by_ : Nat) : M Unit := modify fun s => setXreg s e.x r (advance (xreg s e.x r) by_)

/-- The leaf of a private page of memory, held for the rest of the step; a page of register space is translated again, since the
value stored counts there. -/
def Env.hold (e : Env) (va : BitVec 59) (l : Leaf) : Env :=
  if isReg (l.lpa va) then e else { e with words := (pinLeaf va l).foldl (fun m q => tset m q.1 q.2) e.words }

/-- The checks of both accesses of a COPYW step up to rank 11 (R119), before the word read is known: the translations, the
watches, and the log that does not depend on the word. -/
def copyChecks (e : Env) (src dst : BitVec 59) : M Env := do
  let s ← get
  let g ← gcNow e
  let held ← if isGlobal src then pure e else do
    let l ← translate e 0 src 8 none
    pure (e.hold src l)
  let d ← if isGlobal dst then pure none else do
    let l ← translateSlot e g 1 dst nilW 0
    pure (some l)
  if isGlobal src then pure () else chkM (watch s e.x src false)
  match d with
  | none => pure held
  | some l =>
    let _ ← storeBarrier e g dst l nilW
    pure (held.hold dst l)

/-- One step of COPYW. -/
def copyStep (rd rs : BitVec 5) (e : Env) : M Unit := do
  let s ← get
  let src ← chkM (baseOf e s 0 (xreg s e.x rs))
  let dst ← chkM (baseOf e s 2 (xreg s e.x rd))
  chkM (aligned e src 8 0)
  chkM (aligned e dst 8 1)
  let e ← copyChecks e src dst
  let w ← loadWord e src false
  storeWord e dst w false
  advanceReg e rd 8
  advanceReg e rs 8

/-- One step of FILLW. -/
def fillStep (rd rs : BitVec 5) (e : Env) : M Unit := do
  let s ← get
  let dst ← chkM (baseOf e s 2 (xreg s e.x rd))
  storeWord e dst (xreg s e.x rs) false
  advanceReg e rd 8

/-- One step of line maintenance. -/
def maintStep (kind : ReqK) (rs : BitVec 5) (e : Env) : M Unit := do
  let s ← get
  if kind = .inv then chkM (needSup e s) else pure ()
  let va ← chkM (baseOf e s 0 (xreg s e.x rs))
  maintain e kind va
  advanceReg e rs 64

/-- A step that is the whole instruction. -/
def oneStep (f : Env → M Unit) : Body_ := fun e => do
  f e
  pure .next

def copywBody (rd rs : BitVec 5) : Body_ := oneStep (copyStep rd rs)
def fillwBody (rd rs : BitVec 5) : Body_ := oneStep (fillStep rd rs)
def cleanLBody (rs : BitVec 5) : Body_ := oneStep (maintStep .cln rs)
def flushLBody (rs : BitVec 5) : Body_ := oneStep (maintStep .fls rs)
def invalLBody (rs : BitVec 5) : Body_ := oneStep (maintStep .inv rs)

/-- The step of a repeatable instruction; none for another. -/
def stepOf (op : Op) : Option (Env → M Unit) :=
  match op with
  | .copyw rd rs => some (copyStep rd rs)
  | .fillw rd rs => some (fillStep rd rs)
  | .cleanL rs => some (maintStep .cln rs)
  | .flushL rs => some (maintStep .fls rs)
  | .invalL rs => some (maintStep .inv rs)
  | _ => none

/-! ## REP (R140) -/

/-- The word after the prefix, checked (R121, R140): UNDEFINED to FIC for its own fields, then REP_TARGET. -/
def repTarget (x : Exec) (word : BitVec 32) : Res (Env → M Unit) :=
  match decodeInstr word with
  | .error sub => illegal sub word
  | .ok op =>
    match wordChecks x op word with
    | .error f => .error f
    | .ok _ => match stepOf op with
      | some f => .ok f
      | none => illegal 3 word

/-- One pass of REP: with cnt = 0 nothing executes and pc passes the pair. -/
def repBody (word : BitVec 32) : Body_ := fun e => do
  let f ← chkM (repTarget e.x word)
  let s ← get
  if xcnt s e.x = 0 then pure (.goto (xpc s e.x + 8))
  else
    f e
    modify fun s => setXcnt s e.x (xcnt s e.x - 1)
    let s ← get
    pure (if xcnt s e.x = 0 then .goto (xpc s e.x + 8) else .step)

/-- Rank 1 of the prefix without the words: both its own address and the next. -/
def repPc (e : Env) (s : State) : Res Unit := do
  pcChecks e s
  let next := xpc s e.x + 4
  if next.getLsbD 58 then xlFault (tctx s e.x 2) next 0x09 0x05 0 0 0
  if next.getLsbD 57 then xlFault (tctx s e.x 2) next 0x09 0x01 0 0 0

/-- The checks of the prefix: the fetch of both words (rank 1), and a datapath failure (rank 2). -/
def repChecks (e : Env) (s : State) : Res Unit := do
  repPc e s
  busCheck e s

/-- The microaddress at which the repeated instruction's step meets a parity error. -/
def repMicroBad (s : State) (x : Exec) (word : BitVec 32) : Option (BitVec 15) :=
  match decodeInstr word with
  | .ok o => microBad s x o
  | .error _ => none

/-- Issues REP with the word that follows it. -/
def issueRep (x : Exec) (word : BitVec 32) (s : State) : State :=
  let s := bankRead s x
  if !canIssue s x then s
  else if faultDue s x then (match x with | .ctx n => takeFault s n.toNat | .fic _ => s)
  else
    let e : Env := { x := x, word := word }
    match repChecks e s with
    | .error (.exn f) => raiseX (clearBus s x) x f
    | .error (.need _) => s
    | .ok _ =>
      match repMicroBad s x word with
      | some a => microLost s x a
      | none => settle s x word true (repBody word e s)

/-- The body of a long or repeatable instruction. -/
def longBody (op : Op) : Option Body_ :=
  match op with
  | .memq rd rs rt => some (memqBody rd rs rt)
  | .assq rd rs rt => some (assqBody rd rs rt)
  | .walk rd rs rt => some (walkBody rd rs rt)
  | .probe rd rs rt => some (probeBody rd rs rt)
  | _ => none

/-- REP_STEP (R137): the next step of the long or repeated instruction in progress; with none in progress there is no
step. -/
def nextStep (x : Exec) (s : State) : State :=
  match repeatedOf s x with
  | none => s
  | some (true, word) => issueRep x word s
  | some (false, word) =>
    match decodeInstr word with
    | .error _ => s
    | .ok op => match longBody op with
      | some b => issue x op b s
      | none => s

/-! ## The commands -/

def execMemq (x : Exec) (rd rs rt : BitVec 5) (s : State) : Out := .next (issue x (.memq rd rs rt) (memqBody rd rs rt) s).tick
def execAssq (x : Exec) (rd rs rt : BitVec 5) (s : State) : Out := .next (issue x (.assq rd rs rt) (assqBody rd rs rt) s).tick
def execWalk (x : Exec) (rd rs rt : BitVec 5) (s : State) : Out := .next (issue x (.walk rd rs rt) (walkBody rd rs rt) s).tick
def execProbe (x : Exec) (rd rs rt : BitVec 5) (s : State) : Out := .next (issue x (.probe rd rs rt) (probeBody rd rs rt) s).tick
def execCopyw (x : Exec) (rd rs : BitVec 5) (s : State) : Out := .next (issue x (.copyw rd rs) (copywBody rd rs) s).tick
def execFillw (x : Exec) (rd rs : BitVec 5) (s : State) : Out := .next (issue x (.fillw rd rs) (fillwBody rd rs) s).tick
def execCleanL (x : Exec) (rs : BitVec 5) (s : State) : Out := .next (issue x (.cleanL rs) (cleanLBody rs) s).tick
def execFlushL (x : Exec) (rs : BitVec 5) (s : State) : Out := .next (issue x (.flushL rs) (flushLBody rs) s).tick
def execInvalL (x : Exec) (rs : BitVec 5) (s : State) : Out := .next (issue x (.invalL rs) (invalLBody rs) s).tick
def execRep (x : Exec) (word : BitVec 32) (s : State) : Out := .next (issueRep x word s).tick
def execRepStep (x : Exec) (s : State) : Out := .next (nextStep x s).tick

end Sys2Proof.Machine
end

