-- ==== Sys2Proof/Machine/Branch.lean ====
section
/-! DEFINITION. Branches, jumps and calls (R90, R106, R134 to R136), with the predictors of R109 and R110. -/

namespace Sys2Proof.Machine

/-! ## Prediction (R109 to R111, R113) -/

/-- bpred_off. -/
def predOff (s : State) (core : Nat) : Bool := (s.core core).cfg.getLsbD 2

/-- The slot of a context that executes; a fast interrupt context has none, and does not use the predictors. -/
def slotOf (s : State) (x : Exec) : Option Nat := match x with | .ctx n => (s.ctx n.toNat).slot | .fic _ => none

/-- The index of the direction table (R109). -/
def dirIdx (s : State) (x : Exec) (slot : Nat) : Nat :=
  nxor (bitsN (xpc s x) 2 13) (2 * (tgetD (s.core (xcore x)).ghist slot 0).toNat)

/-- The direction that a conditional branch in a slot is predicted to take (R109, R113). -/
def predicted (s : State) (x : Exec) (slot : Nat) : Bool :=
  !predOff s (xcore x) && decide (2 ≤ (tgetD (s.core (xcore x)).dirTab (dirIdx s x slot) 1).toNat)

/-- The history of a slot after a conditional branch is fetched in it. -/
def shiftHist (s : State) (core slot : Nat) (taken : Bool) : State :=
  s.modCore core fun c => { c with ghist := tset c.ghist slot (BitVec.ofNat 12 ((tgetD c.ghist slot 0).toNat * 2 + b2n taken)) }

/-- A load of the wrong path (R112): it misses nothing but the L1D, its translation is held and every check passes, and its page is
write-back or write-through. -/
def wrongLoad (s : State) (x : Exec) (va : BitVec 59) : State :=
  let core := xcore x
  let t := tctx s x 0
  let e : Env := { x := x, word := 0 }
  match if isGlobal va || va.getLsbD 57 then none else tlbLeaf s t (va.toNat / 4096) with
  | none => s
  | some l =>
    let line := l.lpa va / 64
    match leafRights t (pkrOf s x) va l, leafPlace e s t va 8 none l with
    | .ok _, .ok _ =>
      if 2 ≤ pteMt l.pte ∨ isReg (l.lpa va) = true ∨ (s.core core).bypass = true ∨ recovering s core line = true ∨ leaving s core line = true
          ∨ (tget (s.core core).l1d line).isSome then s
      else
        match makeRoom s core none line with
        | none => s
        | some s =>
          let s := s.modCore core fun c => c.setL1 line { st := .isD, na := pteNa l.pte }
          post s { kind := .rds, src := core, dst := homeNode s line, line := line,
                   req := some { kind := .rds, core := core, line := line, wt := pteMt l.pte == 1, na := pteNa l.pte, spec := true, who := some x } }
    | _, _ => s

/-- What is fetched after a mispredicted branch until it resolves, 7 cycles later (R111, R112): how many conditional branches, with
what directions, and how many loads, at what addresses, are free choices. With spec_off no load executes before the branch
resolves (R113). -/
def wrongPath (s : State) (x : Exec) (slot : Nat) : State :=
  let core := xcore x
  let s := (List.range (Config.choice s.free 128 % 8)).foldl (fun s i => shiftHist s core slot (Config.choice s.free (2 ^ 62 + i) % 2 == 1)) s
  if (s.core core).cfg.getLsbD 1 then s
  else (List.range (Config.choice s.free 144 % 8)).foldl (fun s i => wrongLoad s x ((Config.freeValue s.free (2 ^ 20 + i)).extractLsb' 0 59)) s

/-- A conditional branch: its prediction, the events, the counter and the history. -/
def trainBranch (s : State) (x : Exec) (taken : Bool) : State :=
  let core := xcore x
  match slotOf s x with
  | none => countEvent s core (whoOf s x) 0x04
  | some k =>
    let i := dirIdx s x k
    let v := (tgetD (s.core core).dirTab i 1).toNat
    let right := predicted s x k == taken
    let s := countEvent s core (whoOf s x) 0x04
    let s := if right then s else countEvent s core (whoOf s x) 0x05
    let s := shiftHist (s.modCore core fun c => { c with dirTab := tset c.dirTab i (BitVec.ofNat 2 (if taken then min 3 (v + 1) else v - 1)) }) core k taken
    if right then s else wrongPath s x k

/-- A jump or taken branch looks its target up in the BTB (R110): a miss is counted, and the entry is set. Of a full set the entry
that was used longest ago leaves (log entry 94). -/
def useBtb (s : State) (x : Exec) (target : BitVec 59) : State :=
  match slotOf s x with
  | none => s
  | some _ =>
    let core := xcore x
    if predOff s core then s
    else
      let tag := (xworld s x).num + 2 * (xspace s x).toNat
      let pc := (xpc s x).toNat
      let l := (s.core core).btb
      let mine := fun (b : Nat × Nat × Nat × Nat) => b.1 == pc && (b.2.1 == (xworld s x).num && b.2.2.1 == (xspace s x).toNat)
      let hit := l.any fun b => mine b && b.2.2.2 == target.toNat
      let s := if hit then s else countEvent s core (whoOf s x) 0x06
      let set_ := pc / 4 % 256
      let others := l.filter fun b => !mine b
      let inSet := (others.filter fun b => b.1 / 4 % 256 == set_).take 3
      let rest := others.filter fun b => b.1 / 4 % 256 != set_
      s.modCore core fun c => { c with btb := (pc, tag % 2, tag / 2, target.toNat) :: (inSet ++ rest) }

/-- Goes to a target that the BTB may supply. -/
def jumpTo (e : Env) (t : BitVec 59) : M Go := do
  modify fun s => useBtb s e.x t
  pure (.goto t)

/-! ## Branches -/

/-- The condition of a branch. One that raises its exception was fetched, and the history took its predicted direction (R109). -/
def condition (e : Env) (c : Res Bool) : M Bool := fun s =>
  match c with
  | .ok b => (.ok b, s)
  | .error f => (.error f, match slotOf s e.x with
    | some k => shiftHist s (xcore e.x) k (predicted s e.x k)
    | none => s)

/-- A conditional branch to pc + 4 × off. -/
def branch {n : Nat} (off : BitVec n) (cond : Env → State → Res Bool) : Body_ := fun e => do
  let s ← get
  let taken ← condition e (cond e s)
  modify fun s => trainBranch s e.x taken
  if taken then jumpTo e (branchTo (xpc s e.x) off) else pure .next

/-- A condition on a FIXNUM register. -/
def fixTest (rs : BitVec 5) (f : BitVec 64 → Bool) (e : Env) (s : State) : Res Bool :=
  let a := xreg s e.x rs
  (chk e 0 a (a.tag == 0x001)).map fun _ => f a.payload

/-- The classes of BT and BNT (R135). -/
def inTagClass (cls : Nat) (tag : BitVec 10) : Bool :=
  let n := tag.toNat
  if cls < 8 then n == cls
  else if cls < 12 then n / 256 == cls - 8
  else if cls < 23 then n == 0x100 + (cls - 12)
  else
    match cls with
    | 23 => decide (0x080 ≤ n) && decide (n ≤ 0x0FF)
    | 24 => decide (0x1C0 ≤ n) && decide (n ≤ 0x1FF)
    | 25 => n == 0x300
    | 26 => n == 0x301
    | 27 => n == 0x00F
    | 28 => n == 0x001 || n == 0x002
    | 29 => n == 0x100 || n == 0x004
    | _ => false

def bzBody (rs : BitVec 5) (off : BitVec 21) : Body_ := branch off (fixTest rs fun v => v == 0)
def bnzBody (rs : BitVec 5) (off : BitVec 21) : Body_ := branch off (fixTest rs fun v => v != 0)
def bnilBody (rs : BitVec 5) (off : BitVec 21) : Body_ := branch off fun e s => .ok ((xreg s e.x rs).tag == 0x004)
def bnnilBody (rs : BitVec 5) (off : BitVec 21) : Body_ := branch off fun e s => .ok ((xreg s e.x rs).tag != 0x004)
def btBody (r cls : BitVec 5) (off : BitVec 14) : Body_ := branch off fun e s => .ok (inTagClass cls.toNat (xreg s e.x r).tag)
def bntBody (r cls : BitVec 5) (off : BitVec 14) : Body_ := branch off fun e s => .ok (!inTagClass cls.toNat (xreg s e.x r).tag)

/-! ## Jumps and calls (R90, R136) -/

/-- lk := pc + 4. -/
def linkNext (e : Env) : M Unit := modify fun s => setXlk s e.x (xpc s e.x + 4)

def jBody (off : BitVec 26) : Body_ := fun e => do
  let s ← get
  jumpTo e (branchTo (xpc s e.x) off)

def jlBody (off : BitVec 26) : Body_ := fun e => do
  let s ← get
  linkNext e
  jumpTo e (branchTo (xpc s e.x) off)

def jrBody (rs : BitVec 5) (imm : BitVec 14) : Body_ := fun e => do
  let s ← get
  let t ← chkM (codeTarget e s 0 (xreg s e.x rs) (sx imm))
  jumpTo e t

def jlrBody (rs : BitVec 5) (imm : BitVec 14) : Body_ := fun e => do
  let s ← get
  let t ← chkM (codeTarget e s 0 (xreg s e.x rs) (sx imm))
  linkNext e
  pure (.goto t)

def retlBody : Body_ := fun e => do
  let s ← get
  pure (.goto ((xlk s e.x) &&& ~~~(3 : BitVec 59)))

/-- Changes the record of a context that executes. -/
def modRec (e : Env) (f : Rec → Rec) : M Unit :=
  match e.x with
  | .ctx n => modify fun s => s.modCtx n.toNat fun c => { c with r := f c.r }
  | .fic _ => pure ()

/-- WINDOW_OVERFLOW (R90). -/
def overflowCheck (r : Rec) : Res Unit := if r.vwc = 4 then throwX 0x11 r.wsp ((r.wp.toNat + 1) % 4) else .ok ()

/-- callw of R90, past its check. -/
def rotate (r : Rec) : Rec :=
  { r with lk := r.pc + 4 + BitVec.ofNat 59 (b2n r.tw), wp := r.wp + 1, vwc := r.vwc + 1, tw := false }

def callwBody (off : BitVec 26) : Body_ := fun e => do
  let s ← get
  chkM (overflowCheck (xrec s e.x))
  let t := branchTo (xpc s e.x) off
  modRec e rotate
  jumpTo e t

/-- CALLWR: the tag check, the window check, then the alignment of the target (R119). -/
def callwrBody (rs : BitVec 5) (imm : BitVec 14) : Body_ := fun e => do
  let s ← get
  let w := xreg s e.x rs
  chkM (chk e 0 w (w.tag == 0x108 || (xsup s e.x && w.tag == 0x006)))
  chkM (overflowCheck (xrec s e.x))
  let t ← chkM (codeTarget e s 0 w (sx imm))
  modRec e rotate
  pure (.goto t)

/-- The checks of RETW. -/
def retwChecks (e : Env) (r : Rec) : Res Unit :=
  if r.tw then illegal 7 e.word
  else if r.lk.getLsbD 0 ∧ r.sup = false then privileged e 1
  else if r.lk.getLsbD 0 = false ∧ r.vwc.toNat ≤ 2 then throwX 0x12 r.wsp ((r.wp.toNat + 8 - r.vwc.toNat) % 4)
  else .ok ()

/-- retw of R90, past its checks. -/
def unrotate (r : Rec) : Rec :=
  if r.lk.getLsbD 0 then { r with tw := true } else { r with wp := r.wp - 1, vwc := r.vwc - 1, tw := false }

def retwBody : Body_ := fun e => do
  let s ← get
  let r := xrec s e.x
  chkM (retwChecks e r)
  modRec e unrotate
  jumpTo e (r.lk &&& ~~~(3 : BitVec 59))

/-! ## The commands -/

def execBz (x : Exec) (rs : BitVec 5) (off : BitVec 21) (s : State) : Out := .next (issue x (.bz rs off) (bzBody rs off) s).tick
def execBnz (x : Exec) (rs : BitVec 5) (off : BitVec 21) (s : State) : Out := .next (issue x (.bnz rs off) (bnzBody rs off) s).tick
def execBnil (x : Exec) (rs : BitVec 5) (off : BitVec 21) (s : State) : Out := .next (issue x (.bnil rs off) (bnilBody rs off) s).tick
def execBnnil (x : Exec) (rs : BitVec 5) (off : BitVec 21) (s : State) : Out := .next (issue x (.bnnil rs off) (bnnilBody rs off) s).tick
def execBt (x : Exec) (r cls : BitVec 5) (off : BitVec 14) (s : State) : Out := .next (issue x (.bt r cls off) (btBody r cls off) s).tick
def execBnt (x : Exec) (r cls : BitVec 5) (off : BitVec 14) (s : State) : Out := .next (issue x (.bnt r cls off) (bntBody r cls off) s).tick
def execJ (x : Exec) (off : BitVec 26) (s : State) : Out := .next (issue x (.j off) (jBody off) s).tick
def execJl (x : Exec) (off : BitVec 26) (s : State) : Out := .next (issue x (.jl off) (jlBody off) s).tick
def execCallw (x : Exec) (off : BitVec 26) (s : State) : Out := .next (issue x (.callw off) (callwBody off) s).tick
def execJr (x : Exec) (rs : BitVec 5) (imm : BitVec 14) (s : State) : Out := .next (issue x (.jr rs imm) (jrBody rs imm) s).tick
def execJlr (x : Exec) (rs : BitVec 5) (imm : BitVec 14) (s : State) : Out := .next (issue x (.jlr rs imm) (jlrBody rs imm) s).tick
def execCallwr (x : Exec) (rs : BitVec 5) (imm : BitVec 14) (s : State) : Out := .next (issue x (.callwr rs imm) (callwrBody rs imm) s).tick
def execRetl (x : Exec) (s : State) : Out := .next (issue x .retl retlBody s).tick
def execRetw (x : Exec) (s : State) : Out := .next (issue x .retw retwBody s).tick

end Sys2Proof.Machine
end

