-- ==== Sys2Proof/Machine/System.lean ====
section
/-! DEFINITION. System and ordering instructions (R70, R142, R171 to R177, R210, R222, R254, R379). -/

namespace Sys2Proof.Machine

/-- The instruction commits here; its body leaves pc itself. -/
def commitM (e : Env) : M Unit := modify fun s => commitX s e.x

/-! ## Exceptions and returns -/

def syscallBody : Body_ := fun _ => chkM (throwX 0x16 0 0)

def brkBody : Body_ := fun e => do
  let s ← get
  chkM (throwX 0x19 (xpc s e.x) e.hi)

/-- RETX in the fast interrupt context (R104). -/
def ficReturn (f : Fic) : Fic :=
  if f.mode = .nmi ∧ f.fromIrq = true then { f with mode := .irq, pc := f.npc, fromIrq := false } else { f with mode := .idle, fromIrq := false }

/-- RETX (R104, R176, R177). -/
def retxBody : Body_ := fun e => do
  let s ← get
  chkM (needSup e s)
  match e.x with
  | .fic k => do
    commitM e
    modify fun s => s.modFic k.toNat ficReturn
    pure .done
  | .ctx n =>
    match retx (s.ctx n.toNat) with
    | .error sub => chkM (throwX 0x18 (xpc s e.x) sub)
    | .ok c => do
      commitM e
      modify fun s => s.setCtx n.toNat { c with repeated := none }
      pure .done

/-! ## Gates (R172, R173) -/

/-- The entry address and control of gate n into a world. -/
def gateOf (s : State) (into : World) (n : Nat) : Nat × Nat :=
  match into with
  | .sys => (dval s 0x3040 (n + 1), dval s 0x3041 (n + 1))
  | .job => (dval s 0x3042 (n + 1), dval s 0x3043 (n + 1))

/-- A gate is open: enabled, with an entry address that the device accepts. -/
def gateIsOpen (g : Nat × Nat) : Bool := g.2 / 2 ^ 12 % 2 == 1 && (g.1 % 4 == 0 && decide (g.1 / 2 ^ 57 = 0))

/-- xinfo of GATE (R170). -/
def gateInfo (sub gate : Nat) (w : World) (sup : Bool) : Nat := sub + 2 ^ 8 * gate + 2 ^ 16 * w.num + 2 ^ 17 * b2n sup

/-- The subcode of GATE that a WCALL raises. -/
def gateRefusal (s : State) (r : Rec) (v : BitVec 64) : Option Nat :=
  let g := gateOf s r.world.other v.toNat
  if 32 ≤ v.toNat then some 1
  else if !gateIsOpen g then some 2
  else if r.sup = false ∧ g.2 / 2 ^ 13 % 2 = 0 then some 3
  else if r.gateOpen then some 4
  else if r.xvalid r.world then some 5
  else none

/-- The gate entry. -/
def enterGate (s : State) (r : Rec) (n : Nat) : Rec :=
  let w := r.world
  let g := gateOf s w.other n
  let token := (r.token.toNat + 1) % 16
  let f := ((r.setXpc w (r.pc + 4)).setXstat w (savedStat r true token 0)).setXvalid w true
  { f with ctxStat := BitVec.ofNat 32 (w.other.num + 2 + 4 * (g.2 % 2 ^ 12) + 2 ^ 14 + 2 ^ 15 * token + 2 ^ 19 * n),
           xcause := 0x17, xaddr := 0, xinfo := BitVec.ofNat 64 (gateInfo 0 n w r.sup), tw := true, pc := BitVec.ofNat 59 g.1 }

/-- WCALL (R173). A fast interrupt context has no frame to enter a gate from: the crossing cannot be delivered. -/
def wcallBody (rs : BitVec 5) : Body_ := fun e => do
  let s ← get
  let a := xreg s e.x rs
  chkM (chk e 0 a (a.tag == 0x001))
  let num := if a.payload.toNat < 256 then a.payload.toNat else 0xFF
  match e.x with
  | .fic _ => chkM (throwX 0x17 0 (gateInfo 4 num .sys true))
  | .ctx n =>
    let r := (s.ctx n.toNat).r
    match gateRefusal s r a.payload with
    | some sub => chkM (throwX 0x17 0 (gateInfo sub num r.world r.sup))
    | none => do
      commitM e
      modify fun s => s.modCtx n.toNat fun c => { c with r := enterGate s r a.payload.toNat }
      pure .done

/-! ## Yielding and waiting -/

/-- YIELD (R62): ACTIVE to READY after the instruction; a fast interrupt context is not swapped. -/
def yieldBody : Body_ := fun e => do
  commitM e
  modify fun s =>
    let s := setXpc s e.x (xpc s e.x + 4)
    match e.x with
    | .ctx n => queueSwap s n.toNat .ready
    | .fic _ => s
  pure .done

/-- FENCE (R254, R258). -/
def fenceBody : Body_ := fun e => do
  waitEarlier e.x
  let s ← get
  if s.gcBy = some e.x then needM .held else pure .next

/-- SYNC.G (R70, R303). -/
def syncGBody : Body_ := fun e => do
  let s ← get
  let full : Bool := match e.x with | .ctx n => (s.ctx n.toNat).sfault.isSome | .fic _ => false
  if storesOut s e.x ≠ 0 then (if isFicX e.x then needM .held else if full then needM .latch else needM (.sync .syncG))
  else if full then needM .latch
  else pure .next

/-- SYNC.V (R379). -/
def syncVBody : Body_ := fun e => do
  let s ← get
  if valleyWrites s = [] then pure .next
  else if isFicX e.x then needM .held
  else needM (.sync .syncV)

/-- SYNC.T (R222). -/
def syncTBody : Body_ := fun e => do
  let s ← get
  chkM (needSup e s)
  if s.tlbis.any fun t => t.by_ == e.x then (if isFicX e.x then needM .held else needM (.sync .syncT)) else pure .next

/-- SETPKR (R210). -/
def setpkrBody (rs : BitVec 5) : Body_ := fun e => do
  let s ← get
  let a := xreg s e.x rs
  chkM (chk e 0 a (isInt a))
  match e.x with
  | .fic _ => pure .next
  | .ctx n =>
    if xsup s e.x = false ∧ a.payload.toNat / 2 ^ 32 ≠ (s.ctx n.toNat).r.pkr.toNat / 2 ^ 32 then chkM (privileged e 1)
    else do
      modRec e fun r => { r with pkr := a.payload }
      pure .next

/-! ## The commands -/

def execSyscall (x : Exec) (s : State) : Out := .next (issue x .syscall syscallBody s).tick
def execRetx (x : Exec) (s : State) : Out := .next (issue x .retx retxBody s).tick
def execBrk (x : Exec) (s : State) : Out := .next (issue x .brk brkBody s).tick
def execYield (x : Exec) (s : State) : Out := .next (issue x .yield yieldBody s).tick
def execFence (x : Exec) (s : State) : Out := .next (issue x .fence fenceBody s).tick
def execSyncG (x : Exec) (s : State) : Out := .next (issue x .syncG syncGBody s).tick
def execSyncV (x : Exec) (s : State) : Out := .next (issue x .syncV syncVBody s).tick
def execSyncT (x : Exec) (s : State) : Out := .next (issue x .syncT syncTBody s).tick
def execWcall (x : Exec) (rs : BitVec 5) (s : State) : Out := .next (issue x (.wcall rs) (wcallBody rs) s).tick
def execSetpkr (x : Exec) (rs : BitVec 5) (s : State) : Out := .next (issue x (.setpkr rs) (setpkrBody rs) s).tick

end Sys2Proof.Machine
end

