-- ==== Sys2Proof/Machine/Special.lean ====
section
/-! DEFINITION. Special registers (R87, R88, R113, R114, R161), ring slots (R91) and bank registers (R99, R100). -/

namespace Sys2Proof.Machine

/-! ## Access rules (R87, R114) -/

/-- The counter or counter control of a selector, when the executor's world owns it. -/
def ownPmc (s : State) (x : Exec) (k : Nat) : Bool := k / 4 == (xworld s x).num

/-- MFS of a selector is permitted. -/
def mfsOk (s : State) (x : Exec) (sel : Nat) : Bool :=
  if 0x040 ≤ sel ∧ sel ≤ 0x047 then
    ownPmc s x (sel - 0x040) && (xsup s x || (tgetD (s.core (xcore x)).pmsel (sel - 0x040) 0xFFFF0000).getLsbD 13)
  else if 0x048 ≤ sel ∧ sel ≤ 0x04F then xsup s x && ownPmc s x (sel - 0x048)
  else decide (sel ≤ 0x00C) || xsup s x

/-- MTS of a selector is permitted: pkr, fp_victim and core_stat discard it, and the registers of the fast interrupt
context are not marked writable. -/
def mtsOk (s : State) (x : Exec) (sel : Nat) : Bool :=
  if sel = 0x003 ∨ sel = 0x020 ∨ sel = 0x031 then true
  else if sel = 0x002 ∨ sel = 0x004 ∨ sel = 0x005 then xsup s x
  else if sel ≤ 0x00C then true
  else if sel = 0x030 then xsup s x && xworld s x == .sys
  else if 0x040 ≤ sel ∧ sel ≤ 0x04F then xsup s x && ownPmc s x (sel % 8)
  else if 0x060 ≤ sel then false
  else xsup s x

/-! ## Values -/

/-- wstat (R88). -/
def wstat (r : Rec) : Nat :=
  r.wp.toNat + 2 ^ 2 * r.vwc.toNat + 2 ^ 5 * b2n r.tw + 2 ^ 6 * b2n r.fpBound + 2 ^ 7 * r.fpBank.toNat + 2 ^ 9 * b2n r.xvalidS + 2 ^ 10 * b2n r.xvalidJ

/-- A register of the record (R87). -/
def recReg (r : Rec) (w : World) (sel : Nat) : Nat :=
  match sel with
  | 0x000 => r.lk.toNat
  | 0x001 => r.cnt.toNat
  | 0x002 => r.ctxStat.toNat
  | 0x003 => r.pkr.toNat
  | 0x004 => wstat r
  | 0x005 => r.wsp.toNat
  | 0x006 => r.allocPtr.toNat
  | 0x007 => r.allocLim.toNat
  | 0x008 => r.rslogPtr.toNat
  | 0x009 => r.rslogLim.toNat
  | 0x00A => r.satbPtr.toNat
  | 0x00B => r.satbLim.toNat
  | 0x00C => r.fpsr.toNat
  | 0x010 => (r.xpc w).toNat
  | 0x011 => (r.xstat w).toNat
  | 0x012 => r.xcause.toNat
  | 0x013 => r.xaddr.toNat
  | 0x014 => r.xinfo.toNat
  | 0x021 => r.fpBank.toNat + 4 * b2n r.fpBound
  | _ => 0

/-- Writes a register of the record: the fields that R88, R161 and R168 mark RO keep their values. -/
def setRecReg (r : Rec) (w : World) (sel : Nat) (v : BitVec 64) : Rec :=
  let a : BitVec 59 := v.extractLsb' 0 59
  match sel with
  | 0x000 => { r with lk := a }
  | 0x001 => { r with cnt := v }
  | 0x002 => { r with ctxStat := putN r.ctxStat 2 12 (bitsN v 2 12) }
  | 0x004 => r.setXvalid w (v.getLsbD (9 + w.num))
  | 0x005 => { r with wsp := a }
  | 0x006 => { r with allocPtr := a }
  | 0x007 => { r with allocLim := a }
  | 0x008 => { r with rslogPtr := a }
  | 0x009 => { r with rslogLim := a }
  | 0x00A => { r with satbPtr := a }
  | 0x00B => { r with satbLim := a }
  | 0x00C => { r with fpsr := v.extractLsb' 0 12 }
  | 0x010 => r.setXpc w a
  | 0x011 => r.setXstat w (BitVec.ofNat 32 (bitsN v 0 23))
  | 0x012 => { r with xcause := v.extractLsb' 0 8 }
  | 0x013 => { r with xaddr := a }
  | 0x014 => { r with xinfo := v }
  | _ => r

/-- The widths of the registers of the record (R87). -/
def recWidth (sel : Nat) : Nat :=
  match sel with
  | 0x001 | 0x003 | 0x014 => 64
  | 0x002 | 0x011 => 32
  | 0x004 => 11
  | 0x00C => 12
  | 0x012 => 8
  | 0x020 => 28
  | 0x021 => 3
  | _ => 59

/-- The claim that a context holds. -/
def claimOf (s : State) (n : Nat) : Option Nat := ((s.core (coreOf n)).claim.find? fun c => c.2 == n % 160).map fun c => c.1

/-- The bank that a read of fp_victim claims (R99): a free one, or the one bound longest ago whose holder is not ACTIVE. -/
def victimBank (s : State) (n : Nat) : Option Nat :=
  let core := coreOf n
  let w := (s.ctx n).r.world
  match claimOf s n with
  | some b => some b
  | none =>
    match freeBank s core w with
    | some b => some b
    | none =>
      let k := s.core core
      let ok := fun b => (tget k.claim b).isNone && (match tget k.holder b with
        | some h => !((s.ctx (core * 160 + h.1)).dir.state == .active)
        | none => false)
      (((banksOf s w).filter ok).foldl (fun (a : Option (Nat × Nat)) b =>
        let t := ((tget k.holder b).getD (0, 0)).2
        match a with
        | some x => if t < x.2 then some (b, t) else a
        | none => some (b, t)) none).map fun x => x.1

/-- fp_victim (R99). -/
def victimWord (s : State) (n : Nat) (bank : Option Nat) : Nat :=
  match bank with
  | none => 4
  | some b =>
    match tget (s.core (coreOf n)).holder b with
    | none => b + 8
    | some h => b + 2 ^ 4 * h.1 + 2 ^ 12 * (s.ctx (coreOf n * 160 + h.1)).dir.gen.toNat

/-- A read of fp_victim claims the bank. -/
def readVictim (s : State) (n : Nat) : Nat × State :=
  let b := victimBank s n
  (victimWord s n b, match b with
    | some b => s.modCore (coreOf n) fun k => { k with claim := tset k.claim b (n % 160) }
    | none => s)

/-- A bind of the claimed bank (R100, R175): a bank that the context held before is unbound, its contents discarded. -/
def bindBank (s : State) (n b : Nat) : State :=
  let core := coreOf n
  let c := s.ctx n
  let s := match tget (s.core core).holder b with
    | some h => s.modCtx (core * 160 + h.1) fun c => { c with r := { c.r with fpBound := false } }
    | none => s
  let old := if c.r.fpBound ∧ c.r.fpBank.toNat ≠ b then some c.r.fpBank.toNat else none
  let s := match old with
    | some o => s.modCore core fun k => { k with holder := tdel k.holder o, fp := tset k.fp o (discarded s o) }
    | none => s
  let s := s.modCtx n fun c => { c with r := { c.r with fpBound := true, fpBank := BitVec.ofNat 2 b } }
  { s.modCore core (fun k => { k with holder := tset k.holder b (n % 160, s.seq + 1), claim := tdel k.claim b }) with seq := s.seq + 1 }

/-- MTS fp_bind (R100). -/
def writeBind (s : State) (n : Nat) (v : BitVec 64) : State :=
  if v.getLsbD 2 then releaseBanks s n
  else if claimOf s n = some (bitsN v 0 2) then bindBank s n (bitsN v 0 2)
  else s

/-- core_cfg (R113, R249): l1d_off bypasses L1D at once and starts the drain; fills in flight become use-once. -/
def writeCfg (c : Core) (v : BitVec 64) : Core :=
  let cfg : BitVec 3 := v.extractLsb' 0 3
  if cfg.getLsbD 0 ∧ c.cfg.getLsbD 0 = false then
    { c with cfg := cfg, bypass := true, draining := true, l1d := c.l1d.map fun l => (l.1, if l.2.st.hit then l.2 else { l.2 with once := true }) }
  else { c with cfg := cfg, bypass := if cfg.getLsbD 0 = false ∧ c.draining = false then false else c.bypass }

/-- Writes a counter control: ovf is cleared by writing 1 (R114). -/
def pmselWrite (old : BitVec 32) (v : BitVec 64) : BitVec 32 :=
  let keep := if v.getLsbD 12 then 0 else bitsN old 12 1
  BitVec.ofNat 32 (bitsN v 0 12 + 2 ^ 12 * keep + 2 ^ 13 * bitsN v 13 1 + 2 ^ 16 * bitsN v 16 16)

/-- The registers of the fast interrupt context (R102, R104): its own, those of the core, and free values for the
registers of a record, which it has not. -/
def ficSpr (s : State) (k sel : Nat) : Nat :=
  let f := s.fic k
  match sel with
  | 0x000 => f.lk.toNat
  | 0x001 => f.cnt.toNat
  | 0x00C => f.fpsr.toNat
  | 0x060 => f.cause.toNat
  | 0x061 => f.info.toNat
  | 0x062 => f.npc.toNat
  | _ => (Config.freeValue s.free 43).toNat % 2 ^ recWidth sel

/-- Registers of the core. -/
def coreSpr (s : State) (core sel : Nat) : Option Nat :=
  let c := s.core core
  if sel = 0x030 then some c.cfg.toNat
  else if sel = 0x031 then some (b2n c.draining + 2 * b2n c.bypass)
  else if 0x040 ≤ sel ∧ sel ≤ 0x047 then some (tgetD c.pmc (sel - 0x040) 0).toNat
  else if 0x048 ≤ sel ∧ sel ≤ 0x04F then some (tgetD c.pmsel (sel - 0x048) 0xFFFF0000).toNat
  else none

/-- Reads a special register. -/
def sprRead (s : State) (x : Exec) (sel : Nat) : Nat × State :=
  match coreSpr s (xcore x) sel with
  | some v => (v, s)
  | none =>
    match x with
    | .fic k => (ficSpr s k.toNat sel, s)
    | .ctx n => if sel = 0x020 then readVictim s n.toNat else (recReg (s.ctx n.toNat).r (xworld s x) sel, s)

/-- Writes a special register. -/
def sprWrite (s : State) (x : Exec) (sel : Nat) (v : BitVec 64) : State :=
  if sel = 0x030 then s.modCore (xcore x) fun c => writeCfg c v
  else if 0x040 ≤ sel ∧ sel ≤ 0x047 then s.modCore (xcore x) fun c => { c with pmc := tset c.pmc (sel - 0x040) (v.extractLsb' 0 48) }
  else if 0x048 ≤ sel ∧ sel ≤ 0x04F then
    s.modCore (xcore x) fun c => { c with pmsel := tset c.pmsel (sel - 0x048) (pmselWrite (tgetD c.pmsel (sel - 0x048) 0xFFFF0000) v) }
  else
    match x with
    | .fic _ =>
      (match sel with
       | 0x000 => setXlk s x (v.extractLsb' 0 59)
       | 0x001 => setXcnt s x v
       | 0x00C => setXfpsr s x (v.extractLsb' 0 12)
       | _ => s)
    | .ctx n =>
      if sel = 0x021 then writeBind s n.toNat v
      else s.modCtx n.toNat fun c => { c with r := setRecReg c.r (xworld s x) sel v }

/-! ## Bodies -/

def mfsBody (rd : BitVec 5) (sel : BitVec 12) : Body_ := fun e => do
  let s ← get
  if !mfsOk s e.x sel.toNat then chkM (privileged e 2)
  else
    let r := sprRead s e.x sel.toNat
    set r.2
    putRd e rd (rawW r.1)

def mtsBody (rs : BitVec 5) (sel : BitVec 12) : Body_ := fun e => do
  let s ← get
  if !mtsOk s e.x sel.toNat then chkM (privileged e 2)
  else
    let a := xreg s e.x rs
    chkM (chk e 0 a true)
    set (sprWrite s e.x sel.toNat a.payload)
    pure .next

/-- RDW (R91). A fast interrupt context has no ring: it reads a free value. -/
def rdwBody (rd : BitVec 5) (n : BitVec 6) : Body_ := fun e => do
  let s ← get
  chkM (needSup e s)
  match e.x with
  | .ctx k => putRd e rd (tgetD (s.ctx k.toNat).ring n.toNat nilW)
  | .fic _ => putRd e rd ⟨0x006, Config.freeValue s.free 44⟩

def wrwBody (rs : BitVec 5) (n : BitVec 6) : Body_ := fun e => do
  let s ← get
  chkM (needSup e s)
  match e.x with
  | .ctx k => do
    modify fun s => s.modCtx k.toNat fun c => { c with ring := tset c.ring n.toNat (xreg s e.x rs) }
    pure .next
  | .fic _ => pure .next

/-- The bank register that FBRD and FBWR name (R100); the manual gives xaddr of FP_CLAIM no layout. -/
def bankAccess (e : Env) (s : State) (sel : W) : Res (Nat × BitVec 5) :=
  let b := bitsN sel.payload 4 2
  let ok : Bool := match e.x with
    | .ctx n => ((s.ctx n.toNat).r.fpBound && (s.ctx n.toNat).r.fpBank.toNat == b) || claimOf s n.toNat == some b
    | .fic _ => false
  if ok then .ok (b, BitVec.ofNat 5 (bitsN sel.payload 0 4))
  else permission ((Config.freeValue s.free 45).extractLsb' 0 59) 0x20

def fbrdBody (rd rs : BitVec 5) : Body_ := fun e => do
  let s ← get
  chkM (needSup e s)
  let a := xreg s e.x rs
  chkM (chk e 0 a (a.tag == 0x001))
  let r ← chkM (bankAccess e s a)
  putRd e rd ⟨0x002, fpGet s (xcore e.x) r.1 r.2⟩

def fbwrBody (rs rt : BitVec 5) : Body_ := fun e => do
  let s ← get
  chkM (needSup e s)
  let a := xreg s e.x rs
  chkM (chk e 0 a (a.tag == 0x001))
  let v := xreg s e.x rt
  chkM (chk e 1 v (v.tag == 0x002 || v.tag == 0x006))
  let r ← chkM (bankAccess e s a)
  set (fpPut s (xcore e.x) r.1 r.2 v.payload)
  pure .next

/-! ## The commands -/

/-- FP_BANK_BIND: MTS fp_bind of a word whose release bit is 0. -/
def execFpBankBind (x : Exec) (rs : BitVec 5) (s : State) : Out :=
  .next (if (xreg s x rs).payload.getLsbD 2 then s else issue x (.mts rs 0x021) (mtsBody rs 0x021) s).tick

/-- FP_BANK_RELEASE: MTS fp_bind of a word whose release bit is 1. -/
def execFpBankRelease (x : Exec) (rs : BitVec 5) (s : State) : Out :=
  .next (if (xreg s x rs).payload.getLsbD 2 then issue x (.mts rs 0x021) (mtsBody rs 0x021) s else s).tick

def execMfs (x : Exec) (rd : BitVec 5) (sel : BitVec 12) (s : State) : Out := .next (issue x (.mfs rd sel) (mfsBody rd sel) s).tick
def execMts (x : Exec) (rs : BitVec 5) (sel : BitVec 12) (s : State) : Out := .next (issue x (.mts rs sel) (mtsBody rs sel) s).tick
def execRdw (x : Exec) (rd : BitVec 5) (n : BitVec 6) (s : State) : Out := .next (issue x (.rdw rd n) (rdwBody rd n) s).tick
def execWrw (x : Exec) (rs : BitVec 5) (n : BitVec 6) (s : State) : Out := .next (issue x (.wrw rs n) (wrwBody rs n) s).tick
def execFbrd (x : Exec) (rd rs : BitVec 5) (s : State) : Out := .next (issue x (.fbrd rd rs) (fbrdBody rd rs) s).tick
def execFbwr (x : Exec) (rt rs : BitVec 5) (s : State) : Out := .next (issue x (.fbwr rs rt) (fbwrBody rs rt) s).tick

end Sys2Proof.Machine
end

