-- ==== Sys2Proof/Machine/Context.lean ====
section
/-! DEFINITION. Context instructions (R73, R74, R78 to R82). -/

namespace Sys2Proof.Machine

/-! ## The handle (R54, R79) -/

/-- PERMISSION of a context instruction (R79). -/
def ctxRefused {α : Type} (h : W) (sub : Nat) : Res α := permission (vaOf h) sub

/-- The checks of R79 from the operand on: the target. `ok` says which states the instruction permits; `kill` marks
CTXKILL. -/
def target (e : Env) (s : State) (h : W) (kill : Bool) (ok : CState → Bool) : Res Nat := do
  chk e 0 h (h.tag == 0x007)
  let n := bitsN h.payload 0 16
  let t := s.ctx n
  let w := xworld s e.x
  if bitsN h.payload 16 16 ≠ (devNo s).toNat then ctxRefused h 0x11
  else if 40960 ≤ n ∨ bitsN h.payload 32 16 ≠ t.dir.gen.toNat ∨ t.dir.state = .free then ctxRefused h 0x10
  else if t.dir.owner ≠ w ∨ (t.r.world ≠ w ∧ !(kill && t.dir.state == .lockup)) then ctxRefused h 0x12
  else if !ok t.dir.state ∨ e.x = .ctx (BitVec.ofNat 16 n) then ctxRefused h 0x13
  else return n

/-- A context instruction with a handle in rs. -/
def onTarget (rs : BitVec 5) (kill : Bool) (ok : CState → Bool) (f : Env → Nat → M Go) : Body_ := fun e => do
  let s ← get
  chkM (needSup e s)
  let n ← chkM (target e s (xreg s e.x rs) kill ok)
  f e n

/-- The states that CTXHOLD permits (R80), those of CTXKILL (R62), and HELD. -/
def mayHold (st : CState) : Bool := st == .ready || (st == .active || (st == .waitMem || st == .waitEvent))
def mayKill (st : CState) : Bool := mayHold st || (st == .held || st == .lockup)
def isHeld (st : CState) : Bool := st == .held

/-- The appends of a context are performed, those also that go with stores not yet performed (R268). -/
def appendsDone (s : State) (n : Nat) : Bool :=
  let mine := fun (p : PStore) => p.who == .ctx (BitVec.ofNat 16 n)
  !((s.core (coreOf n)).appends.any mine) && !((s.core (coreOf n)).stores.any fun p => mine p && p.card.isSome)

/-- A context waits at a WAIT_ACK microword: CTXHOLD and CTXKILL take effect at its next END or STEP (R188). -/
def atAck (s : State) (n : Nat) : Bool := match (s.ctx n).pend with | some p => p.why == .maint | none => false

def ctxholdBody (rs : BitVec 5) : Body_ := onTarget rs false mayHold fun _ n => do
  let s ← get
  if appendsDone s n && !atAck s n then
    set (holdCtx s n)
    pure .next
  else needM .held

def ctxrelBody (rs : BitVec 5) : Body_ := onTarget rs false isHeld fun _ n => do
  modify fun s => releaseCtx s n
  pure .next

def ctxkillBody (rs : BitVec 5) : Body_ := onTarget rs true mayKill fun _ n => do
  let s ← get
  if atAck s n then needM .held
  else do
    set (killCtx s n)
    pure .next

/-- CTXEND (R81, R174, R303). -/
def ctxendBody : Body_ := fun e => do
  let s ← get
  chkM (needSup e s)
  match e.x with
  | .fic _ => pure .next
  | .ctx n =>
    let c := s.ctx n.toNat
    if c.r.gateOpen then chkM (throwX 0x17 0 (gateInfo 6 c.r.gate.toNat c.r.world c.r.sup))
    else if c.sfault.isSome then needM .latch
    else do
      commitM e
      modify fun s => killCtx s n.toNat
      pure .done

/-! ## SPAWN (R78) -/

/-- The handle of a context of this device. -/
def handleOf (s : State) (n : Nat) (gen : BitVec 16) : W :=
  ⟨0x007, BitVec.ofNat 64 (n + 2 ^ 16 * (devNo s).toNat + 2 ^ 32 * gen.toNat)⟩

/-- SPAWN: with no record the answer is NIL. -/
def spawnBody (rd rs rt : BitVec 5) : Body_ := fun e => do
  let s ← get
  chkM (needSup e s)
  let a := xreg s e.x rs
  chkM (chk e 0 a (a.tag == 0x001))
  let w := xreg s e.x rt
  chkM (chk e 1 w (w.tag == 0x108 || w.tag == 0x006))
  let pc := vaOf w
  if pc.toNat % 4 ≠ 0 then chkM (misaligned e pc 3 4 2) else pure ()
  match e.x with
  | .fic _ => pure .next
  | .ctx n =>
    let core := a.payload.toNat
    let free : Option Nat := if 256 ≤ core then none else if (s.tile (tileOf core)).dead then none else freeRecord s core
    match free with
    | none => putRd e rd nilW
    | some k => do
      let me := s.ctx n.toNat
      let gen := (s.ctx k).dir.gen
      modify fun s => s.setCtx k (freshCtx gen me.r.world me.dir.prio false me.r.space pc me.r.pkr)
      putRd e rd (handleOf s k gen)

/-! ## WAIT and WAIT.M (R72 to R74) -/

/-- A context begins to wait, past the instruction: its wait, deadline and the register that takes the outcome. -/
def beginWait (s : State) (n wait : Nat) (rd : BitVec 5) (deadline : BitVec 32) (st : CState) : State :=
  let s := commitX s (.ctx (BitVec.ofNat 16 n))
  let s := s.modCtx n fun c => { c with r := { c.r with pc := c.r.pc + 4 }, waitRd := rd,
                                        dir := { c.dir with wait := BitVec.ofNat 3 wait, deadline := deadline } }
  if (s.ctx n).dir.state = .active ∧ (s.ctx n).stopped = false then
    queueSwap (if st = .waitMem then countEvent s (coreOf n) (evWho (s.ctx n)) 0x0F else s) n st
  else s

def waitBody (rd rs rt : BitVec 5) : Body_ := fun e => do
  let s ← get
  let a := xreg s e.x rs
  chkM (chk e 0 a (a.tag == 0x001))
  let d := xreg s e.x rt
  chkM (chk e 1 d (d.tag == 0x001))
  match e.x with
  | .fic _ => pure .next
  | .ctx n =>
    let mask : BitVec 16 := a.payload.extractLsb' 0 16
    let hit := (s.ctx n.toNat).dir.events &&& mask
    if hit ≠ 0 then do
      modify fun s => s.modCtx n.toNat fun c => { c with dir := { c.dir with events := c.dir.events &&& ~~~hit } }
      putRd e rd (fixW hit.toNat)
    else do
      modify fun s =>
        beginWait (s.modCtx n.toNat fun c => { c with dir := { c.dir with mask := mask } }) n.toNat 4 rd (d.payload.extractLsb' 0 32) .waitEvent
      pure .done

/-- The line monitors of a core that are in use. -/
def monitorsUsed (s : State) (core : Nat) : Nat :=
  ((List.range 160).filter fun i => (s.ctx (core * 160 + i)).monitor.isSome).length

def waitMBody (rd rs rt : BitVec 5) : Body_ := fun e => do
  let va ← effective e rs 0
  chkM (aligned e va 8 0)
  if isGlobal va then putRd e rd (fixW 2)
  else do
    let l ← translate e 0 va 8 none
    let s ← get
    chkM (watch s e.x va false)
    if pteMt l.pte ≠ 0 then putRd e rd (fixW 2)
    else do
      let w ← cacheWord e (l.lpa va / 8) 0 (pteNa l.pte) false
      let s ← get
      let want := xreg s e.x rt
      if w ≠ want then putRd e rd (fixW 1)
      else
        match e.x with
        | .fic _ => pure .next
        | .ctx n =>
          if 32 ≤ monitorsUsed s (xcore e.x) then putRd e rd (fixW 2)
          else do
            modify fun s =>
              beginWait (s.modCtx n.toNat fun c => { c with monitor := some (l.lpa va / 8, want) }) n.toNat 5 rd (BitVec.ofNat 32 (xcnt s e.x).toNat) .waitMem
            pure .done

/-! ## CTXRD and CTXWR (R82) -/

/-- An untagged item. -/
def itemVal (c : Ctx) (sel : Nat) : Nat :=
  match sel with
  | 0x050 => c.r.pc.toNat
  | 0x051 => c.r.lk.toNat
  | 0x052 => c.r.wsp.toNat
  | 0x053 => c.r.allocPtr.toNat
  | 0x054 => c.r.allocLim.toNat
  | 0x055 => c.r.rslogPtr.toNat
  | 0x056 => c.r.rslogLim.toNat
  | 0x057 => c.r.satbPtr.toNat
  | 0x058 => c.r.satbLim.toNat
  | 0x059 => c.r.cnt.toNat
  | 0x05A => c.r.pkr.toNat
  | 0x05B => c.r.xpcS.toNat
  | 0x05C => c.r.xpcJ.toNat
  | 0x05D => c.r.xaddr.toNat
  | 0x05E => c.r.xinfo.toNat
  | 0x05F => c.r.ctxStat.toNat
  | 0x060 => c.r.xstatS.toNat
  | 0x061 => c.r.xstatJ.toNat
  | 0x062 => c.r.xcause.toNat
  | 0x063 => c.r.fpsr.toNat
  | 0x064 => wstat c.r
  | 0x070 => dirBits c.dir % 2 ^ 64
  | 0x071 => dirBits c.dir / 2 ^ 64
  | _ => 0

/-- An item as CTXRD delivers it: tagged items whole, others as RAW. -/
def itemRead (c : Ctx) (sel : Nat) : W :=
  if sel < 0x040 then tgetD c.ring sel nilW
  else if sel < 0x047 then tgetD c.g (sel - 0x040) nilW
  else if 0x048 ≤ sel ∧ sel < 0x050 then tgetD c.trap (sel - 0x048) nilW
  else rawW (itemVal c sel)

/-- The window item: wp, vwc, tw and both xvalid; a vwc outside 1 to 4 leaves it unchanged. -/
def windowWrite (r : Rec) (v : BitVec 64) : Rec :=
  let k := bitsN v 2 3
  if 1 ≤ k ∧ k ≤ 4 then { r with wp := v.extractLsb' 0 2, vwc := v.extractLsb' 2 3, tw := v.getLsbD 5, xvalidS := v.getLsbD 9, xvalidJ := v.getLsbD 10 }
  else r

/-- CTXWR of a field of the record. -/
def recWrite (r : Rec) (sel : Nat) (v : BitVec 64) : Rec :=
  let a : BitVec 59 := v.extractLsb' 0 59
  match sel with
  | 0x050 => { r with pc := a }
  | 0x051 => { r with lk := a }
  | 0x052 => { r with wsp := a }
  | 0x053 => { r with allocPtr := a }
  | 0x054 => { r with allocLim := a }
  | 0x055 => { r with rslogPtr := a }
  | 0x056 => { r with rslogLim := a }
  | 0x057 => { r with satbPtr := a }
  | 0x058 => { r with satbLim := a }
  | 0x059 => { r with cnt := v }
  | 0x05A => { r with pkr := v }
  | 0x05B => { r with xpcS := a }
  | 0x05C => { r with xpcJ := a }
  | 0x05D => { r with xaddr := a }
  | 0x05E => { r with xinfo := v }
  | 0x05F => { r with ctxStat := BitVec.ofNat 32 (r.ctxStat.toNat % 2 + 2 * bitsN v 1 24) }
  | 0x060 => { r with xstatS := BitVec.ofNat 32 (bitsN v 0 23) }
  | 0x061 => { r with xstatJ := BitVec.ofNat 32 (bitsN v 0 23) }
  | 0x062 => { r with xcause := v.extractLsb' 0 8 }
  | 0x063 => { r with fpsr := v.extractLsb' 0 12 }
  | 0x064 => windowWrite r v
  | _ => r

/-- An item as CTXWR changes it. A written pc ends a long or repeated instruction in progress. -/
def itemWrite (c : Ctx) (sel : Nat) (w : W) : Ctx :=
  let v := w.payload
  if sel < 0x040 then { c with ring := tset c.ring sel w }
  else if sel < 0x047 then { c with g := tset c.g (sel - 0x040) w }
  else if 0x048 ≤ sel ∧ sel < 0x050 then { c with trap := tset c.trap (sel - 0x048) w }
  else if sel = 0x070 then { c with dir := { c.dir with prio := v.extractLsb' 4 2, mask := v.extractLsb' 44 16 } }
  else if sel = 0x071 then { c with dir := { c.dir with deadline := if c.dir.wait = 0 then c.dir.deadline else v.extractLsb' 0 32 } }
  else { c with r := recWrite c.r sel v, repeated := if sel = 0x050 then none else c.repeated }

def ctxrdBody (rd rs : BitVec 5) (sel : BitVec 12) : Body_ :=
  onTarget rs false (fun st => decide (0x070 ≤ sel.toNat) || (st == .held || st == .lockup)) fun e n => do
    let s ← get
    putRd e rd (itemRead (s.ctx n) sel.toNat)

def ctxwrBody (rd rs : BitVec 5) (sel : BitVec 12) : Body_ := onTarget rs false isHeld fun e n => do
  modify fun s => s.modCtx n fun c => itemWrite c sel.toNat (xreg s e.x rd)
  pure .next

/-! ## The commands -/

def execSpawn (x : Exec) (rd rs rt : BitVec 5) (s : State) : Out := .next (issue x (.spawn rd rs rt) (spawnBody rd rs rt) s).tick
def execCtxhold (x : Exec) (rs : BitVec 5) (s : State) : Out := .next (issue x (.ctxhold rs) (ctxholdBody rs) s).tick
def execCtxrel (x : Exec) (rs : BitVec 5) (s : State) : Out := .next (issue x (.ctxrel rs) (ctxrelBody rs) s).tick
def execCtxkill (x : Exec) (rs : BitVec 5) (s : State) : Out := .next (issue x (.ctxkill rs) (ctxkillBody rs) s).tick
def execCtxend (x : Exec) (s : State) : Out := .next (issue x .ctxend ctxendBody s).tick
def execWait (x : Exec) (rd rs rt : BitVec 5) (s : State) : Out := .next (issue x (.wait rd rs rt) (waitBody rd rs rt) s).tick
def execWaitM (x : Exec) (rd rs rt : BitVec 5) (s : State) : Out := .next (issue x (.waitM rd rs rt) (waitMBody rd rs rt) s).tick
def execCtxrd (x : Exec) (rd rs : BitVec 5) (sel : BitVec 12) (s : State) : Out := .next (issue x (.ctxrd rd rs sel) (ctxrdBody rd rs sel) s).tick
def execCtxwr (x : Exec) (rd rs : BitVec 5) (sel : BitVec 12) (s : State) : Out := .next (issue x (.ctxwr rd rs sel) (ctxwrBody rd rs sel) s).tick

end Sys2Proof.Machine
end

