-- ==== Sys2Proof/Machine/Tlbi.lean ====
section
/-! DEFINITION. TLB maintenance (R220 to R224, R307). -/

namespace Sys2Proof.Machine

/-- Steps past the instruction whose wait ended: SYNC.V and SYNC.T (R222, R379). -/
def waitOver (s : State) (n : Nat) : State :=
  let x : Exec := .ctx (BitVec.ofNat 16 n)
  let s := setPend s x none
  endWait (setXpc (commitX s x) x (xpc s x + 4)) n

/-! ## Issue (R220) -/

/-- A TLBI begins. -/
def tlbiBegin (s : State) (x : Exec) (k : TlbiK) : State :=
  { s with tlbis := s.tlbis ++ [{ id := s.nextTlbi, by_ := x, world := xworld s x, kind := k }], nextTlbi := s.nextTlbi + 1 }

def tlbiVaBody (rs : BitVec 5) : Body_ := fun e => do
  let s ← get
  chkM (needSup e s)
  let w := xreg s e.x rs
  chkM (chk e 0 w (isPtr w || w.tag == 0x006))
  let va := vaOf w
  let page := bitsN va 12 47
  if isGlobal va then
    if homeDev va = devNo s then set (tlbiBegin s e.x (.globalVa page)) else pure ()
  else set (tlbiBegin s e.x (.va page))
  pure .next

def tlbiSpBody (rs : BitVec 5) : Body_ := fun e => do
  let s ← get
  chkM (needSup e s)
  let a := xreg s e.x rs
  chkM (chk e 0 a (a.tag == 0x001))
  set (tlbiBegin s e.x (.sp (a.payload.extractLsb' 0 12)))
  pure .next

def tlbiWBody : Body_ := fun e => do
  let s ← get
  chkM (needSup e s)
  set (tlbiBegin s e.x .w)
  pure .next

/-! ## Taking effect (R221, R307) -/

/-- A walk word lies on the path to a page; the root words have the key 63. -/
def onPath (e : TlbEntry) (page : Nat) : Bool :=
  !e.leaf && (decide (e.key % 64 ≠ 63) && e.key / 64 == page * 4096 / 2 ^ (e.key % 64))

/-- A TLBI removes an entry of a core or agent, or of the home translator (R220). -/
def removes (t : Tlbi) (home : Bool) (e : TlbEntry) : Bool :=
  e.world == t.world && (match t.kind with
    | .va page => !home && (tlbCovers e page || onPath e page)
    | .globalVa page => home && (tlbCovers e (page % 2 ^ 30) || onPath e (page % 2 ^ 30))
    | .sp sp => !home && (e.space == sp && !e.glob)
    | .w => true)

/-- Every store of the executor that issued a TLBI is visible at its home (R221): its posted stores, also those to global
addresses, and the appends that go with them. -/
def storesVisible (s : State) (x : Exec) : Bool :=
  let c := s.core (xcore x)
  !(c.stores.any fun p => p.who == x) && (!(c.appends.any fun p => p.who == x) && storesOut s x == 0)

/-- What a pending access keeps of tables that it read before a TLBI took effect at its core: nothing, so that it walks again. -/
def forgetWalk (p : Pend) : Pend := { p with once := [], words := p.words.filter fun w => !p.tab.contains w.1, tab := [] }

/-- The tracked pages whose global leaf a TLBI removes (R307). -/
def trackedBy (s : State) (t : Tlbi) : List (World × Nat × List (BitVec 16) × Bool) :=
  s.remote.tracker.filter fun r => r.1 == t.world && (match t.kind with
    | .globalVa page => r.2.1 == page
    | .w => true
    | _ => false)

/-- Every other device of the torus. -/
def otherDevices (s : State) : List (BitVec 16) :=
  ((List.range 65536).map (BitVec.ofNat 16)).filter fun d => d != devNo s && ((List.range 4).all fun i => decide (coordOf d i < dimSize s i))

/-- The devices that are told of a removed page: the page and the device. -/
def toTell (s : State) (t : Tlbi) : List (Nat × BitVec 16) :=
  (trackedBy s t).foldl (fun l r => l ++ (if r.2.2.2 then otherDevices s else r.2.2.1).map fun d => (r.2.1, d)) []

/-- Sends INV for the removed pages, numbered from 0; the tag is the TLBI's number with that of the message. -/
def tellInv (s : State) (t : Tlbi) (l : List (Nat × BitVec 16)) (k : Nat) : State × List (Nat × Nat) :=
  match l with
  | [] => (s, [])
  | (page, d) :: r =>
    let h : Hdr := ⟨d, devNo s, 0xFFFF, t.world, true, BitVec.ofNat 16 t.id, BitVec.ofNat 16 k⟩
    let q := tellInv (sendMsg s ⟨h, 5, .inv (BitVec.ofNat 47 page)⟩) t r (k + 1)
    (q.1, (d.toNat, k % 65536) :: q.2)

/-- Removes the entries of an agent. -/
def dropEntries (s : State) (t : Tlbi) (agent : Nat) : State :=
  { s with tlbs := tset s.tlbs agent ((tgetD s.tlbs agent []).filter fun e => !removes t (agent == homeTlb) e) }

/-- TLBI_TAKES_EFFECT at a core, at a sequencer or channel (256 on), or at the home translator (356). -/
def tlbiEffect (s : State) (id agent : Nat) : State :=
  match s.tlbis.find? fun t => t.id == id with
  | none => s
  | some t =>
    if !storesVisible s t.by_ ∨ t.done.contains agent = true ∨ homeTlb < agent then s
    else
      let s := dropEntries s t agent
      let s := if agent < 256 then wakePends s agent forgetWalk else s
      let r := if agent = homeTlb then tellInv s t (toTell s t) 0 else (s, [])
      { r.1 with tlbis := r.1.tlbis.map fun u => if u.id = id then { u with done := agent :: u.done, acks := u.acks ++ r.2 } else u }

/-! ## Completion (R222, R223) -/

/-- The TLBI has taken effect at an agent: it did, the core sleeps and applies it before its first fetch, or the agent holds
nothing that it removes. -/
def tookEffect (s : State) (t : Tlbi) (agent : Nat) : Bool :=
  t.done.contains agent || (!((tgetD s.tlbs agent []).any (removes t (agent == homeTlb)))
    && (agent != homeTlb || (trackedBy s t).isEmpty)) || (decide (agent < 256) && (!coreLive s agent || !((s.tile (tileOf agent)).power == .on)))
    || (decide (320 ≤ agent) && (decide (agent < 352) && ((s.tile (agent - 320)).dead || !((s.tile (agent - 320)).power == .on))))

/-- A pending access does not go on under a translation that it holds: its data came, and what it still writes needs no line. -/
def Pend.over (p : Pend) : Bool :=
  match p.why with
  | .line => p.ready && !p.excl
  | .maint | .outbound => p.ready
  | _ => true

/-- No access waits under a translation, at any core or sequencer (R222, R272): the accesses that used a removed entry are
performed. -/
def accessesDone (s : State) : Bool :=
  let ended := fun (p : Option Pend) => match p with | some p => p.over | none => true
  (s.cores.all fun c => c.2.stores.isEmpty && (c.2.appends.isEmpty && (c.2.heals.isEmpty && ended c.2.fic.pend)))
  && ((s.ctxs.all fun c => ended c.2.pend)
  && s.seqs.all fun q => match q.2.ld with | some l => l.lpa.isNone || l.word.isSome | none => true)

/-- TLBI_COMPLETE: SYNC.T of the context ends once no TLBI of it is left. -/
def tlbiDone (s : State) (id : Nat) : State :=
  match s.tlbis.find? fun t => t.id == id with
  | none => s
  | some t =>
    if !(storesVisible s t.by_ && (t.acks.isEmpty && (accessesDone s && (List.range (homeTlb + 1)).all (tookEffect s t)))) then s
    else
      let tracked := trackedBy s t
      let s := (List.range 352).foldl (fun s k => if (tgetD s.tlbs k []).isEmpty then s else dropEntries s t k) s
      let s := { s with tlbis := s.tlbis.filter (fun u => u.id != id), remote := { s.remote with tracker := s.remote.tracker.filter fun r => !tracked.contains r } }
      match t.by_ with
      | .fic _ => s
      | .ctx n =>
        let waits : Bool := match (s.ctx n.toNat).pend with | some p => p.why == .syncT | none => false
        if waits = true ∧ (s.tlbis.any fun u => u.by_ == t.by_) = false then waitOver s n.toNat else s

def execTlbiTakesEffect (id : Nat) (agent : BitVec 9) (s : State) : Out := .next (tlbiEffect s id agent.toNat).tick
def execTlbiComplete (id : Nat) (s : State) : Out := .next (tlbiDone s id).tick

/-! ## The commands -/

def execTlbiVa (x : Exec) (rs : BitVec 5) (s : State) : Out := .next (issue x (.tlbiVa rs) (tlbiVaBody rs) s).tick
def execTlbiSp (x : Exec) (rs : BitVec 5) (s : State) : Out := .next (issue x (.tlbiSp rs) (tlbiSpBody rs) s).tick
def execTlbiW (x : Exec) (s : State) : Out := .next (issue x .tlbiW tlbiWBody s).tick

end Sys2Proof.Machine
end

