-- ==== Sys2Proof/Machine/Complete.lean ====
section
/-! DEFINITION. The completion of accesses (R65 to R68, R138, R219), the fetch (R116), swaps (R63, R64, R71), expiries (R72) and
the drain of dying records (R62). -/

namespace Sys2Proof.Machine

/-- The body of an instruction. -/
def bodyOf (op : Op) : Body_ :=
  match op with
  | .iadd rd rs rt => iaddBody rd rs rt
  | .isub rd rs rt => isubBody rd rs rt
  | .imul rd rs rt => imulBody rd rs rt
  | .and rd rs rt => andBody rd rs rt
  | .or rd rs rt => orBody rd rs rt
  | .xor rd rs rt => xorBody rd rs rt
  | .andn rd rs rt => andnBody rd rs rt
  | .shl rd rs rt => shlBody rd rs rt
  | .shr rd rs rt => shrBody rd rs rt
  | .sar rd rs rt => sarBody rd rs rt
  | .ult rd rs rt => ultBody rd rs rt
  | .eq rd rs rt => eqBody rd rs rt
  | .ne rd rs rt => neBody rd rs rt
  | .mov rd rs => movBody rd rs
  | .tagof rd rs => tagofBody rd rs
  | .add rd rs rt => addBody rd rs rt
  | .sub rd rs rt => subBody rd rs rt
  | .mul rd rs rt => mulBody rd rs rt
  | .div rd rs rt => divBody rd rs rt
  | .rem rd rs rt => remBody rd rs rt
  | .neg rd rs => negBody rd rs
  | .numeq rd rs rt => numeqBody rd rs rt
  | .lt rd rs rt => ltBody rd rs rt
  | .le rd rs rt => leBody rd rs rt
  | .addi rd rs imm => addiBody rd rs imm
  | .movi rd imm => moviBody rd imm
  | .moviR rd imm => moviRBody rd imm
  | .ldc rd rs imm => ldcBody rd rs imm
  | .eqi rd rs imm => eqiBody rd rs imm
  | .lti rd rs imm => ltiBody rd rs imm
  | .lei rd rs imm => leiBody rd rs imm
  | .gti rd rs imm => gtiBody rd rs imm
  | .tagis rd rs imm => tagisBody rd rs imm
  | .kindis rd rs imm => kindisBody rd rs imm
  | .settag rd rs imm => settagBody rd rs imm
  | .shli rd rs imm => shliBody rd rs imm
  | .shri rd rs imm => shriBody rd rs imm
  | .sari rd rs imm => sariBody rd rs imm
  | .andi rd rs imm => andiBody rd rs imm
  | .fadd fd fs ft => faddBody fd fs ft
  | .fsub fd fs ft => fsubBody fd fs ft
  | .fmul fd fs ft => fmulBody fd fs ft
  | .fdiv fd fs ft => fdivBody fd fs ft
  | .fsqrt fd fs => fsqrtBody fd fs
  | .fma fd fs ft => fmaBody fd fs ft
  | .fmin fd fs ft => fminBody fd fs ft
  | .fmax fd fs ft => fmaxBody fd fs ft
  | .fneg fd fs => fnegBody fd fs
  | .fabs fd fs => fabsBody fd fs
  | .fmov fd fs => fmovBody fd fs
  | .fceq rd fs ft => fceqBody rd fs ft
  | .fclt rd fs ft => fcltBody rd fs ft
  | .fcle rd fs ft => fcleBody rd fs ft
  | .fmvgf fd rs => fmvgfBody fd rs
  | .fmvfg rd fs => fmvfgBody rd fs
  | .fcvtxf fd rs => fcvtxfBody fd rs
  | .fcvtfx rd fs => fcvtfxBody rd fs
  | .ldw rd rs imm => ldwBody rd rs imm
  | .ldwA rd rs imm => ldwABody rd rs imm
  | .ldwP rd rs imm => ldwPBody rd rs imm
  | .stw rd rs imm => stwBody rd rs imm
  | .stwR rd rs imm => stwRBody rd rs imm
  | .ldb rd rs imm => ldbBody rd rs imm
  | .ldh rd rs imm => ldhBody rd rs imm
  | .stb rd rs imm => stbBody rd rs imm
  | .sth rd rs imm => sthBody rd rs imm
  | .ldx rd rs rt => ldxBody rd rs rt
  | .stx rd rs rt => stxBody rd rs rt
  | .ldxA rd rs rt => ldxABody rd rs rt
  | .stxR rd rs rt => stxRBody rd rs rt
  | .car rd rs => carBody rd rs
  | .cdr rd rs => cdrBody rd rs
  | .rplaca rs rt => rplacaBody rs rt
  | .rplacd rs rt => rplacdBody rs rt
  | .cons rd rs rt => consBody rd rs rt
  | .memq rd rs rt => memqBody rd rs rt
  | .assq rd rs rt => assqBody rd rs rt
  | .walk rd rs rt => walkBody rd rs rt
  | .probe rd rs rt => probeBody rd rs rt
  | .alloc rd rs imm => allocBody rd rs imm
  | .copyw rd rs => copywBody rd rs
  | .fillw rd rs => fillwBody rd rs
  | .jr rs imm => jrBody rs imm
  | .jlr rs imm => jlrBody rs imm
  | .callwr rs imm => callwrBody rs imm
  | .retl => retlBody
  | .syscall => syscallBody
  | .wcall rs => wcallBody rs
  | .retx => retxBody
  | .brk => brkBody
  | .yield => yieldBody
  | .fence => fenceBody
  | .syncG => syncGBody
  | .syncV => syncVBody
  | .syncT => syncTBody
  | .mfs rd imm => mfsBody rd imm
  | .mts rs imm => mtsBody rs imm
  | .rdw rd imm => rdwBody rd imm
  | .wrw rs imm => wrwBody rs imm
  | .fbrd rd rs => fbrdBody rd rs
  | .fbwr rs rt => fbwrBody rs rt
  | .spawn rd rs rt => spawnBody rd rs rt
  | .ctxhold rs => ctxholdBody rs
  | .ctxrel rs => ctxrelBody rs
  | .ctxkill rs => ctxkillBody rs
  | .ctxend => ctxendBody
  | .wait rd rs rt => waitBody rd rs rt
  | .waitM rd rs rt => waitMBody rd rs rt
  | .ctxrd rd rs imm => ctxrdBody rd rs imm
  | .ctxwr rd rs imm => ctxwrBody rd rs imm
  | .cleanL rs => cleanLBody rs
  | .flushL rs => flushLBody rs
  | .invalL rs => invalLBody rs
  | .tlbiVa rs => tlbiVaBody rs
  | .tlbiSp rs => tlbiSpBody rs
  | .tlbiW => tlbiWBody
  | .setpkr rs => setpkrBody rs
  | .atomic op ord rd rs rt => atomicBody op ord rd rs rt
  | .ldpc rd off => ldpcBody rd off
  | .bz rs off => bzBody rs off
  | .bnz rs off => bnzBody rs off
  | .bnil rs off => bnilBody rs off
  | .bnnil rs off => bnnilBody rs off
  | .bt r cls off => btBody r cls off
  | .bnt r cls off => bntBody r cls off
  | .j off => jBody off
  | .jl off => jlBody off
  | .callw off => callwBody off
  | .retw => retwBody
  | .rep => fun _ => pure .next

/-! ## Fetching (R116, R255) -/

/-- The errors that a fetch finds in its L1I word (R51): none, one bit, which is corrected, or two, which lose the line. No entry
injects them, so that they are a free choice. -/
def l1iError (s : State) (core line : Nat) : Nat := Config.choice s.free (2 ^ 61 + 2 ^ 40 * core + line) % 3

/-- The word of memory that holds an instruction, through the L1I. -/
def fetchWord (e : Env) (lpa : Nat) (na : Bool) : M W := do
  let s ← get
  let line := lpa / 64
  match tget e.once line with
  | some l => pure (lineWord l (lpa / 8))
  | none =>
    let core := xcore e.x
    if recovering s core line then needM .held
    else
      match tget (s.core core).l1i line with
      | some l =>
        if l.st.hit then
          match l1iError s core line with
          | 0 => pure (lineWord l.data (lpa / 8))
          | 1 => do
            modify fun s => sarkCount s 2
            pure (lineWord l.data (lpa / 8))
          | _ => if 4 ≤ wbOut s core (homeNode s line) then needM .held else needM (.refetch line true)
        else needM (.line line false true false na false)
      | none => needM (.line line false true false na false)

/-- The instruction word at an address, with the checks of rank 1. -/
def fetchAt (e : Env) (pc : BitVec 59) : M (BitVec 32) := do
  let l ← translate e 2 pc 4 none
  let w ← fetchWord e (l.lpa pc) (pteNa l.pte)
  let word : BitVec 32 := if pc.getLsbD 2 then w.payload.extractLsb' 32 32 else w.payload.extractLsb' 0 32
  if w.tag = 0x006 then pure word else chkM (illegal 4 word)

/-- ILLEGAL_OPCODE: the fetch at pc with every check that precedes an instruction's own (R116, R117, R119, R140). A word
that passes them all has no effect here: its own command performs it. -/
def fetchBody : Body_ := fun e => do
  let s ← get
  chkM (pcChecks e s)
  let word ← fetchAt e (xpc s e.x)
  let s ← get
  match decodeInstr word with
  | .error sub => do
    chkM (busCheck { e with word := word } s)
    chkM (illegal sub word)
  | .ok .rep => do
    chkM (repPc { e with word := word } s)
    let next ← fetchAt e (xpc s e.x + 4)
    let s ← get
    chkM (busCheck { e with word := word } s)
    let _ ← chkM (repTarget e.x next)
    pure .done
  | .ok op => do
    chkM (busCheck { e with word := word } s)
    chkM (wordChecks e.x op word)
    pure .done

/-- Issues the fetch alone. -/
def issueFetch (x : Exec) (s : State) : State :=
  let s := bankRead s x
  if !canIssue s x then s
  else if faultDue s x then (match x with | .ctx n => takeFault s n.toNat | .fic _ => s)
  else
    match fetchBody { x := x, word := 0 } s with
    | (.ok _, t) => t
    | (.error (.exn f), _) => raiseX (clearBus s x) x f
    | (.error (.need n), _) => await s x 0 false true none n

def execIllegalOpcode (x : Exec) (s : State) : Out := .next (issueFetch x s).tick

/-! ## Completion (R66, R67, R138) -/

/-- The data of an answer, under the keys that the body looks them up by. The data of a read of the host's memory comes
from outside: a free value, unless the read failed. -/
def answered (s : State) (p : Pend) : Pend :=
  match p.why with
  | .remote => (match tget p.words 0 with | some w => { p with words := tset (tdel p.words 0) (globKey p.addr) w } | none => p)
  | .outbound =>
    { p with words := tset (tdel p.words 0) (p.needs.getD 0 / 8) ((tget p.words 0).getD ⟨0x006, Config.freeValue s.free 46⟩) }
  | _ => p

/-- A read of the host's memory is no longer outstanding. -/
def dropRead (s : State) (x : Exec) : State := { s with host := { s.host with reads := s.host.reads.filter fun r => r.1 != x } }

/-- A context that issues in its slot, or a fast interrupt context: what completes goes on at once. -/
def inSlot (s : State) (x : Exec) : Bool :=
  match x with
  | .ctx n => (s.ctx n.toNat).dir.state == .active && !(s.ctx n.toNat).stopped
  | .fic _ => true

/-- The record after a completion out of a slot: READY, or released so (R62). -/
def outReady (s : State) (x : Exec) : State := match x with | .ctx n => endWait s n.toNat | .fic _ => s

/-- The access completed with an exception: taken in the slot, or kept with fault = 1 (R66). -/
def completeFault (s : State) (x : Exec) (f : Exn) : State :=
  if inSlot s x then raiseX s x f
  else
    match x with
    | .ctx n => endWait (s.modCtx n.toNat fun c => { c with exn := some f, repeated := none, dir := { c.dir with fault := true } }) n.toNat
    | .fic _ => s

/-- The body that a pending access goes on with. -/
def pendBody (p : Pend) : Body_ :=
  if p.fetch then fetchBody
  else if p.rep then repBody p.word
  else match decodeInstr p.word with
    | .ok op => bodyOf op
    | .error _ => fun _ => pure .next

/-- What follows a body that went on to its end. A WAIT.M that waits stays as its body left it. -/
def completeOk (s : State) (x : Exec) (p : Pend) (go : Go) : State :=
  let live := inSlot s x
  let s := retire s x p.word p.rep go
  if live ∨ (go = .done ∧ p.fetch = false) then s else outReady s x

/-- A full store-fault latch at a completion. -/
def completeLatch (s : State) (x : Exec) : State :=
  match x with
  | .ctx n => if inSlot s x then takeLatch s n.toNat
      else endWait (s.modCtx n.toNat fun c => { c with dir := { c.dir with fault := true } }) n.toNat
  | .fic _ => s

/-- A field that an instruction changed takes its value; another keeps the value it has now. -/
def pick {α : Type} [DecidableEq α] (was now cur : α) : α := if now = was then cur else now

/-- The words of a table that an instruction changed, in the table as it is now. -/
def pickTbl (was now cur : Tbl W) : Tbl W :=
  now.foldl (fun t e => if tget was e.1 = some e.2 then t else tset t e.1 e.2) cur

/-- The record after an instruction that issued with `a` and left `b`, where it is now `c`. -/
def mergeRec (a b c : Rec) : Rec :=
  { pc := pick a.pc b.pc c.pc, wp := pick a.wp b.wp c.wp, vwc := pick a.vwc b.vwc c.vwc, tw := pick a.tw b.tw c.tw,
    lk := pick a.lk b.lk c.lk, fpBound := pick a.fpBound b.fpBound c.fpBound, fpBank := pick a.fpBank b.fpBank c.fpBank,
    xvalidS := pick a.xvalidS b.xvalidS c.xvalidS, xvalidJ := pick a.xvalidJ b.xvalidJ c.xvalidJ, wsp := pick a.wsp b.wsp c.wsp,
    allocPtr := pick a.allocPtr b.allocPtr c.allocPtr, allocLim := pick a.allocLim b.allocLim c.allocLim,
    rslogPtr := pick a.rslogPtr b.rslogPtr c.rslogPtr, rslogLim := pick a.rslogLim b.rslogLim c.rslogLim,
    satbPtr := pick a.satbPtr b.satbPtr c.satbPtr, satbLim := pick a.satbLim b.satbLim c.satbLim, cnt := pick a.cnt b.cnt c.cnt,
    pkr := pick a.pkr b.pkr c.pkr, xpcS := pick a.xpcS b.xpcS c.xpcS, xpcJ := pick a.xpcJ b.xpcJ c.xpcJ,
    xcause := pick a.xcause b.xcause c.xcause, xaddr := pick a.xaddr b.xaddr c.xaddr, xinfo := pick a.xinfo b.xinfo c.xinfo,
    fpsr := pick a.fpsr b.fpsr c.fpsr, ctxStat := pick a.ctxStat b.ctxStat c.ctxStat, xstatS := pick a.xstatS b.xstatS c.xstatS,
    xstatJ := pick a.xstatJ b.xstatJ c.xstatJ }

/-- Gives a context a set of registers. -/
def withRegs (s : State) (n : Nat) (f : RegFile) : State := s.modCtx n fun c => { c with r := f.r, ring := f.ring, g := f.g, trap := f.trap }

/-- Runs the rest of an instruction whose access completes with the registers it issued with (R66): what it writes lands in the
record as it is now, which CTXWR may have changed meanwhile. -/
def asIssued (s : State) (x : Exec) (p : Pend) (f : State → Except Stop Go × State) : Except Stop Go × State :=
  match x, p.regs with
  | .ctx n, some was =>
    let now := s.ctx n.toNat
    let cur : RegFile := { r := now.r, ring := now.ring, g := now.g, trap := now.trap }
    if cur = was then f s
    else
      match f (withRegs s n.toNat was) with
      | (.ok go, u) =>
        let got := (u.ctx n.toNat)
        (.ok go, withRegs u n.toNat { r := { mergeRec was.r got.r cur.r with pc := got.r.pc }, ring := pickTbl was.ring got.ring cur.ring,
                                      g := pickTbl was.g got.g cur.g, trap := pickTbl was.trap got.trap cur.trap })
      | r => r
  | _, _ => f s

/-- Goes on with a pending access whose data came. -/
def goOn (s : State) (x : Exec) (p : Pend) : State :=
  let p' := answered s p
  let t := setPend (dropRead s x) x none
  let e : Env := { x := x, word := p.word, once := p'.once, words := p'.words, contended := p'.contended, bar := p'.bar }
  match asIssued t x p (pendBody p e) with
  | (.ok go, u) => completeOk u x p go
  | (.error (.exn f), u) => completeFault (kept t x u) x f
  | (.error (.need .held), u) => keptHeals s x u
  | (.error (.need .latch), _) => completeLatch t x
  | (.error (.need n), _) => await t x p.word p.rep p.fetch (some p') n

/-- The remote fault that an access completed with. -/
def faultOf (s : State) (x : Exec) : Option Exn := match x with | .ctx n => (s.ctx n.toNat).exn | .fic _ => none

/-- Whoever executes belongs to a dying record. -/
def dyingX (s : State) (x : Exec) : Bool := match x with | .ctx n => (s.ctx n.toNat).dir.dying | .fic _ => false

/-- An outstanding access completes. A dying record only drains. -/
def complete (s : State) (x : Exec) (p : Pend) : State :=
  if dyingX s x then setPend (dropRead s x) x none
  else
    match faultOf s x with
    | some f =>
      let s := setPend s x none
      let s := match x with | .ctx n => s.modCtx n.toNat fun c => { c with exn := none } | .fic _ => s
      completeFault s x f
    | none => goOn s x p

/-- During a substitution, a context that reaches an instruction boundary in its slot is swapped out (R487). -/
def substOut (s : State) (x : Exec) : State :=
  match x with
  | .ctx n => if (s.core (coreOf n.toNat)).subst ∧ (s.ctx n.toNat).slot.isSome ∧ inSlot s x then swapOutReady s n.toNat else s
  | .fic _ => s

/-- ACCESS_COMPLETE: data, an acknowledgement or a fault came for the access of an instruction, or for its fetch. -/
def accessComplete (s : State) (x : Exec) : State :=
  match pendOf s x with
  | some p => (match p.why with
    | .line | .maint | .remote => if p.ready then substOut (complete (closeOwn s x p) x p) x else s
    | .outbound => substOut (complete s x p) x
    | _ => s)
  | none => s

/-- WALK_READ_COMPLETE: the read of a table walk returns, and the walk proceeds, faults, or ends (R219). -/
def walkComplete (s : State) (x : Exec) : State :=
  match pendOf s x with
  | some p => if p.why = .walk ∧ p.ready = true then substOut (complete s x p) x else s
  | none => s

def execAccessComplete (x : Exec) (s : State) : Out := .next (accessComplete s x).tick
def execWalkReadComplete (x : Exec) (s : State) : Out := .next (walkComplete s x).tick

/-- SYNC_V_COMPLETE (R379): every write that was outstanding when SYNC.V issued is performed. -/
def syncVDone (s : State) (n : Nat) : State :=
  match (s.ctx n).pend with
  | some p => if p.why = .syncV ∧ (p.words.all fun k => !(valleyWrites s).contains k.1) = true then waitOver s n else s
  | none => s

def execSyncVComplete (lcn : BitVec 16) (s : State) : Out := .next (syncVDone s lcn.toNat).tick

/-! ## Swaps (R63, R64, R71) -/

/-- The head of the highest ready queue that is not empty. -/
def nextReady (s : State) (core : Nat) : Option Nat :=
  ((s.core core).readyQ.filter fun n => (s.ctx n).slot.isNone).foldl (fun (a : Option Nat) n =>
    match a with
    | some m => if (s.ctx m).dir.prio.toNat < (s.ctx n).dir.prio.toNat then some n else a
    | none => some n) none

/-- A swap that starts moves records, and meets an error injected in the Thatch store (R466). -/
def storeAccess (s : State) (core : Nat) : State :=
  match (s.core core).swaps with
  | w :: _ => if !w.started && ((coreRuns s core || w.out.isSome) && coreArmed s core 2) then arrayAccess s core 2 else s
  | [] => s

/-- SWAP_START: the first queued swap starts once no earlier one is in progress; the incoming context is chosen. A slot
that is free and finds no READY context stays idle. -/
def swapStart (s : State) (core : Nat) : State :=
  let s := storeAccess s core
  let c := s.core core
  match c.swaps with
  | [] => s
  | w :: rest =>
    if w.started ∨ !coreRuns s core ∧ w.out = none then s
    else
      let inc := if c.testing = some w.slot ∨ c.halting = true then none else nextReady s core
      if w.out = none ∧ inc = none then s.setCore core { c with swaps := rest }
      else s.setCore core { c with swaps := { w with started := true, inc := inc } :: rest,
                                   readyQ := match inc with | some n => c.readyQ.filter (fun m => m != n) | none => c.readyQ }

/-- The outgoing context leaves its slot for the state its swap gives it, unless it has left ACTIVE otherwise (R62). -/
def leaveSlot (s : State) (n : Nat) (st : CState) : State :=
  let s := s.modCtx n fun c => { c with slot := none, stopped := false }
  if (s.ctx n).dir.state ≠ .active ∨ (s.ctx n).dir.dying = true then s
  else if st = .ready then makeReady s n
  else s.modCtx n fun c => { c with dir := { c.dir with state := st } }

/-- The incoming context is ACTIVE in a slot; with fault = 1 it takes its exception (R66). -/
def takeSlot (s : State) (core slot n : Nat) : State :=
  let s := { s with seq := s.seq + 1 }
  let s := s.modCtx n fun c => { c with slot := some slot, since := s.seq, dir := { c.dir with state := .active } }
  let s := s.modCore core fun k => { k with slots := tset k.slots slot n, ghist := tdel k.ghist slot }
  substOut (if (s.ctx n).dir.fault then takeFault s n else s) (.ctx (BitVec.ofNat 16 n))

/-- SWAP_COMPLETE: both records are transferred. The appends of the outgoing context are performed before (R268). -/
def swapEnd (s : State) (core : Nat) : State :=
  let c := s.core core
  match c.swaps with
  | [] => s
  | w :: rest =>
    let ready : Bool := match w.out with | some n => appendsDone s n | none => true
    if !w.started ∨ !ready then s
    else
      let s := match w.out with
        | some n => leaveSlot (countEvent s core (evWho (s.ctx n)) 0x0E) n w.goal
        | none => s
      let s := s.modCore core fun k => { k with slots := tdel k.slots w.slot }
      let s := match w.inc with
        | some n =>
          let s := takeSlot s core w.slot n
          if w.out.isNone then countEvent s core (evWho (s.ctx n)) 0x0E else s
        | none => s
      s.modCore core fun k => fillSlot { k with swaps := rest ++ k.swaps.drop (rest.length + 1) }

def execSwapStart (core : BitVec 8) (s : State) : Out := .next (swapStart s core.toNat).tick
def execSwapComplete (core : BitVec 8) (s : State) : Out := .next (swapEnd s core.toNat).tick

/-- The ACTIVE context of lowest priority, the one longest ACTIVE among several. -/
def preemptee (s : State) (core : Nat) : Option Nat :=
  ((s.core core).slots.map fun e => e.2).foldl (fun (a : Option Nat) n =>
    let c := s.ctx n
    if c.dir.state ≠ .active ∨ c.stopped = true then a
    else
      match a with
      | some m =>
        let d := s.ctx m
        if c.dir.prio.toNat < d.dir.prio.toNat ∨ (c.dir.prio = d.dir.prio ∧ c.since < d.since) then some n else a
      | none => some n) none

/-- No slot of the core is free. -/
def slotsFull (s : State) (core : Nat) : Bool := (freeSlot (s.core core)).isNone

/-- PREEMPTION (R63): a READY context that no queued swap takes has a higher priority than some ACTIVE one. -/
def preempt (s : State) (core : Nat) : State :=
  match preemptee s core with
  | none => s
  | some n =>
    let above := (s.core core).readyQ.filter fun m => decide ((s.ctx n).dir.prio.toNat < (s.ctx m).dir.prio.toNat)
    let queued := (s.core core).swaps.filter fun w => !w.started
    if slotsFull s core ∧ queued.length < above.length then swapOutReady s n else s

/-- QUANTUM_EXPIRY (R64). -/
def quantumEnd (s : State) (n : Nat) : State :=
  let c := s.ctx n
  let core := coreOf n
  let waiting := (s.core core).readyQ.any fun m => decide (c.dir.prio.toNat ≤ (s.ctx m).dir.prio.toNat)
  if c.dir.state = .active ∧ c.stopped = false ∧ dval s 0x3200 0x03 ≠ 0 ∧ slotsFull s core = true ∧ waiting = true then swapOutReady s n else s

def execPreemption (core : BitVec 8) (s : State) : Out := .next (preempt s core.toNat).tick
def execQuantumExpiry (lcn : BitVec 16) (s : State) : Out := .next (quantumEnd s lcn.toNat).tick

/-! ## Expiries and drains -/

/-- DEADLINE_EXPIRY (R72 to R74, R82): a WAIT or WAIT.M with a deadline ends with rd := FIXNUM 0. Another wait, which has a
deadline only by CTXWR, ends with pc at its instruction: an access that is outstanding stays so, and the wait of SYNC.G and of a
slot is given up (log entry 32). -/
def expire (s : State) (n : Nat) : State :=
  let c := s.ctx n
  if c.dir.wait = 0 ∨ c.dir.deadline = 0 then s
  else if c.dir.wait = 4 ∨ c.dir.wait = 5 then endWait (wakeDevice (s.setCtx n (setCtxReg c c.waitRd.toNat (fixW 0)))) n
  else endWait (wakeDevice (if c.dir.wait = 1 then s else s.setCtx n { c with pend := none })) n

/-- CONTEXT_DRAIN_COMPLETE (R62). -/
def drainEnd (s : State) (n : Nat) : State := if drainDone (s.ctx n) then becomeFree s n else s

def execDeadlineExpiry (lcn : BitVec 16) (s : State) : Out := .next (expire s lcn.toNat).tick
def execContextDrainComplete (lcn : BitVec 16) (s : State) : Out := .next (drainEnd s lcn.toNat).tick

end Sys2Proof.Machine
end

