-- ==== Sys2Proof/Machine/Sleep.lean ====
section
/-! DEFINITION. Tile sleep (R445), entry to the fast interrupt context (R103, R181, R182), migrations that stay unresolved (R317),
and software's writes of DB_REMOTE and MSIX_SEND (R345, R415). -/

namespace Sys2Proof.Machine

/-! ## Tile sleep -/

/-- A core of a tile is idle: no slot holds a context, none is READY, the FIC has nothing to do, no access is outstanding. -/
def coreIdle (c : Core) : Bool :=
  (c.slots == [] && (c.readyQ == [] && c.swaps == [])) &&
  ((c.fic.mode == .idle && (c.fic.pending == [] && (!c.fic.nmi && (c.fic.pend == none && c.fic.storesOut == 0)))) &&
  ((c.stores == [] && (c.appends == [] && (c.heals == [] && c.retries == []))) &&
  ((c.l1d.all fun l => l.2.st.stable) && c.l1i.all fun l => l.2.st.stable)))

/-- A tile is idle (R445). -/
def tileIdle (s : State) (t : Nat) : Bool :=
  let x := s.tile t
  ((List.range 8).all fun k => coreIdle (s.core (8 * t + k))) &&
  ((s.ctxs.all fun e => tileOf (coreOf e.1) != t || (e.2.pend.isNone && e.2.dir.storesOut == 0)) &&
  ((x.prioQ == [] && x.sf.all fun e => e.2.txn.isNone) &&
  ((s.sq (64 + t)).st != .running && ((s.sq (64 + t)).st != .waiting && s.mesh.all fun m => m.tile != t))))

/-- After nap_idle cycles of idleness the tile gates its fast clock. -/
def tileNapNow (s : State) (t : Nat) : State :=
  let x := s.tile t
  if x.power = .on ∧ x.waking = false ∧ x.dead = false ∧ tileIdle s t = true then s.setTile t { x with power := .nap } else s

/-- After doze_idle of unbroken NAP it stops its PLL; doze_idle 0 disables that (R450). -/
def tileDozeNow (s : State) (t : Nat) : State :=
  let x := s.tile t
  if x.power = .nap ∧ x.waking = false ∧ tileIdle s t = true ∧ dval s 0x0402 0x02 ≠ 0 then s.setTile t { x with power := .doze } else s

/-- The tile runs again; its cores and its engine apply the GC write in progress before anything else (R258), and
their TLBs the TLBIs that were acknowledged for them (R223). -/
def tileAwake (s : State) (t : Nat) : State :=
  let s := s.modTile t fun x => { x with power := .on, waking := false }
  let mine := fun (a : Nat) => (decide (a < 256) && tileOf a == t) || a == 320 + t
  let s := { s with gcLag := s.gcLag.filter fun a => !mine a }
  s.tlbis.foldl (fun s u => (((List.range 8).map fun k => 8 * t + k) ++ [320 + t]).foldl (fun s a => if u.done.contains a then s else tlbiEffect s u.id a) s) s

/-- The fast clock of a waking tile runs its first cycle. -/
def tileWakeDone (s : State) (t : Nat) : State := if (s.tile t).waking then tileAwake s t else s

def execTileNap (tile : BitVec 5) (s : State) : Out := .next (tileNapNow s tile.toNat).tick
def execTileDoze (tile : BitVec 5) (s : State) : Out := .next (tileDozeNow s tile.toNat).tick
def execTileWakeComplete (tile : BitVec 5) (s : State) : Out := .next (tileWakeDone s tile.toNat).tick

/-! ## The fast interrupt context -/

/-- The core that NMI_N is directed to (R182). -/
def nmiCore (s : State) : Nat :=
  let k := dval s 0x0208 0x01 % 256
  if (s.tile (tileOf k)).dead then ((List.range 256).find? fun c => !(s.tile (tileOf c)).dead).getD k else k

/-- The modes in which a FIC exists: its tile is powered or in retention (R438). -/
def ficThere (m : Mode) : Bool := match m with | .off | .standby | .loader => false | _ => true

/-- NMI_N makes an NMI pending; one aimed at a FIC in LOCKUP is held and logged. -/
def nmi (s : State) : State :=
  if !ficThere s.mg.mode then s
  else
    let k := nmiCore s
    let s := wakeDevice s
    let s := wakeTile (s.modCore k fun c => { c with fic := { c.fic with nmi := true } }) (tileOf k)
    if (s.core k).fic.mode = .lockup then logFault s 0x13 0 k (siteOf s k) 0 [] else s

def execNmiNAssert (s : State) : Out := .next (nmi s).tick

/-- A FIC can take a request: its core is clocked, FICs run, and the entry to SERVICE found fic_vec good (R172). -/
def ficReady (s : State) (core : Nat) : Bool :=
  coreUp s core && (ficRuns (modeAt s (tileOf core)) && ((s.core core).fic.pend.isNone && s.svc.ficVec.isSome))

/-- Entry to NMI service, from IDLE or at an instruction boundary of IRQ (R104, R182). -/
def ficNmi (s : State) (core : Nat) : State :=
  let f := (s.core core).fic
  if ficReady s core ∧ f.nmi = true ∧ (f.mode = .idle ∨ f.mode = .irq) then
    s.modCore core fun c =>
      { c with fic := { f with mode := .nmi, nmi := false, npc := if f.mode = .irq then f.pc else f.npc, fromIrq := f.mode == .irq,
                               cause := 0x210100, pc := s.svc.ficVec.getD 0 + 0x40, repeated := none } }
  else s

def execFicNmiEntry (core : BitVec 8) (s : State) : Out := .next (ficNmi s core.toNat).tick

/-- The lowest-numbered pending source, with its detail. -/
def lowestPending (f : Fic) : Option (Nat × BitVec 64) :=
  f.pending.foldl (fun (a : Option (Nat × BitVec 64)) e =>
    match a with
    | some b => if e.1 < b.1 then some e else a
    | none => some e) none

/-- fic_info at delivery: of a memory controller's source it holds MC_EVENT as it then stands (R295). -/
def infoNow (s : State) (src : Nat) (info : BitVec 64) : BitVec 64 :=
  if 0x80 ≤ src ∧ src < 0x90 then (s.mc (src - 0x78)).event.setWidth 64 else if 0x90 ≤ src ∧ src < 0x98 then (s.mc (src - 0x90)).event.setWidth 64 else info

/-- Entry to IRQ service; a pending NMI is taken first (R181). The delivery of 0x64 ends the marks of completed groups
(R362). -/
def ficIrq (s : State) (core : Nat) : State :=
  let f := (s.core core).fic
  match lowestPending f with
  | some (src, info) =>
    if ficReady s core ∧ f.nmi = false ∧ f.mode = .idle then
      { s with collNote := if src = 0x64 then 0 else s.collNote }.modCore core fun c =>
        { c with fic := { f with mode := .irq, pending := tdel f.pending src, cause := BitVec.ofNat 64 (src + 0x200000), info := infoNow s src info,
                                 pc := s.svc.ficVec.getD 0, repeated := none } }
    else s
  | none => s

def execFicIrqEntry (core : BitVec 8) (s : State) : Out := .next (ficIrq s core.toNat).tick

/-! ## Migration, DB_REMOTE and MSIX_SEND -/

/-- 10 ms without an answer: Sarking is told, and the queries go on (R317). -/
def migLate (s : State) (n : Nat) : State :=
  let c := s.ctx n
  if c.dir.state = .migrating ∧ c.migSent = true then
    logFault s 0x15 0 (devNo s).toNat 0xFFFF (c.migVa.setWidth 64) (toBytes n 4 ++ toBytes c.migId.toNat 4)
  else s

def execMigUnresolved (lcn : BitVec 16) (s : State) : Out := .next (migLate s lcn.toNat).tick

/-- A write of DB_REMOTE by a context or FIC. -/
def dbRemote (s : State) (x : Exec) (va : BitVec 59) (v : BitVec 64) : State :=
  if canIssue s x then
    match sendDoorbell { x := x, word := 0 } va v s with
    | (.ok _, t) => t
    | (.error _, _) => s
  else s

def execDbRemoteWrite (x : Exec) (va : BitVec 59) (v : BitVec 64) (s : State) : Out := .next (dbRemote s x va v).tick

def execMsixSendWrite (x : Exec) (va : BitVec 59) (v : BitVec 64) (s : State) : Out :=
  let _ := va
  .next (if canIssue s x then msixSend s v else s).tick

end Sys2Proof.Machine
end

