-- ==== Sys2Proof/Machine/Transitions.lean ====
section
/-! DEFINITION. The course of mode transitions (R438 to R445): acknowledgements, entry to the new mode, the triggers that waited,
DROWSE and the end of RECOVERY. -/

namespace Sys2Proof.Machine

/-! ## Stopping and resuming the slots -/

/-- An ACTIVE context leaves its slot at an instruction boundary; a pending access is kept (R66, R438). -/
def stopCtx (s : State) (n : Nat) : State :=
  let c := s.ctx n
  if c.pend.isSome then
    leaveSlot (s.setCtx n { c with dir := { c.dir with wait := if c.dir.wait = 0 then 1 else c.dir.wait } }) n .waitMem
  else leaveSlot s n .ready

/-- The slots of a core are emptied: queued swaps end, and the other ACTIVE contexts are swapped out. -/
def haltCore (s : State) (k : Nat) : State :=
  let c := s.core k
  let s := s.setCore k { c with halting := true, swaps := [], slots := [] }
  let s := c.swaps.foldl (fun s w =>
    let s := match w.out with | some n => leaveSlot s n w.goal | none => s
    match w.inc with | some n => makeReady s n | none => s) s
  let left := c.slots.filter fun e => !(c.swaps.any fun w => w.out == some e.2)
  left.foldl (fun s e => stopCtx s e.2) s

/-- The appends of every context in a slot of the core are performed (R268). -/
def coreQuiet (s : State) (k : Nat) : Bool := (s.core k).slots.all fun e => appendsDone s e.2

/-- The cores of a tile. -/
def tileCores (t : Nat) : List Nat := (List.range 8).map fun k => 8 * t + k

/-- Issue resumes on every core that no substitution stops. -/
def resume (s : State) : State :=
  { s with cores := s.cores.map fun c => (c.1, if c.2.subst then c.2 else fillSlot { c.2 with halting := false }) }

/-! ## The end of a transition -/

/-- The modes with the directory form of coherence (R233). -/
def dirForm (m : Mode) : Bool := m == .bringup || (m == .selftest || m == .recovery)

/-- The modes that keep a base. -/
def hasBase (m : Mode) : Bool := m == .drowse || (m == .quiesce || m == .hold)

/-- The state a command leaves. -/
def ran (s : State) (o : Out) : State := match o with | .next t => t | _ => s

/-- What DROWSE held is handled as the new mode handles it (R439, R442). -/
def runHeld (s : State) (h : Held) : State :=
  ran s (match h with
    | .rload h addr size acquire => execRload h addr size acquire s
    | .rstore h addr word size mask => execRstore h addr word size mask s
    | .ratom h addr word expected op ord => execRatom h addr word expected op ord s
    | .doorbell h lcn gen events origin hops => execDoorbell h lcn gen events origin hops s
    | .inv h page => execInv h page s
    | .migrate h pkt => execMigrate h pkt s
    | .coll port m => execColl port m s
    | .bar0Write lpa v => .next (hostWrite s lpa.toNat v)
    | .bar4Read off len => execBar4Read off len s
    | .bar4Write off data ep => execBar4Write off data ep s)

/-- All of it, in order. -/
def runAllHeld (s : State) : State := s.mg.held.foldl runHeld { s with mg := { s.mg with held := [] } }

/-- What the new mode does on entry, beside its number. -/
def onEntry (s : State) (m : Mode) : State :=
  match m with
  | .safe =>
    takeSnapshot { s with pins := { s.pins with safe := true }, cores := s.cores.map fun c => (c.1, { c.2 with subst := false }) }
  | .quiesce => copyBanks s
  | .service | .degraded | .recovery => resume s
  | _ => s

/-- The conditions of DROWSE on the device (R445). -/
def drowseOk (s : State) : Bool :=
  decide (dval s 0x0200 0x05 ≠ 0) && ((s.mg.mode == .service || s.mg.mode == .degraded) &&
  (((List.range 32).all fun t => (s.tile t).dead || ((s.tile t).power == .off || ((s.tile t).power == .doze && !(s.tile t).waking))) &&
  ((s.chans.all fun c => c.2.st != .running) && ((s.groups.all fun g => !g.2.st.busy) &&
  (s.remote.ops == [] && s.ctxs.all fun c => c.2.dir.state != .migrating)))))

/-- A waiting trigger is applied where R441 permits it from the new mode, else dropped (R443). -/
def applyTrigger (s : State) (m : Mode) : State :=
  match m with
  | .recovery => toRecovery s
  | .degraded => toDegraded s
  | .quiesce | .hold => if s.mg.mode = .service ∨ s.mg.mode = .degraded then beginTrans s m s.mg.mode else s
  | .safe => toSafe s 0
  | .drowse => if drowseOk s then beginTrans s .drowse s.mg.mode else s
  | .service => wakeDevice s
  | _ => s

/-- The waiting triggers, in the order of R443. -/
def nextTrigger (s : State) : State :=
  [Mode.safe, .recovery, .degraded, .quiesce, .hold, .drowse, .service].foldl (fun s m =>
    if s.mg.trans.isNone ∧ s.mg.waiting.contains m = true then
      applyTrigger { s with mg := { s.mg with waiting := s.mg.waiting.filter fun w => w != m } } m
    else s) s

/-- Step 3 of R442. -/
def finishTrans (s : State) (t : Trans) : State :=
  let old := s.mg.mode
  let target := if hasBase old ∧ (t.target = .service ∨ t.target = .degraded) then s.mg.base else t.target
  let s := if dirForm old != dirForm target then flushTracked s else s
  let s := if target = .hold then groupsError s (fun _ _ => true) 0x08 else s
  let s := onEntry (enterMode s target t.base) target
  let s := if old = .drowse then runAllHeld s else s
  nextTrigger s

/-! ## Acknowledgements -/

/-- A tile carries out the command of a transition: in a mode without issue its slots are empty; leaving DROWSE it wakes. -/
def tileCommand (s : State) (t : Nat) (target : Mode) : State :=
  let s := if issuing target then s else (tileCores t).foldl haltCore s
  if s.mg.mode = .drowse ∧ issuing target then tileAwake s t else s

/-- A block acknowledges (R442 step 2). A tile does so once the crossings that it ordered before have taken effect (R21). -/
def ack (s : State) (b : Nat) : State :=
  match s.mg.trans with
  | none => s
  | some t =>
    if t.target = .loader ∨ t.target = .standby then s
    else if b < 32 ∧ t.waiting.contains b = true ∧ ((s.tile b).dead || (tileCores b).all (coreQuiet s)) = false then s
    else
      let s := if b < 32 ∧ t.waiting.contains b = true ∧ (s.tile b).dead = false then tileCommand s b t.target else s
      let left := t.waiting.filter fun k => k != b && !(decide (k < 32) && (s.tile k).dead)
      let t := { t with waiting := left }
      let s := { s with mg := { s.mg with trans := some t } }
      if left = [] then finishTrans s t else s

def execTransitionAck (block : BitVec 9) (s : State) : Out := .next (ack s block.toNat).tick

/-- A block that has not acknowledged a transition to SAFE: reported, and its domain gated (R442). -/
def gateLate (s : State) (b : Nat) : State :=
  if b < 32 then (declareTile s b 0x08 0).modTile b fun t => { t with power := .off }
  else setPd (logFault s 0x12 2 b 0xFFFF 0 []) b .off

/-- A bound has passed (R442): late tiles are dead and RECOVERY follows; another late block takes the device to SAFE; SAFE
waits for nobody. -/
def ackLate (s : State) : State :=
  match s.mg.trans with
  | none => s
  | some t =>
    if t.target = .loader ∨ t.target = .standby ∨ t.waiting = [] then s
    else if t.target = .safe then
      let s := t.waiting.foldl gateLate s
      let t := { t with waiting := [] }
      finishTrans { s with mg := { s.mg with trans := some t } } t
    else if t.waiting.all fun b => decide (b < 32) then
      let s := t.waiting.foldl (fun s b => declareTile s b 0x08 0) s
      match s.mg.trans with
      | some u => let u := { u with waiting := [] }
                  if u.target = t.target then finishTrans { s with mg := { s.mg with trans := some u } } u else s
      | none => s
    else
      let late := t.waiting.filter fun b => decide (32 ≤ b)
      let s := (t.waiting.filter fun b => decide (b < 32)).foldl (fun s b => declareTile s b 0x08 0) s
      toSafe (late.foldl (fun s b => logFault s 0x12 2 b 0xFFFF 0 []) s) 0x12

def execTransitionAckTimeout (s : State) : Out := .next (ackLate s).tick

/-! ## DROWSE and RECOVERY -/

/-- The device enters DROWSE after drowse_idle of the conditions of R445. -/
def execDrowseEntry (s : State) : Out :=
  .next (if drowseOk s then beginTrans s .drowse s.mg.mode else s).tick

/-- Re-verification of the snoop-filter arrays ends (R441). -/
def reverified (s : State) (pass : Bool) : State :=
  if s.mg.mode = .recovery ∧ s.mg.trans.isNone then
    if pass ∧ dval s 0x0200 0x04 = 0 then beginTrans s .degraded .degraded else trigger s true
  else s

def execRecoveryReverifyDone (pass : Bool) (s : State) : Out := .next (reverified s pass).tick

end Sys2Proof.Machine
end

