-- ==== Sys2Proof/Machine/Transmit.lean ====
section
/-! DEFINITION. The sending side of a Laraor port (R330, R334, R335, R340): which message it sends next, the flit that it fills in each
flit time, and the flits whose arrival marks one. A port has one flit time of its own for each IDLE, DATA or CREDIT flit that arrives on
it, both directions of a link running at one rate. -/

namespace Sys2Proof.Machine

/-! ## The device's own messages -/

/-- The port of a link-local message (R342). -/
def Sent.link (m : Sent) : Option Nat :=
  match m.body with
  | .coll p _ | .imgreq p _ | .imgrel p _ _ _ => some p.toNat
  | _ => none

/-- The route of a message of the device's own that has a number of units (R334, R337 to R341). -/
def ownRoute (s : State) (m : Sent) (len : Nat) : Route :=
  match m.link with
  | some p => if usable s p && decide (len ≤ tgetD (s.port p).credits m.vc.toNat 0) then .onward p m.vc.toNat false else .wait
  | none => if m.h.dest = devNo s then .discard else routeOf s m.h m.vc.toNat none len false

/-- The bytes of a message with the vc and dl of its next hop (R342). -/
def stamped (m : List (BitVec 8)) (vc : Nat) (d1 : Bool) : List (BitVec 8) := m.set 0x0A (BitVec.ofNat 8 (vc + 8 * b2n d1))

/-- A message that a port may send next: its channel and class, its bytes, and its place among the waiting ones, or none for a transit
message, whose credits TRANSIT_FORWARD took. -/
structure TxReady where
  vc    : Nat
  d1    : Bool
  bytes : List (BitVec 8)
  own   : Option Nat
  deriving DecidableEq, Repr

/-- The device's own messages that may leave on a port: in order, none before an earlier one of its channel to its destination. -/
def ownReady (s : State) (p : Nat) : List TxReady :=
  (s.remote.waiting.zipIdx.foldl (fun (a : List TxReady × List (BitVec 3 × BitVec 16)) (m, i) =>
    if a.2.contains (m.vc, m.h.dest) then a
    else
      let b := m.out
      let held := (m.vc, m.h.dest) :: a.2
      match ownRoute s m (b.length / 16) with
      | .onward q vc d1 => if q = p then (a.1 ++ [⟨vc, d1, stamped b vc d1, some i⟩], held) else (a.1, held)
      | _ => (a.1, held)) ([], [])).1

/-- The messages that a port may send next (R335). -/
def portReady (s : State) (p : Nat) : List TxReady :=
  (s.port p).txq.map (fun m => ⟨m.1.toNat, false, m.2, none⟩) ++ ownReady s p

/-- The next message of a port: VC 4 first, then the others in turn after the one served last (R335). -/
def nextMsg (s : State) (p : Nat) : Option TxReady :=
  let l := portReady s p
  (4 :: (List.range 8).map fun k => ((s.port p).txVc.toNat + 1 + k) % 8).findSome? fun vc => l.find? fun r => r.vc == vc

/-- Starts a message on a port: it leaves its queue, and its credits are spent (R334). -/
def startMsg (s : State) (p : Nat) (r : TxReady) : State :=
  let q := s.port p
  let q := { q with txRest := r.bytes, txVc := if r.vc = 4 then q.txVc else BitVec.ofNat 3 r.vc }
  match r.own with
  | none =>
    s.setPort p { q with txq := match splitAtFirst (fun (m : BitVec 3 × List (BitVec 8)) => m.1.toNat == r.vc) q.txq with
      | some (a, _, b) => a ++ b
      | none => q.txq }
  | some i =>
    let cc := creditClass r.vc r.d1
    let s := s.setPort p { q with credits := tset q.credits cc (tgetD q.credits cc 0 - r.bytes.length / 16) }
    { s with remote := { s.remote with waiting := s.remote.waiting.eraseIdx i } }

/-- Fills the message area of a DATA flit (R329, R335): the rest of the message in progress, then the next ones while there are units
left; with the unit at which the first one starts. -/
def fillArea (fuel : Nat) (s : State) (p : Nat) (area : List (BitVec 8)) (first : Nat) : State × List (BitVec 8) × Nat :=
  match fuel with
  | 0 => (s, area, first)
  | fuel + 1 =>
    let q := s.port p
    if 240 ≤ area.length then (s, area, first)
    else if q.txRest ≠ [] then
      let n := 240 - area.length
      fillArea fuel (s.setPort p { q with txRest := q.txRest.drop n }) p (area ++ q.txRest.take n) first
    else
      match nextMsg s p with
      | some r => fillArea fuel (startMsg s p r) p area (if first = 15 then area.length / 16 else first)
      | none => (s, area, first)

/-! ## Flit times -/

/-- The credits that a DATA or CREDIT flit returns: up to 63 units of each of two classes (R329, R334); the fields cc0 to cn1 and what
is left owed. -/
def returns (owed : Tbl Nat) : Nat × Tbl Nat :=
  let one := fun (t : Tbl Nat) => match t with
    | (c, n) :: rest => (c % 16, min n 63, if n ≤ 63 then rest else (c, n - 63) :: rest)
    | [] => (0, 0, [])
  let a := one owed
  let b := if a.2.2.length < owed.length then one a.2.2 else (0, 0, a.2.2)
  (a.1 * 2 ^ 4 + a.2.1 * 2 ^ 8 + b.1 * 2 ^ 14 + b.2.1 * 2 ^ 18, b.2.2)

/-- Sends a DATA or CREDIT flit with credit returns. -/
def sendWith (s : State) (p ty : Nat) (area : List (BitVec 8)) (first : Nat) : State :=
  let q := s.port p
  let r := returns q.owed
  sendNumbered (s.setPort p { q with owed := r.2 }) p ⟨0, 0, BitVec.ofNat 32 (ty + r.1 + first * 2 ^ 24), areaOf area, 0, 0, true⟩

/-- What the device sends since the last flit time waits at its ports; a message to the device itself, and in SAFE one that SAFE does
not carry, goes nowhere. -/
def collectSent (s : State) : State :=
  let new := (s.remote.sent.drop s.remote.taken).filter fun m => ownRoute s m 0 != .discard
  { s with remote := { s.remote with waiting := s.remote.waiting ++ new, taken := s.remote.sent.length } }

/-- One flit time of a port (R330): DATA while a message can be sent, else CREDIT while credits are owed, else IDLE. -/
def flitTime (s : State) (p : Nat) : State :=
  let q := s.port p
  if q.st ≠ .up then s
  else if 512 ≤ q.replay.length ∨ q.hold ≠ 0 ∨ q.lowPower then sendFlit s p 0 []
  else
    let r := fillArea 32 (collectSent s) p [] 15
    if r.2.1 ≠ [] then sendWith r.1 p 1 r.2.1 r.2.2
    else if q.owed ≠ [] then sendWith r.1 p 2 [] 15
    else sendFlit r.1 p 0 []

def execIdleFlit (port : BitVec 4) (f : Flit) (s : State) : Out := .next (flitTime (onFlit s port.toNat 0 f id) port.toNat).tick

def execCreditFlit (port : BitVec 4) (f : Flit) (s : State) : Out := .next (flitTime (onSeq s port.toNat 2 f id) port.toNat).tick

def execDataFlit (port : BitVec 4) (f : Flit) (s : State) : Out :=
  .next (flitTime (onSeq s port.toNat 1 f fun s => dataArea s port.toNat f) port.toNat).tick

/-! ## Transit -/

/-- A transit message leaves the buffer of the port it came in on, whose units are then owed to the peer (R334); its bytes, where it
came in DATA flits. -/
def takeTransit (s : State) (h : Hdr) (at_ : Nat) : Option (List (BitVec 8)) × State :=
  let q := s.port at_
  match splitAtFirst (fun (m : List (BitVec 8)) => hdrAt m == h) q.rxMsgs with
  | some (a, m, b) => (some m, s.setPort at_ { q with rxMsgs := a ++ b, owed := owe q.owed m })
  | none => (none, s)

/-- A transit message is routed onward, waits, or is discarded and counted. -/
def transit (s : State) (h : Hdr) (vc at_ len : Nat) (d1 : Bool) : State :=
  if h.dest = devNo s ∨ portsRun s.mg.mode = false ∨ (s.port at_).st ≠ .up then s
  else
    match routeOf s h vc (some at_) len d1 with
    | .wait => s
    | .discard => countDiscards (takeTransit s h at_).2 at_ 1
    | .onward p vc d1 =>
      let (m, s) := takeTransit s h at_
      let q := s.port p
      let cc := creditClass vc d1
      let out := match m with
        | some b => [(BitVec.ofNat 3 vc, stamped b vc d1)]
        | none => []
      let s := s.setPort p { q with credits := tset q.credits cc (tgetD q.credits cc 0 - len), txq := q.txq ++ out }
      { s with remote := { s.remote with forwarded := s.remote.forwarded ++ [(h, BitVec.ofNat 3 vc, d1, BitVec.ofNat 6 len, p)] } }

def execTransitForward (h : Hdr) (vc : BitVec 3) (d1 : Bool) (len : BitVec 6) (port : BitVec 4) (s : State) : Out :=
  .next (transit s h vc.toNat port.toNat len.toNat d1).tick

end Sys2Proof.Machine
end

