-- ==== Sys2Proof/Machine/Dispatch.lean ====
section
/-! DEFINITION. The dispatch of commands: one arm per constructor, each a direct call of its meaning. -/

namespace Sys2Proof.Machine

/-- The effect of a command on everything but the queue. -/
def exec (i : Instr) (s : State) : Host.Outcome State Fault Refusal :=
  match i with
  | .mov x rd rs => Sys2Proof.Machine.execMov x rd rs s
  | .iadd x rd rs rt => Sys2Proof.Machine.execIadd x rd rs rt s
  | .isub x rd rs rt => Sys2Proof.Machine.execIsub x rd rs rt s
  | .imul x rd rs rt => Sys2Proof.Machine.execImul x rd rs rt s
  | .and x rd rs rt => Sys2Proof.Machine.execAnd x rd rs rt s
  | .or x rd rs rt => Sys2Proof.Machine.execOr x rd rs rt s
  | .xor x rd rs rt => Sys2Proof.Machine.execXor x rd rs rt s
  | .andn x rd rs rt => Sys2Proof.Machine.execAndn x rd rs rt s
  | .shl x rd rs rt => Sys2Proof.Machine.execShl x rd rs rt s
  | .shr x rd rs rt => Sys2Proof.Machine.execShr x rd rs rt s
  | .sar x rd rs rt => Sys2Proof.Machine.execSar x rd rs rt s
  | .ult x rd rs rt => Sys2Proof.Machine.execUlt x rd rs rt s
  | .eq x rd rs rt => Sys2Proof.Machine.execEq x rd rs rt s
  | .ne x rd rs rt => Sys2Proof.Machine.execNe x rd rs rt s
  | .tagof x rd rs => Sys2Proof.Machine.execTagof x rd rs s
  | .movi x rd imm => Sys2Proof.Machine.execMovi x rd imm s
  | .moviR x rd imm => Sys2Proof.Machine.execMoviR x rd imm s
  | .ldc x rd rs imm => Sys2Proof.Machine.execLdc x rd rs imm s
  | .eqi x rd rs imm => Sys2Proof.Machine.execEqi x rd rs imm s
  | .lti x rd rs imm => Sys2Proof.Machine.execLti x rd rs imm s
  | .lei x rd rs imm => Sys2Proof.Machine.execLei x rd rs imm s
  | .gti x rd rs imm => Sys2Proof.Machine.execGti x rd rs imm s
  | .shli x rd rs imm => Sys2Proof.Machine.execShli x rd rs imm s
  | .shri x rd rs imm => Sys2Proof.Machine.execShri x rd rs imm s
  | .sari x rd rs imm => Sys2Proof.Machine.execSari x rd rs imm s
  | .andi x rd rs imm => Sys2Proof.Machine.execAndi x rd rs imm s
  | .add x rd rs rt => Sys2Proof.Machine.execAdd x rd rs rt s
  | .sub x rd rs rt => Sys2Proof.Machine.execSub x rd rs rt s
  | .mul x rd rs rt => Sys2Proof.Machine.execMul x rd rs rt s
  | .div x rd rs rt => Sys2Proof.Machine.execDiv x rd rs rt s
  | .rem x rd rs rt => Sys2Proof.Machine.execRem x rd rs rt s
  | .neg x rd rs => Sys2Proof.Machine.execNeg x rd rs s
  | .numeq x rd rs rt => Sys2Proof.Machine.execNumeq x rd rs rt s
  | .lt x rd rs rt => Sys2Proof.Machine.execLt x rd rs rt s
  | .le x rd rs rt => Sys2Proof.Machine.execLe x rd rs rt s
  | .addi x rd rs imm => Sys2Proof.Machine.execAddi x rd rs imm s
  | .tagis x rd rs tag => Sys2Proof.Machine.execTagis x rd rs tag s
  | .kindis x rd rs kind => Sys2Proof.Machine.execKindis x rd rs kind s
  | .settag x rd rs tag => Sys2Proof.Machine.execSettag x rd rs tag s
  | .fadd x fd fs ft => Sys2Proof.Machine.execFadd x fd fs ft s
  | .fsub x fd fs ft => Sys2Proof.Machine.execFsub x fd fs ft s
  | .fmul x fd fs ft => Sys2Proof.Machine.execFmul x fd fs ft s
  | .fdiv x fd fs ft => Sys2Proof.Machine.execFdiv x fd fs ft s
  | .fsqrt x fd fs => Sys2Proof.Machine.execFsqrt x fd fs s
  | .fma x fd fs ft => Sys2Proof.Machine.execFma x fd fs ft s
  | .fmin x fd fs ft => Sys2Proof.Machine.execFmin x fd fs ft s
  | .fmax x fd fs ft => Sys2Proof.Machine.execFmax x fd fs ft s
  | .fneg x fd fs => Sys2Proof.Machine.execFneg x fd fs s
  | .fabs x fd fs => Sys2Proof.Machine.execFabs x fd fs s
  | .fmov x fd fs => Sys2Proof.Machine.execFmov x fd fs s
  | .fceq x rd fs ft => Sys2Proof.Machine.execFceq x rd fs ft s
  | .fclt x rd fs ft => Sys2Proof.Machine.execFclt x rd fs ft s
  | .fcle x rd fs ft => Sys2Proof.Machine.execFcle x rd fs ft s
  | .fmvgf x fd rs => Sys2Proof.Machine.execFmvgf x fd rs s
  | .fmvfg x rd fs => Sys2Proof.Machine.execFmvfg x rd fs s
  | .fcvtxf x fd rs => Sys2Proof.Machine.execFcvtxf x fd rs s
  | .fcvtfx x rd fs => Sys2Proof.Machine.execFcvtfx x rd fs s
  | .ldw x rd rs imm => Sys2Proof.Machine.execLdw x rd rs imm s
  | .ldwA x rd rs imm => Sys2Proof.Machine.execLdwA x rd rs imm s
  | .ldwP x rd rs imm => Sys2Proof.Machine.execLdwP x rd rs imm s
  | .stw x rd rs imm => Sys2Proof.Machine.execStw x rd rs imm s
  | .stwR x rd rs imm => Sys2Proof.Machine.execStwR x rd rs imm s
  | .ldpc x rd off => Sys2Proof.Machine.execLdpc x rd off s
  | .ldx x rd rs rt => Sys2Proof.Machine.execLdx x rd rs rt s
  | .ldxA x rd rs rt => Sys2Proof.Machine.execLdxA x rd rs rt s
  | .stx x rd rs rt => Sys2Proof.Machine.execStx x rd rs rt s
  | .stxR x rd rs rt => Sys2Proof.Machine.execStxR x rd rs rt s
  | .ldb x rd rs imm => Sys2Proof.Machine.execLdb x rd rs imm s
  | .ldh x rd rs imm => Sys2Proof.Machine.execLdh x rd rs imm s
  | .stb x rd rs imm => Sys2Proof.Machine.execStb x rd rs imm s
  | .sth x rd rs imm => Sys2Proof.Machine.execSth x rd rs imm s
  | .loadbarHealWrite core => Sys2Proof.Machine.execLoadbarHealWrite core s
  | .logAppend core => Sys2Proof.Machine.execLogAppend core s
  | .amoadd x rd rs rt ord => Sys2Proof.Machine.execAmoadd x rd rs rt ord s
  | .amoswap x rd rs rt ord => Sys2Proof.Machine.execAmoswap x rd rs rt ord s
  | .amomin x rd rs rt ord => Sys2Proof.Machine.execAmomin x rd rs rt ord s
  | .amomax x rd rs rt ord => Sys2Proof.Machine.execAmomax x rd rs rt ord s
  | .cas x rd rs rt ord => Sys2Proof.Machine.execCas x rd rs rt ord s
  | .cast x rd rs rt ord => Sys2Proof.Machine.execCast x rd rs rt ord s
  | .car x rd rs => Sys2Proof.Machine.execCar x rd rs s
  | .cdr x rd rs => Sys2Proof.Machine.execCdr x rd rs s
  | .rplaca x rs rt => Sys2Proof.Machine.execRplaca x rs rt s
  | .rplacd x rs rt => Sys2Proof.Machine.execRplacd x rs rt s
  | .cons x rd rs rt => Sys2Proof.Machine.execCons x rd rs rt s
  | .memq x rd rs rt => Sys2Proof.Machine.execMemq x rd rs rt s
  | .assq x rd rs rt => Sys2Proof.Machine.execAssq x rd rs rt s
  | .walk x rd rs rt => Sys2Proof.Machine.execWalk x rd rs rt s
  | .probe x rd rs rt => Sys2Proof.Machine.execProbe x rd rs rt s
  | .alloc x rd rs imm => Sys2Proof.Machine.execAlloc x rd rs imm s
  | .bz x rs off => Sys2Proof.Machine.execBz x rs off s
  | .bnz x rs off => Sys2Proof.Machine.execBnz x rs off s
  | .bnil x rs off => Sys2Proof.Machine.execBnil x rs off s
  | .bnnil x rs off => Sys2Proof.Machine.execBnnil x rs off s
  | .bt x r cls off => Sys2Proof.Machine.execBt x r cls off s
  | .bnt x r cls off => Sys2Proof.Machine.execBnt x r cls off s
  | .j x off => Sys2Proof.Machine.execJ x off s
  | .jl x off => Sys2Proof.Machine.execJl x off s
  | .callw x off => Sys2Proof.Machine.execCallw x off s
  | .jr x rs imm => Sys2Proof.Machine.execJr x rs imm s
  | .jlr x rs imm => Sys2Proof.Machine.execJlr x rs imm s
  | .callwr x rs imm => Sys2Proof.Machine.execCallwr x rs imm s
  | .retl x => Sys2Proof.Machine.execRetl x s
  | .retw x => Sys2Proof.Machine.execRetw x s
  | .rep x word => Sys2Proof.Machine.execRep x word s
  | .repStep x => Sys2Proof.Machine.execRepStep x s
  | .copyw x rd rs => Sys2Proof.Machine.execCopyw x rd rs s
  | .fillw x rd rs => Sys2Proof.Machine.execFillw x rd rs s
  | .cleanL x rs => Sys2Proof.Machine.execCleanL x rs s
  | .flushL x rs => Sys2Proof.Machine.execFlushL x rs s
  | .invalL x rs => Sys2Proof.Machine.execInvalL x rs s
  | .syscall x => Sys2Proof.Machine.execSyscall x s
  | .wcall x rs => Sys2Proof.Machine.execWcall x rs s
  | .retx x => Sys2Proof.Machine.execRetx x s
  | .brk x => Sys2Proof.Machine.execBrk x s
  | .yield x => Sys2Proof.Machine.execYield x s
  | .fence x => Sys2Proof.Machine.execFence x s
  | .syncG x => Sys2Proof.Machine.execSyncG x s
  | .syncV x => Sys2Proof.Machine.execSyncV x s
  | .syncT x => Sys2Proof.Machine.execSyncT x s
  | .mfs x rd sel => Sys2Proof.Machine.execMfs x rd sel s
  | .mts x rs sel => Sys2Proof.Machine.execMts x rs sel s
  | .fpBankBind x rs => Sys2Proof.Machine.execFpBankBind x rs s
  | .fpBankRelease x rs => Sys2Proof.Machine.execFpBankRelease x rs s
  | .rdw x rd n => Sys2Proof.Machine.execRdw x rd n s
  | .wrw x rs n => Sys2Proof.Machine.execWrw x rs n s
  | .fbrd x rd rs => Sys2Proof.Machine.execFbrd x rd rs s
  | .fbwr x rt rs => Sys2Proof.Machine.execFbwr x rt rs s
  | .spawn x rd rs rt => Sys2Proof.Machine.execSpawn x rd rs rt s
  | .ctxhold x rs => Sys2Proof.Machine.execCtxhold x rs s
  | .ctxrel x rs => Sys2Proof.Machine.execCtxrel x rs s
  | .ctxkill x rs => Sys2Proof.Machine.execCtxkill x rs s
  | .ctxend x => Sys2Proof.Machine.execCtxend x s
  | .wait x rd rs rt => Sys2Proof.Machine.execWait x rd rs rt s
  | .waitM x rd rs rt => Sys2Proof.Machine.execWaitM x rd rs rt s
  | .ctxrd x rd rs sel => Sys2Proof.Machine.execCtxrd x rd rs sel s
  | .ctxwr x rd rs sel => Sys2Proof.Machine.execCtxwr x rd rs sel s
  | .tlbiVa x rs => Sys2Proof.Machine.execTlbiVa x rs s
  | .tlbiSp x rs => Sys2Proof.Machine.execTlbiSp x rs s
  | .tlbiW x => Sys2Proof.Machine.execTlbiW x s
  | .setpkr x rs => Sys2Proof.Machine.execSetpkr x rs s
  | .walkReadComplete x => Sys2Proof.Machine.execWalkReadComplete x s
  | .tlbiTakesEffect id agent => Sys2Proof.Machine.execTlbiTakesEffect id agent s
  | .tlbiComplete id => Sys2Proof.Machine.execTlbiComplete id s
  | .swapStart core => Sys2Proof.Machine.execSwapStart core s
  | .swapComplete core => Sys2Proof.Machine.execSwapComplete core s
  | .preemption core => Sys2Proof.Machine.execPreemption core s
  | .quantumExpiry lcn => Sys2Proof.Machine.execQuantumExpiry lcn s
  | .accessComplete x => Sys2Proof.Machine.execAccessComplete x s
  | .deadlineExpiry lcn => Sys2Proof.Machine.execDeadlineExpiry lcn s
  | .contextDrainComplete lcn => Sys2Proof.Machine.execContextDrainComplete lcn s
  | .dbRingWrite by_ lcn events => Sys2Proof.Machine.execDbRingWrite by_ lcn events s
  | .dbPendingWrite by_ lcn events => Sys2Proof.Machine.execDbPendingWrite by_ lcn events s
  | .tileWakeComplete tile => Sys2Proof.Machine.execTileWakeComplete tile s
  | .tileNap tile => Sys2Proof.Machine.execTileNap tile s
  | .tileDoze tile => Sys2Proof.Machine.execTileDoze tile s
  | .nmiNAssert => Sys2Proof.Machine.execNmiNAssert s
  | .ficNmiEntry core => Sys2Proof.Machine.execFicNmiEntry core s
  | .ficIrqEntry core => Sys2Proof.Machine.execFicIrqEntry core s
  | .rds core line => Sys2Proof.Machine.execRds core line s
  | .rdx core line => Sys2Proof.Machine.execRdx core line s
  | .upg core line => Sys2Proof.Machine.execUpg core line s
  | .rdo core line => Sys2Proof.Machine.execRdo core line s
  | .wrm core line => Sys2Proof.Machine.execWrm core line s
  | .wrf line data stash => Sys2Proof.Machine.execWrf line data stash s
  | .atm core line => Sys2Proof.Machine.execAtm core line s
  | .cln core line => Sys2Proof.Machine.execCln core line s
  | .fls core line => Sys2Proof.Machine.execFls core line s
  | .homeInv core line => Sys2Proof.Machine.execHomeInv core line s
  | .tagq core set tile => Sys2Proof.Machine.execTagq core set tile s
  | .wbd core line => Sys2Proof.Machine.execWbd core line s
  | .evc core line => Sys2Proof.Machine.execEvc core line s
  | .sns core line => Sys2Proof.Machine.execSns core line s
  | .snx core line => Sys2Proof.Machine.execSnx core line s
  | .sni core line => Sys2Proof.Machine.execSni core line s
  | .snr core line => Sys2Proof.Machine.execSnr core line s
  | .snc core line => Sys2Proof.Machine.execSnc core line s
  | .snf core line => Sys2Proof.Machine.execSnf core line s
  | .ack core line => Sys2Proof.Machine.execAck core line s
  | .ackd core line => Sys2Proof.Machine.execAckd core line s
  | .ackw core line => Sys2Proof.Machine.execAckw core line s
  | .acku core line => Sys2Proof.Machine.execAcku core line s
  | .ackn core line => Sys2Proof.Machine.execAckn core line s
  | .nakst core line => Sys2Proof.Machine.execNakst core line s
  | .rty core line => Sys2Proof.Machine.execRty core line s
  | .requestResend core line => Sys2Proof.Machine.execRequestResend core line s
  | .naks core line => Sys2Proof.Machine.execNaks core line s
  | .prg core line => Sys2Proof.Machine.execPrg core line s
  | .gnt core line => Sys2Proof.Machine.execGnt core line s
  | .cmp core line => Sys2Proof.Machine.execCmp core line s
  | .wba core line => Sys2Proof.Machine.execWba core line s
  | .tagr core set => Sys2Proof.Machine.execTagr core set s
  | .dats core line => Sys2Proof.Machine.execDats core line s
  | .date core line => Sys2Proof.Machine.execDate core line s
  | .datm core line => Sys2Proof.Machine.execDatm core line s
  | .dato core line => Sys2Proof.Machine.execDato core line s
  | .l1dDrainComplete core => Sys2Proof.Machine.execL1dDrainComplete core s
  | .codewordReadComplete pair => Sys2Proof.Machine.execCodewordReadComplete pair s
  | .scrubRead mc => Sys2Proof.Machine.execScrubRead mc s
  | .targetedScrubComplete mc unit found oneRow => Sys2Proof.Machine.execTargetedScrubComplete mc unit found oneRow s
  | .errorWindowExpiry mc ue unit => Sys2Proof.Machine.execErrorWindowExpiry mc ue unit s
  | .softPprComplete mc unit ok => Sys2Proof.Machine.execSoftPprComplete mc unit ok s
  | .pseudoChannelMove pc q => Sys2Proof.Machine.execPseudoChannelMove pc q s
  | .memoryInitComplete => Sys2Proof.Machine.execMemoryInitComplete s
  | .gcRegisterWrite by_ w off v => Sys2Proof.Machine.execGcRegisterWrite by_ w off v s
  | .gcWritePerformed => Sys2Proof.Machine.execGcWritePerformed s
  | .tslGo by_ k => Sys2Proof.Machine.execTslGo by_ k s
  | .tslHalt by_ k => Sys2Proof.Machine.execTslHalt by_ k s
  | .tslEventsWrite by_ k events => Sys2Proof.Machine.execTslEventsWrite by_ k events s
  | .vlHeadWrite by_ ch v => Sys2Proof.Machine.execVlHeadWrite by_ ch v s
  | .vlDoorbellWrite by_ ch v => Sys2Proof.Machine.execVlDoorbellWrite by_ ch v s
  | .vlAbortWrite by_ ch v => Sys2Proof.Machine.execVlAbortWrite by_ ch v s
  | .vlQeventsWrite by_ ch v => Sys2Proof.Machine.execVlQeventsWrite by_ ch v s
  | .descriptorReadComplete ch => Sys2Proof.Machine.execDescriptorReadComplete ch s
  | .burstGrant => Sys2Proof.Machine.execBurstGrant s
  | .burstSourceReadComplete ch => Sys2Proof.Machine.execBurstSourceReadComplete ch s
  | .descriptorDone ch => Sys2Proof.Machine.execDescriptorDone ch s
  | .linkReadComplete ch => Sys2Proof.Machine.execLinkReadComplete ch s
  | .syncVComplete lcn => Sys2Proof.Machine.execSyncVComplete lcn s
  | .domainDrainTimeout dom => Sys2Proof.Machine.execDomainDrainTimeout dom s
  | .reedMov k qd qs => Sys2Proof.Machine.execReedMov k qd qs s
  | .reedAdd k qd qs => Sys2Proof.Machine.execReedAdd k qd qs s
  | .reedSub k qd qs => Sys2Proof.Machine.execReedSub k qd qs s
  | .reedAnd k qd qs => Sys2Proof.Machine.execReedAnd k qd qs s
  | .reedOr k qd qs => Sys2Proof.Machine.execReedOr k qd qs s
  | .reedXor k qd qs => Sys2Proof.Machine.execReedXor k qd qs s
  | .reedShl k qd qs => Sys2Proof.Machine.execReedShl k qd qs s
  | .reedShr k qd qs => Sys2Proof.Machine.execReedShr k qd qs s
  | .reedCmp k qd qs => Sys2Proof.Machine.execReedCmp k qd qs s
  | .reedEq k qd qs => Sys2Proof.Machine.execReedEq k qd qs s
  | .reedTagof k qd qs => Sys2Proof.Machine.execReedTagof k qd qs s
  | .reedSettag k qd qs => Sys2Proof.Machine.execReedSettag k qd qs s
  | .reedVa k qd qs => Sys2Proof.Machine.execReedVa k qd qs s
  | .reedMovi k qd imm => Sys2Proof.Machine.execReedMovi k qd imm s
  | .reedAddi k qd imm => Sys2Proof.Machine.execReedAddi k qd imm s
  | .reedCmpi k qd imm => Sys2Proof.Machine.execReedCmpi k qd imm s
  | .reedMvaq k an qs => Sys2Proof.Machine.execReedMvaq k an qs s
  | .reedMvqa k an qs => Sys2Proof.Machine.execReedMvqa k an qs s
  | .reedAdda k an imm => Sys2Proof.Machine.execReedAdda k an imm s
  | .reedAddaq k an qs => Sys2Proof.Machine.execReedAddaq k an qs s
  | .reedMvcq k q => Sys2Proof.Machine.execReedMvcq k q s
  | .reedMvqc k q => Sys2Proof.Machine.execReedMvqc k q s
  | .reedMvaa k an am => Sys2Proof.Machine.execReedMvaa k an am s
  | .reedLd k q an p off => Sys2Proof.Machine.execReedLd k q an p off s
  | .reedLoadAnswer k => Sys2Proof.Machine.execReedLoadAnswer k s
  | .reedSt k q an p off => Sys2Proof.Machine.execReedSt k q an p off s
  | .reedTt k q mode cls => Sys2Proof.Machine.execReedTt k q mode cls s
  | .reedBr k cond off => Sys2Proof.Machine.execReedBr k cond off s
  | .reedLoop k off => Sys2Proof.Machine.execReedLoop k off s
  | .reedJcz k off => Sys2Proof.Machine.execReedJcz k off s
  | .reedCall k off => Sys2Proof.Machine.execReedCall k off s
  | .reedRet k => Sys2Proof.Machine.execReedRet k s
  | .reedPfx k ext => Sys2Proof.Machine.execReedPfx k ext s
  | .reedWaite k m q e => Sys2Proof.Machine.execReedWaite k m q e s
  | .reedSignal k q => Sys2Proof.Machine.execReedSignal k q s
  | .reedEnd k => Sys2Proof.Machine.execReedEnd k s
  | .reedLateStoreFault k addr info => Sys2Proof.Machine.execReedLateStoreFault k addr info s
  | .cwGgoWrite by_ group => Sys2Proof.Machine.execCwGgoWrite by_ group s
  | .cwQsentAdd by_ group v => Sys2Proof.Machine.execCwQsentAdd by_ group v s
  | .cwQrecvAdd by_ group v => Sys2Proof.Machine.execCwQrecvAdd by_ group v s
  | .coll port m => Sys2Proof.Machine.execColl port m s
  | .qPeriodExpiry group => Sys2Proof.Machine.execQPeriodExpiry group s
  | .collTimeout group => Sys2Proof.Machine.execCollTimeout group s
  | .rload h addr size acquire => Sys2Proof.Machine.execRload h addr size acquire s
  | .rstore h addr word size mask => Sys2Proof.Machine.execRstore h addr word size mask s
  | .ratom h addr word expected op ord => Sys2Proof.Machine.execRatom h addr word expected op ord s
  | .doorbell h lcn gen events origin hops => Sys2Proof.Machine.execDoorbell h lcn gen events origin hops s
  | .rdata h word ack => Sys2Proof.Machine.execRdata h word ack s
  | .rpair h words => Sys2Proof.Machine.execRpair h words s
  | .rack h => Sys2Proof.Machine.execRack h s
  | .rfault h hcause hsub level acc => Sys2Proof.Machine.execRfault h hcause hsub level acc s
  | .invack h => Sys2Proof.Machine.execInvack h s
  | .moved h oldId oldGen newId newGen => Sys2Proof.Machine.execMoved h oldId oldGen newId newGen s
  | .migrate h pkt => Sys2Proof.Machine.execMigrate h pkt s
  | .migans h migId outcome reason newId newGen => Sys2Proof.Machine.execMigans h migId outcome reason newId newGen s
  | .migq h migId => Sys2Proof.Machine.execMigq h migId s
  | .mgmt h reply op status req => Sys2Proof.Machine.execMgmt h reply op status req s
  | .imgreq port offset => Sys2Proof.Machine.execImgreq port offset s
  | .imgrel port offset len data => Sys2Proof.Machine.execImgrel port offset len data s
  | .inv h page => Sys2Proof.Machine.execInv h page s
  | .remoteTimeout slot gen => Sys2Proof.Machine.execRemoteTimeout slot gen s
  | .migrationPacketSend lcn => Sys2Proof.Machine.execMigrationPacketSend lcn s
  | .migReplyTimeout lcn => Sys2Proof.Machine.execMigReplyTimeout lcn s
  | .migUnresolved lcn => Sys2Proof.Machine.execMigUnresolved lcn s
  | .stubRelease lcn => Sys2Proof.Machine.execStubRelease lcn s
  | .dbRemoteWrite x va v => Sys2Proof.Machine.execDbRemoteWrite x va v s
  | .idleFlit port f => Sys2Proof.Machine.execIdleFlit port f s
  | .dataFlit port f => Sys2Proof.Machine.execDataFlit port f s
  | .creditFlit port f => Sys2Proof.Machine.execCreditFlit port f s
  | .nakFlit port f => Sys2Proof.Machine.execNakFlit port f s
  | .initFlit port f => Sys2Proof.Machine.execInitFlit port f s
  | .spareFlit port f => Sys2Proof.Machine.execSpareFlit port f s
  | .holdFlit port f => Sys2Proof.Machine.execHoldFlit port f s
  | .transitForward h vc d1 len port => Sys2Proof.Machine.execTransitForward h vc d1 len port s
  | .nakRepeat port => Sys2Proof.Machine.execNakRepeat port s
  | .laneLockLoss port lane => Sys2Proof.Machine.execLaneLockLoss port lane s
  | .laneCeThreshold port lane => Sys2Proof.Machine.execLaneCeThreshold port lane s
  | .pmdTrainingDone port failed => Sys2Proof.Machine.execPmdTrainingDone port failed s
  | .codewordLock port lane pos => Sys2Proof.Machine.execCodewordLock port lane pos s
  | .linkSilenceTimeout port => Sys2Proof.Machine.execLinkSilenceTimeout port s
  | .portRetry port => Sys2Proof.Machine.execPortRetry port s
  | .rerouteHoldExpiry port => Sys2Proof.Machine.execRerouteHoldExpiry port s
  | .lowPowerIdleEntry port => Sys2Proof.Machine.execLowPowerIdleEntry port s
  | .safeHoldTick => Sys2Proof.Machine.execSafeHoldTick s
  | .bar2Write off data => Sys2Proof.Machine.execBar2Write off data s
  | .bar4Read off len => Sys2Proof.Machine.execBar4Read off len s
  | .bar4Write off data ep => Sys2Proof.Machine.execBar4Write off data ep s
  | .flr => Sys2Proof.Machine.execFlr s
  | .pePerstNAssert => Sys2Proof.Machine.execPePerstNAssert s
  | .pcieLinkChange state => Sys2Proof.Machine.execPcieLinkChange state s
  | .hiRaiseWrite v => Sys2Proof.Machine.execHiRaiseWrite v s
  | .hiDmGo op req => Sys2Proof.Machine.execHiDmGo op req s
  | .msixSendWrite x va v => Sys2Proof.Machine.execMsixSendWrite x va v s
  | .outboundReadTimeout x => Sys2Proof.Machine.execOutboundReadTimeout x s
  | .spdmRequest code => Sys2Proof.Machine.execSpdmRequest code s
  | .dmbGo m op req => Sys2Proof.Machine.execDmbGo m op req s
  | .dictRead req => Sys2Proof.Machine.execDictRead req s
  | .dictWrite req => Sys2Proof.Machine.execDictWrite req s
  | .dictForce req => Sys2Proof.Machine.execDictForce req s
  | .dictNext req => Sys2Proof.Machine.execDictNext req s
  | .dictLog req => Sys2Proof.Machine.execDictLog req s
  | .dictSnap req => Sys2Proof.Machine.execDictSnap req s
  | .dictRemoteTimeout tag => Sys2Proof.Machine.execDictRemoteTimeout tag s
  | .dictMirrorTick => Sys2Proof.Machine.execDictMirrorTick s
  | .startCmdLoad => Sys2Proof.Machine.execStartCmdLoad s
  | .startCmdResetCold => Sys2Proof.Machine.execStartCmdResetCold s
  | .startCmdResetWarm => Sys2Proof.Machine.execStartCmdResetWarm s
  | .startCmdGo => Sys2Proof.Machine.execStartCmdGo s
  | .forceStartCold => Sys2Proof.Machine.execForceStartCold s
  | .forceStartWarm => Sys2Proof.Machine.execForceStartWarm s
  | .forcePortFence port => Sys2Proof.Machine.execForcePortFence port s
  | .forceGateDomain dom => Sys2Proof.Machine.execForceGateDomain dom s
  | .forceLockupRelease => Sys2Proof.Machine.execForceLockupRelease s
  | .portFenceWrite port on => Sys2Proof.Machine.execPortFenceWrite port on s
  | .pdCtlOff dom => Sys2Proof.Machine.execPdCtlOff dom s
  | .pdCtlOn dom => Sys2Proof.Machine.execPdCtlOn dom s
  | .domainPowerOnComplete dom => Sys2Proof.Machine.execDomainPowerOnComplete dom s
  | .cowslipGateTimeout => Sys2Proof.Machine.execCowslipGateTimeout s
  | .tileFreqWrite tile freq => Sys2Proof.Machine.execTileFreqWrite tile freq s
  | .pllRelockComplete tile => Sys2Proof.Machine.execPllRelockComplete tile s
  | .injectError v => Sys2Proof.Machine.execInjectError v s
  | .ownerKeyHashWrite hash => Sys2Proof.Machine.execOwnerKeyHashWrite hash s
  | .fuseBurnComplete => Sys2Proof.Machine.execFuseBurnComplete s
  | .minSvnWrite v => Sys2Proof.Machine.execMinSvnWrite v s
  | .persistentCommit kind payload interrupted => Sys2Proof.Machine.execPersistentCommit kind payload interrupted s
  | .modeCmdQuiesce => Sys2Proof.Machine.execModeCmdQuiesce s
  | .modeCmdHold => Sys2Proof.Machine.execModeCmdHold s
  | .modeCmdResume => Sys2Proof.Machine.execModeCmdResume s
  | .modeCmdSafe => Sys2Proof.Machine.execModeCmdSafe s
  | .transitionAck block => Sys2Proof.Machine.execTransitionAck block s
  | .transitionAckTimeout => Sys2Proof.Machine.execTransitionAckTimeout s
  | .drowseEntry => Sys2Proof.Machine.execDrowseEntry s
  | .recoveryReverifyDone pass => Sys2Proof.Machine.execRecoveryReverifyDone pass s
  | .pwrokRise boardSlot => Sys2Proof.Machine.execPwrokRise boardSlot s
  | .pwrokFall => Sys2Proof.Machine.execPwrokFall s
  | .sysRstNAssert warmHigh => Sys2Proof.Machine.execSysRstNAssert warmHigh s
  | .sysRstNRelease => Sys2Proof.Machine.execSysRstNRelease s
  | .bootRomDone => Sys2Proof.Machine.execBootRomDone s
  | .imageVerified sig dec keyHash => Sys2Proof.Machine.execImageVerified sig dec keyHash s
  | .imageRelayRetry => Sys2Proof.Machine.execImageRelayRetry s
  | .bringupComplete fail unit rate far chans oneRank => Sys2Proof.Machine.execBringupComplete fail unit rate far chans oneRank s
  | .bistComplete ok => Sys2Proof.Machine.execBistComplete ok s
  | .serviceEntry => Sys2Proof.Machine.execServiceEntry s
  | .startStepTimeout step => Sys2Proof.Machine.execStartStepTimeout step s
  | .warmWritebackComplete ok => Sys2Proof.Machine.execWarmWritebackComplete ok s
  | .faultReport cls unit addr detail => Sys2Proof.Machine.execFaultReport cls unit addr detail s
  | .deadCoreReclaim core => Sys2Proof.Machine.execDeadCoreReclaim core s
  | .periodicCheckPeriod done failed unit => Sys2Proof.Machine.execPeriodicCheckPeriod done failed unit s
  | .watchdogExpiry core what => Sys2Proof.Machine.execWatchdogExpiry core what s
  | .selftestStart core => Sys2Proof.Machine.execSelftestStart core s
  | .selftestResult core ok => Sys2Proof.Machine.execSelftestResult core ok s
  | .clockFault clk => Sys2Proof.Machine.execClockFault clk s
  | .voltageExcursion rail => Sys2Proof.Machine.execVoltageExcursion rail s
  | .thermalSample kind unit temp power => Sys2Proof.Machine.execThermalSample kind unit temp power s
  | .throttleStep tile up => Sys2Proof.Machine.execThrottleStep tile up s
  | .thermtrip => Sys2Proof.Machine.execThermtrip s
  | .wearThreshold mon unit => Sys2Proof.Machine.execWearThreshold mon unit s
  | .coreSubstitutionComplete core => Sys2Proof.Machine.execCoreSubstitutionComplete core s
  | .registerWrite by_ lpa v => Sys2Proof.Machine.execRegisterWrite by_ lpa v s
  | .illegalOpcode x => Sys2Proof.Machine.execIllegalOpcode x s
  | .reedIllegal k word => Sys2Proof.Machine.execReedIllegal k word s
  | .trstNAssert => Sys2Proof.Machine.execTrstNAssert s
  | .tapInstruction ir => Sys2Proof.Machine.execTapInstruction ir s

end Sys2Proof.Machine
end

