-- ==== Sys2Proof/Safety.lean ====
section
/-! DEFINITION. What counts as a safe run, the invariant of memory, and the vocabulary of the statements: when an instruction
issues, what a completed instruction leaves, and what an exception entry writes. -/

namespace Sys2Proof.Machine

/-- A step that neither faults nor refuses. -/
def Safe (s : State) : Prop := ∃ t, step s = .next t

/-- The memory of a state is in its canonical form. -/
def MemOk (s : State) : Prop := Memory.wf s.mem = true

end Sys2Proof.Machine

namespace Sys2Proof.Claims

open Sys2Proof.Machine

/-- A command answers a next state. -/
abbrev Gives (c : Instr) (s t : State) : Prop := exec c s = .next t

/-- Executor x issues an instruction: it runs (R62, R65, R103), no injected error waits in its registers (R466), no exception of an earlier access is due (R66), the
checks of R119 that come before the instruction's own pass, and its microcode meets no parity error (R190). -/
abbrev Ready (s : State) (x : Exec) (op : Op) : Prop :=
  canIssue s x = true ∧ bankArmed s x = false ∧ faultDue s x = false ∧ preChecks { x := x, word := op.word } s op = .ok () ∧
    microBad s x op = none

/-- What an instruction of x runs in. -/
def env (x : Exec) (op : Op) : Env := { x := x, word := op.word }

/-- The word at a place of a context's registers. -/
def placed (c : Ctx) (p : RegAt) : W :=
  match p with
  | .zero => nilW
  | .g k => tgetD c.g k nilW
  | .ring k => tgetD c.ring k nilW
  | .trap k => tgetD c.trap k nilW

/-- Nothing differs but the contexts, the performance counters of cores, the requests pending at fast interrupt contexts,
and whether a tile wakes (an overflow of a counter may raise its interrupt, R114). -/
def Around (s t : State) : Prop :=
  t = { s with ctxs := t.ctxs, cores := t.cores, tiles := t.tiles, free := t.free } ∧
  (∀ k, t.core k = { s.core k with pmc := (t.core k).pmc, pmsel := (t.core k).pmsel, fic := (t.core k).fic }) ∧
  (∀ j, t.tile j = { s.tile j with waking := (t.tile j).waking })

/-- A fast interrupt context differs in its pending requests alone. -/
def FicKept (s t : State) (k : Nat) : Prop := t.fic k = { s.fic k with pending := (t.fic k).pending }

/-- What x itself keeps when an instruction that writes register rd completes: every register at another place, and of the
record everything but pc and wsup, which R161 clears. -/
def SelfKept (s t : State) (x : Exec) (rd : BitVec 5) : Prop :=
  match x with
  | .ctx n =>
    let c := s.ctx n.toNat
    let d := t.ctx n.toNat
    (∀ p, p ≠ regAt c rd.toNat → placed d p = placed c p) ∧
    d = { c with ring := d.ring, g := d.g, trap := d.trap, repeated := none,
                 r := { c.r with pc := d.r.pc, ctxStat := c.r.ctxStat &&& ~~~(0x1000000 : BitVec 32) } } ∧
    (∀ m, m ≠ n.toNat → t.ctx m = s.ctx m) ∧ ∀ k, FicKept s t k
  | .fic k =>
    let f := s.fic k.toNat
    let g := t.fic k.toNat
    (∀ r, r ≠ rd → xreg t x r = xreg s x r) ∧ (f.mode ≠ .nmi → g.nl = f.nl) ∧
    g = { f with regs := g.regs, nl := g.nl, pc := g.pc, pending := g.pending, repeated := none } ∧
    (∀ m, t.ctx m = s.ctx m) ∧ ∀ j, j ≠ k.toNat → FicKept s t j

/-- The command completes with word w in rd: w is read there (g0 discards it, R86), pc goes on by 4, and nothing else
changes. -/
def Result (c : Instr) (s : State) (x : Exec) (rd : BitVec 5) (w : W) : Prop :=
  ∃ t, Gives c s t ∧ t.free = s.free + 1 ∧ xreg t x rd = (if rd = 0 then nilW else w) ∧ xpc t x = xpc s x + 4 ∧
    SelfKept s t x rd ∧ Around s t

/-- The state after an instruction whose own effect left u completes at the next instruction. -/
def advanced (u : State) (x : Exec) : State := (setXpc (commitX u x) x (xpc u x + 4)).tick

/-- The same with pc at an address. -/
def jumped (u : State) (x : Exec) (pc : BitVec 59) : State := (setXpc (commitX u x) x pc).tick

/-- A word that an inspecting operand accepts whatever its tag (R120): neither LOST, nor UNINIT, nor of a reserved code. -/
abbrev Whole (w : W) : Prop := w.tag ≠ 0x301 ∧ w.tag ≠ 0x000 ∧ reservedTag w.tag = false

/-- An integer word (R124). -/
abbrev IsInt (w : W) : Prop := w.tag = 0x001 ∨ w.tag = 0x006

/-- A FIXNUM word. -/
abbrev IsFix (w : W) : Prop := w.tag = 0x001

/-- FIXNUM 1 or 0 (R124). -/
def truth (p : Prop) [Decidable p] : W := ⟨0x001, if p then 1 else 0⟩

/-- The tag of an integer result (R124): FIXNUM when both operands are. -/
def tag2 (a b : W) : BitVec 10 := if a.tag = 0x001 ∧ b.tag = 0x001 then 0x001 else 0x006

end Sys2Proof.Claims

namespace Sys2Proof.Claims

open Sys2Proof.Machine

/-! ## Floating point -/

/-- Bank b is bound to x and is a bank of its world, and no context claims it (R99, R101, R175). -/
abbrev BankOk (s : State) (x : Exec) (b : Nat) : Prop :=
  (xrec s x).fpBound = true ∧ (xrec s x).fpBank.toNat = b ∧ (banksOf s (xworld s x)).contains b = true ∧
    tget (s.core (xcore x)).claim b = none

/-- No flag that a result raises is enabled to trap (R151). -/
abbrev NoTrap {α : Type} (s : State) (x : Exec) (r : α × Fl) : Prop := trapped (xfpsr s x) (r.2.bits (xfpsr s x)) = false

/-- x with the flags of a result ORed into fpsr (R150). -/
def flagged {α : Type} (s : State) (x : Exec) (r : α × Fl) : State := setXfpsr s x (orFlags (xfpsr s x) (r.2.bits (xfpsr s x)))

/-- The instruction completes with a result in register fd of bank b, and its flags in fpsr. -/
def fpDone (s : State) (x : Exec) (b : Nat) (fd : BitVec 5) (r : F64 × Fl) : State :=
  advanced (fpPut (flagged s x r) (xcore x) b fd r.1) x

/-! ## Accesses -/

/-- The word in rs is a base (R128): an accepted word of pointer kind, or FORWARD or RAW at Supervisor level. -/
abbrev Base (s : State) (x : Exec) (w : W) : Prop := Whole w ∧ (isPtr w = true ∨ (xsup s x = true ∧ (w.tag = 0x300 ∨ w.tag = 0x006)))

/-- The word in rs is a base whose own va is aligned (R29), for the accesses of registers plus an offset. -/
abbrev Through (s : State) (x : Exec) (w : W) : Prop := Base s x w ∧ ((isPtr w = true ∨ w.tag = 0x300) → (vaOf w).toNat % 8 = 0)

/-- The private address va translates for an access of kind acc and passes the checks of R206, to leaf l of write-back memory, in which no watch
lies, while the garbage collector's barriers are off and no write of the GC registers is on its way to the core (R257, R258); the translation
leaves t. -/
abbrev Mapped (e : Env) (s : State) (va : BitVec 59) (acc size : Nat) (v : Option (BitVec 64)) (l : Leaf) (t : State) : Prop :=
  isGlobal va = false ∧ va.toNat % size = 0 ∧ translate e acc va size v s = (.ok l, t) ∧
    watch t e.x va (acc == 1 || acc == 3) = .ok () ∧ pteMt l.pte = 0 ∧ isReg (l.lpa va) = false ∧
    (s.gcLag.contains (xcore e.x) = false ∧ (gcOf s e.x).en = false) ∧ t.gcLag.contains (xcore e.x) = false ∧ (gcOf t e.x).en = false

/-- The core of x holds the line of a word, in the given state, with no store, append or healing write of x to the word
waiting, no tag error in the L1D and no error injected. -/
abbrev Held (t : State) (x : Exec) (key : Nat) (l : L1Line) : Prop :=
  ownStores t x key = [] ∧ ownBehind t x key = false ∧ (t.core (xcore x)).bypass = false ∧
    (t.core (xcore x)).tagErr = [] ∧ t.mem.armed = [] ∧ tget (t.core (xcore x)).l1d (key / 8) = some l

/-- The posted store of a whole word of write-back memory. -/
def wordStore (x : Exec) (key : Nat) (w : W) (l : Leaf) : PStore := { who := x, key := key, word := w, mask := 255, na := pteNa l.pte }

/-- A near atomic performed (R243): the new word in the line when it differs, the predictor counts down, the atomic is
counted. -/
def nearAtom (t : State) (x : Exec) (key i : Nat) (old w : W) : State :=
  let u := if w = old then t else perfStore t (xcore x) { who := x, key := key, word := w, mask := 255 }
  countEvent (trainAtom u (xcore x) i false) (xcore x) (whoOf u x) 0x14

end Sys2Proof.Claims

namespace Sys2Proof.Claims

open Sys2Proof.Machine

/-- A read of size bytes at a private address answers at once with the word of a line that the core of x holds; the
translation leaves t. -/
def Reads (e : Env) (s : State) (va : BitVec 59) (size : Nat) (w : W) (t : State) : Prop :=
  ∃ l h, Mapped e s va 0 size none l t ∧ Held t e.x (l.lpa va / 8) h ∧ h.st.hit = true ∧ w = lineWord h.data (l.lpa va / 8)

/-- Nothing differs but the branch predictors and performance counters of cores, and requests of counter overflow. -/
def Trained (s t : State) : Prop :=
  t = { s with cores := t.cores, tiles := t.tiles } ∧
  (∀ k, t.core k = { s.core k with dirTab := (t.core k).dirTab, ghist := (t.core k).ghist, btb := (t.core k).btb, pmc := (t.core k).pmc,
                                   pmsel := (t.core k).pmsel, fic := (t.core k).fic }) ∧
  (∀ k, FicKept s t k) ∧ ∀ j, t.tile j = { s.tile j with waking := (t.tile j).waking }

/-- The command completes with pc at an address, from the state v but for predictors and counters. -/
def Goes (c : Instr) (s v : State) (x : Exec) (pc : BitVec 59) : Prop := ∃ u, Trained v u ∧ Gives c s (jumped u x pc)

/-- No load of a wrong path follows a conditional branch: its direction is the predicted one, or spec_off is set (R109, R112, R113). A
fast interrupt context is not predicted. -/
def Foretold (s : State) (x : Exec) (taken : Bool) : Prop :=
  ∀ k, slotOf s x = some k → predicted s x k = taken ∨ (s.core (xcore x)).cfg.getLsbD 1 = true

/-- The command completes with pc at an address, after a wrong path (R111, R112): registers, records, memory and translations are
those of s; what the loads of the wrong path asked of caches and homes, and what it shifted into the histories, is free. -/
def Strays (c : Instr) (s : State) (x : Exec) (pc : BitVec 59) : Prop :=
  ∃ u, u.ctxs = s.ctxs ∧ u.mem = s.mem ∧ u.tlbs = s.tlbs ∧ (∀ k, FicKept s u k) ∧ Gives c s (jumped u x pc)

/-- Executor x issues REP with the word that follows it: the checks of its fetch and of a datapath failure pass, and the repeated
instruction's microcode meets no parity error. -/
abbrev RepReady (s : State) (x : Exec) (word : BitVec 32) : Prop :=
  canIssue s x = true ∧ bankArmed s x = false ∧ faultDue s x = false ∧ repChecks { x := x, word := word } s = .ok () ∧
    repMicroBad s x word = none

/-- One step of a long instruction is done, and the instruction goes on: a progress register takes a word, cnt falls by 1, pc stays (R137). -/
def stepped (s : State) (x : Exec) (r : BitVec 5) (w : W) (o : Op) : State :=
  (setRepeated (setXcnt (setXreg s x r w) x (xcnt s x - 1)) x (some (false, o.word))).tick

/-- The data of a pending access has come, and what is left of its instruction runs to its end on the registers that the access issued
with (R66), which leaves u; no substitution takes the core. -/
def GoesOn (s : State) (x : Exec) (p : Pend) (u : State) : Prop :=
  p.ready = true ∧ dyingX s x = false ∧ faultOf s x = none ∧ (∀ n was, x = .ctx n → p.regs = some was → regFile s x = some was) ∧
  (let q := answered s p
   pendBody p { x := x, word := p.word, once := q.once, words := q.words, contended := q.contended, bar := q.bar }
     (setPend (dropRead s x) x none) = (.ok .next, u)) ∧ (u.core (xcore x)).subst = false

/-- Context m issues nothing more, and the swap that takes it out of its slot is queued (R62, R71). -/
def Leaving (t : State) (m : Nat) : Prop := (t.ctx m).stopped = true ∧ ∃ w ∈ (t.core (coreOf m)).swaps, w.out = some m

/-- The handle in a word names record n of this device: its generation is current and the record is not FREE, it belongs to the
world of x and executes in it, its state is among those permitted, and it is not x itself (R79). -/
abbrev Targets (s : State) (x : Exec) (h : W) (n : Nat) (ok : CState → Bool) : Prop :=
  xsup s x = true ∧ h.tag = 0x007 ∧ bitsN h.payload 0 16 = n ∧ bitsN h.payload 16 16 = (devNo s).toNat ∧ n < 40960 ∧
    bitsN h.payload 32 16 = (s.ctx n).dir.gen.toNat ∧ (s.ctx n).dir.state ≠ .free ∧ (s.ctx n).dir.owner = xworld s x ∧
    (s.ctx n).r.world = xworld s x ∧ ok (s.ctx n).dir.state = true ∧ x ≠ .ctx (BitVec.ofNat 16 n)

end Sys2Proof.Claims

namespace Sys2Proof.Claims

open Sys2Proof.Machine

/-! ## Coherence messages and registers -/

/-- The first message of a kind from a core about a line is at the line's home and can be taken, which leaves u (R234). -/
abbrev AtHome (s : State) (k : MsgK) (core line : Nat) (m : Msg) (u : State) : Prop :=
  takeMsg s (fun m => m.kind == k && (m.src == core && (m.line == line && m.dst == homeNode s line))) = some (m, u)

/-- The first message of a kind about a line is at a core and can be taken, which leaves u. -/
abbrev AtCore (s : State) (k : MsgK) (core line : Nat) (m : Msg) (u : State) : Prop := takeFor s k core line = some (m, u)

/-- The home of a request's line accepts it at once and needs to ask nobody: its tile is live, no core holds the line, no
transaction of the line is open, a way of the snoop filter is free, no priority request waits, and the request carries a credit. -/
abbrev HomeFree (u : State) (r : Req) : Prop :=
  (u.tile (homeTile u r.line)).dead = false ∧ (u.core r.core).dead = false ∧ entryOf u r.line = {} ∧ (u.tile (homeTile u r.line)).prioQ = [] ∧
    r.credit = true ∧ ((u.tile (homeTile u r.line)).sf.filter fun x => sfSet x.1 == sfSet r.line).length < 4

/-- The L2 slice of a line's home holds it as a home line, and no error is injected. -/
abbrev InL2 (u : State) (line : Nat) (l : L2Line) : Prop := tget (u.tile (homeTile u line)).l2 line = some l ∧ l.data.length = 8 ∧ u.mem.armed = []

/-- The home's answer to a request. -/
def replyTo (u : State) (r : Req) (k : MsgK) (d : Option Line) : Msg :=
  { kind := k, src := homeNode u r.line, dst := r.core, line := r.line, data := d, req := some r }

/-- A request of a kind arrives at its line's home, which accepts it at once; no other message about the line arrives with it (R242). -/
def Asked (s : State) (k : MsgK) (rk : ReqK) (core line : Nat) (r : Req) (u : State) : Prop :=
  ∃ m, AtHome s k core line m u ∧ m.req = some r ∧ r.kind = rk ∧ r.core = core ∧ r.line = line ∧ HomeFree u r ∧ sameCycle s m (fun _ => true) = []

/-- A snoop is at a core, which holds the line and does not hold the snoop, and no error is injected. -/
abbrev Snooped (s : State) (k : MsgK) (core line : Nat) (m : Msg) (u : State) (l : L1Line) : Prop :=
  AtCore s k core line m u ∧ heldSnoop s m = false ∧ tget (u.core core).l1d line = some l ∧ u.mem.armed = []

/-- The L1D of a core holds a line in a state, or not at all, and the core sent messages since u. -/
def Answered (u t : State) (core line : Nat) (l : L1Line) (st : Option L1) (ms : List Msg) : Prop :=
  tget (t.core core).l1d line = (st.map fun a => { l with st := a }) ∧ t.mesh = u.mesh ++ ms

/-- Software of a world may write a value to a location of register space (R164, R439). -/
abbrev MayWrite (s : State) (w : World) (lpa : Nat) (v : BitVec 64) : Prop := worldRuns s w = true ∧ regWriteOk s w lpa v = true

end Sys2Proof.Claims

namespace Sys2Proof.Claims

open Sys2Proof.Machine

/-! ## Engines and sequencers -/

/-- Sequencer k is at an instruction boundary of a running program, and the word stands at its pc (after a PFX) with good parity, before the last
word of the program memory (R386, R395, R401). -/
abbrev Fetches (s : State) (k : Nat) (word : BitVec 14) : Prop :=
  reedReady s k = true ∧ (s.sq k).progBad.contains (s.sq k).at_ = false ∧ tgetD (s.sq k).prog (s.sq k).at_ 0 = word ∧ (s.sq k).at_ < 4095

/-- Sequencer k is left with these registers, at the next word. -/
def nextWord (s : State) (k : Nat) (q : Seq) : State := (s.setSq k { q with pc := BitVec.ofNat 12 (q.at_ + 1), pfx := none }).tick

/-- Sequencer k is left with these registers, at an address. -/
def atWord (s : State) (k : Nat) (q : Seq) (pc : BitVec 12) : State := (s.setSq k { q with pc := pc, pfx := none }).tick

/-- An immediate, which a PFX before the instruction extends to the left (R395). -/
def immOf (q : Seq) {n : Nat} (v : BitVec n) : BitVec 64 :=
  match q.pfx with
  | some e => (e ++ v).signExtend 64
  | none => v.signExtend 64

/-- Channel ch runs, is in a phase, and no domain waits to power down (R364, R370, R382). -/
abbrev InPhase (s : State) (ch : Nat) (ph : Phase) : Prop := valleyOn s = true ∧ (s.chan ch).st = .running ∧ (s.chan ch).phase = ph

end Sys2Proof.Claims

namespace Sys2Proof.Claims

open Sys2Proof.Machine

/-! ## Other devices and links -/

/-- A message is addressed to this device, which performs requests (R439). -/
abbrev Here (s : State) (h : Hdr) : Prop := h.dest = devNo s ∧ reqTraffic s.mg.mode = .performed

/-- The device has sent these messages since a state. -/
def sentSince (s t : State) (l : List Sent) : Prop := t.remote.sent = s.remote.sent ++ l

/-- A message of the device's own, with authority of a supervisor of System World. -/
def note (s : State) (dest : BitVec 16) (w : World) (vc : BitVec 3) (b : Body) : Sent := ⟨⟨dest, devNo s, 0xFFFF, w, true, 0, 0⟩, vc, b⟩

/-- An answer finds the operation whose tag it carries: its slot is taken, by the tag's generation, and by the device it comes from. -/
abbrev Answers (s : State) (h : Hdr) (o : OutOp) : Prop := h.dest = devNo s ∧ findOp s h = some o

/-- The slot of the answered operation is free and its generation is one higher (R344). -/
def SlotFreed (s t : State) (h : Hdr) : Prop :=
  tget t.remote.ops h.slot.toNat = none ∧ tgetD t.remote.gens h.slot.toNat 0 = tgetD s.remote.gens h.slot.toNat 0 + 1

/-- A context waits for the answer in a slot. -/
abbrev WaitsFor (s : State) (n slot : Nat) (p : Pend) : Prop := (s.ctx n).pend = some p ∧ p.why = .remote ∧ p.needs = some slot

/-- A good flit of a type arrives on an UP port. -/
abbrev FlitAt (s : State) (p ty : Nat) (f : Flit) : Prop := (s.port p).st = .up ∧ flitGood f = true ∧ f.ftype = ty

/-- The port after the ack of a flit is used; a flit other than IDLE ends low-power idle. -/
def acked (s : State) (p ty : Nat) (f : Flit) : Port := { takeAck (s.port p) f.ack with lowPower := (s.port p).lowPower && ty == 0 }

/-- The port after a sequenced flit in order is accepted: the next number, no recovery, and the credits returned. -/
def inOrder (s : State) (p ty : Nat) (f : Flit) : Port :=
  let q := acked s p ty f
  { q with rxSeq := f.seq + 1, recovery := false, sentNaks := 0,
           credits := if ty = 5 then q.credits else addCredit (addCredit q.credits f.cc0 f.cn0) f.cc1 f.cn1 }

end Sys2Proof.Claims
end

