-- ==== Sys2Proof/Certificates/Slice0/Obligations.lean ====
section
/-! DEFINITION. The statements about the model, one proposition each. A statement about an instruction names the checks that
come before the instruction's own as `Ready`; a statement about any other command names the conditions under which the
command's event occurs. -/

open Sys2Proof Sys2Proof.Machine Sys2Proof.Claims

/-- A step runs the command at the front of the queue with the queue's rest. For every command c, every rest of the queue
and every state s whose queue is c followed by that rest, one step of s is exec of c on s with the rest as its queue.
That waiting commands are a queue, first in, first out, is the form of the model (log entry 1).
(95_what_each_step_holds.md.) -/
def Obligations.StepTakesFront : Prop :=
  ∀ (c : Instr) (rest : List Instr) (s : State), s.pending = c :: rest → step s = exec c { s with pending := rest }

/-- With no command waiting, a step changes nothing (the model's choice). On an empty queue the block idles: the step
answers the same state. This is the model's choice (log entry 2); the manual's time-driven events are commands of
their own. (95_what_each_step_holds.md.) -/
def Obligations.EmptyQueueIdles : Prop :=
  ∀ s : State, s.pending = [] → step s = .next s

/-- Every command answers a next state; only an unlisted instruction of the test port is refused. For every command and
state, exec answers a next state, or the command is TAP_INSTRUCTION of an instruction register value other than IDCODE
and BYPASS, in LOADER with the fuse jtag_en at 1, and exec refuses it with tapUnspecified (log entry 90): the manual
names those instructions and does not give their effect. (R504.) -/
def Obligations.OnlyUnlistedTapInstructionsStop : Prop :=
  ∀ (c : Instr) (s : State), (∃ t, exec c s = .next t) ∨
    (∃ ir, c = .tapInstruction ir ∧ exec c s = .refused .tapUnspecified ∧ s.mg.mode = .loader ∧ ir ≠ 1 ∧ ir ≠ 0xFF ∧ dval s 0x4001 1 = 1)

/-- The state at reset: OFF, no context, no memory word, empty queue, NIL in every register. At reset the device is in
mode OFF; every record is FREE with generation 0 and holds NIL in every register; memory lists no word (an unlisted
word reads UNINIT with payload zero), no message, no cached translation and no TLBI exists, every tile and domain is
off, every port is DOWN, every channel is IDLE and every sequencer IDLE; the queue is empty. The register values are
those of log entry 3 where the manual gives none. (R438, R61, R45, R450, R349, R370.) -/
def Obligations.ResetState : Prop :=
  State.reset.pending = [] ∧ State.reset.mg.mode = .off ∧
  (∀ n, (State.reset.ctx n).dir.state = .free ∧ (State.reset.ctx n).dir.gen = 0 ∧ ∀ r, ctxReg (State.reset.ctx n) r = nilW) ∧
  State.reset.mem.words = [] ∧ (∀ k, dfltW State.reset.mem.lost k = uninitW) ∧
  State.reset.mesh = [] ∧ State.reset.tlbs = [] ∧ State.reset.tlbis = [] ∧
  (∀ j, (State.reset.tile j).power = .off) ∧ State.reset.mg.pd = [] ∧ (∀ p, (State.reset.port p).st = .down) ∧
  (∀ k, (State.reset.chan k).st = .idle) ∧ (∀ k, (State.reset.sq k).st = .idle) ∧ State.reset.remote.sent = []

/-- Decoding the word of an instruction gives the instruction back. For every instruction whose own checks of fields pass
(no undefined func of opcode 0x12, no undefined class of BT and BNT: R121), with every operand at every value its
field admits, the decoder reads the instruction back from the word that the formats of R106 give it. No bit of an
encoding is dropped and no two instructions share a word. (R106, R117, R131, R135, R121.) -/
def Obligations.WordRoundTrip : Prop :=
  ∀ o : Op, (match o with
      | .atomic op _ _ _ _ => op.toNat < 6
      | .bt _ cls _ | .bnt _ cls _ => cls.toNat < 30
      | .alloc _ _ imm => imm.toNat < 1024 ∧ allocCode imm.toNat = true
      | .mfs _ sel | .mts _ sel => sprOk sel.toNat = true
      | .ctxrd _ _ sel | .ctxwr _ _ sel => itemOk sel.toNat = true
      | _ => True) → decodeInstr o.word = .ok o

/-- Words written out from the encoding tables decode to the instructions they stand for. One word of each format, written
bit by bit from R106 and the tables of opcodes: IADD r3, r4, r5; MOVI r8, -1; LDW r9, r7, 16; BZ r2, -2; J 5; RETW; a
word with a nonzero unused field is refused with NONZERO_FIELD and one with no instruction with UNDEFINED. (R106,
R117, R121, R124, R129.) -/
def Obligations.WordsOfTheTables : Prop :=
  decodeInstr 0b00000000011001000010100000000001#32 = .ok (.iadd 3 4 5) ∧
  decodeInstr 0b00001001000000000011111111111111#32 = .ok (.movi 8 (-1)) ∧
  decodeInstr 0b00110001001001110000000000010000#32 = .ok (.ldw 9 7 16) ∧
  decodeInstr 0b01100000010111111111111111111110#32 = .ok (.bz 2 (-2)) ∧
  decodeInstr 0b10000000000000000000000000000101#32 = .ok (.j 5) ∧
  decodeInstr 0b10010000000000000000000000000000#32 = .ok .retw ∧
  decodeInstr 0b10010000000000000000000000000001#32 = .error 2 ∧
  decodeInstr 0b11010000000000000000000000000000#32 = .error 1

/-- Every step keeps the words of memory in their canonical form. For every state whose memory words are listed in
strictly rising order with none equal to what an unlisted word reads as (UNINIT zero, or the LOST word of a share that
a start declared lost), every step that answers a next state leaves memory in that form again, so that equal memories
are equal data. (R45, R251.) -/
def Obligations.MemoryCanonicalKept : Prop :=
  ∀ s t : State, MemOk s → step s = .next t → MemOk t

/-- The memory at reset is in its canonical form. The invariant that every step keeps holds at reset. (R45.) -/
def Obligations.ResetMemoryCanonical : Prop :=
  MemOk State.reset

/-- g0 reads as NIL and a write to it is discarded, for contexts and fast interrupt contexts. In every state, register 0
of every executor reads as NIL with zero payload, and writing register 0 leaves every register of the executor as it
was; a register other than g0 that is written reads back what was written. (R86.) -/
def Obligations.GlobalZero : Prop :=
  ∀ (s : State) (x : Exec) (v : W), xreg s x 0 = ⟨0x004, 0⟩ ∧ (∀ r, xreg (setXreg s x 0 v) x r = xreg s x r) ∧
    ∀ r, r ≠ 0 → xreg (setXreg s x r v) x r = v

/-- What the register forms of the integer operations compute, and all they change. When executor x issues the instruction
(Ready) and its operands are integers (words of any accepted tag for EQ and NE, any word at all for MOV and TAGOF),
MOV copies; IADD, ISUB and IMUL wrap modulo 2^64; AND, OR, XOR and ANDN are bitwise; the tag of the result is FIXNUM
when both operands are FIXNUM and RAW otherwise; SHL, SHR and SAR shift rs by rt[5:0] and keep the tag of rs; ULT, EQ
and NE give FIXNUM 1 or 0. The result is read in rd, pc goes on by 4, and every other register, the special registers,
memory and the other contexts are as before (Result); a write to g0 is discarded. (R124, R86, R30.) -/
def Obligations.IntegerResults : Prop :=
  ∀ (s : State) (x : Exec) (rd rs rt : BitVec 5),
  let a := xreg s x rs
  let b := xreg s x rt
  (Ready s x (.mov rd rs) → Result (.mov x rd rs) s x rd a) ∧
  (Ready s x (.tagof rd rs) → Result (.tagof x rd rs) s x rd ⟨0x001, a.tag.zeroExtend 64⟩) ∧
  (IsInt a → IsInt b →
    (Ready s x (.iadd rd rs rt) → Result (.iadd x rd rs rt) s x rd ⟨tag2 a b, a.payload + b.payload⟩) ∧
    (Ready s x (.isub rd rs rt) → Result (.isub x rd rs rt) s x rd ⟨tag2 a b, a.payload - b.payload⟩) ∧
    (Ready s x (.imul rd rs rt) → Result (.imul x rd rs rt) s x rd ⟨tag2 a b, a.payload * b.payload⟩) ∧
    (Ready s x (.and rd rs rt) → Result (.and x rd rs rt) s x rd ⟨tag2 a b, a.payload &&& b.payload⟩) ∧
    (Ready s x (.or rd rs rt) → Result (.or x rd rs rt) s x rd ⟨tag2 a b, a.payload ||| b.payload⟩) ∧
    (Ready s x (.xor rd rs rt) → Result (.xor x rd rs rt) s x rd ⟨tag2 a b, a.payload ^^^ b.payload⟩) ∧
    (Ready s x (.andn rd rs rt) → Result (.andn x rd rs rt) s x rd ⟨tag2 a b, a.payload &&& ~~~b.payload⟩) ∧
    (Ready s x (.shl rd rs rt) → Result (.shl x rd rs rt) s x rd ⟨a.tag, a.payload <<< (b.payload.toNat % 64)⟩) ∧
    (Ready s x (.shr rd rs rt) → Result (.shr x rd rs rt) s x rd ⟨a.tag, a.payload >>> (b.payload.toNat % 64)⟩) ∧
    (Ready s x (.sar rd rs rt) → Result (.sar x rd rs rt) s x rd ⟨a.tag, a.payload.sshiftRight (b.payload.toNat % 64)⟩) ∧
    (Ready s x (.ult rd rs rt) → Result (.ult x rd rs rt) s x rd (truth (a.payload.toNat < b.payload.toNat)))) ∧
  (Whole a → Whole b →
    (Ready s x (.eq rd rs rt) → Result (.eq x rd rs rt) s x rd (truth (identical a b = true))) ∧
    (Ready s x (.ne rd rs rt) → Result (.ne x rd rs rt) s x rd (truth (identical a b = false))))

/-- What the immediate and tag instructions compute, and all they change. When executor x issues the instruction: MOVI and
MOVI.R write the sign-extended immediate as FIXNUM and RAW; LDC shifts an integer left by 14 and adds the immediate
below it; EQI, LTI, LEI and GTI compare a FIXNUM, signed, with the sign-extended immediate; SHLI, SHRI and SARI shift
an integer by imm[5:0]; ANDI is the AND with the sign-extended immediate; TAGIS and KINDIS compare the tag and the
kind of any word; SETTAG of an accepted word to a code that is not reserved, at Supervisor level, writes the word with
the new tag, with zero payload for UNINIT, NIL, UNBOUND and DEFAULT, if it is no CHAR out of range. The result is read
in rd and nothing else changes but pc (Result). (R124, R126, R25, R27.) -/
def Obligations.ImmediateResults : Prop :=
  ∀ (s : State) (x : Exec) (rd rs : BitVec 5) (imm : BitVec 14) (sh : BitVec 6) (tag : BitVec 10) (kind : BitVec 2),
  let a := xreg s x rs
  let v := imm.signExtend 64
  (Ready s x (.movi rd imm) → Result (.movi x rd imm) s x rd ⟨0x001, v⟩) ∧
  (Ready s x (.moviR rd imm) → Result (.moviR x rd imm) s x rd ⟨0x006, v⟩) ∧
  (IsInt a →
    (Ready s x (.ldc rd rs imm) → Result (.ldc x rd rs imm) s x rd ⟨a.tag, a.payload * 16384 + imm.zeroExtend 64⟩) ∧
    (Ready s x (.shli rd rs sh) → Result (.shli x rd rs sh) s x rd ⟨a.tag, a.payload <<< sh.toNat⟩) ∧
    (Ready s x (.shri rd rs sh) → Result (.shri x rd rs sh) s x rd ⟨a.tag, a.payload >>> sh.toNat⟩) ∧
    (Ready s x (.sari rd rs sh) → Result (.sari x rd rs sh) s x rd ⟨a.tag, a.payload.sshiftRight sh.toNat⟩) ∧
    (Ready s x (.andi rd rs imm) → Result (.andi x rd rs imm) s x rd ⟨a.tag, a.payload &&& v⟩)) ∧
  (IsFix a →
    (Ready s x (.eqi rd rs imm) → Result (.eqi x rd rs imm) s x rd (truth (a.payload.toInt = imm.toInt))) ∧
    (Ready s x (.lti rd rs imm) → Result (.lti x rd rs imm) s x rd (truth (a.payload.toInt < imm.toInt))) ∧
    (Ready s x (.lei rd rs imm) → Result (.lei x rd rs imm) s x rd (truth (a.payload.toInt ≤ imm.toInt))) ∧
    (Ready s x (.gti rd rs imm) → Result (.gti x rd rs imm) s x rd (truth (imm.toInt < a.payload.toInt)))) ∧
  (Ready s x (.tagis rd rs tag) → Result (.tagis x rd rs tag) s x rd (truth (a.tag = tag))) ∧
  (Ready s x (.kindis rd rs kind) → Result (.kindis x rd rs kind) s x rd (truth (a.tag.toNat / 256 = kind.toNat))) ∧
  (Whole a → xsup s x = true → reservedTag tag = false →
    (tag = 0x003 → a.payload.toNat ≤ 0x10FFFF ∧ (a.payload.toNat < 0xD800 ∨ 0xDFFF < a.payload.toNat)) →
    Ready s x (.settag rd rs tag) → Result (.settag x rd rs tag) s x rd
      ⟨tag, if tag = 0x000 ∨ tag = 0x004 ∨ tag = 0x005 ∨ tag = 0x00F then 0 else a.payload⟩)

/-- An operand of an integer operation that is no integer takes TAG_TRAP with operand and tag, and writes no register.
When executor x issues one of IADD, ISUB, IMUL, AND, OR, XOR, ANDN, SHL, SHR, SAR and ULT and rs holds an accepted
word that is no integer, the answer is the entry of TAG_TRAP (cause 0x05, xaddr 0) whose xinfo holds subcode 1 in
[7:0], operand 0 in [9:8] and the tag found in [19:10]; with rs an integer and rt not, operand 1. The entry (raiseX)
is all that happens; ExceptionEntry says what it keeps. (R121, R124, R166.) -/
def Obligations.IntegerTagTraps : Prop :=
  ∀ (s : State) (x : Exec) (rd rs rt : BitVec 5) (c : Instr) (o : Op),
  ((c, o) ∈ [(.iadd x rd rs rt, .iadd rd rs rt), (.isub x rd rs rt, .isub rd rs rt), (.imul x rd rs rt, .imul rd rs rt),
    (.and x rd rs rt, .and rd rs rt), (.or x rd rs rt, .or rd rs rt), (.xor x rd rs rt, .xor rd rs rt),
    (.andn x rd rs rt, .andn rd rs rt), (.shl x rd rs rt, .shl rd rs rt), (.shr x rd rs rt, .shr rd rs rt),
    (.sar x rd rs rt, .sar rd rs rt), (.ult x rd rs rt, Op.ult rd rs rt)]) → Ready s x o →
  let a := xreg s x rs
  let b := xreg s x rt
  (Whole a → ¬ IsInt a → Gives c s (raiseX s x ⟨0x05, 0, BitVec.ofNat 64 (1 + 1024 * a.tag.toNat), none, 0⟩).tick) ∧
  (IsInt a → Whole b → ¬ IsInt b → Gives c s (raiseX s x ⟨0x05, 0, BitVec.ofNat 64 (1 + 256 + 1024 * b.tag.toNat), none, 0⟩).tick)

/-- Generic arithmetic and comparison of two FIXNUMs: exact when it fits, and all they change. When executor x issues a
generic instruction with two FIXNUM operands and the exact result fits in 64 bits (for DIV and REM: the divisor is not
zero), ADD, SUB, MUL, DIV (towards zero), REM (the sign of the dividend), NEG and ADDI write it as a FIXNUM, and
NUMEQ, LT and LE write FIXNUM 1 or 0. Nothing else changes but pc (Result). (R145, R125, R144.) -/
def Obligations.FixnumArithmetic : Prop :=
  ∀ (s : State) (x : Exec) (rd rs rt : BitVec 5) (imm : BitVec 14),
  let a := (xreg s x rs).payload.toInt
  let b := (xreg s x rt).payload.toInt
  let fits : Int → Prop := fun v => -(2 ^ 63) ≤ v ∧ v < 2 ^ 63
  let w : Int → W := fun v => ⟨0x001, BitVec.ofInt 64 v⟩
  IsFix (xreg s x rs) →
  (Ready s x (.neg rd rs) → fits (-a) → Result (.neg x rd rs) s x rd (w (-a))) ∧
  (Ready s x (.addi rd rs imm) → fits (a + imm.toInt) → Result (.addi x rd rs imm) s x rd (w (a + imm.toInt))) ∧
  (IsFix (xreg s x rt) →
    (Ready s x (.add rd rs rt) → fits (a + b) → Result (.add x rd rs rt) s x rd (w (a + b))) ∧
    (Ready s x (.sub rd rs rt) → fits (a - b) → Result (.sub x rd rs rt) s x rd (w (a - b))) ∧
    (Ready s x (.mul rd rs rt) → fits (a * b) → Result (.mul x rd rs rt) s x rd (w (a * b))) ∧
    (Ready s x (.div rd rs rt) → b ≠ 0 → fits (a.tdiv b) → Result (.div x rd rs rt) s x rd (w (a.tdiv b))) ∧
    (Ready s x (.rem rd rs rt) → b ≠ 0 → Result (.rem x rd rs rt) s x rd (w (a.tmod b))) ∧
    (Ready s x (.numeq rd rs rt) → Result (.numeq x rd rs rt) s x rd (truth (a = b))) ∧
    (Ready s x (.lt rd rs rt) → Result (.lt x rd rs rt) s x rd (truth (a < b))) ∧
    (Ready s x (.le rd rs rt) → Result (.le x rd rs rt) s x rd (truth (a ≤ b))))

/-- The floating-point operations on the bound bank write their result and their flags. When executor x issues the
instruction with bank b bound, in its world and unclaimed, and no flag that the operation raises is enabled to trap:
register fd of the bank takes the result of the operation (rounded by fpsr.rm: FADD, FSUB, FMUL, FDIV, FSQRT, FMA,
FMIN, FMAX), its flags are ORed into fpsr, and pc goes on by 4. FNEG flips the sign bit, FABS clears it, and FMOV
copies, and none of the three raises a flag or traps. What else the state keeps is said by FpRegistersKept. (R127,
R149, R150, R151, R98.) -/
def Obligations.FpArithmetic : Prop :=
  ∀ (s : State) (x : Exec) (fd fs ft : BitVec 5) (b : Nat), BankOk s x b →
  let m := rmOf (xfpsr s x)
  let g := fpGet s (xcore x) b
  (Ready s x (.fadd fd fs ft) → NoTrap s x (fadd m (g fs) (g ft)) → Gives (.fadd x fd fs ft) s (fpDone s x b fd (fadd m (g fs) (g ft)))) ∧
  (Ready s x (.fsub fd fs ft) → NoTrap s x (fsub m (g fs) (g ft)) → Gives (.fsub x fd fs ft) s (fpDone s x b fd (fsub m (g fs) (g ft)))) ∧
  (Ready s x (.fmul fd fs ft) → NoTrap s x (fmul m (g fs) (g ft)) → Gives (.fmul x fd fs ft) s (fpDone s x b fd (fmul m (g fs) (g ft)))) ∧
  (Ready s x (.fdiv fd fs ft) → NoTrap s x (fdiv m (g fs) (g ft)) → Gives (.fdiv x fd fs ft) s (fpDone s x b fd (fdiv m (g fs) (g ft)))) ∧
  (Ready s x (.fma fd fs ft) → NoTrap s x (ffma m (g fd) (g fs) (g ft)) → Gives (.fma x fd fs ft) s (fpDone s x b fd (ffma m (g fd) (g fs) (g ft)))) ∧
  (Ready s x (.fmin fd fs ft) → NoTrap s x (fminmax false (g fs) (g ft)) → Gives (.fmin x fd fs ft) s (fpDone s x b fd (fminmax false (g fs) (g ft)))) ∧
  (Ready s x (.fmax fd fs ft) → NoTrap s x (fminmax true (g fs) (g ft)) → Gives (.fmax x fd fs ft) s (fpDone s x b fd (fminmax true (g fs) (g ft)))) ∧
  (Ready s x (.fsqrt fd fs) → NoTrap s x (fsqrt m (g fs)) → Gives (.fsqrt x fd fs) s (fpDone s x b fd (fsqrt m (g fs)))) ∧
  (Ready s x (.fneg fd fs) → Gives (.fneg x fd fs) s (fpDone s x b fd (g fs ^^^ 0x8000000000000000, {}))) ∧
  (Ready s x (.fabs fd fs) → Gives (.fabs x fd fs) s (fpDone s x b fd (g fs &&& 0x7FFFFFFFFFFFFFFF, {}))) ∧
  (Ready s x (.fmov fd fs) → Gives (.fmov x fd fs) s (fpDone s x b fd (g fs, {})))

/-- Floating-point comparisons, moves between files and conversions. When executor x issues the instruction with bank b
bound, in its world and unclaimed, and no flag raised is enabled to trap: FCEQ, FCLT and FCLE write FIXNUM 1 or 0 by
the order of the two numbers (0 with a NaN); FMVGF copies the payload of a FLOAT64 word into the bank and FMVFG makes
a FLOAT64 word of a bank register, with no flag; FCVTXF converts a FIXNUM and FCVTFX a bank register, rounded by
fpsr.rm; flags are ORed into fpsr. (R127, R152, R148, R151.) -/
def Obligations.FpComparesAndMoves : Prop :=
  ∀ (s : State) (x : Exec) (rd rs fd fs ft : BitVec 5) (b : Nat), BankOk s x b →
  let m := rmOf (xfpsr s x)
  let g := fpGet s (xcore x) b
  let a := xreg s x rs
  (Ready s x (.fceq rd fs ft) → NoTrap s x (frel 0 (fdec (g fs)) (fdec (g ft)) (isSnan (g fs) || isSnan (g ft))) → Gives (.fceq x rd fs ft) s
    (advanced (setXreg (flagged s x (frel 0 (fdec (g fs)) (fdec (g ft)) (isSnan (g fs) || isSnan (g ft)))) x rd
      (boolW (frel 0 (fdec (g fs)) (fdec (g ft)) (isSnan (g fs) || isSnan (g ft))).1)) x)) ∧
  (Ready s x (.fclt rd fs ft) → NoTrap s x (frel 1 (fdec (g fs)) (fdec (g ft)) (isSnan (g fs) || isSnan (g ft))) → Gives (.fclt x rd fs ft) s
    (advanced (setXreg (flagged s x (frel 1 (fdec (g fs)) (fdec (g ft)) (isSnan (g fs) || isSnan (g ft)))) x rd
      (boolW (frel 1 (fdec (g fs)) (fdec (g ft)) (isSnan (g fs) || isSnan (g ft))).1)) x)) ∧
  (Ready s x (.fcle rd fs ft) → NoTrap s x (frel 2 (fdec (g fs)) (fdec (g ft)) (isSnan (g fs) || isSnan (g ft))) → Gives (.fcle x rd fs ft) s
    (advanced (setXreg (flagged s x (frel 2 (fdec (g fs)) (fdec (g ft)) (isSnan (g fs) || isSnan (g ft)))) x rd
      (boolW (frel 2 (fdec (g fs)) (fdec (g ft)) (isSnan (g fs) || isSnan (g ft))).1)) x)) ∧
  (Ready s x (.fmvgf fd rs) → a.tag = 0x002 → Gives (.fmvgf x fd rs) s (advanced (fpPut s (xcore x) b fd a.payload) x)) ∧
  (Ready s x (.fmvfg rd fs) → Gives (.fmvfg x rd fs) s (advanced (setXreg s x rd ⟨0x002, g fs⟩) x)) ∧
  (Ready s x (.fcvtxf fd rs) → IsFix a → NoTrap s x (fromInt m a.payload.toInt) → Gives (.fcvtxf x fd rs) s (fpDone s x b fd (fromInt m a.payload.toInt))) ∧
  (Ready s x (.fcvtfx rd fs) → NoTrap s x (toFix m (g fs)) → Gives (.fcvtfx x rd fs) s
    (advanced (setXreg (flagged s x (toFix m (g fs))) x rd ⟨0x001, (toFix m (g fs)).1⟩) x))

/-- What a floating-point result changes: one bank register, fpsr flags, pc, and nothing else. For every state, context
and bank: after a floating-point result goes to fd of bank b (fpDone), that register of the bank reads the result,
every other register of every bank of every core reads as before, fpsr is the old fpsr with the flags, the general
registers, lk, cnt and the window are as before, pc goes on by 4, other contexts, memory words, caches and messages
are unchanged. (R98, R150.) -/
def Obligations.FpRegistersKept : Prop :=
  ∀ (s : State) (n : BitVec 16) (b : Nat) (fd : BitVec 5) (r : F64 × Fl),
  let x := Exec.ctx n
  let t := fpDone s x b fd r
  fpGet t (xcore x) b fd = r.1 ∧
  (∀ k b' f, (k, b', f.toNat % 16) ≠ (xcore x, b, fd.toNat % 16) → fpGet t k b' f = fpGet s k b' f) ∧
  xfpsr t x = orFlags (xfpsr s x) (r.2.bits (xfpsr s x)) ∧ (∀ q, xreg t x q = xreg s x q) ∧
  xlk t x = xlk s x ∧ xcnt t x = xcnt s x ∧ xpc t x = xpc s x + 4 ∧
  (∀ k, k ≠ n.toNat → t.ctx k = s.ctx k) ∧ (t.ctx n.toNat).dir = (s.ctx n.toNat).dir ∧
  t.mem = s.mem ∧ t.mesh = s.mesh ∧ t.tlbs = s.tlbs ∧ t.pending = s.pending ∧
  (∀ k, (t.core k).l1d = (s.core k).l1d ∧ (t.core k).stores = (s.core k).stores)

/-- Bit 4 of a field that names a floating-point register raises ILLEGAL_OPCODE with REGISTER. For every context that
issues with no injected error waiting in its registers and the fetch checks passed, every instruction of opcode 0x08
with a 1 in bit 4 of a field that names an FP register raises ILLEGAL_OPCODE (cause 0x01) with subcode REGISTER (8) in
xinfo[7:0] and the instruction word in xinfo[63:32], and its own operation does not happen; otherwise these fields
cause no such refusal: with no parity error in its microcode it is issued (Ready). (R118.) -/
def Obligations.FpFieldBit4 : Prop :=
  ∀ (s : State) (n : BitVec 16) (o : Op) (body : Body_), canIssue s (.ctx n) = true → bankArmed s (.ctx n) = false → faultDue s (.ctx n) = false →
  pcChecks (env (.ctx n) o) s = .ok () → busCheck (env (.ctx n) o) s = .ok () → o.fpFields ≠ [] →
  ((∃ r ∈ o.fpFields, r.getLsbD 4 = true) → issue (.ctx n) o body s =
      raiseX (clearBus s (.ctx n)) (.ctx n) ⟨0x01, 0, BitVec.ofNat 64 (8 + 2 ^ 32 * o.word.toNat), none, 0⟩) ∧
  ((∀ r ∈ o.fpFields, r.getLsbD 4 = false) → microBad s (.ctx n) o = none → Ready s (.ctx n) o)

/-- Completing an instruction changes pc, wsup, the long-instruction mark and performance counters alone. For every state
u, executor x and address: completing at the address (jumped; advanced is completing at pc + 4) leaves pc there, every
register, lk, cnt, fpsr and the rest of the record as in u except wsup, which R161 clears, and the mark of a long
instruction; other contexts, memory, caches, messages, translations and the queue are as in u; the performance
counters count one instruction, which may set a counter-overflow request pending at the core's fast interrupt context.
The statements of results of accesses, branches and system instructions name their next state by these two functions.
(R161, R115, R114.) -/
def Obligations.CompletionFrame : Prop :=
  ∀ (u : State) (x : Exec) (pc : BitVec 59),
  let t := jumped u x pc
  xpc t x = pc ∧ SelfKept u t x 0 ∧ Around u t ∧ t.free = u.free + 1 ∧ (∀ r, xreg t x r = xreg u x r) ∧
    xlk t x = xlk u x ∧ xcnt t x = xcnt u x ∧ xfpsr t x = xfpsr u x ∧ advanced u x = jumped u x (xpc u x + 4)

/-- A load whose line the core holds writes the word of the line to rd. When executor x issues a load through an aligned
base (R29) at an aligned private address that translates and passes the checks of R206 (leaving t), to write-back
memory with the barriers of the collector off and no watch, and its core holds the line in a state that hits (Reads),
the word of the line goes to rd and pc goes on by 4 (the state t, rd written, completed: CompletionFrame says what
that keeps; memory and the line are unchanged): LDW, LDW.A, LDX, LDX.A, LDPC, CAR (at va + 8) and CDR (at va + 16) for
any word that is not UNINIT, LDW.P for any word at Supervisor level; LDB and LDH write the byte or the half of a RAW
word as RAW. CAR and CDR of NIL write NIL. (R128, R129, R130, R132, R206, R236.) -/
def Obligations.LoadHits : Prop :=
  ∀ (s : State) (x : Exec) (rd rs rt : BitVec 5) (imm : BitVec 14) (off : BitVec 21),
  let a := xreg s x rs
  (∀ w t, let va := addOff (vaOf a) (imm.signExtend 64)
    Ready s x (.ldw rd rs imm) → Through s x a → Reads (env x (.ldw rd rs imm)) s va 8 w t → w.tag ≠ 0x000 →
    Gives (.ldw x rd rs imm) s (advanced (setXreg t x rd (w)) x)) ∧
  (∀ w t, let va := addOff (vaOf a) (imm.signExtend 64)
    Ready s x (.ldwA rd rs imm) → Through s x a → Reads (env x (.ldwA rd rs imm)) s va 8 w t → w.tag ≠ 0x000 →
    Gives (.ldwA x rd rs imm) s (advanced (setXreg t x rd (w)) x)) ∧
  (∀ w t, let va := addOff (vaOf a) (imm.signExtend 64)
    Ready s x (.ldwP rd rs imm) → Through s x a → xsup s x = true → Reads (env x (.ldwP rd rs imm)) s va 8 w t →
    Gives (.ldwP x rd rs imm) s (advanced (setXreg t x rd (w)) x)) ∧
  (∀ w t, let va := addOff (vaOf a) ((xreg s x rt).payload * 8)
    Ready s x (.ldx rd rs rt) → Through s x a → IsFix (xreg s x rt) → Reads (env x (.ldx rd rs rt)) s va 8 w t → w.tag ≠ 0x000 →
    Gives (.ldx x rd rs rt) s (advanced (setXreg t x rd (w)) x)) ∧
  (∀ w t, let va := addOff (vaOf a) ((xreg s x rt).payload * 8)
    Ready s x (.ldxA rd rs rt) → Through s x a → IsFix (xreg s x rt) → Reads (env x (.ldxA rd rs rt)) s va 8 w t → w.tag ≠ 0x000 →
    Gives (.ldxA x rd rs rt) s (advanced (setXreg t x rd (w)) x)) ∧
  (∀ w t, let va := branchTo (xpc s x) off
    Ready s x (.ldpc rd off) → Reads (env x (.ldpc rd off)) s va 8 w t → w.tag ≠ 0x000 →
    Gives (.ldpc x rd off) s (advanced (setXreg t x rd (w)) x)) ∧
  (∀ w t, let va := addOff (vaOf a) (imm.signExtend 64)
    Ready s x (.ldb rd rs imm) → Through s x a → Reads (env x (.ldb rd rs imm)) s va 1 w t → w.tag = 0x006 →
    Gives (.ldb x rd rs imm) s (advanced (setXreg t x rd (rawW (bitsN w.payload (8 * (va.toNat % 8)) 8))) x)) ∧
  (∀ w t, let va := addOff (vaOf a) (imm.signExtend 64)
    Ready s x (.ldh rd rs imm) → Through s x a → Reads (env x (.ldh rd rs imm)) s va 2 w t → w.tag = 0x006 →
    Gives (.ldh x rd rs imm) s (advanced (setXreg t x rd (rawW (bitsN w.payload (8 * (va.toNat % 8)) 16))) x)) ∧
  (∀ w t, let va := vaOf a + 8
    Ready s x (.car rd rs) → a.tag = 0x100 → Reads (env x (.car rd rs)) s va 8 w t → w.tag ≠ 0x000 →
    Gives (.car x rd rs) s (advanced (setXreg t x rd (w)) x)) ∧
  (∀ w t, let va := vaOf a + 16
    Ready s x (.cdr rd rs) → a.tag = 0x100 → Reads (env x (.cdr rd rs)) s va 8 w t → w.tag ≠ 0x000 →
    Gives (.cdr x rd rs) s (advanced (setXreg t x rd (w)) x)) ∧
  (a.tag = 0x004 → Ready s x (.car rd rs) → Result (.car x rd rs) s x rd nilW) ∧
  (a.tag = 0x004 → Ready s x (.cdr rd rs) → Result (.cdr x rd rs) s x rd nilW)

/-- A store at a mapped address posts its word to the line at the translated address, and completes. When executor x
issues a store at an aligned private address va that translates for a write to leaf l (leaving t), to write-back
memory with the barriers of the collector off, no watch and no healing write or append of x to the word waiting: STW,
STX, RPLACA (va of rs + 8) and RPLACD (va of rs + 16) post the whole word, with its tag, to the word at the leaf's
page and va's offset (l.lpa va), and pc goes on by 4; STW.R and STX.R do so once every earlier store of x is
performed; STB and STH of an integer put their byte or half into the RAW or UNINIT word of a line held in M or E.
StoreToHeldLine says what the posted store changes. (R129, R130, R132, R39, R206.) -/
def Obligations.StoresArePosted : Prop :=
  ∀ (s : State) (x : Exec) (rd rs rt : BitVec 5) (imm : BitVec 14),
  let a := xreg s x rs
  let d := xreg s x rd
  (∀ l t, let va := addOff (vaOf a) (imm.signExtend 64); let e := env x (.stw rd rs imm)
    Ready s x (.stw rd rs imm) → Through s x a → Mapped e s va 1 8 (some (d).payload) l t → ownBehind t x (l.lpa va / 8) = false →
    Gives (.stw x rd rs imm) s (advanced (issueStore t (xcore x) (wordStore x (l.lpa va / 8) (d) l)) x)) ∧
  (∀ l t, let va := addOff (vaOf a) (imm.signExtend 64); let e := env x (.stwR rd rs imm)
    Ready s x (.stwR rd rs imm) → Through s x a → Mapped e s va 1 8 (some (d).payload) l t → ownBehind t x (l.lpa va / 8) = false → earlierDone t x = true →
    Gives (.stwR x rd rs imm) s (advanced (issueStore t (xcore x) (wordStore x (l.lpa va / 8) (d) l)) x)) ∧
  (∀ l t, let va := addOff (vaOf a) ((xreg s x rt).payload * 8); let e := env x (.stx rd rs rt)
    Ready s x (.stx rd rs rt) → Through s x a → IsFix (xreg s x rt) → Mapped e s va 1 8 (some (d).payload) l t → ownBehind t x (l.lpa va / 8) = false →
    Gives (.stx x rd rs rt) s (advanced (issueStore t (xcore x) (wordStore x (l.lpa va / 8) (d) l)) x)) ∧
  (∀ l t, let va := addOff (vaOf a) ((xreg s x rt).payload * 8); let e := env x (.stxR rd rs rt)
    Ready s x (.stxR rd rs rt) → Through s x a → IsFix (xreg s x rt) → Mapped e s va 1 8 (some (d).payload) l t → ownBehind t x (l.lpa va / 8) = false → earlierDone t x = true →
    Gives (.stxR x rd rs rt) s (advanced (issueStore t (xcore x) (wordStore x (l.lpa va / 8) (d) l)) x)) ∧
  (∀ l t, let va := vaOf a + 8; let e := env x (.rplaca rs rt)
    Ready s x (.rplaca rs rt) → a.tag = 0x100 → Mapped e s va 1 8 (some (xreg s x rt).payload) l t → ownBehind t x (l.lpa va / 8) = false →
    Gives (.rplaca x rs rt) s (advanced (issueStore t (xcore x) (wordStore x (l.lpa va / 8) (xreg s x rt) l)) x)) ∧
  (∀ l t, let va := vaOf a + 16; let e := env x (.rplacd rs rt)
    Ready s x (.rplacd rs rt) → a.tag = 0x100 → Mapped e s va 1 8 (some (xreg s x rt).payload) l t → ownBehind t x (l.lpa va / 8) = false →
    Gives (.rplacd x rs rt) s (advanced (issueStore t (xcore x) (wordStore x (l.lpa va / 8) (xreg s x rt) l)) x)) ∧
  (∀ l t h, let va := addOff (vaOf a) (imm.signExtend 64); let e := env x (.stb rd rs imm); let key := l.lpa va / 8
    Ready s x (.stb rd rs imm) → Through s x a → IsInt d → Mapped e s va 1 1 (some 0) l t → Held t x key h → (h.st = .m ∨ h.st = .e) →
    ((lineWord h.data key).tag = 0x006 ∨ (lineWord h.data key).tag = 0x000) →
    Gives (.stb x rd rs imm) s (advanced (perfStore t (xcore x) { who := x, key := key, word := (placeBytes va d 0 0).1, mask := (placeBytes va d 0 0).2 }) x)) ∧
  (∀ l t h, let va := addOff (vaOf a) (imm.signExtend 64); let e := env x (.sth rd rs imm); let key := l.lpa va / 8
    Ready s x (.sth rd rs imm) → Through s x a → IsInt d → Mapped e s va 1 2 (some 0) l t → Held t x key h → (h.st = .m ∨ h.st = .e) →
    ((lineWord h.data key).tag = 0x006 ∨ (lineWord h.data key).tag = 0x000) →
    Gives (.sth x rd rs imm) s (advanced (perfStore t (xcore x) { who := x, key := key, word := (placeBytes va d 1 0).1, mask := (placeBytes va d 1 0).2 }) x))

/-- A store to a line held in M or E changes the word stored to, and no other word of a cache or of memory. When a core
holds a line of eight words in M or E, no error is injected, and a store to a word of the line is posted with no other
store of the core waiting, the store is performed: the line is in M, the word reads the stored bytes merged into the
old word (a whole word replaces it), every other word of the line and every other line of the core is as before, the
lines of every other core, every word of memory, every message and every slice of L2 is as before, and no store waits.
(R231, R236, R39.) -/
def Obligations.StoreToHeldLine : Prop :=
  ∀ (t : State) (k : Nat) (st : PStore) (h : L1Line), (t.core k).bypass = false → (t.core k).tagErr = [] → t.mem.armed = [] → st.mt = 0 → st.sent = false → st.card = none →
  (t.core k).stores = [] → tget (t.core k).l1d (st.key / 8) = some h → (h.st = .m ∨ h.st = .e) → h.data.length = 8 →
  let u := issueStore t k st
  (∃ g, tget (u.core k).l1d (st.key / 8) = some g ∧ g.st = .m ∧
    ∀ j, lineWord g.data j = if j % 8 = st.key % 8 then mergeWord (lineWord h.data st.key) st.word st.mask else lineWord h.data j) ∧
  (∀ line, line ≠ st.key / 8 → tget (u.core k).l1d line = tget (t.core k).l1d line) ∧
  (∀ j, j ≠ k → (u.core j).l1d = (t.core j).l1d) ∧ (u.core k).stores = [] ∧
  u.mem = t.mem ∧ u.mesh = t.mesh ∧ (∀ j, (u.tile j).l2 = (t.tile j).l2) ∧ (st.mask = 255 → mergeWord (lineWord h.data st.key) st.word st.mask = st.word)

/-- An atomic performed in the core's own line: rd takes the old word, memory the new one. When executor x issues an
atomic at an aligned private address that translates for a read and write (leaving t), to write-back memory with the
barriers of the collector off and no watch, its core holds the line in M or E with nothing of x waiting on the word,
the predictor says near, and for release ordering every earlier store is performed: rd takes the old word whole and
the word of the line becomes: old + rt with the tag of old (AMOADD of integers), rt (AMOSWAP), the lesser or greater
of two FIXNUMs compared signed or two RAWs compared unsigned (AMOMIN, AMOMAX), rt if the payload of old equals that of
rd (CAS) or the whole word does (CAST), else old. A word that does not change is not written. (R131, R243, R206.) -/
def Obligations.NearAtomics : Prop :=
  ∀ (s : State) (x : Exec) (rd rs rt : BitVec 5) (ord : BitVec 2),
  let a := xreg s x rs
  let b := xreg s x rt
  let d := xreg s x rd
  let va := addOff (vaOf a) 0
  let less := fun (p q : W) => if p.tag = 0x001 then decide (p.payload.toInt < q.payload.toInt) else decide (p.payload.toNat < q.payload.toNat)
  (∀ l t h, let e := env x (.atomic 0 ord rd rs rt); let key := l.lpa va / 8; let old := lineWord h.data key
    Ready s x (.atomic 0 ord rd rs rt) → Base s x a → Mapped e s va 3 8 (some b.payload) l t → Held t x key h → (h.st = .m ∨ h.st = .e) →
    (2 ≤ ord.toNat → earlierDone t x = true) → (tgetD (t.core (xcore x)).atomPred (atomIdx t x (l.lpa va)) 1).toNat < 2 → IsInt b → IsInt old →
    Gives (.amoadd x rd rs rt ord) s (advanced (setXreg (nearAtom t x key (atomIdx t x (l.lpa va)) old (⟨old.tag, old.payload + b.payload⟩)) x rd old) x)) ∧
  (∀ l t h, let e := env x (.atomic 1 ord rd rs rt); let key := l.lpa va / 8; let old := lineWord h.data key
    Ready s x (.atomic 1 ord rd rs rt) → Base s x a → Mapped e s va 3 8 (some b.payload) l t → Held t x key h → (h.st = .m ∨ h.st = .e) →
    (2 ≤ ord.toNat → earlierDone t x = true) → (tgetD (t.core (xcore x)).atomPred (atomIdx t x (l.lpa va)) 1).toNat < 2 →
    Gives (.amoswap x rd rs rt ord) s (advanced (setXreg (nearAtom t x key (atomIdx t x (l.lpa va)) old (b)) x rd old) x)) ∧
  (∀ l t h, let e := env x (.atomic 2 ord rd rs rt); let key := l.lpa va / 8; let old := lineWord h.data key
    Ready s x (.atomic 2 ord rd rs rt) → Base s x a → Mapped e s va 3 8 (some b.payload) l t → Held t x key h → (h.st = .m ∨ h.st = .e) →
    (2 ≤ ord.toNat → earlierDone t x = true) → (tgetD (t.core (xcore x)).atomPred (atomIdx t x (l.lpa va)) 1).toNat < 2 → IsInt b → old.tag = b.tag →
    Gives (.amomin x rd rs rt ord) s (advanced (setXreg (nearAtom t x key (atomIdx t x (l.lpa va)) old (if less old b then old else b)) x rd old) x)) ∧
  (∀ l t h, let e := env x (.atomic 3 ord rd rs rt); let key := l.lpa va / 8; let old := lineWord h.data key
    Ready s x (.atomic 3 ord rd rs rt) → Base s x a → Mapped e s va 3 8 (some b.payload) l t → Held t x key h → (h.st = .m ∨ h.st = .e) →
    (2 ≤ ord.toNat → earlierDone t x = true) → (tgetD (t.core (xcore x)).atomPred (atomIdx t x (l.lpa va)) 1).toNat < 2 → IsInt b → old.tag = b.tag →
    Gives (.amomax x rd rs rt ord) s (advanced (setXreg (nearAtom t x key (atomIdx t x (l.lpa va)) old (if less old b then b else old)) x rd old) x)) ∧
  (∀ l t h, let e := env x (.atomic 4 ord rd rs rt); let key := l.lpa va / 8; let old := lineWord h.data key
    Ready s x (.atomic 4 ord rd rs rt) → Base s x a → Mapped e s va 3 8 (some b.payload) l t → Held t x key h → (h.st = .m ∨ h.st = .e) →
    (2 ≤ ord.toNat → earlierDone t x = true) → (tgetD (t.core (xcore x)).atomPred (atomIdx t x (l.lpa va)) 1).toNat < 2 → Whole d → Whole old →
    Gives (.cas x rd rs rt ord) s (advanced (setXreg (nearAtom t x key (atomIdx t x (l.lpa va)) old (if old.payload = d.payload then b else old)) x rd old) x)) ∧
  (∀ l t h, let e := env x (.atomic 5 ord rd rs rt); let key := l.lpa va / 8; let old := lineWord h.data key
    Ready s x (.atomic 5 ord rd rs rt) → Base s x a → Mapped e s va 3 8 (some b.payload) l t → Held t x key h → (h.st = .m ∨ h.st = .e) →
    (2 ≤ ord.toNat → earlierDone t x = true) → (tgetD (t.core (xcore x)).atomPred (atomIdx t x (l.lpa va)) 1).toNat < 2 → Whole d →
    Gives (.cast x rd rs rt ord) s (advanced (setXreg (nearAtom t x key (atomIdx t x (l.lpa va)) old (if old = d then b else old)) x rd old) x))

/-- CONS and ALLOC write the object at alloc_ptr, advance it, and answer the pointer. When a context issues CONS or ALLOC
(of n words, n a FIXNUM of at most 4,095 in rs) with alloc_ptr = a a multiple of 8 in the private half, room up to
alloc_lim, the object in one page that translates for a write (leaving t) to write-back memory outside register space,
with no watch on its words and no healing write or append of x to them waiting: the header word and the body words are
stored at a, a + 8 and on, lowest first, alloc_ptr becomes a + 8(n + 1), and rd takes the pointer with the colours of
GC_CTL. The body is rs and rt for CONS, NIL words for ALLOC, RAW zeros for a byte vector. (R132, R133, R259.) -/
def Obligations.ListsAreAllocated : Prop :=
  ∀ (s t : State) (n : BitVec 16) (rd rs rt : BitVec 5) (imm : BitVec 14) (l : Leaf),
  let x := Exec.ctx n
  let a := (xrec s x).allocPtr
  let words := fun (code : Nat) (body : List W) => ((⟨BitVec.ofNat 10 (code + 0x100), BitVec.ofNat 64 body.length⟩ : W) :: body).zipIdx.map fun p =>
    (a + BitVec.ofNat 59 (8 * p.2), p.1)
  let made := fun (code : Nat) (body : List W) =>
    let u := setAllocPtr ((words code body).foldl (fun (u : State) p => issueStore u (xcore x) { who := x, key := l.lpa p.1 / 8, word := p.2, mask := 255, na := pteNa l.pte }) t) x
      (a + BitVec.ofNat 59 (8 * (body.length + 1)))
    advanced (setXreg u x rd (newPointer (gcOf u x) code a)) x
  let fits := fun (o : Op) (code : Nat) (body : List W) => Ready s x o ∧ body.length ≤ 4095 ∧ a.getLsbD 58 = false ∧ a.toNat % 8 = 0 ∧
    a.toNat + 8 * (body.length + 1) ≤ (xrec s x).allocLim.toNat ∧ (a.toNat + 8 * body.length) / 4096 = a.toNat / 4096 ∧
    translate (env x o) 1 a 8 (some 0) s = (.ok l, t) ∧ pteMt l.pte = 0 ∧ isReg (l.page * 4096) = false ∧
    (∀ p ∈ words code body, watch t x p.1 true = .ok () ∧ ownBehind t x (l.lpa p.1 / 8) = false)
  let len := (xreg s x rs).payload.toNat
  let code := imm.toNat % 1024
  let fill := List.replicate len (if code = 0x102 then rawW 0 else nilW)
  (fits (.cons rd rs rt) 0x100 [xreg s x rs, xreg s x rt] → Gives (.cons x rd rs rt) s (made 0x100 [xreg s x rs, xreg s x rt])) ∧
  (IsFix (xreg s x rs) → fits (.alloc rd rs imm) code fill → Gives (.alloc x rd rs imm) s (made code fill))

/-- MEMQ, ASSQ, WALK and PROBE: a step that ends the search, a step that goes on, and cnt = 0. When executor x issues a
search with accepted operands whose words its core holds: with cnt = 0 nothing is read and the instruction completes;
MEMQ and ASSQ of NIL write NIL; MEMQ writes the pair whose car is identical to rs and ASSQ the entry whose key is,
otherwise rt takes the cdr, cnt falls by 1 and the instruction goes on (pc stays); WALK, through an aligned base,
writes the node to rd when the next word is no pointer and otherwise moves rs to it; PROBE writes the index of the
identical key, or -1 - index at an UNBOUND key, and otherwise moves rd on by one pair modulo the number of pairs.
(R137, R138, R139.) -/
def Obligations.ListSearches : Prop :=
  ∀ (s t u : State) (x : Exec) (rd rs rt : BitVec 5) (w d : W) (n : Nat),
  let a := xreg s x rs
  let b := xreg s x rt
  let i := (xreg s x rd).payload.toNat % n
  (Whole a → Whole b → xcnt s x = 0 →
    (Ready s x (.memq rd rs rt) → Gives (.memq x rd rs rt) s (advanced s x)) ∧ (Ready s x (.assq rd rs rt) → Gives (.assq x rd rs rt) s (advanced s x))) ∧
  (Whole a → xcnt s x ≠ 0 → b.tag = 0x004 →
    (Ready s x (.memq rd rs rt) → Result (.memq x rd rs rt) s x rd nilW) ∧ (Ready s x (.assq rd rs rt) → Result (.assq x rd rs rt) s x rd nilW)) ∧
  (Whole a → xcnt s x ≠ 0 → b.tag = 0x100 → Ready s x (.memq rd rs rt) → Reads (env x (.memq rd rs rt)) s (vaOf b + 8) 8 w t → Whole w →
    (identical w a = true → Gives (.memq x rd rs rt) s (advanced (setXreg t x rd b) x)) ∧
    (identical w a = false → Reads (env x (.memq rd rs rt)) t (vaOf b + 16) 8 d u → d.tag ≠ 0x000 → Gives (.memq x rd rs rt) s (stepped u x rt d (.memq rd rs rt)))) ∧
  (Whole a → xcnt s x ≠ 0 → b.tag = 0x100 → Ready s x (.assq rd rs rt) → Reads (env x (.assq rd rs rt)) s (vaOf b + 8) 8 w t → w.tag = 0x100 →
    Reads (env x (.assq rd rs rt)) t (vaOf w + 8) 8 d u → Whole d →
    (identical d a = true → Gives (.assq x rd rs rt) s (advanced (setXreg u x rd w) x)) ∧
    (∀ f v, identical d a = false → Reads (env x (.assq rd rs rt)) u (vaOf b + 16) 8 f v → f.tag ≠ 0x000 → Gives (.assq x rd rs rt) s (stepped v x rt f (.assq rd rs rt)))) ∧
  (Through s x a → IsFix b → Ready s x (.walk rd rs rt) →
    (xcnt s x = 0 → Gives (.walk x rd rs rt) s (advanced s x)) ∧
    (xcnt s x ≠ 0 → Reads (env x (.walk rd rs rt)) s (addOff (vaOf a) b.payload) 8 w t → Whole w →
      (isPtr w = false → Gives (.walk x rd rs rt) s (advanced (setXreg t x rd a) x)) ∧ (isPtr w = true → Gives (.walk x rd rs rt) s (stepped t x rs w (.walk rd rs rt))))) ∧
  (a.tag = 0x101 → Whole b → IsFix (xreg s x rd) → Ready s x (.probe rd rs rt) →
    (xcnt s x = 0 → Gives (.probe x rd rs rt) s (advanced s x)) ∧
    (xcnt s x ≠ 0 → Reads (env x (.probe rd rs rt)) s (vaOf a) 8 w t → w.tag = 0x201 → w.payload.toNat % 2 ^ 48 = 2 * n → n ≠ 0 → 2 ^ Nat.log2 n = n →
      Reads (env x (.probe rd rs rt)) t (vaOf a + BitVec.ofNat 59 (8 + 16 * i)) 8 d u → Whole d →
      (identical d b = true → Gives (.probe x rd rs rt) s (advanced (setXreg u x rd (fixW i)) x)) ∧
      (identical d b = false → d.tag = 0x005 → Gives (.probe x rd rs rt) s (advanced (setXreg u x rd ⟨0x001, BitVec.ofInt 64 (-1 - (i : Int))⟩) x)) ∧
      (identical d b = false → d.tag ≠ 0x005 → Gives (.probe x rd rs rt) s (stepped u x rd (fixW ((i + 1) % n)) (.probe rd rs rt)))))

/-- REP, its steps, COPYW, FILLW and line maintenance: what one step does. With cnt = 0 REP executes nothing and pc passes
the pair. Otherwise one step of the repeated instruction is performed, cnt falls by 1, and pc passes the pair when cnt
reaches 0, else stays with the instruction in progress (REP_STEP is the next step of what is in progress: of REP, or
of a long instruction). COPYW alone, both words translated and the first in a line its core holds, copies the word at
rs to the word at rd and advances both registers by 8; FILLW stores the word rs at rd and advances rd by 8; CLEAN.L,
FLUSH.L and (at Supervisor level) INVAL.L of a global address access nothing and advance rs by 64; of a private
address they send their request for the line to its home and wait (R246; AccessesGoOn says how that wait ends). (R137,
R140, R141, R246.) -/
def Obligations.RepeatedInstructions : Prop :=
  ∀ (s t : State) (x : Exec) (rd rs : BitVec 5) (word : BitVec 32) (f : Env → M Unit) (l : Leaf) (w : W),
  let a := xreg s x rs
  let d := xreg s x rd
  let down := fun (t : State) => setXcnt t x (xcnt t x - 1)
  (RepReady s x word → repTarget x word = .ok f → xcnt s x = 0 → Gives (.rep x word) s (jumped s x (xpc s x + 8)) ∧
    (repeatedOf s x = some (true, word) → Gives (.repStep x) s (jumped s x (xpc s x + 8)))) ∧
  (RepReady s x word → repTarget x word = .ok f → xcnt s x ≠ 0 → f { x := x, word := word } s = (.ok (), t) →
    Gives (.rep x word) s (if xcnt t x = 1 then jumped (down t) x (xpc t x + 8) else (setRepeated (down t) x (some (true, word))).tick)) ∧
  (repeatedOf s x = some (true, word) → exec (.repStep x) s = exec (.rep x word) s) ∧
  (∀ rt, (repeatedOf s x = some (false, (Op.memq rd rs rt).word) → exec (.repStep x) s = exec (.memq x rd rs rt) s) ∧
    (repeatedOf s x = some (false, (Op.assq rd rs rt).word) → exec (.repStep x) s = exec (.assq x rd rs rt) s) ∧
    (repeatedOf s x = some (false, (Op.walk rd rs rt).word) → exec (.repStep x) s = exec (.walk x rd rs rt) s) ∧
    (repeatedOf s x = some (false, (Op.probe rd rs rt).word) → exec (.repStep x) s = exec (.probe x rd rs rt) s)) ∧
  (∀ la h v, Ready s x (.copyw rd rs) → Base s x a → Base s x d → watch s x (vaOf a) false = .ok () →
    Mapped (env x (.copyw rd rs)) s (vaOf a) 0 8 none la t → Mapped (env x (.copyw rd rs)) t (vaOf d) 1 8 (some 0) l v →
    (vaOf a = vaOf d → la = l) → la.page < 2 ^ 31 → la.lvl < 2 ^ 10 → l.page < 2 ^ 31 → l.lvl < 2 ^ 10 → watch v x (vaOf a) false = .ok () →
    Held v x (la.lpa (vaOf a) / 8) h → h.st.hit = true → lineWord h.data (la.lpa (vaOf a) / 8) = w → w.tag ≠ 0x000 →
    ownBehind v x (l.lpa (vaOf d) / 8) = false →
    let p := issueStore v (xcore x) (wordStore x (l.lpa (vaOf d) / 8) w l)
    let q := setXreg p x rd (advance (xreg p x rd) 8)
    Gives (.copyw x rd rs) s (advanced (setXreg q x rs (advance (xreg q x rs) 8)) x)) ∧
  (Ready s x (.fillw rd rs) → Base s x d → Mapped (env x (.fillw rd rs)) s (vaOf d) 1 8 (some a.payload) l t → ownBehind t x (l.lpa (vaOf d) / 8) = false →
    let v := issueStore t (xcore x) (wordStore x (l.lpa (vaOf d) / 8) a l)
    Gives (.fillw x rd rs) s (advanced (setXreg v x rd (advance (xreg v x rd) 8)) x)) ∧
  (Base s x a → isGlobal (vaOf a) = true →
    (Ready s x (.cleanL rs) → Result (.cleanL x rs) s x rs (advance a 64)) ∧
    (Ready s x (.flushL rs) → Result (.flushL x rs) s x rs (advance a 64)) ∧
    (xsup s x = true → Ready s x (.invalL rs) → Result (.invalL x rs) s x rs (advance a 64))) ∧
  (Base s x a → isGlobal (vaOf a) = false → pteMt l.pte ≠ 3 → ((t.core (xcore x)).stores.any fun p => p.who == x && p.key / 8 == l.lpa (vaOf a) / 64) = false →
    (Ready s x (.cleanL rs) → translate (env x (.cleanL rs)) 0 (vaOf a) 8 none s = (.ok l, t) →
      Gives (.cleanL x rs) s (await s x (Op.cleanL rs).word false false none (.maint .cln (l.lpa (vaOf a) / 64))).tick) ∧
    (Ready s x (.flushL rs) → translate (env x (.flushL rs)) 0 (vaOf a) 8 none s = (.ok l, t) →
      Gives (.flushL x rs) s (await s x (Op.flushL rs).word false false none (.maint .fls (l.lpa (vaOf a) / 64))).tick) ∧
    (xsup s x = true → Ready s x (.invalL rs) → translate (env x (.invalL rs)) 0 (vaOf a) 8 none s = (.ok l, t) →
      Gives (.invalL x rs) s (await s x (Op.invalL rs).word false false none (.maint .inv (l.lpa (vaOf a) / 64))).tick))

/-- A conditional branch goes to pc + 4 × off when its condition holds and on by 4 when not, and changes nothing else.
When executor x issues the branch: BZ and BNZ test the payload of a FIXNUM against zero, BNIL and BNNIL the tag
against NIL, BT and BNT whether the tag belongs to the class named; taken, pc is the branch's pc + 4 × off with off
sign-extended, otherwise pc + 4. Where the direction was predicted, or spec_off is set (Foretold), nothing changes but
predictors, counters and what completion changes (Goes, CompletionFrame); otherwise the loads of the wrong path may
also have asked for lines, and with no error injected every record, every word of memory, every translation and every
fast interrupt context but for its requests is as before (Strays). (R106, R109, R112, R113, R134, R135.) -/
def Obligations.Branches : Prop :=
  ∀ (s : State) (x : Exec) (rs cls : BitVec 5) (off : BitVec 21) (off14 : BitVec 14),
  let a := xreg s x rs
  let end_ := fun (taken : Bool) (there : BitVec 59) => if taken then there else xpc s x + 4
  (IsFix a → Ready s x (.bz rs off) → (Foretold s x (a.payload == 0) → Goes (.bz x rs off) s s x (end_ (a.payload == 0) (branchTo (xpc s x) off))) ∧
    (¬ Foretold s x (a.payload == 0) → s.mem.armed = [] → Strays (.bz x rs off) s x (end_ (a.payload == 0) (branchTo (xpc s x) off)))) ∧
  (IsFix a → Ready s x (.bnz rs off) → (Foretold s x (a.payload != 0) → Goes (.bnz x rs off) s s x (end_ (a.payload != 0) (branchTo (xpc s x) off))) ∧
    (¬ Foretold s x (a.payload != 0) → s.mem.armed = [] → Strays (.bnz x rs off) s x (end_ (a.payload != 0) (branchTo (xpc s x) off)))) ∧
  (Ready s x (.bnil rs off) → (Foretold s x (a.tag == 0x004) → Goes (.bnil x rs off) s s x (end_ (a.tag == 0x004) (branchTo (xpc s x) off))) ∧
    (¬ Foretold s x (a.tag == 0x004) → s.mem.armed = [] → Strays (.bnil x rs off) s x (end_ (a.tag == 0x004) (branchTo (xpc s x) off)))) ∧
  (Ready s x (.bnnil rs off) → (Foretold s x (a.tag != 0x004) → Goes (.bnnil x rs off) s s x (end_ (a.tag != 0x004) (branchTo (xpc s x) off))) ∧
    (¬ Foretold s x (a.tag != 0x004) → s.mem.armed = [] → Strays (.bnnil x rs off) s x (end_ (a.tag != 0x004) (branchTo (xpc s x) off)))) ∧
  (Ready s x (.bt rs cls off14) → (Foretold s x (inTagClass cls.toNat a.tag) → Goes (.bt x rs cls off14) s s x (end_ (inTagClass cls.toNat a.tag) (branchTo (xpc s x) off14))) ∧
    (¬ Foretold s x (inTagClass cls.toNat a.tag) → s.mem.armed = [] → Strays (.bt x rs cls off14) s x (end_ (inTagClass cls.toNat a.tag) (branchTo (xpc s x) off14)))) ∧
  (Ready s x (.bnt rs cls off14) → (Foretold s x (!inTagClass cls.toNat a.tag) → Goes (.bnt x rs cls off14) s s x (end_ (!inTagClass cls.toNat a.tag) (branchTo (xpc s x) off14))) ∧
    (¬ Foretold s x (!inTagClass cls.toNat a.tag) → s.mem.armed = [] → Strays (.bnt x rs cls off14) s x (end_ (!inTagClass cls.toNat a.tag) (branchTo (xpc s x) off14)))) ∧
  (branchTo (xpc s x) off).toNat = (((xpc s x).toNat : Int) + 4 * off.toInt).emod (2 ^ 59)

/-- Jumps, calls and returns: the target, the link and the window. When executor x issues it: J and JL go to pc + 4 × off,
JR and JLR to the va of a code target plus imm, RETL to lk with bits [1:0] cleared; JL and JLR set lk to pc + 4. CALLW
and CALLWR of a context with fewer than four valid windows set lk to pc + 4 with tw in bit 0, increase wp and vwc by
1, clear tw and jump; RETW outside the trap window goes to lk with bits [1:0] cleared and undoes the rotation (or,
with lk[0] = 1 at Supervisor level, re-enters the trap window) when more than two windows are valid. Nothing else
changes but predictors and counters (Goes). (R90, R106, R134, R136.) -/
def Obligations.Jumps : Prop :=
  ∀ (s : State) (x : Exec) (n : BitVec 16) (rs : BitVec 5) (imm : BitVec 14) (off : BitVec 26),
  let pc := xpc s x
  let a := xreg s x rs
  let there := addOff (vaOf a) (imm.signExtend 64)
  let code := fun (y : Exec) => Whole (xreg s y rs) ∧ ((xreg s y rs).tag = 0x108 ∨ (xsup s y = true ∧ (xreg s y rs).tag = 0x006)) ∧
    (addOff (vaOf (xreg s y rs)) (imm.signExtend 64)).toNat % 4 = 0
  let y := Exec.ctx n
  let r := xrec s y
  let turned := s.modCtx n.toNat fun c => { c with r := { r with lk := r.pc + 4 + (if r.tw then 1 else 0), wp := r.wp + 1, vwc := r.vwc + 1, tw := false } }
  let back := s.modCtx n.toNat fun c => { c with r := if r.lk.getLsbD 0 then { r with tw := true } else { r with wp := r.wp - 1, vwc := r.vwc - 1, tw := false } }
  (Ready s x (.j off) → Goes (.j x off) s s x (branchTo pc off)) ∧
  (Ready s x (.jl off) → Goes (.jl x off) s (setXlk s x (pc + 4)) x (branchTo pc off)) ∧
  (Ready s x (.jr rs imm) → code x → Goes (.jr x rs imm) s s x there) ∧
  (Ready s x (.jlr rs imm) → code x → Gives (.jlr x rs imm) s (jumped (setXlk s x (pc + 4)) x there)) ∧
  (Ready s x .retl → Gives (.retl x) s (jumped s x (xlk s x &&& ~~~(3 : BitVec 59)))) ∧
  (r.vwc ≠ 4 →
    (Ready s y (.callw off) → Goes (.callw y off) s turned y (branchTo r.pc off)) ∧
    (Ready s y (.callwr rs imm) → code y → Gives (.callwr y rs imm) s (jumped turned y (addOff (vaOf (xreg s y rs)) (imm.signExtend 64))))) ∧
  (Ready s y .retw → r.tw = false → (if r.lk.getLsbD 0 then r.sup = true else 2 < r.vwc.toNat) → Goes (.retw y) s back y (r.lk &&& ~~~(3 : BitVec 59)))

/-- A windowed call with four valid windows and a windowed return with two raise the window exceptions. When a context
issues CALLW with vwc = 4 the answer is the entry of WINDOW_OVERFLOW (0x11) with xaddr wsp and xinfo (wp + 1) mod 4,
and RETW with lk[0] = 0 and vwc at most 2 outside the trap window gives WINDOW_UNDERFLOW (0x12) with xaddr wsp and
xinfo (wp - vwc) mod 4: no window register changes before the entry. (R90, R93, R119.) -/
def Obligations.WindowTraps : Prop :=
  ∀ (s : State) (n : BitVec 16) (off : BitVec 26),
  let x := Exec.ctx n
  let r := xrec s x
  (Ready s x (.callw off) → r.vwc = 4 → Gives (.callw x off) s (raiseX s x ⟨0x11, r.wsp, BitVec.ofNat 64 ((r.wp.toNat + 1) % 4), none, 0⟩).tick) ∧
  (Ready s x .retw → r.tw = false → r.lk.getLsbD 0 = false → r.vwc.toNat ≤ 2 →
    Gives (.retw x) s (raiseX s x ⟨0x12, r.wsp, BitVec.ofNat 64 ((r.wp.toNat + 8 - r.vwc.toNat) % 4), none, 0⟩).tick)

/-- Taking an exception saves pc and status, sets xvalid, cause, tw and the supervisor level, and goes to the vector. For
every context whose world has a vector and whose xvalid of that world is 0, an exception that names no handler writes
xpc of the world with pc, xstat with world, level, space and tw and the window adjustment (1 for WINDOW_OVERFLOW, 2
for WINDOW_UNDERFLOW, else 0), sets xvalid of the world, writes xcause, xaddr and xinfo, sets the level to Supervisor
and tw to 1, and sets pc to the vector + 0x40 × cause; the other world's saved registers, wp, vwc, lk, cnt and every
general register stay, and so do other contexts and memory. With xvalid at 1 or no vector the context enters LOCKUP
with its saved registers unchanged. (R166, R167, R93, R161.) -/
def Obligations.ExceptionEntry : Prop :=
  ∀ (s : State) (n : Nat) (e : Exn) (v : BitVec 59), e.handler = none →
  let c := s.ctx n
  let w := c.r.world
  let t := enter s n e
  let d := t.ctx n
  (vector s w = some v → c.r.xvalid w = false →
    d.r.xpc w = c.r.pc ∧ d.r.xvalid w = true ∧ d.r.xcause = e.cause ∧ d.r.xaddr = e.addr ∧ d.r.xinfo = e.info ∧ d.r.sup = true ∧ d.r.wsup = false ∧
    d.r.world = w ∧ d.r.space = c.r.space ∧ d.r.tw = true ∧ d.r.pc = v + BitVec.ofNat 59 (64 * e.cause.toNat) ∧
    (d.r.xstat w).toNat = c.r.ctxStat.toNat % 2 ^ 14 + (if c.r.tw then 2 ^ 14 else 0) + 2 ^ 21 * (if e.cause = 0x11 then 1 else if e.cause = 0x12 then 2 else 0) ∧
    d.r.xpc w.other = c.r.xpc w.other ∧ d.r.xstat w.other = c.r.xstat w.other ∧ d.r.xvalid w.other = c.r.xvalid w.other ∧
    d.r.wp = c.r.wp ∧ d.r.vwc = c.r.vwc ∧ d.r.lk = c.r.lk ∧ d.r.cnt = c.r.cnt ∧ d.ring = c.ring ∧ d.g = c.g ∧ d.trap = c.trap ∧ d.dir = c.dir ∧
    (∀ m, m ≠ n → t.ctx m = s.ctx m) ∧ t.mem = s.mem ∧ t.mesh = s.mesh ∧ t.tlbs = s.tlbs ∧ t.pending = s.pending) ∧
  (vector s w = none ∨ c.r.xvalid w = true → t = lockup s n e.cause.toNat)

/-- SYSCALL enters the current world's supervisor with cause SYSCALL, at both levels. When a context issues SYSCALL, at
either level, the answer is the entry of R166 (enter, which ExceptionEntry describes) with cause SYSCALL (0x16), xaddr
0 and xinfo 0; with xvalid of the current world set it is the lockup of the context, at Supervisor level too. BRK (the
second clause, R170's) enters with cause BREAKPOINT (0x19), xaddr pc and the instruction word in xinfo[63:32]. In a
fast interrupt context either puts it in LOCKUP (R105). (R171.) -/
def Obligations.SyscallAndBreakpoint : Prop :=
  ∀ (s : State) (n : BitVec 16) (k : BitVec 8),
  (Ready s (.ctx n) .syscall → Gives (.syscall (.ctx n)) s (enter (setRepeated s (.ctx n) none) n.toNat ⟨0x16, 0, 0, none, 0⟩).tick) ∧
  (Ready s (.ctx n) .syscall → (s.ctx n.toNat).r.xvalid (s.ctx n.toNat).r.world = true →
    Gives (.syscall (.ctx n)) s (lockup (setRepeated s (.ctx n) none) n.toNat 0x16).tick) ∧
  (Ready s (.ctx n) .brk → Gives (.brk (.ctx n)) s (enter (setRepeated s (.ctx n) none) n.toNat
    ⟨0x19, (s.ctx n.toNat).r.pc, BitVec.ofNat 64 (2 ^ 32 * Op.brk.word.toNat), none, 0⟩).tick) ∧
  (Ready s (.fic k) .syscall → Gives (.syscall (.fic k)) s (ficLockup (setRepeated s (.fic k) none) k.toNat 0x16).tick)

/-- RETX restores what an entry saved, a gate return completes a WCALL, and WCALL enters the gate. When a context at
Supervisor level issues RETX with xvalid of its world at 1 and a saved status of that world without gframe: world,
level, space, tw and wsup are those saved, xvalid of the world is cleared, vwc is adjusted as saved (1: one less, 2:
one more, within 1 to 4), pc is the saved xpc, and registers and the other world's saved state stay. With xvalid at 0
and an open gate from the other world, the owner, with a matching token: pc, level, space and tw of the caller return,
gate_open and the gate number are cleared. A RETX that finds no saved state raises ILLEGAL_RETURN with subcode 1, one
whose saved status is of another world, or a gate frame where none is due or none where one is, with 2, and one whose
token differs with 3 (illegalReturn: only xcause, xaddr, xinfo and pc change). WCALL of an open gate that permits the
caller saves pc + 4 and the status with gframe and the new token, and enters the gate's address and space, at
Supervisor level, in the other world, whose xvalid stays. RETX of a fast interrupt context ends its service, or goes
on with the IRQ that its NMI interrupted. (R173, R176, R177, R104, R93.) -/
def Obligations.ReturnsAndGates : Prop :=
  ∀ (s : State) (n : BitVec 16) (k : BitVec 8) (rs : BitVec 5),
  let x := Exec.ctx n
  let c := s.ctx n.toNat
  let w := c.r.world
  let sv := c.r.xstat w
  let g := gateOf s w.other (xreg s x rs).payload.toNat
  (Ready s x .retx → c.r.sup = true → c.r.xvalid w = true → worldOf (if sv.getLsbD 0 then 1 else 0) = w → sv.getLsbD 15 = false →
    ∃ t, Gives (.retx x) s t ∧ (let d := t.ctx n.toNat
      d.r.pc = c.r.xpc w ∧ d.r.tw = sv.getLsbD 14 ∧ d.r.world = w ∧ d.r.sup = sv.getLsbD 1 ∧ d.r.space = sv.extractLsb' 2 12 ∧ d.r.wsup = sv.getLsbD 20 ∧
      d.r.xvalid w = false ∧ d.r.vwc = applyWfix c.r.vwc (bitsN sv 21 2) ∧ d.r.wp = c.r.wp ∧ d.ring = c.ring ∧ d.g = c.g ∧ d.trap = c.trap ∧
      d.r.xvalid w.other = c.r.xvalid w.other ∧ d.r.gateOpen = c.r.gateOpen ∧ d.r.token = c.r.token ∧ d.dir = c.dir) ∧ (∀ m, m ≠ n.toNat → t.ctx m = s.ctx m) ∧ t.mem = s.mem) ∧
  (Ready s x .retx → c.r.sup = true → c.r.xvalid w = false → (c.r.gateOpen = false ∨ c.r.xvalid w.other = false) →
    Gives (.retx x) s (illegalReturn (setRepeated s x none) n.toNat 1).tick) ∧
  (Ready s x .retx → c.r.sup = true → c.r.xvalid w = true → (worldOf (if sv.getLsbD 0 then 1 else 0) ≠ w ∨ sv.getLsbD 15 = true) →
    Gives (.retx x) s (illegalReturn (setRepeated s x none) n.toNat 2).tick) ∧
  (Ready s x .retx → c.r.sup = true → c.r.xvalid w = false → c.r.gateOpen = true → c.r.xvalid w.other = true →
    let st := c.r.xstat w.other
    let other := worldOf (if st.getLsbD 0 then 1 else 0) ≠ w.other ∨ w.other ≠ c.dir.owner ∨ st.getLsbD 15 = false
    (other → Gives (.retx x) s (illegalReturn (setRepeated s x none) n.toNat 2).tick) ∧
    (¬ other → bitsN st 16 4 ≠ c.r.token.toNat → Gives (.retx x) s (illegalReturn (setRepeated s x none) n.toNat 3).tick)) ∧
  (Ready s x .retx → c.r.sup = true → c.r.xvalid w = false → c.r.gateOpen = true → c.r.xvalid w.other = true → w.other = c.dir.owner →
    let st := c.r.xstat w.other
    worldOf (if st.getLsbD 0 then 1 else 0) = w.other → st.getLsbD 15 = true → bitsN st 16 4 = c.r.token.toNat →
    ∃ t, Gives (.retx x) s t ∧ (let d := t.ctx n.toNat
      d.r.pc = c.r.xpc w.other ∧ d.r.world = w.other ∧ d.r.sup = st.getLsbD 1 ∧ d.r.tw = st.getLsbD 14 ∧ d.r.space = st.extractLsb' 2 12 ∧ d.r.wsup = false ∧ d.r.gateOpen = false ∧ d.r.gate = 0 ∧ d.r.xvalid w.other = false ∧ d.r.xvalid w = false ∧
      d.r.wp = c.r.wp ∧ d.r.vwc = c.r.vwc ∧ d.ring = c.ring ∧ d.g = c.g ∧ d.trap = c.trap ∧ d.dir = c.dir) ∧ (∀ m, m ≠ n.toNat → t.ctx m = s.ctx m) ∧ t.mem = s.mem) ∧
  (Ready s x (.wcall rs) → IsFix (xreg s x rs) → (xreg s x rs).payload.toNat < 32 → gateIsOpen g = true → (c.r.sup = true ∨ g.2 / 2 ^ 13 % 2 = 1) → c.r.gateOpen = false → c.r.xvalid w = false →
    ∃ t, Gives (.wcall x rs) s t ∧ (let d := t.ctx n.toNat
      d.r.pc = BitVec.ofNat 59 g.1 ∧ d.r.xpc w = c.r.pc + 4 ∧ d.r.xvalid w = true ∧ d.r.xvalid w.other = c.r.xvalid w.other ∧
      (let f := d.r.xstat w
       worldOf (if f.getLsbD 0 then 1 else 0) = w ∧ f.getLsbD 1 = c.r.sup ∧ f.extractLsb' 2 12 = c.r.space ∧ f.getLsbD 14 = c.r.tw ∧ f.getLsbD 15 = true ∧
       bitsN f 16 4 = (c.r.token.toNat + 1) % 16 ∧ bitsN f 20 12 = 0) ∧ d.r.world = w.other ∧ d.r.sup = true ∧ d.r.space = BitVec.ofNat 12 (g.2 % 2 ^ 12) ∧
      d.r.gateOpen = true ∧ d.r.token = c.r.token + 1 ∧ d.r.gate = (xreg s x rs).payload.extractLsb' 0 5 ∧ d.r.xcause = 0x17 ∧ d.r.xaddr = 0 ∧
      d.r.xinfo = BitVec.ofNat 64 (gateInfo 0 (xreg s x rs).payload.toNat w c.r.sup) ∧ d.r.tw = true ∧ d.ring = c.ring ∧ d.g = c.g ∧ d.trap = c.trap ∧ d.dir = c.dir) ∧
    (∀ m, m ≠ n.toNat → t.ctx m = s.ctx m) ∧ t.mem = s.mem) ∧
  (Ready s (.fic k) .retx → ∃ t, Gives (.retx (.fic k)) s t ∧
    (if (s.fic k.toNat).mode = .nmi ∧ (s.fic k.toNat).fromIrq = true then (t.fic k.toNat).mode = .irq ∧ xpc t (.fic k) = (s.fic k.toNat).npc
     else (t.fic k.toNat).mode = .idle))

/-- YIELD queues a swap to READY; FENCE and the SYNC instructions complete when nothing they wait for is left. When
executor x issues it: YIELD of a context in a slot completes and queues the swap-out of the context to READY, after
which it issues nothing; FENCE completes when every earlier store of x is performed and no GC register write of x is
in progress; SYNC.G when no store of x to another device is outstanding and no store fault is held; SYNC.V when no
write of Valley is outstanding; SYNC.T, at Supervisor level, when no TLBI of x is. Until then SYNC.V and SYNC.T of a
context wait, swapped out to WAIT_MEM. Nothing else changes (advanced). (R62, R70, R222, R254, R379.) -/
def Obligations.OrderingInstructions : Prop :=
  ∀ (s : State) (x : Exec) (n : BitVec 16) (k : Nat),
  (Ready s (.ctx n) .yield → (s.ctx n.toNat).slot = some k → ∃ t, Gives (.yield (.ctx n)) s t ∧ (t.ctx n.toNat).stopped = true ∧ (t.ctx n.toNat).r.pc = (s.ctx n.toNat).r.pc + 4 ∧
    (t.core (coreOf n.toNat)).swaps = (s.core (coreOf n.toNat)).swaps ++ [{ slot := k, out := some n.toNat, goal := .ready }]) ∧
  (Ready s x .fence → earlierDone s x = true → s.gcBy ≠ some x → Gives (.fence x) s (advanced s x)) ∧
  (Ready s x .syncG → storesOut s x = 0 → (∀ m, x = .ctx m → (s.ctx m.toNat).sfault = none) → Gives (.syncG x) s (advanced s x)) ∧
  (Ready s x .syncV → valleyWrites s = [] → Gives (.syncV x) s (advanced s x)) ∧
  (Ready s (.ctx n) .syncV → valleyWrites s ≠ [] → Gives (.syncV (.ctx n)) s (await s (.ctx n) Op.syncV.word false false none (.sync .syncV)).tick) ∧
  (Ready s x .syncT → xsup s x = true → (∀ u ∈ s.tlbis, u.by_ ≠ x) → Gives (.syncT x) s (advanced s x)) ∧
  (Ready s (.ctx n) .syncT → xsup s (.ctx n) = true → (∃ u ∈ s.tlbis, u.by_ = .ctx n) → Gives (.syncT (.ctx n)) s (await s (.ctx n) Op.syncT.word false false none (.sync .syncT)).tick)

/-- MFS, MTS, RDW, WRW, FBRD, FBWR and the binding of FP banks. When executor x issues it: MFS of a permitted selector
(not fp_victim) writes the register's value to rd as RAW, and MTS of an accepted word writes its payload to a
permitted one: clauses say so for lk, cnt, pkr (read-only), fpsr, wsp, alloc_ptr, ctx_stat (at Supervisor level only
the space field changes) and a performance counter of the world (at Supervisor level); a selector that the level or
world may not read is PRIVILEGED with subcode 2. At Supervisor level RDW and WRW read and write ring slot n of the
context whole, FBRD and FBWR read and write a register of the bank that rs names when the context holds or claims it.
FP_BANK_BIND of the claimed bank binds it and ends the claim; FP_BANK_RELEASE unbinds the bank of the context.
Completion adds only what CompletionFrame says. (R87, R88, R91, R99, R100, R114, R161.) -/
def Obligations.SpecialRegisters : Prop :=
  ∀ (s : State) (x : Exec) (n : BitVec 16) (rd rs rt : BitVec 5) (sel : BitVec 12) (k : BitVec 6),
  let v := (xreg s x rs).payload
  let y := Exec.ctx n
  let c := s.ctx n.toNat
  let vy := (xreg s y rs).payload
  let setR := fun (f : Rec → Rec) => advanced (s.modCtx n.toNat fun c => { c with r := f c.r }) y
  (Ready s x (.mfs rd sel) → mfsOk s x sel.toNat = true → sel ≠ 0x020 →
    Gives (.mfs x rd sel) s (advanced (setXreg s x rd (rawW (sprRead s x sel.toNat).1)) x)) ∧
  (Ready s x (.mfs rd sel) → mfsOk s x sel.toNat = false → Gives (.mfs x rd sel) s (raiseX s x ⟨0x02, 0, BitVec.ofNat 64 (2 + 2 ^ 32 * (Op.mfs rd sel).word.toNat), none, 0⟩).tick) ∧
  (Ready s x (.mts rs sel) → mtsOk s x sel.toNat = true → Whole (xreg s x rs) → Gives (.mts x rs sel) s (advanced (sprWrite s x sel.toNat v) x)) ∧
  ((sprRead s y 0x000).1 = c.r.lk.toNat ∧ (sprRead s y 0x001).1 = c.r.cnt.toNat ∧ (sprRead s y 0x002).1 = c.r.ctxStat.toNat ∧ (sprRead s y 0x00C).1 = c.r.fpsr.toNat ∧ (sprRead s y 0x003).1 = c.r.pkr.toNat ∧ (sprRead s y 0x005).1 = c.r.wsp.toNat ∧
    (sprRead s y 0x006).1 = c.r.allocPtr.toNat ∧ (∀ j, j < 8 → (sprRead s y (0x040 + j)).1 = (tgetD (s.core (xcore y)).pmc j 0).toNat) ∧
    (sprRead s y 0x010).1 = (c.r.xpc c.r.world).toNat ∧ (sprRead s y 0x014).1 = c.r.xinfo.toNat) ∧
  (Whole (xreg s y rs) →
    (Ready s y (.mts rs 0x000) → Gives (.mts y rs 0x000) s (setR fun r => { r with lk := vy.extractLsb' 0 59 })) ∧
    (Ready s y (.mts rs 0x001) → Gives (.mts y rs 0x001) s (setR fun r => { r with cnt := vy })) ∧
    (Ready s y (.mts rs 0x003) → Gives (.mts y rs 0x003) s (setR fun r => r)) ∧
    (Ready s y (.mts rs 0x00C) → Gives (.mts y rs 0x00C) s (setR fun r => { r with fpsr := vy.extractLsb' 0 12 })) ∧
    (Ready s y (.mts rs 0x006) → Gives (.mts y rs 0x006) s (setR fun r => { r with allocPtr := vy.extractLsb' 0 59 })) ∧
    (Ready s y (.mts rs 0x005) → c.r.sup = true → Gives (.mts y rs 0x005) s (setR fun r => { r with wsp := vy.extractLsb' 0 59 })) ∧
    (∀ j : Nat, j < 8 → j / 4 = c.r.world.num → let pm := BitVec.ofNat 12 (0x040 + j)
      Ready s y (.mts rs pm) → c.r.sup = true → Gives (.mts y rs pm) s (advanced (s.modCore (xcore y) fun q => { q with pmc := tset q.pmc j (vy.extractLsb' 0 48) }) y)) ∧
    (Ready s y (.mts rs 0x002) → c.r.sup = true → Gives (.mts y rs 0x002) s (setR fun r => { r with ctxStat := putN r.ctxStat 2 12 (bitsN vy 2 12) }))) ∧
  (xsup s y = true →
    (Ready s y (.rdw rd k) → Result (.rdw y rd k) s y rd (tgetD c.ring k.toNat nilW)) ∧
    (Ready s y (.wrw rs k) → Gives (.wrw y rs k) s (advanced (s.modCtx n.toNat fun d => { d with ring := tset d.ring k.toNat (xreg s y rs) }) y)) ∧
    (IsFix (xreg s y rs) → let b := bitsN vy 4 2
      ((c.r.fpBound = true ∧ c.r.fpBank.toNat = b) ∨ claimOf s n.toNat = some b) →
      (Ready s y (.fbrd rd rs) → Result (.fbrd y rd rs) s y rd ⟨0x002, fpGet s (xcore y) b (BitVec.ofNat 5 (bitsN vy 0 4))⟩) ∧
      (Ready s y (.fbwr rs rt) → ((xreg s y rt).tag = 0x002 ∨ (xreg s y rt).tag = 0x006) →
        Gives (.fbwr y rt rs) s (advanced (fpPut s (xcore y) b (BitVec.ofNat 5 (bitsN vy 0 4)) (xreg s y rt).payload) y))) ∧
    (Whole (xreg s y rs) → Ready s y (.mts rs 0x021) →
      (vy.getLsbD 2 = false → claimOf s n.toNat = some (bitsN vy 0 2) → Gives (.fpBankBind y rs) s (advanced (bindBank s n.toNat (bitsN vy 0 2)) y) ∧
        ((bindBank s n.toNat (bitsN vy 0 2)).ctx n.toNat).r.fpBound = true ∧ (((bindBank s n.toNat (bitsN vy 0 2)).ctx n.toNat).r.fpBank.toNat = bitsN vy 0 2)) ∧
      (vy.getLsbD 2 = true → Gives (.fpBankRelease y rs) s (advanced (releaseBanks s n.toNat) y) ∧ ((releaseBanks s n.toNat).ctx n.toNat).r.fpBound = false)))

/-- SPAWN makes a fresh HELD context; CTXHOLD, CTXREL, CTXKILL, CTXEND move their target as R62 says. When a context at
Supervisor level issues it: SPAWN on a core with a FREE record outside the pool makes the lowest one HELD (held_from
READY, gen unchanged, owner and world of the caller, User level, the caller's space, priority and pkr, every word NIL,
vwc 1, pc the entry) and answers its handle, and answers NIL when there is none. For a handle that R79 permits
(Targets): CTXHOLD of a target whose appends are performed and which waits for no maintenance makes it HELD,
remembering the state it was in, and queues the swap that takes it out of its slot; CTXREL of a target held from READY
makes it READY, and of one held from WAIT_MEM makes it WAIT_MEM; CTXKILL of a target that waits for no maintenance
sets dying, increases its generation, unbinds its bank and queues that swap; CTXEND does so to the executing context
with no open gate and no held store fault. (R54, R62, R78, R79, R80, R81.) -/
def Obligations.ContextInstructions : Prop :=
  ∀ (s : State) (n : BitVec 16) (m k : Nat) (rd rs rt : BitVec 5),
  let x := Exec.ctx n
  let a := xreg s x rs
  let b := xreg s x rt
  let me := s.ctx n.toNat
  (Ready s x (.spawn rd rs rt) → xsup s x = true → IsFix a → (b.tag = 0x108 ∨ b.tag = 0x006) → (vaOf b).toNat % 4 = 0 → a.payload.toNat < 256 →
    (s.tile (tileOf a.payload.toNat)).dead = false → freeRecord s a.payload.toNat = some k →
    let fresh : Ctx := {
      dir := { state := .held, heldFrom := .ready, gen := (s.ctx k).dir.gen, owner := me.r.world, prio := me.dir.prio },
      r := { pc := vaOf b, pkr := me.r.pkr, vwc := 1, ctxStat := BitVec.ofNat 32 (me.r.world.num + 4 * me.r.space.toNat) } }
    Gives (.spawn x rd rs rt) s (advanced (setXreg (s.setCtx k fresh) x rd
      ⟨0x007, BitVec.ofNat 64 (k + 2 ^ 16 * (devNo s).toNat + 2 ^ 32 * (s.ctx k).dir.gen.toNat)⟩) x)) ∧
  (Ready s x (.spawn rd rs rt) → xsup s x = true → IsFix a → (b.tag = 0x108 ∨ b.tag = 0x006) → (vaOf b).toNat % 4 = 0 →
    (256 ≤ a.payload.toNat ∨ (s.tile (tileOf a.payload.toNat)).dead = true ∨ freeRecord s a.payload.toNat = none) → Result (.spawn x rd rs rt) s x rd nilW) ∧
  (Ready s x (.ctxhold rs) → Targets s x a m mayHold → appendsDone s m = true → atAck s m = false →
    Gives (.ctxhold x rs) s (advanced (holdCtx s m) x) ∧ ((holdCtx s m).ctx m).dir.state = .held ∧ ((s.ctx m).slot ≠ none → Leaving (holdCtx s m) m) ∧
    ((s.ctx m).dir.state = .ready → ((holdCtx s m).ctx m).dir.heldFrom = .ready) ∧ ((s.ctx m).dir.state = .waitEvent → ((holdCtx s m).ctx m).dir.heldFrom = .waitEvent)) ∧
  (Ready s x (.ctxrel rs) → Targets s x a m isHeld →
    Gives (.ctxrel x rs) s (advanced (releaseCtx s m) x) ∧ ((s.ctx m).dir.heldFrom = .ready → ((releaseCtx s m).ctx m).dir.state = .ready) ∧
    ((s.ctx m).dir.heldFrom = .waitMem → ((releaseCtx s m).ctx m).dir.state = .waitMem)) ∧
  (Ready s x (.ctxkill rs) → Targets s x a m mayKill → atAck s m = false →
    Gives (.ctxkill x rs) s (advanced (killCtx s m) x) ∧ ((killCtx s m).ctx m).dir.dying = true ∧ ((killCtx s m).ctx m).dir.gen = (s.ctx m).dir.gen + 1 ∧ ((s.ctx m).slot ≠ none → Leaving (killCtx s m) m) ∧
    ((killCtx s m).ctx m).r.fpBound = false) ∧
  (Ready s x .ctxend → xsup s x = true → me.r.gateOpen = false → me.sfault = none →
    ∃ t, Gives (.ctxend x) s t ∧ (t.ctx n.toNat).dir.dying = true ∧ (t.ctx n.toNat).dir.gen = me.dir.gen + 1 ∧ Leaving t n.toNat ∧ ∀ j, j ≠ n.toNat → t.ctx j = s.ctx j)

/-- WAIT takes matching events at once or begins to wait; WAIT.M decides as R74 says; CTXRD and CTXWR reach a HELD record.
When a context issues WAIT with FIXNUM operands: matching events are cleared and written to rd as a FIXNUM, or with
none the mask, deadline and wait 4 are written, the swap-out to WAIT_EVENT is queued and pc is past the instruction.
WAIT.M writes 2 for a global address, 1 when the word of a line its core holds differs from rt, and 2 when the words
agree and all 32 monitors of the core are in use; with a monitor free it takes one for the word, writes wait 5 and the
low half of cnt as deadline, and its swap-out to WAIT_MEM is queued, pc past the instruction. At Supervisor level, for
a target that R79 permits, CTXRD of a HELD or LOCKUP record, or of a directory item of any record, writes the item to
rd and CTXWR of a HELD one writes the item: a ring slot, a global and a trap register whole, and pc. (R72, R73, R74,
R82.) -/
def Obligations.WaitsAndRecords : Prop :=
  ∀ (s t : State) (n : BitVec 16) (m k : Nat) (rd rs rt : BitVec 5) (sel : BitVec 12) (w : W),
  let x := Exec.ctx n
  let a := xreg s x rs
  let b := xreg s x rt
  let c := s.ctx n.toNat
  let mask : BitVec 16 := a.payload.extractLsb' 0 16
  let hit := c.dir.events &&& mask
  (Ready s x (.wait rd rs rt) → IsFix a → IsFix b → hit ≠ 0 →
    Gives (.wait x rd rs rt) s (advanced (setXreg (s.modCtx n.toNat fun c => { c with dir := { c.dir with events := c.dir.events &&& ~~~hit } }) x rd ⟨0x001, hit.zeroExtend 64⟩) x)) ∧
  (Ready s x (.wait rd rs rt) → IsFix a → IsFix b → hit = 0 → c.slot = some k →
    ∃ u, Gives (.wait x rd rs rt) s u ∧ (u.ctx n.toNat).dir.mask = mask ∧ (u.ctx n.toNat).dir.wait = 4 ∧ (u.ctx n.toNat).dir.deadline = b.payload.extractLsb' 0 32 ∧
      (u.ctx n.toNat).waitRd = rd ∧ (u.ctx n.toNat).stopped = true ∧ (u.ctx n.toNat).r.pc = c.r.pc + 4 ∧ (u.ctx n.toNat).dir.events = c.dir.events ∧
      (u.core (coreOf n.toNat)).swaps = (s.core (coreOf n.toNat)).swaps ++ [{ slot := k, out := some n.toNat, goal := .waitEvent }]) ∧
  (Ready s x (.waitM rd rs rt) → Base s x a →
    (isGlobal (addOff (vaOf a) 0) = true → (addOff (vaOf a) 0).toNat % 8 = 0 → Result (.waitM x rd rs rt) s x rd (fixW 2)) ∧
    (Reads (env x (.waitM rd rs rt)) s (addOff (vaOf a) 0) 8 w t → w ≠ xreg t x rt → Gives (.waitM x rd rs rt) s (advanced (setXreg t x rd (fixW 1)) x)) ∧
    (Reads (env x (.waitM rd rs rt)) s (addOff (vaOf a) 0) 8 w t → w = xreg t x rt → 32 ≤ monitorsUsed t (xcore x) → Gives (.waitM x rd rs rt) s (advanced (setXreg t x rd (fixW 2)) x)) ∧
    (∀ l h, Mapped (env x (.waitM rd rs rt)) s (addOff (vaOf a) 0) 0 8 none l t → Held t x (l.lpa (addOff (vaOf a) 0) / 8) h → h.st.hit = true →
      lineWord h.data (l.lpa (addOff (vaOf a) 0) / 8) = xreg t x rt → monitorsUsed t (xcore x) < 32 → c.slot = some k →
      ∃ u, Gives (.waitM x rd rs rt) s u ∧ (u.ctx n.toNat).monitor = some (l.lpa (addOff (vaOf a) 0) / 8, xreg t x rt) ∧ (u.ctx n.toNat).dir.wait = 5 ∧
        (u.ctx n.toNat).dir.deadline = c.r.cnt.extractLsb' 0 32 ∧ (u.ctx n.toNat).waitRd = rd ∧ (u.ctx n.toNat).stopped = true ∧ (u.ctx n.toNat).r.pc = c.r.pc + 4 ∧
        (u.core (coreOf n.toNat)).swaps = (t.core (coreOf n.toNat)).swaps ++ [{ slot := k, out := some n.toNat, goal := .waitMem }])) ∧
  (Ready s x (.ctxrd rd rs sel) → Targets s x a m (fun st => st == .held || st == .lockup) → Result (.ctxrd x rd rs sel) s x rd (itemRead (s.ctx m) sel.toNat)) ∧
  (Ready s x (.ctxrd rd rs sel) → 0x070 ≤ sel.toNat → Targets s x a m (fun _ => true) → Result (.ctxrd x rd rs sel) s x rd (itemRead (s.ctx m) sel.toNat)) ∧
  (Ready s x (.ctxwr rd rs sel) → Targets s x a m isHeld → Gives (.ctxwr x rd rs sel) s (advanced (s.modCtx m fun c => itemWrite c sel.toNat (xreg s x rd)) x)) ∧
  (∀ d : Ctx, (sel.toNat < 0x040 → itemRead d sel.toNat = tgetD d.ring sel.toNat nilW ∧ itemRead (itemWrite d sel.toNat w) sel.toNat = w) ∧
    (0x040 ≤ sel.toNat → sel.toNat < 0x047 → itemRead d sel.toNat = tgetD d.g (sel.toNat - 0x040) nilW ∧ itemRead (itemWrite d sel.toNat w) sel.toNat = w) ∧
    (0x048 ≤ sel.toNat → sel.toNat < 0x050 → itemRead d sel.toNat = tgetD d.trap (sel.toNat - 0x048) nilW ∧ itemRead (itemWrite d sel.toNat w) sel.toNat = w) ∧ itemRead d 0x050 = rawW d.r.pc.toNat ∧
    (itemWrite d 0x050 w).r.pc = w.payload.extractLsb' 0 59)

/-- TLBI begins, takes effect at an agent by removing what it names, and completes when every agent is done; SETPKR. When
executor x at Supervisor level issues it: TLBI.VA of a private address, or of a global one of this device, TLBI.SP and
TLBI.W enter a TLBI of the world into the list (TLBI.VA of another device's address does nothing); it takes effect at
an agent (a core, an engine, the home translator) once the issuer's stores are visible, and every entry it names is
then gone from that agent's TLB and no other entry; it completes and leaves the list when every store of the issuer is
visible, no answer of another device is outstanding, no access goes on under an old translation and it took effect
everywhere. SETPKR of an integer writes pkr at Supervisor level. A walk whose table word came goes on: where its
instruction then runs to its end, it completes (GoesOn, CompletionFrame). (R210, R219, R220, R221, R222, R223.) -/
def Obligations.TranslationMaintenance : Prop :=
  ∀ (s : State) (x : Exec) (n : BitVec 16) (rs : BitVec 5) (u : Tlbi) (id : Nat) (agent : BitVec 9) (p : Pend),
  let a := xreg s x rs
  let begin_ := fun (k : TlbiK) => advanced { s with tlbis := s.tlbis ++ [{ id := s.nextTlbi, by_ := x, world := xworld s x, kind := k }], nextTlbi := s.nextTlbi + 1 } x
  (xsup s x = true →
    (Ready s x (.tlbiVa rs) → Whole a → (isPtr a = true ∨ a.tag = 0x006) →
      (isGlobal (vaOf a) = false → Gives (.tlbiVa x rs) s (begin_ (.va (bitsN (vaOf a) 12 47)))) ∧
      (isGlobal (vaOf a) = true → homeDev (vaOf a) = devNo s → Gives (.tlbiVa x rs) s (begin_ (.globalVa (bitsN (vaOf a) 12 47)))) ∧
      (isGlobal (vaOf a) = true → homeDev (vaOf a) ≠ devNo s → Gives (.tlbiVa x rs) s (advanced s x))) ∧
    (Ready s x (.tlbiSp rs) → IsFix a → Gives (.tlbiSp x rs) s (begin_ (.sp (a.payload.extractLsb' 0 12)))) ∧
    (Ready s x .tlbiW → Gives (.tlbiW x) s (begin_ .w))) ∧
  (Ready s (.ctx n) (.setpkr rs) → IsInt (xreg s (.ctx n) rs) → xsup s (.ctx n) = true →
    Gives (.setpkr (.ctx n) rs) s (advanced (s.modCtx n.toNat fun c => { c with r := { c.r with pkr := (xreg s (.ctx n) rs).payload } }) (.ctx n))) ∧
  ((s.tlbis.find? fun v => v.id == id) = some u → storesVisible s u.by_ = true → u.done.contains agent.toNat = false → agent.toNat ≤ homeTlb →
    ∃ t, Gives (.tlbiTakesEffect id agent) s t ∧ tgetD t.tlbs agent.toNat [] = (tgetD s.tlbs agent.toNat []).filter (fun e => !removes u (agent.toNat == homeTlb) e) ∧
      (∀ j, j ≠ agent.toNat → tgetD t.tlbs j [] = tgetD s.tlbs j [])) ∧
  ((s.tlbis.find? fun v => v.id == id) = some u → storesVisible s u.by_ = true → u.acks = [] → accessesDone s = true →
    ((List.range (homeTlb + 1)).all (tookEffect s u)) = true → ∃ t, Gives (.tlbiComplete id) s t ∧ t.tlbis = s.tlbis.filter fun v => v.id != id) ∧
  (∀ v, pendOf s x = some p → p.why = .walk → GoesOn s x p v → inSlot v x = true → Gives (.walkReadComplete x) s (advanced v x))

/-- An ACTIVE context is swapped out to READY at the end of its quantum only if a READY one waits and no slot is free. For
a context that has been ACTIVE for quantum cycles (the event of the command), at an instruction boundary: with quantum
not 0, a READY context of equal or higher priority waiting and no slot of the core free, its swap-out to READY is
queued and it issues nothing more; when the quantum is 0, no such context waits, or a slot is free, nothing happens.
(R64.) -/
def Obligations.QuantumExpiry : Prop :=
  ∀ (s : State) (n : BitVec 16) (k : Nat),
  let c := s.ctx n.toNat
  let q := s.core (coreOf n.toNat)
  let waiting := ∃ m ∈ q.readyQ, c.dir.prio.toNat ≤ (s.ctx m).dir.prio.toNat
  c.dir.state = .active → c.slot = some k → c.stopped = false → c.pend = none →
  (dval s 0x3200 0x03 ≠ 0 → waiting → freeSlot q = none →
    Gives (.quantumExpiry n) s ((s.setCtx n.toNat { c with stopped := true }).modCore (coreOf n.toNat) fun q =>
      { q with swaps := q.swaps ++ [{ slot := k, out := some n.toNat, goal := .ready }] }).tick) ∧
  ((dval s 0x3200 0x03 = 0 ∨ ¬ waiting ∨ freeSlot q ≠ none) → Gives (.quantumExpiry n) s s.tick)

/-- Swaps start in order and complete: the outgoing context leaves its slot for its state, the incoming one is ACTIVE in
it. SWAP_START of a core that runs, with no injected error waiting in its Thatch store, starts the first queued swap
when it is not started and chooses the READY context of highest priority, first in order of arrival, which leaves the
ready queue. SWAP_COMPLETE of a started swap whose outgoing context has performed its appends: an outgoing ACTIVE
context, to a state other than READY, is in that state, in no slot and may issue when it returns; an incoming one,
with no exception due and no substitution of the core, is ACTIVE in the slot; the swap leaves the queue. PREEMPTION:
with no slot free, when more READY contexts than queued swaps have a priority above that of the ACTIVE context
preemptee, its swap-out to READY is queued. (R63, R71, R66.) -/
def Obligations.SwapsAndPreemption : Prop :=
  ∀ (s : State) (core : BitVec 8) (w : Swap) (rest : List Swap) (m n : Nat),
  let c := s.core core.toNat
  (c.swaps = w :: rest → w.started = false → coreRuns s core.toNat = true → c.halting = false → c.testing = none → coreArmed s core.toNat 2 = false → nextReady s core.toNat = some n →
    Gives (.swapStart core) s (s.setCore core.toNat { c with swaps := { w with started := true, inc := some n } :: rest, readyQ := c.readyQ.filter (fun m => m != n) }).tick) ∧
  (c.swaps = [w] → w.started = true → w.out = some m → w.inc = none → w.goal ≠ .ready → (s.ctx m).dir.state = .active → (s.ctx m).dir.dying = false → appendsDone s m = true → c.readyQ = [] →
    ∃ t, Gives (.swapComplete core) s t ∧ (t.ctx m).dir.state = w.goal ∧ (t.ctx m).slot = none ∧ (t.ctx m).stopped = false ∧ (∀ j, j ≠ m → t.ctx j = s.ctx j) ∧
      (t.core core.toNat).slots = tdel c.slots w.slot ∧ (t.core core.toNat).swaps = []) ∧
  (c.swaps = [w] → w.started = true → w.out = none → w.inc = some n → (s.ctx n).dir.fault = false → c.subst = false → c.readyQ = [] →
    ∃ t, Gives (.swapComplete core) s t ∧ (t.ctx n).dir.state = .active ∧ (t.ctx n).slot = some w.slot ∧ (t.ctx n).ring = (s.ctx n).ring ∧ (t.ctx n).r = (s.ctx n).r ∧ (∀ j, j ≠ n → t.ctx j = s.ctx j) ∧
      tget (t.core core.toNat).slots w.slot = some n ∧ (t.core core.toNat).swaps = []) ∧
  (preemptee s core.toNat = some n → (s.ctx n).pend = none → freeSlot c = none →
    (c.swaps.filter fun w => !w.started).length < (c.readyQ.filter fun m => decide ((s.ctx n).dir.prio.toNat < (s.ctx m).dir.prio.toNat)).length →
    Gives (.preemption core) s (queueSwap s n .ready).tick)

/-- A completed access goes on with its instruction; a deadline ends its wait with 0; a drained record becomes FREE.
ACCESS_COMPLETE of an executor whose access has its data completes it: an instruction that then runs to its end
(GoesOn) completes, at the next instruction, in its slot; a context out of its slot, in WAIT_MEM, becomes READY with
the instruction complete; a context in its slot whose remote access came back with a fault takes the exception.
DEADLINE_EXPIRY of a WAIT or WAIT.M with a deadline writes FIXNUM 0 to rd and ends the wait: the context is READY.
CONTEXT_DRAIN_COMPLETE of a dying record in no slot with nothing outstanding makes it FREE without a further increase
of gen; one that still has a slot, an access or a store outstanding stays. (R62, R66, R67, R72, R54, R137.) -/
def Obligations.AccessesGoOn : Prop :=
  ∀ (s u : State) (x : Exec) (n : BitVec 16) (p : Pend) (f : Exn),
  let c := s.ctx n.toNat
  let y := Exec.ctx n
  (pendOf s x = some p → (p.why = .line ∨ p.why = .remote ∨ p.why = .maint) → GoesOn (closeOwn s x p) x p u → inSlot u x = true → Gives (.accessComplete x) s (advanced u x)) ∧
  (pendOf s y = some p → (p.why = .line ∨ p.why = .remote ∨ p.why = .maint) → GoesOn (closeOwn s y p) y p u → (u.ctx n.toNat).dir.state = .waitMem → (u.ctx n.toNat).slot = none →
    ∃ v, Gives (.accessComplete y) s v ∧ (v.ctx n.toNat).dir.state = .ready ∧ (v.ctx n.toNat).r.pc = (u.ctx n.toNat).r.pc + 4 ∧ (v.ctx n.toNat).dir.wait = 0 ∧ ∀ q, xreg v y q = xreg u y q) ∧
  (pendOf s y = some p → p.why = .remote → p.ready = true → closeOwn s y p = s → c.dir.dying = false → c.exn = some f → inSlot s y = true → (s.core (coreOf n.toNat)).subst = false →
    Gives (.accessComplete y) s (raiseX ((setPend s y none).modCtx n.toNat fun c => { c with exn := none }) y f).tick) ∧
  ((c.dir.wait = 4 ∨ c.dir.wait = 5) → c.dir.deadline ≠ 0 → (c.dir.state = .waitEvent ∨ c.dir.state = .waitMem) →
    ∃ v, Gives (.deadlineExpiry n) s v ∧ (v.ctx n.toNat).dir.state = .ready ∧ (v.ctx n.toNat).dir.wait = 0 ∧ (v.ctx n.toNat).monitor = none ∧
      (c.waitRd ≠ 0 → ctxReg (v.ctx n.toNat) c.waitRd.toNat = fixW 0) ∧ (v.ctx n.toNat).r = c.r) ∧
  (c.dir.dying = true → c.slot = none → c.dir.accessOut = false → c.dir.storesOut = 0 →
    ∃ v, Gives (.contextDrainComplete n) s v ∧ (v.ctx n.toNat).dir.state = .free ∧ (v.ctx n.toNat).dir.dying = false ∧ (v.ctx n.toNat).dir.gen = c.dir.gen ∧ ∀ j, j ≠ n.toNat → v.ctx j = s.ctx j) ∧
  (c.dir.dying = true → (c.slot ≠ none ∨ c.dir.accessOut = true ∨ c.dir.storesOut ≠ 0) → Gives (.contextDrainComplete n) s s.tick)

/-- A doorbell sets event bits, ends a matching WAIT and wakes a tile; NAP, DOZE and waking of a tile. Where the mode of
its tile takes doorbells, a write of DB_RING of a live context of the writer's world ORs the written bits into events;
when the context waits in WAIT_EVENT and a bit matches its mask, the matching bits are cleared and written to rd as a
FIXNUM, and it is READY. A sleeping tile of the context begins to wake. A write of DB_PENDING clears the written bits.
A write by another world changes nothing but a count of discarded writes. A tile that is on, awake and idle enters
NAP; a napping idle one enters DOZE when doze_idle is not 0; a waking one is on again, its lag of a GC write applied.
(R72, R73, R75, R76, R22, R445.) -/
def Obligations.DoorbellsAndTileSleep : Prop :=
  ∀ (s : State) (w : World) (lcn ev : BitVec 16) (tile : BitVec 5),
  let n := lcn.toNat
  let c := s.ctx n
  let v : BitVec 64 := ev.setWidth 64
  let all := c.dir.events ||| ev
  let hit := all &&& c.dir.mask
  let x := s.tile tile.toNat
  (n < 40960 → MayWrite s w (0x7F600000000 + n * 0x40) v → noBells (modeAt s (tileOf (coreOf n))) = false → c.dir.owner = w → c.dir.state ≠ .free → c.dir.state ≠ .stub → c.dir.dying = false →
    ((c.dir.wait ≠ 4 ∨ hit = 0) → ∃ t, Gives (.dbRingWrite (.world w) lcn ev) s t ∧ t.ctx n = { c with dir := { c.dir with events := all } } ∧
      ((s.tile (tileOf (coreOf n))).power = .nap → (t.tile (tileOf (coreOf n))).waking = true)) ∧
    (c.dir.wait = 4 → hit ≠ 0 → c.dir.state = .waitEvent → ∃ t, Gives (.dbRingWrite (.world w) lcn ev) s t ∧ (t.ctx n).dir.state = .ready ∧ (t.ctx n).dir.wait = 0 ∧
      (t.ctx n).dir.events = all &&& ~~~hit ∧ (c.waitRd ≠ 0 → ctxReg (t.ctx n) c.waitRd.toNat = ⟨0x001, hit.setWidth 64⟩) ∧ n ∈ (t.core (coreOf n)).readyQ)) ∧
  (n < 40960 → MayWrite s w (0x7F600000008 + n * 0x40) v → noBells (modeAt s (tileOf (coreOf n))) = false → c.dir.owner = w → c.dir.state ≠ .stub →
    Gives (.dbPendingWrite (.world w) lcn ev) s (s.modCtx n fun c => { c with dir := { c.dir with events := c.dir.events &&& ~~~ev } }).tick) ∧
  (n < 40960 → MayWrite s w (0x7F600000000 + n * 0x40) v → c.dir.owner ≠ w → Gives (.dbRingWrite (.world w) lcn ev) s (discardRing s).tick ∧ (discardRing s).ctxs = s.ctxs) ∧
  (x.power = .on → x.waking = false → x.dead = false → tileIdle s tile.toNat = true → Gives (.tileNap tile) s (s.setTile tile.toNat { x with power := .nap }).tick) ∧
  (x.power = .nap → x.waking = false → tileIdle s tile.toNat = true → dval s 0x0402 0x02 ≠ 0 → Gives (.tileDoze tile) s (s.setTile tile.toNat { x with power := .doze }).tick) ∧
  (x.waking = true → ∃ t, Gives (.tileWakeComplete tile) s t ∧ (t.tile tile.toNat).power = .on ∧ (t.tile tile.toNat).waking = false ∧
    ∀ a ∈ t.gcLag, a ∈ s.gcLag ∧ a ≠ 320 + tile.toNat ∧ (a < 256 → tileOf a ≠ tile.toNat))

/-- An NMI is held for its FIC; entry to NMI and IRQ service sets mode, cause, info and pc from fic_vec. NMI_N in a mode
in which fast interrupt contexts exist makes an NMI pending at the FIC of the core that 0x0208.01 names (the lowest
live one when its tile is dead). A FIC that runs with no access pending and a good fic_vec enters NMI service from
IDLE or IRQ when an NMI is pending: cause 0x210100, pc at fic_vec + 0x40, and from IRQ its pc is kept in fic_npc. With
no NMI pending an IDLE one enters IRQ service for its lowest-numbered pending source: that source is no longer
pending, cause is 0x200000 + its number, info its detail (for a memory controller's source, MC_EVENT as it then
stands), pc at fic_vec. Without a pending source, or in a mode in which its tile runs no FIC, nothing happens. (R103,
R104, R172, R181, R182.) -/
def Obligations.FastInterruptEntry : Prop :=
  ∀ (s : State) (core : BitVec 8) (src : Nat) (info : BitVec 64) (va : BitVec 59),
  let k := core.toNat
  let f := (s.core k).fic
  (ficThere s.mg.mode = true →
    ((s.tile (tileOf (dval s 0x0208 0x01 % 256))).dead = false → nmiCore s = dval s 0x0208 0x01 % 256) ∧
    ∃ t, Gives .nmiNAssert s t ∧ (t.core (nmiCore s)).fic.nmi = true ∧ (t.core (nmiCore s)).fic.mode = (s.core (nmiCore s)).fic.mode ∧
      ((s.core (nmiCore s)).fic.mode ≠ .lockup → ∀ j, j ≠ nmiCore s → t.core j = s.core j)) ∧
  (ficThere s.mg.mode = false → Gives .nmiNAssert s s.tick) ∧
  (coreUp s k = true → ficRuns (modeAt s (tileOf k)) = true → f.pend = none → s.svc.ficVec = some va →
    (f.nmi = true → f.mode = .idle → Gives (.ficNmiEntry core) s (s.modCore k fun c => { c with fic :=
      { f with mode := .nmi, nmi := false, fromIrq := false, cause := 0x210100, pc := va + 0x40, repeated := none } }).tick) ∧
    (f.nmi = true → f.mode = .irq → Gives (.ficNmiEntry core) s (s.modCore k fun c => { c with fic :=
      { f with mode := .nmi, nmi := false, npc := f.pc, fromIrq := true, cause := 0x210100, pc := va + 0x40, repeated := none } }).tick) ∧
    (f.nmi = false → f.mode = .idle → (src, info) ∈ f.pending → tget f.pending src = some info → (∀ e ∈ f.pending, e = (src, info) ∨ src < e.1) →
      Gives (.ficIrqEntry core) s ({ s with collNote := if src = 0x64 then 0 else s.collNote }.modCore k fun c => { c with fic :=
        { f with mode := .irq, pending := tdel f.pending src, cause := BitVec.ofNat 64 (src + 0x200000), info := infoNow s src info, pc := va, repeated := none } }).tick)) ∧
  ((ficRuns (modeAt s (tileOf k)) = false ∨ f.nmi = false ∨ f.mode = .nmi) → Gives (.ficNmiEntry core) s s.tick) ∧
  ((ficRuns (modeAt s (tileOf k)) = false ∨ f.pending = [] ∨ f.nmi = true ∨ f.mode ≠ .idle) → Gives (.ficIrqEntry core) s s.tick)

/-- A home that holds a line in L2, with no copy elsewhere, answers each request with its data or completion and sets the
entry. A request that its line's home accepts at once, the line in the home's L2 slice and no core named: RDS (not of
a fetch, not write-through) grants E, RDX and UPG grant M, and the core is the only holder; RDO delivers the words
uncached and names nobody; WRM merges the bytes into the L2 copy; ATM delivers the old words and the L2 copy takes the
new one; CLN writes dirty data to memory and keeps the copy clean, FLS drops it, INV drops it with memory unchanged;
each of these four ends with CMP (ATM with DATO). A request for a line with an open transaction gets RTY, or waits
when marked priority. WRF of a line that no core is named for leaves memory with the line, or its L2 copy dirty with
it; with a stash hint the target holds it in E, named as owner, and the home awaits its ACK; sharers are first sent
SNI, and nothing is written yet. A TAGQ is answered with TAGR, which lists the lines of the set whose entries name the
core. (R227, R230, R232, R235, R238, R240, R241, R245.) -/
def Obligations.HomeRequests : Prop :=
  ∀ (s u : State) (core : BitVec 8) (line : BitVec 37) (set : BitVec 7) (tile : BitVec 5) (r : Req) (l : L2Line) (m : Msg) (x : Txn) (d : Line) (w : W) (ps : PStore) (key : Nat) (op : BitVec 3) (rt rd : W) (tgt : BitVec 9),
  let c := core.toNat
  let n := line.toNat
  let own : Sf := { st := .ex, owner := c }
  let l2 := fun (t : State) => tget (t.tile (homeTile u n)).l2 n
  (InL2 u n l →
    (Asked s .rds .rds c n r u → r.ifetch = false → r.wt = false → ∃ t, Gives (.rds core line) s t ∧ entryOf t n = own ∧ t.mesh = u.mesh ++ [replyTo u r .date (some l.data)]) ∧
    (Asked s .rdx .rdx c n r u → ∃ t, Gives (.rdx core line) s t ∧ entryOf t n = own ∧ t.mesh = u.mesh ++ [replyTo u r .datm (some l.data)]) ∧
    (Asked s .upg .upg c n r u → ∃ t, Gives (.upg core line) s t ∧ entryOf t n = own ∧ t.mesh = u.mesh ++ [replyTo u r .datm (some l.data)]) ∧
    (Asked s .rdo .rdo c n r u → ∃ t, Gives (.rdo core line) s t ∧ entryOf t n = {} ∧ t.mesh = u.mesh ++ [replyTo u r .dato (some l.data)]) ∧
    (Asked s .wrm .wrm c n r u → r.word = some ps → ps.key / 8 = n → ∃ t, Gives (.wrm core line) s t ∧ entryOf t n = {} ∧ t.mesh = u.mesh ++ [replyTo u r .cmp none] ∧
      l2 t = some { l with dirty := true, data := mergeLine l.data ps.key ps.word ps.mask, stash := none }) ∧
    (Asked s .atm .atm c n r u → r.atom = some (key, op, rt, rd) → key / 8 = n → atomNew op.toNat (lineWord l.data key) rt rd = .ok w →
      ∃ t, Gives (.atm core line) s t ∧ entryOf t n = {} ∧ t.mesh = u.mesh ++ [replyTo u r .dato (some l.data)] ∧ l2 t = some { dirty := true, data := l.data.set (key % 8) w }) ∧
    (Asked s .cln .cln c n r u → ∃ t, Gives (.cln core line) s t ∧ t.mesh = u.mesh ++ [replyTo u r .cmp none] ∧ l2 t = some { l with dirty := false } ∧ (l.dirty = true → memLine t n = l.data)) ∧
    (Asked s .fls .fls c n r u → ∃ t, Gives (.fls core line) s t ∧ t.mesh = u.mesh ++ [replyTo u r .cmp none] ∧ l2 t = none ∧ (l.dirty = true → memLine t n = l.data)) ∧
    (Asked s .inv .inv c n r u → ∃ t, Gives (.homeInv core line) s t ∧ t.mesh = u.mesh ++ [replyTo u r .cmp none] ∧ l2 t = none ∧ t.mem = u.mem)) ∧
  (AtHome s .rds c n m u → m.req = some r → r.line = n → sameCycle s m (fun _ => true) = [] → (u.tile (homeTile u n)).dead = false → (u.core r.core).dead = false → (entryOf u n).txn = some x →
    (r.prio = false → Gives (.rds core line) s (post u (replyTo u r .rty none)).tick) ∧
    (r.prio = true → Gives (.rds core line) s (u.modTile (homeTile u n) fun t => { t with prioQ := t.prioQ ++ [r] }).tick)) ∧
  (d.length = 8 → deadHome s n = false → (entryOf s n).txn = none → (s.tile (homeTile s n)).prioQ = [] →
    (entryOf s n = {} → l2Data s n = none → ∃ t, Gives (.wrf line d none) s t ∧ memLine t n = d ∧ entryOf t n = {}) ∧
    (entryOf s n = {} → l2Data s n ≠ none → ∃ t, Gives (.wrf line d none) s t ∧ tget (t.tile (homeTile s n)).l2 n = some { dirty := true, data := d } ∧ entryOf t n = {}) ∧
    (entryOf s n = {} → l2Data s n = none → s.mem.errs = [] → s.mem.armed = [] → coreLive s tgt.toNat = true → (s.core tgt.toNat).tagErr = [] → tget (s.core tgt.toNat).l1d n = none → (s.core tgt.toNat).l1d.length < 8 →
      ∃ t, Gives (.wrf line d (some tgt)) s t ∧ tget (t.core tgt.toNat).l1d n = some { st := .e, data := d } ∧
        (entryOf t n).st = .ex ∧ (entryOf t n).owner = tgt.toNat ∧ (∃ y, (entryOf t n).txn = some y ∧ y.awaiting = [tgt.toNat]) ∧
        t.mesh = s.mesh ++ [{ kind := .ack, src := tgt.toNat, dst := homeNode s n, line := n, st := some .e }]) ∧
    (∀ k, entryOf s n = { st := .sh, sharers := [k] } → s.mem.armed = [] → tget (s.tile (tileOf k)).l2 n = none → ∃ t, Gives (.wrf line d none) s t ∧ t.mem = s.mem ∧
      (∃ y, (entryOf t n).txn = some y ∧ y.awaiting = [k] ∧ y.req.kind = .wrf) ∧ ∃ q, t.mesh = s.mesh ++ [q] ∧ q.kind = .sni ∧ q.dst = k ∧ q.line = n)) ∧
  (coreLive s c = true → (∃ e ∈ (s.core c).tagErr, e.set = set.toNat) →
    takeMsg s (fun m => m.kind == .tagq && (m.src == c && (m.line == set.toNat && m.dst == 256 + tile.toNat))) = some (m, u) →
    Gives (.tagq core set tile) s (post u { kind := .tagr, src := m.dst, dst := c, line := set.toNat, tags := tagList u c set.toNat tile.toNat }).tick)

/-- What each snoop leaves of a line in M, O, E or S at a core and answers, and what a writeback or eviction leaves at the
home. A snoop that reaches a core which holds the line in a stable state: SNS takes E to S and M to O and keeps O, the
data going to the requester, with ACK; a speculative SNS of an M line gets ACKN. SNX gives the data and the line away.
SNI takes the line, in any state, with ACK. SNR changes nothing and answers ACKD with the data. SNC takes M to E and O
to S with ACKD, and keeps E with ACK. SNF takes the line, with ACKD when M or O, else ACK. A core without the line
answers ACK to each. WBD at the home puts the data into L2 as dirty, EVC and WBD take the core out of the entry, and
WBA goes back. (R236, R237, R238, R239.) -/
def Obligations.SnoopsAndEvictions : Prop :=
  ∀ (s u : State) (core : BitVec 8) (line : BitVec 37) (m : Msg) (l : L1Line) (d : Line) (old : L2Line),
  let c := core.toNat
  let n := line.toNat
  let ack : Option L1 → Bool → Msg := fun st f => { kind := .ack, src := m.dst, dst := m.src, line := m.line, st := st, flag := f, req := m.req }
  let ackd : Option L1 → Bool → Msg := fun st f => { kind := .ackd, src := m.dst, dst := m.src, line := m.line, st := st, data := some l.data, flag := f, req := m.req }
  let fwd : MsgK → Msg := fun k => { kind := k, src := m.dst, dst := m.toward, line := m.line, data := some l.data, flag := true, req := m.req }
  let dirty := l.st = .m ∨ l.st = .o
  (Snooped s .sns c n m u l →
    (l.st = .e → ∃ t, Gives (.sns core line) s t ∧ Answered u t c n l (some .s) [fwd .dats, ack (some .s) true]) ∧
    (l.st = .m → m.flag = false → ∃ t, Gives (.sns core line) s t ∧ Answered u t c n l (some .o) [fwd .dats, ack (some .o) true]) ∧
    (l.st = .m → m.flag = true → ∃ t, Gives (.sns core line) s t ∧ Answered u t c n l (some .m) [{ ack (some .m) false with kind := .ackn }]) ∧
    (l.st = .o → ∃ t, Gives (.sns core line) s t ∧ Answered u t c n l (some .o) [fwd .dats, ack (some .o) true])) ∧
  (Snooped s .snx c n m u l → (l.st = .e ∨ dirty) → ∃ t, Gives (.snx core line) s t ∧ Answered u t c n l none [fwd .datm, ack none true]) ∧
  (Snooped s .sni c n m u l → (l.st = .s ∨ l.st = .e ∨ dirty) → ∃ t, Gives (.sni core line) s t ∧ Answered u t c n l none [ack none false]) ∧
  (Snooped s .snr c n m u l →
    (l.st = .e → ∃ t, Gives (.snr core line) s t ∧ Answered u t c n l (some .e) [ackd (some .e) false]) ∧
    ((dirty ∨ l.st = .s) → ∃ t, Gives (.snr core line) s t ∧ Answered u t c n l (some l.st) [ackd (some l.st) l.na])) ∧
  (Snooped s .snc c n m u l →
    (l.st = .m → ∃ t, Gives (.snc core line) s t ∧ Answered u t c n l (some .e) [ackd (some .e) l.na]) ∧
    (l.st = .o → ∃ t, Gives (.snc core line) s t ∧ Answered u t c n l (some .s) [ackd (some .s) l.na]) ∧
    (l.st = .e → ∃ t, Gives (.snc core line) s t ∧ Answered u t c n l (some .e) [ack (some .e) false])) ∧
  (Snooped s .snf c n m u l →
    (dirty → ∃ t, Gives (.snf core line) s t ∧ Answered u t c n l none [ackd none l.na]) ∧
    ((l.st = .e ∨ l.st = .s) → ∃ t, Gives (.snf core line) s t ∧ Answered u t c n l none [ack none false])) ∧
  (∀ k cmd, (k, cmd) ∈ [(MsgK.sns, Instr.sns core line), (.snx, .snx core line), (.sni, .sni core line), (.snr, .snr core line), (.snc, .snc core line), (.snf, .snf core line)] →
    AtCore s k c n m u → heldSnoop s m = false → tget (u.core c).l1d n = none → tget (u.core c).l1i n = none →
    ∃ t, Gives cmd s t ∧ t.mesh = u.mesh ++ [ack none false] ∧ tget (t.core c).l1d n = none) ∧
  ((u.tile (homeTile u n)).dead = false → (u.core c).dead = false → tget (u.core c).l1i n = none → (entryOf u n).txn = none → tget (u.tile (homeTile u n)).l2 n = some old →
    (AtHome s .wbd c n m u → m.toward ≠ 1 → m.data = some d → ∃ t, Gives (.wbd core line) s t ∧ (entryOf t n).holders = (entryOf u n).holders.filter (· != c) ∧ tget (t.tile (homeTile u n)).l2 n = some { dirty := true, data := d } ∧
      t.mesh = u.mesh ++ [{ kind := .wba, src := homeNode u n, dst := c, line := n, toward := m.toward }]) ∧
    (AtHome s .evc c n m u → m.toward ≠ 1 → m.data = none → ∃ t, Gives (.evc core line) s t ∧ (entryOf t n).holders = (entryOf u n).holders.filter (· != c) ∧ l2Data t n = some old.data ∧
      t.mesh = u.mesh ++ [{ kind := .wba, src := homeNode u n, dst := c, line := n, toward := m.toward }]))

/-- A home records each answer to its snoops: who reported what, data for L2, and a refused stash line. While a
transaction awaits further cores, an awaited core's answer is recorded in the line's entry: ACK applies the reported
state and notes that data was forwarded, ACKU removes the core, ACKN notes that the read was declined, ACKW makes the
home wait for the writeback unless it came, ACKD applies the state, and data that a CLN or FLS collects is in L2 as
dirty (na clear). An answer of a core that is not awaited changes nothing. NAKST of the line of a stash places it in
the slice of the core's tile, where a way is free, as a stash line for the core unless that tile is the line's home.
(R237, R238, R239, R245.) -/
def Obligations.SnoopAnswersAtHome : Prop :=
  ∀ (s u : State) (core : BitVec 8) (line : BitVec 37) (m : Msg) (x : Txn) (d : Line) (old : L2Line),
  let c := core.toNat
  let n := line.toNat
  let e := entryOf u n
  let y : Txn := { x with awaiting := x.awaiting.erase c }
  (e.txn = some x → x.awaiting.contains c = true → x.awaiting.erase c ≠ [] →
    (AtHome s .ack c n m u → ∃ t, Gives (.ack core line) s t ∧ entryOf t n = { e.report c m.st with txn := some { y with moved := x.moved || m.flag } }) ∧
    (AtHome s .acku c n m u → ∃ t, Gives (.acku core line) s t ∧ entryOf t n = { e.drop c with txn := some y }) ∧
    (AtHome s .ackn c n m u → ∃ t, Gives (.ackn core line) s t ∧ entryOf t n = { e with txn := some { y with declined := true } }) ∧
    (AtHome s .ackw c n m u → x.wbSeen.contains c = false → ∃ t, Gives (.ackw core line) s t ∧ entryOf t n = { e with txn := some { y with wbWait := x.wbWait ++ [c] } }) ∧
    (AtHome s .ackw c n m u → x.wbSeen.contains c = true → ∃ t, Gives (.ackw core line) s t ∧ entryOf t n = { e with txn := some y }) ∧
    (AtHome s .ackd c n m u → (x.req.kind = .cln ∨ x.req.kind = .fls) → m.data = some d → tget (u.tile (homeTile u n)).l2 n = some old →
      ∃ t, Gives (.ackd core line) s t ∧ entryOf t n = { e.report c m.st with txn := some y } ∧ tget (t.tile (homeTile u n)).l2 n = some { dirty := true, data := d })) ∧
  (AtHome s .ack c n m u → e.txn = some x → x.awaiting.contains c = false → Gives (.ack core line) s u.tick) ∧
  (AtHome s .nakst c n m u → m.data = some d → e.txn = some { req := { kind := .evict, core := c, line := n }, awaiting := [c] } → (u.tile (homeTile u n)).prioQ = [] →
    tget (u.tile (tileOf c)).l2 n = none → l2Free (u.tile (tileOf c)) (l2Set n) = true →
    ∃ t, Gives (.nakst core line) s t ∧ (entryOf t n).txn = none ∧
      tget (t.tile (tileOf c)).l2 n = some { dirty := false, data := d, stash := if tileOf c = homeTile u n then none else some c })

/-- What each answer of a home does at the core: retry, grant, completion, data, tag recovery, and the end of an L1D
drain. At the core: RTY queues the request with its tries counted, priority from the fifth; REQUEST_RESEND sends the
first waiting request of a line with a credit when fewer than two are out; NAKS sends RDS again for a load that waits,
without spec; PRG swaps nobody out when the estimate is not above swap_thresh; GNT takes SM_A and OM_A to M; CMP
removes the completed store, and completes the maintenance step that waits for it; WBA ends XI_A; TAGR, when others
are outstanding, adds to the list of the set, and the last one, with no line listed, releases the failed ways and ends
the recovery of the set; DATS, DATE and DATM install the line in S, E and M; DATO delivers the words to the executor
that waits; a drained L1D stays bypassed while l1d_off is set. (R65, R230, R236, R238, R241, R246, R247, R249.) -/
def Obligations.AnswersAtTheCore : Prop :=
  ∀ (s u : State) (core : BitVec 8) (line : BitVec 37) (set : BitVec 7) (m : Msg) (r : Req) (l : L1Line) (d : Line) (b : List Req) (ps : PStore) (n : BitVec 16) (p : Pend),
  let c := core.toNat
  let k := line.toNat
  let cr := (tgetD (s.core c).credits (homeNode s k) 0)
  (AtCore s .rty c k m u → m.req = some r → ∃ t, Gives (.rty core line) s t ∧
    (t.core c).retries = (s.core c).retries ++ [{ r with tries := r.tries + 1, credit := false, prio := decide (5 ≤ r.tries + 1) }]) ∧
  ((s.core c).retries = r :: b → r.line = k → r.core = c → cr < 2 → ∃ t, Gives (.requestResend core line) s t ∧ (t.core c).retries = b ∧ tgetD (t.core c).credits (homeNode s k) 0 = cr + 1 ∧
    t.mesh = s.mesh ++ [{ kind := r.kind.msg, src := c, dst := homeNode s k, line := k, req := some { r with credit := true } }]) ∧
  ((s.core c).retries = r :: b → r.line = k → 2 ≤ cr → Gives (.requestResend core line) s s.tick) ∧
  (AtCore s .naks c k m u → m.req = some r → r.credit = false → r.core = c → r.line = k → r.kind = .rds → (u.core c).fic.pend = some p → p.why = .line → p.needs = some k →
    ∃ t, Gives (.naks core line) s t ∧ t.mesh = u.mesh ++ [{ kind := .rds, src := c, dst := homeNode u k, line := k, req := some { r with spec := false, credit := false, who := none } }]) ∧
  (AtCore s .prg c k m u → dval u 0x3200 (if m.flag then 0x06 else 0x07) ≤ dval u 0x3200 0x02 → Gives (.prg core line) s u.tick) ∧
  (AtCore s .gnt c k m u → tget (u.core c).l1d k = some l → (l.st = .smA ∨ l.st = .omA) → (u.core c).stores = [] → ∃ t, Gives (.gnt core line) s t ∧ tget (t.core c).l1d k = some { l with st := .m }) ∧
  (AtCore s .cmp c k m u → m.req = some r → r.word = some ps → (u.core c).stores = [ps] → ∃ t, Gives (.cmp core line) s t ∧ (t.core c).stores = []) ∧
  (AtCore s .cmp c k m u → m.req = some r → r.credit = false → r.word = none → r.who = some (.ctx n) → r.line = k → (u.ctx n.toNat).pend = some p → p.why = .maint → p.needs = some k →
    ∃ t q, Gives (.cmp core line) s t ∧ (t.ctx n.toNat).pend = some q ∧ q.ready = true) ∧
  (AtCore s .wba c k m u → m.toward ≠ 1 → tget (u.core c).l1d k = some l → l.st = .xiA → (u.core c).stores = [] → (u.core c).tagErr = [] → ∃ t, Gives (.wba core line) s t ∧ ∀ h, (k, h) ∈ (t.core c).l1d → h.st ≠ .xiA) ∧
  (AtCore s .tagr c set.toNat m u →
    let more := u.mesh.any fun m => m.line == set.toNat && ((m.kind == .tagr && m.dst == c) || (m.kind == .tagq && m.src == c))
    (more = true → ∃ t, Gives (.tagr core set) s t ∧ (t.core c).l1d = (u.core c).l1d ∧
      (t.core c).tagErr = (u.core c).tagErr.map fun e => if e.set = set.toNat then { e with got := e.got ++ m.tags } else e) ∧
    (∀ e, more = false → (u.core c).tagErr = [e] → e.set = set.toNat → e.got = [] → m.tags = [] → (u.core c).stores = [] →
      ∃ t, Gives (.tagr core set) s t ∧ (t.core c).tagErr = [] ∧ ((t.core c).l1d = (u.core c).l1d.filter fun l => !e.ways.contains (false, l.1)) ∧ tgetD t.sark.counts 1 0 = tgetD u.sark.counts 1 0 + 1)) ∧
  (tget (u.core c).l1d k = some l → (l.st = .isD ∨ l.st = .imD) → l.once = false → m.toward ≠ 1 → m.dst = c → m.line = k → m.data = some d → m.req = some r → r.ifetch = false → r.credit = false → (u.core c).stores = [] → (u.core c).draining = false →
    (AtCore s .dats c k m u → ∃ t, Gives (.dats core line) s t ∧ tget (t.core c).l1d k = some { l with st := .s, data := d, once := false }) ∧
    (AtCore s .date c k m u → ∃ t, Gives (.date core line) s t ∧ tget (t.core c).l1d k = some { l with st := .e, data := d, once := false }) ∧
    (AtCore s .datm c k m u → ∃ t, Gives (.datm core line) s t ∧ tget (t.core c).l1d k = some { l with st := .m, data := d, once := false })) ∧
  (AtCore s .dato c k m u → m.req = some r → r.credit = false → r.who = some (.ctx n) → r.line = k → m.data = some d → (u.ctx n.toNat).pend = some p → p.why = .line → p.needs = some k →
    ∃ t q, Gives (.dato core line) s t ∧ (t.ctx n.toNat).pend = some q ∧ q.ready = true ∧ ∀ i, i < 8 → tget q.words (k * 8 + i) = some (lineWord d i)) ∧
  ((s.core c).draining = true → (s.core c).l1d = [] → Gives (.l1dDrainComplete core) s (s.setCore c { s.core c with draining := false, bypass := (s.core c).cfg.getLsbD 0 }).tick)

/-- Codeword reads, scrubbing, diagnosis of units, repair, moves into the reserve and memory initialisation. A codeword
that comes back without errors answers the RDO that waits for it with the words of memory. The scrubber steps to the
next codeword and leaves memory as it was. A targeted scrub that found under 4 errors makes the SUSPECT unit HEALTHY
with no counts; errors of one row queue a row repair; others make the unit ERASED, or the group RETIRING when another
unit of it is ERASED. The leaving of an error from the scrub period counts it down. A row repair makes the unit
HEALTHY, or ERASED without a resource. A move of a retiring pseudo-channel steps to its next codeword and keeps both
lines; after the last one the group is RETIRED. Memory initialisation of a cold start with no dead tile leaves no word
written and no error. (R46, R238, R288, R289, R290, R291, R292, R293.) -/
def Obligations.MemoryControllers : Prop :=
  ∀ (s : State) (pair : BitVec 36) (mc : BitVec 5) (unit : BitVec 10) (found : Nat) (oneRow : Bool) (pc : BitVec 8) (q : BitVec 23) (r : Req) (p : Nat),
  let n := 2 * pair.toNat
  let k := mc.toNat
  let m := s.mc k
  let u := unit.toNat
  let g := unitGroup k u
  let clean := fun p => tget s.mem.errs p = none ∧ s.mem.armed = []
  let others := m.units.any fun v => v.1 != u && (unitGroup k v.1 == g && v.2 == .erased)
  (clean pair.toNat → (entryOf s n) = { txn := some { req := r, memory := true } } → (entryOf s (n + 1)).txn = none → r.kind = .rdo → r.line = n → (s.core r.core).dead = false →
    (s.tile (homeTile s n)).prioQ = [] → ∃ t, Gives (.codewordReadComplete pair) s t ∧ entryOf t n = {} ∧ t.mesh = s.mesh ++ [replyTo s r .dato (some (memLine s n))]) ∧
  (mcState s k = 2 → m.scrubQ.toNat + 1 < scrubLen s k → s.mem.armed = [] →
    (∀ p, pairHere s k m.scrubG.toNat m.scrubQ.toNat = some p → clean p ∧ (entryOf s (2 * p)).txn = none ∧ (entryOf s (2 * p + 1)).txn = none) →
    ∃ t, Gives (.scrubRead mc) s t ∧ (t.mc k).scrubQ = m.scrubQ + 1 ∧ t.mem = { s.mem with mcs := t.mem.mcs }) ∧
  (mcState s k ≠ 2 → Gives (.scrubRead mc) s s.tick) ∧
  (tgetD m.units u .healthy = .suspect → u ∈ m.targets →
    (found < 4 → ∃ t, Gives (.targetedScrubComplete mc unit found oneRow) s t ∧ tgetD (t.mc k).units u .suspect = .healthy ∧ tgetD (t.mc k).counts u 0 = 0 ∧ u ∉ (t.mc k).targets ∧ (t.mc k).event.getLsbD 0 = true) ∧
    (4 ≤ found → ∃ t, Gives (.targetedScrubComplete mc unit found true) s t ∧ (t.mc k).rows = m.rows ++ [u] ∧ tgetD (t.mc k).units u .healthy = .suspect) ∧
    (4 ≤ found → others = false → ∃ t, Gives (.targetedScrubComplete mc unit found false) s t ∧ tgetD (t.mc k).units u .healthy = .erased) ∧
    (4 ≤ found → others = true → tgetD m.groups g .inService = .inService → ∃ t, Gives (.targetedScrubComplete mc unit found false) s t ∧ tgetD (t.mc k).groups g .inService = .retiring)) ∧
  (Gives (.errorWindowExpiry mc false unit) s (s.setMc k { m with counts := tset m.counts u (tgetD m.counts u 0 - 1) }).tick) ∧
  (Gives (.errorWindowExpiry mc true unit) s (s.setMc k { m with ues := tset m.ues u ((tgetD m.ues u []).drop 1) }).tick) ∧
  (8 ≤ k → tgetD m.units u .healthy = .suspect → u ∈ m.rows →
    (∃ t, Gives (.softPprComplete mc unit true) s t ∧ tgetD (t.mc k).units u .suspect = .healthy ∧ tgetD (t.mc k).counts u 0 = 0) ∧
    (others = false → ∃ t, Gives (.softPprComplete mc unit false) s t ∧ tgetD (t.mc k).units u .healthy = .erased ∧ u ∉ (t.mc k).rows)) ∧
  (tget s.mem.moved pc.toNat = some q.toNat → pairAt s (pc.toNat % 8) (pc.toNat / 8) q.toNat = some p → tgetD (s.mc (pc.toNat % 8)).groups (pc.toNat / 8) .inService = .retiring →
    (entryOf s (2 * p)).txn = none → (entryOf s (2 * p + 1)).txn = none → clean p →
    ∃ t, Gives (.pseudoChannelMove pc q) s t ∧ tget t.mem.moved pc.toNat = some (q.toNat + 1) ∧ memLine t (2 * p) = memLine s (2 * p) ∧ memLine t (2 * p + 1) = memLine s (2 * p + 1) ∧
      (q.toNat + 1 = 7340032 → tgetD (t.mc (pc.toNat % 8)).groups (pc.toNat / 8) .inService = .retired)) ∧
  (s.mg.mode = .selftest → s.mg.trans = none → s.mg.start.bist = true → s.mg.start.memDone = false → s.mg.start.pendWarm = false → (∀ k, (s.tile k).dead = false) →
    ∃ t, Gives .memoryInitComplete s t ∧ t.mem.words = [] ∧ t.mem.errs = [] ∧ t.mem.lost = [] ∧ t.mg.start.memDone = true)

/-- Writes of GC, sequencer and channel registers, appends and healing writes performed in the L1D. A write of its world's
GC register that is permitted enters the field written (ctl, est, mark, lo, hi), keeps the values before it for agents
that lag, and every agent lags until GC_WRITE_PERFORMED. TSL_CTL.go starts an idle Teasel or Cowslip program at its
entry; halt makes a running one idle, or marks it when its LD is outstanding; TSL_EVENTS ORs event bits. VL_HEAD
starts a channel that does not run at its descriptor; VL_DOORBELL sets recheck of a running channel; VL_ABORT halts
one between bursts with ABORT; VL_QEVENTS ORs event bits. The first append of a core whose line it holds in M or E
goes into the line; the first healing write that goes near replaces the word if it still is the word seen. (R257,
R258, R262, R268, R271, R370, R371, R381, R383, R397.) -/
def Obligations.BarrierAndEngineRegisters : Prop :=
  ∀ (s : State) (w : World) (off : BitVec 12) (v : BitVec 64) (k : BitVec 7) (ch : BitVec 6) (ev : BitVec 16) (core : BitVec 8) (a : PStore) (as : List PStore) (h : Heal) (hs : List Heal) (l : L1Line),
  let o := off.toNat / 8 * 8
  let lpa := tileBase 0 + (if w = .sys then 0x880000 else 0x881000) + o
  let g := (s.world w).gc
  let q := s.sq k.toNat
  let c := s.chan ch.toNat
  let n := core.toNat
  (MayWrite s w lpa v → ∃ t, Gives (.gcRegisterWrite (.world w) w off v) s t ∧ t.gcLag = gcAgents s ∧ (t.world w).gcOld = g ∧ (∀ x, x ≠ w → (t.world x).gc = (s.world x).gc) ∧
    (t.world w).gc = (if o = 0x00 then { g with ctl := v.setWidth 7 } else if o = 0x08 then { g with est := v.setWidth 43, estV := v.getLsbD 63 } else if o = 0x10 then { g with mark := v.setWidth 43 }
      else if o = 0x18 then { g with lo := v.setWidth 59 } else if o = 0x20 then { g with hi := v.setWidth 59 } else g)) ∧
  (∃ t, Gives .gcWritePerformed s t ∧ t.gcLag = [] ∧ t.gcBy = none ∧ t.ws = s.ws ∧ t.wj = s.wj) ∧
  (hasCtl k.toNat = true → (q.owner = w ∨ 96 ≤ k.toNat) →
    (MayWrite s w (seqBase k.toNat) (ctlKeep s k.toNat 0) → q.st ≠ .running → q.st ≠ .waiting → (k.toNat < 96 → (s.tile (k.toNat - 64)).dead = false) →
      ∃ t, Gives (.tslGo (.world w) k) s t ∧ (t.sq k.toNat).st = .running ∧ (t.sq k.toNat).pc = q.entry ∧ (t.sq k.toNat).marks = 0 ∧ (t.sq k.toNat).q = q.q ∧ (t.sq k.toNat).owner = q.owner) ∧
    (MayWrite s w (seqBase k.toNat) (ctlKeep s k.toNat 1) → (q.st = .running ∨ q.st = .waiting) →
      ∃ t, Gives (.tslHalt (.world w) k) s t ∧ (q.ld = none → (t.sq k.toNat).st = .idle) ∧ (q.ld ≠ none → (t.sq k.toNat).st = q.st ∧ (t.sq k.toNat).halt = true)) ∧
    (MayWrite s w (seqBase k.toNat + 0x18) (ev.setWidth 64) → q.waitM = none →
      Gives (.tslEventsWrite (.world w) k ev) s (s.setSq k.toNat { q with events := q.events ||| ev }).tick)) ∧
  (MayWrite s w (chanBase ch.toNat + 0x08) v → c.st ≠ .running →
    ∃ t, Gives (.vlHeadWrite (.world w) ch v) s t ∧ (t.chan ch.toNat).st = .running ∧ (t.chan ch.toNat).phase = .desc ∧ (t.chan ch.toNat).cur = v.setWidth 59 ∧ (t.chan ch.toNat).err = 0 ∧ (t.chan ch.toNat).doneCnt = c.doneCnt) ∧
  (MayWrite s w (chanBase ch.toNat + 0x08) v → c.st = .running → Gives (.vlHeadWrite (.world w) ch v) s s.tick) ∧
  (MayWrite s w (chanBase ch.toNat + 0x10) v → v.getLsbD 0 = true → c.st = .running → Gives (.vlDoorbellWrite (.world w) ch v) s (s.setChan ch.toNat { c with recheck := true }).tick) ∧
  (MayWrite s w (chanBase ch.toNat + 0x10) v → v.getLsbD 0 = true → c.st = .atEoc → ∃ t, Gives (.vlDoorbellWrite (.world w) ch v) s t ∧ (t.chan ch.toNat).st = .running ∧ (t.chan ch.toNat).phase = .link ∧ (t.chan ch.toNat).recheck = false) ∧
  (MayWrite s w (chanBase ch.toNat + 0x18) v → v.getLsbD 0 = true → c.st = .running → c.phase = .burst → c.errIrq = false →
    ∃ t, Gives (.vlAbortWrite (.world w) ch v) s t ∧ (t.chan ch.toNat).st = .halted ∧ (t.chan ch.toNat).err = 0x0A ∧ (t.chan ch.toNat).errAddr = c.cur ∧ (t.chan ch.toNat).doneCnt = c.doneCnt ∧ (t.sq ch.toNat).st = .idle) ∧
  (MayWrite s w (chanBase ch.toNat + 0x1A8) v → (s.sq ch.toNat).waitM = none →
    Gives (.vlQeventsWrite (.world w) ch v) s (s.setSq ch.toNat { s.sq ch.toNat with events := (s.sq ch.toNat).events ||| v.setWidth 16 }).tick) ∧
  ((s.core n).appends = a :: as → a.mt = 0 → a.card = none → a.sent = false → (s.core n).bypass = false → (s.core n).stores = [] → (s.core n).tagErr = [] → s.mem.armed = [] → tget (s.core n).l1d (a.key / 8) = some l → (l.st = .m ∨ l.st = .e) →
    ∃ t, Gives (.logAppend core) s t ∧ (t.core n).appends = as ∧ (t.core n).stores = [] ∧ tget (t.core n).l1d (a.key / 8) = some { l with st := .m, data := mergeLine l.data a.key a.word a.mask }) ∧
  ((s.core n).heals = h :: hs → h.sent = false → h.far = false → (s.core n).bypass = false → (s.core n).tagErr = [] → s.mem.armed = [] →
      (∀ p ∈ (s.core n).stores, p.who = h.who → p.key ≠ h.key) → tget (s.core n).l1d (h.key / 8) = some l → (l.st = .m ∨ l.st = .e) →
    ∃ t, Gives (.loadbarHealWrite core) s t ∧ (t.core n).heals = hs ∧
      tget (t.core n).l1d (h.key / 8) = some (if lineWord l.data h.key = h.old then { l with st := .m, data := mergeLine l.data h.key h.new 255 } else l))

/-- A Valley channel reads and checks a descriptor, is granted bursts, moves the words, counts the descriptor and follows
the link. With Valley on and no domain waiting to power down: a COPY or RAWCOPY descriptor that passes the checks puts
its fields into the channel and asks for a burst; a wrong field halts it with DESC and the number of the word. A grant
goes to a waiting channel of the highest priority (until the 64th in a row) and starts the burst; a FILL burst to
private memory writes the fill word at the position and moves the position on, one word read back as written when its
line is idle and owned by no L1. DESCRIPTOR_DONE counts and asks for the link. A link of EOC ends the chain without
recheck and otherwise reads again, RAW or a pointer leads to the next descriptor, another tag halts with LINK. SYNC.V
ends when the writes it waited for are performed, and the drain bound powers a domain down. (R364, R366, R367, R370,
R373, R374, R378, R379, R380, R382.) -/
def Obligations.ChannelsRun : Prop :=
  ∀ (s t : State) (ch : BitVec 6) (lcn : BitVec 16) (dom : BitVec 7) (w0 w1 w2 w : W) (key l b : Nat) (p : Pend),
  let k := ch.toNat
  let c := s.chan k
  let d := t.chan k
  let len := bitsN w0.payload 24 40
  let mine := s.ctx lcn.toNat
  let wrote := vlWrite 200 s key [w] none
  (InPhase s k .desc → c.cur.toNat % 32 = 0 → c.cur.getLsbD 58 = false → vlReads s k c.cur 3 = (.ok [w0, w1, w2], t) → t.mg.pdPend = [] →
    (descBad w0 w1 w2 = none → bitsN w0.payload 0 3 < 2 → (w1.payload.setWidth 59).toNat % 8 = 0 → (w2.payload.setWidth 59).toNat % 8 = 0 → len % 8 = 0 → 0 < len →
      Gives (.descriptorReadComplete ch) s (t.setChan k { d with w0 := w0.payload, src := w1.payload.setWidth 59, dst := w2.payload.setWidth 59, pos := 0, descNo := d.descNo + 1, want := [], got := [], phase := .burst }).tick) ∧
    (descBad w0 w1 w2 = some b → d.errIrq = false → ∃ u, Gives (.descriptorReadComplete ch) s u ∧ (u.chan k).st = .halted ∧ (u.chan k).err = 2 ∧ (u.chan k).errAddr = c.cur ∧ (u.chan k).errInfo = BitVec.ofNat 64 b)) ∧
  (valleyOn s = true → s.mg.pdPend = [] → grantTo s = some (k, false) →
    (s.grants < 64 → ∃ x ∈ candidates s, x.1 = k ∧ x.2.st = .running ∧ x.2.phase = .burst ∧ ∀ y ∈ candidates s, y.2.prio.toNat ≤ x.2.prio.toNat) ∧
    (vlOp c = 2 → s.grants < 64 → Gives .burstGrant s
      ({ s with grants := s.grants + 1, grantPtr := (k + 1) % 64, seq := s.seq + 1 }.setChan k { c with phase := .granted, lastGrant := s.seq + 1, want := [], got := [] }).tick)) ∧
  (InPhase s k .granted → c.want = [] → vlOp c = 2 → (c.dst + BitVec.ofNat 59 c.pos).getLsbD 58 = false → c.w0.getLsbD 5 = false → vlXlate s k 1 (c.dst + BitVec.ofNat 59 c.pos) = (.ok l, t) →
    let u := vlWrite 200 t (l / 8) (List.replicate (burstWords c) c.fill) none
    (u.chan k).abort = false → u.mg.pdPend = [] →
    Gives (.burstSourceReadComplete ch) s (u.setChan k { u.chan k with pos := (u.chan k).pos + 8 * burstWords c, got := [], phase := if vlLen (u.chan k) ≤ (u.chan k).pos + 8 * burstWords c then .done else .burst }).tick) ∧
  (deadHome s (key / 8) = false → lineBusy s (key / 8) = false → ownerData s.cores (key / 8) = none → s.mem.errs = [] → s.mem.armed = [] → (curLine s (key / 8)).length = 8 → curWord wrote key = w) ∧
  (InPhase s k .done → vlOrdered c = false → c.drainFor = none → c.w0.getLsbD 3 = false → s.mg.pdPend = [] →
    ∃ u, Gives (.descriptorDone ch) s u ∧ (u.chan k).doneCnt = c.doneCnt + 1 ∧ (u.chan k).phase = .link ∧ (u.chan k).recheck = false ∧ (u.chan k).st = .running) ∧
  (InPhase s k .link → c.held = false → c.link0 = none → vlRead s k (c.cur + 24) = (.ok w, t) → t.mg.pdPend = [] → d.cur = c.cur →
    (w.tag = 0x00F → d.recheck = false → Gives (.linkReadComplete ch) s (t.setChan k { d with tail := c.cur + 24, st := .atEoc, phase := .none, link0 := none }).tick) ∧
    ((w.tag = 0x006 ∨ isPtr w = true) → Gives (.linkReadComplete ch) s (t.setChan k { d with cur := w.payload.setWidth 59, phase := .desc, pos := 0, linkTag := w.tag, link0 := none }).tick) ∧
    (w.tag ≠ 0x00F → w.tag ≠ 0x006 → isPtr w = false → ∃ u, Gives (.linkReadComplete ch) s u ∧ (u.chan k).st = .halted ∧ (u.chan k).err = 3)) ∧
  (mine.pend = some p → p.why = .syncV → (∀ e ∈ p.words, e.1 ∉ valleyWrites s) → mine.dir.state = .waitMem → lcn.toNat < 40960 →
    ∃ u, Gives (.syncVComplete lcn) s u ∧ (u.ctx lcn.toNat).pend = none ∧ (u.ctx lcn.toNat).r.pc = mine.r.pc + 4 ∧ (u.ctx lcn.toNat).dir.state = .ready) ∧
  (dom.toNat ≠ 73 → dom.toNat ∈ s.mg.pdPend → (∀ x ∈ s.chans, x.2.drainFor = none) → ∃ u, Gives (.domainDrainTimeout dom) s u ∧ tgetD u.mg.pd dom.toNat .on = .off ∧ dom.toNat ∉ u.mg.pdPend)

/-- The Reed ALU and immediate instructions: the result and its tag in qd, the flags of CMP, EQ and CMPI, and the operand
faults. For a sequencer at an instruction boundary whose word at pc is the instruction's (written out from its
fields), on integer operands: ADD, SUB, AND, OR, XOR write the result, FIXNUM when both operands are and else RAW; SHL
and SHR shift by the low 6 bits and keep the tag; CMP sets z, n, b by equality, signed and unsigned order; EQ sets z
for identical words and clears n and b; MOV, TAGOF, SETTAG and VA write the word, its tag as a FIXNUM, the retagged
word and its address form as RAW. MOVI, ADDI and CMPI take the immediate, which a PFX extends by 10 bits. The pc goes
on by one word and nothing else changes. An operand that is no integer is fault 5 of the program. (R386, R389, R391,
R395, R403.) -/
def Obligations.ReedArithmetic : Prop :=
  ∀ (s : State) (k : BitVec 7) (qd qs : BitVec 3) (imm : BitVec 7) (r : W) (va : BitVec 59),
  let n := k.toNat
  let q := s.sq n
  let a := q.qv qd
  let b := q.qv qs
  let set := fun (w : W) => { q with q := tset q.q qd.toNat w }
  let alu := fun (f : BitVec 4) => ((0#4 ++ qd ++ qs ++ f : BitVec 14))
  let word := fun (c : BitVec 4) => ((c ++ qd ++ imm : BitVec 14))
  let v := immOf q imm
  let flags := fun (x y : BitVec 64) => { q with z := decide (x = y), n := decide (x.toInt < y.toInt), b := decide (x.toNat < y.toNat) }
  (q.pfx = none →
    (∀ p ∈ ([(Instr.reedAdd, 1, fun x y => x + y), (Instr.reedSub, 2, fun x y => x - y), (Instr.reedAnd, 3, fun x y => x &&& y), (Instr.reedOr, 4, fun x y => x ||| y),
        (Instr.reedXor, 5, fun x y => x ^^^ y)] : List ((BitVec 7 → BitVec 3 → BitVec 3 → Instr) × BitVec 4 × (BitVec 64 → BitVec 64 → BitVec 64))),
      Fetches s n (alu p.2.1) → (IsInt a ∧ IsInt b → Gives (p.1 k qd qs) s (nextWord s n (set ⟨tag2 a b, p.2.2 a.payload b.payload⟩))) ∧
        (¬ (IsInt a ∧ IsInt b) → Gives (p.1 k qd qs) s (reedFault s n { code := 5 }).tick)) ∧
    (IsInt a → IsInt b →
      (Fetches s n (alu 6) → Gives (.reedShl k qd qs) s (nextWord s n (set ⟨a.tag, a.payload <<< (b.payload.toNat % 64)⟩))) ∧
      (Fetches s n (alu 7) → Gives (.reedShr k qd qs) s (nextWord s n (set ⟨a.tag, a.payload >>> (b.payload.toNat % 64)⟩))) ∧
      (Fetches s n (alu 8) → Gives (.reedCmp k qd qs) s (nextWord s n (flags a.payload b.payload)))) ∧
    (Fetches s n (alu 0) → Gives (.reedMov k qd qs) s (nextWord s n (set b))) ∧
    (Fetches s n (alu 9) → Gives (.reedEq k qd qs) s (nextWord s n { q with z := identical a b, n := false, b := false })) ∧
    (Fetches s n (alu 10) → Gives (.reedTagof k qd qs) s (nextWord s n (set ⟨0x001, b.tag.setWidth 64⟩))) ∧
    (Fetches s n (alu 11) → IsInt b → retag a (b.payload.setWidth 10) = .ok r → Gives (.reedSettag k qd qs) s (nextWord s n (set r))) ∧
    (Fetches s n (alu 12) → addrForm b = some va → Gives (.reedVa k qd qs) s (nextWord s n (set ⟨0x006, va.setWidth 64⟩)))) ∧
  (Fetches s n (word 1) → Gives (.reedMovi k qd imm) s (nextWord s n (set ⟨0x001, v⟩))) ∧
  (IsInt a → Fetches s n (word 2) → Gives (.reedAddi k qd imm) s (nextWord s n (set ⟨a.tag, a.payload + v⟩))) ∧
  (IsInt a → Fetches s n (word 13) → Gives (.reedCmpi k qd imm) s (nextWord s n (flags a.payload v))) ∧
  (64 ≤ n → n < 96 → q.irqEn = false → reedFault s n { code := 5 } = s.setSq n { q with st := .faulted, fault := 5, done := true, faddr := 0, pfx := none, ld := none, waitM := none, halt := false })

/-- The Reed address instructions, LD with its answer, and ST. For a sequencer at an instruction boundary with the
instruction's word at pc: MVAQ takes the address form of a q register, MVQA delivers an address as RAW, ADDA and ADDAQ
add 8 times the immediate or an integer, MVCQ takes the low 32 bits of an integer as the count, MVQC delivers the
count as a FIXNUM, MVAA copies an address register. LD of an aligned private address starts a read at an + 8 times the
offset; its answer writes the word to q, advances an by 8 when p is set, and goes on. LD from the MARK port writes its
number at once. ST of an aligned private address stores the word and advances an by 8 when p is set. A misaligned
address is fault 6. (R273, R375, R390, R391, R392, R393, R394, R395.) -/
def Obligations.ReedAddressesAndMemory : Prop :=
  ∀ (s t : State) (k : BitVec 7) (an am : BitVec 2) (r : BitVec 3) (i5 : BitVec 5) (p : Bool) (off : BitVec 4) (va : BitVec 59) (l : Nat) (x : SeqLd) (w : W),
  let n := k.toNat
  let q := s.sq n
  let b := q.qv r
  let aop := fun (sub : BitVec 3) (y : BitVec 5) => ((3#4 ++ an ++ sub ++ y : BitVec 14))
  let setA := fun (v : BitVec 59) => { q with a := tset q.a an.toNat v }
  let at_ := q.av an + BitVec.ofNat 59 (8 * (match q.pfx with | some e => (e ++ off).toNat | none => off.toNat))
  let mem := fun (c : BitVec 4) => ((c ++ r ++ an ++ BitVec.ofBool p ++ off : BitVec 14))
  let r5 : BitVec 5 := r.setWidth 5
  (q.pfx = none →
    (Fetches s n (aop 0 r5) → addrForm b = some va → Gives (.reedMvaq k an r) s (nextWord s n (setA va))) ∧
    (Fetches s n (aop 1 r5) → Gives (.reedMvqa k an r) s (nextWord s n { q with q := tset q.q r.toNat ⟨0x006, (q.av an).setWidth 64⟩ })) ∧
    (Fetches s n (aop 3 r5) → IsInt b → Gives (.reedAddaq k an r) s (nextWord s n (setA (q.av an + 8 * b.payload.setWidth 59)))) ∧
    (Fetches s n ((3#4 ++ 0#2 ++ 4#3 ++ r5 : BitVec 14)) → IsInt b → Gives (.reedMvcq k r) s (nextWord s n { q with c := b.payload.setWidth 32 })) ∧
    (Fetches s n ((3#4 ++ 0#2 ++ 5#3 ++ r5 : BitVec 14)) → Gives (.reedMvqc k r) s (nextWord s n { q with q := tset q.q r.toNat ⟨0x001, q.c.setWidth 64⟩ })) ∧
    (Fetches s n (aop 6 (am.setWidth 5)) → Gives (.reedMvaa k an am) s (nextWord s n (setA (q.av am))))) ∧
  (Fetches s n (aop 2 i5) → Gives (.reedAdda k an i5) s (nextWord s n (setA (q.av an + 8 * (immOf q i5).setWidth 59)))) ∧
  (Fetches s n (mem 4) → at_.toNat % 8 = 0 → isPort at_ = false → at_.getLsbD 58 = false → seqXlate s n 0 at_ = (.ok l, t) →
    Gives (.reedLd k r an p off) s (t.setSq n { q with ld := some ⟨r, an, p, at_, some l, none, none⟩ }).tick) ∧
  (Fetches s n (mem 4) → 64 ≤ n → n < 96 → at_ = 0x200000000000000 →
    Gives (.reedLd k r an p off) s (nextWord s n { (if p then setA (q.av an + 8) else q) with q := tset q.q r.toNat ⟨0x001, q.mark.setWidth 64⟩ })) ∧
  (q.ld = some x → x.lpa = some l → seqPowered s n = true → ficRuns s.mg.mode = true → agentRead s (l / 8) = (w, t) → t.sq n = q → q.halt = false → (t.chan n).abort = false →
    Gives (.reedLoadAnswer k) s (t.setSq n { q with a := (if x.post then tset q.a x.an.toNat (q.av x.an + 8) else q.a), q := tset q.q x.q.toNat w, pc := BitVec.ofNat 12 (q.at_ + 1), pfx := none, ld := none }).tick) ∧
  (Fetches s n (mem 5) → at_.toNat % 8 = 0 → isPort at_ = false → at_.getLsbD 58 = false → seqXlate s n 1 at_ = (.ok l, t) →
    let u := agentWrite t (l / 8) b 255
    u.sq n = q → Gives (.reedSt k r an p off) s (nextWord u n (if p then setA (q.av an + 8) else q))) ∧
  (at_.toNat % 8 ≠ 0 → (Fetches s n (mem 4) → Gives (.reedLd k r an p off) s (reedFault s n { code := 6, addr := at_ }).tick) ∧
    (Fetches s n (mem 5) → Gives (.reedSt k r an p off) s (reedFault s n { code := 6, addr := at_ }).tick))

/-- The Reed tests, branches, calls, prefix, waits, signals and END, an illegal word, and a late store fault. For a
sequencer at an instruction boundary with the instruction's word at pc: TT sets t by the class or the tag; BR, LOOP
and JCZ go to the word's address plus the offset when the condition holds, when the decremented count is not 0, when
it is 0, and else to the next word; CALL goes there and pushes the next address on a stack of 8, RET pops it; PFX is
kept for the next instruction; WAITE clears matching events and delivers them, or waits; SIGNAL of an owned channel
rings it, of a sequencer or context sets its event bit; END ends the program, a Valley descriptor being done. A target
outside the program memory is fault 3, a full or empty stack fault 4, a word without meaning fault 2. A late store
fault halts its channel with REMOTE. (R386, R388, R395, R396, R397, R398, R400, R403, R404.) -/
def Obligations.ReedControlFlow : Prop :=
  ∀ (s : State) (k : BitVec 7) (r cond : BitVec 3) (cls : BitVec 5) (o7 : BitVec 7) (o9 : BitVec 9) (ext : BitVec 10) (m : Bool) (e : BitVec 4) (a : BitVec 12) (as : List (BitVec 12)) (addr : BitVec 59) (info : BitVec 64) (bad : BitVec 14),
  let n := k.toNat
  let q := s.sq n
  let w := q.qv r
  let t7 : Int := q.at_ + (immOf q o7).toInt
  let t9 : Int := q.at_ + (immOf q o9).toInt
  let on := fun (t : Int) => 0 ≤ t ∧ t ≤ 4095
  let c1 := if q.c = 0 then 0 else q.c - 1
  let mask : BitVec 16 := if m then w.payload.setWidth 16 else 1 <<< e.toNat
  let hit := q.events &&& mask
  let target := bitsN w.payload 2 7
  let ev : BitVec 16 := 1 <<< bitsN w.payload 9 4
  (q.pfx = none → cls.toNat < 30 → Fetches s n ((6#4 ++ r ++ 0#2 ++ cls : BitVec 14)) → Gives (.reedTt k r 0 cls) s (nextWord s n { q with t := inClass cls.toNat w.tag })) ∧
  (Fetches s n ((6#4 ++ r ++ 1#2 ++ cls : BitVec 14)) → (match q.pfx with | some x => (x ++ cls).toNat | none => cls.toNat) ≤ 0x3FF →
    Gives (.reedTt k r 1 cls) s (nextWord s n { q with t := decide (w.tag.toNat = (match q.pfx with | some x => (x ++ cls).toNat | none => cls.toNat)) })) ∧
  (Fetches s n ((7#4 ++ cond ++ o7 : BitVec 14)) → (q.cond cond.toNat = true → (on t7 → Gives (.reedBr k cond o7) s (atWord s n q (BitVec.ofInt 12 t7))) ∧ (¬ on t7 → Gives (.reedBr k cond o7) s (reedFault s n { code := 3 }).tick)) ∧
    (q.cond cond.toNat = false → Gives (.reedBr k cond o7) s (nextWord s n q))) ∧
  (Fetches s n ((8#4 ++ 0#1 ++ o9 : BitVec 14)) → (c1 ≠ 0 → on t9 → Gives (.reedLoop k o9) s (atWord s n { q with c := c1 } (BitVec.ofInt 12 t9))) ∧ (c1 = 0 → Gives (.reedLoop k o9) s (nextWord s n { q with c := 0 }))) ∧
  (Fetches s n ((8#4 ++ 1#1 ++ o9 : BitVec 14)) → (q.c = 0 → on t9 → Gives (.reedJcz k o9) s (atWord s n q (BitVec.ofInt 12 t9))) ∧ (q.c ≠ 0 → Gives (.reedJcz k o9) s (nextWord s n q))) ∧
  (Fetches s n ((11#4 ++ 0#1 ++ o9 : BitVec 14)) → (on t9 → q.stack.length < 8 → Gives (.reedCall k o9) s (atWord s n { q with stack := BitVec.ofNat 12 (q.at_ + 1) :: q.stack } (BitVec.ofInt 12 t9))) ∧
    (on t9 → 8 ≤ q.stack.length → Gives (.reedCall k o9) s (reedFault s n { code := 4 }).tick)) ∧
  (q.pfx = none → Fetches s n ((11#4 ++ 1#1 ++ 0#9 : BitVec 14)) → (q.stack = a :: as → Gives (.reedRet k) s (atWord s n { q with stack := as } a)) ∧ (q.stack = [] → Gives (.reedRet k) s (reedFault s n { code := 4 }).tick)) ∧
  (q.pfx = none → Fetches s n ((12#4 ++ ext : BitVec 14)) → Gives (.reedPfx k ext) s (s.setSq n { q with pfx := some ext }).tick) ∧
  (q.pfx = none → Fetches s n ((9#4 ++ BitVec.ofBool m ++ 0#2 ++ r ++ e : BitVec 14)) → (m = true → IsInt w) →
    (hit ≠ 0 → Gives (.reedWaite k m r e) s (nextWord s n (let x := { q with events := q.events &&& ~~~hit }
      if m then { x with q := tset x.q r.toNat ⟨0x001, hit.setWidth 64⟩ } else x))) ∧
    (hit = 0 → Gives (.reedWaite k m r e) s (s.setSq n { q with st := .waiting, waitM := some (mask, if m then some r else none) }).tick)) ∧
  (q.pfx = none → Fetches s n ((10#4 ++ r ++ 0#7 : BitVec 14)) → IsInt w → storesOutOf s n = 0 → bitsN w.payload 29 35 = 0 →
    (bitsN w.payload 0 2 = 0 → target < 64 → (s.chan target).owner = seqWorld s n → (s.chan target).st = .running →
      Gives (.reedSignal k r) s (nextWord (s.setChan target { s.chan target with recheck := true }) n q)) ∧
    (bitsN w.payload 0 2 = 1 → target < 100 → seqHost target = seqHost n → seqWorld s target = seqWorld s n → target ≠ n → (s.sq target).waitM = none →
      ∃ t, Gives (.reedSignal k r) s t ∧ (t.sq target).events = (s.sq target).events ||| ev ∧ (t.sq n).pc = BitVec.ofNat 12 (q.at_ + 1)) ∧
    (bitsN w.payload 0 2 = 2 → bitsN w.payload 13 16 < 40960 → Gives (.reedSignal k r) s (nextWord (ringBits s (bitsN w.payload 13 16) ev) n q)) ∧
    (bitsN w.payload 0 2 = 3 → Gives (.reedSignal k r) s (reedFault s n { code := 10 }).tick)) ∧
  (q.pfx = none → Fetches s n ((15#4 ++ 0#10 : BitVec 14)) →
    (n < 64 → ∃ t, Gives (.reedEnd k) s t ∧ (t.sq n).st = .ended ∧ (t.chan n).phase = .done) ∧
    (64 ≤ n → q.irqEn = false → Gives (.reedEnd k) s (s.setSq n { q with st := .ended, done := true, pc := BitVec.ofNat 12 (q.at_ + 1) }).tick)) ∧
  (q.pfx = none → reedLegal bad = false → reedReady s n = true → q.progBad.contains q.at_ = false → tgetD q.prog q.at_ 0 = bad → Gives (.reedIllegal k bad) s (reedFault s n { code := 2 }).tick) ∧
  (q.lateFault = some (addr, info) → q.ld = none → (s.chan n).errIrq = false →
    ∃ t, Gives (.reedLateStoreFault k addr info) s t ∧ (t.chan n).st = .halted ∧ (t.chan n).err = 7 ∧ (t.chan n).errAddr = addr ∧ (t.chan n).errInfo = info)

/-- CW_GGO starts an operation; up and down messages, waves and timeouts carry it to DONE or ERROR; QSENT and QRECV add. A
permitted write of 1 to CW_GGO of an enabled group with a good configuration: a BARRIER of a root without children is
DONE at once with the sequence number increased; a leaf whose parent link carries traffic is UP and has sent its up
message; a group in progress counts a lost go; a group not enabled stays. CW_QSENT and CW_QRECV add. In SERVICE on an
UP port, a child's up message of the current operation is kept until the device's contribution is ready; the parent's
down message without error completes a BARRIER and goes to every child, with an error puts the group in ERROR with
that code; a message on a wrong port changes no group. At the end of q_period the root starts the next wave. A group
UP or DOWN for coll_timeout is in ERROR with code 6. (R352, R353, R355, R357, R358, R359, R360, R362.) -/
def Obligations.CollectiveOperations : Prop :=
  ∀ (s : State) (w : World) (grp : BitVec 6) (port : BitVec 4) (m : CollMsg) (v : BitVec 64) (a : BitVec 64 × BitVec 64),
  let n := grp.toNat
  let g := s.group n
  let go := MayWrite s w (groupBase n + 0x20) 1
  let quiet := g.dbEn = false ∧ g.irqEn = false
  let arrives := s.mg.mode = .service ∧ (s.port port.toNat).st = .up ∧ (s.port port.toNat).fence = false ∧ m.group = grp ∧ g.en = true
  let down := fun (b : CollMsg) => (childPorts g).map fun p => note s 0 .sys 3 (.coll (BitVec.ofNat 4 p) b)
  (go → g.en = true → g.st.busy = false → g.kind = 0 → g.children = 0 → g.early = [] → quiet →
    (g.root = true → ∃ t, Gives (.cwGgoWrite (.world w) grp) s t ∧ (t.group n).st = .done ∧ (t.group n).seq = g.seq + 1 ∧ (t.group n).err = 0 ∧ t.remote.sent = s.remote.sent) ∧
    (g.root = false → usable s g.parent.toNat = true → ∃ t, Gives (.cwGgoWrite (.world w) grp) s t ∧ (t.group n).st = .up ∧ (t.group n).seq = g.seq + 1 ∧ (t.group n).upSent = true ∧
      sentSince s t [note s 0 .sys 3 (.coll g.parent ⟨grp, false, false, false, g.seq + 1, 0, 0, shapeOf g, []⟩)])) ∧
  (go → g.st.busy = true → g.lostGo < 255 → Gives (.cwGgoWrite (.world w) grp) s (s.setGroup n { g with lostGo := g.lostGo + 1 }).tick) ∧
  (go → g.st.busy = false → g.en = false → Gives (.cwGgoWrite (.world w) grp) s s.tick) ∧
  (MayWrite s w (groupBase n + 0x30) v → Gives (.cwQsentAdd (.world w) grp v) s (s.setGroup n { g with sent := g.sent + v }).tick) ∧
  (MayWrite s w (groupBase n + 0x38) v → Gives (.cwQrecvAdd (.world w) grp v) s (s.setGroup n { g with recv := g.recv + v }).tick) ∧
  (arrives → m.down = false → g.children.getLsbD port.toNat = true → m.shape = shapeOf g → m.seq = g.seq → m.err = 0 → (g.st = .armed ∨ g.st = .up) → g.upSent = false → g.ready = false →
    tget g.ups port.toNat = none → (∀ e ∈ g.ups, e.2.err = 0) →
    Gives (.coll port m) s (s.setGroup n { g with ups := tset g.ups port.toNat m, ovf := g.ovf || m.ovf }).tick) ∧
  (arrives → m.down = true → g.root = false → port = g.parent → m.shape = shapeOf g → m.seq = g.seq → g.st.busy = true → g.turned = false → quiet →
    (m.err = 0 → g.kind = 0 → ∃ t, Gives (.coll port m) s t ∧ (t.group n).st = .done ∧ (t.group n).seq = g.seq ∧ sentSince s t (down m)) ∧
    (m.err ≠ 0 → ∃ t, Gives (.coll port m) s t ∧ (t.group n).st = .error ∧ (t.group n).err = m.err ∧ (t.group n).errDev = m.errDev ∧ sentSince s t (down m))) ∧
  (arrives → ((m.down = true ∧ (g.root = true ∨ port ≠ g.parent)) ∨ (m.down = false ∧ g.children.getLsbD port.toNat = false)) → Gives (.coll port m) s (collDrop s).tick ∧ (collDrop s).groups = s.groups) ∧
  (g.wave = some a → g.st = .down → g.root = true → ∃ t, Gives (.qPeriodExpiry grp) s t ∧ (t.group n).st = .up ∧ (t.group n).ups = [] ∧ (t.group n).ready = false ∧
    sentSince s t (down ⟨grp, true, false, g.ovf, g.seq, 0, 0, shapeOf g, [⟨0x001, a.1⟩, ⟨0x001, a.2⟩]⟩)) ∧
  ((g.st = .up ∨ g.st = .down) → quiet → ∃ t, Gives (.collTimeout grp) s t ∧ (t.group n).st = .error ∧ (t.group n).err = 6 ∧ (t.group n).errDev = devNo s) ∧
  (g.st ≠ .up → g.st ≠ .down → Gives (.collTimeout grp) s s.tick)

/-- Requests at their home device, their answers at the requester, late answers and remote_timeout. In a mode that
performs requests, a message for this device: RLOAD answers RDATA with the word (RPAIR with the sixteen words, read at
their home, of a read-only-shared page that could be tracked, which then is), RSTORE answers RACK, RATOM answers RDATA
with the old word, each answers RFAULT with the home's fault; DOORBELL of a current record rings its bits and is
acknowledged; INV removes the page's replicas and answers INVACK. At the requester an answer whose tag names an
operation gives the word or acknowledgement to the context that waits, counts the store down, or becomes its
REMOTE_FAULT (a posted store: the store-fault latch), and frees the slot; another one changes only the count of late
answers. INVACK ends one acknowledgement of its TLBI; MOVED enters a notice; remote_timeout faults with 0x41. Messages
for another device change nothing here. (R298, R300, R301, R302, R303, R304, R306, R307, R320, R344, R345, R439.) -/
def Obligations.RemoteOperations : Prop :=
  ∀ (s t : State) (h : Hdr) (va : BitVec 59) (w old rt rd : W) (size : BitVec 2) (acq : Bool) (mask : BitVec 8) (op : BitVec 3) (ord : BitVec 2) (l : Leaf) (f : HF) (n : BitVec 16) (o : OutOp) (p : Pend)
    (lcn gen ev origin : BitVec 16) (hops : BitVec 3) (page : BitVec 47) (ws : List W) (oi ni : BitVec 32) (og ng : BitVec 16),
  let back := fun (u : State) (b : Body) => (sendMsg u ⟨⟨h.src, devNo u, h.lcn, h.world, h.sup, h.slot, h.gen⟩, 1, b⟩).tick
  let fault := back t (.rfault f.cause f.sub f.lvl f.acc)
  let shared := pteG l.pte && (!l.pte.getLsbD 4 && decide (0 < dval t 0x3210 0x04))
  let c := s.ctx n.toNat
  (Here s h →
    (homeLoad s h.src h.world h.sup va = (.ok (w, l), t) → shared = false → Gives (.rload h va size acq) s (back t (.rdata w false))) ∧
    (homeLoad s h.src h.world h.sup va = (.ok (w, l), t) → shared = true → t.remote.tracker = [] →
      let key := l.lpa va / 8
      let v := readBoth { t with remote := { t.remote with tracker := [(h.world, bitsN va 12 47, [h.src], false)] } } key
      Gives (.rload h va size acq) s (back v (.rpair (pairWords v key)))) ∧
    (homeLoad s h.src h.world h.sup va = (.error f, t) → Gives (.rload h va size acq) s fault) ∧
    (homeStore s h.src h.world h.sup va w size.toNat mask = (.ok (), t) → Gives (.rstore h va w size mask) s (back t .rack)) ∧
    (homeStore s h.src h.world h.sup va w size.toNat mask = (.error f, t) → Gives (.rstore h va w size mask) s fault) ∧
    (homeAtom s h.src h.world h.sup va op.toNat rt rd = (.ok old, t) → Gives (.ratom h va rt rd op ord) s (back t (.rdata old true))) ∧
    (homeAtom s h.src h.world h.sup va op.toNat rt rd = (.error f, t) → Gives (.ratom h va rt rd op ord) s fault) ∧
    (noBells (modeAt s (tileOf (coreOf lcn.toNat))) = false → lcn.toNat < 40960 → (s.ctx lcn.toNat).dir.state ≠ .stub → (s.ctx lcn.toNat).dir.gen = gen → Gives (.doorbell h lcn gen ev origin hops) s (back (ringBits s lcn.toNat ev) .rack)) ∧
    (noBells (modeAt s (tileOf (coreOf lcn.toNat))) = false → lcn.toNat < 40960 → (s.ctx lcn.toNat).dir.state ≠ .stub → (s.ctx lcn.toNat).dir.gen ≠ gen → Gives (.doorbell h lcn gen ev origin hops) s (back (discardRing s) .rack)) ∧
    (∃ u, Gives (.inv h page) s u ∧ (∃ m, sentSince s u [m] ∧ m.body = .invack) ∧ ∀ j, ∀ r ∈ (u.tile j).reps, r ∈ (s.tile j).reps ∧ (j = replicaTile (page.toNat * 4096) → r.world ≠ h.world ∨ r.pair / 32 ≠ page.toNat))) ∧
  (Answers s h o → o.owner = .exec (.ctx n) → s.host.barQ = [] →
    (o.posted = false → WaitsFor s n.toNat h.slot.toNat p → (∀ m, (s.ctx m).dir.wait ≠ 3) →
      (∃ u q, Gives (.rdata h w false) s u ∧ SlotFreed s u h ∧ (u.ctx n.toNat).pend = some q ∧ q.ready = true ∧ tget q.words 0 = some w) ∧
      (c.dir.wait ≠ 2 → ∃ u, Gives (.rdata h w true) s u ∧ SlotFreed s u h ∧ (u.ctx n.toNat).dir.storesOut = c.dir.storesOut - 1) ∧
      (ws.length = 16 → ∃ u q, Gives (.rpair h ws) s u ∧ SlotFreed s u h ∧ (u.ctx n.toNat).pend = some q ∧ q.ready = true ∧ tget q.words 0 = some (ws.getD (o.addr.toNat / 8 % 16) nilW)) ∧
      (o.acc ≠ 3 → ∃ u q, Gives (.rfault h f.cause f.sub f.lvl f.acc) s u ∧ SlotFreed s u h ∧ (u.ctx n.toNat).exn = some { cause := 0x0F, addr := o.addr, info := BitVec.ofNat 64 (remoteInfo f o.dev) } ∧
        (u.ctx n.toNat).pend = some q ∧ q.ready = true) ∧
      (o.acc ≠ 3 → ∃ u, Gives (.remoteTimeout h.slot h.gen) s u ∧ SlotFreed s u h ∧
        (u.ctx n.toNat).exn = some { cause := 0x0F, addr := o.addr, info := BitVec.ofNat 64 (remoteInfo ⟨0x41, 0, if o.level then 1 else 0, o.acc⟩ o.dev) })) ∧
    (o.posted = true → c.dir.wait ≠ 2 → (∀ m, (s.ctx m).dir.wait ≠ 3) → ∃ u, Gives (.rack h) s u ∧ SlotFreed s u h ∧ (u.ctx n.toNat).dir.storesOut = c.dir.storesOut - 1) ∧
    (o.posted = true → c.dir.wait ≠ 2 → (∀ m, (s.ctx m).dir.wait ≠ 3) → c.dir.dying = false → c.sfault = none → c.dir.state ≠ .migrating →
      ∃ u, Gives (.rfault h f.cause f.sub f.lvl f.acc) s u ∧ SlotFreed s u h ∧ (u.ctx n.toNat).sfault = some ⟨o.addr, f.cause, f.sub, f.lvl, f.acc, o.dev⟩ ∧ (u.ctx n.toNat).dir.storesOut = c.dir.storesOut - 1)) ∧
  (h.dest = devNo s → findOp s h = none →
    Gives (.rdata h w acq) s (countUp s 0x1800 0x24 1).tick ∧ Gives (.rpair h ws) s (countUp s 0x1800 0x24 1).tick ∧ Gives (.rack h) s (countUp s 0x1800 0x24 1).tick ∧
    Gives (.rfault h f.cause f.sub f.lvl f.acc) s (countUp s 0x1800 0x24 1).tick) ∧
  (h.dest = devNo s → ∃ u, Gives (.invack h) s u ∧ u.tlbis.length = s.tlbis.length ∧ ∀ x ∈ u.tlbis, x.id % 65536 = h.slot.toNat → (h.src.toNat, h.gen.toNat) ∉ x.acks) ∧
  (h.dest = devNo s → ((s.world h.world).prod - (s.world h.world).cons).toNat ≠ 64 →
    ∃ u, Gives (.moved h oi og ni ng) s u ∧ (u.world h.world).prod = (s.world h.world).prod + 1 ∧ tget (u.world h.world).ring ((s.world h.world).prod.toNat % 64) = some (og ++ oi, ng ++ ni)) ∧
  (h.dest ≠ devNo s → Gives (.rload h va size acq) s s.tick ∧ Gives (.rdata h w acq) s s.tick ∧ Gives (.rack h) s s.tick ∧ Gives (.inv h page) s s.tick)

/-- The packet leaves with its events, admission answers, ACCEPT makes a STUB and a refusal READY, queries and timeouts,
DB_REMOTE. A MIGRATING context with its stores and appends performed sends its packet once, and its event bits go with
it. A packet that is admitted makes the lowest free pool record of the chosen core READY, with the packet's pc, owner,
priority, event bits and the record's generation, and answers ACCEPT with the new name; a refused one answers the
reason. MIGANS ACCEPT makes the source record a STUB that names the new one, another outcome makes it READY; without
such a context nothing happens. MIGQ answers the recorded outcome or UNKNOWN. After 1 ms MIGQ is sent, after 10 ms a
fault record is made. A stub whose time is over is FREE with the next generation. DB_REMOTE of this device's record
acts as its doorbell, of another device's sends DOORBELL and counts a store out. (R313, R314, R315, R316, R317, R318,
R319, R345.) -/
def Obligations.Migration : Prop :=
  ∀ (s t : State) (lcn : BitVec 16) (h : Hdr) (pkt : MigPacket) (core reason n : Nat) (id ni : BitVec 32) (ng : BitVec 16) (rs : BitVec 8) (outcome : BitVec 2) (va : BitVec 59) (v : BitVec 64),
  let c := s.ctx lcn.toNat
  let k := s.core (coreOf lcn.toNat)
  let mine := fun (p : PStore) => p.who == .ctx (BitVec.ofNat 16 lcn.toNat)
  let m := core * 160 + (poolFree t core).headD 0
  let hdr : Hdr := ⟨homeDev c.migVa, devNo s, lcn, c.r.world, c.r.sup, 0, 0⟩
  let home : BitVec 16 := v.extractLsb' 16 16
  let target : BitVec 16 := v.extractLsb' 0 16
  (c.dir.state = .migrating → c.migSent = false → c.slot = none → c.dir.storesOut = 0 → k.stores.any mine = false → k.appends.any mine = false →
    ∃ u p, Gives (.migrationPacketSend lcn) s u ∧ sentSince s u [⟨hdr, 2, .migrate p⟩] ∧ p.events = c.dir.events ∧ p.pc = c.r.pc ∧ p.srcId = devNo s ++ lcn ∧ p.migId = c.migId ∧
      (u.ctx lcn.toNat).dir.events = 0 ∧ (u.ctx lcn.toNat).migSent = true) ∧
  (Here s h → admission s h pkt = (.ok core, t) → ∃ u, Gives (.migrate h pkt) s u ∧ (u.ctx m).dir.state = .ready ∧ (u.ctx m).r.pc = pkt.pc ∧ (u.ctx m).dir.owner = pkt.owner ∧ (u.ctx m).dir.prio = pkt.prio ∧
    (u.ctx m).dir.events = pkt.events ∧ (u.ctx m).dir.gen = (t.ctx m).dir.gen ∧ (∀ j, j ≠ m → u.ctx j = t.ctx j) ∧ (∃ x, sentSince t u [x] ∧ x.body = .migans pkt.migId 0 0 (devNo t ++ BitVec.ofNat 16 m) (t.ctx m).dir.gen)) ∧
  (Here s h → admission s h pkt = (.error reason, t) → ∃ u, Gives (.migrate h pkt) s u ∧ u.ctxs = t.ctxs ∧ (∃ x, sentSince t u [x] ∧ x.body = .migans pkt.migId 1 (BitVec.ofNat 8 reason) 0 0)) ∧
  (h.dest = devNo s → migrating s h id = some n → (s.ctx n).dir.events = 0 →
    (∃ u, Gives (.migans h id 0 rs ni ng) s u ∧ (u.ctx n).dir.state = .stub ∧ tget u.remote.stubs (s.ctx n).dir.stub.toNat = some ⟨n, ni, ng, (s.ctx n).dir.gen⟩ ∧ ∀ j, j ≠ n → u.ctx j = s.ctx j) ∧
    (outcome ≠ 0 → ∃ u, Gives (.migans h id outcome rs ni ng) s u ∧ (u.ctx n).dir.state = .ready ∧ (u.ctx n).migSent = false ∧ tget u.remote.stubs (s.ctx n).dir.stub.toNat = none)) ∧
  (h.dest = devNo s → migrating s h id = none → Gives (.migans h id outcome rs ni ng) s s.tick) ∧
  (h.dest = devNo s → (s.remote.admitted.all fun e => !(e.1 == h.src && e.2.1 == id)) = true → ∃ u, Gives (.migq h id) s u ∧ (∃ x, sentSince s u [x] ∧ x.body = .migans id 2 0 0 0)) ∧
  (h.dest = devNo s → s.remote.admitted = [(h.src, id, true, 0, ni, ng)] → ∃ u, Gives (.migq h id) s u ∧ (∃ x, sentSince s u [x] ∧ x.body = .migans id 0 0 ni ng)) ∧
  (c.dir.state = .migrating → c.migSent = true →
    Gives (.migReplyTimeout lcn) s (sendMsg s ⟨hdr, 2, .migq c.migId⟩).tick ∧
    ∃ u r, Gives (.migUnresolved lcn) s u ∧ u.sark.last = some r ∧ r.cls = 0x15 ∧ u.sark.nextSeq = s.sark.nextSeq + 1) ∧
  (c.dir.state = .stub → c.dir.dying = false → ∃ u, Gives (.stubRelease lcn) s u ∧ (u.ctx lcn.toNat).dir.state = .free ∧ (u.ctx lcn.toNat).dir.gen = c.dir.gen + 1 ∧ tget u.remote.stubs c.dir.stub.toNat = none) ∧
  (c.dir.state ≠ .stub → Gives (.stubRelease lcn) s s.tick) ∧
  (canIssue s (.ctx lcn) = true →
    (home = devNo s → target.toNat < 40960 → (s.ctx target.toNat).dir.state ≠ .stub → (s.ctx target.toNat).dir.gen = v.extractLsb' 32 16 →
      Gives (.dbRemoteWrite (.ctx lcn) va v) s (ringBits s target.toNat (v.extractLsb' 48 16)).tick) ∧
    (home ≠ devNo s → c.dir.storesOut ≠ 0xFFF → unreachable s home = none → (freeOp s.remote.ops).isSome = true →
      ∃ u x, Gives (.dbRemoteWrite (.ctx lcn) va v) s u ∧ sentSince s u [x] ∧ x.body = .doorbell target (v.extractLsb' 32 16) (v.extractLsb' 48 16) (devNo s) 0 ∧ x.h.dest = home ∧
        (u.ctx lcn.toNat).dir.storesOut = c.dir.storesOut + 1))

/-- Flits in order and out of order, NAK and replay, lanes and spares, initialisation, loss, HOLD and transit of a Laraor
port. On an UP port a good flit of the type named: IDLE uses its ack; CREDIT and DATA in order advance the expected
number, end recovery, return credits, and DATA hands over a message that lies whole in it, decoded where it is for
this device, its units then owed to the peer; the arrival of each of the three also marks a flit time, in which the
port sends a flit of its own; out of order the receiver enters recovery with a NAK, and in recovery uses the ack
alone; NAK sends the unacknowledged flits again with the present ack; SPARE moves the named lane to the spare; HOLD
with 1 to 3 is noted; a matching INIT in INIT makes the port UP with its peer. A bad flit is not used. A transit
message goes onward and uses credits, waits, or is discarded. The loss of a lane asks for the spare; silence takes an
UP port not in low-power idle DOWN and records LINK_LOSS. The last lane to lock, with every logical position named,
sends INIT; a retry trains a wanted port; DROWSE enters low-power idle; SAFE sends HOLD. (R325, R326, R327, R330,
R331, R332, R333, R334, R335, R341, R440, R445.) -/
def Obligations.LinkLayer : Prop :=
  ∀ (s : State) (port : BitVec 4) (f : Flit) (h : Hdr) (vc : BitVec 3) (d1 e1 : Bool) (len : BitVec 6) (lane pos : BitVec 3) (k v : Nat) (m : List (BitVec 8)),
  let p := port.toNat
  let q := s.port p
  let time := fun (x : Port) => (flitTime (s.setPort p x) p).tick
  let nak := fun (x : Port) => { x with recovery := true, sentNaks := q.sentNaks + 1, sentFl := q.sentFl ++ [mkFlit 0 (q.rxSeq - 1) 3 [] q.fec], fec := 0 }
  let d := inOrder s p 1 f
  (FlitAt s p 0 f → Gives (.idleFlit port f) s (time (acked s p 0 f))) ∧
  (FlitAt s p 2 f → f.seq = q.rxSeq → Gives (.creditFlit port f) s (time (inOrder s p 2 f))) ∧
  (FlitAt s p 1 f → f.seq = q.rxSeq → q.partial_ = [] →
    (f.first = 15 → Gives (.dataFlit port f) s (time d)) ∧
    (f.first = 0 → f.area = m ++ List.replicate (240 - m.length) 0 → m.length = 16 * unitsIn m → 0 < unitsIn m → m.length < 240 →
      (forUs s m = true → lenOk (m.getD 0 0).toNat (unitsIn m) = true → Gives (.dataFlit port f) s (time (match sentAt port m with
        | some x => { d with owed := owe q.owed m, got := q.got ++ [x] }
        | none => { d with owed := owe q.owed m, rxMsgs := q.rxMsgs ++ [m] }))) ∧
      (forUs s m = false → Gives (.dataFlit port f) s (time { d with rxMsgs := q.rxMsgs ++ [m] })))) ∧
  (FlitAt s p 1 f → f.seq ≠ q.rxSeq → q.recovery = true → Gives (.dataFlit port f) s (time (acked s p 1 f))) ∧
  (FlitAt s p 1 f → f.seq ≠ q.rxSeq → q.recovery = false → q.sentNaks < 15 → Gives (.dataFlit port f) s (time (nak (acked s p 1 f)))) ∧
  (FlitAt s p 3 f → (acked s p 3 f).replay ≠ [] → q.naks = 0 → ∃ t, Gives (.nakFlit port f) s t ∧ (t.port p).sentFl = q.sentFl ++ (acked s p 3 f).replay.map (fun x => withCrc { x with ack := q.rxSeq - 1 }) ∧ (t.port p).naks = 1 ∧ (t.port p).lastNak = f.ack) ∧
  (FlitAt s p 5 f → f.seq = q.rxSeq → f.area.getD 0 0 = lane.setWidth 8 → lane.toNat ≤ 3 → q.txFailed = none →
    ∃ t, Gives (.spareFlit port f) s t ∧ (t.port p).txFailed = some lane ∧ (t.port p).spare = true ∧ (t.port p).failed = lane ∧ (t.port p).event.getLsbD 2 = true) ∧
  (FlitAt s p 6 f → 1 ≤ (f.area.getD 0 0).toNat → (f.area.getD 0 0).toNat ≤ 3 → Gives (.holdFlit port f) s (s.setPort p { acked s p 6 f with hold := f.area.getD 0 0 }).tick) ∧
  (q.st = .init → flitGood f = true → f.ftype = 4 → portDir s p = some k → k % 2 = 0 → BitVec.ofNat 16 (ofBytes (f.area.take 2)) = neighbour s k → BitVec.ofNat 16 (ofBytes ((f.area.drop 3).take 2)) = s.svc.dims →
    (f.area.getD 5 0).toNat = k + 1 → ∃ t, Gives (.initFlit port f) s t ∧ (t.port p).st = .up ∧ (t.port p).peerDev = neighbour s k ∧ (t.port p).peerPort = (f.area.getD 2 0).setWidth 4 ∧ (t.port p).event.getLsbD 0 = true) ∧
  (q.st = .up → flitGood f = false → f.fecOk = true → q.sentNaks < 15 → Gives (.idleFlit port f) s (if q.recovery then (flitTime s p).tick else time (nak q))) ∧
  (h.dest ≠ devNo s → portsRun s.mg.mode = true → q.st = .up →
    (routeOf s h vc.toNat (some p) len.toNat d1 = .onward k v e1 → ∃ t, Gives (.transitForward h vc d1 len port) s t ∧ t.remote.forwarded = s.remote.forwarded ++ [(h, BitVec.ofNat 3 v, e1, BitVec.ofNat 6 len.toNat, k)] ∧
      tgetD (t.port k).credits (creditClass v e1) 0 = tgetD (s.port k).credits (creditClass v e1) 0 - len.toNat) ∧
    (routeOf s h vc.toNat (some p) len.toNat d1 = .wait → Gives (.transitForward h vc d1 len port) s s.tick) ∧
    (routeOf s h vc.toNat (some p) len.toNat d1 = .discard → Gives (.transitForward h vc d1 len port) s (countDiscards (takeTransit s h p).2 p 1).tick)) ∧
  (q.st = .up → q.recovery = true → q.sentNaks < 15 → ∃ t, Gives (.nakRepeat port) s t ∧ (t.port p).sentFl = q.sentFl ++ [mkFlit 0 (q.rxSeq - 1) 3 [] q.fec] ∧ (t.port p).sentNaks = q.sentNaks + 1) ∧
  (q.st = .up → q.rxFailed = none → lane.toNat < 4 → ∃ t, Gives (.laneLockLoss port lane) s t ∧ (t.port p).rxFailed = some lane ∧ (t.port p).spare = true ∧ (t.port p).txSeq = q.txSeq + 1 ∧
    (t.port p).sentFl = q.sentFl ++ [mkFlit q.txSeq (q.rxSeq - 1) 5 [lane.setWidth 8] q.fec]) ∧
  (q.st = .up → q.rxFailed = none → ∃ t, Gives (.laneCeThreshold port lane) s t ∧ (t.port p).rxFailed = some lane ∧ (tgetD q.laneCe lane.toNat 0).toNat ≤ (tgetD (t.port p).laneCe lane.toNat 0).toNat) ∧
  (q.st = .training → Gives (.pmdTrainingDone port 0) s (s.setPort p { q with trained := 31, locked := 0, rxFailed := none, spare := false, failed := 7 }).tick) ∧
  (q.st = .training → pos.toNat < 4 → q.trained.getLsbD lane.toNat = true → q.locked ||| ((1 : BitVec 5) <<< lane.toNat) = q.trained → lanesFull { q with locked := q.trained, lanePos := tset q.lanePos lane.toNat pos } = true →
    ∃ t, Gives (.codewordLock port lane pos) s t ∧ (t.port p).st = .init ∧ (t.port p).credits = fullCredits ∧ (t.port p).txSeq = 0 ∧ (t.port p).sentFl = q.sentFl ++ [mkFlit 0 0xFFFF 4 (initBody s p) q.fec]) ∧
  (q.st = .up → q.lowPower = false → ∃ t r, Gives (.linkSilenceTimeout port) s t ∧ (t.port p).st = .down ∧ (t.port p).replay = [] ∧ t.sark.last = some r ∧ r.cls = 0x09 ∧ r.unit = BitVec.ofNat 16 p) ∧
  (portsRun s.mg.mode = true → portWanted s p = true → q.st ≠ .up → ∃ t, Gives (.portRetry port) s t ∧ (t.port p).st = .training ∧ (t.port p).trained = 0) ∧
  (usable s p = false → Gives (.rerouteHoldExpiry port) s (s.setPort p { q with reroute := true }).tick) ∧
  (s.mg.mode = .drowse → q.st = .up → Gives (.lowPowerIdleEntry port) s (s.setPort p { q with lowPower := true }).tick) ∧
  (s.mg.mode = .safe → q.st = .up → ∃ t, Gives .safeHoldTick s t ∧ (t.port p).sentFl = q.sentFl ++ [mkFlit 0 (q.rxSeq - 1) 6 [3] q.fec] ∧ (t.port p).st = .up)

/-- BAR2 and BAR4 accesses, function-level reset, PERST and the PCIe link, HI_RAISE, the host mailbox, MSIX_SEND, outbound
timeouts and SPDM. With the link UP: a write of BAR2 in LOADER before GO stages the bytes and ends the verified state;
elsewhere the image area refuses it with an error record. BAR4 in a mode that refuses it, or not open, records an
error and a read returns none; a poisoned write does nothing else; an aligned one-word read of this device's memory
returns the word. FLR resets the host registers, vectors and mailbox and keeps the staging bytes and the link; PERST
does so and takes the link down; training sets the link, and a change of it signals source 0xA3. HI_RAISE signals
source 0xC0 + i, whose detail is free (log entry 93), and while earlier BAR4 accesses are outstanding it waits behind
them. HI_DM_CTL.go of a busy mailbox counts a lost go. MSIX_SEND sends an unmasked vector from 8 up and refuses lower
ones. An outbound read without completion answers all ones. SPDM requests reach Eaves, which answers. A write of
HI_BAR4_BASE is read back, HI_RAISE reads zero. (R407, R408, R411, R412, R413, R414, R415, R416, R417, R427, R439.) -/
def Obligations.HostInterface : Prop :=
  ∀ (s t : State) (off2 : BitVec 26) (bytes : List (BitVec 8)) (off : BitVec 38) (len : BitVec 13) (st : BitVec 2) (op code : BitVec 8) (req : DictReq) (n : BitVec 16) (va : BitVec 59) (v : BitVec 64) (ha : BitVec 64) (p : Pend) (w : W) (l : Leaf) (bit : Nat),
  let h := s.host
  let dm := h.dm
  let free := s.mg.mode = .loader ∧ s.mg.start.running = false ∧ s.mg.start.relay = false
  let x := tgetD h.vecs (v.toNat % 2048) {}
  let failed := fun (u : State) (bar cause : Nat) => u.host.errBar = BitVec.ofNat 3 bar ∧ u.host.errCause = BitVec.ofNat 8 cause
  (linkUp s = true →
    (free → off2.toNat + bytes.length ≤ 0x3F00000 → 0 < bytes.length → ∃ u, Gives (.bar2Write off2 bytes) s u ∧ u.host.staging = stPut h.staging off2.toNat bytes ∧ u.mg.start.verified = false) ∧
    (s.mg.mode ≠ .loader → off2.toNat < 0x3F00000 → ∃ u, Gives (.bar2Write off2 bytes) s u ∧ u.host.staging = h.staging ∧ failed u 2 6) ∧
    ((hostRefused s.mg.mode = true ∨ barOpen s = false) → s.mg.mode ≠ .drowse →
      (∃ u, Gives (.bar4Read off len) s u ∧ failed u 4 6 ∧ u.host.barData = h.barData ++ [(off, none)]) ∧ (∃ u, Gives (.bar4Write off bytes false) s u ∧ failed u 4 6 ∧ u.mem = s.mem)) ∧
    (s.mg.mode ≠ .drowse → ∃ u, Gives (.bar4Write off bytes true) s u ∧ failed u 4 7 ∧ u.mem = s.mem) ∧
    (s.mg.mode = .service → barOpen s = true → h.barQ = [] → h.barOut = 0 → off.toNat % 8 = 0 → len = 8 → homeDev (barVa s off.toNat) = devNo s → unreachable s (devNo s) = none → s.remote.ops = [] →
      homeLoad { (freeOpSlot s 0) with host := { h with barQ := [] } } (devNo s) h.barW true (barVa s off.toNat) = (.ok (w, l), t) → t.host.barQ = [] →
      (w.tag ≠ 0x301 → ∃ u, Gives (.bar4Read off len) s u ∧ u.host.barData = t.host.barData ++ [(off, some w.payload)])) ∧
    (∃ u, Gives .flr s u ∧ u.host.barEn = false ∧ u.host.vecs = [] ∧ u.host.outEn = false ∧ u.host.dm = {} ∧ u.host.errCnt = 0 ∧ u.host.staging = h.staging ∧ u.host.link = h.link ∧ u.ctxs = s.ctxs ∧ u.mem = s.mem) ∧
    (hostBusy s = false → dm.busy = true → dm.lostGo < 255 → Gives (.hiDmGo op req) s ({ s with host := { h with dm := { dm with lostGo := dm.lostGo + 1 } } }).tick) ∧
    (hostBusy s = false → dm.busy = false → 1 ≤ dm.len.toNat → dm.len.toNat < 16 → ∃ u, Gives (.hiDmGo op req) s u ∧ u.host.dm.done = true ∧ u.host.dm.busy = false) ∧
    Gives (.spdmRequest code) s ({ s with host := { h with spdm := h.spdm ++ [(code, spdmResponse code)] } }).tick ∧
    (hostRefused s.mg.mode = false → s.mg.mode ≠ .drowse → hostBusy s = false → bit < 64 → v = 1 <<< bit → Gives (.hiRaiseWrite v) s (signal s (0xC0 + bit) (Config.freeValue s.free (2 ^ 21 + bit))).tick) ∧
    (hostRefused s.mg.mode = false → s.mg.mode ≠ .drowse → hostBusy s = true → Gives (.hiRaiseWrite v) s ({ s with host := { h with barQ := h.barQ ++ [HostOp.effect 0xD00020 v] } }).tick) ∧
    (hostRefused s.mg.mode = false → s.mg.mode ≠ .drowse → ∃ u, Gives (.registerWrite .host 0xD00000 v) s u ∧ hiRead u 0xD00000 = v.toNat % 2 ^ 59 ∧ hiRead u 0xD00020 = 0) ∧
    (hostRefused s.mg.mode = true → ∃ u, Gives (.hiRaiseWrite v) s u ∧ failed u 0 6)) ∧
  (∃ u, Gives .pePerstNAssert s u ∧ u.host.perst = true ∧ u.host.link = 0 ∧ u.host.barEn = false ∧ u.host.vecs = [] ∧ u.host.staging = h.staging ∧ u.mem = s.mem) ∧
  (s.mg.mode ≠ .off → st ≠ 3 →
    let after := { s with host := { h with link := st, perst := h.perst && st == 0 } }
    Gives (.pcieLinkChange st) s (if h.link = st then after else pcieEvent after).tick) ∧
  (canIssue s (.ctx n) = true →
    (8 ≤ v.toNat % 2048 → x.mask = false → h.master = true → Gives (.msixSendWrite (.ctx n) va v) s ({ s with host := { h with sentMsi := h.sentMsi ++ [BitVec.ofNat 11 (v.toNat % 2048)] } }).tick) ∧
    (v.toNat % 2048 < 8 → ∃ u, Gives (.msixSendWrite (.ctx n) va v) s u ∧ failed u 7 10)) ∧
  (h.reads = [(.ctx n, ha)] → (s.ctx n.toNat).pend = some p → p.why = .outbound →
    ∃ u q, Gives (.outboundReadTimeout (.ctx n)) s u ∧ u.host.reads = [] ∧ failed u 7 9 ∧ (u.ctx n.toNat).pend = some q ∧ q.ready = true ∧ tget q.words 0 = some ⟨0x006, 0xFFFFFFFFFFFFFFFF⟩)

/-- Dictionary requests read, write, force, walk and log; relays, mailboxes and late replies; a register write; an
undecodable word. On path 0 (outside OFF), a request for this device is answered on its path with the operation +
0x80: 7 for a malformed header; READ answers an entry's value, or the mirrored one with status 0x0C where its block is
silent, status 1 where none exists, 3 for WO; WRITE answers 3 for RO, 3 for RWL outside LOADER, BRINGUP and SELFTEST,
4 out of range, all without effect, and stores a plain RW or RWS number but for its reserved bits; FORCE refuses Job
World (0x0B) and releases LOCKUP_N; NEXT answers the following entry; LOG the record, or 8; SNAP a piece, or 8. A
remote request is sent on VC 4 and remembered, or refused with 9 when unreachable; a relayed one is performed and its
reply sent; a reply, or 0x0A when none came, is answered and forgotten. DMB_CTL.go of a busy mailbox counts a lost go;
else READ leaves done with the reply. DICT_MIRROR_TICK keeps the values that blocks report and counts the time since
the others' last report. A register write by the owner sets MOVED_CONS. A fetched word that decodes to nothing enters
ILLEGAL_OPCODE with the subcode and the word, or locks a fast interrupt context up. (R455, R456, R457, R458, R459,
R461, R464, R117, R121, R320.) -/
def Obligations.DictionaryAndRegisters : Prop :=
  ∀ (s u : State) (r q : DictReq) (e : DEnt) (k size : Nat) (rec_ : FRec) (h : Hdr) (op st : BitVec 8) (m : BitVec 2) (w : World) (v : BitVec 64) (n : BitVec 16) (fk : BitVec 8) (word : BitVec 32),
  let i := r.index.toNat
  let j := r.sub.toNat
  let x := tgetD s.mg.boxes m.toNat {}
  let reply := fun (t : State) (op st : BitVec 8) (r : DictReq) => { t with host := { t.host with replies := t.host.replies ++ [(0, op + 0x80, st, r)] } }
  let plain := fun (st : BitVec 8) (op : BitVec 8) => (reply s op st { r with value := [] }).tick
  (s.mg.mode ≠ .off → r.path = 0 → r.remote = false →
    ((r.dest ≠ 0 ∨ r.arg ≠ 0 ∧ r.type ≠ 0x0D) → Gives (.dictRead r) s (plain 7 1)) ∧
    (r.dest = 0 → r.arg = 0 → dictEntry i j = none → Gives (.dictRead r) s (plain 1 1) ∧ Gives (.dictWrite r) s (plain 1 2) ∧ Gives (.dictForce r) s (plain 1 3)) ∧
    (r.dest = 0 → r.arg = 0 → dictEntry i j = some e → e.ty = r.type.toNat →
      (r.value = [] → e.cls = 2 → Gives (.dictRead r) s (plain 3 1)) ∧
      (r.value = [] → e.cls ≠ 2 → e.ty ≠ 0x0D →
        (stale s e.index j = false → Gives (.dictRead r) s (reply s 1 0 { r with value := readVal s e j }).tick) ∧
        (stale s e.index j = true → Gives (.dictRead r) s (reply s 1 0x0C { r with value := (tget s.mg.mirror (e.index * 256 + j)).getD (readVal s e j) }).tick)) ∧
      (lenFits e r.value = true →
        (e.cls = 0 → Gives (.dictWrite r) s (plain 3 2)) ∧
        (e.cls = 3 → rwlMode s.mg.mode = false → Gives (.dictWrite r) s (plain 3 2)) ∧
        ((e.cls = 1 ∨ e.cls = 4 ∧ r.job = false) → i ∉ [0x0208, 0x4020, 0x2010] → inRange s e j r.value = false → Gives (.dictWrite r) s (plain 4 2)) ∧
        ((e.cls = 1 ∨ e.cls = 4 ∧ r.job = false) → tyLen e.ty = some size → e.p = false → i ∉ [0x0200, 0x0208, 0x2000, 0x4020, 0x0C12, 0x0420, 0x0400, 0x0800, 0x2010] → inRange s e j r.value = true →
          Gives (.dictWrite r) s (reply (setDval s i j (ofBytes r.value % 2 ^ entryBits e j)) 2 0 { r with value := [] }).tick ∧ dval (setDval s i j (ofBytes r.value % 2 ^ entryBits e j)) i j = ofBytes r.value % 2 ^ entryBits e j) ∧
        (r.job = false → i = 0x0208 → j = 3 → ofBytes r.value = 1 → Gives (.dictForce r) s (reply (releaseLockup s) 3 0 { r with value := [] }).tick)) ∧
      (r.job = true → Gives (.dictForce r) s (plain 0x0B 3))) ∧
    (r.dest = 0 → r.arg = 0 → r.type = 0 → dictNext i j = none → Gives (.dictNext r) s (plain 1 4)) ∧
    (r.dest = 0 → r.arg = 0 → r.type = 0 → dictNext i j = some (e, k) → ∃ val, Gives (.dictNext r) s (reply s 4 0 { r with type := BitVec.ofNat 8 e.ty, index := BitVec.ofNat 16 e.index, sub := BitVec.ofNat 8 k, value := val }).tick) ∧
    (r.dest = 0 → r.type = 0 → s.sark.log.find? (fun f => f.seq == r.arg) = some rec_ → Gives (.dictLog r) s (reply s 5 0 { r with value := frecBytes rec_ }).tick) ∧
    (r.dest = 0 → r.type = 0 → s.sark.log.find? (fun f => f.seq == r.arg) = none → Gives (.dictLog r) s (plain 8 5)) ∧
    (r.dest = 0 → r.type = 0 → r.arg.toNat < s.sark.snap.length → Gives (.dictSnap r) s (reply s 6 0 { r with value := (s.sark.snap.drop r.arg.toNat).take 4080 }).tick) ∧
    (r.dest = 0 → r.type = 0 → s.sark.snap.length ≤ r.arg.toNat → Gives (.dictSnap r) s (plain 8 6))) ∧
  (s.mg.mode ≠ .off → r.path = 0 → r.remote = true → r.arg = 0 →
    (unreachable s r.dest = none → r.dest ≠ devNo s → r.job = false → ∃ t, Gives (.dictRead r) s t ∧ sentSince s t [note s r.dest .sys 4 (.mgmt false 1 0 { r with remote := false })] ∧ t.mg.remotes = s.mg.remotes ++ [(r.tag, 0, 1, r)]) ∧
    ((unreachable s r.dest).isSome = true → Gives (.dictRead r) s (plain 9 1))) ∧
  (h.dest = devNo s → portsRun s.mg.mode = true →
    (r.remote = false → r.dest = devNo s → r.arg = 0 → ∃ t, Gives (.mgmt h false 1 st r) s t ∧
      sentSince s t [note s h.src h.world 4 (.mgmt true 1 (BitVec.ofNat 8 (dictRead s { r with path := 3, job := h.world == .job }).status) { (dictRead s { r with path := 3, job := h.world == .job }).req with remote := false })]) ∧
    (r.dest ≠ devNo s → ∃ t, Gives (.mgmt h false op st r) s t ∧ sentSince s t [note s h.src h.world 4 (.mgmt true op 7 { r with path := 3, job := h.world == .job, value := [], remote := false })]) ∧
    (s.mg.remotes = [(r.tag, 0, op, q)] → q.dest = h.src → ∃ t, Gives (.mgmt h true op st r) s t ∧ t.mg.remotes = [] ∧
      t.host.replies = s.host.replies ++ [(0, op + 0x80, st, { r with path := 0, remote := true, dest := h.src })])) ∧
  (s.mg.remotes = [(r.tag, 0, op, q)] → q.path = 0 → ∃ t, Gives (.dictRemoteTimeout r.tag) s t ∧ t.mg.remotes = [] ∧ t.host.replies = s.host.replies ++ [(0, op + 0x80, 0x0A, { q with value := [] })]) ∧
  (issuing s.mg.mode = true →
    (x.busy = true → x.lostGo ≠ 0xFF → ∃ t, Gives (.dmbGo m op r) s t ∧ tgetD t.mg.boxes m.toNat {} = { x with lostGo := x.lostGo + 1 }) ∧
    (x.busy = false → 16 ≤ x.len.toNat → x.len.toNat ≤ 4096 → r.remote = false → r.dest = 0 → r.arg = 0 → dictEntry i j = some e → e.ty = r.type.toNat → r.value = [] → e.cls ≠ 2 → e.ty ≠ 0x0D → ∃ t, Gives (.dmbGo m 1 r) s t ∧
      (tgetD t.mg.boxes m.toNat {}).done = true ∧ (tgetD t.mg.boxes m.toNat {}).busy = false ∧ (tgetD t.mg.boxes m.toNat {}).lostGo = x.lostGo)) ∧
  Gives .dictMirrorTick s (mirrorTick s).tick ∧
  (MayWrite s w (0x7F601000008 + 0x1000 * w.num) v → Gives (.registerWrite (.world w) (BitVec.ofNat 43 (0x7F601000008 + 0x1000 * w.num)) v) s (s.setWorld w { s.world w with cons := v.setWidth 32 }).tick) ∧
  (canIssue s (.ctx n) = true → bankArmed s (.ctx n) = false → faultDue s (.ctx n) = false → (s.ctx n.toNat).busErr = none → pcChecks { x := .ctx n, word := 0 } s = .ok () → fetchAt { x := .ctx n, word := 0 } (s.ctx n.toNat).r.pc s = (.ok word, u) →
    (u.ctx n.toNat).busErr = none → decodeInstr word = .error k →
    Gives (.illegalOpcode (.ctx n)) s (enter (setRepeated s (.ctx n) none) n.toNat ⟨0x01, 0, BitVec.ofNat 64 (k + 2 ^ 32 * word.toNat), none, 0⟩).tick) ∧
  (canIssue s (.fic fk) = true → pcChecks { x := .fic fk, word := 0 } s = .ok () → fetchAt { x := .fic fk, word := 0 } (s.fic fk.toNat).pc s = (.ok word, u) → decodeInstr word = .error k →
    Gives (.illegalOpcode (.fic fk)) s (ficLockup (setRepeated s (.fic fk) none) fk.toNat 0x01).tick)

/-- Power, reset, load, relay, verification, bring-up, self-test and entry to SERVICE; failed, cold and warm starts; keys,
store and test port. PWROK starts the boot ROM towards STANDBY; its fall leaves OFF, memory and staging lost and the
store and fuses kept. LOAD leads to LOADER, and without a PCIe link asks port 0 for the image, answered from staging;
relayed data is staged until verification begins. GO begins verification. A good image leads to BRINGUP with every
live tile on, a bad one back to LOADER with one more failed start. BRINGUP then SELFTEST, with far memory of 16
channels when 16 DIMMs train at 6400, BIST, SERVICE. A step over its bound fails. A cold trigger (SYS_RST_N too)
resets contexts and staging and keeps memory; a warm one keeps staging, after the writeback if lines are dirty.
owner_key_hash burns the fuses, min_svn only rises, a commit is appended, an interrupted one without its commit word.
Forced starts act as the triggers. TRST_N selects IDCODE; IDCODE and BYPASS act always, others only in LOADER with
jtag_en set, where the manual does not say what they do (log entry 90). (R411, R419, R420, R425, R427, R432, R433,
R436, R467, R483, R504, R507.) -/
def Obligations.Starts : Prop :=
  ∀ (s : State) (slot : BitVec 2) (sig dec : BitVec 7) (kh data : List (BitVec 8)) (c a : Nat) (port : BitVec 4) (off len : BitVec 32) (unit v kind rate : BitVec 16) (far : BitVec 64) (chans : Training) (oneRank : Bool) (step ir fail : BitVec 8) (r : FRec) (rest : List FRec),
  let st := s.mg.start
  let idle := s.mg.trans = none
  let start := fun (t : State) (warm : Bool) => t.mg.trans = some ⟨.loader, .loader, []⟩ ∧ t.mg.start.pendWarm = warm ∧ t.ctxs = [] ∧ t.mem.words = s.mem.words ∧ t.host.staging = (if warm then s.host.staging else []) ∧
    t.pins.lockup = false ∧ t.pins.safe = false ∧ t.sark.log = s.sark.log ∧ dval t 0x2000 2 = (if warm then 2 else 1) ∧ dval t 0x2000 3 = 1
  let failed := fun (t : State) (code : Nat) => t.mg.mode = .loader ∧ t.mg.trans = none ∧ t.mg.start.running = false ∧ t.mg.start.verifying = false ∧ dval t 0x2000 5 = min 255 (dval s 0x2000 5 + 1) ∧
    dval t 0x2000 1 = (if 3 ≤ min 255 (dval s 0x2000 5 + 1) then 0x30 else code)
  let asks := fun (t : State) (off : Nat) => t.remote.sent.getLast? = some (note t (t.port 0).peerDev .sys 4 (.imgreq 0 (BitVec.ofNat 32 off)))
  (s.pins.pwrok = false → ∃ t, Gives (.pwrokRise slot) s t ∧ t.pins.pwrok = true ∧ t.pins.boardSlot = slot ∧ t.mg.trans = some ⟨.standby, .standby, []⟩ ∧ t.mg.mode = s.mg.mode) ∧
  (∃ t, Gives .pwrokFall s t ∧ t.mg.mode = .off ∧ t.pins.pwrok = false ∧ t.ctxs = [] ∧ t.mem.words = [] ∧ t.host.staging = [] ∧ t.sark.store = s.sark.store ∧ t.mg.start.fuse = st.fuse) ∧
  (s.mg.mode = .off → Gives (.sysRstNAssert false) s ({ s with pins := { s.pins with sysRst := true } }).tick) ∧ (s.mg.mode = .standby → Gives (.sysRstNAssert true) s s.tick) ∧
  Gives .sysRstNRelease s ({ s with pins := { s.pins with sysRst := false } }).tick ∧
  (s.pins.sysRst = false → st.wbDone = true → s.mg.trans = some ⟨.standby, .standby, []⟩ → ∃ t, Gives .bootRomDone s t ∧ t.mg.mode = .standby ∧ t.mg.trans = none) ∧
  (s.pins.sysRst = false → st.wbDone = true → s.mg.trans = some ⟨.loader, .loader, []⟩ → s.host.link = 1 → ∃ t, Gives .bootRomDone s t ∧ t.mg.mode = .loader ∧ t.mg.trans = none ∧ dval t 0x2000 3 = 2) ∧
  (s.mg.mode = .standby → idle → ∃ t, Gives .startCmdLoad s t ∧ Gives .forceStartCold s t ∧ Gives .forceStartWarm s t ∧ t.mg.mode = .loader ∧ dval t 0x2000 2 = 1 ∧ dval t 0x2000 3 = 2 ∧ (s.host.link ≠ 1 → t.mg.start.relay = true ∧ asks t 0)) ∧
  (s.mg.mode ≠ .standby → Gives .startCmdLoad s s.tick) ∧
  (startable s.mg.mode = true → ∃ t, Gives .startCmdResetCold s t ∧ Gives .forceStartCold s t ∧ Gives (.sysRstNAssert false) s t ∧ start t false) ∧
  (startable s.mg.mode = false → Gives .startCmdResetCold s s.tick ∧ Gives .startCmdResetWarm s s.tick) ∧
  (startable s.mg.mode = true → warmOk s = true → dirtyLines s = [] → (∀ x ∈ s.cores, x.2.stores = []) → ∃ t, Gives .startCmdResetWarm s t ∧ Gives .forceStartWarm s t ∧ start t true) ∧
  (startable s.mg.mode = true → warmOk s = true → dirtyLines s ≠ [] → ∃ t, Gives .startCmdResetWarm s t ∧ t.mg.trans = some ⟨.loader, .loader, []⟩ ∧ t.mg.start.wbDone = false ∧ t.mem = s.mem ∧ t.cores = s.cores) ∧
  (startable s.mg.mode = true → warmOk s = false → ∃ t, Gives .startCmdResetWarm s t ∧ Gives .startCmdResetCold s t) ∧
  (st.wbDone = false → ∃ t, Gives (.warmWritebackComplete false) s t ∧ start t false) ∧
  (st.wbDone = false → ∃ t, Gives (.warmWritebackComplete true) s t ∧ t.mg.start.pendWarm = true ∧ t.ctxs = [] ∧ dval t 0x2000 2 = 2) ∧
  (goOk s = true → ∃ t, Gives .startCmdGo s t ∧ t.mg.start.verifying = true ∧ t.mg.start.running = true ∧ t.mg.mode = .loader ∧ dval t 0x2000 9 = 1 ∧ dval t 0x2000 3 = 3 ∧ dval t 0x2000 1 = 1) ∧
  (s.mg.mode ≠ .loader → Gives .startCmdGo s s.tick) ∧
  ((s.port port.toNat).st = .up → ∃ t, Gives (.imgreq port off) s t ∧ sentSince s t [note s (s.port port.toNat).peerDev .sys 4 (.imgrel port off (BitVec.ofNat 32 (if st.verified then stN s 8 4 else 0))
    (if off.toNat < (if st.verified then stN s 8 4 else 0) then stBytes s off.toNat (min 672 ((if st.verified then stN s 8 4 else 0) - off.toNat)) else []))]) ∧
  (s.mg.mode = .loader → st.relay = true → len ≠ 0 → off.toNat + data.length ≤ 66060288 → ∃ t, Gives (.imgrel 0 off len data) s t ∧ t.host.staging = stPut s.host.staging off.toNat data ∧
    (len.toNat ≤ st.relayGot + data.length → t.mg.start.verifying = true ∧ dval t 0x2000 9 = 2) ∧ (st.relayGot + data.length < len.toNat → asks t (off.toNat + data.length))) ∧
  (s.mg.mode = .loader → st.relay = true → st.relayLen = 0 → ∃ t, Gives .imageRelayRetry s t ∧ asks t 0) ∧
  (s.mg.mode = .loader → idle → st.verifying = true →
    (verify (setStep s 4) sig dec kh = some (c, a) → ∃ t, Gives (.imageVerified sig dec kh) s t ∧ failed t c ∧ dval t 0x2000 6 = c + 2 ^ 8 * (a % 2 ^ 16) + 2 ^ 24 * 4) ∧
    (verify (setStep s 4) sig dec kh = none → findSection s 7 = none → ∃ t, Gives (.imageVerified sig dec kh) s t ∧ t.mg.mode = .bringup ∧ t.mg.start.verified = true ∧ ∀ k < 32, (s.tile k).dead = false → (t.tile k).power = .on)) ∧
  (s.mg.mode = .bringup → idle → (∃ t, Gives (.bringupComplete 0 unit rate far chans oneRank) s t ∧ t.mg.mode = .selftest ∧ dval t 0x2000 3 = 7) ∧
      (st.pendWarm = false → chans.chans = 0xFFFF → chans.t64 = 0xFFFF → 6400 ≤ rate.toNat → 6400 ≤ dval s 0x0800 4 → dimmSizes.contains far.toNat = true →
        (∀ m < 16, (s.mc (8 + m)).rows = [] ∧ ∀ g ∈ (s.mc (8 + m)).groups, g.2 ≠ .retiring ∧ g.2 ≠ .retired) →
        ∃ t, Gives (.bringupComplete 0 unit rate far chans oneRank) s t ∧ t.mem.farN = 16 ∧ t.mem.farBytes = 16 * far.toNat ∧ t.mem.farRate = 6400 ∧ dval t 0x0800 1 = 0xFFFF ∧ dval t 0x0800 2 = 16 * far.toNat ∧ dval t 0x0800 3 = 6400) ∧
    (fail ≠ 0 → ∃ t, Gives (.bringupComplete fail unit rate far chans oneRank) s t ∧ failed t fail.toNat)) ∧
  (s.mg.mode = .selftest → idle → st.bist = false → (∃ t, Gives (.bistComplete true) s t ∧ t.mg.start.bist = true ∧ t.mg.mode = .selftest ∧ dval t 0x2000 3 = 8) ∧ ∃ t, Gives (.bistComplete false) s t ∧ failed t 0x22) ∧
  (s.mg.mode = .selftest → idle → st.memDone = true → findSection s 5 = none → ∃ t, Gives .serviceEntry s t ∧ t.mg.mode = .service ∧ t.mg.start.running = false ∧ dval t 0x2000 5 = 0 ∧ dval t 0x2000 3 = 9 ∧ dval t 0x2000 1 = 2) ∧
  (st.running = true → dval s 0x2000 3 = step.toNat → s.mg.mode = .loader → idle → ∃ t, Gives (.startStepTimeout step) s t ∧ failed t 0x24) ∧
  (s.mg.mode = .loader → st.fuse = false → st.burning = false → kh.all (· == 0) = false → ∃ t, Gives (.ownerKeyHashWrite kh) s t ∧ t.mg.start.burning = true ∧ t.mg.start.fuse = false ∧ blobOf t 0x2010 1 = kh) ∧
  (st.fuse = true → Gives (.ownerKeyHashWrite kh) s s.tick) ∧
  (st.burning = true → ∃ t, Gives .fuseBurnComplete s t ∧ t.mg.start.fuse = true ∧ t.mg.start.burning = false ∧ dval t 0x2010 2 = 1) ∧
  (rwlMode s.mg.mode = true → dval s 0x2010 3 ≤ v.toNat → ∃ t, Gives (.minSvnWrite v) s t ∧ dval t 0x2010 3 = v.toNat ∧ t.sark.storeSeq = s.sark.storeSeq + 1) ∧
  (v.toNat < dval s 0x2010 3 → Gives (.minSvnWrite v) s s.tick) ∧
  (s.mg.mode ≠ .off → (kind ≠ 3 → Gives (.persistentCommit kind data false) s (persist s kind.toNat data).tick) ∧
    (∃ t, Gives (.persistentCommit kind data true) s t ∧ t.sark.store = s.sark.store ++ [⟨kind, s.sark.storeSeq, data, false⟩]) ∧
    (s.sark.waiting = r :: rest → ∃ t, Gives (.persistentCommit 3 data false) s t ∧ t.sark.waiting = rest ∧ t.sark.log.getLast? = some r ∧ t.sark.store = s.sark.store ++ [⟨3, s.sark.storeSeq, frecBytes r, true⟩])) ∧
  Gives .trstNAssert s ({ s with pins := { s.pins with tapIr := 1 } }).tick ∧
  ((ir = 1 ∨ ir = 0xFF) → Gives (.tapInstruction ir) s ({ s with pins := { s.pins with tapIr := ir } }).tick) ∧
  (ir ≠ 1 → ir ≠ 0xFF → (dval s 0x4001 1 = 1 → s.mg.mode = .loader → exec (.tapInstruction ir) s = .refused .tapUnspecified) ∧ ((dval s 0x4001 1 ≠ 1 ∨ s.mg.mode ≠ .loader) → Gives (.tapInstruction ir) s s.tick))

/-- mode_cmd, transitions and their bounds, DROWSE, RECOVERY, fences, power domains, tile clocks and LOCKUP_N. In SERVICE
with no transition in progress mode_cmd QUIESCE and HOLD begin that transition for every powered block, RESUME leaves
QUIESCE or HOLD for mode_base, SAFE drives SAFE_N; during a transition, or in LOADER, all four do nothing. An
acknowledgement removes its block; the last one ends the transition in the target mode. Past the bound a late block
takes the device to SAFE with BLOCK_STALL, a late tile is dead and RECOVERY follows, and on the way to SAFE the domain
is gated. DROWSE begins when its conditions hold. RECOVERY ends in DEGRADED, or a warm start when the check fails. A
fence stops a port, its removal leaves it DOWN. Gating a tile declares it dead; gating a stack leads to SAFE; gating
PCIe drops the link and degrades. pd_ctl OFF acts where it is permitted (Cowslip and a tile's engine, when busy, defer
it); ON makes a domain ready when its power-on completes. A tile's frequency from 8 to 22 is stored, and its PLL
relocks when a running tile's clock changes. FORCE of lockup returns every FIC in LOCKUP to IDLE. (R346, R350, R438,
R441, R442, R443, R445, R446, R448, R467.) -/
def Obligations.ModesAndDomains : Prop :=
  ∀ (s : State) (b k : Nat) (port : BitVec 4) (tile : BitVec 5) (f : BitVec 8) (dom : BitVec 7) (blk : BitVec 9) (pass : Bool) (ws : List Nat) (bs : Mode),
  let p := port.toNat
  let q := s.port p
  let d := dom.toNat
  let svc := s.mg.mode = .service ∧ s.mg.trans = none
  let going := fun (m b : Mode) => { s with mg := { s.mg with trans := some ⟨m, b, affected s⟩ } }
  let towards := fun (t : State) (m : Mode) => ∃ u, t.mg.trans = some u ∧ u.target = m
  let logged := fun (t : State) (cls : BitVec 8) => ∃ r, t.sark.last = some r ∧ r.cls = cls
  let clk := fun (f : Nat) => min f (s.tile tile.toNat).limit.toNat
  let clocked := (s.tile tile.toNat).power = .on ∨ (s.tile tile.toNat).power = .nap
  (svc → Gives .modeCmdQuiesce s (going .quiesce .service).tick ∧ Gives .modeCmdHold s (going .hold .service).tick ∧
    ∃ t, Gives .modeCmdSafe s t ∧ t.mg.trans = some ⟨.safe, .safe, affected s⟩ ∧ t.pins.safe = true ∧ t.mg.waiting = [] ∧ t.mg.mode = .service) ∧
  ((s.mg.mode = .quiesce ∨ s.mg.mode = .hold) → s.mg.trans = none → Gives .modeCmdResume s (going s.mg.base s.mg.base).tick) ∧
  (s.mg.mode = .drowse → s.mg.trans = none → ∃ t, Gives .modeCmdQuiesce s t ∧ t.mg.trans = some ⟨s.mg.base, s.mg.base, affected s⟩ ∧ t.mg.waiting = s.mg.waiting ++ [.quiesce]) ∧
  ((s.mg.trans.isSome = true ∨ s.mg.mode = .loader) → Gives .modeCmdQuiesce s s.tick ∧ Gives .modeCmdHold s s.tick ∧ Gives .modeCmdResume s s.tick ∧ Gives .modeCmdSafe s s.tick) ∧
  (s.mg.trans = some ⟨.quiesce, bs, ws⟩ → 32 ≤ blk.toNat → ws.filter (fun x => x != blk.toNat && !(decide (x < 32) && (s.tile x).dead)) ≠ [] → Gives (.transitionAck blk) s
    ({ s with mg := { s.mg with trans := some ⟨.quiesce, bs, ws.filter (fun x => x != blk.toNat && !(decide (x < 32) && (s.tile x).dead))⟩ } }).tick) ∧
  (s.mg.mode = .service → s.mg.waiting = [] → s.sark.bankPend = [] → s.mg.trans = some ⟨.quiesce, .service, [blk.toNat]⟩ → 32 ≤ blk.toNat → ∃ t, Gives (.transitionAck blk) s t ∧ t.mg.mode = .quiesce ∧ t.mg.base = .service ∧ t.mg.trans = none) ∧
  (s.mg.mode = .service → s.mg.trans = some ⟨.quiesce, .service, [72]⟩ → ∃ t, Gives .transitionAckTimeout s t ∧ towards t .safe ∧ t.pins.safe = true ∧ logged t 0x12) ∧
  (s.mg.mode = .service → s.mg.trans = some ⟨.safe, .safe, [73]⟩ → ∃ t, Gives .transitionAckTimeout s t ∧ t.mg.mode = .safe ∧ tgetD t.mg.pd 73 .on = .off ∧ logged t 0x12) ∧
  (s.mg.mode = .service → s.mg.waiting = [] → s.sark.bankPend = [] → k < 32 → (s.tile k).dead = false → s.mg.trans = some ⟨.quiesce, .service, [k]⟩ →
    ∃ t, Gives .transitionAckTimeout s t ∧ (t.tile k).dead = true ∧ t.mg.mode = .quiesce ∧ towards t .recovery) ∧
  (drowseOk s = true → s.mg.trans = none → Gives .drowseEntry s (going .drowse s.mg.mode).tick) ∧ (drowseOk s = false → Gives .drowseEntry s s.tick) ∧
  (s.mg.mode = .recovery → s.mg.trans = none → (dval s 0x0200 4 = 0 → Gives (.recoveryReverifyDone true) s (going .degraded .degraded).tick) ∧
    ∃ t, Gives (.recoveryReverifyDone false) s t ∧ Gives .startCmdResetWarm s t ∧ towards t .loader) ∧
  (s.mg.mode ≠ .recovery → Gives (.recoveryReverifyDone pass) s s.tick) ∧
  (q.fence = false → (∃ t, Gives (.portFenceWrite port true) s t ∧ (t.port p).st = .fenced ∧ (t.port p).fence = true ∧ dval t 0x0C12 (p + 1) = 1) ∧
    (startable s.mg.mode = true → ∃ t, Gives (.forcePortFence port) s t ∧ (t.port p).st = .fenced ∧ (t.port p).fence = true ∧ dval t 0x0C12 (p + 1) = 1)) ∧
  (q.fence = true → ∃ t, Gives (.portFenceWrite port false) s t ∧ (t.port p).st = .down ∧ (t.port p).fence = false ∧ (t.port p).replay = [] ∧ dval t 0x0C12 (p + 1) = 0) ∧
  (svc → d < 32 → (s.tile d).dead = false → ∃ t, Gives (.forceGateDomain dom) s t ∧ (t.tile d).dead = true ∧ (t.tile d).power = .off ∧ towards t .recovery) ∧
  (svc → 32 ≤ d → d < 40 → ∃ t, Gives (.forceGateDomain dom) s t ∧ tgetD t.mg.pd d .on = .off ∧ towards t .safe ∧ t.pins.safe = true ∧ logged t 0x16) ∧
  (svc → ∃ t, Gives (.forceGateDomain 74) s t ∧ tgetD t.mg.pd 74 .on = .off ∧ t.host.link = 0 ∧ towards t .degraded ∧ logged t 0x16 ∧ dval t 0x0420 75 = 1) ∧
  (pdOffOk s d = false → Gives (.pdCtlOff dom) s s.tick) ∧
  (pdOffOk s d = true → d < 32 → ((s.sq (64 + d)).st ≠ .running → (s.sq (64 + d)).st ≠ .waiting → Gives (.pdCtlOff dom) s ((setDval s 0x0420 (d + 1) 1).modTile d fun t => { t with power := .off }).tick) ∧
    ((s.sq (64 + d)).st = .running ∨ (s.sq (64 + d)).st = .waiting → ∃ t, Gives (.pdCtlOff dom) s t ∧ t.mg.pdPend = s.mg.pdPend ++ [d] ∧ t.tiles = s.tiles)) ∧
  (pdOffOk s 73 = true → ((∀ n < 64, (s.group n).st.busy = false) → (∀ n < 4, (s.sq (96 + n)).st ≠ .running ∧ (s.sq (96 + n)).st ≠ .waiting) → ∃ t, Gives (.pdCtlOff 73) s t ∧ tgetD t.mg.pd 73 .on = .off) ∧
    (b < 64 → (s.group b).st.busy = true → ∃ t, Gives (.pdCtlOff 73) s t ∧ t.mg.pdPend = s.mg.pdPend ++ [73] ∧ t.mg.pd = s.mg.pd)) ∧
  (73 ∈ s.mg.pdPend → ∃ t, Gives .cowslipGateTimeout s t ∧ tgetD t.mg.pd 73 .on = .off ∧ 73 ∉ t.mg.pdPend) ∧ (73 ∉ s.mg.pdPend → Gives .cowslipGateTimeout s s.tick) ∧
  (startable s.mg.mode = true → d < 76 → Gives (.pdCtlOn dom) s (setDval s 0x0420 (d + 1) 0).tick) ∧
  (72 ≤ d → d ≤ 74 → dval s 0x0420 (d + 1) = 0 → tgetD s.mg.pd d .off = .off → portsRun s.mg.mode = true → Gives (.domainPowerOnComplete dom) s (setPd s d .on).tick) ∧
  (8 ≤ f.toNat → f.toNat ≤ 22 → (clocked → clk f.toNat ≠ clk (dval s 0x0400 (tile.toNat + 1)) → ∃ t, Gives (.tileFreqWrite tile f) s t ∧ dval t 0x0400 (tile.toNat + 1) = f.toNat ∧
      t.tile tile.toNat = { s.tile tile.toNat with relock := true }) ∧
    (¬ (clocked ∧ clk f.toNat ≠ clk (dval s 0x0400 (tile.toNat + 1))) → Gives (.tileFreqWrite tile f) s (setDval s 0x0400 (tile.toNat + 1) f.toNat).tick)) ∧
  ((f.toNat < 8 ∨ 22 < f.toNat) → Gives (.tileFreqWrite tile f) s s.tick) ∧
  Gives (.pllRelockComplete tile) s (s.setTile tile.toNat { s.tile tile.toNat with relock := false }).tick ∧
  (∃ t, Gives .forceLockupRelease s t ∧ t.pins.lockup = false ∧ t.mg = s.mg ∧ t.ctxs = s.ctxs ∧ ∀ n, (t.fic n).mode = (if (s.fic n).mode = .lockup then .idle else (s.fic n).mode))

/-- Fault reports and their reactions, dead cores, periodic checks, self-tests, temperatures, wear, substitution and error
injection. In SERVICE with no transition in progress: CLOCK, VOLTAGE and a temperature at tj_crit are recorded with
their unit and begin the transition to SAFE with SAFE_N driven; SPARE_EXHAUSTED begins DEGRADED; a FIC lockup drives
LOCKUP_N; CACHE_UE is recorded alone; an unknown class does nothing. A core whose watchdog expires is dead: its
contexts are FREE, one generation on, and it is SUBSTITUTED on the spare site when that is free, else RETIRED; a
failed self-test does the same. Once no home or message names it, a reclaimed core's caches are empty, and a
substituted one runs. A period in which every check finishes clears the counts of drops, one in which none does counts
each, and the third drop in a row is a record of class 0x0F. The self-test takes a free slot and gives it back. A
sample is recorded; a hot tile's limit falls by 1, a cool one's rises, and its PLL relocks when that changes its
clock. THERMTRIP_N leaves every powered tile in RETENTION. A worn core begins its substitution, which ends on the
spare site. An injection is accepted with jtag_en = 1 alone. (R250, R449, R466, R471, R473, R474, R475, R476, R477,
R479, R485, R487.) -/
def Obligations.FaultsAndSpares : Prop :=
  ∀ (s : State) (core clk cls : BitVec 8) (what : BitVec 6) (rail : BitVec 3) (unit : BitVec 16) (addr det v : BitVec 64) (j n slot : Nat) (tile : BitVec 5) (temp power : BitVec 16) (ok : Bool),
  let c := core.toNat
  let x := s.core c
  let svc := s.mg.mode = .service ∧ s.mg.trans = none
  let logged := fun (t : State) (cls : BitVec 8) (u : Nat) => ∃ r, t.sark.last = some r ∧ r.cls = cls ∧ r.unit = BitVec.ofNat 16 u ∧ r.seq = s.sark.nextSeq ∧ r.mode = s.mg.mode
  let towards := fun (t : State) (m : Mode) => ∃ u, t.mg.trans = some u ∧ u.target = m
  let stops := fun (t : State) (cls : BitVec 8) => towards t .safe ∧ t.pins.safe = true ∧ t.mg.start.safeClass = cls
  let cleared := fun (t : State) => (t.core c).dead = true ∧ ∀ i < 160, (t.ctx (c * 160 + i)).dir.state = .free ∧ (t.ctx (c * 160 + i)).dir.gen = (s.ctx (c * 160 + i)).dir.gen + 1
  let hot := (BitVec.ofNat 16 (dval s 0x0400 0x40)).sle (BitVec.ofNat 16 (dval s 0x1801 (tile.toNat + 1))) = true ∨ dval s 0x0400 0x42 < dval s 0x0400 0x43
  let cool := (BitVec.ofNat 16 (dval s 0x1801 (tile.toNat + 1))).sle (BitVec.ofNat 16 (dval s 0x0400 0x40) - 80) = true ∧ 100 * dval s 0x0400 0x43 ≤ 95 * dval s 0x0400 0x42
  let l := (s.tile tile.toNat).limit
  let freq := fun (v : Nat) => min (dval s 0x0400 (tile.toNat + 1)) v
  let limited := fun (t : State) (v : BitVec 8) => t.tile tile.toNat = { s.tile tile.toNat with limit := v, relock := (s.tile tile.toNat).relock || (((s.tile tile.toNat).power == .on || (s.tile tile.toNat).power == .nap) && decide (freq v.toNat ≠ freq l.toNat)) } ∧
    ∀ k, k ≠ tile.toNat → t.tile k = s.tile k
  (svc → (∃ t, Gives (.clockFault clk) s t ∧ logged t 0x0B clk.toNat ∧ stops t 0x0B) ∧ (∃ t, Gives (.voltageExcursion rail) s t ∧ logged t 0x0C rail.toNat ∧ stops t 0x0C) ∧
    (∃ t, Gives (.faultReport 0x12 unit addr det) s t ∧ logged t 0x12 unit.toNat ∧ stops t 0x12) ∧
    (∃ t, Gives (.faultReport 0x14 unit addr det) s t ∧ logged t 0x14 unit.toNat ∧ towards t .degraded) ∧
    (∃ t, Gives (.faultReport 0x13 unit addr det) s t ∧ logged t 0x13 unit.toNat ∧ t.pins.lockup = true ∧ t.mg.trans = none) ∧
    (∃ t, Gives (.faultReport 0x05 unit addr det) s t ∧ logged t 0x05 unit.toNat ∧ t.mg.trans = none ∧ t.mg.mode = .service)) ∧
  (knownClass cls.toNat = false → Gives (.faultReport cls unit addr det) s s.tick) ∧
  (s.mg.mode = .service → coreLive s c = true → spareSite s (tileOf c) = some j → ∃ t, Gives (.watchdogExpiry core what) s t ∧ cleared t ∧ (t.core c).life = .substituted ∧ (t.core c).site = some (9 * tileOf c + j) ∧ logged t 0x08 c) ∧
  (s.mg.mode = .service → coreLive s c = true → spareSite s (tileOf c) = none → ∃ t, Gives (.watchdogExpiry core what) s t ∧ cleared t ∧ (t.core c).life = .retired ∧ Nat.testBit (dval t 0x1400 6) 0 = true) ∧
  (x.dead = true → (∀ y ∈ s.tiles, ∀ e ∈ y.2.sf, e.2.holders.contains c = false ∧ ∀ w, e.2.txn = some w → w.awaiting.contains c = false ∧ w.wbWait.contains c = false ∧ ∀ y ∈ w.later, y.1 ≠ c) → (∀ m ∈ s.mesh, m.src ≠ c) →
    ∃ t, Gives (.deadCoreReclaim core) s t ∧ (t.core c).l1d = [] ∧ (t.core c).stores = [] ∧ (t.core c).dead = (x.life == .retired) ∧ t.mem = s.mem ∧ ∀ m ∈ t.mesh, m ∈ s.mesh ∧ m.dst ≠ c) ∧
  (x.dead = false → Gives (.deadCoreReclaim core) s s.tick) ∧
  (s.mg.mode ≠ .off → (∃ t, Gives (.periodicCheckPeriod 0xFF 0 unit) s t ∧ t.mg = s.mg ∧ t.mem = s.mem ∧ ∀ i, 1 ≤ i → i ≤ 8 → tgetD t.sark.drops i 0 = 0) ∧
    ((∀ i, tgetD s.sark.drops i 0 < 2) → ∃ t, Gives (.periodicCheckPeriod 0 0 unit) s t ∧
      ∀ i, 1 ≤ i → i ≤ 8 → tgetD t.sark.drops i 0 = tgetD s.sark.drops i 0 + 1 ∧ dval t 0x1002 i = min 0xFFFFFFFF (dval s 0x1002 i + 1))) ∧
  (svc → (∀ i, 1 ≤ i → i ≤ 7 → tgetD s.sark.drops i 0 = 0) → tgetD s.sark.drops 8 0 = 2 → dval s 0x1001 0x0E ≠ 1 → ∃ t, Gives (.periodicCheckPeriod 0x7F 0 unit) s t ∧ logged t 0x0F 8 ∧ towards t .degraded ∧ tgetD t.sark.drops 8 0 = 3) ∧
  (coreLive s c = true → (s.tile (tileOf c)).power = .on → x.testing = none → ficRuns s.mg.mode = true → freeSlot x = some slot → Gives (.selftestStart core) s (s.setCore c { x with testing := some slot }).tick) ∧
  (x.testing = some slot → Gives (.selftestResult core true) s (s.setCore c (fillSlot { x with testing := none })).tick) ∧
  (x.testing = some slot → s.mg.mode = .service → coreLive s c = true → spareSite s (tileOf c) = some j → ∃ t, Gives (.selftestResult core false) s t ∧ cleared t ∧ logged t 0x0E c) ∧
  (x.testing = none → Gives (.selftestResult core ok) s s.tick) ∧
  (s.mg.mode ≠ .off → (BitVec.ofNat 16 (dval s 0x0400 0x41)).sle temp = false → ∃ t, Gives (.thermalSample 0 tile temp power) s t ∧ dval t 0x1801 (tile.toNat + 1) = temp.toNat ∧ dval t 0x0400 0x43 = power.toNat ∧ t.mg.trans = s.mg.trans) ∧
  (svc → (BitVec.ofNat 16 (dval s 0x0400 0x41)).sle temp = true → ∃ t, Gives (.thermalSample 0 tile temp power) s t ∧ logged t 0x0D tile.toNat ∧ stops t 0x0D) ∧
  (hot → 8 < l.toNat → ∃ t, Gives (.throttleStep tile false) s t ∧ limited t (l - 1)) ∧
  (cool → l.toNat < 22 → ∃ t, Gives (.throttleStep tile true) s t ∧ limited t (l + 1)) ∧
  (∃ t, Gives .thermtrip s t ∧ t.pins.therm = true ∧ t.pins.safe = true ∧ t.mg = s.mg ∧ ∀ i, (t.tile i).power = (if (s.tile i).power = .off then .off else .retention)) ∧
  (s.mg.mode = .service → coreLive s c = true → x.subst = false → (s.tile (tileOf c)).power = .on → (spareSite s (tileOf c)).isSome = true → ∃ t, Gives (.wearThreshold 0 (core.setWidth 16)) s t ∧ (t.core c).subst = true ∧ (t.core c).halting = true ∧ (t.core c).draining = true ∧ (t.core c).l1i = []) ∧
  (s.mg.mode = .service → (s.tile tile.toNat).dead = false → (s.tile tile.toNat).power = .on → tgetD (s.tile tile.toNat).waysOut 0 0 = 0 → ∃ t, Gives (.wearThreshold 2 (tile.setWidth 16)) s t ∧ tgetD (t.tile tile.toNat).waysOut 0 0 = 1) ∧
  (s.mg.mode = .service → n < 10 → (siteOf s c, n) ∉ s.sark.bankPend → ∃ t, Gives (.wearThreshold 3 (BitVec.ofNat 16 (16 * c + n))) s t ∧ t.sark.bankPend = s.sark.bankPend ++ [(siteOf s c, n)]) ∧
  (x.subst = true → x.draining = false → x.slots = [] → x.swaps = [] → x.fic.mode = .idle → x.dead = false → spareSite s (tileOf c) = some j → ∃ t, Gives (.coreSubstitutionComplete core) s t ∧ (t.core c).life = .substituted ∧
    (t.core c).site = some (9 * tileOf c + j) ∧ (t.core c).subst = false ∧ (t.core c).halting = !issuing s.mg.mode ∧ (t.core c).readyQ = x.readyQ ∧ t.ctxs = s.ctxs) ∧
  (injOk s v = true → Gives (.injectError v) s ({ s with mem := { s.mem with armed := s.mem.armed ++ [v] } }).tick) ∧
  (dval s 0x4001 1 ≠ 1 → Gives (.injectError v) s s.tick)
end

