-- ==== Sys2Proof/Laws/Blocks.lean ====
section
/-! SUPPORT. What some shared operations of the blocks do, said once: the arrays by set and way, the control store, GC writes, the
flit times of a port, and the lanes of a codeword set. -/

namespace Sys2Proof.Machine

/-! ## Arrays by set and way (R248): refused in every mode but SELFTEST -/

@[simp] theorem arrayRead_refused (s : State) (a : ArrayId) (set way : Nat) (h : s.mg.mode ≠ .selftest) : arrayRead s a set way = none := by
  simp [arrayRead, h]

@[simp] theorem arrayInvalidate_refused (s : State) (a : ArrayId) (set way : Nat) (h : s.mg.mode ≠ .selftest) : arrayInvalidate s a set way = s := by
  simp [arrayInvalidate, h]

@[simp] theorem arrayWrite_refused (s : State) (a : ArrayId) (way line : Nat) (e : ArrayEntry) (h : s.mg.mode ≠ .selftest) :
    arrayWrite s a way line e = s := by
  simp [arrayWrite, h]

theorem dropEntry_mg (s : State) (a : ArrayId) (line : Nat) : (dropEntry s a line).mg = s.mg := by
  cases a <;> rfl

/-! ## The control store (R190, R191) -/

/-- A microaddress of Flashing is never redirected. -/
theorem flashRedirect_flashing (t : Tile) (a : BitVec 15) (h : a.getLsbD 14 = true) : flashRedirect t a = a := by
  simp [flashRedirect, h]

/-- Without a bad word in the tile's Flashing no instruction meets a parity error. -/
theorem microBad_none (s : State) (x : Exec) (o : Op) (h : flashBad (s.tile (tileOf (xcore x))) = false) : microBad s x o = none := by
  simp [microBad, h]

@[simp] theorem flashBad_clear (t : Tile) : flashBad { t with micro := [], nano := [] } = false := rfl

/-! ## GC writes (R258) -/

/-- An agent that has applied the write in progress applies nothing. -/
theorem applyGc_applied (s : State) (agent : Nat) (h : agent ∉ s.gcLag) : applyGc s agent = s := by
  simp [applyGc, h]

theorem applyGc_frame (s : State) (agent : Nat) : ∃ l, applyGc s agent = { s with gcLag := l } ∧ ∀ a ∈ l, a ∈ s.gcLag := by
  unfold applyGc
  split
  · exact ⟨_, rfl, fun a h => (List.mem_filter.mp h).1⟩
  · exact ⟨_, rfl, fun a h => h⟩

/-! ## Flit times (R330) -/

/-- A port that is not up sends nothing. -/
@[simp] theorem flitTime_down (s : State) (p : Nat) (h : (s.port p).st ≠ .up) : flitTime s p = s := by
  simp [flitTime, h]

/-! ## Lanes (R324) -/

theorem laneBytes_length (set : List (BitVec 8)) (k : Nat) : (laneBytes set k).length = 640 := by simp [laneBytes]

theorem laneBytes_get (set : List (BitVec 8)) (k b : Nat) (h : b < 640) : (laneBytes set k).getD b 0 = set.getD (4 * b + k) 0 := by
  simp [laneBytes, List.getD_eq_getElem?_getD, h]

/-- Joining the four lanes of a codeword set gives the set. -/
theorem joinLanes_laneBytes (set : List (BitVec 8)) (h : set.length = 2560) : joinLanes ((List.range 4).map (laneBytes set)) = set := by
  apply List.ext_getElem (by simp [joinLanes, h])
  intro j hj hs
  have hl : j < 2560 := by simpa [joinLanes] using hj
  have hm : j % 4 < 4 := Nat.mod_lt _ (by decide)
  have hd : 4 * (j / 4) + j % 4 = j := Nat.div_add_mod j 4
  have : ((List.range 4).map (laneBytes set)).getD (j % 4) [] = laneBytes set (j % 4) := by
    simp [List.getD_eq_getElem?_getD, hm]
  simp only [joinLanes, List.getElem_map, List.getElem_range, this]
  rw [laneBytes_get set _ _ (by omega), hd]
  simp [List.getD_eq_getElem?_getD, hs]

end Sys2Proof.Machine
end

