-- ==== Sys2Proof/Laws/Tbl.lean ====
section
/-! SUPPORT. Tables: what is read after a write or a removal, and that the words of memory keep their canonical form. -/

namespace Sys2Proof.Machine

variable {α : Type}

@[simp] theorem tget_tset_same (t : Tbl α) (k : Nat) (v : α) : tget (tset t k v) k = some v := by
  induction t with
  | nil => simp [tset, tget]
  | cons p r ih =>
    obtain ⟨j, u⟩ := p
    simp only [tset]
    split
    · simp [tget]
    · split
      · simp [tget]
      · simp [tget, *]

@[simp] theorem tget_tset_ne (t : Tbl α) {k j : Nat} (v : α) (h : j ≠ k) : tget (tset t k v) j = tget t j := by
  induction t with
  | nil => simp [tset, tget, h.symm]
  | cons p r ih =>
    obtain ⟨i, u⟩ := p
    simp only [tset]
    split
    · simp [tget, h.symm]
    · split
      · rename_i e
        subst e
        simp [tget, h.symm]
      · simp [tget, ih]

theorem tget_tset (t : Tbl α) (k j : Nat) (v : α) : tget (tset t k v) j = if j = k then some v else tget t j := by
  split
  · next h => subst h; simp
  · next h => simp [h]

@[simp] theorem tgetD_tset_same (t : Tbl α) (k : Nat) (v d : α) : tgetD (tset t k v) k d = v := by simp [tgetD]

@[simp] theorem tgetD_tset_ne (t : Tbl α) {k j : Nat} (v d : α) (h : j ≠ k) : tgetD (tset t k v) j d = tgetD t j d := by
  simp [tgetD, h]

theorem tgetD_tset (t : Tbl α) (k j : Nat) (v d : α) : tgetD (tset t k v) j d = if j = k then v else tgetD t j d := by
  split
  · next h => subst h; simp
  · next h => simp [h]

@[simp] theorem tgetD_nil (k : Nat) (d : α) : tgetD ([] : Tbl α) k d = d := rfl

@[simp] theorem tset_tset (t : Tbl α) (k : Nat) (u v : α) : tset (tset t k u) k v = tset t k v := by
  induction t with
  | nil => simp [tset]
  | cons p r ih =>
    obtain ⟨j, x⟩ := p
    simp only [tset]
    split
    · simp [tset]
    · split
      · simp [tset]
      · simp [tset, *]

theorem tget_tdel_ne (t : Tbl α) {k j : Nat} (h : j ≠ k) : tget (tdel t k) j = tget t j := by
  induction t with
  | nil => rfl
  | cons p r ih =>
    obtain ⟨i, u⟩ := p
    simp only [tdel]
    split
    · next e => subst e; simp [tget, h.symm]
    · simp [tget, ih]

/-! ## The canonical form of memory words -/

theorem memWfFrom_mono {lost t : Tbl W} {a b : Nat} (h : b ≤ a) (w : memWfFrom lost t a = true) : memWfFrom lost t b = true := by
  cases t with
  | nil => rfl
  | cons p r =>
    simp only [memWfFrom, Bool.and_eq_true, decide_eq_true_eq] at w ⊢
    exact ⟨⟨h.trans w.1.1, w.1.2⟩, w.2⟩

theorem memWfFrom_tget_lt {lost t : Tbl W} {lo k : Nat} (w : memWfFrom lost t lo = true) (h : k < lo) : tget t k = none := by
  induction t generalizing lo with
  | nil => rfl
  | cons p r ih =>
    obtain ⟨j, u⟩ := p
    simp only [memWfFrom, Bool.and_eq_true, decide_eq_true_eq] at w
    simp only [tget]
    rw [if_neg (by omega)]
    exact ih w.2 (by omega)

theorem memWfFrom_tdel {lost t : Tbl W} {lo : Nat} (k : Nat) (w : memWfFrom lost t lo = true) : memWfFrom lost (tdel t k) lo = true := by
  induction t generalizing lo with
  | nil => rfl
  | cons p r ih =>
    obtain ⟨j, u⟩ := p
    simp only [memWfFrom, Bool.and_eq_true, decide_eq_true_eq] at w
    simp only [tdel]
    split
    · exact memWfFrom_mono (by omega) w.2
    · simp only [memWfFrom, Bool.and_eq_true, decide_eq_true_eq]
      exact ⟨w.1, ih w.2⟩

theorem memWfFrom_tset {lost t : Tbl W} {lo k : Nat} {v : W} (hk : lo ≤ k) (hv : v ≠ dfltW lost k) (w : memWfFrom lost t lo = true) :
    memWfFrom lost (tset t k v) lo = true := by
  induction t generalizing lo with
  | nil => simp [tset, memWfFrom, hk, hv]
  | cons p r ih =>
    obtain ⟨j, u⟩ := p
    simp only [memWfFrom, Bool.and_eq_true, decide_eq_true_eq] at w
    simp only [tset]
    split
    · simp only [memWfFrom, Bool.and_eq_true, decide_eq_true_eq]
      exact ⟨⟨hk, hv⟩, ⟨by omega, w.1.2⟩, w.2⟩
    · split
      · next e =>
        subst e
        simp only [memWfFrom, Bool.and_eq_true, decide_eq_true_eq]
        exact ⟨⟨hk, hv⟩, w.2⟩
      · simp only [memWfFrom, Bool.and_eq_true, decide_eq_true_eq]
        exact ⟨w.1, ih (by omega) w.2⟩

/-- Every write of a word of memory keeps the canonical form. -/
theorem memPut_wf {lost t : Tbl W} (k : Nat) (v : W) (w : memWfFrom lost t 0 = true) : memWfFrom lost (memPut lost t k v) 0 = true := by
  unfold memPut
  split
  · exact memWfFrom_tdel k w
  · next h => exact memWfFrom_tset (Nat.zero_le k) h w

/-- The word that was written is read back. -/
theorem tget_tdel_same {lost t : Tbl W} {lo k : Nat} (w : memWfFrom lost t lo = true) : tget (tdel t k) k = none := by
  induction t generalizing lo with
  | nil => rfl
  | cons p r ih =>
    obtain ⟨j, u⟩ := p
    simp only [memWfFrom, Bool.and_eq_true, decide_eq_true_eq] at w
    simp only [tdel]
    split
    · next e => subst e; exact memWfFrom_tget_lt w.2 (by omega)
    · next e => simp only [tget, if_neg e]; exact ih w.2

theorem memPut_same {lost t : Tbl W} {k : Nat} {v : W} (w : memWfFrom lost t 0 = true) : tgetD (memPut lost t k v) k (dfltW lost k) = v := by
  unfold memPut
  split
  · next h => simp [tgetD, tget_tdel_same w, h]
  · simp

theorem memPut_ne (lost t : Tbl W) {k j : Nat} (v : W) (h : j ≠ k) : tgetD (memPut lost t k v) j (dfltW lost j) = tgetD t j (dfltW lost j) := by
  unfold memPut
  split
  · simp [tgetD, tget_tdel_ne _ h]
  · simp [h]

theorem reset_memory_wf : Memory.wf State.reset.mem = true := rfl

end Sys2Proof.Machine
end

