-- ==== Sys2Proof/Laws/State.lean ====
section
/-! SUPPORT. What each named update of State leaves: one lemma per field and update, true by `rfl`, and what the readers of
the tables answer after an update. -/

namespace Sys2Proof.Machine

@[simp] theorem State.setCtx_pending (s : State) (n : Nat) (c : Ctx) : (s.setCtx n c).pending = s.pending := rfl
@[simp] theorem State.setCtx_free (s : State) (n : Nat) (c : Ctx) : (s.setCtx n c).free = s.free := rfl
@[simp] theorem State.setCtx_seq (s : State) (n : Nat) (c : Ctx) : (s.setCtx n c).seq = s.seq := rfl
@[simp] theorem State.setCtx_cores (s : State) (n : Nat) (c : Ctx) : (s.setCtx n c).cores = s.cores := rfl
@[simp] theorem State.setCtx_tiles (s : State) (n : Nat) (c : Ctx) : (s.setCtx n c).tiles = s.tiles := rfl
@[simp] theorem State.setCtx_mem (s : State) (n : Nat) (c : Ctx) : (s.setCtx n c).mem = s.mem := rfl
@[simp] theorem State.setCtx_mesh (s : State) (n : Nat) (c : Ctx) : (s.setCtx n c).mesh = s.mesh := rfl
@[simp] theorem State.setCtx_tlbs (s : State) (n : Nat) (c : Ctx) : (s.setCtx n c).tlbs = s.tlbs := rfl
@[simp] theorem State.setCtx_tlbis (s : State) (n : Nat) (c : Ctx) : (s.setCtx n c).tlbis = s.tlbis := rfl
@[simp] theorem State.setCtx_nextTlbi (s : State) (n : Nat) (c : Ctx) : (s.setCtx n c).nextTlbi = s.nextTlbi := rfl
@[simp] theorem State.setCtx_ws (s : State) (n : Nat) (c : Ctx) : (s.setCtx n c).ws = s.ws := rfl
@[simp] theorem State.setCtx_wj (s : State) (n : Nat) (c : Ctx) : (s.setCtx n c).wj = s.wj := rfl
@[simp] theorem State.setCtx_gcLag (s : State) (n : Nat) (c : Ctx) : (s.setCtx n c).gcLag = s.gcLag := rfl
@[simp] theorem State.setCtx_gcBy (s : State) (n : Nat) (c : Ctx) : (s.setCtx n c).gcBy = s.gcBy := rfl
@[simp] theorem State.setCtx_svc (s : State) (n : Nat) (c : Ctx) : (s.setCtx n c).svc = s.svc := rfl
@[simp] theorem State.setCtx_remote (s : State) (n : Nat) (c : Ctx) : (s.setCtx n c).remote = s.remote := rfl
@[simp] theorem State.setCtx_ports (s : State) (n : Nat) (c : Ctx) : (s.setCtx n c).ports = s.ports := rfl
@[simp] theorem State.setCtx_groups (s : State) (n : Nat) (c : Ctx) : (s.setCtx n c).groups = s.groups := rfl
@[simp] theorem State.setCtx_collNote (s : State) (n : Nat) (c : Ctx) : (s.setCtx n c).collNote = s.collNote := rfl
@[simp] theorem State.setCtx_chans (s : State) (n : Nat) (c : Ctx) : (s.setCtx n c).chans = s.chans := rfl
@[simp] theorem State.setCtx_grants (s : State) (n : Nat) (c : Ctx) : (s.setCtx n c).grants = s.grants := rfl
@[simp] theorem State.setCtx_grantPtr (s : State) (n : Nat) (c : Ctx) : (s.setCtx n c).grantPtr = s.grantPtr := rfl
@[simp] theorem State.setCtx_seqs (s : State) (n : Nat) (c : Ctx) : (s.setCtx n c).seqs = s.seqs := rfl
@[simp] theorem State.setCtx_host (s : State) (n : Nat) (c : Ctx) : (s.setCtx n c).host = s.host := rfl
@[simp] theorem State.setCtx_mg (s : State) (n : Nat) (c : Ctx) : (s.setCtx n c).mg = s.mg := rfl
@[simp] theorem State.setCtx_sark (s : State) (n : Nat) (c : Ctx) : (s.setCtx n c).sark = s.sark := rfl
@[simp] theorem State.setCtx_pins (s : State) (n : Nat) (c : Ctx) : (s.setCtx n c).pins = s.pins := rfl

@[simp] theorem State.setCore_pending (s : State) (n : Nat) (c : Core) : (s.setCore n c).pending = s.pending := rfl
@[simp] theorem State.setCore_free (s : State) (n : Nat) (c : Core) : (s.setCore n c).free = s.free := rfl
@[simp] theorem State.setCore_seq (s : State) (n : Nat) (c : Core) : (s.setCore n c).seq = s.seq := rfl
@[simp] theorem State.setCore_ctxs (s : State) (n : Nat) (c : Core) : (s.setCore n c).ctxs = s.ctxs := rfl
@[simp] theorem State.setCore_tiles (s : State) (n : Nat) (c : Core) : (s.setCore n c).tiles = s.tiles := rfl
@[simp] theorem State.setCore_mem (s : State) (n : Nat) (c : Core) : (s.setCore n c).mem = s.mem := rfl
@[simp] theorem State.setCore_mesh (s : State) (n : Nat) (c : Core) : (s.setCore n c).mesh = s.mesh := rfl
@[simp] theorem State.setCore_tlbs (s : State) (n : Nat) (c : Core) : (s.setCore n c).tlbs = s.tlbs := rfl
@[simp] theorem State.setCore_tlbis (s : State) (n : Nat) (c : Core) : (s.setCore n c).tlbis = s.tlbis := rfl
@[simp] theorem State.setCore_nextTlbi (s : State) (n : Nat) (c : Core) : (s.setCore n c).nextTlbi = s.nextTlbi := rfl
@[simp] theorem State.setCore_ws (s : State) (n : Nat) (c : Core) : (s.setCore n c).ws = s.ws := rfl
@[simp] theorem State.setCore_wj (s : State) (n : Nat) (c : Core) : (s.setCore n c).wj = s.wj := rfl
@[simp] theorem State.setCore_gcLag (s : State) (n : Nat) (c : Core) : (s.setCore n c).gcLag = s.gcLag := rfl
@[simp] theorem State.setCore_gcBy (s : State) (n : Nat) (c : Core) : (s.setCore n c).gcBy = s.gcBy := rfl
@[simp] theorem State.setCore_svc (s : State) (n : Nat) (c : Core) : (s.setCore n c).svc = s.svc := rfl
@[simp] theorem State.setCore_remote (s : State) (n : Nat) (c : Core) : (s.setCore n c).remote = s.remote := rfl
@[simp] theorem State.setCore_ports (s : State) (n : Nat) (c : Core) : (s.setCore n c).ports = s.ports := rfl
@[simp] theorem State.setCore_groups (s : State) (n : Nat) (c : Core) : (s.setCore n c).groups = s.groups := rfl
@[simp] theorem State.setCore_collNote (s : State) (n : Nat) (c : Core) : (s.setCore n c).collNote = s.collNote := rfl
@[simp] theorem State.setCore_chans (s : State) (n : Nat) (c : Core) : (s.setCore n c).chans = s.chans := rfl
@[simp] theorem State.setCore_grants (s : State) (n : Nat) (c : Core) : (s.setCore n c).grants = s.grants := rfl
@[simp] theorem State.setCore_grantPtr (s : State) (n : Nat) (c : Core) : (s.setCore n c).grantPtr = s.grantPtr := rfl
@[simp] theorem State.setCore_seqs (s : State) (n : Nat) (c : Core) : (s.setCore n c).seqs = s.seqs := rfl
@[simp] theorem State.setCore_host (s : State) (n : Nat) (c : Core) : (s.setCore n c).host = s.host := rfl
@[simp] theorem State.setCore_mg (s : State) (n : Nat) (c : Core) : (s.setCore n c).mg = s.mg := rfl
@[simp] theorem State.setCore_sark (s : State) (n : Nat) (c : Core) : (s.setCore n c).sark = s.sark := rfl
@[simp] theorem State.setCore_pins (s : State) (n : Nat) (c : Core) : (s.setCore n c).pins = s.pins := rfl

@[simp] theorem State.setTile_pending (s : State) (n : Nat) (t : Tile) : (s.setTile n t).pending = s.pending := rfl
@[simp] theorem State.setTile_free (s : State) (n : Nat) (t : Tile) : (s.setTile n t).free = s.free := rfl
@[simp] theorem State.setTile_seq (s : State) (n : Nat) (t : Tile) : (s.setTile n t).seq = s.seq := rfl
@[simp] theorem State.setTile_ctxs (s : State) (n : Nat) (t : Tile) : (s.setTile n t).ctxs = s.ctxs := rfl
@[simp] theorem State.setTile_cores (s : State) (n : Nat) (t : Tile) : (s.setTile n t).cores = s.cores := rfl
@[simp] theorem State.setTile_mem (s : State) (n : Nat) (t : Tile) : (s.setTile n t).mem = s.mem := rfl
@[simp] theorem State.setTile_mesh (s : State) (n : Nat) (t : Tile) : (s.setTile n t).mesh = s.mesh := rfl
@[simp] theorem State.setTile_tlbs (s : State) (n : Nat) (t : Tile) : (s.setTile n t).tlbs = s.tlbs := rfl
@[simp] theorem State.setTile_tlbis (s : State) (n : Nat) (t : Tile) : (s.setTile n t).tlbis = s.tlbis := rfl
@[simp] theorem State.setTile_nextTlbi (s : State) (n : Nat) (t : Tile) : (s.setTile n t).nextTlbi = s.nextTlbi := rfl
@[simp] theorem State.setTile_ws (s : State) (n : Nat) (t : Tile) : (s.setTile n t).ws = s.ws := rfl
@[simp] theorem State.setTile_wj (s : State) (n : Nat) (t : Tile) : (s.setTile n t).wj = s.wj := rfl
@[simp] theorem State.setTile_gcLag (s : State) (n : Nat) (t : Tile) : (s.setTile n t).gcLag = s.gcLag := rfl
@[simp] theorem State.setTile_gcBy (s : State) (n : Nat) (t : Tile) : (s.setTile n t).gcBy = s.gcBy := rfl
@[simp] theorem State.setTile_svc (s : State) (n : Nat) (t : Tile) : (s.setTile n t).svc = s.svc := rfl
@[simp] theorem State.setTile_remote (s : State) (n : Nat) (t : Tile) : (s.setTile n t).remote = s.remote := rfl
@[simp] theorem State.setTile_ports (s : State) (n : Nat) (t : Tile) : (s.setTile n t).ports = s.ports := rfl
@[simp] theorem State.setTile_groups (s : State) (n : Nat) (t : Tile) : (s.setTile n t).groups = s.groups := rfl
@[simp] theorem State.setTile_collNote (s : State) (n : Nat) (t : Tile) : (s.setTile n t).collNote = s.collNote := rfl
@[simp] theorem State.setTile_chans (s : State) (n : Nat) (t : Tile) : (s.setTile n t).chans = s.chans := rfl
@[simp] theorem State.setTile_grants (s : State) (n : Nat) (t : Tile) : (s.setTile n t).grants = s.grants := rfl
@[simp] theorem State.setTile_grantPtr (s : State) (n : Nat) (t : Tile) : (s.setTile n t).grantPtr = s.grantPtr := rfl
@[simp] theorem State.setTile_seqs (s : State) (n : Nat) (t : Tile) : (s.setTile n t).seqs = s.seqs := rfl
@[simp] theorem State.setTile_host (s : State) (n : Nat) (t : Tile) : (s.setTile n t).host = s.host := rfl
@[simp] theorem State.setTile_mg (s : State) (n : Nat) (t : Tile) : (s.setTile n t).mg = s.mg := rfl
@[simp] theorem State.setTile_sark (s : State) (n : Nat) (t : Tile) : (s.setTile n t).sark = s.sark := rfl
@[simp] theorem State.setTile_pins (s : State) (n : Nat) (t : Tile) : (s.setTile n t).pins = s.pins := rfl

@[simp] theorem State.setChan_pending (s : State) (n : Nat) (c : Chan) : (s.setChan n c).pending = s.pending := rfl
@[simp] theorem State.setChan_free (s : State) (n : Nat) (c : Chan) : (s.setChan n c).free = s.free := rfl
@[simp] theorem State.setChan_seq (s : State) (n : Nat) (c : Chan) : (s.setChan n c).seq = s.seq := rfl
@[simp] theorem State.setChan_ctxs (s : State) (n : Nat) (c : Chan) : (s.setChan n c).ctxs = s.ctxs := rfl
@[simp] theorem State.setChan_cores (s : State) (n : Nat) (c : Chan) : (s.setChan n c).cores = s.cores := rfl
@[simp] theorem State.setChan_tiles (s : State) (n : Nat) (c : Chan) : (s.setChan n c).tiles = s.tiles := rfl
@[simp] theorem State.setChan_mem (s : State) (n : Nat) (c : Chan) : (s.setChan n c).mem = s.mem := rfl
@[simp] theorem State.setChan_mesh (s : State) (n : Nat) (c : Chan) : (s.setChan n c).mesh = s.mesh := rfl
@[simp] theorem State.setChan_tlbs (s : State) (n : Nat) (c : Chan) : (s.setChan n c).tlbs = s.tlbs := rfl
@[simp] theorem State.setChan_tlbis (s : State) (n : Nat) (c : Chan) : (s.setChan n c).tlbis = s.tlbis := rfl
@[simp] theorem State.setChan_nextTlbi (s : State) (n : Nat) (c : Chan) : (s.setChan n c).nextTlbi = s.nextTlbi := rfl
@[simp] theorem State.setChan_ws (s : State) (n : Nat) (c : Chan) : (s.setChan n c).ws = s.ws := rfl
@[simp] theorem State.setChan_wj (s : State) (n : Nat) (c : Chan) : (s.setChan n c).wj = s.wj := rfl
@[simp] theorem State.setChan_gcLag (s : State) (n : Nat) (c : Chan) : (s.setChan n c).gcLag = s.gcLag := rfl
@[simp] theorem State.setChan_gcBy (s : State) (n : Nat) (c : Chan) : (s.setChan n c).gcBy = s.gcBy := rfl
@[simp] theorem State.setChan_svc (s : State) (n : Nat) (c : Chan) : (s.setChan n c).svc = s.svc := rfl
@[simp] theorem State.setChan_remote (s : State) (n : Nat) (c : Chan) : (s.setChan n c).remote = s.remote := rfl
@[simp] theorem State.setChan_ports (s : State) (n : Nat) (c : Chan) : (s.setChan n c).ports = s.ports := rfl
@[simp] theorem State.setChan_groups (s : State) (n : Nat) (c : Chan) : (s.setChan n c).groups = s.groups := rfl
@[simp] theorem State.setChan_collNote (s : State) (n : Nat) (c : Chan) : (s.setChan n c).collNote = s.collNote := rfl
@[simp] theorem State.setChan_grants (s : State) (n : Nat) (c : Chan) : (s.setChan n c).grants = s.grants := rfl
@[simp] theorem State.setChan_grantPtr (s : State) (n : Nat) (c : Chan) : (s.setChan n c).grantPtr = s.grantPtr := rfl
@[simp] theorem State.setChan_seqs (s : State) (n : Nat) (c : Chan) : (s.setChan n c).seqs = s.seqs := rfl
@[simp] theorem State.setChan_host (s : State) (n : Nat) (c : Chan) : (s.setChan n c).host = s.host := rfl
@[simp] theorem State.setChan_mg (s : State) (n : Nat) (c : Chan) : (s.setChan n c).mg = s.mg := rfl
@[simp] theorem State.setChan_sark (s : State) (n : Nat) (c : Chan) : (s.setChan n c).sark = s.sark := rfl
@[simp] theorem State.setChan_pins (s : State) (n : Nat) (c : Chan) : (s.setChan n c).pins = s.pins := rfl

@[simp] theorem State.setSq_pending (s : State) (n : Nat) (q : Seq) : (s.setSq n q).pending = s.pending := rfl
@[simp] theorem State.setSq_free (s : State) (n : Nat) (q : Seq) : (s.setSq n q).free = s.free := rfl
@[simp] theorem State.setSq_seq (s : State) (n : Nat) (q : Seq) : (s.setSq n q).seq = s.seq := rfl
@[simp] theorem State.setSq_ctxs (s : State) (n : Nat) (q : Seq) : (s.setSq n q).ctxs = s.ctxs := rfl
@[simp] theorem State.setSq_cores (s : State) (n : Nat) (q : Seq) : (s.setSq n q).cores = s.cores := rfl
@[simp] theorem State.setSq_tiles (s : State) (n : Nat) (q : Seq) : (s.setSq n q).tiles = s.tiles := rfl
@[simp] theorem State.setSq_mem (s : State) (n : Nat) (q : Seq) : (s.setSq n q).mem = s.mem := rfl
@[simp] theorem State.setSq_mesh (s : State) (n : Nat) (q : Seq) : (s.setSq n q).mesh = s.mesh := rfl
@[simp] theorem State.setSq_tlbs (s : State) (n : Nat) (q : Seq) : (s.setSq n q).tlbs = s.tlbs := rfl
@[simp] theorem State.setSq_tlbis (s : State) (n : Nat) (q : Seq) : (s.setSq n q).tlbis = s.tlbis := rfl
@[simp] theorem State.setSq_nextTlbi (s : State) (n : Nat) (q : Seq) : (s.setSq n q).nextTlbi = s.nextTlbi := rfl
@[simp] theorem State.setSq_ws (s : State) (n : Nat) (q : Seq) : (s.setSq n q).ws = s.ws := rfl
@[simp] theorem State.setSq_wj (s : State) (n : Nat) (q : Seq) : (s.setSq n q).wj = s.wj := rfl
@[simp] theorem State.setSq_gcLag (s : State) (n : Nat) (q : Seq) : (s.setSq n q).gcLag = s.gcLag := rfl
@[simp] theorem State.setSq_gcBy (s : State) (n : Nat) (q : Seq) : (s.setSq n q).gcBy = s.gcBy := rfl
@[simp] theorem State.setSq_svc (s : State) (n : Nat) (q : Seq) : (s.setSq n q).svc = s.svc := rfl
@[simp] theorem State.setSq_remote (s : State) (n : Nat) (q : Seq) : (s.setSq n q).remote = s.remote := rfl
@[simp] theorem State.setSq_ports (s : State) (n : Nat) (q : Seq) : (s.setSq n q).ports = s.ports := rfl
@[simp] theorem State.setSq_groups (s : State) (n : Nat) (q : Seq) : (s.setSq n q).groups = s.groups := rfl
@[simp] theorem State.setSq_collNote (s : State) (n : Nat) (q : Seq) : (s.setSq n q).collNote = s.collNote := rfl
@[simp] theorem State.setSq_chans (s : State) (n : Nat) (q : Seq) : (s.setSq n q).chans = s.chans := rfl
@[simp] theorem State.setSq_grants (s : State) (n : Nat) (q : Seq) : (s.setSq n q).grants = s.grants := rfl
@[simp] theorem State.setSq_grantPtr (s : State) (n : Nat) (q : Seq) : (s.setSq n q).grantPtr = s.grantPtr := rfl
@[simp] theorem State.setSq_host (s : State) (n : Nat) (q : Seq) : (s.setSq n q).host = s.host := rfl
@[simp] theorem State.setSq_mg (s : State) (n : Nat) (q : Seq) : (s.setSq n q).mg = s.mg := rfl
@[simp] theorem State.setSq_sark (s : State) (n : Nat) (q : Seq) : (s.setSq n q).sark = s.sark := rfl
@[simp] theorem State.setSq_pins (s : State) (n : Nat) (q : Seq) : (s.setSq n q).pins = s.pins := rfl

@[simp] theorem State.setPort_pending (s : State) (n : Nat) (p : Port) : (s.setPort n p).pending = s.pending := rfl
@[simp] theorem State.setPort_free (s : State) (n : Nat) (p : Port) : (s.setPort n p).free = s.free := rfl
@[simp] theorem State.setPort_seq (s : State) (n : Nat) (p : Port) : (s.setPort n p).seq = s.seq := rfl
@[simp] theorem State.setPort_ctxs (s : State) (n : Nat) (p : Port) : (s.setPort n p).ctxs = s.ctxs := rfl
@[simp] theorem State.setPort_cores (s : State) (n : Nat) (p : Port) : (s.setPort n p).cores = s.cores := rfl
@[simp] theorem State.setPort_tiles (s : State) (n : Nat) (p : Port) : (s.setPort n p).tiles = s.tiles := rfl
@[simp] theorem State.setPort_mem (s : State) (n : Nat) (p : Port) : (s.setPort n p).mem = s.mem := rfl
@[simp] theorem State.setPort_mesh (s : State) (n : Nat) (p : Port) : (s.setPort n p).mesh = s.mesh := rfl
@[simp] theorem State.setPort_tlbs (s : State) (n : Nat) (p : Port) : (s.setPort n p).tlbs = s.tlbs := rfl
@[simp] theorem State.setPort_tlbis (s : State) (n : Nat) (p : Port) : (s.setPort n p).tlbis = s.tlbis := rfl
@[simp] theorem State.setPort_nextTlbi (s : State) (n : Nat) (p : Port) : (s.setPort n p).nextTlbi = s.nextTlbi := rfl
@[simp] theorem State.setPort_ws (s : State) (n : Nat) (p : Port) : (s.setPort n p).ws = s.ws := rfl
@[simp] theorem State.setPort_wj (s : State) (n : Nat) (p : Port) : (s.setPort n p).wj = s.wj := rfl
@[simp] theorem State.setPort_gcLag (s : State) (n : Nat) (p : Port) : (s.setPort n p).gcLag = s.gcLag := rfl
@[simp] theorem State.setPort_gcBy (s : State) (n : Nat) (p : Port) : (s.setPort n p).gcBy = s.gcBy := rfl
@[simp] theorem State.setPort_svc (s : State) (n : Nat) (p : Port) : (s.setPort n p).svc = s.svc := rfl
@[simp] theorem State.setPort_remote (s : State) (n : Nat) (p : Port) : (s.setPort n p).remote = s.remote := rfl
@[simp] theorem State.setPort_groups (s : State) (n : Nat) (p : Port) : (s.setPort n p).groups = s.groups := rfl
@[simp] theorem State.setPort_collNote (s : State) (n : Nat) (p : Port) : (s.setPort n p).collNote = s.collNote := rfl
@[simp] theorem State.setPort_chans (s : State) (n : Nat) (p : Port) : (s.setPort n p).chans = s.chans := rfl
@[simp] theorem State.setPort_grants (s : State) (n : Nat) (p : Port) : (s.setPort n p).grants = s.grants := rfl
@[simp] theorem State.setPort_grantPtr (s : State) (n : Nat) (p : Port) : (s.setPort n p).grantPtr = s.grantPtr := rfl
@[simp] theorem State.setPort_seqs (s : State) (n : Nat) (p : Port) : (s.setPort n p).seqs = s.seqs := rfl
@[simp] theorem State.setPort_host (s : State) (n : Nat) (p : Port) : (s.setPort n p).host = s.host := rfl
@[simp] theorem State.setPort_mg (s : State) (n : Nat) (p : Port) : (s.setPort n p).mg = s.mg := rfl
@[simp] theorem State.setPort_sark (s : State) (n : Nat) (p : Port) : (s.setPort n p).sark = s.sark := rfl
@[simp] theorem State.setPort_pins (s : State) (n : Nat) (p : Port) : (s.setPort n p).pins = s.pins := rfl

@[simp] theorem State.setGroup_pending (s : State) (n : Nat) (g : Group) : (s.setGroup n g).pending = s.pending := rfl
@[simp] theorem State.setGroup_free (s : State) (n : Nat) (g : Group) : (s.setGroup n g).free = s.free := rfl
@[simp] theorem State.setGroup_seq (s : State) (n : Nat) (g : Group) : (s.setGroup n g).seq = s.seq := rfl
@[simp] theorem State.setGroup_ctxs (s : State) (n : Nat) (g : Group) : (s.setGroup n g).ctxs = s.ctxs := rfl
@[simp] theorem State.setGroup_cores (s : State) (n : Nat) (g : Group) : (s.setGroup n g).cores = s.cores := rfl
@[simp] theorem State.setGroup_tiles (s : State) (n : Nat) (g : Group) : (s.setGroup n g).tiles = s.tiles := rfl
@[simp] theorem State.setGroup_mem (s : State) (n : Nat) (g : Group) : (s.setGroup n g).mem = s.mem := rfl
@[simp] theorem State.setGroup_mesh (s : State) (n : Nat) (g : Group) : (s.setGroup n g).mesh = s.mesh := rfl
@[simp] theorem State.setGroup_tlbs (s : State) (n : Nat) (g : Group) : (s.setGroup n g).tlbs = s.tlbs := rfl
@[simp] theorem State.setGroup_tlbis (s : State) (n : Nat) (g : Group) : (s.setGroup n g).tlbis = s.tlbis := rfl
@[simp] theorem State.setGroup_nextTlbi (s : State) (n : Nat) (g : Group) : (s.setGroup n g).nextTlbi = s.nextTlbi := rfl
@[simp] theorem State.setGroup_ws (s : State) (n : Nat) (g : Group) : (s.setGroup n g).ws = s.ws := rfl
@[simp] theorem State.setGroup_wj (s : State) (n : Nat) (g : Group) : (s.setGroup n g).wj = s.wj := rfl
@[simp] theorem State.setGroup_gcLag (s : State) (n : Nat) (g : Group) : (s.setGroup n g).gcLag = s.gcLag := rfl
@[simp] theorem State.setGroup_gcBy (s : State) (n : Nat) (g : Group) : (s.setGroup n g).gcBy = s.gcBy := rfl
@[simp] theorem State.setGroup_svc (s : State) (n : Nat) (g : Group) : (s.setGroup n g).svc = s.svc := rfl
@[simp] theorem State.setGroup_remote (s : State) (n : Nat) (g : Group) : (s.setGroup n g).remote = s.remote := rfl
@[simp] theorem State.setGroup_ports (s : State) (n : Nat) (g : Group) : (s.setGroup n g).ports = s.ports := rfl
@[simp] theorem State.setGroup_collNote (s : State) (n : Nat) (g : Group) : (s.setGroup n g).collNote = s.collNote := rfl
@[simp] theorem State.setGroup_chans (s : State) (n : Nat) (g : Group) : (s.setGroup n g).chans = s.chans := rfl
@[simp] theorem State.setGroup_grants (s : State) (n : Nat) (g : Group) : (s.setGroup n g).grants = s.grants := rfl
@[simp] theorem State.setGroup_grantPtr (s : State) (n : Nat) (g : Group) : (s.setGroup n g).grantPtr = s.grantPtr := rfl
@[simp] theorem State.setGroup_seqs (s : State) (n : Nat) (g : Group) : (s.setGroup n g).seqs = s.seqs := rfl
@[simp] theorem State.setGroup_host (s : State) (n : Nat) (g : Group) : (s.setGroup n g).host = s.host := rfl
@[simp] theorem State.setGroup_mg (s : State) (n : Nat) (g : Group) : (s.setGroup n g).mg = s.mg := rfl
@[simp] theorem State.setGroup_sark (s : State) (n : Nat) (g : Group) : (s.setGroup n g).sark = s.sark := rfl
@[simp] theorem State.setGroup_pins (s : State) (n : Nat) (g : Group) : (s.setGroup n g).pins = s.pins := rfl

@[simp] theorem State.setMc_pending (s : State) (n : Nat) (m : Mc) : (s.setMc n m).pending = s.pending := rfl
@[simp] theorem State.setMc_free (s : State) (n : Nat) (m : Mc) : (s.setMc n m).free = s.free := rfl
@[simp] theorem State.setMc_seq (s : State) (n : Nat) (m : Mc) : (s.setMc n m).seq = s.seq := rfl
@[simp] theorem State.setMc_ctxs (s : State) (n : Nat) (m : Mc) : (s.setMc n m).ctxs = s.ctxs := rfl
@[simp] theorem State.setMc_cores (s : State) (n : Nat) (m : Mc) : (s.setMc n m).cores = s.cores := rfl
@[simp] theorem State.setMc_tiles (s : State) (n : Nat) (m : Mc) : (s.setMc n m).tiles = s.tiles := rfl
@[simp] theorem State.setMc_mesh (s : State) (n : Nat) (m : Mc) : (s.setMc n m).mesh = s.mesh := rfl
@[simp] theorem State.setMc_tlbs (s : State) (n : Nat) (m : Mc) : (s.setMc n m).tlbs = s.tlbs := rfl
@[simp] theorem State.setMc_tlbis (s : State) (n : Nat) (m : Mc) : (s.setMc n m).tlbis = s.tlbis := rfl
@[simp] theorem State.setMc_nextTlbi (s : State) (n : Nat) (m : Mc) : (s.setMc n m).nextTlbi = s.nextTlbi := rfl
@[simp] theorem State.setMc_ws (s : State) (n : Nat) (m : Mc) : (s.setMc n m).ws = s.ws := rfl
@[simp] theorem State.setMc_wj (s : State) (n : Nat) (m : Mc) : (s.setMc n m).wj = s.wj := rfl
@[simp] theorem State.setMc_gcLag (s : State) (n : Nat) (m : Mc) : (s.setMc n m).gcLag = s.gcLag := rfl
@[simp] theorem State.setMc_gcBy (s : State) (n : Nat) (m : Mc) : (s.setMc n m).gcBy = s.gcBy := rfl
@[simp] theorem State.setMc_svc (s : State) (n : Nat) (m : Mc) : (s.setMc n m).svc = s.svc := rfl
@[simp] theorem State.setMc_remote (s : State) (n : Nat) (m : Mc) : (s.setMc n m).remote = s.remote := rfl
@[simp] theorem State.setMc_ports (s : State) (n : Nat) (m : Mc) : (s.setMc n m).ports = s.ports := rfl
@[simp] theorem State.setMc_groups (s : State) (n : Nat) (m : Mc) : (s.setMc n m).groups = s.groups := rfl
@[simp] theorem State.setMc_collNote (s : State) (n : Nat) (m : Mc) : (s.setMc n m).collNote = s.collNote := rfl
@[simp] theorem State.setMc_chans (s : State) (n : Nat) (m : Mc) : (s.setMc n m).chans = s.chans := rfl
@[simp] theorem State.setMc_grants (s : State) (n : Nat) (m : Mc) : (s.setMc n m).grants = s.grants := rfl
@[simp] theorem State.setMc_grantPtr (s : State) (n : Nat) (m : Mc) : (s.setMc n m).grantPtr = s.grantPtr := rfl
@[simp] theorem State.setMc_seqs (s : State) (n : Nat) (m : Mc) : (s.setMc n m).seqs = s.seqs := rfl
@[simp] theorem State.setMc_host (s : State) (n : Nat) (m : Mc) : (s.setMc n m).host = s.host := rfl
@[simp] theorem State.setMc_mg (s : State) (n : Nat) (m : Mc) : (s.setMc n m).mg = s.mg := rfl
@[simp] theorem State.setMc_sark (s : State) (n : Nat) (m : Mc) : (s.setMc n m).sark = s.sark := rfl
@[simp] theorem State.setMc_pins (s : State) (n : Nat) (m : Mc) : (s.setMc n m).pins = s.pins := rfl

@[simp] theorem State.tick_pending (s : State)  : (s.tick).pending = s.pending := rfl
@[simp] theorem State.tick_seq (s : State)  : (s.tick).seq = s.seq := rfl
@[simp] theorem State.tick_ctxs (s : State)  : (s.tick).ctxs = s.ctxs := rfl
@[simp] theorem State.tick_cores (s : State)  : (s.tick).cores = s.cores := rfl
@[simp] theorem State.tick_tiles (s : State)  : (s.tick).tiles = s.tiles := rfl
@[simp] theorem State.tick_mem (s : State)  : (s.tick).mem = s.mem := rfl
@[simp] theorem State.tick_mesh (s : State)  : (s.tick).mesh = s.mesh := rfl
@[simp] theorem State.tick_tlbs (s : State)  : (s.tick).tlbs = s.tlbs := rfl
@[simp] theorem State.tick_tlbis (s : State)  : (s.tick).tlbis = s.tlbis := rfl
@[simp] theorem State.tick_nextTlbi (s : State)  : (s.tick).nextTlbi = s.nextTlbi := rfl
@[simp] theorem State.tick_ws (s : State)  : (s.tick).ws = s.ws := rfl
@[simp] theorem State.tick_wj (s : State)  : (s.tick).wj = s.wj := rfl
@[simp] theorem State.tick_gcLag (s : State)  : (s.tick).gcLag = s.gcLag := rfl
@[simp] theorem State.tick_gcBy (s : State)  : (s.tick).gcBy = s.gcBy := rfl
@[simp] theorem State.tick_svc (s : State)  : (s.tick).svc = s.svc := rfl
@[simp] theorem State.tick_remote (s : State)  : (s.tick).remote = s.remote := rfl
@[simp] theorem State.tick_ports (s : State)  : (s.tick).ports = s.ports := rfl
@[simp] theorem State.tick_groups (s : State)  : (s.tick).groups = s.groups := rfl
@[simp] theorem State.tick_collNote (s : State)  : (s.tick).collNote = s.collNote := rfl
@[simp] theorem State.tick_chans (s : State)  : (s.tick).chans = s.chans := rfl
@[simp] theorem State.tick_grants (s : State)  : (s.tick).grants = s.grants := rfl
@[simp] theorem State.tick_grantPtr (s : State)  : (s.tick).grantPtr = s.grantPtr := rfl
@[simp] theorem State.tick_seqs (s : State)  : (s.tick).seqs = s.seqs := rfl
@[simp] theorem State.tick_host (s : State)  : (s.tick).host = s.host := rfl
@[simp] theorem State.tick_mg (s : State)  : (s.tick).mg = s.mg := rfl
@[simp] theorem State.tick_sark (s : State)  : (s.tick).sark = s.sark := rfl
@[simp] theorem State.tick_pins (s : State)  : (s.tick).pins = s.pins := rfl

@[simp] theorem State.setWorld_pending (s : State) (w : World) (v : WorldSt) : (s.setWorld w v).pending = s.pending := by cases w <;> rfl
@[simp] theorem State.setWorld_free (s : State) (w : World) (v : WorldSt) : (s.setWorld w v).free = s.free := by cases w <;> rfl
@[simp] theorem State.setWorld_seq (s : State) (w : World) (v : WorldSt) : (s.setWorld w v).seq = s.seq := by cases w <;> rfl
@[simp] theorem State.setWorld_ctxs (s : State) (w : World) (v : WorldSt) : (s.setWorld w v).ctxs = s.ctxs := by cases w <;> rfl
@[simp] theorem State.setWorld_cores (s : State) (w : World) (v : WorldSt) : (s.setWorld w v).cores = s.cores := by cases w <;> rfl
@[simp] theorem State.setWorld_tiles (s : State) (w : World) (v : WorldSt) : (s.setWorld w v).tiles = s.tiles := by cases w <;> rfl
@[simp] theorem State.setWorld_mem (s : State) (w : World) (v : WorldSt) : (s.setWorld w v).mem = s.mem := by cases w <;> rfl
@[simp] theorem State.setWorld_mesh (s : State) (w : World) (v : WorldSt) : (s.setWorld w v).mesh = s.mesh := by cases w <;> rfl
@[simp] theorem State.setWorld_tlbs (s : State) (w : World) (v : WorldSt) : (s.setWorld w v).tlbs = s.tlbs := by cases w <;> rfl
@[simp] theorem State.setWorld_tlbis (s : State) (w : World) (v : WorldSt) : (s.setWorld w v).tlbis = s.tlbis := by cases w <;> rfl
@[simp] theorem State.setWorld_nextTlbi (s : State) (w : World) (v : WorldSt) : (s.setWorld w v).nextTlbi = s.nextTlbi := by cases w <;> rfl
@[simp] theorem State.setWorld_gcLag (s : State) (w : World) (v : WorldSt) : (s.setWorld w v).gcLag = s.gcLag := by cases w <;> rfl
@[simp] theorem State.setWorld_gcBy (s : State) (w : World) (v : WorldSt) : (s.setWorld w v).gcBy = s.gcBy := by cases w <;> rfl
@[simp] theorem State.setWorld_svc (s : State) (w : World) (v : WorldSt) : (s.setWorld w v).svc = s.svc := by cases w <;> rfl
@[simp] theorem State.setWorld_remote (s : State) (w : World) (v : WorldSt) : (s.setWorld w v).remote = s.remote := by cases w <;> rfl
@[simp] theorem State.setWorld_ports (s : State) (w : World) (v : WorldSt) : (s.setWorld w v).ports = s.ports := by cases w <;> rfl
@[simp] theorem State.setWorld_groups (s : State) (w : World) (v : WorldSt) : (s.setWorld w v).groups = s.groups := by cases w <;> rfl
@[simp] theorem State.setWorld_collNote (s : State) (w : World) (v : WorldSt) : (s.setWorld w v).collNote = s.collNote := by cases w <;> rfl
@[simp] theorem State.setWorld_chans (s : State) (w : World) (v : WorldSt) : (s.setWorld w v).chans = s.chans := by cases w <;> rfl
@[simp] theorem State.setWorld_grants (s : State) (w : World) (v : WorldSt) : (s.setWorld w v).grants = s.grants := by cases w <;> rfl
@[simp] theorem State.setWorld_grantPtr (s : State) (w : World) (v : WorldSt) : (s.setWorld w v).grantPtr = s.grantPtr := by cases w <;> rfl
@[simp] theorem State.setWorld_seqs (s : State) (w : World) (v : WorldSt) : (s.setWorld w v).seqs = s.seqs := by cases w <;> rfl
@[simp] theorem State.setWorld_host (s : State) (w : World) (v : WorldSt) : (s.setWorld w v).host = s.host := by cases w <;> rfl
@[simp] theorem State.setWorld_mg (s : State) (w : World) (v : WorldSt) : (s.setWorld w v).mg = s.mg := by cases w <;> rfl
@[simp] theorem State.setWorld_sark (s : State) (w : World) (v : WorldSt) : (s.setWorld w v).sark = s.sark := by cases w <;> rfl
@[simp] theorem State.setWorld_pins (s : State) (w : World) (v : WorldSt) : (s.setWorld w v).pins = s.pins := by cases w <;> rfl

/-! ## Readers after updates -/

@[simp] theorem State.ctx_setCtx_same (s : State) (n : Nat) (c : Ctx) : (s.setCtx n c).ctx n = c := by
  simp [State.ctx, State.setCtx]
theorem State.ctx_setCtx_ne (s : State) {n m : Nat} (c : Ctx) (h : m ≠ n) : (s.setCtx n c).ctx m = s.ctx m := by
  simp [State.ctx, State.setCtx, h]
@[simp] theorem State.core_setCore_same (s : State) (n : Nat) (c : Core) : (s.setCore n c).core n = c := by
  simp [State.core, State.setCore]
theorem State.core_setCore_ne (s : State) {n m : Nat} (c : Core) (h : m ≠ n) : (s.setCore n c).core m = s.core m := by
  simp [State.core, State.setCore, h]
@[simp] theorem State.tile_setTile_same (s : State) (n : Nat) (c : Tile) : (s.setTile n c).tile n = c := by
  simp [State.tile, State.setTile]
theorem State.tile_setTile_ne (s : State) {n m : Nat} (c : Tile) (h : m ≠ n) : (s.setTile n c).tile m = s.tile m := by
  simp [State.tile, State.setTile, h]
@[simp] theorem State.chan_setChan_same (s : State) (n : Nat) (c : Chan) : (s.setChan n c).chan n = c := by
  simp [State.chan, State.setChan]
theorem State.chan_setChan_ne (s : State) {n m : Nat} (c : Chan) (h : m ≠ n) : (s.setChan n c).chan m = s.chan m := by
  simp [State.chan, State.setChan, h]
@[simp] theorem State.sq_setSq_same (s : State) (n : Nat) (c : Seq) : (s.setSq n c).sq n = c := by
  simp [State.sq, State.setSq]
theorem State.sq_setSq_ne (s : State) {n m : Nat} (c : Seq) (h : m ≠ n) : (s.setSq n c).sq m = s.sq m := by
  simp [State.sq, State.setSq, h]
@[simp] theorem State.port_setPort_same (s : State) (n : Nat) (c : Port) : (s.setPort n c).port n = c := by
  simp [State.port, State.setPort]
theorem State.port_setPort_ne (s : State) {n m : Nat} (c : Port) (h : m ≠ n) : (s.setPort n c).port m = s.port m := by
  simp [State.port, State.setPort, h]
@[simp] theorem State.group_setGroup_same (s : State) (n : Nat) (c : Group) : (s.setGroup n c).group n = c := by
  simp [State.group, State.setGroup]
theorem State.group_setGroup_ne (s : State) {n m : Nat} (c : Group) (h : m ≠ n) : (s.setGroup n c).group m = s.group m := by
  simp [State.group, State.setGroup, h]
@[simp] theorem State.ctx_setCore (s : State) (n : Nat) (c : Core) (k : Nat) : (s.setCore n c).ctx k = s.ctx k := rfl
@[simp] theorem State.ctx_setTile (s : State) (n : Nat) (t : Tile) (k : Nat) : (s.setTile n t).ctx k = s.ctx k := rfl
@[simp] theorem State.ctx_tick (s : State)  (k : Nat) : (s.tick).ctx k = s.ctx k := rfl
@[simp] theorem State.core_setCtx (s : State) (n : Nat) (c : Ctx) (k : Nat) : (s.setCtx n c).core k = s.core k := rfl
@[simp] theorem State.core_setTile (s : State) (n : Nat) (t : Tile) (k : Nat) : (s.setTile n t).core k = s.core k := rfl
@[simp] theorem State.core_tick (s : State)  (k : Nat) : (s.tick).core k = s.core k := rfl
@[simp] theorem State.tile_setCtx (s : State) (n : Nat) (c : Ctx) (k : Nat) : (s.setCtx n c).tile k = s.tile k := rfl
@[simp] theorem State.tile_setCore (s : State) (n : Nat) (c : Core) (k : Nat) : (s.setCore n c).tile k = s.tile k := rfl
@[simp] theorem State.tile_tick (s : State)  (k : Nat) : (s.tick).tile k = s.tile k := rfl
@[simp] theorem State.chan_setCtx (s : State) (n : Nat) (c : Ctx) (k : Nat) : (s.setCtx n c).chan k = s.chan k := rfl
@[simp] theorem State.chan_setCore (s : State) (n : Nat) (c : Core) (k : Nat) : (s.setCore n c).chan k = s.chan k := rfl
@[simp] theorem State.chan_setTile (s : State) (n : Nat) (t : Tile) (k : Nat) : (s.setTile n t).chan k = s.chan k := rfl
@[simp] theorem State.chan_tick (s : State)  (k : Nat) : (s.tick).chan k = s.chan k := rfl
@[simp] theorem State.sq_setCtx (s : State) (n : Nat) (c : Ctx) (k : Nat) : (s.setCtx n c).sq k = s.sq k := rfl
@[simp] theorem State.sq_setCore (s : State) (n : Nat) (c : Core) (k : Nat) : (s.setCore n c).sq k = s.sq k := rfl
@[simp] theorem State.sq_setTile (s : State) (n : Nat) (t : Tile) (k : Nat) : (s.setTile n t).sq k = s.sq k := rfl
@[simp] theorem State.sq_tick (s : State)  (k : Nat) : (s.tick).sq k = s.sq k := rfl
@[simp] theorem State.port_setCtx (s : State) (n : Nat) (c : Ctx) (k : Nat) : (s.setCtx n c).port k = s.port k := rfl
@[simp] theorem State.port_setCore (s : State) (n : Nat) (c : Core) (k : Nat) : (s.setCore n c).port k = s.port k := rfl
@[simp] theorem State.port_setTile (s : State) (n : Nat) (t : Tile) (k : Nat) : (s.setTile n t).port k = s.port k := rfl
@[simp] theorem State.port_tick (s : State)  (k : Nat) : (s.tick).port k = s.port k := rfl
@[simp] theorem State.group_setCtx (s : State) (n : Nat) (c : Ctx) (k : Nat) : (s.setCtx n c).group k = s.group k := rfl
@[simp] theorem State.group_setCore (s : State) (n : Nat) (c : Core) (k : Nat) : (s.setCore n c).group k = s.group k := rfl
@[simp] theorem State.group_setTile (s : State) (n : Nat) (t : Tile) (k : Nat) : (s.setTile n t).group k = s.group k := rfl
@[simp] theorem State.group_tick (s : State)  (k : Nat) : (s.tick).group k = s.group k := rfl
theorem State.modCtx_eq (s : State) (n : Nat) (f : Ctx → Ctx) : s.modCtx n f = s.setCtx n (f (s.ctx n)) := rfl
@[simp] theorem State.ctx_modCtx_same (s : State) (n : Nat) (f : Ctx → Ctx) : (s.modCtx n f).ctx n = f (s.ctx n) := by
  simp [State.modCtx]
theorem State.ctx_modCtx_ne (s : State) {n m : Nat} (f : Ctx → Ctx) (h : m ≠ n) : (s.modCtx n f).ctx m = s.ctx m := by
  simp [State.modCtx, State.ctx_setCtx_ne, h]
theorem State.modCore_eq (s : State) (n : Nat) (f : Core → Core) : s.modCore n f = s.setCore n (f (s.core n)) := rfl
@[simp] theorem State.core_modCore_same (s : State) (n : Nat) (f : Core → Core) : (s.modCore n f).core n = f (s.core n) := by
  simp [State.modCore]
theorem State.core_modCore_ne (s : State) {n m : Nat} (f : Core → Core) (h : m ≠ n) : (s.modCore n f).core m = s.core m := by
  simp [State.modCore, State.core_setCore_ne, h]
theorem State.modTile_eq (s : State) (n : Nat) (f : Tile → Tile) : s.modTile n f = s.setTile n (f (s.tile n)) := rfl
@[simp] theorem State.tile_modTile_same (s : State) (n : Nat) (f : Tile → Tile) : (s.modTile n f).tile n = f (s.tile n) := by
  simp [State.modTile]
theorem State.tile_modTile_ne (s : State) {n m : Nat} (f : Tile → Tile) (h : m ≠ n) : (s.modTile n f).tile m = s.tile m := by
  simp [State.modTile, State.tile_setTile_ne, h]
@[simp] theorem State.modCtx_pending (s : State) (n : Nat) (f : Ctx → Ctx) : (s.modCtx n f).pending = s.pending := rfl
@[simp] theorem State.modCtx_free (s : State) (n : Nat) (f : Ctx → Ctx) : (s.modCtx n f).free = s.free := rfl
@[simp] theorem State.modCtx_seq (s : State) (n : Nat) (f : Ctx → Ctx) : (s.modCtx n f).seq = s.seq := rfl
@[simp] theorem State.modCtx_cores (s : State) (n : Nat) (f : Ctx → Ctx) : (s.modCtx n f).cores = s.cores := rfl
@[simp] theorem State.modCtx_tiles (s : State) (n : Nat) (f : Ctx → Ctx) : (s.modCtx n f).tiles = s.tiles := rfl
@[simp] theorem State.modCtx_mem (s : State) (n : Nat) (f : Ctx → Ctx) : (s.modCtx n f).mem = s.mem := rfl
@[simp] theorem State.modCtx_mesh (s : State) (n : Nat) (f : Ctx → Ctx) : (s.modCtx n f).mesh = s.mesh := rfl
@[simp] theorem State.modCtx_tlbs (s : State) (n : Nat) (f : Ctx → Ctx) : (s.modCtx n f).tlbs = s.tlbs := rfl
@[simp] theorem State.modCtx_tlbis (s : State) (n : Nat) (f : Ctx → Ctx) : (s.modCtx n f).tlbis = s.tlbis := rfl
@[simp] theorem State.modCtx_nextTlbi (s : State) (n : Nat) (f : Ctx → Ctx) : (s.modCtx n f).nextTlbi = s.nextTlbi := rfl
@[simp] theorem State.modCtx_ws (s : State) (n : Nat) (f : Ctx → Ctx) : (s.modCtx n f).ws = s.ws := rfl
@[simp] theorem State.modCtx_wj (s : State) (n : Nat) (f : Ctx → Ctx) : (s.modCtx n f).wj = s.wj := rfl
@[simp] theorem State.modCtx_gcLag (s : State) (n : Nat) (f : Ctx → Ctx) : (s.modCtx n f).gcLag = s.gcLag := rfl
@[simp] theorem State.modCtx_gcBy (s : State) (n : Nat) (f : Ctx → Ctx) : (s.modCtx n f).gcBy = s.gcBy := rfl
@[simp] theorem State.modCtx_svc (s : State) (n : Nat) (f : Ctx → Ctx) : (s.modCtx n f).svc = s.svc := rfl
@[simp] theorem State.modCtx_remote (s : State) (n : Nat) (f : Ctx → Ctx) : (s.modCtx n f).remote = s.remote := rfl
@[simp] theorem State.modCtx_ports (s : State) (n : Nat) (f : Ctx → Ctx) : (s.modCtx n f).ports = s.ports := rfl
@[simp] theorem State.modCtx_groups (s : State) (n : Nat) (f : Ctx → Ctx) : (s.modCtx n f).groups = s.groups := rfl
@[simp] theorem State.modCtx_collNote (s : State) (n : Nat) (f : Ctx → Ctx) : (s.modCtx n f).collNote = s.collNote := rfl
@[simp] theorem State.modCtx_chans (s : State) (n : Nat) (f : Ctx → Ctx) : (s.modCtx n f).chans = s.chans := rfl
@[simp] theorem State.modCtx_grants (s : State) (n : Nat) (f : Ctx → Ctx) : (s.modCtx n f).grants = s.grants := rfl
@[simp] theorem State.modCtx_grantPtr (s : State) (n : Nat) (f : Ctx → Ctx) : (s.modCtx n f).grantPtr = s.grantPtr := rfl
@[simp] theorem State.modCtx_seqs (s : State) (n : Nat) (f : Ctx → Ctx) : (s.modCtx n f).seqs = s.seqs := rfl
@[simp] theorem State.modCtx_host (s : State) (n : Nat) (f : Ctx → Ctx) : (s.modCtx n f).host = s.host := rfl
@[simp] theorem State.modCtx_mg (s : State) (n : Nat) (f : Ctx → Ctx) : (s.modCtx n f).mg = s.mg := rfl
@[simp] theorem State.modCtx_sark (s : State) (n : Nat) (f : Ctx → Ctx) : (s.modCtx n f).sark = s.sark := rfl
@[simp] theorem State.modCtx_pins (s : State) (n : Nat) (f : Ctx → Ctx) : (s.modCtx n f).pins = s.pins := rfl
@[simp] theorem State.core_modCtx (s : State) (n : Nat) (f : Ctx → Ctx) (k : Nat) : (s.modCtx n f).core k = s.core k := rfl
@[simp] theorem State.tile_modCtx (s : State) (n : Nat) (f : Ctx → Ctx) (k : Nat) : (s.modCtx n f).tile k = s.tile k := rfl
@[simp] theorem State.chan_modCtx (s : State) (n : Nat) (f : Ctx → Ctx) (k : Nat) : (s.modCtx n f).chan k = s.chan k := rfl
@[simp] theorem State.sq_modCtx (s : State) (n : Nat) (f : Ctx → Ctx) (k : Nat) : (s.modCtx n f).sq k = s.sq k := rfl
@[simp] theorem State.port_modCtx (s : State) (n : Nat) (f : Ctx → Ctx) (k : Nat) : (s.modCtx n f).port k = s.port k := rfl
@[simp] theorem State.group_modCtx (s : State) (n : Nat) (f : Ctx → Ctx) (k : Nat) : (s.modCtx n f).group k = s.group k := rfl
@[simp] theorem State.modCore_pending (s : State) (n : Nat) (f : Core → Core) : (s.modCore n f).pending = s.pending := rfl
@[simp] theorem State.modCore_free (s : State) (n : Nat) (f : Core → Core) : (s.modCore n f).free = s.free := rfl
@[simp] theorem State.modCore_seq (s : State) (n : Nat) (f : Core → Core) : (s.modCore n f).seq = s.seq := rfl
@[simp] theorem State.modCore_ctxs (s : State) (n : Nat) (f : Core → Core) : (s.modCore n f).ctxs = s.ctxs := rfl
@[simp] theorem State.modCore_tiles (s : State) (n : Nat) (f : Core → Core) : (s.modCore n f).tiles = s.tiles := rfl
@[simp] theorem State.modCore_mem (s : State) (n : Nat) (f : Core → Core) : (s.modCore n f).mem = s.mem := rfl
@[simp] theorem State.modCore_mesh (s : State) (n : Nat) (f : Core → Core) : (s.modCore n f).mesh = s.mesh := rfl
@[simp] theorem State.modCore_tlbs (s : State) (n : Nat) (f : Core → Core) : (s.modCore n f).tlbs = s.tlbs := rfl
@[simp] theorem State.modCore_tlbis (s : State) (n : Nat) (f : Core → Core) : (s.modCore n f).tlbis = s.tlbis := rfl
@[simp] theorem State.modCore_nextTlbi (s : State) (n : Nat) (f : Core → Core) : (s.modCore n f).nextTlbi = s.nextTlbi := rfl
@[simp] theorem State.modCore_ws (s : State) (n : Nat) (f : Core → Core) : (s.modCore n f).ws = s.ws := rfl
@[simp] theorem State.modCore_wj (s : State) (n : Nat) (f : Core → Core) : (s.modCore n f).wj = s.wj := rfl
@[simp] theorem State.modCore_gcLag (s : State) (n : Nat) (f : Core → Core) : (s.modCore n f).gcLag = s.gcLag := rfl
@[simp] theorem State.modCore_gcBy (s : State) (n : Nat) (f : Core → Core) : (s.modCore n f).gcBy = s.gcBy := rfl
@[simp] theorem State.modCore_svc (s : State) (n : Nat) (f : Core → Core) : (s.modCore n f).svc = s.svc := rfl
@[simp] theorem State.modCore_remote (s : State) (n : Nat) (f : Core → Core) : (s.modCore n f).remote = s.remote := rfl
@[simp] theorem State.modCore_ports (s : State) (n : Nat) (f : Core → Core) : (s.modCore n f).ports = s.ports := rfl
@[simp] theorem State.modCore_groups (s : State) (n : Nat) (f : Core → Core) : (s.modCore n f).groups = s.groups := rfl
@[simp] theorem State.modCore_collNote (s : State) (n : Nat) (f : Core → Core) : (s.modCore n f).collNote = s.collNote := rfl
@[simp] theorem State.modCore_chans (s : State) (n : Nat) (f : Core → Core) : (s.modCore n f).chans = s.chans := rfl
@[simp] theorem State.modCore_grants (s : State) (n : Nat) (f : Core → Core) : (s.modCore n f).grants = s.grants := rfl
@[simp] theorem State.modCore_grantPtr (s : State) (n : Nat) (f : Core → Core) : (s.modCore n f).grantPtr = s.grantPtr := rfl
@[simp] theorem State.modCore_seqs (s : State) (n : Nat) (f : Core → Core) : (s.modCore n f).seqs = s.seqs := rfl
@[simp] theorem State.modCore_host (s : State) (n : Nat) (f : Core → Core) : (s.modCore n f).host = s.host := rfl
@[simp] theorem State.modCore_mg (s : State) (n : Nat) (f : Core → Core) : (s.modCore n f).mg = s.mg := rfl
@[simp] theorem State.modCore_sark (s : State) (n : Nat) (f : Core → Core) : (s.modCore n f).sark = s.sark := rfl
@[simp] theorem State.modCore_pins (s : State) (n : Nat) (f : Core → Core) : (s.modCore n f).pins = s.pins := rfl
@[simp] theorem State.ctx_modCore (s : State) (n : Nat) (f : Core → Core) (k : Nat) : (s.modCore n f).ctx k = s.ctx k := rfl
@[simp] theorem State.tile_modCore (s : State) (n : Nat) (f : Core → Core) (k : Nat) : (s.modCore n f).tile k = s.tile k := rfl
@[simp] theorem State.chan_modCore (s : State) (n : Nat) (f : Core → Core) (k : Nat) : (s.modCore n f).chan k = s.chan k := rfl
@[simp] theorem State.sq_modCore (s : State) (n : Nat) (f : Core → Core) (k : Nat) : (s.modCore n f).sq k = s.sq k := rfl
@[simp] theorem State.port_modCore (s : State) (n : Nat) (f : Core → Core) (k : Nat) : (s.modCore n f).port k = s.port k := rfl
@[simp] theorem State.group_modCore (s : State) (n : Nat) (f : Core → Core) (k : Nat) : (s.modCore n f).group k = s.group k := rfl
@[simp] theorem State.modTile_pending (s : State) (n : Nat) (f : Tile → Tile) : (s.modTile n f).pending = s.pending := rfl
@[simp] theorem State.modTile_free (s : State) (n : Nat) (f : Tile → Tile) : (s.modTile n f).free = s.free := rfl
@[simp] theorem State.modTile_seq (s : State) (n : Nat) (f : Tile → Tile) : (s.modTile n f).seq = s.seq := rfl
@[simp] theorem State.modTile_ctxs (s : State) (n : Nat) (f : Tile → Tile) : (s.modTile n f).ctxs = s.ctxs := rfl
@[simp] theorem State.modTile_cores (s : State) (n : Nat) (f : Tile → Tile) : (s.modTile n f).cores = s.cores := rfl
@[simp] theorem State.modTile_mem (s : State) (n : Nat) (f : Tile → Tile) : (s.modTile n f).mem = s.mem := rfl
@[simp] theorem State.modTile_mesh (s : State) (n : Nat) (f : Tile → Tile) : (s.modTile n f).mesh = s.mesh := rfl
@[simp] theorem State.modTile_tlbs (s : State) (n : Nat) (f : Tile → Tile) : (s.modTile n f).tlbs = s.tlbs := rfl
@[simp] theorem State.modTile_tlbis (s : State) (n : Nat) (f : Tile → Tile) : (s.modTile n f).tlbis = s.tlbis := rfl
@[simp] theorem State.modTile_nextTlbi (s : State) (n : Nat) (f : Tile → Tile) : (s.modTile n f).nextTlbi = s.nextTlbi := rfl
@[simp] theorem State.modTile_ws (s : State) (n : Nat) (f : Tile → Tile) : (s.modTile n f).ws = s.ws := rfl
@[simp] theorem State.modTile_wj (s : State) (n : Nat) (f : Tile → Tile) : (s.modTile n f).wj = s.wj := rfl
@[simp] theorem State.modTile_gcLag (s : State) (n : Nat) (f : Tile → Tile) : (s.modTile n f).gcLag = s.gcLag := rfl
@[simp] theorem State.modTile_gcBy (s : State) (n : Nat) (f : Tile → Tile) : (s.modTile n f).gcBy = s.gcBy := rfl
@[simp] theorem State.modTile_svc (s : State) (n : Nat) (f : Tile → Tile) : (s.modTile n f).svc = s.svc := rfl
@[simp] theorem State.modTile_remote (s : State) (n : Nat) (f : Tile → Tile) : (s.modTile n f).remote = s.remote := rfl
@[simp] theorem State.modTile_ports (s : State) (n : Nat) (f : Tile → Tile) : (s.modTile n f).ports = s.ports := rfl
@[simp] theorem State.modTile_groups (s : State) (n : Nat) (f : Tile → Tile) : (s.modTile n f).groups = s.groups := rfl
@[simp] theorem State.modTile_collNote (s : State) (n : Nat) (f : Tile → Tile) : (s.modTile n f).collNote = s.collNote := rfl
@[simp] theorem State.modTile_chans (s : State) (n : Nat) (f : Tile → Tile) : (s.modTile n f).chans = s.chans := rfl
@[simp] theorem State.modTile_grants (s : State) (n : Nat) (f : Tile → Tile) : (s.modTile n f).grants = s.grants := rfl
@[simp] theorem State.modTile_grantPtr (s : State) (n : Nat) (f : Tile → Tile) : (s.modTile n f).grantPtr = s.grantPtr := rfl
@[simp] theorem State.modTile_seqs (s : State) (n : Nat) (f : Tile → Tile) : (s.modTile n f).seqs = s.seqs := rfl
@[simp] theorem State.modTile_host (s : State) (n : Nat) (f : Tile → Tile) : (s.modTile n f).host = s.host := rfl
@[simp] theorem State.modTile_mg (s : State) (n : Nat) (f : Tile → Tile) : (s.modTile n f).mg = s.mg := rfl
@[simp] theorem State.modTile_sark (s : State) (n : Nat) (f : Tile → Tile) : (s.modTile n f).sark = s.sark := rfl
@[simp] theorem State.modTile_pins (s : State) (n : Nat) (f : Tile → Tile) : (s.modTile n f).pins = s.pins := rfl
@[simp] theorem State.ctx_modTile (s : State) (n : Nat) (f : Tile → Tile) (k : Nat) : (s.modTile n f).ctx k = s.ctx k := rfl
@[simp] theorem State.core_modTile (s : State) (n : Nat) (f : Tile → Tile) (k : Nat) : (s.modTile n f).core k = s.core k := rfl
@[simp] theorem State.chan_modTile (s : State) (n : Nat) (f : Tile → Tile) (k : Nat) : (s.modTile n f).chan k = s.chan k := rfl
@[simp] theorem State.sq_modTile (s : State) (n : Nat) (f : Tile → Tile) (k : Nat) : (s.modTile n f).sq k = s.sq k := rfl
@[simp] theorem State.port_modTile (s : State) (n : Nat) (f : Tile → Tile) (k : Nat) : (s.modTile n f).port k = s.port k := rfl
@[simp] theorem State.group_modTile (s : State) (n : Nat) (f : Tile → Tile) (k : Nat) : (s.modTile n f).group k = s.group k := rfl

/-- What a table of contexts, cores or tiles reads as depends on nothing but that table. -/
theorem State.ctx_congr {s t : State} (h : t.ctxs = s.ctxs) (n : Nat) : t.ctx n = s.ctx n := by simp [State.ctx, h]
theorem State.core_congr {s t : State} (h : t.cores = s.cores) (n : Nat) : t.core n = s.core n := by simp [State.core, h]
theorem State.tile_congr {s t : State} (h : t.tiles = s.tiles) (n : Nat) : t.tile n = s.tile n := by simp [State.tile, h]

end Sys2Proof.Machine
end

