-- ==== Sys2Proof/Laws/Issue.lean ====
section
/-! SUPPORT. What issuing an instruction does: when the checks pass the body decides, and completion changes pc, wsup and
the performance counters alone. -/

namespace Sys2Proof.Claims

open Sys2Proof.Machine

/-! ## Counting events keeps everything else -/

theorem Around.refl (s : State) : Around s s := ⟨rfl, fun _ => rfl, fun _ => rfl⟩

theorem Around.trans {s t u : State} (h : Around s t) (g : Around t u) : Around s u := by
  obtain ⟨h1, h2, h3⟩ := h
  obtain ⟨g1, g2, g3⟩ := g
  refine ⟨?_, fun k => ?_, fun j => ?_⟩
  · rw [g1, h1]
  · rw [g2 k, h2 k]
  · rw [g3 j, h3 j]

theorem around_wakeTile (s : State) (j : Nat) : Around s (wakeTile s j) := by
  unfold wakeTile
  split
  · refine ⟨rfl, fun _ => rfl, fun i => ?_⟩
    by_cases h : i = j
    · subst h; simp
    · simp [State.tile_modTile_ne _ _ h]
  · exact Around.refl s

theorem around_core (s : State) (k : Nat) (pmc : Tbl (BitVec 48)) (pmsel : Tbl (BitVec 32)) (fic : Fic) :
    Around s (s.setCore k { s.core k with pmc := pmc, pmsel := pmsel, fic := fic }) := by
  refine ⟨rfl, fun i => ?_, fun _ => rfl⟩
  by_cases h : i = k
  · subst h; simp
  · simp [State.core_setCore_ne _ _ h]

theorem around_pendFic (s : State) (k src : Nat) (v : BitVec 64) : Around s (pendFic s k src v) :=
  Around.trans (t := s.modCore k fun c => { c with fic := { c.fic with pending := tset c.fic.pending src v } })
    (around_core s k (s.core k).pmc (s.core k).pmsel _) (around_wakeTile _ _)

@[simp] theorem wakeTile_ctxs (s : State) (j : Nat) : (wakeTile s j).ctxs = s.ctxs := by unfold wakeTile; split <;> rfl
@[simp] theorem wakeTile_cores (s : State) (j : Nat) : (wakeTile s j).cores = s.cores := by unfold wakeTile; split <;> rfl
@[simp] theorem wakeTile_free (s : State) (j : Nat) : (wakeTile s j).free = s.free := by unfold wakeTile; split <;> rfl
@[simp] theorem pendFic_ctxs (s : State) (k src : Nat) (v : BitVec 64) : (pendFic s k src v).ctxs = s.ctxs := by simp [pendFic]
@[simp] theorem pendFic_free (s : State) (k src : Nat) (v : BitVec 64) : (pendFic s k src v).free = s.free := by simp [pendFic]

theorem FicKept.refl (s : State) (k : Nat) : FicKept s s k := rfl

theorem FicKept.trans {s t u : State} {k : Nat} (h : FicKept s t k) (g : FicKept t u k) : FicKept s u k := by
  unfold FicKept at *
  rw [g, h]

theorem ficKept_of_cores {s t : State} (h : t.cores = s.cores) (k : Nat) : FicKept s t k := by
  simp [FicKept, State.fic, State.core_congr h]

theorem ficKept_setCore (s : State) (j k : Nat) (pmc : Tbl (BitVec 48)) (pmsel : Tbl (BitVec 32)) :
    FicKept s (s.setCore j { s.core j with pmc := pmc, pmsel := pmsel }) k := by
  unfold FicKept State.fic
  by_cases h : k = j
  · subst h; simp
  · simp [State.core_setCore_ne _ _ h]

theorem ficKept_pendFic (s : State) (j k src : Nat) (v : BitVec 64) : FicKept s (pendFic s j src v) k := by
  refine FicKept.trans (t := s.modCore j fun c => { c with fic := { c.fic with pending := tset c.fic.pending src v } }) ?_ ?_
  · unfold FicKept State.fic
    by_cases h : k = j
    · subst h; simp
    · simp [State.core_modCore_ne _ _ h]
  · exact ficKept_of_cores (by simp [pendFic]) k

/-- What counting an event leaves. -/
structure Counted (s t : State) : Prop where
  around : Around s t
  ctxs : t.ctxs = s.ctxs
  free : t.free = s.free
  fic : ∀ k, FicKept s t k

theorem Counted.refl (s : State) : Counted s s := ⟨Around.refl s, rfl, rfl, FicKept.refl s⟩

theorem Counted.trans {s t u : State} (h : Counted s t) (g : Counted t u) : Counted s u :=
  ⟨h.around.trans g.around, g.ctxs.trans h.ctxs, g.free.trans h.free, fun k => (h.fic k).trans (g.fic k)⟩

theorem counted_foldl (f : State → Nat → State) (h : ∀ s k, Counted s (f s k)) (l : List Nat) (s : State) :
    Counted s (l.foldl f s) := by
  induction l generalizing s with
  | nil => exact Counted.refl s
  | cons k r ih => exact (h s k).trans (ih (f s k))

theorem counted_one (core : Nat) (who : Option (World × Bool × Nat)) (ev : Nat) (s : State) (k : Nat) :
    Counted s (countOne core who ev s k) := by
  have h : ∀ p q, Counted s (s.setCore core { s.core core with pmc := p, pmsel := q }) := fun p q =>
    ⟨around_core s core p q _, rfl, rfl, fun j => ficKept_setCore s core j p q⟩
  have p : ∀ t v, Counted t (pendFic t core 0xB0 v) := fun t v =>
    ⟨around_pendFic _ _ _ _, by simp, by simp, fun j => ficKept_pendFic _ _ _ _ _⟩
  unfold countOne
  dsimp only
  by_cases hc : countsEvent (tgetD (s.core core).pmsel k 0xFFFF0000) k who ev = true
  · rw [if_pos hc]
    refine (h (tset (s.core core).pmc k (tgetD (s.core core).pmc k 0 + 1)) (if tgetD (s.core core).pmc k 0 = 0xFFFFFFFFFFFF
      then tset (s.core core).pmsel k (tgetD (s.core core).pmsel k 0xFFFF0000 ||| 0x1000) else (s.core core).pmsel)).trans ?_
    split_ifs
    all_goals first | exact p _ _ | exact Counted.refl _
  · rw [if_neg hc]
    exact Counted.refl s

/-- Counting an event changes performance counters, and may set a request pending at a fast interrupt context (R114). -/
theorem countEvent_keeps (s : State) (core : Nat) (who : Option (World × Bool × Nat)) (ev : Nat) :
    Counted s (countEvent s core who ev) := by
  unfold countEvent
  split
  · exact Counted.refl s
  · exact counted_foldl _ (counted_one core who ev) _ _

/-! ## Completion -/

theorem issue_of_ready {s : State} {x : Exec} {op : Op} (h : Ready s x op) (body : Body_) :
    issue x op body s = settle s x op.word false (body (env x op) s) := by
  obtain ⟨h1, hb, h2, h3, h4⟩ := h
  simp [issue, bankRead, h1, hb, h2, h3, h4, env]

theorem issue_next {s u : State} {x : Exec} {op : Op} {body : Body_} (h : Ready s x op)
    (hb : body (env x op) s = (.ok .next, u)) : (issue x op body s).tick = advanced u x := by
  rw [issue_of_ready h, hb]; rfl

theorem issue_to {s u : State} {x : Exec} {op : Op} {body : Body_} {a : BitVec 59} (h : Ready s x op)
    (hb : body (env x op) s = (.ok (.goto a), u)) : (issue x op body s).tick = jumped u x a := by
  rw [issue_of_ready h, hb]; rfl

theorem issue_exn {s u : State} {x : Exec} {op : Op} {body : Body_} {e : Exn} (h : Ready s x op)
    (hb : body (env x op) s = (.error (.exn e), u)) : issue x op body s = raiseX (kept s x u) x e := by
  rw [issue_of_ready h, hb]; rfl

/-! ## Registers -/

/-- A register write of a context touches its register tables alone. -/
theorem setCtxReg_eq (c : Ctx) (r : Nat) (v : W) :
    setCtxReg c r v = { c with ring := (setCtxReg c r v).ring, g := (setCtxReg c r v).g, trap := (setCtxReg c r v).trap } := by
  unfold setCtxReg; split <;> rfl

theorem setFicReg_eq (f : Fic) (r : Nat) (v : W) :
    setFicReg f r v = { f with regs := (setFicReg f r v).regs, nl := (setFicReg f r v).nl } := by
  unfold setFicReg; split_ifs <;> rfl

@[simp] theorem setCtxReg_r (c : Ctx) (r : Nat) (v : W) : (setCtxReg c r v).r = c.r := by rw [setCtxReg_eq]
@[simp] theorem setCtxReg_slot (c : Ctx) (r : Nat) (v : W) : (setCtxReg c r v).slot = c.slot := by rw [setCtxReg_eq]
@[simp] theorem setCtxReg_dir (c : Ctx) (r : Nat) (v : W) : (setCtxReg c r v).dir = c.dir := by rw [setCtxReg_eq]
@[simp] theorem setFicReg_pc (f : Fic) (r : Nat) (v : W) : (setFicReg f r v).pc = f.pc := by rw [setFicReg_eq]

theorem setFicReg_nl (f : Fic) (r : Nat) (v : W) (h : f.mode ≠ .nmi) : (setFicReg f r v).nl = f.nl := by
  unfold setFicReg; simp [h]; split <;> rfl

theorem placed_congr {c d : Ctx} (h1 : d.ring = c.ring) (h2 : d.g = c.g) (h3 : d.trap = c.trap) (p : RegAt) :
    placed d p = placed c p := by
  cases p <;> simp [placed, h1, h2, h3]

theorem ctxReg_placed (c : Ctx) (r : Nat) : ctxReg c r = placed c (regAt c r) := by
  unfold ctxReg placed; split <;> simp_all

theorem regAt_congr {c d : Ctx} (h1 : d.r.tw = c.r.tw) (h2 : d.r.wp = c.r.wp) (r : Nat) : regAt d r = regAt c r := by
  simp [regAt, h1, h2]

theorem regAt_zero_iff (c : Ctx) (r : Nat) : regAt c r = .zero ↔ r = 0 := by
  unfold regAt; split_ifs <;> simp_all

theorem placed_setCtxReg (c : Ctx) (r : Nat) (v : W) (p : RegAt) :
    placed (setCtxReg c r v) p = if p = regAt c r ∧ p ≠ .zero then v else placed c p := by
  unfold setCtxReg
  split <;> rename_i k h <;> rw [h] <;> cases p <;> simp [placed, tgetD_tset]

/-! ## Completion in full -/

/-- The context after its instruction completes at pc. -/
def doneCtx (c : Ctx) (pc : BitVec 59) : Ctx :=
  { c with repeated := none, r := { c.r with pc := pc, ctxStat := c.r.ctxStat &&& ~~~(0x1000000 : BitVec 32) } }

/-- What completion does to a context: one more instruction counted, its own fields as `doneCtx` says. -/
theorem jumped_ctx (u : State) (n : BitVec 16) (pc : BitVec 59) :
    ∃ v, Counted u v ∧ jumped u (.ctx n) pc = (v.setCtx n.toNat (doneCtx (u.ctx n.toNat) pc)).tick := by
  refine ⟨_, countEvent_keeps u (xcore (.ctx n)) (whoOf u (.ctx n)) 0x01, ?_⟩
  have hx := (countEvent_keeps u (xcore (.ctx n)) (whoOf u (.ctx n)) 0x01).ctxs
  simp only [jumped, commitX, setXpc, State.modCtx, State.ctx_setCtx_same, State.ctx_congr hx]
  simp [State.setCtx, doneCtx]

/-- What completion does to a fast interrupt context. -/
theorem jumped_fic (u : State) (k : BitVec 8) (pc : BitVec 59) :
    ∃ v, Counted u v ∧ jumped u (.fic k) pc =
      (v.setCore k.toNat { v.core k.toNat with fic := { v.fic k.toNat with repeated := none, pc := pc } }).tick := by
  refine ⟨_, countEvent_keeps u (xcore (.fic k)) (whoOf u (.fic k)) 0x01, ?_⟩
  simp only [jumped, commitX, setXpc, State.modFic, State.modCore, State.core_setCore_same]
  simp [State.setCore, State.fic]

theorem advanced_eq (u : State) (x : Exec) : advanced u x = jumped u x (xpc u x + 4) := rfl

/-! ## An instruction whose effect is one register -/

theorem setXreg_fic_read (f : Fic) (r rd : BitVec 5) (w : W) :
    ficReg (setFicReg f rd.toNat w) r.toNat = if r = 0 then nilW else if r = rd then w else ficReg f r.toNat := by
  have hb1 : r.toNat = 0 ↔ r = 0 := ⟨fun e => BitVec.eq_of_toNat_eq e, fun e => by simp [e]⟩
  have hb2 : r.toNat = rd.toNat ↔ r = rd := ⟨fun e => BitVec.eq_of_toNat_eq e, fun e => by simp [e]⟩
  rw [← if_congr hb1 rfl rfl, ← if_congr hb2 rfl rfl]
  unfold setFicReg ficReg
  by_cases h0 : r.toNat = 0
  · simp [h0]
  · by_cases h1 : rd.toNat = 0
    · simp [h0, h1]
    · simp only [h0, h1, if_false]
      by_cases hm : f.mode = .nmi
      · by_cases a : 16 ≤ rd.toNat ∧ rd.toNat < 24 <;> by_cases b : 16 ≤ r.toNat ∧ r.toNat < 24 <;>
          simp [hm, a, b, tgetD_tset] <;> (try split_ifs) <;> (try rfl) <;> omega
      · simp [hm, tgetD_tset]

/-- A register instruction that completes reads back what it wrote, advances pc, and changes nothing else. -/
theorem result_of {c : Instr} {s : State} {x : Exec} {op : Op} {body : Body_} {rd : BitVec 5} {w : W} (h : Ready s x op)
    (hc : exec c s = .next (issue x op body s).tick)
    (hb : body (env x op) s = (.ok .next, setXreg s x rd w)) : Result c s x rd w := by
  refine ⟨advanced (setXreg s x rd w) x, by rw [Gives, hc, issue_next h hb], ?_⟩
  rw [advanced_eq]
  cases x with
  | ctx n =>
    obtain ⟨v, ⟨ha, hx, hf, hk⟩, e⟩ := jumped_ctx (setXreg s (.ctx n) rd w) n (xpc (setXreg s (.ctx n) rd w) (.ctx n) + 4)
    have hc : (setXreg s (.ctx n) rd w).ctx n.toNat = setCtxReg (s.ctx n.toNat) rd.toNat w := by simp [setXreg]
    have hp : xpc (setXreg s (.ctx n) rd w) (.ctx n) = xpc s (.ctx n) := by simp [xpc, hc]
    rw [hc, hp] at e
    rw [hp, e]
    have hs : (v.setCtx n.toNat (doneCtx (setCtxReg (s.ctx n.toNat) rd.toNat w) (xpc s (.ctx n) + 4))).tick.ctx n.toNat =
        doneCtx (setCtxReg (s.ctx n.toNat) rd.toNat w) (xpc s (.ctx n) + 4) := by simp
    have hpl : ∀ p, placed (doneCtx (setCtxReg (s.ctx n.toNat) rd.toNat w) (xpc s (.ctx n) + 4)) p = placed (setCtxReg (s.ctx n.toNat) rd.toNat w) p :=
      fun p => placed_congr rfl rfl rfl p
    refine ⟨by simp [State.tick, State.setCtx, hf, setXreg, State.modCtx], ?_, by simp [xpc, doneCtx], ⟨fun p hp => ?_, ?_, fun m hm => ?_, fun k => ?_⟩, ?_, fun k => ?_, fun j => ?_⟩
    · simp only [xreg, hs, ctxReg_placed, hpl, placed_setCtxReg]
      rw [regAt_congr (c := s.ctx n.toNat) (by simp [doneCtx]) (by simp [doneCtx])]
      by_cases hz : rd = 0
      · subst hz; simp [placed, regAt]
      · have : regAt (s.ctx n.toNat) rd.toNat ≠ .zero := by
          rw [Ne, regAt_zero_iff]; intro e; exact hz (BitVec.eq_of_toNat_eq e)
        rw [if_pos ⟨rfl, this⟩, if_neg hz]
    · rw [hs, hpl, placed_setCtxReg]; simp [hp]
    · rw [hs]; unfold doneCtx; conv_lhs => rw [setCtxReg_eq]
    · rw [State.ctx_tick, State.ctx_setCtx_ne _ _ hm, State.ctx_congr hx, setXreg, State.ctx_modCtx_ne _ _ hm]
    · exact (FicKept.trans (ficKept_of_cores rfl k) (hk k)).trans (ficKept_of_cores rfl k)
    · rw [ha.1]; rfl
    · exact ha.2.1 k
    · exact ha.2.2 j
  | fic n =>
    obtain ⟨v, ⟨ha, hx, hf, hk⟩, e⟩ := jumped_fic (setXreg s (.fic n) rd w) n (xpc (setXreg s (.fic n) rd w) (.fic n) + 4)
    have hc : (setXreg s (.fic n) rd w).fic n.toNat = setFicReg (s.fic n.toNat) rd.toNat w := by
      simp [setXreg, State.modFic, State.fic]
    have hp : xpc (setXreg s (.fic n) rd w) (.fic n) = xpc s (.fic n) := by simp [xpc, hc]
    have hv : v.fic n.toNat = { setFicReg (s.fic n.toNat) rd.toNat w with pending := (v.fic n.toNat).pending } := by
      rw [hk n.toNat, hc]
    rw [hp] at e
    rw [hp, e]
    have hs : (v.setCore n.toNat { v.core n.toNat with fic := { v.fic n.toNat with repeated := none, pc := xpc s (.fic n) + 4 } }).tick.fic n.toNat =
        { setFicReg (s.fic n.toNat) rd.toNat w with pending := (v.fic n.toNat).pending, repeated := none, pc := xpc s (.fic n) + 4 } := by
      rw [hv]; simp [State.fic]
    have hread : ∀ r : BitVec 5, xreg (v.setCore n.toNat { v.core n.toNat with fic := { v.fic n.toNat with repeated := none, pc := xpc s (.fic n) + 4 } }).tick (.fic n) r =
        ficReg (setFicReg (s.fic n.toNat) rd.toNat w) r.toNat := fun r => by simp only [xreg, hs]; rfl
    have hcore : ∀ k, v.core k = { s.core k with pmc := (v.core k).pmc, pmsel := (v.core k).pmsel, fic := (v.core k).fic } := by
      intro k
      refine (ha.2.1 k).trans ?_
      by_cases e : k = n.toNat
      · subst e; simp [setXreg, State.modFic]
      · simp [setXreg, State.modFic, State.core_modCore_ne _ _ e]
    refine ⟨by simp [State.tick, State.setCore, hf, setXreg, State.modFic, State.modCore], ?_, congrArg Fic.pc hs, ⟨fun r hr => ?_, fun hm => ?_, ?_, fun m => ?_, fun j hj => ?_⟩, ?_, fun k => ?_, fun j => ?_⟩
    · rw [hread, setXreg_fic_read]; simp
    · rw [hread, setXreg_fic_read, if_neg hr]
      split
      · next e => subst e; simp [xreg, ficReg]
      · rfl
    · rw [hs]; exact setFicReg_nl _ _ _ hm
    · rw [hs]; conv_lhs => rw [setFicReg_eq]
    · rw [State.ctx_tick, State.ctx_setCore, State.ctx_congr hx]; simp [setXreg, State.modFic]
    · have h1 : FicKept s (setXreg s (.fic n) rd w) j := by
        simp [FicKept, State.fic, setXreg, State.modFic, State.core_modCore_ne _ _ hj]
      refine (h1.trans (hk j)).trans ?_
      simp [FicKept, State.fic, State.core_setCore_ne _ _ hj]
    · rw [ha.1]; rfl
    · rw [State.core_tick]
      by_cases e : k = n.toNat
      · subst e; rw [State.core_setCore_same]; rw [hcore n.toNat]
      · rw [State.core_setCore_ne _ _ e]; exact hcore k
    · exact ha.2.2 j

end Sys2Proof.Claims
end

