-- ==== Sys2Proof/Laws/Operands.lean ====
section
/-! SUPPORT. The checks of operands (R119 to R121): when they pass, and what they answer when they do not. -/

namespace Sys2Proof.Claims

open Sys2Proof.Machine

theorem chk_pass {e : Env} {k : Nat} {w : W} {ok : Bool} (h : Whole w) (g : ok = true) : chk e k w ok = .ok () := by
  obtain ⟨a, b, c⟩ := h
  rw [chk, if_neg a, if_neg b, if_neg (by simp [c]), if_pos g]

theorem chk_trap {e : Env} {k : Nat} {w : W} {ok : Bool} (h : Whole w) (g : ok = false) : chk e k w ok = tagTrap 1 k w 0 := by
  obtain ⟨a, b, c⟩ := h
  rw [chk, if_neg a, if_neg b, if_neg (by simp [c]), if_neg (by simp [g])]

theorem isInt_of {w : W} (h : IsInt w) : isInt w = true := by
  rcases h with h | h <;> simp [isInt, h]

theorem isInt_not {w : W} (h : ¬ IsInt w) : isInt w = false := by
  unfold IsInt at h
  simp only [isInt, Bool.or_eq_false_iff, beq_eq_false_iff_ne, ne_eq]
  exact ⟨fun e => h (.inl e), fun e => h (.inr e)⟩

theorem whole_of_tag {w : W} {t : BitVec 10} (h : w.tag = t) (g : t ≠ 0x301 ∧ t ≠ 0x000 ∧ reservedTag t = false) : Whole w := by
  subst h; exact g

theorem whole_of_int {w : W} (h : IsInt w) : Whole w := by
  rcases h with h | h
  · exact whole_of_tag h (by decide)
  · exact whole_of_tag h (by decide)

theorem whole_of_fix {w : W} (h : IsFix w) : Whole w := whole_of_tag h (by decide)

theorem chk_int {e : Env} {k : Nat} {w : W} (h : IsInt w) : chk e k w (isInt w) = .ok () := chk_pass (whole_of_int h) (isInt_of h)

theorem chk_whole {e : Env} {k : Nat} {w : W} (h : Whole w) : chk e k w true = .ok () := chk_pass h rfl

theorem chk_fix {e : Env} {k : Nat} {w : W} (h : IsFix w) : chk e k w (w.tag == 0x001) = .ok () :=
  chk_pass (whole_of_fix h) (beq_iff_eq.mpr h)

theorem ints_ok {e : Env} {s : State} {rs rt : BitVec 5} (h : IsInt (xreg s e.x rs)) (g : IsInt (xreg s e.x rt)) :
    ints e s rs rt = .ok (xreg s e.x rs, xreg s e.x rt) := by
  simp only [ints, chk_int h, chk_int g]; rfl

theorem ints_left {e : Env} {s : State} {rs rt : BitVec 5} (h : Whole (xreg s e.x rs)) (g : ¬ IsInt (xreg s e.x rs)) :
    ints e s rs rt = tagTrap 1 0 (xreg s e.x rs) 0 := by
  simp only [ints, chk_trap h (isInt_not g)]; rfl

theorem ints_right {e : Env} {s : State} {rs rt : BitVec 5} (i : IsInt (xreg s e.x rs)) (h : Whole (xreg s e.x rt))
    (g : ¬ IsInt (xreg s e.x rt)) : ints e s rs rt = tagTrap 1 1 (xreg s e.x rt) 0 := by
  simp only [ints, chk_int i, chk_trap h (isInt_not g)]; rfl

theorem int1_ok {e : Env} {s : State} {rs : BitVec 5} (h : IsInt (xreg s e.x rs)) : int1 e s rs = .ok (xreg s e.x rs) := by
  simp only [int1, chk_int h]; rfl

/-- A body that computes a word and writes it. -/
theorem toReg_ok {rd : BitVec 5} {f : Env → State → Res W} {e : Env} {s : State} {w : W} (h : f e s = .ok w) :
    toReg rd f e s = (.ok .next, setXreg s e.x rd w) := by
  simp [toReg, h]

theorem toReg_error {rd : BitVec 5} {f : Env → State → Res W} {e : Env} {s : State} {x : Stop} (h : f e s = .error x) :
    toReg rd f e s = (.error x, s) := by
  simp [toReg, h]

/-- An instruction that computes a word and writes it to rd completes with that word. -/
theorem toReg_result {c : Instr} {s : State} {x : Exec} {op : Op} {body : Body_} {rd : BitVec 5} {f : Env → State → Res W} {w : W}
    (h : Ready s x op) (hc : exec c s = .next (issue x op body s).tick) (hb : body = toReg rd f)
    (hf : f (env x op) s = .ok w) : Result c s x rd w := by
  subst hb
  exact result_of h hc (toReg_ok hf)

end Sys2Proof.Claims
end

