-- ==== Sys2Proof/Laws/Body.lean ====
section
/-! SUPPORT. The parts of an instruction's body: what a sequence answers when its first part answers or stops. -/

namespace Sys2Proof.Claims

open Sys2Proof.Machine

variable {α β : Type}

theorem bind_ok {m : M α} {f : α → M β} {s t : State} {a : α} (h : m s = (.ok a, t)) : (m >>= f) s = f a t := by
  change (ExceptT.bind m f) s = _
  simp only [ExceptT.bind, ExceptT.mk]
  change (StateT.bind m _) s = _
  simp only [StateT.bind]
  rw [h]
  rfl

theorem bind_error {m : M α} {f : α → M β} {s t : State} {x : Stop} (h : m s = (.error x, t)) : (m >>= f) s = (.error x, t) := by
  change (ExceptT.bind m f) s = _
  simp only [ExceptT.bind, ExceptT.mk]
  change (StateT.bind m _) s = _
  simp only [StateT.bind]
  rw [h]
  rfl

theorem get_eq (s : State) : (get : M State) s = (.ok s, s) := rfl
theorem set_eq (s t : State) : (set t : M PUnit) s = (.ok ⟨⟩, t) := rfl
theorem modify_eq (f : State → State) (s : State) : (modify f : M PUnit) s = (.ok ⟨⟩, f s) := rfl
theorem pure_eq (a : α) (s : State) : (pure a : M α) s = (.ok a, s) := rfl
theorem chkM_eq (r : Res α) (s : State) : chkM r s = (r, s) := rfl
theorem act_eq (f : State → Except Stop α × State) (s : State) : act f s = f s := rfl

theorem get_bind (f : State → M β) (s : State) : ((get : M State) >>= f) s = f s s := bind_ok (get_eq s)
theorem set_bind (t : State) (f : PUnit → M β) (s : State) : ((set t : M PUnit) >>= f) s = f ⟨⟩ t := bind_ok (set_eq s t)
theorem modify_bind (g : State → State) (f : PUnit → M β) (s : State) : ((modify g : M PUnit) >>= f) s = f ⟨⟩ (g s) := bind_ok (modify_eq g s)
theorem pure_bind_M (a : α) (f : α → M β) (s : State) : ((pure a : M α) >>= f) s = f a s := bind_ok (pure_eq a s)
theorem chkM_bind_ok {r : Res α} {a : α} (h : r = .ok a) (f : α → M β) (s : State) : (chkM r >>= f) s = f a s := bind_ok (by rw [chkM_eq, h])
theorem chkM_bind_error {r : Res α} {x : Stop} (h : r = .error x) (f : α → M β) (s : State) : (chkM r >>= f) s = (.error x, s) :=
  bind_error (by rw [chkM_eq, h])

end Sys2Proof.Claims
end

