-- ==== Sys2Proof/WellFormed.lean ====
section
/-! DEFINITION. The checks of a command's operands that their types do not make. -/

namespace Sys2Proof

/-- A local context number names a record: 256 cores with 160 records each (R53). -/
def lcnOk (n : BitVec 16) : Bool := decide (n.toNat < 40960)

/-- Who executes names a record or a core. -/
def Exec.ok : Exec → Bool
  | .ctx n => lcnOk n
  | .fic _ => true

/-- A flit carries a message area of 240 bytes (R328). -/
def Flit.ok (f : Flit) : Bool := decide (f.area.length = 240)

/-- A line carries eight words (R42). -/
def lineOk (l : List W) : Bool := decide (l.length = 8)

/-- A command is well formed: the record, the line, the pair, the controller, the flit and the blob that it names exist
and have their sizes. -/
def Instr.wf : Instr → Bool
  | .wrf _ d _ => lineOk d
  | .rpair _ ws => decide (ws.length = 16)
  | .quantumExpiry n | .deadlineExpiry n | .contextDrainComplete n | .syncVComplete n | .migrationPacketSend n
  | .migReplyTimeout n | .migUnresolved n | .stubRelease n => lcnOk n
  | .scrubRead mc | .targetedScrubComplete mc _ _ _ | .errorWindowExpiry mc _ _ | .softPprComplete mc _ _ => decide (mc.toNat < 24)
  | .idleFlit _ f | .dataFlit _ f | .creditFlit _ f | .nakFlit _ f | .initFlit _ f | .spareFlit _ f | .holdFlit _ f => f.ok
  | .laneLockLoss _ l | .laneCeThreshold _ l | .codewordLock _ l _ => decide (l.toNat < 5)
  | .coll _ m => decide (m.words.length ≤ 54)
  | .bar4Read _ n => decide (1 ≤ n.toNat ∧ n.toNat ≤ 4096)
  | .bar4Write _ d _ => decide (1 ≤ d.length ∧ d.length ≤ 4096)
  | .ownerKeyHashWrite h => decide (h.length = 48)
  | .forceGateDomain d | .pdCtlOff d | .pdCtlOn d | .domainPowerOnComplete d | .domainDrainTimeout d => decide (d.toNat < 76)
  | .mov x _ _ | .iadd x _ _ _ | .isub x _ _ _ | .imul x _ _ _ | .and x _ _ _ | .or x _ _ _ | .xor x _ _ _ | .andn x _ _ _ | .shl x _ _ _
  | .shr x _ _ _ | .sar x _ _ _ | .ult x _ _ _ | .eq x _ _ _ | .ne x _ _ _ | .tagof x _ _ | .movi x _ _ | .moviR x _ _ | .ldc x _ _ _ | .eqi x _ _ _
  | .lti x _ _ _ | .lei x _ _ _ | .gti x _ _ _ | .shli x _ _ _ | .shri x _ _ _ | .sari x _ _ _ | .andi x _ _ _ | .add x _ _ _ | .sub x _ _ _
  | .mul x _ _ _ | .div x _ _ _ | .rem x _ _ _ | .neg x _ _ | .numeq x _ _ _ | .lt x _ _ _ | .le x _ _ _ | .addi x _ _ _ | .tagis x _ _ _
  | .kindis x _ _ _ | .settag x _ _ _ | .fadd x _ _ _ | .fsub x _ _ _ | .fmul x _ _ _ | .fdiv x _ _ _ | .fsqrt x _ _ | .fma x _ _ _ | .fmin x _ _ _
  | .fmax x _ _ _ | .fneg x _ _ | .fabs x _ _ | .fmov x _ _ | .fceq x _ _ _ | .fclt x _ _ _ | .fcle x _ _ _ | .fmvgf x _ _ | .fmvfg x _ _
  | .fcvtxf x _ _ | .fcvtfx x _ _ | .ldw x _ _ _ | .ldwA x _ _ _ | .ldwP x _ _ _ | .stw x _ _ _ | .stwR x _ _ _ | .ldpc x _ _ | .ldx x _ _ _
  | .ldxA x _ _ _ | .stx x _ _ _ | .stxR x _ _ _ | .ldb x _ _ _ | .ldh x _ _ _ | .stb x _ _ _ | .sth x _ _ _ | .amoadd x _ _ _ _ | .amoswap x _ _ _ _
  | .amomin x _ _ _ _ | .amomax x _ _ _ _ | .cas x _ _ _ _ | .cast x _ _ _ _ | .car x _ _ | .cdr x _ _ | .rplaca x _ _ | .rplacd x _ _ | .cons x _ _ _
  | .memq x _ _ _ | .assq x _ _ _ | .walk x _ _ _ | .probe x _ _ _ | .alloc x _ _ _ | .bz x _ _ | .bnz x _ _ | .bnil x _ _ | .bnnil x _ _
  | .bt x _ _ _ | .bnt x _ _ _ | .j x _ | .jl x _ | .callw x _ | .jr x _ _ | .jlr x _ _ | .callwr x _ _ | .retl x | .retw x | .rep x _ | .repStep x
  | .copyw x _ _ | .fillw x _ _ | .cleanL x _ | .flushL x _ | .invalL x _ | .syscall x | .wcall x _ | .retx x | .brk x | .yield x | .fence x
  | .syncG x | .syncV x | .syncT x | .mfs x _ _ | .mts x _ _ | .fpBankBind x _ | .fpBankRelease x _ | .rdw x _ _ | .wrw x _ _ | .fbrd x _ _
  | .fbwr x _ _ | .spawn x _ _ _ | .ctxhold x _ | .ctxrel x _ | .ctxkill x _ | .ctxend x | .wait x _ _ _ | .waitM x _ _ _ | .ctxrd x _ _ _
  | .ctxwr x _ _ _ | .tlbiVa x _ | .tlbiSp x _ | .tlbiW x | .setpkr x _ | .walkReadComplete x | .accessComplete x | .dbRemoteWrite x _ _
  | .msixSendWrite x _ _ | .outboundReadTimeout x | .illegalOpcode x => x.ok
  | _ => true

end Sys2Proof
end

