-- ==== Sys2Proof/Tests/Slice0.lean ====
section
/-! SUPPORT. The model's own tests: the checks of WellFormed, words written out from the encodings, and for every obligation
with hypotheses a theorem that shows concrete states and operands that meet them, clause by clause (clauses that one state meets
together are shown together; witnesses of clauses over free choices that Lean cannot evaluate are named in NOTES.md). -/

set_option maxRecDepth 100000
set_option Elab.async false

namespace Sys2Proof.Tests
open Sys2Proof.Machine Sys2Proof.Claims
/-- A FIXNUM word. -/
def fx (n : Nat) : W := ⟨1, BitVec.ofNat 64 n⟩
/-- A table word with a value. -/
def pteW (v : Nat) : W := ⟨0x309, BitVec.ofNat 64 v⟩
/-- Page tables in memory: VA 0 to 0x7FFF maps to LPA 0x200000 on. -/
def memI : Tbl W :=
  let l : List (Nat × W) := [(0x100000/8, pteW (1 + 0x101000)), (0x101000/8, pteW (1+0x102000)), (0x102000/8, pteW (1 + 0x103000))]
    ++ (List.range 8).map fun i => (0x103000/8 + i, pteW (0x7F + 0x200000 + i*4096))
  l.foldl (fun t e => tset t e.1 e.2) []
/-- An ACTIVE context in a slot. -/
def mkCtx (sl : Nat) : Ctx := { dir := { state := .active, gen := 1 }, slot := some sl, r := { pc := 0x1000, ctxStat := 2, allocPtr := 0x3000, allocLim := 0x4000 } }
/-- A device in SERVICE with two running contexts, record 0 of core 0 and record 160 of core 1. -/
def base : State :=
  { State.reset with
    mg := { State.reset.mg with mode := .service, base := .service, pd := (List.range 44).map fun i => (32+i, Power.on) },
    pins := { State.reset.pins with pwrok := true },
    tiles := (List.range 32).map fun t => (t, { power := .on }),
    cores := [(0, { slots := [(0,0)] }), (1, { slots := [(0,160)] })],
    ctxs := [(0, mkCtx 0), (160, mkCtx 0)],
    mem := { State.reset.mem with words := memI, farN := 16, farD := 0x4000000, farBytes := 0x40000000 },
    svc := { State.reset.svc with parts := [(0, 0x3FFF, 3)], vecS := some 0x5000, vecJ := some 0x6000, ficVec := some 0x7000, rootS := some 0x100000, rootJ := some 0x100000, coord := 5 } }

/-- registers set -/
def regs (s : State) (l : List (BitVec 5 × W)) : State := l.foldl (fun s p => setXreg s (.ctx 0) p.1 p.2) s
def ctx0 (s : State) (f : Ctx → Ctx) : State := s.modCtx 0 f
def rec0 (s : State) (f : Rec → Rec) : State := s.modCtx 0 fun c => { c with r := f c.r }
def lineOf (l : List W) : Line := l ++ List.replicate (8 - l.length) uninitW
/-- page-table lines in the L1D of core 0, with the line of 0x3000 in a state with these words -/
def held (s : State) (st : L1) (ws : List W) : State :=
  s.modCore 0 fun c => { c with l1d := [(0x4000, { st := .e, data := lineOf [pteW (1 + 0x101000)] }), (0x4040, { st := .e, data := lineOf [pteW (1+0x102000)] }),
    (0x4080, { st := .e, data := lineOf [pteW (1 + 0x103000)] }), (0x40C0, { st := .e, data := (List.range 8).map fun i => pteW (0x7F + 0x200000 + i*4096) }), (0x80C0, { st := st, data := lineOf ws })] }
def fpb (s : State) : State := ctx0 (s.modCore 0 fun c => { c with holder := [(0, (0, 1))], fp := [(0, [(2, 0x3FF0000000000000), (3, 0x4000000000000000)])] }) fun c => { c with r := { c.r with fpBound := true, fpBank := 0 } }
def ptr (c a : Nat) : W := ⟨BitVec.ofNat 10 c, BitVec.ofNat 64 a⟩
def X0 : Exec := .ctx 0
def tr (op : Op) (acc va size : Nat) (v : Option (BitVec 64)) (s : State) : State := (translate { x := X0, word := op.word } acc (BitVec.ofNat 59 va) size v s).2
def trl (op : Op) (acc va size : Nat) (v : Option (BitVec 64)) (s : State) : Leaf := match (translate { x := X0, word := op.word } acc (BitVec.ofNat 59 va) size v s).1 with | .ok l => l | _ => ⟨0,0,0⟩
/-- two regions: the last word below 2^39 and the first above it -/
def far2 (lo hi : W) : State :=
  base.modCore 0 fun c => { c with l1d := [(0x4000, { st := .e, data := lineOf [pteW (1 + 0x101000), pteW (1 + 0x104000)] }),
    (0x407F, { st := .e, data := lineOf (List.replicate 7 uninitW ++ [pteW (1 + 0x102000)]) }), (0x40BF, { st := .e, data := lineOf (List.replicate 7 uninitW ++ [pteW (1 + 0x103000)]) }),
    (0x40FF, { st := .e, data := lineOf (List.replicate 7 uninitW ++ [pteW (0x7F + 0x203000)]) }), (0x4100, { st := .e, data := lineOf [pteW (1 + 0x105000)] }), (0x4140, { st := .e, data := lineOf [pteW (1 + 0x106000)] }),
    (0x4180, { st := .e, data := lineOf [pteW (0x7F + 0x204000)] }), (0x80FF, { st := .e, data := lineOf (List.replicate 7 uninitW ++ [lo]) }), (0x8100, { st := .e, data := lineOf [hi] })] }
def repF (x : Exec) (w : BitVec 32) : Env → M Unit := match repTarget x w with | .ok f => f | _ => fun _ => pure ()
def xvS : State := rec0 base fun r => { r with xvalidS := true, xpcS := 0x2000, xstatS := 0x104002, vwc := 2 }
def gateS : State := setDval (setDval (regs base [(4, fx 2)]) 0x3042 3 0x4000) 0x3043 3 0x1005
/-- the base device with a global table: offset page 0 at 0x210000 -/
def gbase0 (attr : Nat) : State :=
  { base with mem := { base.mem with words := ([(0x108000/8, pteW (1 + 0x106000)), (0x106000/8, pteW (1 + 0x107000)), (0x107000/8, pteW (1 + 0x109000)), (0x109000/8, pteW (attr + 0x210000)), (0x42000, fx 4)] : List (Nat × W)).foldl (fun t e => tset t e.1 e.2) memI } }
def gbase (attr : Nat) : State := { gbase0 attr with svc := { base.svc with dims := 0xF } }
def hd (src : BitVec 16) : Hdr := ⟨5, src, 9, .sys, true, 4, 1⟩
def ga : BitVec 59 := 0x400000000000000 + 5 * 0x40000000000
def ope (posted : Bool) : OutOp := ⟨.exec (.ctx 0), 6, 0x400180000001008, 0, posted, true⟩
def rwt (posted : Bool) : State := { (ctx0 base fun c => { c with pend := some { word := 0, why := .remote, needs := some 4 }, dir := { c.dir with storesOut := 2 } }) with remote := { base.remote with ops := [(4, ope posted)], gens := [(4, 1)] } }
def fli (seq ack ty first : Nat) (body : List (BitVec 8)) : Flit :=
  let f : Flit := ⟨BitVec.ofNat 16 seq, BitVec.ofNat 16 ack, BitVec.ofNat 32 (ty + first * 2 ^ 24), areaOf body, 0, 0, true⟩
  { f with crc := crc32c (flitBytes f) }
def dims2 (s : State) : State := { s with svc := { s.svc with dims := 0x1111, coord := 0 } }
def up (p : Nat) (f : Port → Port) : State := dims2 (base.setPort p (f { st := .up }))
def pk : MigPacket := ⟨0x60009, 1, 0, ga, 0, 3, 0, 6, 1, .sys, 0x1000, 0, 0, 0, 0, 0, 0, 0, 0, [], none⟩
/-- every logical core of tile 0 on the site of its number -/
def sited (s : State) : State := (List.range 8).foldl (fun s c => s.modCore c fun x => { x with site := some c }) s
def allSited (s : State) : State := (List.range 256).foldl (fun s c => s.modCore c fun x => { x with site := some (c/8*9 + c%8) }) s
def mdo (m : Mode) (s : State) : State := { s with mg := { s.mg with mode := m } }
def stt (f : Start → Start) (s : State) : State := { s with mg := { s.mg with start := f s.mg.start } }
def tns (t m : Mode) (l : List Nat) (s : State) : State := { s with mg := { s.mg with trans := some ⟨t, m, l⟩ } }
def frc : FRec := ⟨7, 5, 0, .service, 0, 1, 0, 0, []⟩
def rq (i j ty : Nat) (v : List (BitVec 8)) : DictReq := ⟨0, 9, BitVec.ofNat 8 ty, BitVec.ofNat 16 i, BitVec.ofNat 8 j, false, false, 0, 0, v⟩
def image : List Host.Cell := stPut [] 0 ([0x58,0x4F,0x53,0x4B,1,0,1,0,0x74,1,0,0,7,0x48,0,0,0xB0] ++ List.replicate 239 0 ++ [1,0,0,0,0,0,0,0,0x10,1,0,0,4,0,0,0])
def trainedS : State := { allSited base with sark := { base.sark with store := [⟨2, 0, coreMap (allSited base), true⟩] } }
def busy0 (n : Nat) : State := base.modCtx n fun c => { c with dir := { c.dir with state := .ready } }
def heldX (w : W) : State :=
  (held base .e []).modCore 0 fun c => { c with l1d := (tset c.l1d 0x40C0 ({ st := .e, data := (List.range 8).map fun i => pteW (0x2F + 0x200000 + i*4096) } : L1Line)), l1i := [(0x8040, { st := .s, data := lineOf [w] })] }

/-! ## From what evaluates to what is stated -/

/-- Two answers agree. -/
def excB {ε α : Type} [DecidableEq ε] [DecidableEq α] (r q : Except ε α) : Bool :=
  match r, q with
  | .ok a, .ok b => decide (a = b)
  | .error a, .error b => decide (a = b)
  | _, _ => false

theorem exc {ε α : Type} [DecidableEq ε] [DecidableEq α] {r q : Except ε α} (h : excB r q = true) : r = q := by
  cases r <;> cases q <;> simp_all [excB]

theorem excS {ε α : Type} [DecidableEq ε] [DecidableEq α] {r q : Except ε α × State} (h : (excB r.1 q.1 && decide (r.2 = q.2)) = true) : r = q := by
  obtain ⟨a, s⟩ := r
  obtain ⟨b, t⟩ := q
  simp only [Bool.and_eq_true, decide_eq_true_eq] at h
  rw [exc h.1, h.2]

theorem excT {ε α : Type} [DecidableEq ε] [DecidableEq α] {r : Except ε α × State} {q : Except ε α} (h : excB r.1 q = true) : r = (q, r.2) := by
  rw [← exc h]

/-- The read of a word that the core holds, as a value. -/
def readsB (e : Env) (s : State) (va : BitVec 59) (size : Nat) (w : W) (t : State) : Bool :=
  match (translate e 0 va size none s).1 with
  | .ok l =>
    match tget (t.core (xcore e.x)).l1d (l.lpa va / 8 / 8) with
    | some h =>
      decide (isGlobal va = false ∧ va.toNat % size = 0 ∧ (translate e 0 va size none s).2 = t ∧ pteMt l.pte = 0 ∧ isReg (l.lpa va) = false ∧
          (s.gcLag.contains (xcore e.x) = false ∧ (gcOf s e.x).en = false) ∧ t.gcLag.contains (xcore e.x) = false ∧ (gcOf t e.x).en = false) &&
      (excB (watch t e.x va false) (.ok ()) && decide (Held t e.x (l.lpa va / 8) h ∧ h.st.hit = true ∧ w = lineWord h.data (l.lpa va / 8)))
    | none => false
  | .error _ => false

theorem reads_of {e : Env} {s t : State} {va : BitVec 59} {size : Nat} {w : W} (h : readsB e s va size w t = true) : Reads e s va size w t := by
  unfold readsB at h
  split at h
  · next l hl =>
    split at h
    · next g hg =>
      simp only [Bool.and_eq_true, decide_eq_true_eq] at h
      obtain ⟨⟨h1, h2, h3, h4, h5, h6⟩, h7, h8, h9, h10⟩ := h
      exact ⟨l, g, ⟨h1, h2, Prod.ext hl h3, exc h7, h4, h5, h6⟩, h8, h9, h10⟩
    · cases h
  · cases h

theorem ready_of {s : State} {x : Exec} {op : Op}
    (h : (canIssue s x && (!bankArmed s x && (!faultDue s x && (excB (preChecks { x := x, word := op.word } s op) (.ok ()) && (microBad s x op).isNone)))) = true) : Ready s x op := by
  simp only [Bool.and_eq_true, Bool.not_eq_true', Option.isNone_iff_eq_none] at h
  exact ⟨h.1, h.2.1, h.2.2.1, exc h.2.2.2.1, h.2.2.2.2⟩

theorem repReady_of {s : State} {x : Exec} {w : BitVec 32}
    (h : (canIssue s x && (!bankArmed s x && (!faultDue s x && (excB (repChecks { x := x, word := w } s) (.ok ()) && (repMicroBad s x w).isNone)))) = true) : RepReady s x w := by
  simp only [Bool.and_eq_true, Bool.not_eq_true', Option.isNone_iff_eq_none] at h
  exact ⟨h.1, h.2.1, h.2.2.1, exc h.2.2.2.1, h.2.2.2.2⟩

theorem mapped_of {e : Env} {s t : State} {va : BitVec 59} {acc size : Nat} {v : Option (BitVec 64)} {l : Leaf}
    (h : (excB (translate e acc va size v s).1 (.ok l) && excB (watch t e.x va (acc == 1 || acc == 3)) (.ok ()) &&
      decide (isGlobal va = false ∧ va.toNat % size = 0 ∧ (translate e acc va size v s).2 = t ∧ pteMt l.pte = 0 ∧ isReg (l.lpa va) = false ∧
        (s.gcLag.contains (xcore e.x) = false ∧ (gcOf s e.x).en = false) ∧ t.gcLag.contains (xcore e.x) = false ∧ (gcOf t e.x).en = false)) = true) :
    Mapped e s va acc size v l t := by
  simp only [Bool.and_eq_true, decide_eq_true_eq] at h
  obtain ⟨⟨h1, h2⟩, h3, h4, h5, h6, h7, h8⟩ := h
  exact ⟨h3, h4, Prod.ext (exc h1) h5, h2 |> exc, h6, h7, h8⟩

/-- The request at the front of the mesh, as a value. -/
def askedB (s : State) (k : MsgK) (rk : ReqK) (c l : Nat) (r : Req) (u : State) : Bool :=
  match s.mesh with
  | m :: _ => decide (AtHome s k c l m u ∧ m.req = some r ∧ r.kind = rk ∧ r.core = c ∧ r.line = l ∧ HomeFree u r ∧ sameCycle s m (fun _ => true) = [])
  | [] => false

theorem asked_of {s u : State} {k : MsgK} {rk : ReqK} {c l : Nat} {r : Req} (h : askedB s k rk c l r u = true) : Asked s k rk c l r u := by
  unfold askedB at h
  split at h
  · next m _ _ => exact ⟨m, of_decide_eq_true h⟩
  · cases h

/-- Whether a branch's direction is foretold, as a value. -/
def foretoldB (s : State) (x : Exec) (taken : Bool) : Bool :=
  match slotOf s x with | some k => predicted s x k == taken || (s.core (xcore x)).cfg.getLsbD 1 | none => true

theorem foretold_of {s : State} {x : Exec} {taken : Bool} (h : foretoldB s x taken = true) : Foretold s x taken := by
  intro k hk
  unfold foretoldB at h
  rw [hk] at h
  simpa using h

theorem not_foretold_of {s : State} {x : Exec} {taken : Bool} (h : foretoldB s x taken = false) : ¬ Foretold s x taken := by
  intro f
  unfold foretoldB at h
  split at h
  · next k hk =>
    simp only [Bool.or_eq_false_iff] at h
    rcases f k hk with e | e
    · simp [e] at h
    · rw [h.2] at e; cases e
  · cases h

/-- The rest of a pending access's instruction, as a value. -/
def goesB (s : State) (x : Exec) (p : Pend) (u : State) : Bool :=
  let q := answered s p
  let r := pendBody p { x := x, word := p.word, once := q.once, words := q.words, contended := q.contended, bar := q.bar } (setPend (dropRead s x) x none)
  p.ready && (!dyingX s x && ((faultOf s x).isNone && ((match x, p.regs with | .ctx _, some was => decide (regFile s x = some was) | _, _ => true) &&
    (excB r.1 (.ok .next) && (decide (r.2 = u) && !(u.core (xcore x)).subst)))))

theorem goesOn_of {s u : State} {x : Exec} {p : Pend} (h : goesB s x p u = true) : GoesOn s x p u := by
  simp only [goesB, Bool.and_eq_true, Bool.not_eq_true', decide_eq_true_eq, Option.isNone_iff_eq_none] at h
  obtain ⟨h1, h2, h3, h4, h5, h6, h7⟩ := h
  refine ⟨h1, h2, h3, ?_, Prod.ext (exc h5) h6, h7⟩
  intro n was hx hr
  subst hx
  rw [hr] at h4
  exact of_decide_eq_true h4

theorem rep_ok {x : Exec} {w : BitVec 32} (h : (match repTarget x w with | .ok _ => true | .error _ => false) = true) : repTarget x w = .ok (repF x w) := by
  unfold repF
  cases g : repTarget x w <;> simp_all

theorem pend_same {q p : Pend} (h1 : q.fetch = p.fetch) (h2 : q.rep = p.rep) (h3 : q.word = p.word) : pendBody q = pendBody p := by
  unfold pendBody
  rw [h1, h2, h3]

theorem all_tgetD {α : Type} {p : α → Prop} {d : α} {t : Tbl α} (h0 : p d) (h : ∀ e ∈ t, p e.2) (k : Nat) : p (tgetD t k d) := by
  induction t with
  | nil => exact h0
  | cons e r ih =>
    obtain ⟨j, v⟩ := e
    by_cases g : j = k
    · simpa [tgetD, tget, g] using h (j, v) (by simp)
    · simpa [tgetD, tget, g] using ih fun e he => h e (by simp [he])

theorem all_ctx {p : Ctx → Prop} {s : State} (h0 : p {}) (h : ∀ e ∈ s.ctxs, p e.2) (k : Nat) : p (s.ctx k) := all_tgetD h0 h k

theorem all_tile {p : Tile → Prop} {s : State} (h0 : p {}) (h : ∀ e ∈ s.tiles, p e.2) (k : Nat) : p (s.tile k) := all_tgetD h0 h k

theorem some_all {α : Type} {p : α → Prop} [DecidablePred p] {o : Option α} (h : (match o with | some a => decide (p a) | none => true) = true) :
    ∀ a, o = some a → p a := by
  intro a e
  subst e
  exact of_decide_eq_true h

/-! ## WellFormed: an ill-formed command for each check -/

theorem test_wf_executor : (Instr.iadd (.ctx 40960) 1 2 3).wf = false ∧ (Instr.iadd (.ctx 40959) 1 2 3).wf = true ∧ (Instr.iadd (.fic 255) 1 2 3).wf = true := by decide +kernel
theorem test_wf_line : (Instr.wrf 0 [] none).wf = false ∧ (Instr.wrf 0 (List.replicate 8 nilW) none).wf = true := by decide +kernel
theorem test_wf_pair : (Instr.rpair (hd 6) []).wf = false ∧ (Instr.rpair (hd 6) (List.replicate 16 nilW)).wf = true := by decide +kernel
theorem test_wf_record : (Instr.quantumExpiry 40960).wf = false ∧ (Instr.stubRelease 40959).wf = true := by decide +kernel
theorem test_wf_controller : (Instr.scrubRead 24).wf = false ∧ (Instr.scrubRead 23).wf = true := by decide +kernel
theorem test_wf_flit : (Instr.idleFlit 0 { fli 0 0 0 15 [] with area := [] }).wf = false ∧ (Instr.idleFlit 0 (fli 0 0 0 15 [])).wf = true := by decide +kernel
theorem test_wf_lane : (Instr.laneLockLoss 0 5).wf = false ∧ (Instr.laneLockLoss 0 4).wf = true := by decide +kernel
theorem test_wf_coll : (Instr.coll 0 ⟨0, false, false, false, 0, 0, 0, 0, List.replicate 55 nilW⟩).wf = false := by decide +kernel
theorem test_wf_bar4 : (Instr.bar4Read 0 0).wf = false ∧ (Instr.bar4Read 0 4096).wf = true ∧ (Instr.bar4Write 0 [] false).wf = false := by decide +kernel
theorem test_wf_hash : (Instr.ownerKeyHashWrite []).wf = false ∧ (Instr.ownerKeyHashWrite (List.replicate 48 1)).wf = true := by decide +kernel
theorem test_wf_domain : (Instr.pdCtlOn 76).wf = false ∧ (Instr.pdCtlOn 75).wf = true := by decide +kernel

/-! ## Words, written out from R106 and the tables of opcodes -/

theorem test_word_r : decodeInstr 0b00000000011001000010100000000001#32 = .ok (.iadd 3 4 5) := exc (by decide +kernel)
theorem test_word_i : decodeInstr 0b00110001001001110000000000010000#32 = .ok (.ldw 9 7 16) := exc (by decide +kernel)
theorem test_word_b : decodeInstr 0b01100000010111111111111111111110#32 = .ok (.bz 2 (-2)) := exc (by decide +kernel)
theorem test_word_j : decodeInstr 0b10000000000000000000000000000101#32 = .ok (.j 5) := exc (by decide +kernel)
theorem test_word_retw : decodeInstr 0b10010000000000000000000000000000#32 = .ok .retw := exc (by decide +kernel)
theorem test_word_nonzero_field : decodeInstr 0b10010000000000000000000000000001#32 = .error 2 := exc (by decide +kernel)
theorem test_word_undefined : decodeInstr 0b11010000000000000000000000000000#32 = .error 1 := exc (by decide +kernel)

/-! ## The queue and memory -/

theorem witness_StepTakesFront : ({ State.reset with pending := [.dictMirrorTick] } : State).pending = .dictMirrorTick :: [] := rfl
theorem witness_EmptyQueueIdles : State.reset.pending = [] := rfl
theorem witness_MemoryCanonicalKept : ∃ t, MemOk { base with pending := [.dictMirrorTick] } ∧ step { base with pending := [.dictMirrorTick] } = .next t :=
  ⟨_, by unfold MemOk; decide +kernel, rfl⟩
theorem witness_WordRoundTrip : sprOk 0x010 = true ∧ itemOk 0x050 = true ∧ allocCode 0x101 = true := by decide +kernel

/-! ## Witnesses of the hypotheses of the obligations -/

namespace GlobalZero
namespace C0
abbrev r := 3
abbrev met : Prop := (r ≠ 0)
theorem holds : met := by decide +kernel
end C0
theorem all : C0.met :=
  C0.holds
end GlobalZero
theorem witness_GlobalZero : GlobalZero.C0.met := GlobalZero.all

namespace IntegerResults
namespace C0
abbrev s : State := regs base [(4, fx 7), (5, fx 3)]
abbrev x : Exec := .ctx 0
abbrev rd : BitVec 5 := 3
abbrev rs : BitVec 5 := 4
abbrev rt : BitVec 5 := 5
abbrev a := xreg s x rs
abbrev b := xreg s x rt
abbrev met : Prop := (IsInt a ∧ IsInt b ∧ Whole a ∧ Whole b) ∧ (Ready s x (.mov rd rs)) ∧ (Ready s x (.tagof rd rs)) ∧ (Ready s x (.iadd rd rs rt)) ∧ (Ready s x (.isub rd rs rt)) ∧ (Ready s x (.imul rd rs rt)) ∧ (Ready s x (.and rd rs rt)) ∧ (Ready s x (.or rd rs rt)) ∧ (Ready s x (.xor rd rs rt)) ∧ (Ready s x (.andn rd rs rt)) ∧ (Ready s x (.shl rd rs rt)) ∧ (Ready s x (.shr rd rs rt)) ∧ (Ready s x (.sar rd rs rt)) ∧ (Ready s x (.ult rd rs rt)) ∧ (Ready s x (.eq rd rs rt)) ∧ (Ready s x (.ne rd rs rt))
theorem holds : met := by
  refine ⟨?_, ready_of ?_, ready_of ?_, ready_of ?_, ready_of ?_, ready_of ?_, ready_of ?_, ready_of ?_, ready_of ?_, ready_of ?_, ready_of ?_, ready_of ?_, ready_of ?_, ready_of ?_, ready_of ?_, ready_of ?_⟩ <;> decide +kernel
end C0
theorem all : C0.met :=
  C0.holds
end IntegerResults
theorem witness_IntegerResults : IntegerResults.C0.met := IntegerResults.all

namespace ImmediateResults
namespace C0
abbrev s : State := regs base [(4, fx 7), (5, fx 3)]
abbrev x : Exec := .ctx 0
abbrev rd : BitVec 5 := 3
abbrev imm : BitVec 14 := 0x3FFF
abbrev rs : BitVec 5 := 4
abbrev a := xreg s x rs
abbrev sh : BitVec 6 := 63
abbrev tag : BitVec 10 := 0x001
abbrev kind : BitVec 2 := 0
abbrev met : Prop := (IsInt a ∧ IsFix a) ∧ (Ready s x (.movi rd imm)) ∧ (Ready s x (.moviR rd imm)) ∧ (Ready s x (.ldc rd rs imm)) ∧ (Ready s x (.shli rd rs sh)) ∧ (Ready s x (.shri rd rs sh)) ∧ (Ready s x (.sari rd rs sh)) ∧ (Ready s x (.andi rd rs imm)) ∧ (Ready s x (.eqi rd rs imm)) ∧ (Ready s x (.lti rd rs imm)) ∧ (Ready s x (.lei rd rs imm)) ∧ (Ready s x (.gti rd rs imm)) ∧ (Ready s x (.tagis rd rs tag)) ∧ (Ready s x (.kindis rd rs kind))
theorem holds : met := by
  refine ⟨?_, ready_of ?_, ready_of ?_, ready_of ?_, ready_of ?_, ready_of ?_, ready_of ?_, ready_of ?_, ready_of ?_, ready_of ?_, ready_of ?_, ready_of ?_, ready_of ?_, ready_of ?_⟩ <;> decide +kernel
end C0
namespace C1
abbrev s : State := regs base [(4, fx 7), (5, fx 3)]
abbrev x : Exec := .ctx 0
abbrev rd : BitVec 5 := 3
abbrev rs : BitVec 5 := 4
abbrev tag : BitVec 10 := 0x003
abbrev a := xreg s x rs
abbrev met : Prop := (Whole a ∧ xsup s x = true ∧ reservedTag tag = false ∧ ((tag = 0x003 → a.payload.toNat ≤ 0x10FFFF ∧ (a.payload.toNat < 0xD800 ∨ 0xDFFF < a.payload.toNat)))) ∧ (Ready s x (.settag rd rs tag))
theorem holds : met := by
  refine ⟨?_, ready_of ?_⟩ <;> decide +kernel
end C1
theorem all : C0.met ∧ C1.met :=
  ⟨C0.holds, C1.holds⟩
end ImmediateResults
theorem witness_ImmediateResults : ImmediateResults.C0.met ∧ ImmediateResults.C1.met := ImmediateResults.all

namespace IntegerTagTraps
namespace C0
abbrev s : State := regs base [(4, ptr 2 7), (5, fx 3)]
abbrev x : Exec := .ctx 0
abbrev rd : BitVec 5 := 3
abbrev rs : BitVec 5 := 4
abbrev rt : BitVec 5 := 5
abbrev c : Instr := .iadd (.ctx 0) 3 4 5
abbrev o : Op := .iadd 3 4 5
abbrev a := xreg s x rs
abbrev met : Prop := ((((c, o) ∈ [(.iadd x rd rs rt, .iadd rd rs rt), (.isub x rd rs rt, .isub rd rs rt), (.imul x rd rs rt, .imul rd rs rt),
    (.and x rd rs rt, .and rd rs rt), (.or x rd rs rt, .or rd rs rt), (.xor x rd rs rt, .xor rd rs rt),
    (.andn x rd rs rt, .andn rd rs rt), (.shl x rd rs rt, .shl rd rs rt), (.shr x rd rs rt, .shr rd rs rt),
    (.sar x rd rs rt, .sar rd rs rt), (.ult x rd rs rt, Op.ult rd rs rt)])) ∧ Whole a ∧ (¬ IsInt a)) ∧ Ready s x o
theorem holds : met := by
  refine ⟨?_, ready_of ?_⟩ <;> decide +kernel
end C0
namespace C1
abbrev s : State := regs base [(4, fx 7), (5, ptr 2 7)]
abbrev x : Exec := .ctx 0
abbrev rd : BitVec 5 := 3
abbrev rs : BitVec 5 := 4
abbrev rt : BitVec 5 := 5
abbrev c : Instr := .iadd (.ctx 0) 3 4 5
abbrev o : Op := .iadd 3 4 5
abbrev a := xreg s x rs
abbrev b := xreg s x rt
abbrev met : Prop := ((((c, o) ∈ [(.iadd x rd rs rt, .iadd rd rs rt), (.isub x rd rs rt, .isub rd rs rt), (.imul x rd rs rt, .imul rd rs rt),
    (.and x rd rs rt, .and rd rs rt), (.or x rd rs rt, .or rd rs rt), (.xor x rd rs rt, .xor rd rs rt),
    (.andn x rd rs rt, .andn rd rs rt), (.shl x rd rs rt, .shl rd rs rt), (.shr x rd rs rt, .shr rd rs rt),
    (.sar x rd rs rt, .sar rd rs rt), (.ult x rd rs rt, Op.ult rd rs rt)])) ∧ IsInt a ∧ Whole b ∧ (¬ IsInt b)) ∧ Ready s x o
theorem holds : met := by
  refine ⟨?_, ready_of ?_⟩ <;> decide +kernel
end C1
theorem all : C0.met ∧ C1.met :=
  ⟨C0.holds, C1.holds⟩
end IntegerTagTraps
theorem witness_IntegerTagTraps : IntegerTagTraps.C0.met ∧ IntegerTagTraps.C1.met := IntegerTagTraps.all

namespace FixnumArithmetic
namespace C0
abbrev s : State := regs base [(4, fx 7), (5, fx 3)]
abbrev x : Exec := .ctx 0
abbrev rd : BitVec 5 := 3
abbrev rs : BitVec 5 := 4
abbrev a := (xreg s x rs).payload.toInt
abbrev fits : Int → Prop := fun v => -(2 ^ 63) ≤ v ∧ v < 2 ^ 63
abbrev imm : BitVec 14 := 0x3FFF
abbrev rt : BitVec 5 := 5
abbrev b := (xreg s x rt).payload.toInt
abbrev met : Prop := ((IsFix (xreg s x rs)) ∧ (fits (-a)) ∧ (fits (a + imm.toInt)) ∧ (IsFix (xreg s x rt)) ∧ (fits (a + b)) ∧ (fits (a - b)) ∧ (fits (a * b)) ∧ (b ≠ 0) ∧ (fits (a.tdiv b))) ∧ (Ready s x (.neg rd rs)) ∧ (Ready s x (.addi rd rs imm)) ∧ (Ready s x (.add rd rs rt)) ∧ (Ready s x (.sub rd rs rt)) ∧ (Ready s x (.mul rd rs rt)) ∧ (Ready s x (.div rd rs rt)) ∧ (Ready s x (.rem rd rs rt)) ∧ (Ready s x (.numeq rd rs rt)) ∧ (Ready s x (.lt rd rs rt)) ∧ (Ready s x (.le rd rs rt))
theorem holds : met := by
  refine ⟨?_, ready_of ?_, ready_of ?_, ready_of ?_, ready_of ?_, ready_of ?_, ready_of ?_, ready_of ?_, ready_of ?_, ready_of ?_, ready_of ?_⟩ <;> decide +kernel
end C0
theorem all : C0.met :=
  C0.holds
end FixnumArithmetic
theorem witness_FixnumArithmetic : FixnumArithmetic.C0.met := FixnumArithmetic.all

namespace FpArithmetic
namespace C0
abbrev s : State := fpb base
abbrev x : Exec := .ctx 0
abbrev fd : BitVec 5 := 1
abbrev fs : BitVec 5 := 2
abbrev ft : BitVec 5 := 3
abbrev b : Nat := 0
abbrev m := rmOf (xfpsr s x)
abbrev g := fpGet s (xcore x) b
abbrev met : Prop := (BankOk s x b ∧ (NoTrap s x (fadd m (g fs) (g ft))) ∧ (NoTrap s x (fsub m (g fs) (g ft))) ∧ (NoTrap s x (fmul m (g fs) (g ft))) ∧ (NoTrap s x (fdiv m (g fs) (g ft))) ∧ (NoTrap s x (ffma m (g fd) (g fs) (g ft))) ∧ (NoTrap s x (fminmax false (g fs) (g ft))) ∧ (NoTrap s x (fminmax true (g fs) (g ft))) ∧ (NoTrap s x (fsqrt m (g fs)))) ∧ (Ready s x (.fadd fd fs ft)) ∧ (Ready s x (.fsub fd fs ft)) ∧ (Ready s x (.fmul fd fs ft)) ∧ (Ready s x (.fdiv fd fs ft)) ∧ (Ready s x (.fma fd fs ft)) ∧ (Ready s x (.fmin fd fs ft)) ∧ (Ready s x (.fmax fd fs ft)) ∧ (Ready s x (.fsqrt fd fs)) ∧ (Ready s x (.fneg fd fs)) ∧ (Ready s x (.fabs fd fs)) ∧ (Ready s x (.fmov fd fs))
theorem holds : met := by
  refine ⟨?_, ready_of ?_, ready_of ?_, ready_of ?_, ready_of ?_, ready_of ?_, ready_of ?_, ready_of ?_, ready_of ?_, ready_of ?_, ready_of ?_, ready_of ?_⟩ <;> decide +kernel
end C0
theorem all : C0.met :=
  C0.holds
end FpArithmetic
theorem witness_FpArithmetic : FpArithmetic.C0.met := FpArithmetic.all

namespace FpComparesAndMoves
namespace C0
abbrev s : State := fpb base
abbrev x : Exec := .ctx 0
abbrev rd : BitVec 5 := 3
abbrev fs : BitVec 5 := 2
abbrev ft : BitVec 5 := 3
abbrev b : Nat := 0
abbrev g := fpGet s (xcore x) b
abbrev m := rmOf (xfpsr s x)
abbrev met : Prop := (BankOk s x b ∧ (NoTrap s x (frel 0 (fdec (g fs)) (fdec (g ft)) (isSnan (g fs) || isSnan (g ft)))) ∧ (NoTrap s x (frel 1 (fdec (g fs)) (fdec (g ft)) (isSnan (g fs) || isSnan (g ft)))) ∧ (NoTrap s x (frel 2 (fdec (g fs)) (fdec (g ft)) (isSnan (g fs) || isSnan (g ft)))) ∧ (NoTrap s x (toFix m (g fs)))) ∧ (Ready s x (.fceq rd fs ft)) ∧ (Ready s x (.fclt rd fs ft)) ∧ (Ready s x (.fcle rd fs ft)) ∧ (Ready s x (.fmvfg rd fs)) ∧ (Ready s x (.fcvtfx rd fs))
theorem holds : met := by
  refine ⟨?_, ready_of ?_, ready_of ?_, ready_of ?_, ready_of ?_, ready_of ?_⟩ <;> decide +kernel
end C0
namespace C1
abbrev s : State := regs (fpb base) [(4, ptr 2 7)]
abbrev x : Exec := .ctx 0
abbrev rs : BitVec 5 := 4
abbrev fd : BitVec 5 := 1
abbrev b : Nat := 0
abbrev a := xreg s x rs
abbrev met : Prop := (BankOk s x b ∧ a.tag = 0x002) ∧ (Ready s x (.fmvgf fd rs))
theorem holds : met := by
  refine ⟨?_, ready_of ?_⟩ <;> decide +kernel
end C1
namespace C2
abbrev s : State := regs (fpb base) [(4, fx 7)]
abbrev x : Exec := .ctx 0
abbrev rs : BitVec 5 := 4
abbrev fd : BitVec 5 := 1
abbrev b : Nat := 0
abbrev m := rmOf (xfpsr s x)
abbrev a := xreg s x rs
abbrev met : Prop := (BankOk s x b ∧ IsFix a ∧ (NoTrap s x (fromInt m a.payload.toInt))) ∧ (Ready s x (.fcvtxf fd rs))
theorem holds : met := by
  refine ⟨?_, ready_of ?_⟩ <;> decide +kernel
end C2
theorem all : C0.met ∧ C1.met ∧ C2.met :=
  ⟨C0.holds, C1.holds, C2.holds⟩
end FpComparesAndMoves
theorem witness_FpComparesAndMoves : FpComparesAndMoves.C0.met ∧ FpComparesAndMoves.C1.met ∧ FpComparesAndMoves.C2.met := FpComparesAndMoves.all

namespace FpRegistersKept
namespace C0
abbrev n : BitVec 16 := 0
abbrev b : Nat := 0
abbrev fd : BitVec 5 := 1
abbrev x := Exec.ctx n
abbrev k := 1
abbrev b' := 0
abbrev f := (1 : BitVec 5)
abbrev met : Prop := ((k, b', f.toNat % 16) ≠ (xcore x, b, fd.toNat % 16))
theorem holds : met := by decide +kernel
end C0
namespace C1
abbrev n : BitVec 16 := 0
abbrev k := 160
abbrev met : Prop := (k ≠ n.toNat)
theorem holds : met := by decide +kernel
end C1
theorem all : C0.met ∧ C1.met :=
  ⟨C0.holds, C1.holds⟩
end FpRegistersKept
theorem witness_FpRegistersKept : FpRegistersKept.C0.met ∧ FpRegistersKept.C1.met := FpRegistersKept.all

namespace FpFieldBit4
namespace C0
abbrev s : State := base
abbrev n : BitVec 16 := 0
abbrev o : Op := .fadd 16 2 3
abbrev met : Prop := ((canIssue s (.ctx n) = true) ∧ (bankArmed s (.ctx n) = false) ∧ (faultDue s (.ctx n) = false) ∧ (o.fpFields ≠ []) ∧ ((∃ r ∈ o.fpFields, r.getLsbD 4 = true))) ∧ (pcChecks (env (.ctx n) o) s = .ok ()) ∧ (busCheck (env (.ctx n) o) s = .ok ())
theorem holds : met := by
  refine ⟨?_, exc ?_, exc ?_⟩ <;> decide +kernel
end C0
namespace C1
abbrev s : State := base
abbrev n : BitVec 16 := 0
abbrev o : Op := .fadd 15 2 3
abbrev met : Prop := ((canIssue s (.ctx n) = true) ∧ (bankArmed s (.ctx n) = false) ∧ (faultDue s (.ctx n) = false) ∧ (o.fpFields ≠ []) ∧ ((∀ r ∈ o.fpFields, r.getLsbD 4 = false)) ∧ (microBad s (.ctx n) o = none)) ∧ (pcChecks (env (.ctx n) o) s = .ok ()) ∧ (busCheck (env (.ctx n) o) s = .ok ())
theorem holds : met := by
  refine ⟨?_, exc ?_, exc ?_⟩ <;> decide +kernel
end C1
theorem all : C0.met ∧ C1.met :=
  ⟨C0.holds, C1.holds⟩
end FpFieldBit4
theorem witness_FpFieldBit4 : FpFieldBit4.C0.met ∧ FpFieldBit4.C1.met := FpFieldBit4.all

namespace LoadHits
namespace C0
abbrev s : State := regs (held base .e [rawW 0x1122, fx 5, ptr 0x100 0x3000, fx 5, fx 9]) [(4, rawW 0x3000), (5, fx 1)]
abbrev x : Exec := .ctx 0
abbrev rd : BitVec 5 := 3
abbrev rs : BitVec 5 := 4
abbrev imm : BitVec 14 := 0
abbrev a := xreg s x rs
abbrev w := rawW 0x1122
abbrev t := tr (.ldw 3 4 0) 0 0x3000 8 none (regs (held base .e [rawW 0x1122, fx 5, ptr 0x100 0x3000, fx 5, fx 9]) [(4, rawW 0x3000), (5, fx 1)])
abbrev va := addOff (vaOf a) (imm.signExtend 64)
abbrev met : Prop := (Through s x a ∧ (w.tag ≠ 0x000)) ∧ (Ready s x (.ldw rd rs imm)) ∧ (Reads (env x (.ldw rd rs imm)) s va 8 w t)
theorem holds : met := by
  refine ⟨?_, ready_of ?_, reads_of ?_⟩ <;> decide +kernel
end C0
namespace C1
abbrev s : State := regs (held base .e [rawW 0x1122, fx 5, ptr 0x100 0x3000, fx 5, fx 9]) [(4, rawW 0x3000), (5, fx 1)]
abbrev x : Exec := .ctx 0
abbrev rd : BitVec 5 := 3
abbrev rs : BitVec 5 := 4
abbrev imm : BitVec 14 := 0
abbrev a := xreg s x rs
abbrev w := rawW 0x1122
abbrev t := tr (.ldwA 3 4 0) 0 0x3000 8 none (regs (held base .e [rawW 0x1122, fx 5, ptr 0x100 0x3000, fx 5, fx 9]) [(4, rawW 0x3000), (5, fx 1)])
abbrev va := addOff (vaOf a) (imm.signExtend 64)
abbrev met : Prop := (Through s x a ∧ (w.tag ≠ 0x000)) ∧ (Ready s x (.ldwA rd rs imm)) ∧ (Reads (env x (.ldwA rd rs imm)) s va 8 w t)
theorem holds : met := by
  refine ⟨?_, ready_of ?_, reads_of ?_⟩ <;> decide +kernel
end C1
namespace C2
abbrev s : State := regs (held base .e [rawW 0x1122, fx 5, ptr 0x100 0x3000, fx 5, fx 9]) [(4, rawW 0x3000), (5, fx 1)]
abbrev x : Exec := .ctx 0
abbrev rd : BitVec 5 := 3
abbrev rs : BitVec 5 := 4
abbrev imm : BitVec 14 := 0
abbrev a := xreg s x rs
abbrev w := rawW 0x1122
abbrev t := tr (.ldwP 3 4 0) 0 0x3000 8 none (regs (held base .e [rawW 0x1122, fx 5, ptr 0x100 0x3000, fx 5, fx 9]) [(4, rawW 0x3000), (5, fx 1)])
abbrev va := addOff (vaOf a) (imm.signExtend 64)
abbrev met : Prop := (Through s x a ∧ xsup s x = true) ∧ (Ready s x (.ldwP rd rs imm)) ∧ (Reads (env x (.ldwP rd rs imm)) s va 8 w t)
theorem holds : met := by
  refine ⟨?_, ready_of ?_, reads_of ?_⟩ <;> decide +kernel
end C2
namespace C3
abbrev s : State := regs (held base .e [rawW 0x1122, fx 5, ptr 0x100 0x3000, fx 5, fx 9]) [(4, rawW 0x3000), (5, fx 1)]
abbrev x : Exec := .ctx 0
abbrev rd : BitVec 5 := 3
abbrev rs : BitVec 5 := 4
abbrev rt : BitVec 5 := 5
abbrev a := xreg s x rs
abbrev w := fx 5
abbrev t := tr (.ldx 3 4 5) 0 0x3008 8 none (regs (held base .e [rawW 0x1122, fx 5, ptr 0x100 0x3000, fx 5, fx 9]) [(4, rawW 0x3000), (5, fx 1)])
abbrev va := addOff (vaOf a) ((xreg s x rt).payload * 8)
abbrev met : Prop := (Through s x a ∧ (IsFix (xreg s x rt)) ∧ (w.tag ≠ 0x000)) ∧ (Ready s x (.ldx rd rs rt)) ∧ (Reads (env x (.ldx rd rs rt)) s va 8 w t)
theorem holds : met := by
  refine ⟨?_, ready_of ?_, reads_of ?_⟩ <;> decide +kernel
end C3
namespace C4
abbrev s : State := regs (held base .e [rawW 0x1122, fx 5, ptr 0x100 0x3000, fx 5, fx 9]) [(4, rawW 0x3000), (5, fx 1)]
abbrev x : Exec := .ctx 0
abbrev rd : BitVec 5 := 3
abbrev rs : BitVec 5 := 4
abbrev rt : BitVec 5 := 5
abbrev a := xreg s x rs
abbrev w := fx 5
abbrev t := tr (.ldxA 3 4 5) 0 0x3008 8 none (regs (held base .e [rawW 0x1122, fx 5, ptr 0x100 0x3000, fx 5, fx 9]) [(4, rawW 0x3000), (5, fx 1)])
abbrev va := addOff (vaOf a) ((xreg s x rt).payload * 8)
abbrev met : Prop := (Through s x a ∧ (IsFix (xreg s x rt)) ∧ (w.tag ≠ 0x000)) ∧ (Ready s x (.ldxA rd rs rt)) ∧ (Reads (env x (.ldxA rd rs rt)) s va 8 w t)
theorem holds : met := by
  refine ⟨?_, ready_of ?_, reads_of ?_⟩ <;> decide +kernel
end C4
namespace C5
abbrev s : State := rec0 (held base .e [rawW 0x1122, fx 5, ptr 0x100 0x3000, fx 5, fx 9]) fun r => { r with pc := 0x2FF8 }
abbrev x : Exec := .ctx 0
abbrev rd : BitVec 5 := 3
abbrev off : BitVec 21 := 2
abbrev w := rawW 0x1122
abbrev t := tr (.ldpc 3 2) 0 0x3000 8 none (rec0 (held base .e [rawW 0x1122, fx 5, ptr 0x100 0x3000, fx 5, fx 9]) fun r => { r with pc := 0x2FF8 })
abbrev va := branchTo (xpc s x) off
abbrev met : Prop := (w.tag ≠ 0x000) ∧ (Ready s x (.ldpc rd off)) ∧ (Reads (env x (.ldpc rd off)) s va 8 w t)
theorem holds : met := by
  refine ⟨?_, ready_of ?_, reads_of ?_⟩ <;> decide +kernel
end C5
namespace C6
abbrev s : State := regs (held base .e [rawW 0x1122, fx 5, ptr 0x100 0x3000, fx 5, fx 9]) [(4, rawW 0x3000), (5, fx 1)]
abbrev x : Exec := .ctx 0
abbrev rd : BitVec 5 := 3
abbrev rs : BitVec 5 := 4
abbrev imm : BitVec 14 := 1
abbrev a := xreg s x rs
abbrev w := rawW 0x1122
abbrev t := tr (.ldb 3 4 1) 0 0x3001 1 none (regs (held base .e [rawW 0x1122, fx 5, ptr 0x100 0x3000, fx 5, fx 9]) [(4, rawW 0x3000), (5, fx 1)])
abbrev va := addOff (vaOf a) (imm.signExtend 64)
abbrev met : Prop := (Through s x a ∧ w.tag = 0x006) ∧ (Ready s x (.ldb rd rs imm)) ∧ (Reads (env x (.ldb rd rs imm)) s va 1 w t)
theorem holds : met := by
  refine ⟨?_, ready_of ?_, reads_of ?_⟩ <;> decide +kernel
end C6
namespace C7
abbrev s : State := regs (held base .e [rawW 0x1122, fx 5, ptr 0x100 0x3000, fx 5, fx 9]) [(4, rawW 0x3000), (5, fx 1)]
abbrev x : Exec := .ctx 0
abbrev rd : BitVec 5 := 3
abbrev rs : BitVec 5 := 4
abbrev imm : BitVec 14 := 6
abbrev a := xreg s x rs
abbrev w := rawW 0x1122
abbrev t := tr (.ldh 3 4 6) 0 0x3006 2 none (regs (held base .e [rawW 0x1122, fx 5, ptr 0x100 0x3000, fx 5, fx 9]) [(4, rawW 0x3000), (5, fx 1)])
abbrev va := addOff (vaOf a) (imm.signExtend 64)
abbrev met : Prop := (Through s x a ∧ w.tag = 0x006) ∧ (Ready s x (.ldh rd rs imm)) ∧ (Reads (env x (.ldh rd rs imm)) s va 2 w t)
theorem holds : met := by
  refine ⟨?_, ready_of ?_, reads_of ?_⟩ <;> decide +kernel
end C7
namespace C8
abbrev s : State := regs (held base .e [rawW 0x1122, fx 5, ptr 0x100 0x3000, fx 5, fx 9]) [(4, ptr 0x100 0x3000), (5, fx 1)]
abbrev x : Exec := .ctx 0
abbrev rd : BitVec 5 := 3
abbrev rs : BitVec 5 := 4
abbrev a := xreg s x rs
abbrev w := fx 5
abbrev t := tr (.car 3 4) 0 0x3008 8 none (regs (held base .e [rawW 0x1122, fx 5, ptr 0x100 0x3000, fx 5, fx 9]) [(4, ptr 0x100 0x3000), (5, fx 1)])
abbrev va := vaOf a + 8
abbrev met : Prop := (a.tag = 0x100 ∧ (w.tag ≠ 0x000)) ∧ (Ready s x (.car rd rs)) ∧ (Reads (env x (.car rd rs)) s va 8 w t)
theorem holds : met := by
  refine ⟨?_, ready_of ?_, reads_of ?_⟩ <;> decide +kernel
end C8
namespace C9
abbrev s : State := regs (held base .e [rawW 0x1122, fx 5, ptr 0x100 0x3000, fx 5, fx 9]) [(4, ptr 0x100 0x3000), (5, fx 1)]
abbrev x : Exec := .ctx 0
abbrev rd : BitVec 5 := 3
abbrev rs : BitVec 5 := 4
abbrev a := xreg s x rs
abbrev w := ptr 0x100 0x3000
abbrev t := tr (.cdr 3 4) 0 0x3010 8 none (regs (held base .e [rawW 0x1122, fx 5, ptr 0x100 0x3000, fx 5, fx 9]) [(4, ptr 0x100 0x3000), (5, fx 1)])
abbrev va := vaOf a + 16
abbrev met : Prop := (a.tag = 0x100 ∧ (w.tag ≠ 0x000)) ∧ (Ready s x (.cdr rd rs)) ∧ (Reads (env x (.cdr rd rs)) s va 8 w t)
theorem holds : met := by
  refine ⟨?_, ready_of ?_, reads_of ?_⟩ <;> decide +kernel
end C9
namespace C10
abbrev s : State := regs base [(4, nilW)]
abbrev x : Exec := .ctx 0
abbrev rd : BitVec 5 := 3
abbrev rs : BitVec 5 := 4
abbrev a := xreg s x rs
abbrev met : Prop := a.tag = 0x004 ∧ (Ready s x (.car rd rs)) ∧ (Ready s x (.cdr rd rs))
theorem holds : met := by
  refine ⟨?_, ready_of ?_, ready_of ?_⟩ <;> decide +kernel
end C10
theorem all : C0.met ∧ C1.met ∧ C2.met ∧ C3.met ∧ C4.met ∧ C5.met ∧ C6.met ∧ C7.met ∧ C8.met ∧ C9.met ∧ C10.met :=
  ⟨C0.holds, C1.holds, C2.holds, C3.holds, C4.holds, C5.holds, C6.holds, C7.holds, C8.holds, C9.holds, C10.holds⟩
end LoadHits
theorem witness_LoadHits : LoadHits.C0.met ∧ LoadHits.C1.met ∧ LoadHits.C2.met ∧ LoadHits.C3.met ∧ LoadHits.C4.met ∧ LoadHits.C5.met ∧ LoadHits.C6.met ∧ LoadHits.C7.met ∧ LoadHits.C8.met ∧ LoadHits.C9.met ∧ LoadHits.C10.met := LoadHits.all

namespace StoresArePosted
namespace C0
abbrev s : State := regs (held base .e [rawW 0x1122, fx 5, ptr 0x100 0x3000, fx 5, fx 9]) [(3, fx 77), (4, rawW 0x3000), (5, fx 1)]
abbrev x : Exec := .ctx 0
abbrev rd : BitVec 5 := 3
abbrev rs : BitVec 5 := 4
abbrev imm : BitVec 14 := 0
abbrev a := xreg s x rs
abbrev d := xreg s x rd
abbrev l := trl (.stw 3 4 0) 1 0x3000 8 (some 77) (regs (held base .e [rawW 0x1122, fx 5, ptr 0x100 0x3000, fx 5, fx 9]) [(3, fx 77), (4, rawW 0x3000), (5, fx 1)])
abbrev t := tr (.stw 3 4 0) 1 0x3000 8 (some 77) (regs (held base .e [rawW 0x1122, fx 5, ptr 0x100 0x3000, fx 5, fx 9]) [(3, fx 77), (4, rawW 0x3000), (5, fx 1)])
abbrev va := addOff (vaOf a) (imm.signExtend 64)
abbrev e := env x (.stw rd rs imm)
abbrev met : Prop := (Through s x a ∧ (ownBehind t x (l.lpa va / 8) = false)) ∧ (Ready s x (.stw rd rs imm)) ∧ (Mapped e s va 1 8 (some (d).payload) l t)
theorem holds : met := by
  refine ⟨?_, ready_of ?_, mapped_of ?_⟩ <;> decide +kernel
end C0
namespace C1
abbrev s : State := regs (held base .e [rawW 0x1122, fx 5, ptr 0x100 0x3000, fx 5, fx 9]) [(3, fx 77), (4, rawW 0x3000), (5, fx 1)]
abbrev x : Exec := .ctx 0
abbrev rd : BitVec 5 := 3
abbrev rs : BitVec 5 := 4
abbrev imm : BitVec 14 := 0
abbrev a := xreg s x rs
abbrev d := xreg s x rd
abbrev l := trl (.stwR 3 4 0) 1 0x3000 8 (some 77) (regs (held base .e [rawW 0x1122, fx 5, ptr 0x100 0x3000, fx 5, fx 9]) [(3, fx 77), (4, rawW 0x3000), (5, fx 1)])
abbrev t := tr (.stwR 3 4 0) 1 0x3000 8 (some 77) (regs (held base .e [rawW 0x1122, fx 5, ptr 0x100 0x3000, fx 5, fx 9]) [(3, fx 77), (4, rawW 0x3000), (5, fx 1)])
abbrev va := addOff (vaOf a) (imm.signExtend 64)
abbrev e := env x (.stwR rd rs imm)
abbrev met : Prop := (Through s x a ∧ (ownBehind t x (l.lpa va / 8) = false) ∧ earlierDone t x = true) ∧ (Ready s x (.stwR rd rs imm)) ∧ (Mapped e s va 1 8 (some (d).payload) l t)
theorem holds : met := by
  refine ⟨?_, ready_of ?_, mapped_of ?_⟩ <;> decide +kernel
end C1
namespace C2
abbrev s : State := regs (held base .e [rawW 0x1122, fx 5, ptr 0x100 0x3000, fx 5, fx 9]) [(3, fx 77), (4, rawW 0x3000), (5, fx 1)]
abbrev x : Exec := .ctx 0
abbrev rd : BitVec 5 := 3
abbrev rs : BitVec 5 := 4
abbrev rt : BitVec 5 := 5
abbrev a := xreg s x rs
abbrev d := xreg s x rd
abbrev l := trl (.stx 3 4 5) 1 0x3008 8 (some 77) (regs (held base .e [rawW 0x1122, fx 5, ptr 0x100 0x3000, fx 5, fx 9]) [(3, fx 77), (4, rawW 0x3000), (5, fx 1)])
abbrev t := tr (.stx 3 4 5) 1 0x3008 8 (some 77) (regs (held base .e [rawW 0x1122, fx 5, ptr 0x100 0x3000, fx 5, fx 9]) [(3, fx 77), (4, rawW 0x3000), (5, fx 1)])
abbrev va := addOff (vaOf a) ((xreg s x rt).payload * 8)
abbrev e := env x (.stx rd rs rt)
abbrev met : Prop := (Through s x a ∧ (IsFix (xreg s x rt)) ∧ (ownBehind t x (l.lpa va / 8) = false)) ∧ (Ready s x (.stx rd rs rt)) ∧ (Mapped e s va 1 8 (some (d).payload) l t)
theorem holds : met := by
  refine ⟨?_, ready_of ?_, mapped_of ?_⟩ <;> decide +kernel
end C2
namespace C3
abbrev s : State := regs (held base .e [rawW 0x1122, fx 5, ptr 0x100 0x3000, fx 5, fx 9]) [(3, fx 77), (4, rawW 0x3000), (5, fx 1)]
abbrev x : Exec := .ctx 0
abbrev rd : BitVec 5 := 3
abbrev rs : BitVec 5 := 4
abbrev rt : BitVec 5 := 5
abbrev a := xreg s x rs
abbrev d := xreg s x rd
abbrev l := trl (.stxR 3 4 5) 1 0x3008 8 (some 77) (regs (held base .e [rawW 0x1122, fx 5, ptr 0x100 0x3000, fx 5, fx 9]) [(3, fx 77), (4, rawW 0x3000), (5, fx 1)])
abbrev t := tr (.stxR 3 4 5) 1 0x3008 8 (some 77) (regs (held base .e [rawW 0x1122, fx 5, ptr 0x100 0x3000, fx 5, fx 9]) [(3, fx 77), (4, rawW 0x3000), (5, fx 1)])
abbrev va := addOff (vaOf a) ((xreg s x rt).payload * 8)
abbrev e := env x (.stxR rd rs rt)
abbrev met : Prop := (Through s x a ∧ (IsFix (xreg s x rt)) ∧ (ownBehind t x (l.lpa va / 8) = false) ∧ earlierDone t x = true) ∧ (Ready s x (.stxR rd rs rt)) ∧ (Mapped e s va 1 8 (some (d).payload) l t)
theorem holds : met := by
  refine ⟨?_, ready_of ?_, mapped_of ?_⟩ <;> decide +kernel
end C3
namespace C4
abbrev s : State := regs (held base .e [rawW 0x1122, fx 5, ptr 0x100 0x3000, fx 5, fx 9]) [(3, fx 77), (4, ptr 0x100 0x3000), (5, fx 1)]
abbrev x : Exec := .ctx 0
abbrev rs : BitVec 5 := 4
abbrev rt : BitVec 5 := 5
abbrev a := xreg s x rs
abbrev l := trl (.rplaca 4 5) 1 0x3008 8 (some 1) (regs (held base .e [rawW 0x1122, fx 5, ptr 0x100 0x3000, fx 5, fx 9]) [(3, fx 77), (4, ptr 0x100 0x3000), (5, fx 1)])
abbrev t := tr (.rplaca 4 5) 1 0x3008 8 (some 1) (regs (held base .e [rawW 0x1122, fx 5, ptr 0x100 0x3000, fx 5, fx 9]) [(3, fx 77), (4, ptr 0x100 0x3000), (5, fx 1)])
abbrev va := vaOf a + 8
abbrev e := env x (.rplaca rs rt)
abbrev met : Prop := (a.tag = 0x100 ∧ (ownBehind t x (l.lpa va / 8) = false)) ∧ (Ready s x (.rplaca rs rt)) ∧ (Mapped e s va 1 8 (some (xreg s x rt).payload) l t)
theorem holds : met := by
  refine ⟨?_, ready_of ?_, mapped_of ?_⟩ <;> decide +kernel
end C4
namespace C5
abbrev s : State := regs (held base .e [rawW 0x1122, fx 5, ptr 0x100 0x3000, fx 5, fx 9]) [(3, fx 77), (4, ptr 0x100 0x3000), (5, fx 1)]
abbrev x : Exec := .ctx 0
abbrev rs : BitVec 5 := 4
abbrev rt : BitVec 5 := 5
abbrev a := xreg s x rs
abbrev l := trl (.rplacd 4 5) 1 0x3010 8 (some 1) (regs (held base .e [rawW 0x1122, fx 5, ptr 0x100 0x3000, fx 5, fx 9]) [(3, fx 77), (4, ptr 0x100 0x3000), (5, fx 1)])
abbrev t := tr (.rplacd 4 5) 1 0x3010 8 (some 1) (regs (held base .e [rawW 0x1122, fx 5, ptr 0x100 0x3000, fx 5, fx 9]) [(3, fx 77), (4, ptr 0x100 0x3000), (5, fx 1)])
abbrev va := vaOf a + 16
abbrev e := env x (.rplacd rs rt)
abbrev met : Prop := (a.tag = 0x100 ∧ (ownBehind t x (l.lpa va / 8) = false)) ∧ (Ready s x (.rplacd rs rt)) ∧ (Mapped e s va 1 8 (some (xreg s x rt).payload) l t)
theorem holds : met := by
  refine ⟨?_, ready_of ?_, mapped_of ?_⟩ <;> decide +kernel
end C5
namespace C6
abbrev s : State := regs (held base .e [rawW 0x1122, fx 5, ptr 0x100 0x3000, fx 5, fx 9]) [(3, fx 77), (4, rawW 0x3000), (5, fx 1)]
abbrev x : Exec := .ctx 0
abbrev rd : BitVec 5 := 3
abbrev rs : BitVec 5 := 4
abbrev imm : BitVec 14 := 7
abbrev a := xreg s x rs
abbrev d := xreg s x rd
abbrev l := trl (.stb 3 4 7) 1 0x3007 1 (some 0) (regs (held base .e [rawW 0x1122, fx 5, ptr 0x100 0x3000, fx 5, fx 9]) [(3, fx 77), (4, rawW 0x3000), (5, fx 1)])
abbrev t := tr (.stb 3 4 7) 1 0x3007 1 (some 0) (regs (held base .e [rawW 0x1122, fx 5, ptr 0x100 0x3000, fx 5, fx 9]) [(3, fx 77), (4, rawW 0x3000), (5, fx 1)])
abbrev h := ({ st := .e, data := lineOf [rawW 0x1122, fx 5, ptr 0x100 0x3000, fx 5, fx 9] } : L1Line)
abbrev va := addOff (vaOf a) (imm.signExtend 64)
abbrev e := env x (.stb rd rs imm)
abbrev key := l.lpa va / 8
abbrev met : Prop := (Through s x a ∧ IsInt d ∧ Held t x key h ∧ ((h.st = .m ∨ h.st = .e)) ∧ (((lineWord h.data key).tag = 0x006 ∨ (lineWord h.data key).tag = 0x000))) ∧ (Ready s x (.stb rd rs imm)) ∧ (Mapped e s va 1 1 (some 0) l t)
theorem holds : met := by
  refine ⟨?_, ready_of ?_, mapped_of ?_⟩ <;> decide +kernel
end C6
namespace C7
abbrev s : State := regs (held base .e [rawW 0x1122, fx 5, ptr 0x100 0x3000, fx 5, fx 9]) [(3, fx 77), (4, rawW 0x3000), (5, fx 1)]
abbrev x : Exec := .ctx 0
abbrev rd : BitVec 5 := 3
abbrev rs : BitVec 5 := 4
abbrev imm : BitVec 14 := 6
abbrev a := xreg s x rs
abbrev d := xreg s x rd
abbrev l := trl (.sth 3 4 6) 1 0x3006 2 (some 0) (regs (held base .e [rawW 0x1122, fx 5, ptr 0x100 0x3000, fx 5, fx 9]) [(3, fx 77), (4, rawW 0x3000), (5, fx 1)])
abbrev t := tr (.sth 3 4 6) 1 0x3006 2 (some 0) (regs (held base .e [rawW 0x1122, fx 5, ptr 0x100 0x3000, fx 5, fx 9]) [(3, fx 77), (4, rawW 0x3000), (5, fx 1)])
abbrev h := ({ st := .e, data := lineOf [rawW 0x1122, fx 5, ptr 0x100 0x3000, fx 5, fx 9] } : L1Line)
abbrev va := addOff (vaOf a) (imm.signExtend 64)
abbrev e := env x (.sth rd rs imm)
abbrev key := l.lpa va / 8
abbrev met : Prop := (Through s x a ∧ IsInt d ∧ Held t x key h ∧ ((h.st = .m ∨ h.st = .e)) ∧ (((lineWord h.data key).tag = 0x006 ∨ (lineWord h.data key).tag = 0x000))) ∧ (Ready s x (.sth rd rs imm)) ∧ (Mapped e s va 1 2 (some 0) l t)
theorem holds : met := by
  refine ⟨?_, ready_of ?_, mapped_of ?_⟩ <;> decide +kernel
end C7
theorem all : C0.met ∧ C1.met ∧ C2.met ∧ C3.met ∧ C4.met ∧ C5.met ∧ C6.met ∧ C7.met :=
  ⟨C0.holds, C1.holds, C2.holds, C3.holds, C4.holds, C5.holds, C6.holds, C7.holds⟩
end StoresArePosted
theorem witness_StoresArePosted : StoresArePosted.C0.met ∧ StoresArePosted.C1.met ∧ StoresArePosted.C2.met ∧ StoresArePosted.C3.met ∧ StoresArePosted.C4.met ∧ StoresArePosted.C5.met ∧ StoresArePosted.C6.met ∧ StoresArePosted.C7.met := StoresArePosted.all

namespace StoreToHeldLine
namespace C0
abbrev t : State := held base .e [rawW 0x1122, fx 5, ptr 0x100 0x3000, fx 5, fx 9]
abbrev k : Nat := 0
abbrev st : PStore := { who := .ctx 0, key := 0x80C0*8+1, word := fx 7, mask := 255 }
abbrev h : L1Line := ({ st := .e, data := lineOf [rawW 0x1122, fx 5, ptr 0x100 0x3000, fx 5, fx 9] } : L1Line)
abbrev line := 0x4000
abbrev j := 1
abbrev met : Prop := ((t.core k).bypass = false) ∧ ((t.core k).tagErr = []) ∧ (t.mem.armed = []) ∧ st.mt = 0 ∧ st.sent = false ∧ st.card = none ∧ ((t.core k).stores = []) ∧ (tget (t.core k).l1d (st.key / 8) = some h) ∧ ((h.st = .m ∨ h.st = .e)) ∧ h.data.length = 8 ∧ (line ≠ st.key / 8) ∧ (j ≠ k) ∧ st.mask = 255
theorem holds : met := by decide +kernel
end C0
theorem all : C0.met :=
  C0.holds
end StoreToHeldLine
theorem witness_StoreToHeldLine : StoreToHeldLine.C0.met := StoreToHeldLine.all

namespace NearAtomics
namespace C0
abbrev s : State := regs (held base .m [rawW 0x1122, fx 5, ptr 0x100 0x3000, fx 5, fx 9]) [(3, fx 5), (4, rawW 0x3008), (5, fx 77)]
abbrev x : Exec := .ctx 0
abbrev rd : BitVec 5 := 3
abbrev rs : BitVec 5 := 4
abbrev rt : BitVec 5 := 5
abbrev ord : BitVec 2 := 3
abbrev a := xreg s x rs
abbrev b := xreg s x rt
abbrev va := addOff (vaOf a) 0
abbrev l := trl (.atomic 0 3 3 4 5) 3 0x3008 8 (some 77) (regs (held base .m [rawW 0x1122, fx 5, ptr 0x100 0x3000, fx 5, fx 9]) [(3, fx 5), (4, rawW 0x3008), (5, fx 77)])
abbrev t := tr (.atomic 0 3 3 4 5) 3 0x3008 8 (some 77) (regs (held base .m [rawW 0x1122, fx 5, ptr 0x100 0x3000, fx 5, fx 9]) [(3, fx 5), (4, rawW 0x3008), (5, fx 77)])
abbrev h := ({ st := .m, data := lineOf [rawW 0x1122, fx 5, ptr 0x100 0x3000, fx 5, fx 9] } : L1Line)
abbrev e := env x (.atomic 0 ord rd rs rt)
abbrev key := l.lpa va / 8
abbrev old := lineWord h.data key
abbrev met : Prop := (Base s x a ∧ Held t x key h ∧ ((h.st = .m ∨ h.st = .e)) ∧ ((2 ≤ ord.toNat → earlierDone t x = true)) ∧ ((tgetD (t.core (xcore x)).atomPred (atomIdx t x (l.lpa va)) 1).toNat < 2) ∧ IsInt b ∧ IsInt old) ∧ (Ready s x (.atomic 0 ord rd rs rt)) ∧ (Mapped e s va 3 8 (some b.payload) l t)
theorem holds : met := by
  refine ⟨?_, ready_of ?_, mapped_of ?_⟩ <;> decide +kernel
end C0
namespace C1
abbrev s : State := regs (held base .m [rawW 0x1122, fx 5, ptr 0x100 0x3000, fx 5, fx 9]) [(3, fx 5), (4, rawW 0x3008), (5, fx 77)]
abbrev x : Exec := .ctx 0
abbrev rd : BitVec 5 := 3
abbrev rs : BitVec 5 := 4
abbrev rt : BitVec 5 := 5
abbrev ord : BitVec 2 := 3
abbrev a := xreg s x rs
abbrev b := xreg s x rt
abbrev va := addOff (vaOf a) 0
abbrev l := trl (.atomic 1 3 3 4 5) 3 0x3008 8 (some 77) (regs (held base .m [rawW 0x1122, fx 5, ptr 0x100 0x3000, fx 5, fx 9]) [(3, fx 5), (4, rawW 0x3008), (5, fx 77)])
abbrev t := tr (.atomic 1 3 3 4 5) 3 0x3008 8 (some 77) (regs (held base .m [rawW 0x1122, fx 5, ptr 0x100 0x3000, fx 5, fx 9]) [(3, fx 5), (4, rawW 0x3008), (5, fx 77)])
abbrev h := ({ st := .m, data := lineOf [rawW 0x1122, fx 5, ptr 0x100 0x3000, fx 5, fx 9] } : L1Line)
abbrev e := env x (.atomic 1 ord rd rs rt)
abbrev key := l.lpa va / 8
abbrev met : Prop := (Base s x a ∧ Held t x key h ∧ ((h.st = .m ∨ h.st = .e)) ∧ ((2 ≤ ord.toNat → earlierDone t x = true)) ∧ ((tgetD (t.core (xcore x)).atomPred (atomIdx t x (l.lpa va)) 1).toNat < 2)) ∧ (Ready s x (.atomic 1 ord rd rs rt)) ∧ (Mapped e s va 3 8 (some b.payload) l t)
theorem holds : met := by
  refine ⟨?_, ready_of ?_, mapped_of ?_⟩ <;> decide +kernel
end C1
namespace C2
abbrev s : State := regs (held base .m [rawW 0x1122, fx 5, ptr 0x100 0x3000, fx 5, fx 9]) [(3, fx 5), (4, rawW 0x3008), (5, fx 77)]
abbrev x : Exec := .ctx 0
abbrev rd : BitVec 5 := 3
abbrev rs : BitVec 5 := 4
abbrev rt : BitVec 5 := 5
abbrev ord : BitVec 2 := 3
abbrev a := xreg s x rs
abbrev b := xreg s x rt
abbrev va := addOff (vaOf a) 0
abbrev l := trl (.atomic 2 3 3 4 5) 3 0x3008 8 (some 77) (regs (held base .m [rawW 0x1122, fx 5, ptr 0x100 0x3000, fx 5, fx 9]) [(3, fx 5), (4, rawW 0x3008), (5, fx 77)])
abbrev t := tr (.atomic 2 3 3 4 5) 3 0x3008 8 (some 77) (regs (held base .m [rawW 0x1122, fx 5, ptr 0x100 0x3000, fx 5, fx 9]) [(3, fx 5), (4, rawW 0x3008), (5, fx 77)])
abbrev h := ({ st := .m, data := lineOf [rawW 0x1122, fx 5, ptr 0x100 0x3000, fx 5, fx 9] } : L1Line)
abbrev e := env x (.atomic 2 ord rd rs rt)
abbrev key := l.lpa va / 8
abbrev old := lineWord h.data key
abbrev met : Prop := (Base s x a ∧ Held t x key h ∧ ((h.st = .m ∨ h.st = .e)) ∧ ((2 ≤ ord.toNat → earlierDone t x = true)) ∧ ((tgetD (t.core (xcore x)).atomPred (atomIdx t x (l.lpa va)) 1).toNat < 2) ∧ IsInt b ∧ (old.tag = b.tag)) ∧ (Ready s x (.atomic 2 ord rd rs rt)) ∧ (Mapped e s va 3 8 (some b.payload) l t)
theorem holds : met := by
  refine ⟨?_, ready_of ?_, mapped_of ?_⟩ <;> decide +kernel
end C2
namespace C3
abbrev s : State := regs (held base .m [rawW 0x1122, fx 5, ptr 0x100 0x3000, fx 5, fx 9]) [(3, fx 5), (4, rawW 0x3008), (5, fx 77)]
abbrev x : Exec := .ctx 0
abbrev rd : BitVec 5 := 3
abbrev rs : BitVec 5 := 4
abbrev rt : BitVec 5 := 5
abbrev ord : BitVec 2 := 3
abbrev a := xreg s x rs
abbrev b := xreg s x rt
abbrev va := addOff (vaOf a) 0
abbrev l := trl (.atomic 3 3 3 4 5) 3 0x3008 8 (some 77) (regs (held base .m [rawW 0x1122, fx 5, ptr 0x100 0x3000, fx 5, fx 9]) [(3, fx 5), (4, rawW 0x3008), (5, fx 77)])
abbrev t := tr (.atomic 3 3 3 4 5) 3 0x3008 8 (some 77) (regs (held base .m [rawW 0x1122, fx 5, ptr 0x100 0x3000, fx 5, fx 9]) [(3, fx 5), (4, rawW 0x3008), (5, fx 77)])
abbrev h := ({ st := .m, data := lineOf [rawW 0x1122, fx 5, ptr 0x100 0x3000, fx 5, fx 9] } : L1Line)
abbrev e := env x (.atomic 3 ord rd rs rt)
abbrev key := l.lpa va / 8
abbrev old := lineWord h.data key
abbrev met : Prop := (Base s x a ∧ Held t x key h ∧ ((h.st = .m ∨ h.st = .e)) ∧ ((2 ≤ ord.toNat → earlierDone t x = true)) ∧ ((tgetD (t.core (xcore x)).atomPred (atomIdx t x (l.lpa va)) 1).toNat < 2) ∧ IsInt b ∧ (old.tag = b.tag)) ∧ (Ready s x (.atomic 3 ord rd rs rt)) ∧ (Mapped e s va 3 8 (some b.payload) l t)
theorem holds : met := by
  refine ⟨?_, ready_of ?_, mapped_of ?_⟩ <;> decide +kernel
end C3
namespace C4
abbrev s : State := regs (held base .m [rawW 0x1122, fx 5, ptr 0x100 0x3000, fx 5, fx 9]) [(3, fx 5), (4, rawW 0x3008), (5, fx 77)]
abbrev x : Exec := .ctx 0
abbrev rd : BitVec 5 := 3
abbrev rs : BitVec 5 := 4
abbrev rt : BitVec 5 := 5
abbrev ord : BitVec 2 := 3
abbrev a := xreg s x rs
abbrev b := xreg s x rt
abbrev d := xreg s x rd
abbrev va := addOff (vaOf a) 0
abbrev l := trl (.atomic 4 3 3 4 5) 3 0x3008 8 (some 77) (regs (held base .m [rawW 0x1122, fx 5, ptr 0x100 0x3000, fx 5, fx 9]) [(3, fx 5), (4, rawW 0x3008), (5, fx 77)])
abbrev t := tr (.atomic 4 3 3 4 5) 3 0x3008 8 (some 77) (regs (held base .m [rawW 0x1122, fx 5, ptr 0x100 0x3000, fx 5, fx 9]) [(3, fx 5), (4, rawW 0x3008), (5, fx 77)])
abbrev h := ({ st := .m, data := lineOf [rawW 0x1122, fx 5, ptr 0x100 0x3000, fx 5, fx 9] } : L1Line)
abbrev e := env x (.atomic 4 ord rd rs rt)
abbrev key := l.lpa va / 8
abbrev old := lineWord h.data key
abbrev met : Prop := (Base s x a ∧ Held t x key h ∧ ((h.st = .m ∨ h.st = .e)) ∧ ((2 ≤ ord.toNat → earlierDone t x = true)) ∧ ((tgetD (t.core (xcore x)).atomPred (atomIdx t x (l.lpa va)) 1).toNat < 2) ∧ Whole d ∧ Whole old) ∧ (Ready s x (.atomic 4 ord rd rs rt)) ∧ (Mapped e s va 3 8 (some b.payload) l t)
theorem holds : met := by
  refine ⟨?_, ready_of ?_, mapped_of ?_⟩ <;> decide +kernel
end C4
namespace C5
abbrev s : State := regs (held base .m [rawW 0x1122, fx 5, ptr 0x100 0x3000, fx 5, fx 9]) [(3, fx 5), (4, rawW 0x3008), (5, fx 77)]
abbrev x : Exec := .ctx 0
abbrev rd : BitVec 5 := 3
abbrev rs : BitVec 5 := 4
abbrev rt : BitVec 5 := 5
abbrev ord : BitVec 2 := 3
abbrev a := xreg s x rs
abbrev b := xreg s x rt
abbrev d := xreg s x rd
abbrev va := addOff (vaOf a) 0
abbrev l := trl (.atomic 5 3 3 4 5) 3 0x3008 8 (some 77) (regs (held base .m [rawW 0x1122, fx 5, ptr 0x100 0x3000, fx 5, fx 9]) [(3, fx 5), (4, rawW 0x3008), (5, fx 77)])
abbrev t := tr (.atomic 5 3 3 4 5) 3 0x3008 8 (some 77) (regs (held base .m [rawW 0x1122, fx 5, ptr 0x100 0x3000, fx 5, fx 9]) [(3, fx 5), (4, rawW 0x3008), (5, fx 77)])
abbrev h := ({ st := .m, data := lineOf [rawW 0x1122, fx 5, ptr 0x100 0x3000, fx 5, fx 9] } : L1Line)
abbrev e := env x (.atomic 5 ord rd rs rt)
abbrev key := l.lpa va / 8
abbrev met : Prop := (Base s x a ∧ Held t x key h ∧ ((h.st = .m ∨ h.st = .e)) ∧ ((2 ≤ ord.toNat → earlierDone t x = true)) ∧ ((tgetD (t.core (xcore x)).atomPred (atomIdx t x (l.lpa va)) 1).toNat < 2) ∧ Whole d) ∧ (Ready s x (.atomic 5 ord rd rs rt)) ∧ (Mapped e s va 3 8 (some b.payload) l t)
theorem holds : met := by
  refine ⟨?_, ready_of ?_, mapped_of ?_⟩ <;> decide +kernel
end C5
theorem all : C0.met ∧ C1.met ∧ C2.met ∧ C3.met ∧ C4.met ∧ C5.met :=
  ⟨C0.holds, C1.holds, C2.holds, C3.holds, C4.holds, C5.holds⟩
end NearAtomics
theorem witness_NearAtomics : NearAtomics.C0.met ∧ NearAtomics.C1.met ∧ NearAtomics.C2.met ∧ NearAtomics.C3.met ∧ NearAtomics.C4.met ∧ NearAtomics.C5.met := NearAtomics.all

namespace ListsAreAllocated
namespace C0
abbrev s : State := regs (held base .e [rawW 0x1122, fx 5, ptr 0x100 0x3000, fx 5, fx 9]) [(4, fx 3), (5, fx 1)]
abbrev t : State := tr (.cons 3 4 5) 1 0x3000 8 (some 0) (regs (held base .e [rawW 0x1122, fx 5, ptr 0x100 0x3000, fx 5, fx 9]) [(4, fx 3), (5, fx 1)])
abbrev n : BitVec 16 := 0
abbrev rd : BitVec 5 := 3
abbrev rs : BitVec 5 := 4
abbrev rt : BitVec 5 := 5
abbrev l : Leaf := trl (.cons 3 4 5) 1 0x3000 8 (some 0) (regs (held base .e [rawW 0x1122, fx 5, ptr 0x100 0x3000, fx 5, fx 9]) [(4, fx 3), (5, fx 1)])
abbrev x := Exec.ctx n
abbrev a := (xrec s x).allocPtr
abbrev words := fun (code : Nat) (body : List W) => ((⟨BitVec.ofNat 10 (code + 0x100), BitVec.ofNat 64 body.length⟩ : W) :: body).zipIdx.map fun p => (a + BitVec.ofNat 59 (8 * p.2), p.1)
abbrev fits := fun (o : Op) (code : Nat) (body : List W) => Ready s x o ∧ body.length ≤ 4095 ∧ a.getLsbD 58 = false ∧ a.toNat % 8 = 0 ∧ a.toNat + 8 * (body.length + 1) ≤ (xrec s x).allocLim.toNat ∧ (a.toNat + 8 * body.length) / 4096 = a.toNat / 4096 ∧ translate (env x o) 1 a 8 (some 0) s = (.ok l, t) ∧ pteMt l.pte = 0 ∧ isReg (l.page * 4096) = false ∧ (∀ p ∈ words code body, watch t x p.1 true = .ok () ∧ ownBehind t x (l.lpa p.1 / 8) = false)
abbrev met : Prop := (fits (.cons rd rs rt) 0x100 [xreg s x rs, xreg s x rt])
theorem holds : met := by (repeat' apply And.intro) <;> first | decide +kernel | exact exc (by decide +kernel) | exact excS (by decide +kernel) | exact excT (by decide +kernel) | exact reads_of (by decide +kernel) | exact asked_of (by decide +kernel)
end C0
namespace C1
abbrev s : State := regs (held base .e [rawW 0x1122, fx 5, ptr 0x100 0x3000, fx 5, fx 9]) [(4, fx 3), (5, fx 1)]
abbrev t : State := tr (.alloc 3 4 0x102) 1 0x3000 8 (some 0) (regs (held base .e [rawW 0x1122, fx 5, ptr 0x100 0x3000, fx 5, fx 9]) [(4, fx 3), (5, fx 1)])
abbrev n : BitVec 16 := 0
abbrev rd : BitVec 5 := 3
abbrev rs : BitVec 5 := 4
abbrev imm : BitVec 14 := 0x102
abbrev l : Leaf := trl (.alloc 3 4 0x102) 1 0x3000 8 (some 0) (regs (held base .e [rawW 0x1122, fx 5, ptr 0x100 0x3000, fx 5, fx 9]) [(4, fx 3), (5, fx 1)])
abbrev x := Exec.ctx n
abbrev a := (xrec s x).allocPtr
abbrev words := fun (code : Nat) (body : List W) => ((⟨BitVec.ofNat 10 (code + 0x100), BitVec.ofNat 64 body.length⟩ : W) :: body).zipIdx.map fun p => (a + BitVec.ofNat 59 (8 * p.2), p.1)
abbrev len := (xreg s x rs).payload.toNat
abbrev code := imm.toNat % 1024
abbrev fits := fun (o : Op) (code : Nat) (body : List W) => Ready s x o ∧ body.length ≤ 4095 ∧ a.getLsbD 58 = false ∧ a.toNat % 8 = 0 ∧ a.toNat + 8 * (body.length + 1) ≤ (xrec s x).allocLim.toNat ∧ (a.toNat + 8 * body.length) / 4096 = a.toNat / 4096 ∧ translate (env x o) 1 a 8 (some 0) s = (.ok l, t) ∧ pteMt l.pte = 0 ∧ isReg (l.page * 4096) = false ∧ (∀ p ∈ words code body, watch t x p.1 true = .ok () ∧ ownBehind t x (l.lpa p.1 / 8) = false)
abbrev fill := List.replicate len (if code = 0x102 then rawW 0 else nilW)
abbrev met : Prop := (IsFix (xreg s x rs)) ∧ (fits (.alloc rd rs imm) code fill)
theorem holds : met := by
  refine ⟨?_, by (repeat' apply And.intro) <;> first | decide +kernel | exact exc (by decide +kernel) | exact excS (by decide +kernel) | exact excT (by decide +kernel) | exact reads_of (by decide +kernel) | exact asked_of (by decide +kernel)⟩ <;> decide +kernel
end C1
theorem all : C0.met ∧ C1.met :=
  ⟨C0.holds, C1.holds⟩
end ListsAreAllocated
theorem witness_ListsAreAllocated : ListsAreAllocated.C0.met ∧ ListsAreAllocated.C1.met := ListsAreAllocated.all

namespace ListSearches
namespace C0
abbrev s : State := regs base [(4, fx 5), (5, fx 6)]
abbrev x : Exec := .ctx 0
abbrev rd : BitVec 5 := 3
abbrev rs : BitVec 5 := 4
abbrev rt : BitVec 5 := 5
abbrev a := xreg s x rs
abbrev b := xreg s x rt
abbrev met : Prop := (Whole a ∧ Whole b ∧ xcnt s x = 0) ∧ (Ready s x (.memq rd rs rt)) ∧ (Ready s x (.assq rd rs rt))
theorem holds : met := by
  refine ⟨?_, ready_of ?_, ready_of ?_⟩ <;> decide +kernel
end C0
namespace C1
abbrev s : State := rec0 (regs base [(4, fx 5), (5, nilW)]) fun r => { r with cnt := 2 }
abbrev x : Exec := .ctx 0
abbrev rd : BitVec 5 := 3
abbrev rs : BitVec 5 := 4
abbrev rt : BitVec 5 := 5
abbrev a := xreg s x rs
abbrev b := xreg s x rt
abbrev met : Prop := (Whole a ∧ (xcnt s x ≠ 0) ∧ b.tag = 0x004) ∧ (Ready s x (.memq rd rs rt)) ∧ (Ready s x (.assq rd rs rt))
theorem holds : met := by
  refine ⟨?_, ready_of ?_, ready_of ?_⟩ <;> decide +kernel
end C1
namespace C2
abbrev s : State := rec0 (regs (held base .e [rawW 0x1122, fx 5, ptr 0x100 0x3000, fx 5, fx 9]) [(3, fx 0), (4, fx 5), (5, ptr 0x100 0x3000)]) fun r => { r with cnt := 2 }
abbrev t : State := tr (.memq 3 4 5) 0 0x3008 8 none (rec0 (regs (held base .e [rawW 0x1122, fx 5, ptr 0x100 0x3000, fx 5, fx 9]) [(3, fx 0), (4, fx 5), (5, ptr 0x100 0x3000)]) fun r => { r with cnt := 2 })
abbrev x : Exec := .ctx 0
abbrev rd : BitVec 5 := 3
abbrev rs : BitVec 5 := 4
abbrev rt : BitVec 5 := 5
abbrev w : W := fx 5
abbrev a := xreg s x rs
abbrev b := xreg s x rt
abbrev met : Prop := (Whole a ∧ (xcnt s x ≠ 0) ∧ b.tag = 0x100 ∧ Whole w ∧ identical w a = true) ∧ (Ready s x (.memq rd rs rt)) ∧ (Reads (env x (.memq rd rs rt)) s (vaOf b + 8) 8 w t)
theorem holds : met := by
  refine ⟨?_, ready_of ?_, reads_of ?_⟩ <;> decide +kernel
end C2
namespace C3
abbrev s : State := rec0 (regs base [(4, ptr 0x100 0x3000), (5, fx 8)]) fun r => { r with cnt := 0 }
abbrev x : Exec := .ctx 0
abbrev rd : BitVec 5 := 3
abbrev rs : BitVec 5 := 4
abbrev rt : BitVec 5 := 5
abbrev a := xreg s x rs
abbrev b := xreg s x rt
abbrev met : Prop := (Through s x a ∧ IsFix b ∧ xcnt s x = 0) ∧ (Ready s x (.walk rd rs rt))
theorem holds : met := by
  refine ⟨?_, ready_of ?_⟩ <;> decide +kernel
end C3
namespace C4
abbrev s : State := rec0 (regs (held base .e [rawW 0, fx 5]) [(4, ptr 0x100 0x3000), (5, fx 8)]) fun r => { r with cnt := 1 }
abbrev t : State := tr (.walk 3 4 5) 0 0x3008 8 none (rec0 (regs (held base .e [rawW 0, fx 5]) [(4, ptr 0x100 0x3000), (5, fx 8)]) fun r => { r with cnt := 1 })
abbrev x : Exec := .ctx 0
abbrev rd : BitVec 5 := 3
abbrev rs : BitVec 5 := 4
abbrev rt : BitVec 5 := 5
abbrev w : W := fx 5
abbrev a := xreg s x rs
abbrev b := xreg s x rt
abbrev met : Prop := (Through s x a ∧ IsFix b ∧ (xcnt s x ≠ 0) ∧ Whole w ∧ isPtr w = false) ∧ (Ready s x (.walk rd rs rt)) ∧ (Reads (env x (.walk rd rs rt)) s (addOff (vaOf a) b.payload) 8 w t)
theorem holds : met := by
  refine ⟨?_, ready_of ?_, reads_of ?_⟩ <;> decide +kernel
end C4
namespace C5
abbrev s : State := rec0 (regs (held base .e [rawW 0, ptr 0x100 0x3018]) [(4, ptr 0x100 0x3000), (5, fx 8)]) fun r => { r with cnt := 1 }
abbrev t : State := tr (.walk 3 4 5) 0 0x3008 8 none (rec0 (regs (held base .e [rawW 0, ptr 0x100 0x3018]) [(4, ptr 0x100 0x3000), (5, fx 8)]) fun r => { r with cnt := 1 })
abbrev x : Exec := .ctx 0
abbrev rd : BitVec 5 := 3
abbrev rs : BitVec 5 := 4
abbrev rt : BitVec 5 := 5
abbrev w : W := ptr 0x100 0x3018
abbrev a := xreg s x rs
abbrev b := xreg s x rt
abbrev met : Prop := (Through s x a ∧ IsFix b ∧ (xcnt s x ≠ 0) ∧ Whole w ∧ isPtr w = true) ∧ (Ready s x (.walk rd rs rt)) ∧ (Reads (env x (.walk rd rs rt)) s (addOff (vaOf a) b.payload) 8 w t)
theorem holds : met := by
  refine ⟨?_, ready_of ?_, reads_of ?_⟩ <;> decide +kernel
end C5
namespace C6
abbrev s : State := rec0 (regs (far2 ⟨0x201, 2⟩ (nilW)) [(3, fx 0), (4, ptr 0x101 0x7FFFFFFFF8), (5, fx 5)]) fun r => { r with cnt := 0 }
abbrev x : Exec := .ctx 0
abbrev rd : BitVec 5 := 3
abbrev rs : BitVec 5 := 4
abbrev rt : BitVec 5 := 5
abbrev a := xreg s x rs
abbrev b := xreg s x rt
abbrev met : Prop := (a.tag = 0x101 ∧ Whole b ∧ (IsFix (xreg s x rd)) ∧ xcnt s x = 0) ∧ (Ready s x (.probe rd rs rt))
theorem holds : met := by
  refine ⟨?_, ready_of ?_⟩ <;> decide +kernel
end C6
theorem all : C0.met ∧ C1.met ∧ C2.met ∧ C3.met ∧ C4.met ∧ C5.met ∧ C6.met :=
  ⟨C0.holds, C1.holds, C2.holds, C3.holds, C4.holds, C5.holds, C6.holds⟩
end ListSearches
theorem witness_ListSearches : ListSearches.C0.met ∧ ListSearches.C1.met ∧ ListSearches.C2.met ∧ ListSearches.C3.met ∧ ListSearches.C4.met ∧ ListSearches.C5.met ∧ ListSearches.C6.met := ListSearches.all

namespace RepeatedInstructions
namespace C0
abbrev s : State := ctx0 (rec0 (regs (held base .e []) [(3, rawW 0x3020), (4, fx 9)]) fun r => { r with cnt := 0 }) fun c => { c with repeated := some (true, (Op.fillw 3 4).word) }
abbrev x : Exec := .ctx 0
abbrev word : BitVec 32 := (Op.fillw 3 4).word
abbrev f : Env → M Unit := repF (.ctx 0) (Op.fillw 3 4).word
abbrev met : Prop := (xcnt s x = 0 ∧ (repeatedOf s x = some (true, word))) ∧ RepReady s x word ∧ (repTarget x word = .ok f)
theorem holds : met := by
  refine ⟨?_, repReady_of ?_, by exact rep_ok (by decide +kernel)⟩ <;> decide +kernel
end C0
namespace C1
abbrev s : State := rec0 (regs (held base .e []) [(3, rawW 0x3020), (4, fx 9)]) fun r => { r with cnt := 1 }
abbrev t : State := (repF (.ctx 0) (Op.fillw 3 4).word { x := .ctx 0, word := (Op.fillw 3 4).word } (rec0 (regs (held base .e []) [(3, rawW 0x3020), (4, fx 9)]) fun r => { r with cnt := 1 })).2
abbrev x : Exec := .ctx 0
abbrev word : BitVec 32 := (Op.fillw 3 4).word
abbrev f : Env → M Unit := repF (.ctx 0) (Op.fillw 3 4).word
abbrev met : Prop := (xcnt s x ≠ 0) ∧ RepReady s x word ∧ (f { x := x, word := word } s = (.ok (), t)) ∧ (repTarget x word = .ok f)
theorem holds : met := by
  refine ⟨?_, repReady_of ?_, excS ?_, by exact rep_ok (by decide +kernel)⟩ <;> decide +kernel
end C1
namespace C2
abbrev s : State := ctx0 base fun c => { c with repeated := some (false, (Op.memq 3 4 5).word) }
abbrev x : Exec := .ctx 0
abbrev rd : BitVec 5 := 3
abbrev rs : BitVec 5 := 4
abbrev word : BitVec 32 := (Op.fillw 3 4).word
abbrev rt := 5
abbrev met : Prop := (repeatedOf s x = some (false, (Op.memq rd rs rt).word))
theorem holds : met := by decide +kernel
end C2
namespace C3
abbrev s : State := ctx0 base fun c => { c with repeated := some (false, (Op.assq 3 4 5).word) }
abbrev x : Exec := .ctx 0
abbrev rd : BitVec 5 := 3
abbrev rs : BitVec 5 := 4
abbrev word : BitVec 32 := (Op.fillw 3 4).word
abbrev rt := 5
abbrev met : Prop := (repeatedOf s x = some (false, (Op.assq rd rs rt).word))
theorem holds : met := by decide +kernel
end C3
namespace C4
abbrev s : State := ctx0 base fun c => { c with repeated := some (false, (Op.walk 3 4 5).word) }
abbrev x : Exec := .ctx 0
abbrev rd : BitVec 5 := 3
abbrev rs : BitVec 5 := 4
abbrev word : BitVec 32 := (Op.fillw 3 4).word
abbrev rt := 5
abbrev met : Prop := (repeatedOf s x = some (false, (Op.walk rd rs rt).word))
theorem holds : met := by decide +kernel
end C4
namespace C5
abbrev s : State := ctx0 base fun c => { c with repeated := some (false, (Op.probe 3 4 5).word) }
abbrev x : Exec := .ctx 0
abbrev rd : BitVec 5 := 3
abbrev rs : BitVec 5 := 4
abbrev word : BitVec 32 := (Op.fillw 3 4).word
abbrev rt := 5
abbrev met : Prop := (repeatedOf s x = some (false, (Op.probe rd rs rt).word))
theorem holds : met := by decide +kernel
end C5
namespace C6
abbrev s : State := (regs (held base .e [rawW 0x1122, fx 5, ptr 0x100 0x3000, fx 5, fx 9]) [(3, rawW 0x3020), (4, fx 9)])
abbrev t : State := tr (.fillw 3 4) 1 0x3020 8 (some 9) ((regs (held base .e [rawW 0x1122, fx 5, ptr 0x100 0x3000, fx 5, fx 9]) [(3, rawW 0x3020), (4, fx 9)]))
abbrev x : Exec := .ctx 0
abbrev rd : BitVec 5 := 3
abbrev rs : BitVec 5 := 4
abbrev l : Leaf := trl (.fillw 3 4) 1 0x3020 8 (some 9) ((regs (held base .e [rawW 0x1122, fx 5, ptr 0x100 0x3000, fx 5, fx 9]) [(3, rawW 0x3020), (4, fx 9)]))
abbrev a := xreg s x rs
abbrev d := xreg s x rd
abbrev met : Prop := (Base s x d ∧ (ownBehind t x (l.lpa (vaOf d) / 8) = false)) ∧ (Ready s x (.fillw rd rs)) ∧ (Mapped (env x (.fillw rd rs)) s (vaOf d) 1 8 (some a.payload) l t)
theorem holds : met := by
  refine ⟨?_, ready_of ?_, mapped_of ?_⟩ <;> decide +kernel
end C6
namespace C7
abbrev s : State := regs base [(4, rawW 0x400000000000000)]
abbrev x : Exec := .ctx 0
abbrev rs : BitVec 5 := 4
abbrev a := xreg s x rs
abbrev met : Prop := (Base s x a ∧ (isGlobal (vaOf a) = true) ∧ xsup s x = true) ∧ (Ready s x (.cleanL rs)) ∧ (Ready s x (.flushL rs)) ∧ (Ready s x (.invalL rs))
theorem holds : met := by
  refine ⟨?_, ready_of ?_, ready_of ?_, ready_of ?_⟩ <;> decide +kernel
end C7
namespace C8
abbrev s : State := regs (held base .e [rawW 0x1122, fx 5, ptr 0x100 0x3000, fx 5, fx 9]) [(4, rawW 0x3000)]
abbrev t : State := tr (.cleanL 4) 0 0x3000 8 none (regs (held base .e [rawW 0x1122, fx 5, ptr 0x100 0x3000, fx 5, fx 9]) [(4, rawW 0x3000)])
abbrev x : Exec := .ctx 0
abbrev rs : BitVec 5 := 4
abbrev l : Leaf := trl (.cleanL 4) 0 0x3000 8 none (regs (held base .e [rawW 0x1122, fx 5, ptr 0x100 0x3000, fx 5, fx 9]) [(4, rawW 0x3000)])
abbrev a := xreg s x rs
abbrev met : Prop := (Base s x a ∧ (isGlobal (vaOf a) = false) ∧ (pteMt l.pte ≠ 3) ∧ (((t.core (xcore x)).stores.any fun p => p.who == x && p.key / 8 == l.lpa (vaOf a) / 64) = false)) ∧ (Ready s x (.cleanL rs)) ∧ (translate (env x (.cleanL rs)) 0 (vaOf a) 8 none s = (.ok l, t))
theorem holds : met := by
  refine ⟨?_, ready_of ?_, excS ?_⟩ <;> decide +kernel
end C8
namespace C9
abbrev s : State := regs (held base .e [rawW 0x1122, fx 5, ptr 0x100 0x3000, fx 5, fx 9]) [(4, rawW 0x3000)]
abbrev t : State := tr (.flushL 4) 0 0x3000 8 none (regs (held base .e [rawW 0x1122, fx 5, ptr 0x100 0x3000, fx 5, fx 9]) [(4, rawW 0x3000)])
abbrev x : Exec := .ctx 0
abbrev rs : BitVec 5 := 4
abbrev l : Leaf := trl (.flushL 4) 0 0x3000 8 none (regs (held base .e [rawW 0x1122, fx 5, ptr 0x100 0x3000, fx 5, fx 9]) [(4, rawW 0x3000)])
abbrev a := xreg s x rs
abbrev met : Prop := (Base s x a ∧ (isGlobal (vaOf a) = false) ∧ (pteMt l.pte ≠ 3) ∧ (((t.core (xcore x)).stores.any fun p => p.who == x && p.key / 8 == l.lpa (vaOf a) / 64) = false)) ∧ (Ready s x (.flushL rs)) ∧ (translate (env x (.flushL rs)) 0 (vaOf a) 8 none s = (.ok l, t))
theorem holds : met := by
  refine ⟨?_, ready_of ?_, excS ?_⟩ <;> decide +kernel
end C9
namespace C10
abbrev s : State := regs (held base .e [rawW 0x1122, fx 5, ptr 0x100 0x3000, fx 5, fx 9]) [(4, rawW 0x3000)]
abbrev t : State := tr (.invalL 4) 0 0x3000 8 none (regs (held base .e [rawW 0x1122, fx 5, ptr 0x100 0x3000, fx 5, fx 9]) [(4, rawW 0x3000)])
abbrev x : Exec := .ctx 0
abbrev rs : BitVec 5 := 4
abbrev l : Leaf := trl (.invalL 4) 0 0x3000 8 none (regs (held base .e [rawW 0x1122, fx 5, ptr 0x100 0x3000, fx 5, fx 9]) [(4, rawW 0x3000)])
abbrev a := xreg s x rs
abbrev met : Prop := (Base s x a ∧ (isGlobal (vaOf a) = false) ∧ (pteMt l.pte ≠ 3) ∧ (((t.core (xcore x)).stores.any fun p => p.who == x && p.key / 8 == l.lpa (vaOf a) / 64) = false) ∧ xsup s x = true) ∧ (Ready s x (.invalL rs)) ∧ (translate (env x (.invalL rs)) 0 (vaOf a) 8 none s = (.ok l, t))
theorem holds : met := by
  refine ⟨?_, ready_of ?_, excS ?_⟩ <;> decide +kernel
end C10
theorem all : C0.met ∧ C1.met ∧ C2.met ∧ C3.met ∧ C4.met ∧ C5.met ∧ C6.met ∧ C7.met ∧ C8.met ∧ C9.met ∧ C10.met :=
  ⟨C0.holds, C1.holds, C2.holds, C3.holds, C4.holds, C5.holds, C6.holds, C7.holds, C8.holds, C9.holds, C10.holds⟩
end RepeatedInstructions
theorem witness_RepeatedInstructions : RepeatedInstructions.C0.met ∧ RepeatedInstructions.C1.met ∧ RepeatedInstructions.C2.met ∧ RepeatedInstructions.C3.met ∧ RepeatedInstructions.C4.met ∧ RepeatedInstructions.C5.met ∧ RepeatedInstructions.C6.met ∧ RepeatedInstructions.C7.met ∧ RepeatedInstructions.C8.met ∧ RepeatedInstructions.C9.met ∧ RepeatedInstructions.C10.met := RepeatedInstructions.all

namespace Branches
namespace C0
abbrev s : State := regs base [(4, fx 1)]
abbrev x : Exec := .ctx 0
abbrev rs : BitVec 5 := 4
abbrev off : BitVec 21 := 0x1FFFFF
abbrev a := xreg s x rs
abbrev met : Prop := (IsFix a ∧ (s.mem.armed = [])) ∧ (Ready s x (.bz rs off)) ∧ (Foretold s x (a.payload == 0)) ∧ (Ready s x (.bnz rs off)) ∧ (¬ Foretold s x (a.payload != 0))
theorem holds : met := by
  refine ⟨?_, ready_of ?_, foretold_of ?_, ready_of ?_, not_foretold_of ?_⟩ <;> decide +kernel
end C0
namespace C1
abbrev s : State := regs base [(4, fx 0)]
abbrev x : Exec := .ctx 0
abbrev rs : BitVec 5 := 4
abbrev off : BitVec 21 := 0x1FFFFF
abbrev a := xreg s x rs
abbrev cls : BitVec 5 := 1
abbrev off14 : BitVec 14 := 0x3FFF
abbrev met : Prop := (IsFix a ∧ (s.mem.armed = [])) ∧ (Ready s x (.bz rs off)) ∧ (¬ Foretold s x (a.payload == 0)) ∧ (Ready s x (.bnz rs off)) ∧ (Foretold s x (a.payload != 0)) ∧ (Ready s x (.bnil rs off)) ∧ (Foretold s x (a.tag == 0x004)) ∧ (Ready s x (.bnnil rs off)) ∧ (¬ Foretold s x (a.tag != 0x004)) ∧ (Ready s x (.bt rs cls off14)) ∧ (¬ Foretold s x (inTagClass cls.toNat a.tag)) ∧ (Ready s x (.bnt rs cls off14)) ∧ (Foretold s x (!inTagClass cls.toNat a.tag))
theorem holds : met := by
  refine ⟨?_, ready_of ?_, not_foretold_of ?_, ready_of ?_, foretold_of ?_, ready_of ?_, foretold_of ?_, ready_of ?_, not_foretold_of ?_, ready_of ?_, not_foretold_of ?_, ready_of ?_, foretold_of ?_⟩ <;> decide +kernel
end C1
namespace C2
abbrev s : State := regs base [(4, nilW)]
abbrev x : Exec := .ctx 0
abbrev rs : BitVec 5 := 4
abbrev off : BitVec 21 := 0x1FFFFF
abbrev a := xreg s x rs
abbrev cls : BitVec 5 := 1
abbrev off14 : BitVec 14 := 0x3FFF
abbrev met : Prop := (s.mem.armed = []) ∧ (Ready s x (.bnil rs off)) ∧ (¬ Foretold s x (a.tag == 0x004)) ∧ (Ready s x (.bnnil rs off)) ∧ (Foretold s x (a.tag != 0x004)) ∧ (Ready s x (.bt rs cls off14)) ∧ (Foretold s x (inTagClass cls.toNat a.tag)) ∧ (Ready s x (.bnt rs cls off14)) ∧ (¬ Foretold s x (!inTagClass cls.toNat a.tag))
theorem holds : met := by
  refine ⟨?_, ready_of ?_, not_foretold_of ?_, ready_of ?_, foretold_of ?_, ready_of ?_, foretold_of ?_, ready_of ?_, not_foretold_of ?_⟩ <;> decide +kernel
end C2
theorem all : C0.met ∧ C1.met ∧ C2.met :=
  ⟨C0.holds, C1.holds, C2.holds⟩
end Branches
theorem witness_Branches : Branches.C0.met ∧ Branches.C1.met ∧ Branches.C2.met := Branches.all

namespace Jumps
namespace C0
abbrev s : State := regs base [(4, ptr 0x108 0x3000)]
abbrev x : Exec := .ctx 0
abbrev off : BitVec 26 := 0x3FFFFFF
abbrev rs : BitVec 5 := 4
abbrev imm : BitVec 14 := 4
abbrev code := fun (y : Exec) => Whole (xreg s y rs) ∧ ((xreg s y rs).tag = 0x108 ∨ (xsup s y = true ∧ (xreg s y rs).tag = 0x006)) ∧ (addOff (vaOf (xreg s y rs)) (imm.signExtend 64)).toNat % 4 = 0
abbrev n : BitVec 16 := 0
abbrev y := Exec.ctx n
abbrev r := xrec s y
abbrev met : Prop := (code x ∧ (r.vwc ≠ 4) ∧ code y) ∧ (Ready s x (.j off)) ∧ (Ready s x (.jl off)) ∧ (Ready s x (.jr rs imm)) ∧ (Ready s x (.jlr rs imm)) ∧ Ready s x .retl ∧ (Ready s y (.callw off)) ∧ (Ready s y (.callwr rs imm))
theorem holds : met := by
  refine ⟨?_, ready_of ?_, ready_of ?_, ready_of ?_, ready_of ?_, ready_of ?_, ready_of ?_, ready_of ?_⟩ <;> decide +kernel
end C0
namespace C1
abbrev s : State := rec0 base fun r => { r with lk := 0x2000, vwc := 3, tw := false }
abbrev n : BitVec 16 := 0
abbrev y := Exec.ctx n
abbrev r := xrec s y
abbrev met : Prop := (r.tw = false ∧ ((if r.lk.getLsbD 0 then r.sup = true else 2 < r.vwc.toNat))) ∧ Ready s y .retw
theorem holds : met := by
  refine ⟨?_, ready_of ?_⟩ <;> decide +kernel
end C1
theorem all : C0.met ∧ C1.met :=
  ⟨C0.holds, C1.holds⟩
end Jumps
theorem witness_Jumps : Jumps.C0.met ∧ Jumps.C1.met := Jumps.all

namespace WindowTraps
namespace C0
abbrev s : State := rec0 base fun r => { r with vwc := 4 }
abbrev n : BitVec 16 := 0
abbrev off : BitVec 26 := 0
abbrev x := Exec.ctx n
abbrev r := xrec s x
abbrev met : Prop := r.vwc = 4 ∧ (Ready s x (.callw off))
theorem holds : met := by
  refine ⟨?_, ready_of ?_⟩ <;> decide +kernel
end C0
namespace C1
abbrev s : State := rec0 base fun r => { r with lk := 0x2000, vwc := 2, tw := false }
abbrev n : BitVec 16 := 0
abbrev x := Exec.ctx n
abbrev r := xrec s x
abbrev met : Prop := (r.tw = false ∧ r.lk.getLsbD 0 = false ∧ (r.vwc.toNat ≤ 2)) ∧ Ready s x .retw
theorem holds : met := by
  refine ⟨?_, ready_of ?_⟩ <;> decide +kernel
end C1
theorem all : C0.met ∧ C1.met :=
  ⟨C0.holds, C1.holds⟩
end WindowTraps
theorem witness_WindowTraps : WindowTraps.C0.met ∧ WindowTraps.C1.met := WindowTraps.all

namespace ExceptionEntry
namespace C0
abbrev s : State := rec0 base fun r => { r with vwc := 4 }
abbrev n : Nat := 0
abbrev e : Exn := ⟨0x11, 0x3000, 5, none, 0⟩
abbrev v : BitVec 59 := 0x5000
abbrev c := s.ctx n
abbrev w := c.r.world
abbrev m := 160
abbrev met : Prop := e.handler = none ∧ (vector s w = some v) ∧ c.r.xvalid w = false ∧ (m ≠ n)
theorem holds : met := by decide +kernel
end C0
namespace C1
abbrev s : State := { base with svc := { base.svc with vecS := none } }
abbrev n : Nat := 0
abbrev e : Exn := ⟨0x11, 0x3000, 5, none, 0⟩
abbrev c := s.ctx n
abbrev w := c.r.world
abbrev met : Prop := e.handler = none ∧ (vector s w = none ∨ c.r.xvalid w = true)
theorem holds : met := by decide +kernel
end C1
theorem all : C0.met ∧ C1.met :=
  ⟨C0.holds, C1.holds⟩
end ExceptionEntry
theorem witness_ExceptionEntry : ExceptionEntry.C0.met ∧ ExceptionEntry.C1.met := ExceptionEntry.all

namespace SyscallAndBreakpoint
namespace C0
abbrev s : State := rec0 base fun r => { r with xvalidS := true }
abbrev n : BitVec 16 := 0
abbrev met : Prop := ((s.ctx n.toNat).r.xvalid (s.ctx n.toNat).r.world = true) ∧ (Ready s (.ctx n) .syscall)
theorem holds : met := by
  refine ⟨?_, ready_of ?_⟩ <;> decide +kernel
end C0
namespace C1
abbrev s : State := base
abbrev n : BitVec 16 := 0
abbrev met : Prop := (Ready s (.ctx n) .brk)
theorem holds : met := ready_of (by decide +kernel)
end C1
namespace C2
abbrev s : State := (base.modCore 0 fun c => { c with fic := { c.fic with mode := .irq, pc := 0x7000 } })
abbrev k : BitVec 8 := 0
abbrev met : Prop := (Ready s (.fic k) .syscall)
theorem holds : met := ready_of (by decide +kernel)
end C2
theorem all : C0.met ∧ C1.met ∧ C2.met :=
  ⟨C0.holds, C1.holds, C2.holds⟩
end SyscallAndBreakpoint
theorem witness_SyscallAndBreakpoint : SyscallAndBreakpoint.C0.met ∧ SyscallAndBreakpoint.C1.met ∧ SyscallAndBreakpoint.C2.met := SyscallAndBreakpoint.all

namespace ReturnsAndGates
namespace C0
abbrev s : State := xvS
abbrev n : BitVec 16 := 0
abbrev x := Exec.ctx n
abbrev c := s.ctx n.toNat
abbrev w := c.r.world
abbrev sv := c.r.xstat w
abbrev met : Prop := (c.r.sup = true ∧ c.r.xvalid w = true ∧ (worldOf (if sv.getLsbD 0 then 1 else 0) = w) ∧ sv.getLsbD 15 = false) ∧ Ready s x .retx
theorem holds : met := by
  refine ⟨?_, ready_of ?_⟩ <;> decide +kernel
end C0
namespace C1
abbrev s : State := base
abbrev n : BitVec 16 := 0
abbrev x := Exec.ctx n
abbrev c := s.ctx n.toNat
abbrev w := c.r.world
abbrev met : Prop := (c.r.sup = true ∧ c.r.xvalid w = false ∧ ((c.r.gateOpen = false ∨ c.r.xvalid w.other = false))) ∧ Ready s x .retx
theorem holds : met := by
  refine ⟨?_, ready_of ?_⟩ <;> decide +kernel
end C1
namespace C2
abbrev s : State := rec0 base fun r => { r with xvalidS := true, xpcS := 0x2000, xstatS := 0x10C002, vwc := 2 }
abbrev n : BitVec 16 := 0
abbrev x := Exec.ctx n
abbrev c := s.ctx n.toNat
abbrev w := c.r.world
abbrev sv := c.r.xstat w
abbrev met : Prop := (c.r.sup = true ∧ c.r.xvalid w = true ∧ ((worldOf (if sv.getLsbD 0 then 1 else 0) ≠ w ∨ sv.getLsbD 15 = true))) ∧ Ready s x .retx
theorem holds : met := by
  refine ⟨?_, ready_of ?_⟩ <;> decide +kernel
end C2
namespace C3
abbrev s : State := (rec0 base fun r => { r with ctxStat := 2 + 0x4000 + 3 * 0x8000, xvalidJ := true, xpcJ := 0x2000, xstatJ := 0x38001 })
abbrev n : BitVec 16 := 0
abbrev x := Exec.ctx n
abbrev c := s.ctx n.toNat
abbrev w := c.r.world
abbrev st := c.r.xstat w.other
abbrev other := worldOf (if st.getLsbD 0 then 1 else 0) ≠ w.other ∨ w.other ≠ c.dir.owner ∨ st.getLsbD 15 = false
abbrev met : Prop := (c.r.sup = true ∧ c.r.xvalid w = false ∧ c.r.gateOpen = true ∧ c.r.xvalid w.other = true ∧ other) ∧ Ready s x .retx
theorem holds : met := by
  refine ⟨?_, ready_of ?_⟩ <;> decide +kernel
end C3
namespace C4
abbrev s : State := ((rec0 base fun r => { r with ctxStat := 2 + 0x4000 + 3 * 0x8000, xvalidJ := true, xpcJ := 0x2000, xstatJ := 0x28001 })).modCtx 0 fun c => { c with dir := { c.dir with owner := .job } }
abbrev n : BitVec 16 := 0
abbrev x := Exec.ctx n
abbrev c := s.ctx n.toNat
abbrev w := c.r.world
abbrev st := c.r.xstat w.other
abbrev other := worldOf (if st.getLsbD 0 then 1 else 0) ≠ w.other ∨ w.other ≠ c.dir.owner ∨ st.getLsbD 15 = false
abbrev met : Prop := (c.r.sup = true ∧ c.r.xvalid w = false ∧ c.r.gateOpen = true ∧ c.r.xvalid w.other = true ∧ (¬ other) ∧ (bitsN st 16 4 ≠ c.r.token.toNat)) ∧ Ready s x .retx
theorem holds : met := by
  refine ⟨?_, ready_of ?_⟩ <;> decide +kernel
end C4
namespace C5
abbrev s : State := (rec0 base fun r => { r with ctxStat := 2 + 0x4000 + 3 * 0x8000, xvalidJ := true, xpcJ := 0x2000, xstatJ := 0x38001 }).modCtx 0 fun c => { c with dir := { c.dir with owner := .job } }
abbrev n : BitVec 16 := 0
abbrev x := Exec.ctx n
abbrev c := s.ctx n.toNat
abbrev w := c.r.world
abbrev st := c.r.xstat w.other
abbrev met : Prop := (c.r.sup = true ∧ c.r.xvalid w = false ∧ c.r.gateOpen = true ∧ c.r.xvalid w.other = true ∧ (w.other = c.dir.owner) ∧ (worldOf (if st.getLsbD 0 then 1 else 0) = w.other) ∧ st.getLsbD 15 = true ∧ (bitsN st 16 4 = c.r.token.toNat)) ∧ Ready s x .retx
theorem holds : met := by
  refine ⟨?_, ready_of ?_⟩ <;> decide +kernel
end C5
namespace C6
abbrev s : State := gateS
abbrev n : BitVec 16 := 0
abbrev rs : BitVec 5 := 4
abbrev x := Exec.ctx n
abbrev c := s.ctx n.toNat
abbrev w := c.r.world
abbrev g := gateOf s w.other (xreg s x rs).payload.toNat
abbrev met : Prop := ((IsFix (xreg s x rs)) ∧ ((xreg s x rs).payload.toNat < 32) ∧ gateIsOpen g = true ∧ ((c.r.sup = true ∨ g.2 / 2 ^ 13 % 2 = 1)) ∧ c.r.gateOpen = false ∧ c.r.xvalid w = false) ∧ (Ready s x (.wcall rs))
theorem holds : met := by
  refine ⟨?_, ready_of ?_⟩ <;> decide +kernel
end C6
namespace C7
abbrev s : State := (base.modCore 0 fun c => { c with fic := { c.fic with mode := .irq, pc := 0x7000 } })
abbrev k : BitVec 8 := 0
abbrev met : Prop := (Ready s (.fic k) .retx)
theorem holds : met := ready_of (by decide +kernel)
end C7
theorem all : C0.met ∧ C1.met ∧ C2.met ∧ C3.met ∧ C4.met ∧ C5.met ∧ C6.met ∧ C7.met :=
  ⟨C0.holds, C1.holds, C2.holds, C3.holds, C4.holds, C5.holds, C6.holds, C7.holds⟩
end ReturnsAndGates
theorem witness_ReturnsAndGates : ReturnsAndGates.C0.met ∧ ReturnsAndGates.C1.met ∧ ReturnsAndGates.C2.met ∧ ReturnsAndGates.C3.met ∧ ReturnsAndGates.C4.met ∧ ReturnsAndGates.C5.met ∧ ReturnsAndGates.C6.met ∧ ReturnsAndGates.C7.met := ReturnsAndGates.all

namespace OrderingInstructions
namespace C0
abbrev s : State := base
abbrev n : BitVec 16 := 0
abbrev k : Nat := 0
abbrev x : Exec := .ctx 0
abbrev met : Prop := (((s.ctx n.toNat).slot = some k) ∧ earlierDone s x = true ∧ (s.gcBy ≠ some x) ∧ storesOut s x = 0 ∧ (valleyWrites s = []) ∧ xsup s x = true ∧ ((∀ u ∈ s.tlbis, u.by_ ≠ x))) ∧ (Ready s (.ctx n) .yield) ∧ Ready s x .fence ∧ Ready s x .syncG ∧ Ready s x .syncV ∧ Ready s x .syncT ∧ ((∀ m, x = .ctx m → (s.ctx m.toNat).sfault = none))
theorem holds : met := by
  refine ⟨?_, ready_of ?_, ready_of ?_, ready_of ?_, ready_of ?_, ready_of ?_, by intro m h; cases h; decide +kernel⟩ <;> decide +kernel
end C0
namespace C1
abbrev s : State := base.setChan 3 { base.chan 3 with unacked := [(4, (1, 1))] }
abbrev n : BitVec 16 := 0
abbrev met : Prop := (valleyWrites s ≠ []) ∧ (Ready s (.ctx n) .syncV)
theorem holds : met := by
  refine ⟨?_, ready_of ?_⟩ <;> decide +kernel
end C1
namespace C2
abbrev s : State := { base with tlbis := [{ id := 3, by_ := .ctx 0, world := .sys, kind := .w }] }
abbrev n : BitVec 16 := 0
abbrev met : Prop := ((xsup s (.ctx n) = true) ∧ ((∃ u ∈ s.tlbis, u.by_ = .ctx n))) ∧ (Ready s (.ctx n) .syncT)
theorem holds : met := by
  refine ⟨?_, ready_of ?_⟩ <;> decide +kernel
end C2
theorem all : C0.met ∧ C1.met ∧ C2.met :=
  ⟨C0.holds, C1.holds, C2.holds⟩
end OrderingInstructions
theorem witness_OrderingInstructions : OrderingInstructions.C0.met ∧ OrderingInstructions.C1.met ∧ OrderingInstructions.C2.met := OrderingInstructions.all

namespace SpecialRegisters
namespace C0
abbrev s : State := regs base [(4, fx 7), (5, rawW 9)]
abbrev x : Exec := .ctx 0
abbrev rd : BitVec 5 := 3
abbrev sel : BitVec 12 := 0
abbrev rs : BitVec 5 := 4
abbrev j := 7
abbrev n : BitVec 16 := 0
abbrev y := Exec.ctx n
abbrev c := s.ctx n.toNat
abbrev k : BitVec 6 := 3
abbrev met : Prop := (mfsOk s x sel.toNat = true ∧ (sel ≠ 0x020) ∧ mtsOk s x sel.toNat = true ∧ (Whole (xreg s x rs)) ∧ (j < 8) ∧ (Whole (xreg s y rs)) ∧ c.r.sup = true ∧ xsup s y = true) ∧ (Ready s x (.mfs rd sel)) ∧ (Ready s x (.mts rs sel)) ∧ (Ready s y (.mts rs 0x000)) ∧ (Ready s y (.mts rs 0x001)) ∧ (Ready s y (.mts rs 0x003)) ∧ (Ready s y (.mts rs 0x00C)) ∧ (Ready s y (.mts rs 0x006)) ∧ (Ready s y (.mts rs 0x005)) ∧ (Ready s y (.mts rs 0x002)) ∧ (Ready s y (.rdw rd k)) ∧ (Ready s y (.wrw rs k))
theorem holds : met := by
  refine ⟨?_, ready_of ?_, ready_of ?_, ready_of ?_, ready_of ?_, ready_of ?_, ready_of ?_, ready_of ?_, ready_of ?_, ready_of ?_, ready_of ?_, ready_of ?_⟩ <;> decide +kernel
end C0
namespace C1
abbrev s : State := rec0 base fun r => { r with ctxStat := 0 }
abbrev x : Exec := .ctx 0
abbrev rd : BitVec 5 := 3
abbrev sel : BitVec 12 := 0x010
abbrev met : Prop := mfsOk s x sel.toNat = false ∧ (Ready s x (.mfs rd sel))
theorem holds : met := by
  refine ⟨?_, ready_of ?_⟩ <;> decide +kernel
end C1
namespace C2
abbrev s : State := regs base [(4, fx 7), (5, rawW 9)]
abbrev n : BitVec 16 := 0
abbrev rs : BitVec 5 := 4
abbrev y := Exec.ctx n
abbrev c := s.ctx n.toNat
abbrev j : Nat := 3
abbrev pm := BitVec.ofNat 12 (0x040 + j)
abbrev met : Prop := ((Whole (xreg s y rs)) ∧ (j < 8) ∧ (j / 4 = c.r.world.num) ∧ c.r.sup = true) ∧ (Ready s y (.mts rs pm))
theorem holds : met := by
  refine ⟨?_, ready_of ?_⟩ <;> decide +kernel
end C2
namespace C3
abbrev s : State := regs (fpb base) [(4, fx 3), (5, rawW 9)]
abbrev n : BitVec 16 := 0
abbrev rd : BitVec 5 := 3
abbrev rs : BitVec 5 := 4
abbrev y := Exec.ctx n
abbrev c := s.ctx n.toNat
abbrev vy := (xreg s y rs).payload
abbrev b := bitsN vy 4 2
abbrev rt : BitVec 5 := 5
abbrev met : Prop := (xsup s y = true ∧ (IsFix (xreg s y rs)) ∧ (((c.r.fpBound = true ∧ c.r.fpBank.toNat = b) ∨ claimOf s n.toNat = some b)) ∧ (((xreg s y rt).tag = 0x002 ∨ (xreg s y rt).tag = 0x006))) ∧ (Ready s y (.fbrd rd rs)) ∧ (Ready s y (.fbwr rs rt))
theorem holds : met := by
  refine ⟨?_, ready_of ?_, ready_of ?_⟩ <;> decide +kernel
end C3
namespace C4
abbrev s : State := (regs base [(4, fx 0)]).modCore 0 fun c => { c with claim := [(0, 0)] }
abbrev n : BitVec 16 := 0
abbrev rs : BitVec 5 := 4
abbrev y := Exec.ctx n
abbrev vy := (xreg s y rs).payload
abbrev met : Prop := (xsup s y = true ∧ (Whole (xreg s y rs)) ∧ vy.getLsbD 2 = false ∧ (claimOf s n.toNat = some (bitsN vy 0 2))) ∧ (Ready s y (.mts rs 0x021))
theorem holds : met := by
  refine ⟨?_, ready_of ?_⟩ <;> decide +kernel
end C4
namespace C5
abbrev s : State := regs (fpb base) [(4, fx 4)]
abbrev n : BitVec 16 := 0
abbrev rs : BitVec 5 := 4
abbrev y := Exec.ctx n
abbrev vy := (xreg s y rs).payload
abbrev met : Prop := (xsup s y = true ∧ (Whole (xreg s y rs)) ∧ vy.getLsbD 2 = true) ∧ (Ready s y (.mts rs 0x021))
theorem holds : met := by
  refine ⟨?_, ready_of ?_⟩ <;> decide +kernel
end C5
theorem all : C0.met ∧ C1.met ∧ C2.met ∧ C3.met ∧ C4.met ∧ C5.met :=
  ⟨C0.holds, C1.holds, C2.holds, C3.holds, C4.holds, C5.holds⟩
end SpecialRegisters
theorem witness_SpecialRegisters : SpecialRegisters.C0.met ∧ SpecialRegisters.C1.met ∧ SpecialRegisters.C2.met ∧ SpecialRegisters.C3.met ∧ SpecialRegisters.C4.met ∧ SpecialRegisters.C5.met := SpecialRegisters.all

namespace ContextInstructions
namespace C0
abbrev s : State := regs base [(4, fx 1), (5, ptr 0x108 0x2000)]
abbrev n : BitVec 16 := 0
abbrev k : Nat := 161
abbrev rd : BitVec 5 := 3
abbrev rs : BitVec 5 := 4
abbrev rt : BitVec 5 := 5
abbrev x := Exec.ctx n
abbrev a := xreg s x rs
abbrev b := xreg s x rt
abbrev me := s.ctx n.toNat
abbrev met : Prop := (xsup s x = true ∧ IsFix a ∧ ((b.tag = 0x108 ∨ b.tag = 0x006)) ∧ ((vaOf b).toNat % 4 = 0) ∧ (a.payload.toNat < 256) ∧ ((s.tile (tileOf a.payload.toNat)).dead = false) ∧ (freeRecord s a.payload.toNat = some k) ∧ me.r.gateOpen = false ∧ me.sfault = none) ∧ (Ready s x (.spawn rd rs rt)) ∧ Ready s x .ctxend
theorem holds : met := by
  refine ⟨?_, ready_of ?_, ready_of ?_⟩ <;> decide +kernel
end C0
namespace C1
abbrev s : State := regs base [(4, fx 256), (5, ptr 0x108 0x2000)]
abbrev n : BitVec 16 := 0
abbrev rd : BitVec 5 := 3
abbrev rs : BitVec 5 := 4
abbrev rt : BitVec 5 := 5
abbrev x := Exec.ctx n
abbrev a := xreg s x rs
abbrev b := xreg s x rt
abbrev met : Prop := (xsup s x = true ∧ IsFix a ∧ ((b.tag = 0x108 ∨ b.tag = 0x006)) ∧ ((vaOf b).toNat % 4 = 0) ∧ ((256 ≤ a.payload.toNat ∨ (s.tile (tileOf a.payload.toNat)).dead = true ∨ freeRecord s a.payload.toNat = none))) ∧ (Ready s x (.spawn rd rs rt))
theorem holds : met := by
  refine ⟨?_, ready_of ?_⟩ <;> decide +kernel
end C1
namespace C2
abbrev s : State := (regs base [(4, ⟨7, BitVec.ofNat 64 (160 + 5*65536 + 2^32)⟩)])
abbrev n : BitVec 16 := 0
abbrev m : Nat := 160
abbrev rs : BitVec 5 := 4
abbrev x := Exec.ctx n
abbrev a := xreg s x rs
abbrev met : Prop := (Targets s x a m mayHold ∧ appendsDone s m = true ∧ atAck s m = false ∧ ((s.ctx m).slot ≠ none) ∧ Targets s x a m mayKill) ∧ (Ready s x (.ctxhold rs)) ∧ (Ready s x (.ctxkill rs))
theorem holds : met := by
  refine ⟨?_, ready_of ?_, ready_of ?_⟩ <;> decide +kernel
end C2
namespace C3
abbrev s : State := (regs base [(4, ⟨7, BitVec.ofNat 64 (160 + 5*65536 + 2^32)⟩), (5, ptr 0x108 0x2000)]).modCtx 160 fun c => { c with slot := none, dir := { c.dir with state := .ready  } }
abbrev n : BitVec 16 := 0
abbrev m : Nat := 160
abbrev rs : BitVec 5 := 4
abbrev x := Exec.ctx n
abbrev a := xreg s x rs
abbrev met : Prop := (Targets s x a m mayHold ∧ appendsDone s m = true ∧ atAck s m = false ∧ ((s.ctx m).dir.state = .ready)) ∧ (Ready s x (.ctxhold rs))
theorem holds : met := by
  refine ⟨?_, ready_of ?_⟩ <;> decide +kernel
end C3
namespace C4
abbrev s : State := (regs base [(4, ⟨7, BitVec.ofNat 64 (160 + 5*65536 + 2^32)⟩), (5, ptr 0x108 0x2000)]).modCtx 160 fun c => { c with slot := none, dir := { c.dir with state := .waitEvent  } }
abbrev n : BitVec 16 := 0
abbrev m : Nat := 160
abbrev rs : BitVec 5 := 4
abbrev x := Exec.ctx n
abbrev a := xreg s x rs
abbrev met : Prop := (Targets s x a m mayHold ∧ appendsDone s m = true ∧ atAck s m = false ∧ ((s.ctx m).dir.state = .waitEvent)) ∧ (Ready s x (.ctxhold rs))
theorem holds : met := by
  refine ⟨?_, ready_of ?_⟩ <;> decide +kernel
end C4
namespace C5
abbrev s : State := (regs base [(4, ⟨7, BitVec.ofNat 64 (160 + 5*65536 + 2^32)⟩), (5, ptr 0x108 0x2000)]).modCtx 160 fun c => { c with slot := none, dir := { c.dir with state := .held , heldFrom := .ready } }
abbrev n : BitVec 16 := 0
abbrev m : Nat := 160
abbrev rs : BitVec 5 := 4
abbrev x := Exec.ctx n
abbrev a := xreg s x rs
abbrev met : Prop := (Targets s x a m isHeld ∧ ((s.ctx m).dir.heldFrom = .ready)) ∧ (Ready s x (.ctxrel rs))
theorem holds : met := by
  refine ⟨?_, ready_of ?_⟩ <;> decide +kernel
end C5
namespace C6
abbrev s : State := (regs base [(4, ⟨7, BitVec.ofNat 64 (160 + 5*65536 + 2^32)⟩), (5, ptr 0x108 0x2000)]).modCtx 160 fun c => { c with slot := none, dir := { c.dir with state := .held , heldFrom := .waitMem } }
abbrev n : BitVec 16 := 0
abbrev m : Nat := 160
abbrev rs : BitVec 5 := 4
abbrev x := Exec.ctx n
abbrev a := xreg s x rs
abbrev met : Prop := (Targets s x a m isHeld ∧ ((s.ctx m).dir.heldFrom = .waitMem)) ∧ (Ready s x (.ctxrel rs))
theorem holds : met := by
  refine ⟨?_, ready_of ?_⟩ <;> decide +kernel
end C6
theorem all : C0.met ∧ C1.met ∧ C2.met ∧ C3.met ∧ C4.met ∧ C5.met ∧ C6.met :=
  ⟨C0.holds, C1.holds, C2.holds, C3.holds, C4.holds, C5.holds, C6.holds⟩
end ContextInstructions
theorem witness_ContextInstructions : ContextInstructions.C0.met ∧ ContextInstructions.C1.met ∧ ContextInstructions.C2.met ∧ ContextInstructions.C3.met ∧ ContextInstructions.C4.met ∧ ContextInstructions.C5.met ∧ ContextInstructions.C6.met := ContextInstructions.all

namespace WaitsAndRecords
namespace C0
abbrev s : State := ctx0 (regs base [(4, fx 6), (5, fx 100)]) fun c => { c with dir := { c.dir with events := 2 } }
abbrev n : BitVec 16 := 0
abbrev rd : BitVec 5 := 3
abbrev rs : BitVec 5 := 4
abbrev rt : BitVec 5 := 5
abbrev x := Exec.ctx n
abbrev a := xreg s x rs
abbrev b := xreg s x rt
abbrev c := s.ctx n.toNat
abbrev mask : BitVec 16 := a.payload.extractLsb' 0 16
abbrev hit := c.dir.events &&& mask
abbrev sel : BitVec 12 := 0x3F
abbrev met : Prop := (IsFix a ∧ IsFix b ∧ (hit ≠ 0) ∧ (sel.toNat < 0x040)) ∧ (Ready s x (.wait rd rs rt))
theorem holds : met := by
  refine ⟨?_, ready_of ?_⟩ <;> decide +kernel
end C0
namespace C1
abbrev s : State := ctx0 (regs base [(4, fx 6), (5, fx 100)]) fun c => { c with dir := { c.dir with events := 1 } }
abbrev n : BitVec 16 := 0
abbrev k : Nat := 0
abbrev rd : BitVec 5 := 3
abbrev rs : BitVec 5 := 4
abbrev rt : BitVec 5 := 5
abbrev x := Exec.ctx n
abbrev a := xreg s x rs
abbrev b := xreg s x rt
abbrev c := s.ctx n.toNat
abbrev mask : BitVec 16 := a.payload.extractLsb' 0 16
abbrev hit := c.dir.events &&& mask
abbrev sel : BitVec 12 := 0x046
abbrev met : Prop := (IsFix a ∧ IsFix b ∧ hit = 0 ∧ (c.slot = some k) ∧ (0x040 ≤ sel.toNat) ∧ (sel.toNat < 0x047)) ∧ (Ready s x (.wait rd rs rt))
theorem holds : met := by
  refine ⟨?_, ready_of ?_⟩ <;> decide +kernel
end C1
namespace C2
abbrev s : State := regs base [(4, rawW 0x400000000000000)]
abbrev n : BitVec 16 := 0
abbrev rd : BitVec 5 := 3
abbrev rs : BitVec 5 := 4
abbrev rt : BitVec 5 := 5
abbrev x := Exec.ctx n
abbrev a := xreg s x rs
abbrev sel : BitVec 12 := 0x04F
abbrev met : Prop := (Base s x a ∧ (isGlobal (addOff (vaOf a) 0) = true) ∧ ((addOff (vaOf a) 0).toNat % 8 = 0) ∧ (0x048 ≤ sel.toNat) ∧ (sel.toNat < 0x050)) ∧ (Ready s x (.waitM rd rs rt))
theorem holds : met := by
  refine ⟨?_, ready_of ?_⟩ <;> decide +kernel
end C2
namespace C3
abbrev s : State := regs (held base .e [rawW 0x1122, fx 5]) [(4, rawW 0x3000), (5, fx 5)]
abbrev t : State := tr (.waitM 3 4 5) 0 0x3000 8 none (regs (held base .e [rawW 0x1122, fx 5]) [(4, rawW 0x3000), (5, fx 5)])
abbrev n : BitVec 16 := 0
abbrev rd : BitVec 5 := 3
abbrev rs : BitVec 5 := 4
abbrev rt : BitVec 5 := 5
abbrev w : W := rawW 0x1122
abbrev x := Exec.ctx n
abbrev a := xreg s x rs
abbrev met : Prop := (Base s x a ∧ (w ≠ xreg t x rt)) ∧ (Ready s x (.waitM rd rs rt)) ∧ (Reads (env x (.waitM rd rs rt)) s (addOff (vaOf a) 0) 8 w t)
theorem holds : met := by
  refine ⟨?_, ready_of ?_, reads_of ?_⟩ <;> decide +kernel
end C3
namespace C4
abbrev s : State := (List.range 32).foldl (fun s i => s.modCtx (i + 1) fun c => { c with monitor := some (0, nilW) }) (regs (held base .e [rawW 0x1122, fx 5]) [(4, rawW 0x3000), (5, rawW 0x1122)])
abbrev t : State := tr (.waitM 3 4 5) 0 0x3000 8 none ((List.range 32).foldl (fun s i => s.modCtx (i + 1) fun c => { c with monitor := some (0, nilW) }) (regs (held base .e [rawW 0x1122, fx 5]) [(4, rawW 0x3000), (5, rawW 0x1122)]))
abbrev n : BitVec 16 := 0
abbrev rd : BitVec 5 := 3
abbrev rs : BitVec 5 := 4
abbrev rt : BitVec 5 := 5
abbrev w : W := rawW 0x1122
abbrev x := Exec.ctx n
abbrev a := xreg s x rs
abbrev met : Prop := (Base s x a ∧ (w = xreg t x rt) ∧ (32 ≤ monitorsUsed t (xcore x))) ∧ (Ready s x (.waitM rd rs rt)) ∧ (Reads (env x (.waitM rd rs rt)) s (addOff (vaOf a) 0) 8 w t)
theorem holds : met := by
  refine ⟨?_, ready_of ?_, reads_of ?_⟩ <;> decide +kernel
end C4
namespace C5
abbrev s : State := regs (held base .e [rawW 0x1122, fx 5]) [(4, rawW 0x3000), (5, rawW 0x1122)]
abbrev t : State := tr (.waitM 3 4 5) 0 0x3000 8 none (regs (held base .e [rawW 0x1122, fx 5]) [(4, rawW 0x3000), (5, rawW 0x1122)])
abbrev n : BitVec 16 := 0
abbrev k : Nat := 0
abbrev rd : BitVec 5 := 3
abbrev rs : BitVec 5 := 4
abbrev rt : BitVec 5 := 5
abbrev x := Exec.ctx n
abbrev a := xreg s x rs
abbrev c := s.ctx n.toNat
abbrev mask : BitVec 16 := a.payload.extractLsb' 0 16
abbrev hit := c.dir.events &&& mask
abbrev l := trl (.waitM 3 4 5) 0 0x3000 8 none (regs (held base .e [rawW 0x1122, fx 5]) [(4, rawW 0x3000), (5, rawW 0x1122)])
abbrev h := ({ st := .e, data := lineOf [rawW 0x1122, fx 5] } : L1Line)
abbrev met : Prop := (Base s x a ∧ (Held t x (l.lpa (addOff (vaOf a) 0) / 8) h) ∧ h.st.hit = true ∧ (lineWord h.data (l.lpa (addOff (vaOf a) 0) / 8) = xreg t x rt) ∧ (monitorsUsed t (xcore x) < 32) ∧ (c.slot = some k)) ∧ (Ready s x (.waitM rd rs rt)) ∧ (Mapped (env x (.waitM rd rs rt)) s (addOff (vaOf a) 0) 0 8 none l t)
theorem holds : met := by
  refine ⟨?_, ready_of ?_, mapped_of ?_⟩ <;> decide +kernel
end C5
namespace C6
abbrev s : State := (regs base [(4, ⟨7, BitVec.ofNat 64 (160 + 5*65536 + 2^32)⟩), (5, ptr 0x108 0x2000)]).modCtx 160 fun c => { c with slot := none, dir := { c.dir with state := .held  } }
abbrev n : BitVec 16 := 0
abbrev m : Nat := 160
abbrev rd : BitVec 5 := 3
abbrev rs : BitVec 5 := 4
abbrev sel : BitVec 12 := 0x050
abbrev x := Exec.ctx n
abbrev a := xreg s x rs
abbrev met : Prop := ((Targets s x a m (fun st => st == .held || st == .lockup)) ∧ Targets s x a m isHeld) ∧ (Ready s x (.ctxrd rd rs sel)) ∧ (Ready s x (.ctxwr rd rs sel))
theorem holds : met := by
  refine ⟨?_, ready_of ?_, ready_of ?_⟩ <;> decide +kernel
end C6
namespace C7
abbrev s : State := (regs base [(4, ⟨7, BitVec.ofNat 64 (160 + 5*65536 + 2^32)⟩), (5, ptr 0x108 0x2000)]).modCtx 160 fun c => { c with slot := none, dir := { c.dir with state := .ready  } }
abbrev n : BitVec 16 := 0
abbrev m : Nat := 160
abbrev rd : BitVec 5 := 3
abbrev rs : BitVec 5 := 4
abbrev sel : BitVec 12 := 0x070
abbrev x := Exec.ctx n
abbrev a := xreg s x rs
abbrev met : Prop := ((0x070 ≤ sel.toNat) ∧ (Targets s x a m (fun _ => true))) ∧ (Ready s x (.ctxrd rd rs sel))
theorem holds : met := by
  refine ⟨?_, ready_of ?_⟩ <;> decide +kernel
end C7
theorem all : C0.met ∧ C1.met ∧ C2.met ∧ C3.met ∧ C4.met ∧ C5.met ∧ C6.met ∧ C7.met :=
  ⟨C0.holds, C1.holds, C2.holds, C3.holds, C4.holds, C5.holds, C6.holds, C7.holds⟩
end WaitsAndRecords
theorem witness_WaitsAndRecords : WaitsAndRecords.C0.met ∧ WaitsAndRecords.C1.met ∧ WaitsAndRecords.C2.met ∧ WaitsAndRecords.C3.met ∧ WaitsAndRecords.C4.met ∧ WaitsAndRecords.C5.met ∧ WaitsAndRecords.C6.met ∧ WaitsAndRecords.C7.met := WaitsAndRecords.all

namespace TranslationMaintenance
namespace C0
abbrev s : State := regs base [(4, rawW 0x3000)]
abbrev x : Exec := .ctx 0
abbrev rs : BitVec 5 := 4
abbrev a := xreg s x rs
abbrev n : BitVec 16 := 0
abbrev met : Prop := (xsup s x = true ∧ Whole a ∧ ((isPtr a = true ∨ a.tag = 0x006)) ∧ (isGlobal (vaOf a) = false) ∧ (IsInt (xreg s (.ctx n) rs)) ∧ (xsup s (.ctx n) = true)) ∧ (Ready s x (.tlbiVa rs)) ∧ Ready s x .tlbiW ∧ (Ready s (.ctx n) (.setpkr rs))
theorem holds : met := by
  refine ⟨?_, ready_of ?_, ready_of ?_, ready_of ?_⟩ <;> decide +kernel
end C0
namespace C1
abbrev s : State := regs base [(4, rawW (0x400000000000000 + 5*0x40000000000))]
abbrev x : Exec := .ctx 0
abbrev rs : BitVec 5 := 4
abbrev a := xreg s x rs
abbrev met : Prop := (xsup s x = true ∧ Whole a ∧ ((isPtr a = true ∨ a.tag = 0x006)) ∧ (isGlobal (vaOf a) = true) ∧ (homeDev (vaOf a) = devNo s)) ∧ (Ready s x (.tlbiVa rs))
theorem holds : met := by
  refine ⟨?_, ready_of ?_⟩ <;> decide +kernel
end C1
namespace C2
abbrev s : State := regs base [(4, rawW (0x400000000000000 + 6*0x40000000000))]
abbrev x : Exec := .ctx 0
abbrev rs : BitVec 5 := 4
abbrev a := xreg s x rs
abbrev met : Prop := (xsup s x = true ∧ Whole a ∧ ((isPtr a = true ∨ a.tag = 0x006)) ∧ (isGlobal (vaOf a) = true) ∧ (homeDev (vaOf a) ≠ devNo s)) ∧ (Ready s x (.tlbiVa rs))
theorem holds : met := by
  refine ⟨?_, ready_of ?_⟩ <;> decide +kernel
end C2
namespace C3
abbrev s : State := regs base [(4, fx 7), (5, rawW 9)]
abbrev x : Exec := .ctx 0
abbrev rs : BitVec 5 := 4
abbrev a := xreg s x rs
abbrev met : Prop := (xsup s x = true ∧ IsFix a) ∧ (Ready s x (.tlbiSp rs))
theorem holds : met := by
  refine ⟨?_, ready_of ?_⟩ <;> decide +kernel
end C3
namespace C4
abbrev s : State := { base with tlbis := [{ id := 3, by_ := .ctx 0, world := .sys, kind := .w }] }
abbrev u : Tlbi := { id := 3, by_ := .ctx 0, world := .sys, kind := .w }
abbrev id : Nat := 3
abbrev agent : BitVec 9 := 256
abbrev met : Prop := ((s.tlbis.find? fun v => v.id == id) = some u) ∧ storesVisible s u.by_ = true ∧ u.done.contains agent.toNat = false ∧ (agent.toNat ≤ homeTlb) ∧ (u.acks = []) ∧ accessesDone s = true ∧ (((List.range (homeTlb + 1)).all (tookEffect s u)) = true)
theorem holds : met := by decide +kernel
end C4
namespace C5
abbrev s : State := (ctx0 (regs (held base .e [fx 5]) [(4, rawW 0x3000)]) fun c => { c with pend := some { word := (Op.ldw 3 4 0).word, why := .walk, ready := true, needs := some 0x80C0 } })
abbrev x : Exec := .ctx 0
abbrev p : Pend := { word := (Op.ldw 3 4 0).word, why := .walk, ready := true, needs := some 0x80C0 }
abbrev v := (pendBody ({ word := (Op.ldw 3 4 0).word, why := .walk, ready := true, needs := some 0x80C0 } : Pend) { x := .ctx 0, word := (Op.ldw 3 4 0).word, once := (answered ((ctx0 (regs (held base .e [fx 5]) [(4, rawW 0x3000)]) fun c => { c with pend := some { word := (Op.ldw 3 4 0).word, why := .walk, ready := true, needs := some 0x80C0 } })) ({ word := (Op.ldw 3 4 0).word, why := .walk, ready := true, needs := some 0x80C0 } : Pend)).once, words := (answered ((ctx0 (regs (held base .e [fx 5]) [(4, rawW 0x3000)]) fun c => { c with pend := some { word := (Op.ldw 3 4 0).word, why := .walk, ready := true, needs := some 0x80C0 } })) ({ word := (Op.ldw 3 4 0).word, why := .walk, ready := true, needs := some 0x80C0 } : Pend)).words, contended := (answered ((ctx0 (regs (held base .e [fx 5]) [(4, rawW 0x3000)]) fun c => { c with pend := some { word := (Op.ldw 3 4 0).word, why := .walk, ready := true, needs := some 0x80C0 } })) ({ word := (Op.ldw 3 4 0).word, why := .walk, ready := true, needs := some 0x80C0 } : Pend)).contended, bar := (answered ((ctx0 (regs (held base .e [fx 5]) [(4, rawW 0x3000)]) fun c => { c with pend := some { word := (Op.ldw 3 4 0).word, why := .walk, ready := true, needs := some 0x80C0 } })) ({ word := (Op.ldw 3 4 0).word, why := .walk, ready := true, needs := some 0x80C0 } : Pend)).bar } (setPend (dropRead ((ctx0 (regs (held base .e [fx 5]) [(4, rawW 0x3000)]) fun c => { c with pend := some { word := (Op.ldw 3 4 0).word, why := .walk, ready := true, needs := some 0x80C0 } })) X0) X0 none)).2
abbrev met : Prop := ((pendOf s x = some p) ∧ (p.why = .walk) ∧ inSlot v x = true) ∧ GoesOn s x p v
theorem holds : met := by
  refine ⟨?_, goesOn_of ?_⟩ <;> decide +kernel
end C5
theorem all : C0.met ∧ C1.met ∧ C2.met ∧ C3.met ∧ C4.met ∧ C5.met :=
  ⟨C0.holds, C1.holds, C2.holds, C3.holds, C4.holds, C5.holds⟩
end TranslationMaintenance
theorem witness_TranslationMaintenance : TranslationMaintenance.C0.met ∧ TranslationMaintenance.C1.met ∧ TranslationMaintenance.C2.met ∧ TranslationMaintenance.C3.met ∧ TranslationMaintenance.C4.met ∧ TranslationMaintenance.C5.met := TranslationMaintenance.all

namespace QuantumExpiry
namespace C0
abbrev s : State := base.modCore 0 fun c => { c with slots := ((List.range 16).map fun k => (k, if k = 0 then 0 else 170 + k)), readyQ := [160] }
abbrev n : BitVec 16 := 0
abbrev k : Nat := 0
abbrev c := s.ctx n.toNat
abbrev q := s.core (coreOf n.toNat)
abbrev waiting := ∃ m ∈ q.readyQ, c.dir.prio.toNat ≤ (s.ctx m).dir.prio.toNat
abbrev met : Prop := (c.dir.state = .active) ∧ (c.slot = some k) ∧ c.stopped = false ∧ c.pend = none ∧ (dval s 0x3200 0x03 ≠ 0) ∧ waiting ∧ freeSlot q = none
theorem holds : met := by decide +kernel
end C0
namespace C1
abbrev s : State := base
abbrev n : BitVec 16 := 0
abbrev k : Nat := 0
abbrev c := s.ctx n.toNat
abbrev q := s.core (coreOf n.toNat)
abbrev waiting := ∃ m ∈ q.readyQ, c.dir.prio.toNat ≤ (s.ctx m).dir.prio.toNat
abbrev met : Prop := (c.dir.state = .active) ∧ (c.slot = some k) ∧ c.stopped = false ∧ c.pend = none ∧ ((dval s 0x3200 0x03 = 0 ∨ ¬ waiting ∨ freeSlot q ≠ none))
theorem holds : met := by decide +kernel
end C1
theorem all : C0.met ∧ C1.met :=
  ⟨C0.holds, C1.holds⟩
end QuantumExpiry
theorem witness_QuantumExpiry : QuantumExpiry.C0.met ∧ QuantumExpiry.C1.met := QuantumExpiry.all

namespace SwapsAndPreemption
namespace C0
abbrev s : State := (base.modCore 0 fun c => { c with swaps := [{ slot := 1, out := none, goal := .ready }], readyQ := [5] }).modCtx 5 fun c => { c with dir := { c.dir with state := .ready } }
abbrev core : BitVec 8 := 0
abbrev w : Swap := { slot := 1, out := none, goal := .ready }
abbrev rest : List Swap := []
abbrev n : Nat := 5
abbrev c := s.core core.toNat
abbrev met : Prop := (c.swaps = w :: rest) ∧ w.started = false ∧ coreRuns s core.toNat = true ∧ c.halting = false ∧ c.testing = none ∧ coreArmed s core.toNat 2 = false ∧ (nextReady s core.toNat = some n)
theorem holds : met := by decide +kernel
end C0
namespace C1
abbrev s : State := base.modCore 0 fun c => { c with swaps := [{ slot := 0, out := some 0, goal := .waitEvent, started := true }] }
abbrev core : BitVec 8 := 0
abbrev w : Swap := { slot := 0, out := some 0, goal := .waitEvent, started := true }
abbrev m : Nat := 0
abbrev c := s.core core.toNat
abbrev met : Prop := (c.swaps = [w]) ∧ w.started = true ∧ (w.out = some m) ∧ w.inc = none ∧ (w.goal ≠ .ready) ∧ ((s.ctx m).dir.state = .active) ∧ ((s.ctx m).dir.dying = false) ∧ appendsDone s m = true ∧ (c.readyQ = [])
theorem holds : met := by decide +kernel
end C1
namespace C2
abbrev s : State := (base.modCore 0 fun c => { c with swaps := [{ slot := 1, out := none, goal := .ready, started := true, inc := some 5 }] })
abbrev core : BitVec 8 := 0
abbrev w : Swap := { slot := 1, out := none, goal := .ready, started := true, inc := some 5 }
abbrev n : Nat := 5
abbrev c := s.core core.toNat
abbrev met : Prop := (c.swaps = [w]) ∧ w.started = true ∧ w.out = none ∧ (w.inc = some n) ∧ ((s.ctx n).dir.fault = false) ∧ c.subst = false ∧ (c.readyQ = [])
theorem holds : met := by decide +kernel
end C2
namespace C3
abbrev s : State := (base.modCore 0 fun c => { c with slots := ((List.range 16).map fun k => (k, if k = 0 then 0 else 170 + k)), readyQ := [5] }).modCtx 5 fun c => { c with dir := { c.dir with state := .ready, prio := 3 } }
abbrev core : BitVec 8 := 0
abbrev w : Swap := { slot := 0, out := none, goal := .ready }
abbrev m : Nat := 0
abbrev n : Nat := 0
abbrev c := s.core core.toNat
abbrev met : Prop := (preemptee s core.toNat = some n) ∧ ((s.ctx n).pend = none) ∧ freeSlot c = none ∧ ((c.swaps.filter fun w => !w.started).length < (c.readyQ.filter fun m => decide ((s.ctx n).dir.prio.toNat < (s.ctx m).dir.prio.toNat)).length)
theorem holds : met := by decide +kernel
end C3
theorem all : C0.met ∧ C1.met ∧ C2.met ∧ C3.met :=
  ⟨C0.holds, C1.holds, C2.holds, C3.holds⟩
end SwapsAndPreemption
theorem witness_SwapsAndPreemption : SwapsAndPreemption.C0.met ∧ SwapsAndPreemption.C1.met ∧ SwapsAndPreemption.C2.met ∧ SwapsAndPreemption.C3.met := SwapsAndPreemption.all

namespace AccessesGoOn
namespace C0
abbrev s : State := (ctx0 (regs (held base .e [fx 5]) [(4, rawW 0x3000)]) fun c => { c with pend := some { word := (Op.ldw 3 4 0).word, why := .line, ready := true, needs := some 0x80C0 } })
abbrev u : State := (pendBody ({ word := (Op.ldw 3 4 0).word, why := .line, ready := true, needs := some 0x80C0 } : Pend) { x := .ctx 0, word := (Op.ldw 3 4 0).word, once := (answered (ctx0 (regs (held base .e [fx 5]) [(4, rawW 0x3000)]) fun c => { c with pend := some { word := (Op.ldw 3 4 0).word, why := .line, ready := true, needs := some 0x80C0 } }) ({ word := (Op.ldw 3 4 0).word, why := .line, ready := true, needs := some 0x80C0 } : Pend)).once, words := (answered (ctx0 (regs (held base .e [fx 5]) [(4, rawW 0x3000)]) fun c => { c with pend := some { word := (Op.ldw 3 4 0).word, why := .line, ready := true, needs := some 0x80C0 } }) ({ word := (Op.ldw 3 4 0).word, why := .line, ready := true, needs := some 0x80C0 } : Pend)).words, contended := (answered (ctx0 (regs (held base .e [fx 5]) [(4, rawW 0x3000)]) fun c => { c with pend := some { word := (Op.ldw 3 4 0).word, why := .line, ready := true, needs := some 0x80C0 } }) ({ word := (Op.ldw 3 4 0).word, why := .line, ready := true, needs := some 0x80C0 } : Pend)).contended, bar := (answered (ctx0 (regs (held base .e [fx 5]) [(4, rawW 0x3000)]) fun c => { c with pend := some { word := (Op.ldw 3 4 0).word, why := .line, ready := true, needs := some 0x80C0 } }) ({ word := (Op.ldw 3 4 0).word, why := .line, ready := true, needs := some 0x80C0 } : Pend)).bar } (setPend (dropRead (ctx0 (regs (held base .e [fx 5]) [(4, rawW 0x3000)]) fun c => { c with pend := some { word := (Op.ldw 3 4 0).word, why := .line, ready := true, needs := some 0x80C0 } }) X0) X0 none)).2
abbrev x : Exec := .ctx 0
abbrev p : Pend := { word := (Op.ldw 3 4 0).word, why := .line, ready := true, needs := some 0x80C0 }
abbrev met : Prop := ((pendOf s x = some p) ∧ ((p.why = .line ∨ p.why = .remote ∨ p.why = .maint)) ∧ inSlot u x = true) ∧ (GoesOn (closeOwn s x p) x p u)
theorem holds : met := by
  refine ⟨?_, goesOn_of ?_⟩ <;> decide +kernel
end C0
namespace C1
abbrev s : State := (ctx0 (regs (held base .e [fx 5]) [(4, rawW 0x3000)]) fun c => { c with slot := none, pend := some { word := (Op.ldw 3 4 0).word, why := .line, ready := true, needs := some 0x80C0 }, dir := { c.dir with state := .waitMem, wait := 1 } })
abbrev u : State := (pendBody ({ word := (Op.ldw 3 4 0).word, why := .line, ready := true, needs := some 0x80C0 } : Pend) { x := .ctx 0, word := (Op.ldw 3 4 0).word, once := (answered (ctx0 (regs (held base .e [fx 5]) [(4, rawW 0x3000)]) fun c => { c with slot := none, pend := some { word := (Op.ldw 3 4 0).word, why := .line, ready := true, needs := some 0x80C0 }, dir := { c.dir with state := .waitMem, wait := 1 } }) ({ word := (Op.ldw 3 4 0).word, why := .line, ready := true, needs := some 0x80C0 } : Pend)).once, words := (answered (ctx0 (regs (held base .e [fx 5]) [(4, rawW 0x3000)]) fun c => { c with slot := none, pend := some { word := (Op.ldw 3 4 0).word, why := .line, ready := true, needs := some 0x80C0 }, dir := { c.dir with state := .waitMem, wait := 1 } }) ({ word := (Op.ldw 3 4 0).word, why := .line, ready := true, needs := some 0x80C0 } : Pend)).words, contended := (answered (ctx0 (regs (held base .e [fx 5]) [(4, rawW 0x3000)]) fun c => { c with slot := none, pend := some { word := (Op.ldw 3 4 0).word, why := .line, ready := true, needs := some 0x80C0 }, dir := { c.dir with state := .waitMem, wait := 1 } }) ({ word := (Op.ldw 3 4 0).word, why := .line, ready := true, needs := some 0x80C0 } : Pend)).contended, bar := (answered (ctx0 (regs (held base .e [fx 5]) [(4, rawW 0x3000)]) fun c => { c with slot := none, pend := some { word := (Op.ldw 3 4 0).word, why := .line, ready := true, needs := some 0x80C0 }, dir := { c.dir with state := .waitMem, wait := 1 } }) ({ word := (Op.ldw 3 4 0).word, why := .line, ready := true, needs := some 0x80C0 } : Pend)).bar } (setPend (dropRead (ctx0 (regs (held base .e [fx 5]) [(4, rawW 0x3000)]) fun c => { c with slot := none, pend := some { word := (Op.ldw 3 4 0).word, why := .line, ready := true, needs := some 0x80C0 }, dir := { c.dir with state := .waitMem, wait := 1 } }) X0) X0 none)).2
abbrev n : BitVec 16 := 0
abbrev p : Pend := { word := (Op.ldw 3 4 0).word, why := .line, ready := true, needs := some 0x80C0 }
abbrev y := Exec.ctx n
abbrev met : Prop := ((pendOf s y = some p) ∧ ((p.why = .line ∨ p.why = .remote ∨ p.why = .maint)) ∧ ((u.ctx n.toNat).dir.state = .waitMem) ∧ ((u.ctx n.toNat).slot = none)) ∧ (GoesOn (closeOwn s y p) y p u)
theorem holds : met := by
  refine ⟨?_, goesOn_of ?_⟩ <;> decide +kernel
end C1
namespace C2
abbrev s : State := (ctx0 base fun c => { c with exn := some ⟨0x11, 0x3000, 5, none, 0⟩, pend := some { word := 0, why := .remote, ready := true } })
abbrev n : BitVec 16 := 0
abbrev p : Pend := { word := 0, why := .remote, ready := true }
abbrev f : Exn := ⟨0x11, 0x3000, 5, none, 0⟩
abbrev c := s.ctx n.toNat
abbrev y := Exec.ctx n
abbrev met : Prop := (pendOf s y = some p) ∧ (p.why = .remote) ∧ p.ready = true ∧ closeOwn s y p = s ∧ c.dir.dying = false ∧ (c.exn = some f) ∧ inSlot s y = true ∧ ((s.core (coreOf n.toNat)).subst = false)
theorem holds : met := by decide +kernel
end C2
namespace C3
abbrev s : State := ctx0 base fun c => { c with slot := none, waitRd := 3, dir := { c.dir with state := .waitEvent, wait := 4, deadline := 9 } }
abbrev n : BitVec 16 := 0
abbrev c := s.ctx n.toNat
abbrev met : Prop := ((c.dir.wait = 4 ∨ c.dir.wait = 5)) ∧ (c.dir.deadline ≠ 0) ∧ ((c.dir.state = .waitEvent ∨ c.dir.state = .waitMem))
theorem holds : met := by decide +kernel
end C3
namespace C4
abbrev s : State := ctx0 base fun c => { c with slot := none, dir := { c.dir with dying := true } }
abbrev n : BitVec 16 := 0
abbrev c := s.ctx n.toNat
abbrev met : Prop := c.dir.dying = true ∧ c.slot = none ∧ c.dir.accessOut = false ∧ c.dir.storesOut = 0
theorem holds : met := by decide +kernel
end C4
namespace C5
abbrev s : State := ctx0 base fun c => { c with dir := { c.dir with dying := true, accessOut := true } }
abbrev n : BitVec 16 := 0
abbrev c := s.ctx n.toNat
abbrev met : Prop := c.dir.dying = true ∧ ((c.slot ≠ none ∨ c.dir.accessOut = true ∨ c.dir.storesOut ≠ 0))
theorem holds : met := by decide +kernel
end C5
theorem all : C0.met ∧ C1.met ∧ C2.met ∧ C3.met ∧ C4.met ∧ C5.met :=
  ⟨C0.holds, C1.holds, C2.holds, C3.holds, C4.holds, C5.holds⟩
end AccessesGoOn
theorem witness_AccessesGoOn : AccessesGoOn.C0.met ∧ AccessesGoOn.C1.met ∧ AccessesGoOn.C2.met ∧ AccessesGoOn.C3.met ∧ AccessesGoOn.C4.met ∧ AccessesGoOn.C5.met := AccessesGoOn.all

namespace DoorbellsAndTileSleep
namespace C0
abbrev s : State := base.modCtx 40959 fun c => { c with dir := { c.dir with state := .ready } }
abbrev w : World := .sys
abbrev lcn : BitVec 16 := 40959
abbrev ev : BitVec 16 := 4
abbrev n := lcn.toNat
abbrev c := s.ctx n
abbrev v : BitVec 64 := ev.setWidth 64
abbrev all := c.dir.events ||| ev
abbrev hit := all &&& c.dir.mask
abbrev met : Prop := (n < 40960) ∧ (MayWrite s w (0x7F600000000 + n * 0x40) v) ∧ (noBells (modeAt s (tileOf (coreOf n))) = false) ∧ c.dir.owner = w ∧ (c.dir.state ≠ .free) ∧ (c.dir.state ≠ .stub) ∧ c.dir.dying = false ∧ ((c.dir.wait ≠ 4 ∨ hit = 0))
theorem holds : met := by decide +kernel
end C0
namespace C1
abbrev s : State := ctx0 base fun c => { c with slot := none, waitRd := 3, dir := { c.dir with state := .waitEvent, wait := 4, mask := 6 } }
abbrev w : World := .sys
abbrev lcn : BitVec 16 := 0
abbrev ev : BitVec 16 := 4
abbrev n := lcn.toNat
abbrev c := s.ctx n
abbrev v : BitVec 64 := ev.setWidth 64
abbrev all := c.dir.events ||| ev
abbrev hit := all &&& c.dir.mask
abbrev met : Prop := (n < 40960) ∧ (MayWrite s w (0x7F600000000 + n * 0x40) v) ∧ (noBells (modeAt s (tileOf (coreOf n))) = false) ∧ c.dir.owner = w ∧ (c.dir.state ≠ .free) ∧ (c.dir.state ≠ .stub) ∧ c.dir.dying = false ∧ c.dir.wait = 4 ∧ (hit ≠ 0) ∧ (c.dir.state = .waitEvent) ∧ (MayWrite s w (0x7F600000008 + n * 0x40) v)
theorem holds : met := by decide +kernel
end C1
namespace C2
abbrev s : State := ctx0 base fun c => { c with slot := none, waitRd := 3, dir := { c.dir with state := .waitEvent, wait := 4, mask := 6 } }
abbrev w : World := .job
abbrev lcn : BitVec 16 := 0
abbrev ev : BitVec 16 := 4
abbrev n := lcn.toNat
abbrev c := s.ctx n
abbrev v : BitVec 64 := ev.setWidth 64
abbrev met : Prop := (n < 40960) ∧ (MayWrite s w (0x7F600000000 + n * 0x40) v) ∧ (c.dir.owner ≠ w)
theorem holds : met := by decide +kernel
end C2
namespace C3
abbrev s : State := base
abbrev tile : BitVec 5 := 31
abbrev x := s.tile tile.toNat
abbrev met : Prop := (x.power = .on) ∧ x.waking = false ∧ x.dead = false ∧ tileIdle s tile.toNat = true
theorem holds : met := by decide +kernel
end C3
namespace C4
abbrev s : State := (base.modTile 31 fun t => { t with power := .nap })
abbrev tile : BitVec 5 := 31
abbrev x := s.tile tile.toNat
abbrev met : Prop := (x.power = .nap) ∧ x.waking = false ∧ tileIdle s tile.toNat = true ∧ (dval s 0x0402 0x02 ≠ 0)
theorem holds : met := by decide +kernel
end C4
namespace C5
abbrev s : State := (base.modTile 31 fun t => { t with power := .nap, waking := true })
abbrev tile : BitVec 5 := 31
abbrev x := s.tile tile.toNat
abbrev met : Prop := x.waking = true
theorem holds : met := by decide +kernel
end C5
theorem all : C0.met ∧ C1.met ∧ C2.met ∧ C3.met ∧ C4.met ∧ C5.met :=
  ⟨C0.holds, C1.holds, C2.holds, C3.holds, C4.holds, C5.holds⟩
end DoorbellsAndTileSleep
theorem witness_DoorbellsAndTileSleep : DoorbellsAndTileSleep.C0.met ∧ DoorbellsAndTileSleep.C1.met ∧ DoorbellsAndTileSleep.C2.met ∧ DoorbellsAndTileSleep.C3.met ∧ DoorbellsAndTileSleep.C4.met ∧ DoorbellsAndTileSleep.C5.met := DoorbellsAndTileSleep.all

namespace FastInterruptEntry
namespace C0
abbrev s : State := base
abbrev met : Prop := ficThere s.mg.mode = true ∧ ((s.tile (tileOf (dval s 0x0208 0x01 % 256))).dead = false)
theorem holds : met := by decide +kernel
end C0
namespace C1
abbrev s : State := { base with mg := { base.mg with mode := .loader } }
abbrev met : Prop := ficThere s.mg.mode = false
theorem holds : met := by decide +kernel
end C1
namespace C2
abbrev s : State := base.modCore 3 fun c => { c with fic := { c.fic with mode := .idle, nmi := true, pending := [] } }
abbrev core : BitVec 8 := 3
abbrev va : BitVec 59 := 0x7000
abbrev k := core.toNat
abbrev f := (s.core k).fic
abbrev met : Prop := coreUp s k = true ∧ (ficRuns (modeAt s (tileOf k)) = true) ∧ f.pend = none ∧ (s.svc.ficVec = some va) ∧ f.nmi = true ∧ (f.mode = .idle)
theorem holds : met := by decide +kernel
end C2
namespace C3
abbrev s : State := base.modCore 3 fun c => { c with fic := { c.fic with mode := .irq, nmi := true, pending := [] } }
abbrev core : BitVec 8 := 3
abbrev va : BitVec 59 := 0x7000
abbrev k := core.toNat
abbrev f := (s.core k).fic
abbrev met : Prop := coreUp s k = true ∧ (ficRuns (modeAt s (tileOf k)) = true) ∧ f.pend = none ∧ (s.svc.ficVec = some va) ∧ f.nmi = true ∧ (f.mode = .irq)
theorem holds : met := by decide +kernel
end C3
namespace C4
abbrev s : State := base.modCore 3 fun c => { c with fic := { c.fic with mode := .idle, nmi := false, pending := [(7, 9), (8, 1)] } }
abbrev core : BitVec 8 := 3
abbrev src : Nat := 7
abbrev info : BitVec 64 := 9
abbrev va : BitVec 59 := 0x7000
abbrev k := core.toNat
abbrev f := (s.core k).fic
abbrev met : Prop := coreUp s k = true ∧ (ficRuns (modeAt s (tileOf k)) = true) ∧ f.pend = none ∧ (s.svc.ficVec = some va) ∧ f.nmi = false ∧ (f.mode = .idle) ∧ ((src, info) ∈ f.pending) ∧ (tget f.pending src = some info) ∧ ((∀ e ∈ f.pending, e = (src, info) ∨ src < e.1))
theorem holds : met := by decide +kernel
end C4
namespace C5
abbrev s : State := base.modCore 3 fun c => { c with fic := { c.fic with mode := .idle, nmi := false, pending := [] } }
abbrev core : BitVec 8 := 3
abbrev k := core.toNat
abbrev f := (s.core k).fic
abbrev met : Prop := ((ficRuns (modeAt s (tileOf k)) = false ∨ f.nmi = false ∨ f.mode = .nmi)) ∧ ((ficRuns (modeAt s (tileOf k)) = false ∨ f.pending = [] ∨ f.nmi = true ∨ f.mode ≠ .idle))
theorem holds : met := by decide +kernel
end C5
theorem all : C0.met ∧ C1.met ∧ C2.met ∧ C3.met ∧ C4.met ∧ C5.met :=
  ⟨C0.holds, C1.holds, C2.holds, C3.holds, C4.holds, C5.holds⟩
end FastInterruptEntry
theorem witness_FastInterruptEntry : FastInterruptEntry.C0.met ∧ FastInterruptEntry.C1.met ∧ FastInterruptEntry.C2.met ∧ FastInterruptEntry.C3.met ∧ FastInterruptEntry.C4.met ∧ FastInterruptEntry.C5.met := FastInterruptEntry.all

namespace HomeRequests
namespace C0
abbrev s : State := { (base.modTile (homeTile base 0x8000) fun t => { t with l2 := [(0x8000, ({ dirty := true, data := (List.replicate 8 (fx 1)) } : L2Line))] }) with mesh := [({ kind := .rds, src := 0, dst := homeNode base 0x8000, line := 0x8000, data := none, st := none, req := some ({ kind := .rds, core := 0, line := 0x8000, credit := true } : Req) } : Msg)] }
abbrev u : State := { (base.modTile (homeTile base 0x8000) fun t => { t with l2 := [(0x8000, ({ dirty := true, data := (List.replicate 8 (fx 1)) } : L2Line))] }) with mesh := [] }
abbrev core : BitVec 8 := 0
abbrev line : BitVec 37 := 0x8000
abbrev r : Req := ({ kind := .rds, core := 0, line := 0x8000, credit := true } : Req)
abbrev l : L2Line := ({ dirty := true, data := (List.replicate 8 (fx 1)) } : L2Line)
abbrev c := core.toNat
abbrev n := line.toNat
abbrev met : Prop := (InL2 u n l ∧ r.ifetch = false ∧ r.wt = false) ∧ Asked s .rds .rds c n r u
theorem holds : met := by
  refine ⟨?_, asked_of ?_⟩ <;> decide +kernel
end C0
namespace C1
abbrev s : State := { (base.modTile (homeTile base 0x8000) fun t => { t with l2 := [(0x8000, ({ dirty := true, data := (List.replicate 8 (fx 1)) } : L2Line))] }) with mesh := [({ kind := .rdx, src := 0, dst := homeNode base 0x8000, line := 0x8000, data := none, st := none, req := some ({ kind := .rdx, core := 0, line := 0x8000, credit := true } : Req) } : Msg)] }
abbrev u : State := { (base.modTile (homeTile base 0x8000) fun t => { t with l2 := [(0x8000, ({ dirty := true, data := (List.replicate 8 (fx 1)) } : L2Line))] }) with mesh := [] }
abbrev core : BitVec 8 := 0
abbrev line : BitVec 37 := 0x8000
abbrev r : Req := ({ kind := .rdx, core := 0, line := 0x8000, credit := true } : Req)
abbrev l : L2Line := ({ dirty := true, data := (List.replicate 8 (fx 1)) } : L2Line)
abbrev c := core.toNat
abbrev n := line.toNat
abbrev met : Prop := InL2 u n l ∧ Asked s .rdx .rdx c n r u
theorem holds : met := by
  refine ⟨?_, asked_of ?_⟩ <;> decide +kernel
end C1
namespace C2
abbrev s : State := { (base.modTile (homeTile base 0x8000) fun t => { t with l2 := [(0x8000, ({ dirty := true, data := (List.replicate 8 (fx 1)) } : L2Line))] }) with mesh := [({ kind := .upg, src := 0, dst := homeNode base 0x8000, line := 0x8000, data := none, st := none, req := some ({ kind := .upg, core := 0, line := 0x8000, credit := true } : Req) } : Msg)] }
abbrev u : State := { (base.modTile (homeTile base 0x8000) fun t => { t with l2 := [(0x8000, ({ dirty := true, data := (List.replicate 8 (fx 1)) } : L2Line))] }) with mesh := [] }
abbrev core : BitVec 8 := 0
abbrev line : BitVec 37 := 0x8000
abbrev r : Req := ({ kind := .upg, core := 0, line := 0x8000, credit := true } : Req)
abbrev l : L2Line := ({ dirty := true, data := (List.replicate 8 (fx 1)) } : L2Line)
abbrev c := core.toNat
abbrev n := line.toNat
abbrev met : Prop := InL2 u n l ∧ Asked s .upg .upg c n r u
theorem holds : met := by
  refine ⟨?_, asked_of ?_⟩ <;> decide +kernel
end C2
namespace C3
abbrev s : State := { (base.modTile (homeTile base 0x8000) fun t => { t with l2 := [(0x8000, ({ dirty := true, data := (List.replicate 8 (fx 1)) } : L2Line))] }) with mesh := [({ kind := .rdo, src := 0, dst := homeNode base 0x8000, line := 0x8000, data := none, st := none, req := some ({ kind := .rdo, core := 0, line := 0x8000, credit := true } : Req) } : Msg)] }
abbrev u : State := { (base.modTile (homeTile base 0x8000) fun t => { t with l2 := [(0x8000, ({ dirty := true, data := (List.replicate 8 (fx 1)) } : L2Line))] }) with mesh := [] }
abbrev core : BitVec 8 := 0
abbrev line : BitVec 37 := 0x8000
abbrev r : Req := ({ kind := .rdo, core := 0, line := 0x8000, credit := true } : Req)
abbrev l : L2Line := ({ dirty := true, data := (List.replicate 8 (fx 1)) } : L2Line)
abbrev c := core.toNat
abbrev n := line.toNat
abbrev met : Prop := InL2 u n l ∧ Asked s .rdo .rdo c n r u
theorem holds : met := by
  refine ⟨?_, asked_of ?_⟩ <;> decide +kernel
end C3
namespace C4
abbrev s : State := { (base.modTile (homeTile base 0x8000) fun t => { t with l2 := [(0x8000, ({ dirty := true, data := (List.replicate 8 (fx 1)) } : L2Line))] }) with mesh := [({ kind := .wrm, src := 0, dst := homeNode base 0x8000, line := 0x8000, data := none, st := none, req := some ({ kind := .wrm, core := 0, line := 0x8000, credit := true, word := some ({ who := .ctx 0, key := 0x8000*8+7, word := fx 9, mask := 255 } : PStore) } : Req) } : Msg)] }
abbrev u : State := { (base.modTile (homeTile base 0x8000) fun t => { t with l2 := [(0x8000, ({ dirty := true, data := (List.replicate 8 (fx 1)) } : L2Line))] }) with mesh := [] }
abbrev core : BitVec 8 := 0
abbrev line : BitVec 37 := 0x8000
abbrev r : Req := ({ kind := .wrm, core := 0, line := 0x8000, credit := true, word := some ({ who := .ctx 0, key := 0x8000*8+7, word := fx 9, mask := 255 } : PStore) } : Req)
abbrev l : L2Line := ({ dirty := true, data := (List.replicate 8 (fx 1)) } : L2Line)
abbrev ps : PStore := ({ who := .ctx 0, key := 0x8000*8+7, word := fx 9, mask := 255 } : PStore)
abbrev key : Nat := 0
abbrev c := core.toNat
abbrev n := line.toNat
abbrev met : Prop := (InL2 u n l ∧ (r.word = some ps) ∧ (ps.key / 8 = n)) ∧ Asked s .wrm .wrm c n r u
theorem holds : met := by
  refine ⟨?_, asked_of ?_⟩ <;> decide +kernel
end C4
namespace C5
abbrev s : State := { (base.modTile (homeTile base 0x8000) fun t => { t with l2 := [(0x8000, ({ dirty := true, data := (List.replicate 8 (fx 1)) } : L2Line))] }) with mesh := [({ kind := .atm, src := 0, dst := homeNode base 0x8000, line := 0x8000, data := none, st := none, req := some ({ kind := .atm, core := 0, line := 0x8000, credit := true, atom := some (0x8000*8, 0, fx 2, nilW) } : Req) } : Msg)] }
abbrev u : State := { (base.modTile (homeTile base 0x8000) fun t => { t with l2 := [(0x8000, ({ dirty := true, data := (List.replicate 8 (fx 1)) } : L2Line))] }) with mesh := [] }
abbrev core : BitVec 8 := 0
abbrev line : BitVec 37 := 0x8000
abbrev r : Req := ({ kind := .atm, core := 0, line := 0x8000, credit := true, atom := some (0x8000*8, 0, fx 2, nilW) } : Req)
abbrev l : L2Line := ({ dirty := true, data := (List.replicate 8 (fx 1)) } : L2Line)
abbrev w : W := fx 3
abbrev key : Nat := 0x8000*8
abbrev op : BitVec 3 := 0
abbrev rt : W := fx 2
abbrev rd : W := nilW
abbrev c := core.toNat
abbrev n := line.toNat
abbrev met : Prop := (InL2 u n l ∧ (r.atom = some (key, op, rt, rd)) ∧ (key / 8 = n)) ∧ Asked s .atm .atm c n r u ∧ (atomNew op.toNat (lineWord l.data key) rt rd = .ok w)
theorem holds : met := by
  refine ⟨?_, asked_of ?_, exc ?_⟩ <;> decide +kernel
end C5
namespace C6
abbrev s : State := { (base.modTile (homeTile base 0x8000) fun t => { t with l2 := [(0x8000, ({ dirty := true, data := (List.replicate 8 (fx 1)) } : L2Line))] }) with mesh := [({ kind := .cln, src := 0, dst := homeNode base 0x8000, line := 0x8000, data := none, st := none, req := some ({ kind := .cln, core := 0, line := 0x8000, credit := true } : Req) } : Msg)] }
abbrev u : State := { (base.modTile (homeTile base 0x8000) fun t => { t with l2 := [(0x8000, ({ dirty := true, data := (List.replicate 8 (fx 1)) } : L2Line))] }) with mesh := [] }
abbrev core : BitVec 8 := 0
abbrev line : BitVec 37 := 0x8000
abbrev r : Req := ({ kind := .cln, core := 0, line := 0x8000, credit := true } : Req)
abbrev l : L2Line := ({ dirty := true, data := (List.replicate 8 (fx 1)) } : L2Line)
abbrev c := core.toNat
abbrev n := line.toNat
abbrev met : Prop := InL2 u n l ∧ Asked s .cln .cln c n r u
theorem holds : met := by
  refine ⟨?_, asked_of ?_⟩ <;> decide +kernel
end C6
namespace C7
abbrev s : State := { (base.modTile (homeTile base 0x8000) fun t => { t with l2 := [(0x8000, ({ dirty := true, data := (List.replicate 8 (fx 1)) } : L2Line))] }) with mesh := [({ kind := .fls, src := 0, dst := homeNode base 0x8000, line := 0x8000, data := none, st := none, req := some ({ kind := .fls, core := 0, line := 0x8000, credit := true } : Req) } : Msg)] }
abbrev u : State := { (base.modTile (homeTile base 0x8000) fun t => { t with l2 := [(0x8000, ({ dirty := true, data := (List.replicate 8 (fx 1)) } : L2Line))] }) with mesh := [] }
abbrev core : BitVec 8 := 0
abbrev line : BitVec 37 := 0x8000
abbrev r : Req := ({ kind := .fls, core := 0, line := 0x8000, credit := true } : Req)
abbrev l : L2Line := ({ dirty := true, data := (List.replicate 8 (fx 1)) } : L2Line)
abbrev c := core.toNat
abbrev n := line.toNat
abbrev met : Prop := InL2 u n l ∧ Asked s .fls .fls c n r u
theorem holds : met := by
  refine ⟨?_, asked_of ?_⟩ <;> decide +kernel
end C7
namespace C8
abbrev s : State := { (base.modTile (homeTile base 0x8000) fun t => { t with l2 := [(0x8000, ({ dirty := true, data := (List.replicate 8 (fx 1)) } : L2Line))] }) with mesh := [({ kind := .inv, src := 0, dst := homeNode base 0x8000, line := 0x8000, data := none, st := none, req := some ({ kind := .inv, core := 0, line := 0x8000, credit := true } : Req) } : Msg)] }
abbrev u : State := { (base.modTile (homeTile base 0x8000) fun t => { t with l2 := [(0x8000, ({ dirty := true, data := (List.replicate 8 (fx 1)) } : L2Line))] }) with mesh := [] }
abbrev core : BitVec 8 := 0
abbrev line : BitVec 37 := 0x8000
abbrev r : Req := ({ kind := .inv, core := 0, line := 0x8000, credit := true } : Req)
abbrev l : L2Line := ({ dirty := true, data := (List.replicate 8 (fx 1)) } : L2Line)
abbrev c := core.toNat
abbrev n := line.toNat
abbrev met : Prop := InL2 u n l ∧ Asked s .inv .inv c n r u
theorem holds : met := by
  refine ⟨?_, asked_of ?_⟩ <;> decide +kernel
end C8
namespace C9
abbrev s : State := { (((base.modTile (homeTile base 0x8000) fun t => { t with l2 := [(0x8000, ({ dirty := true, data := (List.replicate 8 (fx 1)) } : L2Line))] }).modTile (homeTile base 0x8000) fun t => { t with sf := [(0x8000, { st := .sh, sharers := [0, 2], txn := some { req := { kind := .rds, core := 1, line := 0x8000 }, awaiting := [2] } })] })) with mesh := [({ kind := .rds, src := 0, dst := homeNode base 0x8000, line := 0x8000, data := none, st := none, req := some ({ kind := .rds, core := 0, line := 0x8000, credit := true } : Req) } : Msg)] }
abbrev u : State := { (((base.modTile (homeTile base 0x8000) fun t => { t with l2 := [(0x8000, ({ dirty := true, data := (List.replicate 8 (fx 1)) } : L2Line))] }).modTile (homeTile base 0x8000) fun t => { t with sf := [(0x8000, { st := .sh, sharers := [0, 2], txn := some { req := { kind := .rds, core := 1, line := 0x8000 }, awaiting := [2] } })] })) with mesh := [] }
abbrev core : BitVec 8 := 0
abbrev line : BitVec 37 := 0x8000
abbrev tile : BitVec 5 := 0
abbrev r : Req := ({ kind := .rds, core := 0, line := 0x8000, credit := true } : Req)
abbrev m : Msg := ({ kind := .rds, src := 0, dst := homeNode base 0x8000, line := 0x8000, data := none, st := none, req := some ({ kind := .rds, core := 0, line := 0x8000, credit := true } : Req) } : Msg)
abbrev x : Txn := { req := { kind := .rds, core := 1, line := 0x8000 }, awaiting := [2] }
abbrev c := core.toNat
abbrev n := line.toNat
abbrev met : Prop := ((m.req = some r) ∧ r.line = n ∧ (sameCycle s m (fun _ => true) = []) ∧ ((u.tile (homeTile u n)).dead = false) ∧ ((u.core r.core).dead = false) ∧ ((entryOf u n).txn = some x) ∧ r.prio = false) ∧ AtHome s .rds c n m u
theorem holds : met := by
  refine ⟨?_, ?_⟩ <;> decide +kernel
end C9
namespace C10
abbrev s : State := { (((base.modTile (homeTile base 0x8000) fun t => { t with l2 := [(0x8000, ({ dirty := true, data := (List.replicate 8 (fx 1)) } : L2Line))] }).modTile (homeTile base 0x8000) fun t => { t with sf := [(0x8000, { st := .sh, sharers := [0, 2], txn := some { req := { kind := .rds, core := 1, line := 0x8000 }, awaiting := [2] } })] })) with mesh := [({ kind := .rds, src := 0, dst := homeNode base 0x8000, line := 0x8000, data := none, st := none, req := some ({ kind := .rds, core := 0, line := 0x8000, credit := true, prio := true } : Req) } : Msg)] }
abbrev u : State := { (((base.modTile (homeTile base 0x8000) fun t => { t with l2 := [(0x8000, ({ dirty := true, data := (List.replicate 8 (fx 1)) } : L2Line))] }).modTile (homeTile base 0x8000) fun t => { t with sf := [(0x8000, { st := .sh, sharers := [0, 2], txn := some { req := { kind := .rds, core := 1, line := 0x8000 }, awaiting := [2] } })] })) with mesh := [] }
abbrev core : BitVec 8 := 0
abbrev line : BitVec 37 := 0x8000
abbrev tile : BitVec 5 := 0
abbrev r : Req := ({ kind := .rds, core := 0, line := 0x8000, credit := true, prio := true } : Req)
abbrev m : Msg := ({ kind := .rds, src := 0, dst := homeNode base 0x8000, line := 0x8000, data := none, st := none, req := some ({ kind := .rds, core := 0, line := 0x8000, credit := true, prio := true } : Req) } : Msg)
abbrev x : Txn := { req := { kind := .rds, core := 1, line := 0x8000 }, awaiting := [2] }
abbrev c := core.toNat
abbrev n := line.toNat
abbrev met : Prop := ((m.req = some r) ∧ r.line = n ∧ (sameCycle s m (fun _ => true) = []) ∧ ((u.tile (homeTile u n)).dead = false) ∧ ((u.core r.core).dead = false) ∧ ((entryOf u n).txn = some x) ∧ r.prio = true) ∧ AtHome s .rds c n m u
theorem holds : met := by
  refine ⟨?_, ?_⟩ <;> decide +kernel
end C10
namespace C11
abbrev s : State := base.modTile (homeTile base 0x8000) fun t => { t with l2 := [(0x8000, ({ dirty := true, data := (List.replicate 8 (fx 1)) } : L2Line))] }
abbrev line : BitVec 37 := 0x8000
abbrev tile : BitVec 5 := 0
abbrev d : Line := (List.replicate 8 (fx 1))
abbrev n := line.toNat
abbrev met : Prop := d.length = 8 ∧ deadHome s n = false ∧ ((entryOf s n).txn = none) ∧ ((s.tile (homeTile s n)).prioQ = []) ∧ (entryOf s n = {}) ∧ (l2Data s n ≠ none)
theorem holds : met := by decide +kernel
end C11
namespace C12
abbrev s : State := base
abbrev core : BitVec 8 := 0
abbrev line : BitVec 37 := 0x8000
abbrev tile : BitVec 5 := 0
abbrev d : Line := (List.replicate 8 (fx 1))
abbrev tgt : BitVec 9 := 255
abbrev n := line.toNat
abbrev met : Prop := d.length = 8 ∧ deadHome s n = false ∧ ((entryOf s n).txn = none) ∧ ((s.tile (homeTile s n)).prioQ = []) ∧ (entryOf s n = {}) ∧ l2Data s n = none ∧ (s.mem.errs = []) ∧ (s.mem.armed = []) ∧ coreLive s tgt.toNat = true ∧ ((s.core tgt.toNat).tagErr = []) ∧ (tget (s.core tgt.toNat).l1d n = none) ∧ ((s.core tgt.toNat).l1d.length < 8)
theorem holds : met := by decide +kernel
end C12
namespace C13
abbrev s : State := base.modTile (homeTile base 0x8000) fun t => { t with sf := [(0x8000, { st := .sh, sharers := [9] })] }
abbrev u : State := base
abbrev line : BitVec 37 := 0x8000
abbrev tile : BitVec 5 := 0
abbrev d : Line := (List.replicate 8 (fx 1))
abbrev n := line.toNat
abbrev l2 := fun (t : State) => tget (t.tile (homeTile u n)).l2 n
abbrev k := 9
abbrev met : Prop := d.length = 8 ∧ deadHome s n = false ∧ ((entryOf s n).txn = none) ∧ ((s.tile (homeTile s n)).prioQ = []) ∧ (entryOf s n = { st := .sh, sharers := [k] }) ∧ (s.mem.armed = []) ∧ (tget (s.tile (tileOf k)).l2 n = none)
theorem holds : met := by decide +kernel
end C13
namespace C14
abbrev s : State := { (base.modCore 0 fun c => { c with tagErr := [{ set := 5 }] }) with mesh := [({ kind := .tagq, src := 0, dst := 256 + 31, line := 5 } : Msg)] }
abbrev u : State := { (base.modCore 0 fun c => { c with tagErr := [{ set := 5 }] }) with mesh := [] }
abbrev core : BitVec 8 := 0
abbrev line : BitVec 37 := 0
abbrev set : BitVec 7 := 5
abbrev tile : BitVec 5 := 31
abbrev m : Msg := ({ kind := .tagq, src := 0, dst := 256 + 31, line := 5 } : Msg)
abbrev c := core.toNat
abbrev met : Prop := coreLive s c = true ∧ ((∃ e ∈ (s.core c).tagErr, e.set = set.toNat)) ∧ (takeMsg s (fun m => m.kind == .tagq && (m.src == c && (m.line == set.toNat && m.dst == 256 + tile.toNat))) = some (m, u))
theorem holds : met := by decide +kernel
end C14
theorem all : C0.met ∧ C1.met ∧ C2.met ∧ C3.met ∧ C4.met ∧ C5.met ∧ C6.met ∧ C7.met ∧ C8.met ∧ C9.met ∧ C10.met ∧ C11.met ∧ C12.met ∧ C13.met ∧ C14.met :=
  ⟨C0.holds, C1.holds, C2.holds, C3.holds, C4.holds, C5.holds, C6.holds, C7.holds, C8.holds, C9.holds, C10.holds, C11.holds, C12.holds, C13.holds, C14.holds⟩
end HomeRequests
theorem witness_HomeRequests : HomeRequests.C0.met ∧ HomeRequests.C1.met ∧ HomeRequests.C2.met ∧ HomeRequests.C3.met ∧ HomeRequests.C4.met ∧ HomeRequests.C5.met ∧ HomeRequests.C6.met ∧ HomeRequests.C7.met ∧ HomeRequests.C8.met ∧ HomeRequests.C9.met ∧ HomeRequests.C10.met ∧ HomeRequests.C11.met ∧ HomeRequests.C12.met ∧ HomeRequests.C13.met ∧ HomeRequests.C14.met := HomeRequests.all

namespace SnoopsAndEvictions
namespace C0
abbrev s : State := { ((base.modCore 3 fun c => { c with l1d := [(0x8000, ({ st := .e, data := (List.replicate 8 (fx 1)), na := true } : L1Line))] })) with mesh := [({ kind := .sns, src := homeNode base 0x8000, dst := 3, line := 0x8000, toward := 9, data := none, req := none } : Msg)] }
abbrev u : State := { ((base.modCore 3 fun c => { c with l1d := [(0x8000, ({ st := .e, data := (List.replicate 8 (fx 1)), na := true } : L1Line))] })) with mesh := [] }
abbrev core : BitVec 8 := 3
abbrev line : BitVec 37 := 0x8000
abbrev m : Msg := ({ kind := .sns, src := homeNode base 0x8000, dst := 3, line := 0x8000, toward := 9, data := none, req := none } : Msg)
abbrev l : L1Line := ({ st := .e, data := (List.replicate 8 (fx 1)), na := true } : L1Line)
abbrev c := core.toNat
abbrev n := line.toNat
abbrev met : Prop := Snooped s .sns c n m u l ∧ (l.st = .e)
theorem holds : met := by decide +kernel
end C0
namespace C1
abbrev s : State := { ((base.modCore 3 fun c => { c with l1d := [(0x8000, ({ st := .m, data := (List.replicate 8 (fx 1)), na := true } : L1Line))] })) with mesh := [({ kind := .sns, src := homeNode base 0x8000, dst := 3, line := 0x8000, toward := 9, data := none, req := none } : Msg)] }
abbrev u : State := { ((base.modCore 3 fun c => { c with l1d := [(0x8000, ({ st := .m, data := (List.replicate 8 (fx 1)), na := true } : L1Line))] })) with mesh := [] }
abbrev core : BitVec 8 := 3
abbrev line : BitVec 37 := 0x8000
abbrev m : Msg := ({ kind := .sns, src := homeNode base 0x8000, dst := 3, line := 0x8000, toward := 9, data := none, req := none } : Msg)
abbrev l : L1Line := ({ st := .m, data := (List.replicate 8 (fx 1)), na := true } : L1Line)
abbrev c := core.toNat
abbrev n := line.toNat
abbrev met : Prop := Snooped s .sns c n m u l ∧ (l.st = .m) ∧ m.flag = false
theorem holds : met := by decide +kernel
end C1
namespace C2
abbrev s : State := { ((base.modCore 3 fun c => { c with l1d := [(0x8000, ({ st := .m, data := (List.replicate 8 (fx 1)), na := true } : L1Line))] })) with mesh := [({ kind := .sns, src := homeNode base 0x8000, dst := 3, line := 0x8000, toward := 9, data := none, req := none, flag := true } : Msg)] }
abbrev u : State := { ((base.modCore 3 fun c => { c with l1d := [(0x8000, ({ st := .m, data := (List.replicate 8 (fx 1)), na := true } : L1Line))] })) with mesh := [] }
abbrev core : BitVec 8 := 3
abbrev line : BitVec 37 := 0x8000
abbrev m : Msg := ({ kind := .sns, src := homeNode base 0x8000, dst := 3, line := 0x8000, toward := 9, data := none, req := none, flag := true } : Msg)
abbrev l : L1Line := ({ st := .m, data := (List.replicate 8 (fx 1)), na := true } : L1Line)
abbrev c := core.toNat
abbrev n := line.toNat
abbrev met : Prop := Snooped s .sns c n m u l ∧ (l.st = .m) ∧ m.flag = true
theorem holds : met := by decide +kernel
end C2
namespace C3
abbrev s : State := { ((base.modCore 3 fun c => { c with l1d := [(0x8000, ({ st := .o, data := (List.replicate 8 (fx 1)), na := true } : L1Line))] })) with mesh := [({ kind := .sns, src := homeNode base 0x8000, dst := 3, line := 0x8000, toward := 9, data := none, req := none } : Msg)] }
abbrev u : State := { ((base.modCore 3 fun c => { c with l1d := [(0x8000, ({ st := .o, data := (List.replicate 8 (fx 1)), na := true } : L1Line))] })) with mesh := [] }
abbrev core : BitVec 8 := 3
abbrev line : BitVec 37 := 0x8000
abbrev m : Msg := ({ kind := .sns, src := homeNode base 0x8000, dst := 3, line := 0x8000, toward := 9, data := none, req := none } : Msg)
abbrev l : L1Line := ({ st := .o, data := (List.replicate 8 (fx 1)), na := true } : L1Line)
abbrev c := core.toNat
abbrev n := line.toNat
abbrev met : Prop := Snooped s .sns c n m u l ∧ (l.st = .o)
theorem holds : met := by decide +kernel
end C3
namespace C4
abbrev s : State := { ((base.modCore 3 fun c => { c with l1d := [(0x8000, ({ st := .m, data := (List.replicate 8 (fx 1)), na := true } : L1Line))] })) with mesh := [({ kind := .snx, src := homeNode base 0x8000, dst := 3, line := 0x8000, toward := 9, data := none, req := none } : Msg)] }
abbrev u : State := { ((base.modCore 3 fun c => { c with l1d := [(0x8000, ({ st := .m, data := (List.replicate 8 (fx 1)), na := true } : L1Line))] })) with mesh := [] }
abbrev core : BitVec 8 := 3
abbrev line : BitVec 37 := 0x8000
abbrev m : Msg := ({ kind := .snx, src := homeNode base 0x8000, dst := 3, line := 0x8000, toward := 9, data := none, req := none } : Msg)
abbrev l : L1Line := ({ st := .m, data := (List.replicate 8 (fx 1)), na := true } : L1Line)
abbrev c := core.toNat
abbrev n := line.toNat
abbrev dirty := l.st = .m ∨ l.st = .o
abbrev met : Prop := Snooped s .snx c n m u l ∧ ((l.st = .e ∨ dirty))
theorem holds : met := by decide +kernel
end C4
namespace C5
abbrev s : State := { ((base.modCore 3 fun c => { c with l1d := [(0x8000, ({ st := .s, data := (List.replicate 8 (fx 1)), na := true } : L1Line))] })) with mesh := [({ kind := .sni, src := homeNode base 0x8000, dst := 3, line := 0x8000, toward := 9, data := none, req := none } : Msg)] }
abbrev u : State := { ((base.modCore 3 fun c => { c with l1d := [(0x8000, ({ st := .s, data := (List.replicate 8 (fx 1)), na := true } : L1Line))] })) with mesh := [] }
abbrev core : BitVec 8 := 3
abbrev line : BitVec 37 := 0x8000
abbrev m : Msg := ({ kind := .sni, src := homeNode base 0x8000, dst := 3, line := 0x8000, toward := 9, data := none, req := none } : Msg)
abbrev l : L1Line := ({ st := .s, data := (List.replicate 8 (fx 1)), na := true } : L1Line)
abbrev c := core.toNat
abbrev n := line.toNat
abbrev dirty := l.st = .m ∨ l.st = .o
abbrev met : Prop := Snooped s .sni c n m u l ∧ ((l.st = .s ∨ l.st = .e ∨ dirty))
theorem holds : met := by decide +kernel
end C5
namespace C6
abbrev s : State := { ((base.modCore 3 fun c => { c with l1d := [(0x8000, ({ st := .e, data := (List.replicate 8 (fx 1)), na := true } : L1Line))] })) with mesh := [({ kind := .snr, src := homeNode base 0x8000, dst := 3, line := 0x8000, toward := 9, data := none, req := none } : Msg)] }
abbrev u : State := { ((base.modCore 3 fun c => { c with l1d := [(0x8000, ({ st := .e, data := (List.replicate 8 (fx 1)), na := true } : L1Line))] })) with mesh := [] }
abbrev core : BitVec 8 := 3
abbrev line : BitVec 37 := 0x8000
abbrev m : Msg := ({ kind := .snr, src := homeNode base 0x8000, dst := 3, line := 0x8000, toward := 9, data := none, req := none } : Msg)
abbrev l : L1Line := ({ st := .e, data := (List.replicate 8 (fx 1)), na := true } : L1Line)
abbrev c := core.toNat
abbrev n := line.toNat
abbrev met : Prop := Snooped s .snr c n m u l ∧ (l.st = .e)
theorem holds : met := by decide +kernel
end C6
namespace C7
abbrev s : State := { ((base.modCore 3 fun c => { c with l1d := [(0x8000, ({ st := .o, data := (List.replicate 8 (fx 1)), na := true } : L1Line))] })) with mesh := [({ kind := .snr, src := homeNode base 0x8000, dst := 3, line := 0x8000, toward := 9, data := none, req := none } : Msg)] }
abbrev u : State := { ((base.modCore 3 fun c => { c with l1d := [(0x8000, ({ st := .o, data := (List.replicate 8 (fx 1)), na := true } : L1Line))] })) with mesh := [] }
abbrev core : BitVec 8 := 3
abbrev line : BitVec 37 := 0x8000
abbrev m : Msg := ({ kind := .snr, src := homeNode base 0x8000, dst := 3, line := 0x8000, toward := 9, data := none, req := none } : Msg)
abbrev l : L1Line := ({ st := .o, data := (List.replicate 8 (fx 1)), na := true } : L1Line)
abbrev c := core.toNat
abbrev n := line.toNat
abbrev dirty := l.st = .m ∨ l.st = .o
abbrev met : Prop := Snooped s .snr c n m u l ∧ ((dirty ∨ l.st = .s))
theorem holds : met := by decide +kernel
end C7
namespace C8
abbrev s : State := { ((base.modCore 3 fun c => { c with l1d := [(0x8000, ({ st := .m, data := (List.replicate 8 (fx 1)), na := true } : L1Line))] })) with mesh := [({ kind := .snc, src := homeNode base 0x8000, dst := 3, line := 0x8000, toward := 9, data := none, req := none } : Msg)] }
abbrev u : State := { ((base.modCore 3 fun c => { c with l1d := [(0x8000, ({ st := .m, data := (List.replicate 8 (fx 1)), na := true } : L1Line))] })) with mesh := [] }
abbrev core : BitVec 8 := 3
abbrev line : BitVec 37 := 0x8000
abbrev m : Msg := ({ kind := .snc, src := homeNode base 0x8000, dst := 3, line := 0x8000, toward := 9, data := none, req := none } : Msg)
abbrev l : L1Line := ({ st := .m, data := (List.replicate 8 (fx 1)), na := true } : L1Line)
abbrev c := core.toNat
abbrev n := line.toNat
abbrev met : Prop := Snooped s .snc c n m u l ∧ (l.st = .m)
theorem holds : met := by decide +kernel
end C8
namespace C9
abbrev s : State := { ((base.modCore 3 fun c => { c with l1d := [(0x8000, ({ st := .o, data := (List.replicate 8 (fx 1)), na := true } : L1Line))] })) with mesh := [({ kind := .snc, src := homeNode base 0x8000, dst := 3, line := 0x8000, toward := 9, data := none, req := none } : Msg)] }
abbrev u : State := { ((base.modCore 3 fun c => { c with l1d := [(0x8000, ({ st := .o, data := (List.replicate 8 (fx 1)), na := true } : L1Line))] })) with mesh := [] }
abbrev core : BitVec 8 := 3
abbrev line : BitVec 37 := 0x8000
abbrev m : Msg := ({ kind := .snc, src := homeNode base 0x8000, dst := 3, line := 0x8000, toward := 9, data := none, req := none } : Msg)
abbrev l : L1Line := ({ st := .o, data := (List.replicate 8 (fx 1)), na := true } : L1Line)
abbrev c := core.toNat
abbrev n := line.toNat
abbrev met : Prop := Snooped s .snc c n m u l ∧ (l.st = .o)
theorem holds : met := by decide +kernel
end C9
namespace C10
abbrev s : State := { ((base.modCore 3 fun c => { c with l1d := [(0x8000, ({ st := .e, data := (List.replicate 8 (fx 1)), na := true } : L1Line))] })) with mesh := [({ kind := .snc, src := homeNode base 0x8000, dst := 3, line := 0x8000, toward := 9, data := none, req := none } : Msg)] }
abbrev u : State := { ((base.modCore 3 fun c => { c with l1d := [(0x8000, ({ st := .e, data := (List.replicate 8 (fx 1)), na := true } : L1Line))] })) with mesh := [] }
abbrev core : BitVec 8 := 3
abbrev line : BitVec 37 := 0x8000
abbrev m : Msg := ({ kind := .snc, src := homeNode base 0x8000, dst := 3, line := 0x8000, toward := 9, data := none, req := none } : Msg)
abbrev l : L1Line := ({ st := .e, data := (List.replicate 8 (fx 1)), na := true } : L1Line)
abbrev c := core.toNat
abbrev n := line.toNat
abbrev met : Prop := Snooped s .snc c n m u l ∧ (l.st = .e)
theorem holds : met := by decide +kernel
end C10
namespace C11
abbrev s : State := { ((base.modCore 3 fun c => { c with l1d := [(0x8000, ({ st := .o, data := (List.replicate 8 (fx 1)), na := true } : L1Line))] })) with mesh := [({ kind := .snf, src := homeNode base 0x8000, dst := 3, line := 0x8000, toward := 9, data := none, req := none } : Msg)] }
abbrev u : State := { ((base.modCore 3 fun c => { c with l1d := [(0x8000, ({ st := .o, data := (List.replicate 8 (fx 1)), na := true } : L1Line))] })) with mesh := [] }
abbrev core : BitVec 8 := 3
abbrev line : BitVec 37 := 0x8000
abbrev m : Msg := ({ kind := .snf, src := homeNode base 0x8000, dst := 3, line := 0x8000, toward := 9, data := none, req := none } : Msg)
abbrev l : L1Line := ({ st := .o, data := (List.replicate 8 (fx 1)), na := true } : L1Line)
abbrev c := core.toNat
abbrev n := line.toNat
abbrev dirty := l.st = .m ∨ l.st = .o
abbrev met : Prop := Snooped s .snf c n m u l ∧ dirty
theorem holds : met := by decide +kernel
end C11
namespace C12
abbrev s : State := { ((base.modCore 3 fun c => { c with l1d := [(0x8000, ({ st := .s, data := (List.replicate 8 (fx 1)), na := true } : L1Line))] })) with mesh := [({ kind := .snf, src := homeNode base 0x8000, dst := 3, line := 0x8000, toward := 9, data := none, req := none } : Msg)] }
abbrev u : State := { ((base.modCore 3 fun c => { c with l1d := [(0x8000, ({ st := .s, data := (List.replicate 8 (fx 1)), na := true } : L1Line))] })) with mesh := [] }
abbrev core : BitVec 8 := 3
abbrev line : BitVec 37 := 0x8000
abbrev m : Msg := ({ kind := .snf, src := homeNode base 0x8000, dst := 3, line := 0x8000, toward := 9, data := none, req := none } : Msg)
abbrev l : L1Line := ({ st := .s, data := (List.replicate 8 (fx 1)), na := true } : L1Line)
abbrev c := core.toNat
abbrev n := line.toNat
abbrev met : Prop := Snooped s .snf c n m u l ∧ ((l.st = .e ∨ l.st = .s))
theorem holds : met := by decide +kernel
end C12
namespace C13
abbrev s : State := { (base) with mesh := [({ kind := .sni, src := homeNode base 0x8000, dst := 3, line := 0x8000, toward := 9, data := none, req := none } : Msg)] }
abbrev u : State := { (base) with mesh := [] }
abbrev core : BitVec 8 := 3
abbrev line : BitVec 37 := 0x8000
abbrev m : Msg := ({ kind := .sni, src := homeNode base 0x8000, dst := 3, line := 0x8000, toward := 9, data := none, req := none } : Msg)
abbrev c := core.toNat
abbrev n := line.toNat
abbrev k := (MsgK.sni)
abbrev cmd := (Instr.sni 3 0x8000)
abbrev met : Prop := ((k, cmd) ∈ [(MsgK.sns, Instr.sns core line), (.snx, .snx core line), (.sni, .sni core line), (.snr, .snr core line), (.snc, .snc core line), (.snf, .snf core line)]) ∧ AtCore s k c n m u ∧ heldSnoop s m = false ∧ (tget (u.core c).l1d n = none) ∧ (tget (u.core c).l1i n = none)
theorem holds : met := by decide +kernel
end C13
namespace C14
abbrev s : State := { (((base.modTile (homeTile base 0x8000) fun t => { t with l2 := [(0x8000, ({ dirty := true, data := (List.replicate 8 (fx 1)) } : L2Line))] }).modTile (homeTile base 0x8000) fun t => { t with sf := [(0x8000, { st := .sh, sharers := [0, 2] })] })) with mesh := [({ kind := .wbd, src := 0, dst := homeNode base 0x8000, line := 0x8000, data := some (List.replicate 8 (fx 1)), st := none, req := some ({ kind := .rds, core := 0, line := 0x8000, credit := true } : Req) } : Msg)] }
abbrev u : State := { (((base.modTile (homeTile base 0x8000) fun t => { t with l2 := [(0x8000, ({ dirty := true, data := (List.replicate 8 (fx 1)) } : L2Line))] }).modTile (homeTile base 0x8000) fun t => { t with sf := [(0x8000, { st := .sh, sharers := [0, 2] })] })) with mesh := [] }
abbrev core : BitVec 8 := 0
abbrev line : BitVec 37 := 0x8000
abbrev m : Msg := ({ kind := .wbd, src := 0, dst := homeNode base 0x8000, line := 0x8000, data := some (List.replicate 8 (fx 1)), st := none, req := some ({ kind := .rds, core := 0, line := 0x8000, credit := true } : Req) } : Msg)
abbrev d : Line := (List.replicate 8 (fx 1))
abbrev old : L2Line := ({ dirty := true, data := (List.replicate 8 (fx 1)) } : L2Line)
abbrev c := core.toNat
abbrev n := line.toNat
abbrev met : Prop := (((u.tile (homeTile u n)).dead = false) ∧ ((u.core c).dead = false) ∧ (tget (u.core c).l1i n = none) ∧ ((entryOf u n).txn = none) ∧ (tget (u.tile (homeTile u n)).l2 n = some old) ∧ (m.toward ≠ 1) ∧ (m.data = some d)) ∧ AtHome s .wbd c n m u
theorem holds : met := by
  refine ⟨?_, ?_⟩ <;> decide +kernel
end C14
namespace C15
abbrev s : State := { (((base.modTile (homeTile base 0x8000) fun t => { t with l2 := [(0x8000, ({ dirty := true, data := (List.replicate 8 (fx 1)) } : L2Line))] }).modTile (homeTile base 0x8000) fun t => { t with sf := [(0x8000, { st := .sh, sharers := [0, 2] })] })) with mesh := [({ kind := .evc, src := 0, dst := homeNode base 0x8000, line := 0x8000, data := none, st := none, req := some ({ kind := .rds, core := 0, line := 0x8000, credit := true } : Req) } : Msg)] }
abbrev u : State := { (((base.modTile (homeTile base 0x8000) fun t => { t with l2 := [(0x8000, ({ dirty := true, data := (List.replicate 8 (fx 1)) } : L2Line))] }).modTile (homeTile base 0x8000) fun t => { t with sf := [(0x8000, { st := .sh, sharers := [0, 2] })] })) with mesh := [] }
abbrev core : BitVec 8 := 0
abbrev line : BitVec 37 := 0x8000
abbrev m : Msg := ({ kind := .evc, src := 0, dst := homeNode base 0x8000, line := 0x8000, data := none, st := none, req := some ({ kind := .rds, core := 0, line := 0x8000, credit := true } : Req) } : Msg)
abbrev old : L2Line := ({ dirty := true, data := (List.replicate 8 (fx 1)) } : L2Line)
abbrev c := core.toNat
abbrev n := line.toNat
abbrev met : Prop := (((u.tile (homeTile u n)).dead = false) ∧ ((u.core c).dead = false) ∧ (tget (u.core c).l1i n = none) ∧ ((entryOf u n).txn = none) ∧ (tget (u.tile (homeTile u n)).l2 n = some old) ∧ (m.toward ≠ 1) ∧ m.data = none) ∧ AtHome s .evc c n m u
theorem holds : met := by
  refine ⟨?_, ?_⟩ <;> decide +kernel
end C15
theorem all : C0.met ∧ C1.met ∧ C2.met ∧ C3.met ∧ C4.met ∧ C5.met ∧ C6.met ∧ C7.met ∧ C8.met ∧ C9.met ∧ C10.met ∧ C11.met ∧ C12.met ∧ C13.met ∧ C14.met ∧ C15.met :=
  ⟨C0.holds, C1.holds, C2.holds, C3.holds, C4.holds, C5.holds, C6.holds, C7.holds, C8.holds, C9.holds, C10.holds, C11.holds, C12.holds, C13.holds, C14.holds, C15.holds⟩
end SnoopsAndEvictions
theorem witness_SnoopsAndEvictions : SnoopsAndEvictions.C0.met ∧ SnoopsAndEvictions.C1.met ∧ SnoopsAndEvictions.C2.met ∧ SnoopsAndEvictions.C3.met ∧ SnoopsAndEvictions.C4.met ∧ SnoopsAndEvictions.C5.met ∧ SnoopsAndEvictions.C6.met ∧ SnoopsAndEvictions.C7.met ∧ SnoopsAndEvictions.C8.met ∧ SnoopsAndEvictions.C9.met ∧ SnoopsAndEvictions.C10.met ∧ SnoopsAndEvictions.C11.met ∧ SnoopsAndEvictions.C12.met ∧ SnoopsAndEvictions.C13.met ∧ SnoopsAndEvictions.C14.met ∧ SnoopsAndEvictions.C15.met := SnoopsAndEvictions.all

namespace SnoopAnswersAtHome
namespace C0
abbrev s : State := { (((base.modTile (homeTile base 0x8000) fun t => { t with l2 := [(0x8000, ({ dirty := true, data := (List.replicate 8 (fx 1)) } : L2Line))] }).modTile (homeTile base 0x8000) fun t => { t with sf := [(0x8000, { st := .sh, sharers := [0, 2], txn := some { req := { kind := .rds, core := 1, line := 0x8000 }, awaiting := [0, 2] } })] })) with mesh := [({ kind := .ack, src := 0, dst := homeNode base 0x8000, line := 0x8000, data := none, st := some .s, req := some ({ kind := .rds, core := 0, line := 0x8000, credit := true } : Req), flag := true } : Msg)] }
abbrev u : State := { (((base.modTile (homeTile base 0x8000) fun t => { t with l2 := [(0x8000, ({ dirty := true, data := (List.replicate 8 (fx 1)) } : L2Line))] }).modTile (homeTile base 0x8000) fun t => { t with sf := [(0x8000, { st := .sh, sharers := [0, 2], txn := some { req := { kind := .rds, core := 1, line := 0x8000 }, awaiting := [0, 2] } })] })) with mesh := [] }
abbrev core : BitVec 8 := 0
abbrev line : BitVec 37 := 0x8000
abbrev m : Msg := ({ kind := .ack, src := 0, dst := homeNode base 0x8000, line := 0x8000, data := none, st := some .s, req := some ({ kind := .rds, core := 0, line := 0x8000, credit := true } : Req), flag := true } : Msg)
abbrev x : Txn := { req := { kind := .rds, core := 1, line := 0x8000 }, awaiting := [0, 2] }
abbrev c := core.toNat
abbrev n := line.toNat
abbrev e := entryOf u n
abbrev met : Prop := ((e.txn = some x) ∧ x.awaiting.contains c = true ∧ (x.awaiting.erase c ≠ [])) ∧ AtHome s .ack c n m u
theorem holds : met := by
  refine ⟨?_, ?_⟩ <;> decide +kernel
end C0
namespace C1
abbrev s : State := { (((base.modTile (homeTile base 0x8000) fun t => { t with l2 := [(0x8000, ({ dirty := true, data := (List.replicate 8 (fx 1)) } : L2Line))] }).modTile (homeTile base 0x8000) fun t => { t with sf := [(0x8000, { st := .sh, sharers := [0, 2], txn := some { req := { kind := .rds, core := 1, line := 0x8000 }, awaiting := [0, 2] } })] })) with mesh := [({ kind := .acku, src := 0, dst := homeNode base 0x8000, line := 0x8000, data := none, st := none, req := some ({ kind := .rds, core := 0, line := 0x8000, credit := true } : Req) } : Msg)] }
abbrev u : State := { (((base.modTile (homeTile base 0x8000) fun t => { t with l2 := [(0x8000, ({ dirty := true, data := (List.replicate 8 (fx 1)) } : L2Line))] }).modTile (homeTile base 0x8000) fun t => { t with sf := [(0x8000, { st := .sh, sharers := [0, 2], txn := some { req := { kind := .rds, core := 1, line := 0x8000 }, awaiting := [0, 2] } })] })) with mesh := [] }
abbrev core : BitVec 8 := 0
abbrev line : BitVec 37 := 0x8000
abbrev m : Msg := ({ kind := .acku, src := 0, dst := homeNode base 0x8000, line := 0x8000, data := none, st := none, req := some ({ kind := .rds, core := 0, line := 0x8000, credit := true } : Req) } : Msg)
abbrev x : Txn := { req := { kind := .rds, core := 1, line := 0x8000 }, awaiting := [0, 2] }
abbrev c := core.toNat
abbrev n := line.toNat
abbrev e := entryOf u n
abbrev met : Prop := ((e.txn = some x) ∧ x.awaiting.contains c = true ∧ (x.awaiting.erase c ≠ [])) ∧ AtHome s .acku c n m u
theorem holds : met := by
  refine ⟨?_, ?_⟩ <;> decide +kernel
end C1
namespace C2
abbrev s : State := { (((base.modTile (homeTile base 0x8000) fun t => { t with l2 := [(0x8000, ({ dirty := true, data := (List.replicate 8 (fx 1)) } : L2Line))] }).modTile (homeTile base 0x8000) fun t => { t with sf := [(0x8000, { st := .sh, sharers := [0, 2], txn := some { req := { kind := .rds, core := 1, line := 0x8000 }, awaiting := [0, 2] } })] })) with mesh := [({ kind := .ackn, src := 0, dst := homeNode base 0x8000, line := 0x8000, data := none, st := none, req := some ({ kind := .rds, core := 0, line := 0x8000, credit := true } : Req) } : Msg)] }
abbrev u : State := { (((base.modTile (homeTile base 0x8000) fun t => { t with l2 := [(0x8000, ({ dirty := true, data := (List.replicate 8 (fx 1)) } : L2Line))] }).modTile (homeTile base 0x8000) fun t => { t with sf := [(0x8000, { st := .sh, sharers := [0, 2], txn := some { req := { kind := .rds, core := 1, line := 0x8000 }, awaiting := [0, 2] } })] })) with mesh := [] }
abbrev core : BitVec 8 := 0
abbrev line : BitVec 37 := 0x8000
abbrev m : Msg := ({ kind := .ackn, src := 0, dst := homeNode base 0x8000, line := 0x8000, data := none, st := none, req := some ({ kind := .rds, core := 0, line := 0x8000, credit := true } : Req) } : Msg)
abbrev x : Txn := { req := { kind := .rds, core := 1, line := 0x8000 }, awaiting := [0, 2] }
abbrev c := core.toNat
abbrev n := line.toNat
abbrev e := entryOf u n
abbrev met : Prop := ((e.txn = some x) ∧ x.awaiting.contains c = true ∧ (x.awaiting.erase c ≠ [])) ∧ AtHome s .ackn c n m u
theorem holds : met := by
  refine ⟨?_, ?_⟩ <;> decide +kernel
end C2
namespace C3
abbrev s : State := { (((base.modTile (homeTile base 0x8000) fun t => { t with l2 := [(0x8000, ({ dirty := true, data := (List.replicate 8 (fx 1)) } : L2Line))] }).modTile (homeTile base 0x8000) fun t => { t with sf := [(0x8000, { st := .sh, sharers := [0, 2], txn := some { req := { kind := .rds, core := 1, line := 0x8000 }, awaiting := [0, 2] } })] })) with mesh := [({ kind := .ackw, src := 0, dst := homeNode base 0x8000, line := 0x8000, data := none, st := none, req := some ({ kind := .rds, core := 0, line := 0x8000, credit := true } : Req) } : Msg)] }
abbrev u : State := { (((base.modTile (homeTile base 0x8000) fun t => { t with l2 := [(0x8000, ({ dirty := true, data := (List.replicate 8 (fx 1)) } : L2Line))] }).modTile (homeTile base 0x8000) fun t => { t with sf := [(0x8000, { st := .sh, sharers := [0, 2], txn := some { req := { kind := .rds, core := 1, line := 0x8000 }, awaiting := [0, 2] } })] })) with mesh := [] }
abbrev core : BitVec 8 := 0
abbrev line : BitVec 37 := 0x8000
abbrev m : Msg := ({ kind := .ackw, src := 0, dst := homeNode base 0x8000, line := 0x8000, data := none, st := none, req := some ({ kind := .rds, core := 0, line := 0x8000, credit := true } : Req) } : Msg)
abbrev x : Txn := { req := { kind := .rds, core := 1, line := 0x8000 }, awaiting := [0, 2] }
abbrev c := core.toNat
abbrev n := line.toNat
abbrev e := entryOf u n
abbrev met : Prop := ((e.txn = some x) ∧ x.awaiting.contains c = true ∧ (x.awaiting.erase c ≠ []) ∧ x.wbSeen.contains c = false) ∧ AtHome s .ackw c n m u
theorem holds : met := by
  refine ⟨?_, ?_⟩ <;> decide +kernel
end C3
namespace C4
abbrev s : State := { (((base.modTile (homeTile base 0x8000) fun t => { t with l2 := [(0x8000, ({ dirty := true, data := (List.replicate 8 (fx 1)) } : L2Line))] }).modTile (homeTile base 0x8000) fun t => { t with sf := [(0x8000, { st := .sh, sharers := [0, 2], txn := some { req := { kind := .rds, core := 1, line := 0x8000 }, awaiting := [0, 2], wbSeen := [0] } })] })) with mesh := [({ kind := .ackw, src := 0, dst := homeNode base 0x8000, line := 0x8000, data := none, st := none, req := some ({ kind := .rds, core := 0, line := 0x8000, credit := true } : Req) } : Msg)] }
abbrev u : State := { (((base.modTile (homeTile base 0x8000) fun t => { t with l2 := [(0x8000, ({ dirty := true, data := (List.replicate 8 (fx 1)) } : L2Line))] }).modTile (homeTile base 0x8000) fun t => { t with sf := [(0x8000, { st := .sh, sharers := [0, 2], txn := some { req := { kind := .rds, core := 1, line := 0x8000 }, awaiting := [0, 2], wbSeen := [0] } })] })) with mesh := [] }
abbrev core : BitVec 8 := 0
abbrev line : BitVec 37 := 0x8000
abbrev m : Msg := ({ kind := .ackw, src := 0, dst := homeNode base 0x8000, line := 0x8000, data := none, st := none, req := some ({ kind := .rds, core := 0, line := 0x8000, credit := true } : Req) } : Msg)
abbrev x : Txn := { req := { kind := .rds, core := 1, line := 0x8000 }, awaiting := [0, 2], wbSeen := [0] }
abbrev c := core.toNat
abbrev n := line.toNat
abbrev e := entryOf u n
abbrev met : Prop := ((e.txn = some x) ∧ x.awaiting.contains c = true ∧ (x.awaiting.erase c ≠ []) ∧ x.wbSeen.contains c = true) ∧ AtHome s .ackw c n m u
theorem holds : met := by
  refine ⟨?_, ?_⟩ <;> decide +kernel
end C4
namespace C5
abbrev s : State := { (((base.modTile (homeTile base 0x8000) fun t => { t with l2 := [(0x8000, ({ dirty := true, data := (List.replicate 8 (fx 1)) } : L2Line))] }).modTile (homeTile base 0x8000) fun t => { t with sf := [(0x8000, { st := .sh, sharers := [0, 2], txn := some { req := { kind := .cln, core := 1, line := 0x8000 }, awaiting := [0, 2] } })] })) with mesh := [({ kind := .ackd, src := 0, dst := homeNode base 0x8000, line := 0x8000, data := some (List.replicate 8 (fx 1)), st := none, req := some ({ kind := .rds, core := 0, line := 0x8000, credit := true } : Req) } : Msg)] }
abbrev u : State := { (((base.modTile (homeTile base 0x8000) fun t => { t with l2 := [(0x8000, ({ dirty := true, data := (List.replicate 8 (fx 1)) } : L2Line))] }).modTile (homeTile base 0x8000) fun t => { t with sf := [(0x8000, { st := .sh, sharers := [0, 2], txn := some { req := { kind := .cln, core := 1, line := 0x8000 }, awaiting := [0, 2] } })] })) with mesh := [] }
abbrev core : BitVec 8 := 0
abbrev line : BitVec 37 := 0x8000
abbrev m : Msg := ({ kind := .ackd, src := 0, dst := homeNode base 0x8000, line := 0x8000, data := some (List.replicate 8 (fx 1)), st := none, req := some ({ kind := .rds, core := 0, line := 0x8000, credit := true } : Req) } : Msg)
abbrev x : Txn := { req := { kind := .cln, core := 1, line := 0x8000 }, awaiting := [0, 2] }
abbrev d : Line := (List.replicate 8 (fx 1))
abbrev old : L2Line := ({ dirty := true, data := (List.replicate 8 (fx 1)) } : L2Line)
abbrev c := core.toNat
abbrev n := line.toNat
abbrev e := entryOf u n
abbrev met : Prop := ((e.txn = some x) ∧ x.awaiting.contains c = true ∧ (x.awaiting.erase c ≠ []) ∧ ((x.req.kind = .cln ∨ x.req.kind = .fls)) ∧ (m.data = some d) ∧ (tget (u.tile (homeTile u n)).l2 n = some old)) ∧ AtHome s .ackd c n m u
theorem holds : met := by
  refine ⟨?_, ?_⟩ <;> decide +kernel
end C5
namespace C6
abbrev s : State := { (((base.modTile (homeTile base 0x8000) fun t => { t with l2 := [(0x8000, ({ dirty := true, data := (List.replicate 8 (fx 1)) } : L2Line))] }).modTile (homeTile base 0x8000) fun t => { t with sf := [(0x8000, { st := .sh, sharers := [0, 2], txn := some { req := { kind := .rds, core := 1, line := 0x8000 }, awaiting := [2] } })] })) with mesh := [({ kind := .ack, src := 0, dst := homeNode base 0x8000, line := 0x8000, data := none, st := none, req := some ({ kind := .rds, core := 0, line := 0x8000, credit := true } : Req) } : Msg)] }
abbrev u : State := { (((base.modTile (homeTile base 0x8000) fun t => { t with l2 := [(0x8000, ({ dirty := true, data := (List.replicate 8 (fx 1)) } : L2Line))] }).modTile (homeTile base 0x8000) fun t => { t with sf := [(0x8000, { st := .sh, sharers := [0, 2], txn := some { req := { kind := .rds, core := 1, line := 0x8000 }, awaiting := [2] } })] })) with mesh := [] }
abbrev core : BitVec 8 := 0
abbrev line : BitVec 37 := 0x8000
abbrev m : Msg := ({ kind := .ack, src := 0, dst := homeNode base 0x8000, line := 0x8000, data := none, st := none, req := some ({ kind := .rds, core := 0, line := 0x8000, credit := true } : Req) } : Msg)
abbrev x : Txn := { req := { kind := .rds, core := 1, line := 0x8000 }, awaiting := [2] }
abbrev c := core.toNat
abbrev n := line.toNat
abbrev e := entryOf u n
abbrev met : Prop := ((e.txn = some x) ∧ x.awaiting.contains c = false) ∧ AtHome s .ack c n m u
theorem holds : met := by
  refine ⟨?_, ?_⟩ <;> decide +kernel
end C6
namespace C7
abbrev s : State := { (((base.modTile (homeTile base 0x8000) fun t => { t with l2 := [(0x8000, ({ dirty := true, data := (List.replicate 8 (fx 1)) } : L2Line))] }).modTile (homeTile base 0x8000) fun t => { t with sf := [(0x8000, { st := .sh, sharers := [0, 2], txn := some { req := { kind := .evict, core := 0, line := 0x8000 }, awaiting := [0] } })] })) with mesh := [({ kind := .nakst, src := 0, dst := homeNode base 0x8000, line := 0x8000, data := some (List.replicate 8 (fx 1)), st := none, req := some ({ kind := .rds, core := 0, line := 0x8000, credit := true } : Req) } : Msg)] }
abbrev u : State := { (((base.modTile (homeTile base 0x8000) fun t => { t with l2 := [(0x8000, ({ dirty := true, data := (List.replicate 8 (fx 1)) } : L2Line))] }).modTile (homeTile base 0x8000) fun t => { t with sf := [(0x8000, { st := .sh, sharers := [0, 2], txn := some { req := { kind := .evict, core := 0, line := 0x8000 }, awaiting := [0] } })] })) with mesh := [] }
abbrev core : BitVec 8 := 0
abbrev line : BitVec 37 := 0x8000
abbrev m : Msg := ({ kind := .nakst, src := 0, dst := homeNode base 0x8000, line := 0x8000, data := some (List.replicate 8 (fx 1)), st := none, req := some ({ kind := .rds, core := 0, line := 0x8000, credit := true } : Req) } : Msg)
abbrev d : Line := (List.replicate 8 (fx 1))
abbrev c := core.toNat
abbrev n := line.toNat
abbrev e := entryOf u n
abbrev met : Prop := ((m.data = some d) ∧ (e.txn = some { req := { kind := .evict, core := c, line := n }, awaiting := [c] }) ∧ ((u.tile (homeTile u n)).prioQ = []) ∧ (tget (u.tile (tileOf c)).l2 n = none) ∧ (l2Free (u.tile (tileOf c)) (l2Set n) = true)) ∧ AtHome s .nakst c n m u
theorem holds : met := by
  refine ⟨?_, ?_⟩ <;> decide +kernel
end C7
theorem all : C0.met ∧ C1.met ∧ C2.met ∧ C3.met ∧ C4.met ∧ C5.met ∧ C6.met ∧ C7.met :=
  ⟨C0.holds, C1.holds, C2.holds, C3.holds, C4.holds, C5.holds, C6.holds, C7.holds⟩
end SnoopAnswersAtHome
theorem witness_SnoopAnswersAtHome : SnoopAnswersAtHome.C0.met ∧ SnoopAnswersAtHome.C1.met ∧ SnoopAnswersAtHome.C2.met ∧ SnoopAnswersAtHome.C3.met ∧ SnoopAnswersAtHome.C4.met ∧ SnoopAnswersAtHome.C5.met ∧ SnoopAnswersAtHome.C6.met ∧ SnoopAnswersAtHome.C7.met := SnoopAnswersAtHome.all

namespace AnswersAtTheCore
namespace C0
abbrev s : State := { (base) with mesh := [({ kind := .rty, src := homeNode base 0x8000, dst := 3, line := 0x8000, toward := 9, data := none, req := some ({ kind := .rds, core := 3, line := 0x8000 } : Req) } : Msg)] }
abbrev u : State := { (base) with mesh := [] }
abbrev core : BitVec 8 := 3
abbrev line : BitVec 37 := 0x8000
abbrev m : Msg := ({ kind := .rty, src := homeNode base 0x8000, dst := 3, line := 0x8000, toward := 9, data := none, req := some ({ kind := .rds, core := 3, line := 0x8000 } : Req) } : Msg)
abbrev r : Req := ({ kind := .rds, core := 3, line := 0x8000 } : Req)
abbrev c := core.toNat
abbrev k := line.toNat
abbrev met : Prop := AtCore s .rty c k m u ∧ (m.req = some r)
theorem holds : met := by decide +kernel
end C0
namespace C1
abbrev s : State := base.modCore 3 fun c => { c with retries := [({ kind := .rds, core := 3, line := 0x8000 } : Req)], credits := [(homeNode base 0x8000, 1)] }
abbrev core : BitVec 8 := 3
abbrev line : BitVec 37 := 0x8000
abbrev r : Req := ({ kind := .rds, core := 3, line := 0x8000 } : Req)
abbrev b : List Req := []
abbrev c := core.toNat
abbrev k := line.toNat
abbrev cr := (tgetD (s.core c).credits (homeNode s k) 0)
abbrev met : Prop := ((s.core c).retries = r :: b) ∧ r.line = k ∧ r.core = c ∧ (cr < 2)
theorem holds : met := by decide +kernel
end C1
namespace C2
abbrev s : State := base.modCore 3 fun c => { c with retries := [({ kind := .rds, core := 3, line := 0x8000 } : Req)], credits := [(homeNode base 0x8000, 2)] }
abbrev core : BitVec 8 := 3
abbrev line : BitVec 37 := 0x8000
abbrev r : Req := ({ kind := .rds, core := 3, line := 0x8000 } : Req)
abbrev b : List Req := []
abbrev c := core.toNat
abbrev k := line.toNat
abbrev cr := (tgetD (s.core c).credits (homeNode s k) 0)
abbrev met : Prop := ((s.core c).retries = r :: b) ∧ r.line = k ∧ (2 ≤ cr)
theorem holds : met := by decide +kernel
end C2
namespace C3
abbrev s : State := { (base.modCore 3 fun c => { c with fic := { c.fic with pend := some ({ word := 0, why := .line, needs := some 0x8000 } : Pend) } }) with mesh := [({ kind := .naks, src := homeNode base 0x8000, dst := 3, line := 0x8000, toward := 9, data := none, req := some ({ kind := .rds, core := 3, line := 0x8000, spec := true } : Req) } : Msg)] }
abbrev u : State := { (base.modCore 3 fun c => { c with fic := { c.fic with pend := some ({ word := 0, why := .line, needs := some 0x8000 } : Pend) } }) with mesh := [] }
abbrev core : BitVec 8 := 3
abbrev line : BitVec 37 := 0x8000
abbrev m : Msg := ({ kind := .naks, src := homeNode base 0x8000, dst := 3, line := 0x8000, toward := 9, data := none, req := some ({ kind := .rds, core := 3, line := 0x8000, spec := true } : Req) } : Msg)
abbrev r : Req := ({ kind := .rds, core := 3, line := 0x8000, spec := true } : Req)
abbrev p : Pend := ({ word := 0, why := .line, needs := some 0x8000 } : Pend)
abbrev c := core.toNat
abbrev k := line.toNat
abbrev met : Prop := AtCore s .naks c k m u ∧ (m.req = some r) ∧ r.credit = false ∧ r.core = c ∧ r.line = k ∧ (r.kind = .rds) ∧ ((u.core c).fic.pend = some p) ∧ (p.why = .line) ∧ (p.needs = some k)
theorem holds : met := by decide +kernel
end C3
namespace C4
abbrev s : State := { (setDval base 0x3200 2 5000) with mesh := [({ kind := .prg, src := homeNode base 0x8000, dst := 3, line := 0x8000, toward := 9, data := none, req := none } : Msg)] }
abbrev u : State := { (setDval base 0x3200 2 5000) with mesh := [] }
abbrev core : BitVec 8 := 3
abbrev line : BitVec 37 := 0x8000
abbrev m : Msg := ({ kind := .prg, src := homeNode base 0x8000, dst := 3, line := 0x8000, toward := 9, data := none, req := none } : Msg)
abbrev c := core.toNat
abbrev k := line.toNat
abbrev met : Prop := AtCore s .prg c k m u ∧ (dval u 0x3200 (if m.flag then 0x06 else 0x07) ≤ dval u 0x3200 0x02)
theorem holds : met := by decide +kernel
end C4
namespace C5
abbrev s : State := { ((base.modCore 3 fun c => { c with l1d := [(0x8000, ({ st := .smA, data := (List.replicate 8 (fx 1)), na := true } : L1Line))] })) with mesh := [({ kind := .gnt, src := homeNode base 0x8000, dst := 3, line := 0x8000, toward := 9, data := none, req := none } : Msg)] }
abbrev u : State := { ((base.modCore 3 fun c => { c with l1d := [(0x8000, ({ st := .smA, data := (List.replicate 8 (fx 1)), na := true } : L1Line))] })) with mesh := [] }
abbrev core : BitVec 8 := 3
abbrev line : BitVec 37 := 0x8000
abbrev m : Msg := ({ kind := .gnt, src := homeNode base 0x8000, dst := 3, line := 0x8000, toward := 9, data := none, req := none } : Msg)
abbrev l : L1Line := ({ st := .smA, data := (List.replicate 8 (fx 1)), na := true } : L1Line)
abbrev c := core.toNat
abbrev k := line.toNat
abbrev met : Prop := AtCore s .gnt c k m u ∧ (tget (u.core c).l1d k = some l) ∧ ((l.st = .smA ∨ l.st = .omA)) ∧ ((u.core c).stores = [])
theorem holds : met := by decide +kernel
end C5
namespace C6
abbrev s : State := { (base.modCore 3 fun c => { c with stores := [({ who := .ctx 0, key := 0x8000*8+7, word := fx 9, mask := 255 } : PStore)] }) with mesh := [({ kind := .cmp, src := homeNode base 0x8000, dst := 3, line := 0x8000, toward := 9, data := none, req := some ({ kind := .rds, core := 3, line := 0x8000, word := some ({ who := .ctx 0, key := 0x8000*8+7, word := fx 9, mask := 255 } : PStore) } : Req) } : Msg)] }
abbrev u : State := { (base.modCore 3 fun c => { c with stores := [({ who := .ctx 0, key := 0x8000*8+7, word := fx 9, mask := 255 } : PStore)] }) with mesh := [] }
abbrev core : BitVec 8 := 3
abbrev line : BitVec 37 := 0x8000
abbrev m : Msg := ({ kind := .cmp, src := homeNode base 0x8000, dst := 3, line := 0x8000, toward := 9, data := none, req := some ({ kind := .rds, core := 3, line := 0x8000, word := some ({ who := .ctx 0, key := 0x8000*8+7, word := fx 9, mask := 255 } : PStore) } : Req) } : Msg)
abbrev r : Req := ({ kind := .rds, core := 3, line := 0x8000, word := some ({ who := .ctx 0, key := 0x8000*8+7, word := fx 9, mask := 255 } : PStore) } : Req)
abbrev ps : PStore := ({ who := .ctx 0, key := 0x8000*8+7, word := fx 9, mask := 255 } : PStore)
abbrev c := core.toNat
abbrev k := line.toNat
abbrev met : Prop := AtCore s .cmp c k m u ∧ (m.req = some r) ∧ (r.word = some ps) ∧ ((u.core c).stores = [ps])
theorem holds : met := by decide +kernel
end C6
namespace C7
abbrev s : State := { (base.modCtx 480 fun c => { c with pend := some { word := 0, why := .maint, needs := some 0x8000 } }) with mesh := [({ kind := .cmp, src := homeNode base 0x8000, dst := 3, line := 0x8000, toward := 9, data := none, req := some ({ kind := .rds, core := 3, line := 0x8000, who := some (.ctx 480) } : Req) } : Msg)] }
abbrev u : State := { (base.modCtx 480 fun c => { c with pend := some { word := 0, why := .maint, needs := some 0x8000 } }) with mesh := [] }
abbrev core : BitVec 8 := 3
abbrev line : BitVec 37 := 0x8000
abbrev m : Msg := ({ kind := .cmp, src := homeNode base 0x8000, dst := 3, line := 0x8000, toward := 9, data := none, req := some ({ kind := .rds, core := 3, line := 0x8000, who := some (.ctx 480) } : Req) } : Msg)
abbrev r : Req := ({ kind := .rds, core := 3, line := 0x8000, who := some (.ctx 480) } : Req)
abbrev n : BitVec 16 := 480
abbrev p : Pend := ({ word := 0, why := .maint, needs := some 0x8000 } : Pend)
abbrev c := core.toNat
abbrev k := line.toNat
abbrev met : Prop := AtCore s .cmp c k m u ∧ (m.req = some r) ∧ r.credit = false ∧ r.word = none ∧ (r.who = some (.ctx n)) ∧ r.line = k ∧ ((u.ctx n.toNat).pend = some p) ∧ (p.why = .maint) ∧ (p.needs = some k)
theorem holds : met := by decide +kernel
end C7
namespace C8
abbrev s : State := { ((base.modCore 3 fun c => { c with l1d := [(0x8000, ({ st := .xiA, data := (List.replicate 8 (fx 1)), na := true } : L1Line))] })) with mesh := [({ kind := .wba, src := homeNode base 0x8000, dst := 3, line := 0x8000, toward := 9, data := none, req := none } : Msg)] }
abbrev u : State := { ((base.modCore 3 fun c => { c with l1d := [(0x8000, ({ st := .xiA, data := (List.replicate 8 (fx 1)), na := true } : L1Line))] })) with mesh := [] }
abbrev core : BitVec 8 := 3
abbrev line : BitVec 37 := 0x8000
abbrev m : Msg := ({ kind := .wba, src := homeNode base 0x8000, dst := 3, line := 0x8000, toward := 9, data := none, req := none } : Msg)
abbrev l : L1Line := ({ st := .xiA, data := (List.replicate 8 (fx 1)), na := true } : L1Line)
abbrev c := core.toNat
abbrev k := line.toNat
abbrev met : Prop := AtCore s .wba c k m u ∧ (m.toward ≠ 1) ∧ (tget (u.core c).l1d k = some l) ∧ (l.st = .xiA) ∧ ((u.core c).stores = []) ∧ ((u.core c).tagErr = [])
theorem holds : met := by decide +kernel
end C8
namespace C9
abbrev s : State := { (base) with mesh := [({ kind := .tagr, src := 256, dst := 3, line := 5 } : Msg), ({ kind := .tagq, src := 3, dst := 257, line := 5 } : Msg)] }
abbrev u : State := { (base) with mesh := [({ kind := .tagq, src := 3, dst := 257, line := 5 } : Msg)] }
abbrev core : BitVec 8 := 3
abbrev line : BitVec 37 := 0
abbrev set : BitVec 7 := 5
abbrev m : Msg := ({ kind := .tagr, src := 256, dst := 3, line := 5 } : Msg)
abbrev c := core.toNat
abbrev more := u.mesh.any fun m => m.line == set.toNat && ((m.kind == .tagr && m.dst == c) || (m.kind == .tagq && m.src == c))
abbrev met : Prop := AtCore s .tagr c set.toNat m u ∧ more = true
theorem holds : met := by decide +kernel
end C9
namespace C10
abbrev s : State := { (base.modCore 3 fun c => { c with tagErr := [{ set := 5, ways := [(false, 5)] }], l1d := [(5, { st := .s, data := [] })] }) with mesh := [({ kind := .tagr, src := 256, dst := 3, line := 5 } : Msg)] }
abbrev u : State := { (base.modCore 3 fun c => { c with tagErr := [{ set := 5, ways := [(false, 5)] }], l1d := [(5, { st := .s, data := [] })] }) with mesh := [] }
abbrev core : BitVec 8 := 3
abbrev line : BitVec 37 := 0
abbrev set : BitVec 7 := 5
abbrev m : Msg := ({ kind := .tagr, src := 256, dst := 3, line := 5 } : Msg)
abbrev c := core.toNat
abbrev more := u.mesh.any fun m => m.line == set.toNat && ((m.kind == .tagr && m.dst == c) || (m.kind == .tagq && m.src == c))
abbrev e := ({ set := 5, ways := [(false, 5)] } : TagErr)
abbrev met : Prop := AtCore s .tagr c set.toNat m u ∧ more = false ∧ ((u.core c).tagErr = [e]) ∧ (e.set = set.toNat) ∧ (e.got = []) ∧ (m.tags = []) ∧ ((u.core c).stores = [])
theorem holds : met := by decide +kernel
end C10
namespace C11
abbrev s : State := { ((base.modCore 3 fun c => { c with l1d := [(0x8000, ({ st := .isD, data := (List.replicate 8 (fx 1)), na := true } : L1Line))] })) with mesh := [({ kind := .dats, src := homeNode base 0x8000, dst := 3, line := 0x8000, toward := 9, data := some (List.replicate 8 (fx 1)), req := some ({ kind := .rds, core := 3, line := 0x8000 } : Req) } : Msg)] }
abbrev u : State := { ((base.modCore 3 fun c => { c with l1d := [(0x8000, ({ st := .isD, data := (List.replicate 8 (fx 1)), na := true } : L1Line))] })) with mesh := [] }
abbrev core : BitVec 8 := 3
abbrev line : BitVec 37 := 0x8000
abbrev m : Msg := ({ kind := .dats, src := homeNode base 0x8000, dst := 3, line := 0x8000, toward := 9, data := some (List.replicate 8 (fx 1)), req := some ({ kind := .rds, core := 3, line := 0x8000 } : Req) } : Msg)
abbrev r : Req := ({ kind := .rds, core := 3, line := 0x8000 } : Req)
abbrev l : L1Line := ({ st := .isD, data := (List.replicate 8 (fx 1)), na := true } : L1Line)
abbrev d : Line := (List.replicate 8 (fx 1))
abbrev c := core.toNat
abbrev k := line.toNat
abbrev met : Prop := (tget (u.core c).l1d k = some l) ∧ ((l.st = .isD ∨ l.st = .imD)) ∧ l.once = false ∧ (m.toward ≠ 1) ∧ m.dst = c ∧ m.line = k ∧ (m.data = some d) ∧ (m.req = some r) ∧ r.ifetch = false ∧ r.credit = false ∧ ((u.core c).stores = []) ∧ ((u.core c).draining = false) ∧ AtCore s .dats c k m u
theorem holds : met := by decide +kernel
end C11
namespace C12
abbrev s : State := { ((base.modCore 3 fun c => { c with l1d := [(0x8000, ({ st := .isD, data := (List.replicate 8 (fx 1)), na := true } : L1Line))] })) with mesh := [({ kind := .date, src := homeNode base 0x8000, dst := 3, line := 0x8000, toward := 9, data := some (List.replicate 8 (fx 1)), req := some ({ kind := .rds, core := 3, line := 0x8000 } : Req) } : Msg)] }
abbrev u : State := { ((base.modCore 3 fun c => { c with l1d := [(0x8000, ({ st := .isD, data := (List.replicate 8 (fx 1)), na := true } : L1Line))] })) with mesh := [] }
abbrev core : BitVec 8 := 3
abbrev line : BitVec 37 := 0x8000
abbrev m : Msg := ({ kind := .date, src := homeNode base 0x8000, dst := 3, line := 0x8000, toward := 9, data := some (List.replicate 8 (fx 1)), req := some ({ kind := .rds, core := 3, line := 0x8000 } : Req) } : Msg)
abbrev r : Req := ({ kind := .rds, core := 3, line := 0x8000 } : Req)
abbrev l : L1Line := ({ st := .isD, data := (List.replicate 8 (fx 1)), na := true } : L1Line)
abbrev d : Line := (List.replicate 8 (fx 1))
abbrev c := core.toNat
abbrev k := line.toNat
abbrev met : Prop := (tget (u.core c).l1d k = some l) ∧ ((l.st = .isD ∨ l.st = .imD)) ∧ l.once = false ∧ (m.toward ≠ 1) ∧ m.dst = c ∧ m.line = k ∧ (m.data = some d) ∧ (m.req = some r) ∧ r.ifetch = false ∧ r.credit = false ∧ ((u.core c).stores = []) ∧ ((u.core c).draining = false) ∧ AtCore s .date c k m u
theorem holds : met := by decide +kernel
end C12
namespace C13
abbrev s : State := { ((base.modCore 3 fun c => { c with l1d := [(0x8000, ({ st := .imD, data := (List.replicate 8 (fx 1)), na := true } : L1Line))] })) with mesh := [({ kind := .datm, src := homeNode base 0x8000, dst := 3, line := 0x8000, toward := 9, data := some (List.replicate 8 (fx 1)), req := some ({ kind := .rds, core := 3, line := 0x8000 } : Req) } : Msg)] }
abbrev u : State := { ((base.modCore 3 fun c => { c with l1d := [(0x8000, ({ st := .imD, data := (List.replicate 8 (fx 1)), na := true } : L1Line))] })) with mesh := [] }
abbrev core : BitVec 8 := 3
abbrev line : BitVec 37 := 0x8000
abbrev m : Msg := ({ kind := .datm, src := homeNode base 0x8000, dst := 3, line := 0x8000, toward := 9, data := some (List.replicate 8 (fx 1)), req := some ({ kind := .rds, core := 3, line := 0x8000 } : Req) } : Msg)
abbrev r : Req := ({ kind := .rds, core := 3, line := 0x8000 } : Req)
abbrev l : L1Line := ({ st := .imD, data := (List.replicate 8 (fx 1)), na := true } : L1Line)
abbrev d : Line := (List.replicate 8 (fx 1))
abbrev c := core.toNat
abbrev k := line.toNat
abbrev met : Prop := (tget (u.core c).l1d k = some l) ∧ ((l.st = .isD ∨ l.st = .imD)) ∧ l.once = false ∧ (m.toward ≠ 1) ∧ m.dst = c ∧ m.line = k ∧ (m.data = some d) ∧ (m.req = some r) ∧ r.ifetch = false ∧ r.credit = false ∧ ((u.core c).stores = []) ∧ ((u.core c).draining = false) ∧ AtCore s .datm c k m u
theorem holds : met := by decide +kernel
end C13
namespace C14
abbrev s : State := { (base.modCtx 480 fun c => { c with pend := some { word := 0, why := .line, needs := some 0x8000 } }) with mesh := [({ kind := .dato, src := homeNode base 0x8000, dst := 3, line := 0x8000, toward := 9, data := some (List.replicate 8 (fx 1)), req := some ({ kind := .rds, core := 3, line := 0x8000, who := some (.ctx 480) } : Req) } : Msg)] }
abbrev u : State := { (base.modCtx 480 fun c => { c with pend := some { word := 0, why := .line, needs := some 0x8000 } }) with mesh := [] }
abbrev core : BitVec 8 := 3
abbrev line : BitVec 37 := 0x8000
abbrev m : Msg := ({ kind := .dato, src := homeNode base 0x8000, dst := 3, line := 0x8000, toward := 9, data := some (List.replicate 8 (fx 1)), req := some ({ kind := .rds, core := 3, line := 0x8000, who := some (.ctx 480) } : Req) } : Msg)
abbrev r : Req := ({ kind := .rds, core := 3, line := 0x8000, who := some (.ctx 480) } : Req)
abbrev d : Line := (List.replicate 8 (fx 1))
abbrev n : BitVec 16 := 480
abbrev p : Pend := ({ word := 0, why := .line, needs := some 0x8000 } : Pend)
abbrev c := core.toNat
abbrev k := line.toNat
abbrev met : Prop := AtCore s .dato c k m u ∧ (m.req = some r) ∧ r.credit = false ∧ (r.who = some (.ctx n)) ∧ r.line = k ∧ (m.data = some d) ∧ ((u.ctx n.toNat).pend = some p) ∧ (p.why = .line) ∧ (p.needs = some k)
theorem holds : met := by decide +kernel
end C14
namespace C15
abbrev s : State := base.modCore 3 fun c => { c with draining := true }
abbrev core : BitVec 8 := 3
abbrev c := core.toNat
abbrev met : Prop := ((s.core c).draining = true) ∧ ((s.core c).l1d = [])
theorem holds : met := by decide +kernel
end C15
theorem all : C0.met ∧ C1.met ∧ C2.met ∧ C3.met ∧ C4.met ∧ C5.met ∧ C6.met ∧ C7.met ∧ C8.met ∧ C9.met ∧ C10.met ∧ C11.met ∧ C12.met ∧ C13.met ∧ C14.met ∧ C15.met :=
  ⟨C0.holds, C1.holds, C2.holds, C3.holds, C4.holds, C5.holds, C6.holds, C7.holds, C8.holds, C9.holds, C10.holds, C11.holds, C12.holds, C13.holds, C14.holds, C15.holds⟩
end AnswersAtTheCore
theorem witness_AnswersAtTheCore : AnswersAtTheCore.C0.met ∧ AnswersAtTheCore.C1.met ∧ AnswersAtTheCore.C2.met ∧ AnswersAtTheCore.C3.met ∧ AnswersAtTheCore.C4.met ∧ AnswersAtTheCore.C5.met ∧ AnswersAtTheCore.C6.met ∧ AnswersAtTheCore.C7.met ∧ AnswersAtTheCore.C8.met ∧ AnswersAtTheCore.C9.met ∧ AnswersAtTheCore.C10.met ∧ AnswersAtTheCore.C11.met ∧ AnswersAtTheCore.C12.met ∧ AnswersAtTheCore.C13.met ∧ AnswersAtTheCore.C14.met ∧ AnswersAtTheCore.C15.met := AnswersAtTheCore.all

namespace MemoryControllers
namespace C0
abbrev s : State := base.modTile (homeTile base 0x20000000) fun t => { t with sf := [(0x20000000, { txn := some { req := { kind := .rdo, core := 1, line := 0x20000000 }, memory := true } })] }
abbrev pair : BitVec 36 := 0x10000000
abbrev r : Req := { kind := .rdo, core := 1, line := 0x20000000 }
abbrev p : Nat := 0
abbrev n := 2 * pair.toNat
abbrev clean := fun p => tget s.mem.errs p = none ∧ s.mem.armed = []
abbrev met : Prop := clean pair.toNat ∧ ((entryOf s n) = { txn := some { req := r, memory := true } }) ∧ ((entryOf s (n + 1)).txn = none) ∧ (r.kind = .rdo) ∧ r.line = n ∧ ((s.core r.core).dead = false) ∧ ((s.tile (homeTile s n)).prioQ = [])
theorem holds : met := by decide +kernel
end C0
namespace C1
abbrev s : State := base
abbrev mc : BitVec 5 := 8
abbrev p : Nat := 0
abbrev k := mc.toNat
abbrev m := s.mc k
abbrev clean := fun p => tget s.mem.errs p = none ∧ s.mem.armed = []
abbrev met : Prop := (mcState s k = 2 ∧ (m.scrubQ.toNat + 1 < scrubLen s k) ∧ (s.mem.armed = [])) ∧ ((∀ p, pairHere s k m.scrubG.toNat m.scrubQ.toNat = some p → clean p ∧ (entryOf s (2 * p)).txn = none ∧ (entryOf s (2 * p + 1)).txn = none))
theorem holds : met := by
  refine ⟨?_, by exact some_all (by decide +kernel)⟩ <;> decide +kernel
end C1
namespace C2
abbrev s : State := { base with mem := { base.mem with farN := 0 } }
abbrev mc : BitVec 5 := 8
abbrev k := mc.toNat
abbrev met : Prop := (mcState s k ≠ 2)
theorem holds : met := by decide +kernel
end C2
namespace C3
abbrev s : State := base.setMc 8 { base.mc 8 with units := [(3, .suspect)], counts := [(3, 5)], targets := [3] }
abbrev mc : BitVec 5 := 8
abbrev unit : BitVec 10 := 3
abbrev found : Nat := 3
abbrev k := mc.toNat
abbrev m := s.mc k
abbrev u := unit.toNat
abbrev met : Prop := (tgetD m.units u .healthy = .suspect) ∧ (u ∈ m.targets) ∧ (found < 4)
theorem holds : met := by decide +kernel
end C3
namespace C4
abbrev s : State := base.setMc 8 { base.mc 8 with units := [(3, .suspect)], counts := [(3, 5)], targets := [3] }
abbrev mc : BitVec 5 := 8
abbrev unit : BitVec 10 := 3
abbrev found : Nat := 4
abbrev k := mc.toNat
abbrev m := s.mc k
abbrev u := unit.toNat
abbrev g := unitGroup k u
abbrev others := m.units.any fun v => v.1 != u && (unitGroup k v.1 == g && v.2 == .erased)
abbrev met : Prop := (tgetD m.units u .healthy = .suspect) ∧ (u ∈ m.targets) ∧ (4 ≤ found) ∧ others = false
theorem holds : met := by decide +kernel
end C4
namespace C5
abbrev s : State := base.setMc 8 { base.mc 8 with units := [(3, .suspect), (4, .erased)], counts := [(3, 5)], targets := [3] }
abbrev mc : BitVec 5 := 8
abbrev unit : BitVec 10 := 3
abbrev found : Nat := 4
abbrev k := mc.toNat
abbrev m := s.mc k
abbrev u := unit.toNat
abbrev g := unitGroup k u
abbrev others := m.units.any fun v => v.1 != u && (unitGroup k v.1 == g && v.2 == .erased)
abbrev met : Prop := (tgetD m.units u .healthy = .suspect) ∧ (u ∈ m.targets) ∧ (4 ≤ found) ∧ others = true ∧ (tgetD m.groups g .inService = .inService)
theorem holds : met := by decide +kernel
end C5
namespace C6
abbrev s : State := base.setMc 8 { base.mc 8 with units := [(3, .suspect)], counts := [(3, 5)], rows := [3] }
abbrev mc : BitVec 5 := 8
abbrev unit : BitVec 10 := 3
abbrev k := mc.toNat
abbrev m := s.mc k
abbrev u := unit.toNat
abbrev g := unitGroup k u
abbrev others := m.units.any fun v => v.1 != u && (unitGroup k v.1 == g && v.2 == .erased)
abbrev met : Prop := (8 ≤ k) ∧ (tgetD m.units u .healthy = .suspect) ∧ (u ∈ m.rows) ∧ others = false
theorem holds : met := by decide +kernel
end C6
namespace C7
abbrev s : State := { (base.setMc 0 { base.mc 0 with groups := [(0, .retiring)] }) with mem := { base.mem with mcs := [(0, { groups := [(0, .retiring)] })], moved := [(0, 7340031)] } }
abbrev mc : BitVec 5 := 8
abbrev pc : BitVec 8 := 0
abbrev q : BitVec 23 := 7340031
abbrev p : Nat := (pairAt base 0 0 7340031).getD 0
abbrev clean := fun p => tget s.mem.errs p = none ∧ s.mem.armed = []
abbrev met : Prop := (tget s.mem.moved pc.toNat = some q.toNat) ∧ (pairAt s (pc.toNat % 8) (pc.toNat / 8) q.toNat = some p) ∧ (tgetD (s.mc (pc.toNat % 8)).groups (pc.toNat / 8) .inService = .retiring) ∧ ((entryOf s (2 * p)).txn = none) ∧ ((entryOf s (2 * p + 1)).txn = none) ∧ clean p
theorem holds : met := by decide +kernel
end C7
namespace C8
abbrev s : State := { base with mg := { base.mg with mode := .selftest, start := { base.mg.start with bist := true } } }
abbrev mc : BitVec 5 := 8
abbrev k := mc.toNat
abbrev met : Prop := ((s.mg.mode = .selftest) ∧ s.mg.trans = none ∧ s.mg.start.bist = true ∧ s.mg.start.memDone = false ∧ s.mg.start.pendWarm = false) ∧ ((∀ k, (s.tile k).dead = false))
theorem holds : met := by
  refine ⟨?_, by exact all_tile (p := fun c => c.dead = false) (by decide) (by decide +kernel)⟩ <;> decide +kernel
end C8
theorem all : C0.met ∧ C1.met ∧ C2.met ∧ C3.met ∧ C4.met ∧ C5.met ∧ C6.met ∧ C7.met ∧ C8.met :=
  ⟨C0.holds, C1.holds, C2.holds, C3.holds, C4.holds, C5.holds, C6.holds, C7.holds, C8.holds⟩
end MemoryControllers
theorem witness_MemoryControllers : MemoryControllers.C0.met ∧ MemoryControllers.C1.met ∧ MemoryControllers.C2.met ∧ MemoryControllers.C3.met ∧ MemoryControllers.C4.met ∧ MemoryControllers.C5.met ∧ MemoryControllers.C6.met ∧ MemoryControllers.C7.met ∧ MemoryControllers.C8.met := MemoryControllers.all

namespace BarrierAndEngineRegisters
namespace C0
abbrev s : State := base
abbrev w : World := .sys
abbrev off : BitVec 12 := 8
abbrev v : BitVec 64 := 0x8000000000000123
abbrev o := off.toNat / 8 * 8
abbrev lpa := tileBase 0 + (if w = .sys then 0x880000 else 0x881000) + o
abbrev met : Prop := MayWrite s w lpa v
theorem holds : met := by decide +kernel
end C0
namespace C1
abbrev s : State := base.setSq 64 { base.sq 64 with st := .idle, pc := 10, entry := 5, prog := [(10, 0)], q := [(1, fx 7), (2, fx 3)], a := [(1, 0x3000), (2, 0x3008)] }
abbrev w : World := .sys
abbrev k : BitVec 7 := 64
abbrev q := s.sq k.toNat
abbrev met : Prop := hasCtl k.toNat = true ∧ ((q.owner = w ∨ 96 ≤ k.toNat)) ∧ (MayWrite s w (seqBase k.toNat) (ctlKeep s k.toNat 0)) ∧ (q.st ≠ .running) ∧ (q.st ≠ .waiting) ∧ ((k.toNat < 96 → (s.tile (k.toNat - 64)).dead = false))
theorem holds : met := by decide +kernel
end C1
namespace C2
abbrev s : State := base.setSq 64 { base.sq 64 with st := .running, pc := 10, entry := 5, prog := [(10, 0)], q := [(1, fx 7), (2, fx 3)], a := [(1, 0x3000), (2, 0x3008)] }
abbrev w : World := .sys
abbrev k : BitVec 7 := 64
abbrev q := s.sq k.toNat
abbrev ev : BitVec 16 := 6
abbrev met : Prop := hasCtl k.toNat = true ∧ ((q.owner = w ∨ 96 ≤ k.toNat)) ∧ (MayWrite s w (seqBase k.toNat) (ctlKeep s k.toNat 1)) ∧ ((q.st = .running ∨ q.st = .waiting)) ∧ (MayWrite s w (seqBase k.toNat + 0x18) (ev.setWidth 64)) ∧ q.waitM = none
theorem holds : met := by decide +kernel
end C2
namespace C3
abbrev s : State := base
abbrev w : World := .sys
abbrev v : BitVec 64 := 0x3000
abbrev ch : BitVec 6 := 3
abbrev c := s.chan ch.toNat
abbrev met : Prop := (MayWrite s w (chanBase ch.toNat + 0x08) v) ∧ (c.st ≠ .running)
theorem holds : met := by decide +kernel
end C3
namespace C4
abbrev s : State := base.setChan 3 { base.chan 3 with st := .running, phase := .burst }
abbrev w : World := .sys
abbrev v : BitVec 64 := 0x3000
abbrev ch : BitVec 6 := 3
abbrev c := s.chan ch.toNat
abbrev met : Prop := (MayWrite s w (chanBase ch.toNat + 0x08) v) ∧ (c.st = .running)
theorem holds : met := by decide +kernel
end C4
namespace C5
abbrev s : State := base.setChan 3 { base.chan 3 with st := .running, phase := .burst }
abbrev w : World := .sys
abbrev v : BitVec 64 := 1
abbrev ch : BitVec 6 := 3
abbrev c := s.chan ch.toNat
abbrev met : Prop := (MayWrite s w (chanBase ch.toNat + 0x10) v) ∧ v.getLsbD 0 = true ∧ (c.st = .running) ∧ (MayWrite s w (chanBase ch.toNat + 0x18) v) ∧ (c.phase = .burst) ∧ c.errIrq = false
theorem holds : met := by decide +kernel
end C5
namespace C6
abbrev s : State := base.setChan 3 { base.chan 3 with st := .atEoc, phase := .none }
abbrev w : World := .sys
abbrev v : BitVec 64 := 1
abbrev ch : BitVec 6 := 3
abbrev c := s.chan ch.toNat
abbrev met : Prop := (MayWrite s w (chanBase ch.toNat + 0x10) v) ∧ v.getLsbD 0 = true ∧ (c.st = .atEoc)
theorem holds : met := by decide +kernel
end C6
namespace C7
abbrev s : State := base
abbrev w : World := .sys
abbrev v : BitVec 64 := 6
abbrev ch : BitVec 6 := 3
abbrev met : Prop := (MayWrite s w (chanBase ch.toNat + 0x1A8) v) ∧ ((s.sq ch.toNat).waitM = none)
theorem holds : met := by decide +kernel
end C7
namespace C8
abbrev s : State := (held base .e [fx 4, fx 5]).modCore 0 fun c => { c with appends := [({ who := .ctx 0, key := 0x80C0*8+1, word := fx 9, mask := 255 } : PStore)] }
abbrev core : BitVec 8 := 0
abbrev a : PStore := ({ who := .ctx 0, key := 0x80C0*8+1, word := fx 9, mask := 255 } : PStore)
abbrev as : List PStore := []
abbrev l : L1Line := { st := .e, data := lineOf [fx 4, fx 5] }
abbrev n := core.toNat
abbrev met : Prop := ((s.core n).appends = a :: as) ∧ a.mt = 0 ∧ a.card = none ∧ a.sent = false ∧ ((s.core n).bypass = false) ∧ ((s.core n).stores = []) ∧ ((s.core n).tagErr = []) ∧ (s.mem.armed = []) ∧ (tget (s.core n).l1d (a.key / 8) = some l) ∧ ((l.st = .m ∨ l.st = .e))
theorem holds : met := by decide +kernel
end C8
namespace C9
abbrev s : State := (held base .m [fx 4, fx 5]).modCore 0 fun c => { c with heals := [({ who := .ctx 0, key := 0x80C0*8, old := fx 4, new := fx 5 } : Heal)] }
abbrev core : BitVec 8 := 0
abbrev h : Heal := ({ who := .ctx 0, key := 0x80C0*8, old := fx 4, new := fx 5 } : Heal)
abbrev hs : List Heal := []
abbrev l : L1Line := { st := .m, data := lineOf [fx 4, fx 5] }
abbrev n := core.toNat
abbrev met : Prop := ((s.core n).heals = h :: hs) ∧ h.sent = false ∧ h.far = false ∧ ((s.core n).bypass = false) ∧ ((s.core n).tagErr = []) ∧ (s.mem.armed = []) ∧ ((∀ p ∈ (s.core n).stores, p.who = h.who → p.key ≠ h.key)) ∧ (tget (s.core n).l1d (h.key / 8) = some l) ∧ ((l.st = .m ∨ l.st = .e))
theorem holds : met := by decide +kernel
end C9
theorem all : C0.met ∧ C1.met ∧ C2.met ∧ C3.met ∧ C4.met ∧ C5.met ∧ C6.met ∧ C7.met ∧ C8.met ∧ C9.met :=
  ⟨C0.holds, C1.holds, C2.holds, C3.holds, C4.holds, C5.holds, C6.holds, C7.holds, C8.holds, C9.holds⟩
end BarrierAndEngineRegisters
theorem witness_BarrierAndEngineRegisters : BarrierAndEngineRegisters.C0.met ∧ BarrierAndEngineRegisters.C1.met ∧ BarrierAndEngineRegisters.C2.met ∧ BarrierAndEngineRegisters.C3.met ∧ BarrierAndEngineRegisters.C4.met ∧ BarrierAndEngineRegisters.C5.met ∧ BarrierAndEngineRegisters.C6.met ∧ BarrierAndEngineRegisters.C7.met ∧ BarrierAndEngineRegisters.C8.met ∧ BarrierAndEngineRegisters.C9.met := BarrierAndEngineRegisters.all

namespace ChannelsRun
namespace C0
abbrev s : State := (base.setChan 3 { base.chan 3 with st := .running, phase := .burst, prio := 5, w0 := 0x40000002 }).setChan 4 { base.chan 4 with st := .running, phase := .burst, prio := 5 }
abbrev ch : BitVec 6 := 3
abbrev k := ch.toNat
abbrev c := s.chan k
abbrev met : Prop := valleyOn s = true ∧ (s.mg.pdPend = []) ∧ (grantTo s = some (k, false)) ∧ vlOp c = 2 ∧ (s.grants < 64)
theorem holds : met := by decide +kernel
end C0
namespace C1
abbrev s : State := base.setChan 3 { base.chan 3 with st := .running, phase := .granted, dst := 0x3000, w0 := 0x40000002, fill := fx 9 }
abbrev t : State := (vlXlate (base.setChan 3 { base.chan 3 with st := .running, phase := .granted, dst := 0x3000, w0 := 0x40000002, fill := fx 9 }) 3 1 0x3000).2
abbrev ch : BitVec 6 := 3
abbrev w0 : W := nilW
abbrev l : Nat := 0x203000
abbrev k := ch.toNat
abbrev c := s.chan k
abbrev u := vlWrite 200 t (l / 8) (List.replicate (burstWords c) c.fill) none
abbrev met : Prop := (InPhase s k .granted ∧ (c.want = []) ∧ vlOp c = 2 ∧ ((c.dst + BitVec.ofNat 59 c.pos).getLsbD 58 = false) ∧ c.w0.getLsbD 5 = false ∧ ((u.chan k).abort = false) ∧ (u.mg.pdPend = [])) ∧ (vlXlate s k 1 (c.dst + BitVec.ofNat 59 c.pos) = (.ok l, t))
theorem holds : met := by
  refine ⟨?_, excS ?_⟩ <;> decide +kernel
end C1
namespace C2
abbrev s : State := base
abbrev key : Nat := 0x40600
abbrev met : Prop := (deadHome s (key / 8) = false) ∧ (lineBusy s (key / 8) = false) ∧ (ownerData s.cores (key / 8) = none) ∧ (s.mem.errs = []) ∧ (s.mem.armed = []) ∧ ((curLine s (key / 8)).length = 8)
theorem holds : met := by decide +kernel
end C2
namespace C3
abbrev s : State := base.setChan 3 { base.chan 3 with st := .running, phase := .done, w0 := 0x40000002 }
abbrev ch : BitVec 6 := 3
abbrev w0 : W := nilW
abbrev k := ch.toNat
abbrev c := s.chan k
abbrev met : Prop := InPhase s k .done ∧ vlOrdered c = false ∧ c.drainFor = none ∧ c.w0.getLsbD 3 = false ∧ (s.mg.pdPend = [])
theorem holds : met := by decide +kernel
end C3
namespace C4
abbrev s : State := { base.setChan 3 { base.chan 3 with st := .running, phase := .link, cur := 0x3000 } with mem := { base.mem with words := ([(0x40603, ⟨0xF, 0⟩)] : List (Nat × W)).foldl (fun t e => tset t e.1 e.2) memI } }
abbrev t : State := (vlRead ({ base.setChan 3 { base.chan 3 with st := .running, phase := .link, cur := 0x3000 } with mem := { base.mem with words := ([(0x40603, ⟨0xF, 0⟩)] : List (Nat × W)).foldl (fun t e => tset t e.1 e.2) memI } }) 3 0x3018).2
abbrev ch : BitVec 6 := 3
abbrev w : W := ⟨0xF, 0⟩
abbrev k := ch.toNat
abbrev c := s.chan k
abbrev d := t.chan k
abbrev met : Prop := (InPhase s k .link ∧ c.held = false ∧ c.link0 = none ∧ (t.mg.pdPend = []) ∧ (d.cur = c.cur) ∧ w.tag = 0x00F ∧ d.recheck = false) ∧ (vlRead s k (c.cur + 24) = (.ok w, t))
theorem holds : met := by
  refine ⟨?_, excS ?_⟩ <;> decide +kernel
end C4
namespace C5
abbrev s : State := { base.setChan 3 { base.chan 3 with st := .running, phase := .link, cur := 0x3000 } with mem := { base.mem with words := ([(0x40603, ptr 0x108 0x4000)] : List (Nat × W)).foldl (fun t e => tset t e.1 e.2) memI } }
abbrev t : State := (vlRead ({ base.setChan 3 { base.chan 3 with st := .running, phase := .link, cur := 0x3000 } with mem := { base.mem with words := ([(0x40603, ptr 0x108 0x4000)] : List (Nat × W)).foldl (fun t e => tset t e.1 e.2) memI } }) 3 0x3018).2
abbrev ch : BitVec 6 := 3
abbrev w : W := ptr 0x108 0x4000
abbrev k := ch.toNat
abbrev c := s.chan k
abbrev d := t.chan k
abbrev met : Prop := (InPhase s k .link ∧ c.held = false ∧ c.link0 = none ∧ (t.mg.pdPend = []) ∧ (d.cur = c.cur) ∧ ((w.tag = 0x006 ∨ isPtr w = true))) ∧ (vlRead s k (c.cur + 24) = (.ok w, t))
theorem holds : met := by
  refine ⟨?_, excS ?_⟩ <;> decide +kernel
end C5
namespace C6
abbrev s : State := { base.setChan 3 { base.chan 3 with st := .running, phase := .link, cur := 0x3000 } with mem := { base.mem with words := ([(0x40603, fx 3)] : List (Nat × W)).foldl (fun t e => tset t e.1 e.2) memI } }
abbrev t : State := (vlRead ({ base.setChan 3 { base.chan 3 with st := .running, phase := .link, cur := 0x3000 } with mem := { base.mem with words := ([(0x40603, fx 3)] : List (Nat × W)).foldl (fun t e => tset t e.1 e.2) memI } }) 3 0x3018).2
abbrev ch : BitVec 6 := 3
abbrev w : W := fx 3
abbrev k := ch.toNat
abbrev c := s.chan k
abbrev d := t.chan k
abbrev met : Prop := (InPhase s k .link ∧ c.held = false ∧ c.link0 = none ∧ (t.mg.pdPend = []) ∧ (d.cur = c.cur) ∧ (w.tag ≠ 0x00F) ∧ (w.tag ≠ 0x006) ∧ isPtr w = false) ∧ (vlRead s k (c.cur + 24) = (.ok w, t))
theorem holds : met := by
  refine ⟨?_, excS ?_⟩ <;> decide +kernel
end C6
namespace C7
abbrev s : State := ctx0 base fun c => { c with slot := none, dir := { c.dir with state := .waitMem }, pend := some { word := 0, why := .syncV, words := [(7, nilW)] } }
abbrev lcn : BitVec 16 := 0
abbrev p : Pend := { word := 0, why := .syncV, words := [(7, nilW)] }
abbrev mine := s.ctx lcn.toNat
abbrev met : Prop := (mine.pend = some p) ∧ (p.why = .syncV) ∧ ((∀ e ∈ p.words, e.1 ∉ valleyWrites s)) ∧ (mine.dir.state = .waitMem) ∧ (lcn.toNat < 40960)
theorem holds : met := by decide +kernel
end C7
namespace C8
abbrev s : State := { base with mg := { base.mg with pdPend := [40, 41] } }
abbrev dom : BitVec 7 := 40
abbrev met : Prop := (dom.toNat ≠ 73) ∧ (dom.toNat ∈ s.mg.pdPend) ∧ ((∀ x ∈ s.chans, x.2.drainFor = none))
theorem holds : met := by decide +kernel
end C8
theorem all : C0.met ∧ C1.met ∧ C2.met ∧ C3.met ∧ C4.met ∧ C5.met ∧ C6.met ∧ C7.met ∧ C8.met :=
  ⟨C0.holds, C1.holds, C2.holds, C3.holds, C4.holds, C5.holds, C6.holds, C7.holds, C8.holds⟩
end ChannelsRun
theorem witness_ChannelsRun : ChannelsRun.C0.met ∧ ChannelsRun.C1.met ∧ ChannelsRun.C2.met ∧ ChannelsRun.C3.met ∧ ChannelsRun.C4.met ∧ ChannelsRun.C5.met ∧ ChannelsRun.C6.met ∧ ChannelsRun.C7.met ∧ ChannelsRun.C8.met := ChannelsRun.all

namespace ReedArithmetic
namespace C0
abbrev s : State := base.setSq 64 { base.sq 64 with st := .running, pc := 10, entry := 5, prog := [(10, (0#4 ++ 1#3 ++ 2#3 ++ 1#4 : BitVec 14))], q := [(1, fx 7), (2, fx 3)], a := [(1, 0x3000), (2, 0x3008)] }
abbrev k : BitVec 7 := 64
abbrev qd : BitVec 3 := 1
abbrev qs : BitVec 3 := 2
abbrev n := k.toNat
abbrev q := s.sq n
abbrev b := q.qv qs
abbrev alu := fun (f : BitVec 4) => ((0#4 ++ qd ++ qs ++ f : BitVec 14))
abbrev p := ((Instr.reedAdd, 1, fun x y => x + y) : (BitVec 7 → BitVec 3 → BitVec 3 → Instr) × BitVec 4 × (BitVec 64 → BitVec 64 → BitVec 64))
abbrev met : Prop := q.pfx = none ∧ (Fetches s n (alu p.2.1)) ∧ IsInt b
theorem holds : met := by decide +kernel
end C0
namespace C1
abbrev s : State := base.setSq 64 { base.sq 64 with st := .running, pc := 10, entry := 5, prog := [(10, (0#4 ++ 1#3 ++ 2#3 ++ 1#4 : BitVec 14))], q := [(1, fx 7), (2, ptr 2 7)], a := [(1, 0x3000), (2, 0x3008)] }
abbrev k : BitVec 7 := 64
abbrev qd : BitVec 3 := 1
abbrev qs : BitVec 3 := 2
abbrev n := k.toNat
abbrev q := s.sq n
abbrev a := q.qv qd
abbrev b := q.qv qs
abbrev alu := fun (f : BitVec 4) => ((0#4 ++ qd ++ qs ++ f : BitVec 14))
abbrev p := ((Instr.reedAdd, 1, fun x y => x + y) : (BitVec 7 → BitVec 3 → BitVec 3 → Instr) × BitVec 4 × (BitVec 64 → BitVec 64 → BitVec 64))
abbrev met : Prop := q.pfx = none ∧ (Fetches s n (alu p.2.1)) ∧ (¬ (IsInt a ∧ IsInt b))
theorem holds : met := by decide +kernel
end C1
namespace C2
abbrev s : State := base.setSq 64 { base.sq 64 with st := .running, pc := 10, entry := 5, prog := [(10, (0#4 ++ 1#3 ++ 2#3 ++ 6#4 : BitVec 14))], q := [(1, fx 7), (2, fx 3)], a := [(1, 0x3000), (2, 0x3008)] }
abbrev k : BitVec 7 := 64
abbrev qd : BitVec 3 := 1
abbrev qs : BitVec 3 := 2
abbrev n := k.toNat
abbrev q := s.sq n
abbrev a := q.qv qd
abbrev b := q.qv qs
abbrev alu := fun (f : BitVec 4) => ((0#4 ++ qd ++ qs ++ f : BitVec 14))
abbrev met : Prop := q.pfx = none ∧ IsInt a ∧ IsInt b ∧ (Fetches s n (alu 6))
theorem holds : met := by decide +kernel
end C2
namespace C3
abbrev s : State := base.setSq 64 { base.sq 64 with st := .running, pc := 10, entry := 5, prog := [(10, (0#4 ++ 1#3 ++ 2#3 ++ 7#4 : BitVec 14))], q := [(1, fx 7), (2, fx 3)], a := [(1, 0x3000), (2, 0x3008)] }
abbrev k : BitVec 7 := 64
abbrev qd : BitVec 3 := 1
abbrev qs : BitVec 3 := 2
abbrev n := k.toNat
abbrev q := s.sq n
abbrev a := q.qv qd
abbrev b := q.qv qs
abbrev alu := fun (f : BitVec 4) => ((0#4 ++ qd ++ qs ++ f : BitVec 14))
abbrev met : Prop := q.pfx = none ∧ IsInt a ∧ IsInt b ∧ (Fetches s n (alu 7))
theorem holds : met := by decide +kernel
end C3
namespace C4
abbrev s : State := base.setSq 64 { base.sq 64 with st := .running, pc := 10, entry := 5, prog := [(10, (0#4 ++ 1#3 ++ 2#3 ++ 8#4 : BitVec 14))], q := [(1, fx 7), (2, fx 3)], a := [(1, 0x3000), (2, 0x3008)] }
abbrev k : BitVec 7 := 64
abbrev qd : BitVec 3 := 1
abbrev qs : BitVec 3 := 2
abbrev n := k.toNat
abbrev q := s.sq n
abbrev a := q.qv qd
abbrev b := q.qv qs
abbrev alu := fun (f : BitVec 4) => ((0#4 ++ qd ++ qs ++ f : BitVec 14))
abbrev met : Prop := q.pfx = none ∧ IsInt a ∧ IsInt b ∧ (Fetches s n (alu 8))
theorem holds : met := by decide +kernel
end C4
namespace C5
abbrev s : State := base.setSq 64 { base.sq 64 with st := .running, pc := 10, entry := 5, prog := [(10, (0#4 ++ 1#3 ++ 2#3 ++ 0#4 : BitVec 14))], q := [(1, fx 7), (2, fx 3)], a := [(1, 0x3000), (2, 0x3008)] }
abbrev k : BitVec 7 := 64
abbrev qd : BitVec 3 := 1
abbrev qs : BitVec 3 := 2
abbrev n := k.toNat
abbrev q := s.sq n
abbrev alu := fun (f : BitVec 4) => ((0#4 ++ qd ++ qs ++ f : BitVec 14))
abbrev met : Prop := q.pfx = none ∧ (Fetches s n (alu 0))
theorem holds : met := by decide +kernel
end C5
namespace C6
abbrev s : State := base.setSq 64 { base.sq 64 with st := .running, pc := 10, entry := 5, prog := [(10, (0#4 ++ 1#3 ++ 2#3 ++ 9#4 : BitVec 14))], q := [(1, fx 7), (2, fx 3)], a := [(1, 0x3000), (2, 0x3008)] }
abbrev k : BitVec 7 := 64
abbrev qd : BitVec 3 := 1
abbrev qs : BitVec 3 := 2
abbrev n := k.toNat
abbrev q := s.sq n
abbrev alu := fun (f : BitVec 4) => ((0#4 ++ qd ++ qs ++ f : BitVec 14))
abbrev met : Prop := q.pfx = none ∧ (Fetches s n (alu 9))
theorem holds : met := by decide +kernel
end C6
namespace C7
abbrev s : State := base.setSq 64 { base.sq 64 with st := .running, pc := 10, entry := 5, prog := [(10, (0#4 ++ 1#3 ++ 2#3 ++ 10#4 : BitVec 14))], q := [(1, fx 7), (2, fx 3)], a := [(1, 0x3000), (2, 0x3008)] }
abbrev k : BitVec 7 := 64
abbrev qd : BitVec 3 := 1
abbrev qs : BitVec 3 := 2
abbrev n := k.toNat
abbrev q := s.sq n
abbrev alu := fun (f : BitVec 4) => ((0#4 ++ qd ++ qs ++ f : BitVec 14))
abbrev met : Prop := q.pfx = none ∧ (Fetches s n (alu 10))
theorem holds : met := by decide +kernel
end C7
namespace C8
abbrev s : State := base.setSq 64 { base.sq 64 with st := .running, pc := 10, entry := 5, prog := [(10, (0#4 ++ 1#3 ++ 2#3 ++ 11#4 : BitVec 14))], q := [(1, fx 7), (2, fx 6)], a := [(1, 0x3000), (2, 0x3008)] }
abbrev k : BitVec 7 := 64
abbrev qd : BitVec 3 := 1
abbrev qs : BitVec 3 := 2
abbrev r : W := ⟨6, 7⟩
abbrev n := k.toNat
abbrev q := s.sq n
abbrev a := q.qv qd
abbrev b := q.qv qs
abbrev alu := fun (f : BitVec 4) => ((0#4 ++ qd ++ qs ++ f : BitVec 14))
abbrev met : Prop := (q.pfx = none ∧ (Fetches s n (alu 11)) ∧ IsInt b) ∧ (retag a (b.payload.setWidth 10) = .ok r)
theorem holds : met := by
  refine ⟨?_, exc ?_⟩ <;> decide +kernel
end C8
namespace C9
abbrev s : State := base.setSq 64 { base.sq 64 with st := .running, pc := 10, entry := 5, prog := [(10, (0#4 ++ 1#3 ++ 2#3 ++ 12#4 : BitVec 14))], q := [(1, fx 7), (2, ptr 0x108 0x3000)], a := [(1, 0x3000), (2, 0x3008)] }
abbrev k : BitVec 7 := 64
abbrev qd : BitVec 3 := 1
abbrev qs : BitVec 3 := 2
abbrev va : BitVec 59 := 0x3000
abbrev n := k.toNat
abbrev q := s.sq n
abbrev b := q.qv qs
abbrev alu := fun (f : BitVec 4) => ((0#4 ++ qd ++ qs ++ f : BitVec 14))
abbrev met : Prop := q.pfx = none ∧ (Fetches s n (alu 12)) ∧ (addrForm b = some va)
theorem holds : met := by decide +kernel
end C9
namespace C10
abbrev s : State := base.setSq 64 { base.sq 64 with st := .running, pc := 10, entry := 5, prog := [(10, (1#4 ++ 1#3 ++ 0x7F#7 : BitVec 14))], q := [(1, fx 7), (2, fx 3)], a := [(1, 0x3000), (2, 0x3008)] }
abbrev k : BitVec 7 := 64
abbrev qd : BitVec 3 := 1
abbrev imm : BitVec 7 := 0x7F
abbrev n := k.toNat
abbrev word := fun (c : BitVec 4) => ((c ++ qd ++ imm : BitVec 14))
abbrev met : Prop := (Fetches s n (word 1))
theorem holds : met := by decide +kernel
end C10
namespace C11
abbrev s : State := base.setSq 64 { base.sq 64 with st := .running, pc := 10, entry := 5, prog := [(10, (2#4 ++ 1#3 ++ 0x7F#7 : BitVec 14))], q := [(1, fx 7), (2, fx 3)], a := [(1, 0x3000), (2, 0x3008)] }
abbrev k : BitVec 7 := 64
abbrev qd : BitVec 3 := 1
abbrev imm : BitVec 7 := 0x7F
abbrev n := k.toNat
abbrev q := s.sq n
abbrev a := q.qv qd
abbrev word := fun (c : BitVec 4) => ((c ++ qd ++ imm : BitVec 14))
abbrev met : Prop := IsInt a ∧ (Fetches s n (word 2))
theorem holds : met := by decide +kernel
end C11
namespace C12
abbrev s : State := base.setSq 64 { base.sq 64 with st := .running, pc := 10, entry := 5, prog := [(10, (13#4 ++ 1#3 ++ 0x7F#7 : BitVec 14))], q := [(1, fx 7), (2, fx 3)], a := [(1, 0x3000), (2, 0x3008)] }
abbrev k : BitVec 7 := 64
abbrev qd : BitVec 3 := 1
abbrev imm : BitVec 7 := 0x7F
abbrev n := k.toNat
abbrev q := s.sq n
abbrev a := q.qv qd
abbrev word := fun (c : BitVec 4) => ((c ++ qd ++ imm : BitVec 14))
abbrev met : Prop := IsInt a ∧ (Fetches s n (word 13))
theorem holds : met := by decide +kernel
end C12
namespace C13
abbrev s : State := base
abbrev k : BitVec 7 := 95
abbrev n := k.toNat
abbrev q := s.sq n
abbrev met : Prop := (64 ≤ n) ∧ (n < 96) ∧ q.irqEn = false
theorem holds : met := by decide +kernel
end C13
theorem all : C0.met ∧ C1.met ∧ C2.met ∧ C3.met ∧ C4.met ∧ C5.met ∧ C6.met ∧ C7.met ∧ C8.met ∧ C9.met ∧ C10.met ∧ C11.met ∧ C12.met ∧ C13.met :=
  ⟨C0.holds, C1.holds, C2.holds, C3.holds, C4.holds, C5.holds, C6.holds, C7.holds, C8.holds, C9.holds, C10.holds, C11.holds, C12.holds, C13.holds⟩
end ReedArithmetic
theorem witness_ReedArithmetic : ReedArithmetic.C0.met ∧ ReedArithmetic.C1.met ∧ ReedArithmetic.C2.met ∧ ReedArithmetic.C3.met ∧ ReedArithmetic.C4.met ∧ ReedArithmetic.C5.met ∧ ReedArithmetic.C6.met ∧ ReedArithmetic.C7.met ∧ ReedArithmetic.C8.met ∧ ReedArithmetic.C9.met ∧ ReedArithmetic.C10.met ∧ ReedArithmetic.C11.met ∧ ReedArithmetic.C12.met ∧ ReedArithmetic.C13.met := ReedArithmetic.all

namespace ReedAddressesAndMemory
namespace C0
abbrev s : State := base.setSq 64 { base.sq 64 with st := .running, pc := 10, entry := 5, prog := [(10, (3#4 ++ 1#2 ++ 0#3 ++ 2#5 : BitVec 14))], q := [(1, fx 7), (2, ptr 0x108 0x3000)], a := [(1, 0x3000), (2, 0x3008)] }
abbrev k : BitVec 7 := 64
abbrev an : BitVec 2 := 1
abbrev r : BitVec 3 := 2
abbrev va : BitVec 59 := 0x3000
abbrev n := k.toNat
abbrev q := s.sq n
abbrev b := q.qv r
abbrev aop := fun (sub : BitVec 3) (y : BitVec 5) => ((3#4 ++ an ++ sub ++ y : BitVec 14))
abbrev r5 : BitVec 5 := r.setWidth 5
abbrev met : Prop := q.pfx = none ∧ (Fetches s n (aop 0 r5)) ∧ (addrForm b = some va)
theorem holds : met := by decide +kernel
end C0
namespace C1
abbrev s : State := base.setSq 64 { base.sq 64 with st := .running, pc := 10, entry := 5, prog := [(10, (3#4 ++ 1#2 ++ 1#3 ++ 2#5 : BitVec 14))], q := [(1, fx 7), (2, fx 3)], a := [(1, 0x3000), (2, 0x3008)] }
abbrev k : BitVec 7 := 64
abbrev an : BitVec 2 := 1
abbrev r : BitVec 3 := 2
abbrev n := k.toNat
abbrev q := s.sq n
abbrev aop := fun (sub : BitVec 3) (y : BitVec 5) => ((3#4 ++ an ++ sub ++ y : BitVec 14))
abbrev r5 : BitVec 5 := r.setWidth 5
abbrev met : Prop := q.pfx = none ∧ (Fetches s n (aop 1 r5))
theorem holds : met := by decide +kernel
end C1
namespace C2
abbrev s : State := base.setSq 64 { base.sq 64 with st := .running, pc := 10, entry := 5, prog := [(10, (3#4 ++ 1#2 ++ 3#3 ++ 2#5 : BitVec 14))], q := [(1, fx 7), (2, fx 3)], a := [(1, 0x3000), (2, 0x3008)] }
abbrev k : BitVec 7 := 64
abbrev an : BitVec 2 := 1
abbrev r : BitVec 3 := 2
abbrev n := k.toNat
abbrev q := s.sq n
abbrev b := q.qv r
abbrev aop := fun (sub : BitVec 3) (y : BitVec 5) => ((3#4 ++ an ++ sub ++ y : BitVec 14))
abbrev r5 : BitVec 5 := r.setWidth 5
abbrev met : Prop := q.pfx = none ∧ (Fetches s n (aop 3 r5)) ∧ IsInt b
theorem holds : met := by decide +kernel
end C2
namespace C3
abbrev s : State := base.setSq 64 { base.sq 64 with st := .running, pc := 10, entry := 5, prog := [(10, (3#4 ++ 0#2 ++ 4#3 ++ 2#5 : BitVec 14))], q := [(1, fx 7), (2, fx 3)], a := [(1, 0x3000), (2, 0x3008)] }
abbrev k : BitVec 7 := 64
abbrev r : BitVec 3 := 2
abbrev n := k.toNat
abbrev q := s.sq n
abbrev b := q.qv r
abbrev r5 : BitVec 5 := r.setWidth 5
abbrev met : Prop := q.pfx = none ∧ (Fetches s n ((3#4 ++ 0#2 ++ 4#3 ++ r5 : BitVec 14))) ∧ IsInt b
theorem holds : met := by decide +kernel
end C3
namespace C4
abbrev s : State := base.setSq 64 { base.sq 64 with st := .running, pc := 10, entry := 5, prog := [(10, (3#4 ++ 0#2 ++ 5#3 ++ 2#5 : BitVec 14))], q := [(1, fx 7), (2, fx 3)], a := [(1, 0x3000), (2, 0x3008)] }
abbrev k : BitVec 7 := 64
abbrev r : BitVec 3 := 2
abbrev n := k.toNat
abbrev q := s.sq n
abbrev r5 : BitVec 5 := r.setWidth 5
abbrev met : Prop := q.pfx = none ∧ (Fetches s n ((3#4 ++ 0#2 ++ 5#3 ++ r5 : BitVec 14)))
theorem holds : met := by decide +kernel
end C4
namespace C5
abbrev s : State := base.setSq 64 { base.sq 64 with st := .running, pc := 10, entry := 5, prog := [(10, (3#4 ++ 1#2 ++ 6#3 ++ 2#5 : BitVec 14))], q := [(1, fx 7), (2, fx 3)], a := [(1, 0x3000), (2, 0x3008)] }
abbrev k : BitVec 7 := 64
abbrev an : BitVec 2 := 1
abbrev am : BitVec 2 := 2
abbrev n := k.toNat
abbrev q := s.sq n
abbrev aop := fun (sub : BitVec 3) (y : BitVec 5) => ((3#4 ++ an ++ sub ++ y : BitVec 14))
abbrev met : Prop := q.pfx = none ∧ (Fetches s n (aop 6 (am.setWidth 5)))
theorem holds : met := by decide +kernel
end C5
namespace C6
abbrev s : State := base.setSq 64 { base.sq 64 with st := .running, pc := 10, entry := 5, prog := [(10, (3#4 ++ 1#2 ++ 2#3 ++ 0x1F#5 : BitVec 14))], q := [(1, fx 7), (2, fx 3)], a := [(1, 0x3000), (2, 0x3008)] }
abbrev k : BitVec 7 := 64
abbrev an : BitVec 2 := 1
abbrev i5 : BitVec 5 := 0x1F
abbrev n := k.toNat
abbrev aop := fun (sub : BitVec 3) (y : BitVec 5) => ((3#4 ++ an ++ sub ++ y : BitVec 14))
abbrev met : Prop := (Fetches s n (aop 2 i5))
theorem holds : met := by decide +kernel
end C6
namespace C7
abbrev s : State := base.setSq 64 { base.sq 64 with st := .running, pc := 10, entry := 5, prog := [(10, (4#4 ++ 2#3 ++ 1#2 ++ 1#1 ++ 1#4 : BitVec 14))], q := [(1, fx 7), (2, fx 3)], a := [(1, 0x3000), (2, 0x3008)] }
abbrev t : State := (seqXlate (base.setSq 64 { base.sq 64 with st := .running, pc := 10, entry := 5, prog := [(10, (4#4 ++ 2#3 ++ 1#2 ++ 1#1 ++ 1#4 : BitVec 14))], q := [(1, fx 7), (2, fx 3)], a := [(1, 0x3000), (2, 0x3008)] }) 64 0 0x3008).2
abbrev k : BitVec 7 := 64
abbrev an : BitVec 2 := 1
abbrev r : BitVec 3 := 2
abbrev p : Bool := true
abbrev off : BitVec 4 := 1
abbrev l : Nat := 0x203008
abbrev n := k.toNat
abbrev q := s.sq n
abbrev at_ := q.av an + BitVec.ofNat 59 (8 * (match q.pfx with | some e => (e ++ off).toNat | none => off.toNat))
abbrev mem := fun (c : BitVec 4) => ((c ++ r ++ an ++ BitVec.ofBool p ++ off : BitVec 14))
abbrev met : Prop := ((Fetches s n (mem 4)) ∧ (at_.toNat % 8 = 0) ∧ isPort at_ = false ∧ at_.getLsbD 58 = false) ∧ (seqXlate s n 0 at_ = (.ok l, t))
theorem holds : met := by
  refine ⟨?_, excS ?_⟩ <;> decide +kernel
end C7
namespace C8
abbrev s : State := base.setSq 64 { base.sq 64 with st := .running, pc := 10, entry := 5, prog := [(10, (4#4 ++ 2#3 ++ 1#2 ++ 1#1 ++ 1#4 : BitVec 14))], q := [(1, fx 7), (2, fx 3)], a := [(1, 0x1FFFFFFFFFFFFF8), (2, 0x3008)] }
abbrev k : BitVec 7 := 64
abbrev an : BitVec 2 := 1
abbrev r : BitVec 3 := 2
abbrev p : Bool := true
abbrev off : BitVec 4 := 1
abbrev n := k.toNat
abbrev q := s.sq n
abbrev at_ := q.av an + BitVec.ofNat 59 (8 * (match q.pfx with | some e => (e ++ off).toNat | none => off.toNat))
abbrev mem := fun (c : BitVec 4) => ((c ++ r ++ an ++ BitVec.ofBool p ++ off : BitVec 14))
abbrev met : Prop := (Fetches s n (mem 4)) ∧ (64 ≤ n) ∧ (n < 96) ∧ at_ = 0x200000000000000
theorem holds : met := by decide +kernel
end C8
namespace C9
abbrev s : State := base.setSq 64 { base.sq 64 with st := .running, pc := 10, entry := 5, prog := [(10, 0)], q := [(1, fx 7), (2, fx 3)], a := [(1, 0x3000), (2, 0x3008)], ld := some { q := 2, an := 1, post := true, va := 0x3008, lpa := some 0x203008 } }
abbrev t : State := (agentRead (base.setSq 64 { base.sq 64 with st := .running, pc := 10, entry := 5, prog := [(10, 0)], q := [(1, fx 7), (2, fx 3)], a := [(1, 0x3000), (2, 0x3008)], ld := some { q := 2, an := 1, post := true, va := 0x3008, lpa := some 0x203008 } }) (0x203008/8)).2
abbrev k : BitVec 7 := 64
abbrev an : BitVec 2 := 1
abbrev va : BitVec 59 := 0x3000
abbrev l : Nat := 0x203008
abbrev x : SeqLd := { q := 2, an := 1, post := true, va := 0x3008, lpa := some 0x203008 }
abbrev w : W := uninitW
abbrev n := k.toNat
abbrev q := s.sq n
abbrev met : Prop := (q.ld = some x) ∧ (x.lpa = some l) ∧ seqPowered s n = true ∧ ficRuns s.mg.mode = true ∧ (agentRead s (l / 8) = (w, t)) ∧ t.sq n = q ∧ q.halt = false ∧ ((t.chan n).abort = false)
theorem holds : met := by decide +kernel
end C9
namespace C10
abbrev s : State := base.setSq 64 { base.sq 64 with st := .running, pc := 10, entry := 5, prog := [(10, (5#4 ++ 2#3 ++ 1#2 ++ 1#1 ++ 1#4 : BitVec 14))], q := [(1, fx 7), (2, fx 3)], a := [(1, 0x3000), (2, 0x3008)] }
abbrev t : State := (seqXlate (base.setSq 64 { base.sq 64 with st := .running, pc := 10, entry := 5, prog := [(10, (5#4 ++ 2#3 ++ 1#2 ++ 1#1 ++ 1#4 : BitVec 14))], q := [(1, fx 7), (2, fx 3)], a := [(1, 0x3000), (2, 0x3008)] }) 64 1 0x3008).2
abbrev k : BitVec 7 := 64
abbrev an : BitVec 2 := 1
abbrev r : BitVec 3 := 2
abbrev p : Bool := true
abbrev off : BitVec 4 := 1
abbrev l : Nat := 0x203008
abbrev n := k.toNat
abbrev q := s.sq n
abbrev b := q.qv r
abbrev at_ := q.av an + BitVec.ofNat 59 (8 * (match q.pfx with | some e => (e ++ off).toNat | none => off.toNat))
abbrev mem := fun (c : BitVec 4) => ((c ++ r ++ an ++ BitVec.ofBool p ++ off : BitVec 14))
abbrev u := agentWrite t (l / 8) b 255
abbrev met : Prop := ((Fetches s n (mem 5)) ∧ (at_.toNat % 8 = 0) ∧ isPort at_ = false ∧ at_.getLsbD 58 = false ∧ u.sq n = q) ∧ (seqXlate s n 1 at_ = (.ok l, t))
theorem holds : met := by
  refine ⟨?_, excS ?_⟩ <;> decide +kernel
end C10
namespace C11
abbrev s : State := base.setSq 64 { base.sq 64 with st := .running, pc := 10, entry := 5, prog := [(10, (4#4 ++ 2#3 ++ 1#2 ++ 1#1 ++ 1#4 : BitVec 14))], q := [(1, fx 7), (2, fx 3)], a := [(1, 0x3001), (2, 0x3008)] }
abbrev k : BitVec 7 := 64
abbrev an : BitVec 2 := 1
abbrev r : BitVec 3 := 2
abbrev p : Bool := true
abbrev off : BitVec 4 := 1
abbrev n := k.toNat
abbrev q := s.sq n
abbrev at_ := q.av an + BitVec.ofNat 59 (8 * (match q.pfx with | some e => (e ++ off).toNat | none => off.toNat))
abbrev mem := fun (c : BitVec 4) => ((c ++ r ++ an ++ BitVec.ofBool p ++ off : BitVec 14))
abbrev met : Prop := (at_.toNat % 8 ≠ 0) ∧ (Fetches s n (mem 4))
theorem holds : met := by decide +kernel
end C11
namespace C12
abbrev s : State := base.setSq 64 { base.sq 64 with st := .running, pc := 10, entry := 5, prog := [(10, (5#4 ++ 2#3 ++ 1#2 ++ 1#1 ++ 1#4 : BitVec 14))], q := [(1, fx 7), (2, fx 3)], a := [(1, 0x3001), (2, 0x3008)] }
abbrev k : BitVec 7 := 64
abbrev an : BitVec 2 := 1
abbrev r : BitVec 3 := 2
abbrev p : Bool := true
abbrev off : BitVec 4 := 1
abbrev n := k.toNat
abbrev q := s.sq n
abbrev at_ := q.av an + BitVec.ofNat 59 (8 * (match q.pfx with | some e => (e ++ off).toNat | none => off.toNat))
abbrev mem := fun (c : BitVec 4) => ((c ++ r ++ an ++ BitVec.ofBool p ++ off : BitVec 14))
abbrev met : Prop := (at_.toNat % 8 ≠ 0) ∧ (Fetches s n (mem 5))
theorem holds : met := by decide +kernel
end C12
theorem all : C0.met ∧ C1.met ∧ C2.met ∧ C3.met ∧ C4.met ∧ C5.met ∧ C6.met ∧ C7.met ∧ C8.met ∧ C9.met ∧ C10.met ∧ C11.met ∧ C12.met :=
  ⟨C0.holds, C1.holds, C2.holds, C3.holds, C4.holds, C5.holds, C6.holds, C7.holds, C8.holds, C9.holds, C10.holds, C11.holds, C12.holds⟩
end ReedAddressesAndMemory
theorem witness_ReedAddressesAndMemory : ReedAddressesAndMemory.C0.met ∧ ReedAddressesAndMemory.C1.met ∧ ReedAddressesAndMemory.C2.met ∧ ReedAddressesAndMemory.C3.met ∧ ReedAddressesAndMemory.C4.met ∧ ReedAddressesAndMemory.C5.met ∧ ReedAddressesAndMemory.C6.met ∧ ReedAddressesAndMemory.C7.met ∧ ReedAddressesAndMemory.C8.met ∧ ReedAddressesAndMemory.C9.met ∧ ReedAddressesAndMemory.C10.met ∧ ReedAddressesAndMemory.C11.met ∧ ReedAddressesAndMemory.C12.met := ReedAddressesAndMemory.all

namespace ReedControlFlow
namespace C0
abbrev s : State := base.setSq 64 { base.sq 64 with st := .running, pc := 10, entry := 5, prog := [(10, (6#4 ++ (2 : BitVec 3) ++ 0#2 ++ (1 : BitVec 5) : BitVec 14))], q := [(1, fx 7), (2, fx 3)], a := [(1, 0x3000), (2, 0x3008)] }
abbrev k : BitVec 7 := 64
abbrev r : BitVec 3 := 2
abbrev cls : BitVec 5 := 1
abbrev n := k.toNat
abbrev q := s.sq n
abbrev met : Prop := q.pfx = none ∧ (cls.toNat < 30) ∧ (Fetches s n ((6#4 ++ r ++ 0#2 ++ cls : BitVec 14)))
theorem holds : met := by decide +kernel
end C0
namespace C1
abbrev s : State := base.setSq 64 { base.sq 64 with st := .running, pc := 10, entry := 5, prog := [(10, (6#4 ++ (2 : BitVec 3) ++ 1#2 ++ (1 : BitVec 5) : BitVec 14))], q := [(1, fx 7), (2, fx 3)], a := [(1, 0x3000), (2, 0x3008)] }
abbrev k : BitVec 7 := 64
abbrev r : BitVec 3 := 2
abbrev cls : BitVec 5 := 1
abbrev n := k.toNat
abbrev q := s.sq n
abbrev met : Prop := (Fetches s n ((6#4 ++ r ++ 1#2 ++ cls : BitVec 14))) ∧ ((match q.pfx with | some x => (x ++ cls).toNat | none => cls.toNat) ≤ 0x3FF)
theorem holds : met := by decide +kernel
end C1
namespace C2
abbrev s : State := base.setSq 64 { base.sq 64 with st := .running, pc := 10, entry := 5, prog := [(10, (7#4 ++ (0 : BitVec 3) ++ (0x7F : BitVec 7) : BitVec 14))], q := [(1, fx 7), (2, fx 3)], a := [(1, 0x3000), (2, 0x3008)] }
abbrev k : BitVec 7 := 64
abbrev cond : BitVec 3 := 0
abbrev o7 : BitVec 7 := 0x7F
abbrev n := k.toNat
abbrev q := s.sq n
abbrev t7 : Int := q.at_ + (immOf q o7).toInt
abbrev on := fun (t : Int) => 0 ≤ t ∧ t ≤ 4095
abbrev met : Prop := (Fetches s n ((7#4 ++ cond ++ o7 : BitVec 14))) ∧ q.cond cond.toNat = true ∧ on t7
theorem holds : met := by decide +kernel
end C2
namespace C3
abbrev s : State := base.setSq 64 { base.sq 64 with st := .running, pc := 10, entry := 5, prog := [(10, (7#4 ++ (0 : BitVec 3) ++ (0x40 : BitVec 7) : BitVec 14))], q := [(1, fx 7), (2, fx 3)], a := [(1, 0x3000), (2, 0x3008)] }
abbrev k : BitVec 7 := 64
abbrev cond : BitVec 3 := 0
abbrev o7 : BitVec 7 := 0x40
abbrev n := k.toNat
abbrev q := s.sq n
abbrev t7 : Int := q.at_ + (immOf q o7).toInt
abbrev on := fun (t : Int) => 0 ≤ t ∧ t ≤ 4095
abbrev met : Prop := (Fetches s n ((7#4 ++ cond ++ o7 : BitVec 14))) ∧ q.cond cond.toNat = true ∧ (¬ on t7)
theorem holds : met := by decide +kernel
end C3
namespace C4
abbrev s : State := base.setSq 64 { base.sq 64 with st := .running, pc := 10, entry := 5, prog := [(10, (7#4 ++ (7 : BitVec 3) ++ (0x7F : BitVec 7) : BitVec 14))], q := [(1, fx 7), (2, fx 3)], a := [(1, 0x3000), (2, 0x3008)] }
abbrev k : BitVec 7 := 64
abbrev cond : BitVec 3 := 7
abbrev o7 : BitVec 7 := 0x7F
abbrev n := k.toNat
abbrev q := s.sq n
abbrev met : Prop := (Fetches s n ((7#4 ++ cond ++ o7 : BitVec 14))) ∧ q.cond cond.toNat = false
theorem holds : met := by decide +kernel
end C4
namespace C5
abbrev s : State := base.setSq 64 { base.sq 64 with st := .running, pc := 10, entry := 5, prog := [(10, (8#4 ++ 0#1 ++ (0x1FF : BitVec 9) : BitVec 14))], q := [(1, fx 7), (2, fx 3)], a := [(1, 0x3000), (2, 0x3008)], c := 2 }
abbrev k : BitVec 7 := 64
abbrev o9 : BitVec 9 := 0x1FF
abbrev n := k.toNat
abbrev q := s.sq n
abbrev t9 : Int := q.at_ + (immOf q o9).toInt
abbrev on := fun (t : Int) => 0 ≤ t ∧ t ≤ 4095
abbrev c1 := if q.c = 0 then 0 else q.c - 1
abbrev met : Prop := (Fetches s n ((8#4 ++ 0#1 ++ o9 : BitVec 14))) ∧ (c1 ≠ 0) ∧ on t9
theorem holds : met := by decide +kernel
end C5
namespace C6
abbrev s : State := base.setSq 64 { base.sq 64 with st := .running, pc := 10, entry := 5, prog := [(10, (8#4 ++ 0#1 ++ (0x1FF : BitVec 9) : BitVec 14))], q := [(1, fx 7), (2, fx 3)], a := [(1, 0x3000), (2, 0x3008)], c := 1 }
abbrev k : BitVec 7 := 64
abbrev o9 : BitVec 9 := 0x1FF
abbrev n := k.toNat
abbrev q := s.sq n
abbrev c1 := if q.c = 0 then 0 else q.c - 1
abbrev met : Prop := (Fetches s n ((8#4 ++ 0#1 ++ o9 : BitVec 14))) ∧ c1 = 0
theorem holds : met := by decide +kernel
end C6
namespace C7
abbrev s : State := base.setSq 64 { base.sq 64 with st := .running, pc := 10, entry := 5, prog := [(10, (8#4 ++ 1#1 ++ (0x1FF : BitVec 9) : BitVec 14))], q := [(1, fx 7), (2, fx 3)], a := [(1, 0x3000), (2, 0x3008)] }
abbrev k : BitVec 7 := 64
abbrev o9 : BitVec 9 := 0x1FF
abbrev n := k.toNat
abbrev q := s.sq n
abbrev t9 : Int := q.at_ + (immOf q o9).toInt
abbrev on := fun (t : Int) => 0 ≤ t ∧ t ≤ 4095
abbrev met : Prop := (Fetches s n ((8#4 ++ 1#1 ++ o9 : BitVec 14))) ∧ q.c = 0 ∧ on t9
theorem holds : met := by decide +kernel
end C7
namespace C8
abbrev s : State := base.setSq 64 { base.sq 64 with st := .running, pc := 10, entry := 5, prog := [(10, (8#4 ++ 1#1 ++ (0x1FF : BitVec 9) : BitVec 14))], q := [(1, fx 7), (2, fx 3)], a := [(1, 0x3000), (2, 0x3008)], c := 2 }
abbrev k : BitVec 7 := 64
abbrev o9 : BitVec 9 := 0x1FF
abbrev n := k.toNat
abbrev q := s.sq n
abbrev met : Prop := (Fetches s n ((8#4 ++ 1#1 ++ o9 : BitVec 14))) ∧ (q.c ≠ 0)
theorem holds : met := by decide +kernel
end C8
namespace C9
abbrev s : State := base.setSq 64 { base.sq 64 with st := .running, pc := 10, entry := 5, prog := [(10, (11#4 ++ 0#1 ++ (0x1FF : BitVec 9) : BitVec 14))], q := [(1, fx 7), (2, fx 3)], a := [(1, 0x3000), (2, 0x3008)] }
abbrev k : BitVec 7 := 64
abbrev o9 : BitVec 9 := 0x1FF
abbrev n := k.toNat
abbrev q := s.sq n
abbrev t9 : Int := q.at_ + (immOf q o9).toInt
abbrev on := fun (t : Int) => 0 ≤ t ∧ t ≤ 4095
abbrev met : Prop := (Fetches s n ((11#4 ++ 0#1 ++ o9 : BitVec 14))) ∧ on t9 ∧ (q.stack.length < 8)
theorem holds : met := by decide +kernel
end C9
namespace C10
abbrev s : State := base.setSq 64 { base.sq 64 with st := .running, pc := 10, entry := 5, prog := [(10, (11#4 ++ 0#1 ++ (0x1FF : BitVec 9) : BitVec 14))], q := [(1, fx 7), (2, fx 3)], a := [(1, 0x3000), (2, 0x3008)], stack := List.replicate 8 3 }
abbrev k : BitVec 7 := 64
abbrev o9 : BitVec 9 := 0x1FF
abbrev n := k.toNat
abbrev q := s.sq n
abbrev t9 : Int := q.at_ + (immOf q o9).toInt
abbrev on := fun (t : Int) => 0 ≤ t ∧ t ≤ 4095
abbrev met : Prop := (Fetches s n ((11#4 ++ 0#1 ++ o9 : BitVec 14))) ∧ on t9 ∧ (8 ≤ q.stack.length)
theorem holds : met := by decide +kernel
end C10
namespace C11
abbrev s : State := base.setSq 64 { base.sq 64 with st := .running, pc := 10, entry := 5, prog := [(10, (11#4 ++ 1#1 ++ 0#9 : BitVec 14))], q := [(1, fx 7), (2, fx 3)], a := [(1, 0x3000), (2, 0x3008)], stack := [12, 3] }
abbrev k : BitVec 7 := 64
abbrev a : BitVec 12 := 12
abbrev as : List (BitVec 12) := [3]
abbrev n := k.toNat
abbrev q := s.sq n
abbrev met : Prop := q.pfx = none ∧ (Fetches s n ((11#4 ++ 1#1 ++ 0#9 : BitVec 14))) ∧ (q.stack = a :: as)
theorem holds : met := by decide +kernel
end C11
namespace C12
abbrev s : State := base.setSq 64 { base.sq 64 with st := .running, pc := 10, entry := 5, prog := [(10, (11#4 ++ 1#1 ++ 0#9 : BitVec 14))], q := [(1, fx 7), (2, fx 3)], a := [(1, 0x3000), (2, 0x3008)] }
abbrev k : BitVec 7 := 64
abbrev n := k.toNat
abbrev q := s.sq n
abbrev met : Prop := q.pfx = none ∧ (Fetches s n ((11#4 ++ 1#1 ++ 0#9 : BitVec 14))) ∧ (q.stack = [])
theorem holds : met := by decide +kernel
end C12
namespace C13
abbrev s : State := base.setSq 64 { base.sq 64 with st := .running, pc := 10, entry := 5, prog := [(10, (12#4 ++ (0x3FF : BitVec 10) : BitVec 14))], q := [(1, fx 7), (2, fx 3)], a := [(1, 0x3000), (2, 0x3008)] }
abbrev k : BitVec 7 := 64
abbrev ext : BitVec 10 := 0x3FF
abbrev n := k.toNat
abbrev q := s.sq n
abbrev met : Prop := q.pfx = none ∧ (Fetches s n ((12#4 ++ ext : BitVec 14)))
theorem holds : met := by decide +kernel
end C13
namespace C14
abbrev s : State := base.setSq 64 { base.sq 64 with st := .running, pc := 10, entry := 5, prog := [(10, (9#4 ++ BitVec.ofBool true ++ 0#2 ++ (2 : BitVec 3) ++ (1 : BitVec 4) : BitVec 14))], q := [(1, fx 7), (2, fx 3)], a := [(1, 0x3000), (2, 0x3008)], events := 2 }
abbrev k : BitVec 7 := 64
abbrev r : BitVec 3 := 2
abbrev m : Bool := true
abbrev e : BitVec 4 := 1
abbrev n := k.toNat
abbrev q := s.sq n
abbrev w := q.qv r
abbrev mask : BitVec 16 := if m then w.payload.setWidth 16 else 1 <<< e.toNat
abbrev hit := q.events &&& mask
abbrev met : Prop := q.pfx = none ∧ (Fetches s n ((9#4 ++ BitVec.ofBool m ++ 0#2 ++ r ++ e : BitVec 14))) ∧ ((m = true → IsInt w)) ∧ (hit ≠ 0)
theorem holds : met := by decide +kernel
end C14
namespace C15
abbrev s : State := base.setSq 64 { base.sq 64 with st := .running, pc := 10, entry := 5, prog := [(10, (9#4 ++ BitVec.ofBool true ++ 0#2 ++ (2 : BitVec 3) ++ (1 : BitVec 4) : BitVec 14))], q := [(1, fx 7), (2, fx 3)], a := [(1, 0x3000), (2, 0x3008)] }
abbrev k : BitVec 7 := 64
abbrev r : BitVec 3 := 2
abbrev m : Bool := true
abbrev e : BitVec 4 := 1
abbrev n := k.toNat
abbrev q := s.sq n
abbrev w := q.qv r
abbrev mask : BitVec 16 := if m then w.payload.setWidth 16 else 1 <<< e.toNat
abbrev hit := q.events &&& mask
abbrev met : Prop := q.pfx = none ∧ (Fetches s n ((9#4 ++ BitVec.ofBool m ++ 0#2 ++ r ++ e : BitVec 14))) ∧ ((m = true → IsInt w)) ∧ hit = 0
theorem holds : met := by decide +kernel
end C15
namespace C16
abbrev s : State := (base.setSq 64 { base.sq 64 with st := .running, pc := 10, entry := 5, prog := [(10, (10#4 ++ (2 : BitVec 3) ++ 0#7 : BitVec 14))], q := [(2, fx (3*4))], a := [(1, 0x3000), (2, 0x3008)] }).setChan 3 { base.chan 3 with st := .running }
abbrev k : BitVec 7 := 64
abbrev r : BitVec 3 := 2
abbrev n := k.toNat
abbrev q := s.sq n
abbrev w := q.qv r
abbrev target := bitsN w.payload 2 7
abbrev met : Prop := q.pfx = none ∧ (Fetches s n ((10#4 ++ r ++ 0#7 : BitVec 14))) ∧ IsInt w ∧ storesOutOf s n = 0 ∧ bitsN w.payload 29 35 = 0 ∧ bitsN w.payload 0 2 = 0 ∧ (target < 64) ∧ ((s.chan target).owner = seqWorld s n) ∧ ((s.chan target).st = .running)
theorem holds : met := by decide +kernel
end C16
namespace C17
abbrev s : State := base.setSq 64 { base.sq 64 with st := .running, pc := 10, entry := 5, prog := [(10, (10#4 ++ (2 : BitVec 3) ++ 0#7 : BitVec 14))], q := [(2, fx (1 + 65*4 + 3*512))], a := [(1, 0x3000), (2, 0x3008)] }
abbrev k : BitVec 7 := 64
abbrev r : BitVec 3 := 2
abbrev n := k.toNat
abbrev q := s.sq n
abbrev w := q.qv r
abbrev target := bitsN w.payload 2 7
abbrev met : Prop := q.pfx = none ∧ (Fetches s n ((10#4 ++ r ++ 0#7 : BitVec 14))) ∧ IsInt w ∧ storesOutOf s n = 0 ∧ bitsN w.payload 29 35 = 0 ∧ bitsN w.payload 0 2 = 1 ∧ (target < 100) ∧ (seqHost target = seqHost n) ∧ (seqWorld s target = seqWorld s n) ∧ (target ≠ n) ∧ ((s.sq target).waitM = none)
theorem holds : met := by decide +kernel
end C17
namespace C18
abbrev s : State := base.setSq 64 { base.sq 64 with st := .running, pc := 10, entry := 5, prog := [(10, (10#4 ++ (2 : BitVec 3) ++ 0#7 : BitVec 14))], q := [(2, fx (2 + 3*512 + 160*8192))], a := [(1, 0x3000), (2, 0x3008)] }
abbrev k : BitVec 7 := 64
abbrev r : BitVec 3 := 2
abbrev n := k.toNat
abbrev q := s.sq n
abbrev w := q.qv r
abbrev met : Prop := q.pfx = none ∧ (Fetches s n ((10#4 ++ r ++ 0#7 : BitVec 14))) ∧ IsInt w ∧ storesOutOf s n = 0 ∧ bitsN w.payload 29 35 = 0 ∧ bitsN w.payload 0 2 = 2 ∧ (bitsN w.payload 13 16 < 40960)
theorem holds : met := by decide +kernel
end C18
namespace C19
abbrev s : State := base.setSq 64 { base.sq 64 with st := .running, pc := 10, entry := 5, prog := [(10, (10#4 ++ (2 : BitVec 3) ++ 0#7 : BitVec 14))], q := [(1, fx 7), (2, fx 3)], a := [(1, 0x3000), (2, 0x3008)] }
abbrev k : BitVec 7 := 64
abbrev r : BitVec 3 := 2
abbrev n := k.toNat
abbrev q := s.sq n
abbrev w := q.qv r
abbrev met : Prop := q.pfx = none ∧ (Fetches s n ((10#4 ++ r ++ 0#7 : BitVec 14))) ∧ IsInt w ∧ storesOutOf s n = 0 ∧ bitsN w.payload 29 35 = 0 ∧ bitsN w.payload 0 2 = 3
theorem holds : met := by decide +kernel
end C19
namespace C20
abbrev s : State := (base.setSq 3 { base.sq 3 with st := .running, pc := 10, entry := 5, prog := [(10, (15#4 ++ 0#10 : BitVec 14))], q := [(1, fx 7), (2, fx 3)], a := [(1, 0x3000), (2, 0x3008)] }).setChan 3 { base.chan 3 with st := .running, phase := .program }
abbrev k : BitVec 7 := 3
abbrev n := k.toNat
abbrev q := s.sq n
abbrev met : Prop := q.pfx = none ∧ (Fetches s n ((15#4 ++ 0#10 : BitVec 14))) ∧ (n < 64)
theorem holds : met := by decide +kernel
end C20
namespace C21
abbrev s : State := base.setSq 64 { base.sq 64 with st := .running, pc := 10, entry := 5, prog := [(10, (15#4 ++ 0#10 : BitVec 14))], q := [(1, fx 7), (2, fx 3)], a := [(1, 0x3000), (2, 0x3008)] }
abbrev k : BitVec 7 := 64
abbrev n := k.toNat
abbrev q := s.sq n
abbrev met : Prop := q.pfx = none ∧ (Fetches s n ((15#4 ++ 0#10 : BitVec 14))) ∧ (64 ≤ n) ∧ q.irqEn = false
theorem holds : met := by decide +kernel
end C21
namespace C22
abbrev s : State := base.setSq 64 { base.sq 64 with st := .running, pc := 10, entry := 5, prog := [(10, (10#4 ++ 0#3 ++ 1#7 : BitVec 14))], q := [(1, fx 7), (2, fx 3)], a := [(1, 0x3000), (2, 0x3008)] }
abbrev k : BitVec 7 := 64
abbrev bad : BitVec 14 := (10#4 ++ 0#3 ++ 1#7)
abbrev n := k.toNat
abbrev q := s.sq n
abbrev met : Prop := q.pfx = none ∧ reedLegal bad = false ∧ reedReady s n = true ∧ q.progBad.contains q.at_ = false ∧ tgetD q.prog q.at_ 0 = bad
theorem holds : met := by decide +kernel
end C22
namespace C23
abbrev s : State := (base.setSq 3 { base.sq 3 with st := .running, pc := 10, entry := 5, prog := [(10, 0)], q := [(1, fx 7), (2, fx 3)], a := [(1, 0x3000), (2, 0x3008)], lateFault := some (0x3000, 5) }).setChan 3 { base.chan 3 with st := .running, phase := .program }
abbrev k : BitVec 7 := 3
abbrev addr : BitVec 59 := 0x3000
abbrev info : BitVec 64 := 5
abbrev n := k.toNat
abbrev q := s.sq n
abbrev met : Prop := (q.lateFault = some (addr, info)) ∧ q.ld = none ∧ ((s.chan n).errIrq = false)
theorem holds : met := by decide +kernel
end C23
theorem all : C0.met ∧ C1.met ∧ C2.met ∧ C3.met ∧ C4.met ∧ C5.met ∧ C6.met ∧ C7.met ∧ C8.met ∧ C9.met ∧ C10.met ∧ C11.met ∧ C12.met ∧ C13.met ∧ C14.met ∧ C15.met ∧ C16.met ∧ C17.met ∧ C18.met ∧ C19.met ∧ C20.met ∧ C21.met ∧ C22.met ∧ C23.met :=
  ⟨C0.holds, C1.holds, C2.holds, C3.holds, C4.holds, C5.holds, C6.holds, C7.holds, C8.holds, C9.holds, C10.holds, C11.holds, C12.holds, C13.holds, C14.holds, C15.holds, C16.holds, C17.holds, C18.holds, C19.holds, C20.holds, C21.holds, C22.holds, C23.holds⟩
end ReedControlFlow
theorem witness_ReedControlFlow : ReedControlFlow.C0.met ∧ ReedControlFlow.C1.met ∧ ReedControlFlow.C2.met ∧ ReedControlFlow.C3.met ∧ ReedControlFlow.C4.met ∧ ReedControlFlow.C5.met ∧ ReedControlFlow.C6.met ∧ ReedControlFlow.C7.met ∧ ReedControlFlow.C8.met ∧ ReedControlFlow.C9.met ∧ ReedControlFlow.C10.met ∧ ReedControlFlow.C11.met ∧ ReedControlFlow.C12.met ∧ ReedControlFlow.C13.met ∧ ReedControlFlow.C14.met ∧ ReedControlFlow.C15.met ∧ ReedControlFlow.C16.met ∧ ReedControlFlow.C17.met ∧ ReedControlFlow.C18.met ∧ ReedControlFlow.C19.met ∧ ReedControlFlow.C20.met ∧ ReedControlFlow.C21.met ∧ ReedControlFlow.C22.met ∧ ReedControlFlow.C23.met := ReedControlFlow.all

namespace CollectiveOperations
namespace C0
abbrev s : State := base.setGroup 3 { base.group 3 with en := true, root := true }
abbrev w : World := .sys
abbrev grp : BitVec 6 := 3
abbrev n := grp.toNat
abbrev g := s.group n
abbrev go := MayWrite s w (groupBase n + 0x20) 1
abbrev quiet := g.dbEn = false ∧ g.irqEn = false
abbrev met : Prop := go ∧ g.en = true ∧ g.st.busy = false ∧ g.kind = 0 ∧ g.children = 0 ∧ (g.early = []) ∧ quiet ∧ g.root = true
theorem holds : met := by decide +kernel
end C0
namespace C1
abbrev s : State := (base.setGroup 3 { base.group 3 with en := true, parent := 2 }).setPort 2 { st := .up }
abbrev w : World := .sys
abbrev grp : BitVec 6 := 3
abbrev n := grp.toNat
abbrev g := s.group n
abbrev go := MayWrite s w (groupBase n + 0x20) 1
abbrev quiet := g.dbEn = false ∧ g.irqEn = false
abbrev met : Prop := go ∧ g.en = true ∧ g.st.busy = false ∧ g.kind = 0 ∧ g.children = 0 ∧ (g.early = []) ∧ quiet ∧ g.root = false ∧ usable s g.parent.toNat = true
theorem holds : met := by decide +kernel
end C1
namespace C2
abbrev s : State := base.setGroup 3 { base.group 3 with st := .up, lostGo := 254 }
abbrev w : World := .sys
abbrev grp : BitVec 6 := 3
abbrev n := grp.toNat
abbrev g := s.group n
abbrev go := MayWrite s w (groupBase n + 0x20) 1
abbrev met : Prop := go ∧ g.st.busy = true ∧ (g.lostGo < 255)
theorem holds : met := by decide +kernel
end C2
namespace C3
abbrev s : State := base
abbrev w : World := .sys
abbrev grp : BitVec 6 := 3
abbrev n := grp.toNat
abbrev g := s.group n
abbrev go := MayWrite s w (groupBase n + 0x20) 1
abbrev v : BitVec 64 := 5
abbrev down := fun (b : CollMsg) => (childPorts g).map fun p => note s 0 .sys 3 (.coll (BitVec.ofNat 4 p) b)
abbrev met : Prop := go ∧ g.st.busy = false ∧ g.en = false ∧ (MayWrite s w (groupBase n + 0x30) v) ∧ (MayWrite s w (groupBase n + 0x38) v) ∧ (g.st ≠ .up) ∧ (g.st ≠ .down)
theorem holds : met := by decide +kernel
end C3
namespace C4
abbrev s : State := (base.setGroup 3 { base.group 3 with en := true, children := 0b1100, seq := 7, parent := 2, root := true, st := .armed }).setPort 2 { st := .up }
abbrev grp : BitVec 6 := 3
abbrev port : BitVec 4 := 2
abbrev m : CollMsg := ⟨3, false, false, false, 7, 0, 6, 0, []⟩
abbrev n := grp.toNat
abbrev g := s.group n
abbrev arrives := s.mg.mode = .service ∧ (s.port port.toNat).st = .up ∧ (s.port port.toNat).fence = false ∧ m.group = grp ∧ g.en = true
abbrev down := fun (b : CollMsg) => (childPorts g).map fun p => note s 0 .sys 3 (.coll (BitVec.ofNat 4 p) b)
abbrev met : Prop := arrives ∧ m.down = false ∧ g.children.getLsbD port.toNat = true ∧ (m.shape = shapeOf g) ∧ (m.seq = g.seq) ∧ m.err = 0 ∧ ((g.st = .armed ∨ g.st = .up)) ∧ g.upSent = false ∧ g.ready = false ∧ tget g.ups port.toNat = none ∧ ((∀ e ∈ g.ups, e.2.err = 0))
theorem holds : met := by decide +kernel
end C4
namespace C5
abbrev s : State := (base.setGroup 3 { base.group 3 with en := true, children := 0b1000, seq := 7, parent := 2, st := .up, upSent := true }).setPort 2 { st := .up }
abbrev grp : BitVec 6 := 3
abbrev port : BitVec 4 := 2
abbrev m : CollMsg := ⟨3, true, false, false, 7, 0, 6, 0, []⟩
abbrev n := grp.toNat
abbrev g := s.group n
abbrev quiet := g.dbEn = false ∧ g.irqEn = false
abbrev arrives := s.mg.mode = .service ∧ (s.port port.toNat).st = .up ∧ (s.port port.toNat).fence = false ∧ m.group = grp ∧ g.en = true
abbrev down := fun (b : CollMsg) => (childPorts g).map fun p => note s 0 .sys 3 (.coll (BitVec.ofNat 4 p) b)
abbrev met : Prop := arrives ∧ m.down = true ∧ g.root = false ∧ (port = g.parent) ∧ (m.shape = shapeOf g) ∧ (m.seq = g.seq) ∧ g.st.busy = true ∧ g.turned = false ∧ quiet ∧ m.err = 0 ∧ g.kind = 0
theorem holds : met := by decide +kernel
end C5
namespace C6
abbrev s : State := (base.setGroup 3 { base.group 3 with en := true, children := 0b1000, seq := 7, parent := 2, st := .up, upSent := true }).setPort 2 { st := .up }
abbrev grp : BitVec 6 := 3
abbrev port : BitVec 4 := 2
abbrev m : CollMsg := ⟨3, true, false, false, 7, 4, 6, 0, []⟩
abbrev n := grp.toNat
abbrev g := s.group n
abbrev quiet := g.dbEn = false ∧ g.irqEn = false
abbrev arrives := s.mg.mode = .service ∧ (s.port port.toNat).st = .up ∧ (s.port port.toNat).fence = false ∧ m.group = grp ∧ g.en = true
abbrev down := fun (b : CollMsg) => (childPorts g).map fun p => note s 0 .sys 3 (.coll (BitVec.ofNat 4 p) b)
abbrev met : Prop := arrives ∧ m.down = true ∧ g.root = false ∧ (port = g.parent) ∧ (m.shape = shapeOf g) ∧ (m.seq = g.seq) ∧ g.st.busy = true ∧ g.turned = false ∧ quiet ∧ (m.err ≠ 0)
theorem holds : met := by decide +kernel
end C6
namespace C7
abbrev s : State := (base.setGroup 3 { base.group 3 with en := true, children := 0b1000, seq := 7, parent := 2, st := .up, upSent := true }).setPort 2 { st := .up }
abbrev grp : BitVec 6 := 3
abbrev port : BitVec 4 := 2
abbrev m : CollMsg := ⟨3, false, false, false, 7, 0, 6, 0, []⟩
abbrev n := grp.toNat
abbrev g := s.group n
abbrev arrives := s.mg.mode = .service ∧ (s.port port.toNat).st = .up ∧ (s.port port.toNat).fence = false ∧ m.group = grp ∧ g.en = true
abbrev down := fun (b : CollMsg) => (childPorts g).map fun p => note s 0 .sys 3 (.coll (BitVec.ofNat 4 p) b)
abbrev met : Prop := arrives ∧ (((m.down = true ∧ (g.root = true ∨ port ≠ g.parent)) ∨ (m.down = false ∧ g.children.getLsbD port.toNat = false)))
theorem holds : met := by decide +kernel
end C7
namespace C8
abbrev s : State := base.setGroup 3 { base.group 3 with wave := some (5, 5), st := .down, root := true, en := true, children := 4, kind := 2 }
abbrev grp : BitVec 6 := 3
abbrev a : BitVec 64 × BitVec 64 := (5, 5)
abbrev n := grp.toNat
abbrev g := s.group n
abbrev down := fun (b : CollMsg) => (childPorts g).map fun p => note s 0 .sys 3 (.coll (BitVec.ofNat 4 p) b)
abbrev met : Prop := (g.wave = some a) ∧ (g.st = .down) ∧ g.root = true
theorem holds : met := by decide +kernel
end C8
namespace C9
abbrev s : State := base.setGroup 3 { base.group 3 with st := .up }
abbrev grp : BitVec 6 := 3
abbrev n := grp.toNat
abbrev g := s.group n
abbrev quiet := g.dbEn = false ∧ g.irqEn = false
abbrev down := fun (b : CollMsg) => (childPorts g).map fun p => note s 0 .sys 3 (.coll (BitVec.ofNat 4 p) b)
abbrev met : Prop := ((g.st = .up ∨ g.st = .down)) ∧ quiet
theorem holds : met := by decide +kernel
end C9
theorem all : C0.met ∧ C1.met ∧ C2.met ∧ C3.met ∧ C4.met ∧ C5.met ∧ C6.met ∧ C7.met ∧ C8.met ∧ C9.met :=
  ⟨C0.holds, C1.holds, C2.holds, C3.holds, C4.holds, C5.holds, C6.holds, C7.holds, C8.holds, C9.holds⟩
end CollectiveOperations
theorem witness_CollectiveOperations : CollectiveOperations.C0.met ∧ CollectiveOperations.C1.met ∧ CollectiveOperations.C2.met ∧ CollectiveOperations.C3.met ∧ CollectiveOperations.C4.met ∧ CollectiveOperations.C5.met ∧ CollectiveOperations.C6.met ∧ CollectiveOperations.C7.met ∧ CollectiveOperations.C8.met ∧ CollectiveOperations.C9.met := CollectiveOperations.all

namespace RemoteOperations
namespace C0
abbrev s : State := gbase 0x7F
abbrev t : State := (homeLoad (gbase 0x7F) 6 .sys true ga ).2
abbrev h : Hdr := hd 6
abbrev va : BitVec 59 := ga
abbrev w : W := fx 4
abbrev l : Leaf := ⟨0x210, 0x21007F, 3⟩
abbrev shared := pteG l.pte && (!l.pte.getLsbD 4 && decide (0 < dval t 0x3210 0x04))
abbrev met : Prop := (Here s h ∧ shared = false) ∧ (homeLoad s h.src h.world h.sup va = (.ok (w, l), t))
theorem holds : met := by
  refine ⟨?_, excS ?_⟩ <;> decide +kernel
end C0
namespace C1
abbrev s : State := gbase 0x100000000006F
abbrev t : State := (homeLoad (gbase 0x100000000006F) 6 .sys true ga ).2
abbrev h : Hdr := hd 6
abbrev va : BitVec 59 := ga
abbrev w : W := fx 4
abbrev l : Leaf := ⟨0x210, 0x100000021006F, 3⟩
abbrev shared := pteG l.pte && (!l.pte.getLsbD 4 && decide (0 < dval t 0x3210 0x04))
abbrev met : Prop := (Here s h ∧ shared = true ∧ (t.remote.tracker = [])) ∧ (homeLoad s h.src h.world h.sup va = (.ok (w, l), t))
theorem holds : met := by
  refine ⟨?_, excS ?_⟩ <;> decide +kernel
end C1
namespace C2
abbrev s : State := gbase 0
abbrev t : State := (homeLoad (gbase 0) 6 .sys true ga ).2
abbrev h : Hdr := hd 6
abbrev va : BitVec 59 := ga
abbrev f : HF := ⟨0x09, 0x02, 3, 0⟩
abbrev met : Prop := Here s h ∧ (homeLoad s h.src h.world h.sup va = (.error f, t))
theorem holds : met := by
  refine ⟨?_, excT ?_⟩ <;> decide +kernel
end C2
namespace C3
abbrev s : State := gbase 0x7F
abbrev t : State := (homeStore (gbase 0x7F) 6 .sys true ga (fx 8) 3 255).2
abbrev h : Hdr := hd 6
abbrev va : BitVec 59 := ga
abbrev w : W := fx 8
abbrev size : BitVec 2 := 3
abbrev mask : BitVec 8 := 255
abbrev met : Prop := Here s h ∧ (homeStore s h.src h.world h.sup va w size.toNat mask = (.ok (), t))
theorem holds : met := by
  refine ⟨?_, excS ?_⟩ <;> decide +kernel
end C3
namespace C4
abbrev s : State := gbase 0
abbrev t : State := (homeStore (gbase 0) 6 .sys true ga (fx 8) 3 255).2
abbrev h : Hdr := hd 6
abbrev va : BitVec 59 := ga
abbrev w : W := fx 8
abbrev size : BitVec 2 := 3
abbrev mask : BitVec 8 := 255
abbrev f : HF := ⟨0x09, 0x02, 3, 1⟩
abbrev met : Prop := Here s h ∧ (homeStore s h.src h.world h.sup va w size.toNat mask = (.error f, t))
theorem holds : met := by
  refine ⟨?_, excT ?_⟩ <;> decide +kernel
end C4
namespace C5
abbrev s : State := gbase 0x7F
abbrev t : State := (homeAtom (gbase 0x7F) 6 .sys true ga 0 (fx 5) nilW).2
abbrev h : Hdr := hd 6
abbrev va : BitVec 59 := ga
abbrev old : W := fx 4
abbrev rt : W := fx 5
abbrev rd : W := nilW
abbrev op : BitVec 3 := 0
abbrev met : Prop := Here s h ∧ (homeAtom s h.src h.world h.sup va op.toNat rt rd = (.ok old, t))
theorem holds : met := by
  refine ⟨?_, excS ?_⟩ <;> decide +kernel
end C5
namespace C6
abbrev s : State := gbase 0
abbrev t : State := (homeAtom (gbase 0) 6 .sys true ga 0 (fx 5) nilW).2
abbrev h : Hdr := hd 6
abbrev va : BitVec 59 := ga
abbrev rt : W := fx 5
abbrev rd : W := nilW
abbrev op : BitVec 3 := 0
abbrev f : HF := ⟨0x09, 0x02, 3, 3⟩
abbrev met : Prop := Here s h ∧ (homeAtom s h.src h.world h.sup va op.toNat rt rd = (.error f, t))
theorem holds : met := by
  refine ⟨?_, excT ?_⟩ <;> decide +kernel
end C6
namespace C7
abbrev s : State := base
abbrev h : Hdr := hd 6
abbrev lcn : BitVec 16 := 160
abbrev gen : BitVec 16 := 1
abbrev met : Prop := Here s h ∧ (noBells (modeAt s (tileOf (coreOf lcn.toNat))) = false) ∧ (lcn.toNat < 40960) ∧ ((s.ctx lcn.toNat).dir.state ≠ .stub) ∧ ((s.ctx lcn.toNat).dir.gen = gen) ∧ (h.dest = devNo s) ∧ findOp s h = none ∧ (((s.world h.world).prod - (s.world h.world).cons).toNat ≠ 64)
theorem holds : met := by decide +kernel
end C7
namespace C8
abbrev s : State := base
abbrev h : Hdr := hd 6
abbrev lcn : BitVec 16 := 160
abbrev gen : BitVec 16 := 2
abbrev met : Prop := Here s h ∧ (noBells (modeAt s (tileOf (coreOf lcn.toNat))) = false) ∧ (lcn.toNat < 40960) ∧ ((s.ctx lcn.toNat).dir.state ≠ .stub) ∧ ((s.ctx lcn.toNat).dir.gen ≠ gen)
theorem holds : met := by decide +kernel
end C8
namespace C9
abbrev s : State := rwt false
abbrev h : Hdr := hd 6
abbrev n : BitVec 16 := 0
abbrev o : OutOp := ope false
abbrev p : Pend := { word := 0, why := .remote, needs := some 4 }
abbrev c := s.ctx n.toNat
abbrev ws : List W := (List.replicate 16 (fx 3))
abbrev met : Prop := (Answers s h o ∧ (o.owner = .exec (.ctx n)) ∧ (s.host.barQ = []) ∧ o.posted = false ∧ WaitsFor s n.toNat h.slot.toNat p ∧ (c.dir.wait ≠ 2) ∧ ws.length = 16 ∧ (o.acc ≠ 3)) ∧ ((∀ m, (s.ctx m).dir.wait ≠ 3))
theorem holds : met := by
  refine ⟨?_, by exact all_ctx (p := fun c => c.dir.wait ≠ 3) (by decide) (by decide +kernel)⟩ <;> decide +kernel
end C9
namespace C10
abbrev s : State := rwt true
abbrev h : Hdr := hd 6
abbrev n : BitVec 16 := 0
abbrev o : OutOp := ope true
abbrev c := s.ctx n.toNat
abbrev met : Prop := (Answers s h o ∧ (o.owner = .exec (.ctx n)) ∧ (s.host.barQ = []) ∧ o.posted = true ∧ (c.dir.wait ≠ 2) ∧ c.dir.dying = false ∧ c.sfault = none ∧ (c.dir.state ≠ .migrating)) ∧ ((∀ m, (s.ctx m).dir.wait ≠ 3))
theorem holds : met := by
  refine ⟨?_, by exact all_ctx (p := fun c => c.dir.wait ≠ 3) (by decide) (by decide +kernel)⟩ <;> decide +kernel
end C10
namespace C11
abbrev s : State := base
abbrev h : Hdr := { hd 6 with dest := 4 }
abbrev met : Prop := (h.dest ≠ devNo s)
theorem holds : met := by decide +kernel
end C11
theorem all : C0.met ∧ C1.met ∧ C2.met ∧ C3.met ∧ C4.met ∧ C5.met ∧ C6.met ∧ C7.met ∧ C8.met ∧ C9.met ∧ C10.met ∧ C11.met :=
  ⟨C0.holds, C1.holds, C2.holds, C3.holds, C4.holds, C5.holds, C6.holds, C7.holds, C8.holds, C9.holds, C10.holds, C11.holds⟩
end RemoteOperations
theorem witness_RemoteOperations : RemoteOperations.C0.met ∧ RemoteOperations.C1.met ∧ RemoteOperations.C2.met ∧ RemoteOperations.C3.met ∧ RemoteOperations.C4.met ∧ RemoteOperations.C5.met ∧ RemoteOperations.C6.met ∧ RemoteOperations.C7.met ∧ RemoteOperations.C8.met ∧ RemoteOperations.C9.met ∧ RemoteOperations.C10.met ∧ RemoteOperations.C11.met := RemoteOperations.all

namespace Migration
namespace C0
abbrev s : State := ctx0 base fun c => { c with slot := none, migVa := 0x400000000000000 + 6*0x40000000000, migId := 7, migSent := false, dir := { c.dir with state := .migrating, events := 6 } }
abbrev lcn : BitVec 16 := 0
abbrev core : Nat := 0
abbrev c := s.ctx lcn.toNat
abbrev k := s.core (coreOf lcn.toNat)
abbrev mine := fun (p : PStore) => p.who == .ctx (BitVec.ofNat 16 lcn.toNat)
abbrev met : Prop := (c.dir.state = .migrating) ∧ c.migSent = false ∧ c.slot = none ∧ c.dir.storesOut = 0 ∧ k.stores.any mine = false ∧ k.appends.any mine = false
theorem holds : met := by decide +kernel
end C0
namespace C1
abbrev s : State := gbase 0x7F
abbrev t : State := (admission (gbase 0x7F) (hd 6) pk).2
abbrev h : Hdr := hd 6
abbrev pkt : MigPacket := pk
abbrev core : Nat := ((admission (gbase 0x7F) (hd 6) pk).1.toOption.getD 0)
abbrev met : Prop := Here s h ∧ (admission s h pkt = (.ok core, t))
theorem holds : met := by
  refine ⟨?_, excS ?_⟩ <;> decide +kernel
end C1
namespace C2
abbrev s : State := gbase 0
abbrev t : State := (admission (gbase 0) (hd 6) pk).2
abbrev h : Hdr := hd 6
abbrev pkt : MigPacket := pk
abbrev reason : Nat := 3
abbrev met : Prop := Here s h ∧ (admission s h pkt = (.error reason, t))
theorem holds : met := by
  refine ⟨?_, excT ?_⟩ <;> decide +kernel
end C2
namespace C3
abbrev s : State := ctx0 base fun c => { c with slot := none, migVa := 0x400000000000000 + 6*0x40000000000, migId := 7, migSent := true, dir := { c.dir with state := .migrating, events := 0 } }
abbrev h : Hdr := hd 6
abbrev n : Nat := 0
abbrev id : BitVec 32 := 7
abbrev outcome : BitVec 2 := 1
abbrev lcn : BitVec 16 := 0
abbrev c := s.ctx lcn.toNat
abbrev met : Prop := (h.dest = devNo s) ∧ (migrating s h id = some n) ∧ ((s.ctx n).dir.events = 0) ∧ (outcome ≠ 0) ∧ (c.dir.state = .migrating) ∧ c.migSent = true
theorem holds : met := by decide +kernel
end C3
namespace C4
abbrev s : State := base
abbrev h : Hdr := hd 6
abbrev id : BitVec 32 := 7
abbrev lcn : BitVec 16 := 0
abbrev c := s.ctx lcn.toNat
abbrev v : BitVec 64 := 0x0002000100050000 + 160
abbrev home : BitVec 16 := v.extractLsb' 16 16
abbrev target : BitVec 16 := v.extractLsb' 0 16
abbrev met : Prop := (h.dest = devNo s) ∧ migrating s h id = none ∧ ((s.remote.admitted.all fun e => !(e.1 == h.src && e.2.1 == id)) = true) ∧ (c.dir.state ≠ .stub) ∧ (canIssue s (.ctx lcn) = true) ∧ (home = devNo s) ∧ (target.toNat < 40960) ∧ ((s.ctx target.toNat).dir.state ≠ .stub) ∧ ((s.ctx target.toNat).dir.gen = v.extractLsb' 32 16)
theorem holds : met := by decide +kernel
end C4
namespace C5
abbrev s : State := { base with remote := { base.remote with admitted := [(6, 7, true, 0, 0x60003, 2)] } }
abbrev h : Hdr := hd 6
abbrev id : BitVec 32 := 7
abbrev ni : BitVec 32 := 0x60003
abbrev ng : BitVec 16 := 2
abbrev met : Prop := (h.dest = devNo s) ∧ (s.remote.admitted = [(h.src, id, true, 0, ni, ng)])
theorem holds : met := by decide +kernel
end C5
namespace C6
abbrev s : State := ctx0 base fun c => { c with dir := { c.dir with state := .stub, stub := 2 } }
abbrev lcn : BitVec 16 := 0
abbrev c := s.ctx lcn.toNat
abbrev met : Prop := (c.dir.state = .stub) ∧ c.dir.dying = false
theorem holds : met := by decide +kernel
end C6
namespace C7
abbrev s : State := (up 0 fun q => q)
abbrev lcn : BitVec 16 := 0
abbrev v : BitVec 64 := 0x0002000100010000 + 160
abbrev c := s.ctx lcn.toNat
abbrev home : BitVec 16 := v.extractLsb' 16 16
abbrev met : Prop := (canIssue s (.ctx lcn) = true) ∧ (home ≠ devNo s) ∧ (c.dir.storesOut ≠ 0xFFF) ∧ unreachable s home = none ∧ ((freeOp s.remote.ops).isSome = true)
theorem holds : met := by decide +kernel
end C7
theorem all : C0.met ∧ C1.met ∧ C2.met ∧ C3.met ∧ C4.met ∧ C5.met ∧ C6.met ∧ C7.met :=
  ⟨C0.holds, C1.holds, C2.holds, C3.holds, C4.holds, C5.holds, C6.holds, C7.holds⟩
end Migration
theorem witness_Migration : Migration.C0.met ∧ Migration.C1.met ∧ Migration.C2.met ∧ Migration.C3.met ∧ Migration.C4.met ∧ Migration.C5.met ∧ Migration.C6.met ∧ Migration.C7.met := Migration.all

namespace LinkLayer
namespace C0
abbrev s : State := (up 0 fun q => q)
abbrev port : BitVec 4 := 0
abbrev f : Flit := fli 0 5 0 15 []
abbrev p := port.toNat
abbrev h : Hdr := ⟨1, 6, 9, .sys, true, 4, 1⟩
abbrev vc : BitVec 3 := 0
abbrev d1 : Bool := false
abbrev len : BitVec 6 := 2
abbrev q := s.port p
abbrev lane : BitVec 3 := 3
abbrev met : Prop := FlitAt s p 0 f ∧ (h.dest ≠ devNo s) ∧ portsRun s.mg.mode = true ∧ (q.st = .up) ∧ (routeOf s h vc.toNat (some p) len.toNat d1 = .wait) ∧ q.rxFailed = none ∧ (lane.toNat < 4) ∧ q.lowPower = false
theorem holds : met := by decide +kernel
end C0
namespace C1
abbrev s : State := (up 0 fun q => q)
abbrev port : BitVec 4 := 0
abbrev f : Flit := fli 0 5 2 15 []
abbrev p := port.toNat
abbrev q := s.port p
abbrev h : Hdr := ⟨1, 6, 9, .sys, true, 4, 1⟩
abbrev vc : BitVec 3 := 3
abbrev d1 : Bool := false
abbrev len : BitVec 6 := 2
abbrev met : Prop := FlitAt s p 2 f ∧ (f.seq = q.rxSeq) ∧ (h.dest ≠ devNo s) ∧ portsRun s.mg.mode = true ∧ (q.st = .up) ∧ (routeOf s h vc.toNat (some p) len.toNat d1 = .discard)
theorem holds : met := by decide +kernel
end C1
namespace C2
abbrev s : State := (up 0 fun q => q)
abbrev port : BitVec 4 := 0
abbrev f : Flit := fli 0 5 1 15 []
abbrev p := port.toNat
abbrev q := s.port p
abbrev met : Prop := FlitAt s p 1 f ∧ (f.seq = q.rxSeq) ∧ (q.partial_ = []) ∧ f.first = 15
theorem holds : met := by decide +kernel
end C2
namespace C3
abbrev s : State := (up 0 fun q => q)
abbrev port : BitVec 4 := 0
abbrev f : Flit := fli 0 5 1 0 ([0x12, 1, 0, 0, 0, 0, 0, 0, 4] ++ List.replicate 7 0 : List (BitVec 8))
abbrev m : List (BitVec 8) := ([0x12, 1, 0, 0, 0, 0, 0, 0, 4] ++ List.replicate 7 0 : List (BitVec 8))
abbrev p := port.toNat
abbrev q := s.port p
abbrev met : Prop := FlitAt s p 1 f ∧ (f.seq = q.rxSeq) ∧ (q.partial_ = []) ∧ f.first = 0 ∧ (f.area = m ++ List.replicate (240 - m.length) 0) ∧ (m.length = 16 * unitsIn m) ∧ (0 < unitsIn m) ∧ (m.length < 240) ∧ forUs s m = true ∧ (lenOk (m.getD 0 0).toNat (unitsIn m) = true)
theorem holds : met := by decide +kernel
end C3
namespace C4
abbrev s : State := (up 0 fun q => q)
abbrev port : BitVec 4 := 0
abbrev f : Flit := fli 0 5 1 0 ([0x12, 1, 9, 0] ++ List.replicate 12 0 : List (BitVec 8))
abbrev m : List (BitVec 8) := ([0x12, 1, 9, 0] ++ List.replicate 12 0 : List (BitVec 8))
abbrev p := port.toNat
abbrev q := s.port p
abbrev met : Prop := FlitAt s p 1 f ∧ (f.seq = q.rxSeq) ∧ (q.partial_ = []) ∧ f.first = 0 ∧ (f.area = m ++ List.replicate (240 - m.length) 0) ∧ (m.length = 16 * unitsIn m) ∧ (0 < unitsIn m) ∧ (m.length < 240) ∧ forUs s m = false
theorem holds : met := by decide +kernel
end C4
namespace C5
abbrev s : State := (up 0 fun q => { q with recovery := true })
abbrev port : BitVec 4 := 0
abbrev f : Flit := fli 2 5 1 15 []
abbrev p := port.toNat
abbrev q := s.port p
abbrev met : Prop := FlitAt s p 1 f ∧ (f.seq ≠ q.rxSeq) ∧ q.recovery = true
theorem holds : met := by decide +kernel
end C5
namespace C6
abbrev s : State := (up 0 fun q => { q with sentNaks := 14 })
abbrev port : BitVec 4 := 0
abbrev f : Flit := fli 2 5 1 15 []
abbrev p := port.toNat
abbrev q := s.port p
abbrev met : Prop := FlitAt s p 1 f ∧ (f.seq ≠ q.rxSeq) ∧ q.recovery = false ∧ (q.sentNaks < 15)
theorem holds : met := by decide +kernel
end C6
namespace C7
abbrev s : State := (up 0 fun q => { q with replay := [fli 7 0 2 15 []] })
abbrev port : BitVec 4 := 0
abbrev f : Flit := fli 0 5 3 15 []
abbrev p := port.toNat
abbrev q := s.port p
abbrev met : Prop := FlitAt s p 3 f ∧ ((acked s p 3 f).replay ≠ []) ∧ q.naks = 0
theorem holds : met := by decide +kernel
end C7
namespace C8
abbrev s : State := (up 0 fun q => q)
abbrev port : BitVec 4 := 0
abbrev f : Flit := fli 0 5 5 15 [3]
abbrev lane : BitVec 3 := 3
abbrev p := port.toNat
abbrev q := s.port p
abbrev met : Prop := FlitAt s p 5 f ∧ (f.seq = q.rxSeq) ∧ (f.area.getD 0 0 = lane.setWidth 8) ∧ (lane.toNat ≤ 3) ∧ q.txFailed = none
theorem holds : met := by decide +kernel
end C8
namespace C9
abbrev s : State := (up 0 fun q => q)
abbrev port : BitVec 4 := 0
abbrev f : Flit := fli 0 5 6 15 [3]
abbrev p := port.toNat
abbrev met : Prop := FlitAt s p 6 f ∧ (1 ≤ (f.area.getD 0 0).toNat) ∧ ((f.area.getD 0 0).toNat ≤ 3)
theorem holds : met := by decide +kernel
end C9
namespace C10
abbrev s : State := dims2 (base.setPort 0 { st := .init })
abbrev port : BitVec 4 := 0
abbrev f : Flit := fli 0 65535 4 15 ([1, 0, 1, 0x11, 0x11, 1] : List (BitVec 8))
abbrev k : Nat := 0
abbrev p := port.toNat
abbrev q := s.port p
abbrev met : Prop := (q.st = .init) ∧ flitGood f = true ∧ f.ftype = 4 ∧ (portDir s p = some k) ∧ (k % 2 = 0) ∧ (BitVec.ofNat 16 (ofBytes (f.area.take 2)) = neighbour s k) ∧ (BitVec.ofNat 16 (ofBytes ((f.area.drop 3).take 2)) = s.svc.dims) ∧ ((f.area.getD 5 0).toNat = k + 1)
theorem holds : met := by decide +kernel
end C10
namespace C11
abbrev s : State := (up 0 fun q => q)
abbrev port : BitVec 4 := 0
abbrev f : Flit := { fli 0 0 0 15 [] with crc := 0 }
abbrev p := port.toNat
abbrev q := s.port p
abbrev met : Prop := (q.st = .up) ∧ flitGood f = false ∧ f.fecOk = true ∧ (q.sentNaks < 15)
theorem holds : met := by decide +kernel
end C11
namespace C12
abbrev s : State := (up 0 fun q => { q with credits := fullCredits })
abbrev port : BitVec 4 := 0
abbrev h : Hdr := ⟨1, 6, 9, .sys, true, 4, 1⟩
abbrev vc : BitVec 3 := 1
abbrev d1 : Bool := false
abbrev e1 : Bool := false
abbrev len : BitVec 6 := 2
abbrev k : Nat := 0
abbrev v : Nat := 1
abbrev p := port.toNat
abbrev q := s.port p
abbrev met : Prop := (h.dest ≠ devNo s) ∧ portsRun s.mg.mode = true ∧ (q.st = .up) ∧ (routeOf s h vc.toNat (some p) len.toNat d1 = .onward k v e1)
theorem holds : met := by decide +kernel
end C12
namespace C13
abbrev s : State := (up 0 fun q => { q with recovery := true, sentNaks := 14 })
abbrev port : BitVec 4 := 0
abbrev p := port.toNat
abbrev q := s.port p
abbrev met : Prop := (q.st = .up) ∧ q.recovery = true ∧ (q.sentNaks < 15)
theorem holds : met := by decide +kernel
end C13
namespace C14
abbrev s : State := base.setPort 0 { st := .training, trained := 31, locked := 0b10111, lanePos := [(0, 0), (1, 1), (2, 2)] }
abbrev port : BitVec 4 := 0
abbrev lane : BitVec 3 := 3
abbrev pos : BitVec 3 := 3
abbrev p := port.toNat
abbrev q := s.port p
abbrev met : Prop := (q.st = .training) ∧ (pos.toNat < 4) ∧ q.trained.getLsbD lane.toNat = true ∧ (q.locked ||| ((1 : BitVec 5) <<< lane.toNat) = q.trained) ∧ (lanesFull { q with locked := q.trained, lanePos := tset q.lanePos lane.toNat pos } = true)
theorem holds : met := by decide +kernel
end C14
namespace C15
abbrev s : State := setDval (dims2 base) 0x0C10 1 16
abbrev port : BitVec 4 := 0
abbrev p := port.toNat
abbrev q := s.port p
abbrev met : Prop := portsRun s.mg.mode = true ∧ portWanted s p = true ∧ (q.st ≠ .up)
theorem holds : met := by decide +kernel
end C15
namespace C16
abbrev s : State := base
abbrev port : BitVec 4 := 0
abbrev p := port.toNat
abbrev met : Prop := usable s p = false
theorem holds : met := by decide +kernel
end C16
namespace C17
abbrev s : State := { (up 0 fun q => q) with mg := { base.mg with mode := .drowse } }
abbrev port : BitVec 4 := 0
abbrev p := port.toNat
abbrev q := s.port p
abbrev met : Prop := (s.mg.mode = .drowse) ∧ (q.st = .up)
theorem holds : met := by decide +kernel
end C17
namespace C18
abbrev s : State := { (up 0 fun q => q) with mg := { base.mg with mode := .safe } }
abbrev port : BitVec 4 := 0
abbrev p := port.toNat
abbrev q := s.port p
abbrev met : Prop := (s.mg.mode = .safe) ∧ (q.st = .up)
theorem holds : met := by decide +kernel
end C18
theorem all : C0.met ∧ C1.met ∧ C2.met ∧ C3.met ∧ C4.met ∧ C5.met ∧ C6.met ∧ C7.met ∧ C8.met ∧ C9.met ∧ C10.met ∧ C11.met ∧ C12.met ∧ C13.met ∧ C14.met ∧ C15.met ∧ C16.met ∧ C17.met ∧ C18.met :=
  ⟨C0.holds, C1.holds, C2.holds, C3.holds, C4.holds, C5.holds, C6.holds, C7.holds, C8.holds, C9.holds, C10.holds, C11.holds, C12.holds, C13.holds, C14.holds, C15.holds, C16.holds, C17.holds, C18.holds⟩
end LinkLayer
theorem witness_LinkLayer : LinkLayer.C0.met ∧ LinkLayer.C1.met ∧ LinkLayer.C2.met ∧ LinkLayer.C3.met ∧ LinkLayer.C4.met ∧ LinkLayer.C5.met ∧ LinkLayer.C6.met ∧ LinkLayer.C7.met ∧ LinkLayer.C8.met ∧ LinkLayer.C9.met ∧ LinkLayer.C10.met ∧ LinkLayer.C11.met ∧ LinkLayer.C12.met ∧ LinkLayer.C13.met ∧ LinkLayer.C14.met ∧ LinkLayer.C15.met ∧ LinkLayer.C16.met ∧ LinkLayer.C17.met ∧ LinkLayer.C18.met := LinkLayer.all

namespace HostInterface
namespace C0
abbrev s : State := { (base) with mg := { base.mg with mode := .loader }, host := { base.host with link := 1, errCnt := 0 } }
abbrev off2 : BitVec 26 := 0x3EFFFFE
abbrev bytes : List (BitVec 8) := [1, 2]
abbrev free := s.mg.mode = .loader ∧ s.mg.start.running = false ∧ s.mg.start.relay = false
abbrev met : Prop := linkUp s = true ∧ free ∧ (off2.toNat + bytes.length ≤ 0x3F00000) ∧ (0 < bytes.length) ∧ hostRefused s.mg.mode = true
theorem holds : met := by decide +kernel
end C0
namespace C1
abbrev s : State := { (base) with mg := { base.mg with mode := .service }, host := { base.host with link := 1, errCnt := 0 } }
abbrev off2 : BitVec 26 := 0x3EFFFFE
abbrev v : BitVec 64 := 1 <<< 63
abbrev bit : Nat := 63
abbrev met : Prop := linkUp s = true ∧ (s.mg.mode ≠ .loader) ∧ (off2.toNat < 0x3F00000) ∧ ((hostRefused s.mg.mode = true ∨ barOpen s = false)) ∧ (s.mg.mode ≠ .drowse) ∧ hostRefused s.mg.mode = false ∧ hostBusy s = false ∧ (bit < 64) ∧ (v = 1 <<< bit)
theorem holds : met := by decide +kernel
end C1
namespace C2
abbrev s : State := { (gbase 0x7F) with mg := { base.mg with mode := .service }, host := { base.host with link := 1, barEn := true, barBase := ga, barSize := 1 } }
abbrev t : State := (homeLoad { (freeOpSlot ({ (gbase 0x7F) with mg := { base.mg with mode := .service }, host := { base.host with link := 1, barEn := true, barBase := ga, barSize := 1 } }) 0) with host := { ({ (gbase 0x7F) with mg := { base.mg with mode := .service }, host := { base.host with link := 1, barEn := true, barBase := ga, barSize := 1 } }).host with barQ := [] } } 5 .sys true (barVa ({ (gbase 0x7F) with mg := { base.mg with mode := .service }, host := { base.host with link := 1, barEn := true, barBase := ga, barSize := 1 } }) 0)).2
abbrev off : BitVec 38 := 0
abbrev len : BitVec 13 := 8
abbrev w : W := fx 4
abbrev l : Leaf := ⟨0x210, 0x21007F, 3⟩
abbrev h := s.host
abbrev met : Prop := (linkUp s = true ∧ (s.mg.mode = .service) ∧ barOpen s = true ∧ (h.barQ = []) ∧ h.barOut = 0 ∧ (off.toNat % 8 = 0) ∧ len = 8 ∧ (homeDev (barVa s off.toNat) = devNo s) ∧ (unreachable s (devNo s) = none) ∧ (s.remote.ops = []) ∧ (t.host.barQ = []) ∧ (w.tag ≠ 0x301)) ∧ (homeLoad { (freeOpSlot s 0) with host := { h with barQ := [] } } (devNo s) h.barW true (barVa s off.toNat) = (.ok (w, l), t))
theorem holds : met := by
  refine ⟨?_, excS ?_⟩ <;> decide +kernel
end C2
namespace C3
abbrev s : State := { (base) with mg := { base.mg with mode := .service }, host := { base.host with link := 1, dm := { busy := true, lostGo := 254 } } }
abbrev h := s.host
abbrev dm := h.dm
abbrev met : Prop := linkUp s = true ∧ hostBusy s = false ∧ dm.busy = true ∧ (dm.lostGo < 255)
theorem holds : met := by decide +kernel
end C3
namespace C4
abbrev s : State := { (base) with mg := { base.mg with mode := .service }, host := { base.host with link := 1, dm := { len := 15 } } }
abbrev len : BitVec 13 := 8
abbrev h := s.host
abbrev dm := h.dm
abbrev met : Prop := linkUp s = true ∧ hostBusy s = false ∧ dm.busy = false ∧ (1 ≤ dm.len.toNat) ∧ (dm.len.toNat < 16)
theorem holds : met := by decide +kernel
end C4
namespace C5
abbrev s : State := { (base) with mg := { base.mg with mode := .service }, host := { base.host with link := 1, barOut := 1 } }
abbrev met : Prop := linkUp s = true ∧ hostRefused s.mg.mode = false ∧ (s.mg.mode ≠ .drowse) ∧ hostBusy s = true
theorem holds : met := by decide +kernel
end C5
namespace C6
abbrev s : State := base
abbrev off : BitVec 38 := 0
abbrev st : BitVec 2 := 1
abbrev n : BitVec 16 := 0
abbrev v : BitVec 64 := 7
abbrev met : Prop := (s.mg.mode ≠ .off) ∧ (st ≠ 3) ∧ (canIssue s (.ctx n) = true) ∧ (v.toNat % 2048 < 8)
theorem holds : met := by decide +kernel
end C6
namespace C7
abbrev s : State := { (base) with mg := { base.mg with mode := .service }, host := { base.host with link := 1, vecs := [(2047, { addr := 0, data := 0, mask := false })] } }
abbrev n : BitVec 16 := 0
abbrev v : BitVec 64 := 2047
abbrev h := s.host
abbrev x := tgetD h.vecs (v.toNat % 2048) {}
abbrev met : Prop := (canIssue s (.ctx n) = true) ∧ (8 ≤ v.toNat % 2048) ∧ x.mask = false ∧ h.master = true
theorem holds : met := by decide +kernel
end C7
namespace C8
abbrev s : State := { (ctx0 base fun c => { c with pend := some { word := 0, why := .outbound } }) with host := { base.host with reads := [(.ctx 0, 0x80)] } }
abbrev n : BitVec 16 := 0
abbrev ha : BitVec 64 := 0x80
abbrev p : Pend := { word := 0, why := .outbound }
abbrev h := s.host
abbrev met : Prop := (h.reads = [(.ctx n, ha)]) ∧ ((s.ctx n.toNat).pend = some p) ∧ (p.why = .outbound)
theorem holds : met := by decide +kernel
end C8
theorem all : C0.met ∧ C1.met ∧ C2.met ∧ C3.met ∧ C4.met ∧ C5.met ∧ C6.met ∧ C7.met ∧ C8.met :=
  ⟨C0.holds, C1.holds, C2.holds, C3.holds, C4.holds, C5.holds, C6.holds, C7.holds, C8.holds⟩
end HostInterface
theorem witness_HostInterface : HostInterface.C0.met ∧ HostInterface.C1.met ∧ HostInterface.C2.met ∧ HostInterface.C3.met ∧ HostInterface.C4.met ∧ HostInterface.C5.met ∧ HostInterface.C6.met ∧ HostInterface.C7.met ∧ HostInterface.C8.met := HostInterface.all

namespace DictionaryAndRegisters
namespace C0
abbrev s : State := base
abbrev r : DictReq := { rq 0x2000 1 11 [] with dest := 6 }
abbrev h : Hdr := hd 6
abbrev w : World := .sys
abbrev v : BitVec 64 := 7
abbrev met : Prop := (s.mg.mode ≠ .off) ∧ r.path = 0 ∧ r.remote = false ∧ ((r.dest ≠ 0 ∨ r.arg ≠ 0 ∧ r.type ≠ 0x0D)) ∧ (h.dest = devNo s) ∧ portsRun s.mg.mode = true ∧ (r.dest ≠ devNo s) ∧ (MayWrite s w (0x7F601000008 + 0x1000 * w.num) v)
theorem holds : met := by decide +kernel
end C0
namespace C1
abbrev s : State := base
abbrev r : DictReq := rq 0x2000 10 11 []
abbrev i := r.index.toNat
abbrev j := r.sub.toNat
abbrev met : Prop := (s.mg.mode ≠ .off) ∧ r.path = 0 ∧ r.remote = false ∧ r.dest = 0 ∧ r.arg = 0 ∧ dictEntry i j = none
theorem holds : met := by decide +kernel
end C1
namespace C2
abbrev s : State := base
abbrev r : DictReq := rq 0x2000 4 11 []
abbrev e : DEnt := (dictEntry 0x2000 4).getD ⟨0,0,0,0,0,false,0,0,0,0⟩
abbrev i := r.index.toNat
abbrev j := r.sub.toNat
abbrev met : Prop := (s.mg.mode ≠ .off) ∧ r.path = 0 ∧ r.remote = false ∧ r.dest = 0 ∧ r.arg = 0 ∧ (dictEntry i j = some e) ∧ (e.ty = r.type.toNat) ∧ (r.value = []) ∧ e.cls = 2
theorem holds : met := by decide +kernel
end C2
namespace C3
abbrev s : State := base
abbrev r : DictReq := rq 0x2000 1 11 []
abbrev e : DEnt := (dictEntry 0x2000 1).getD ⟨0,0,0,0,0,false,0,0,0,0⟩
abbrev i := r.index.toNat
abbrev j := r.sub.toNat
abbrev met : Prop := (s.mg.mode ≠ .off) ∧ r.path = 0 ∧ r.remote = false ∧ r.dest = 0 ∧ r.arg = 0 ∧ (dictEntry i j = some e) ∧ (e.ty = r.type.toNat) ∧ (r.value = []) ∧ (e.cls ≠ 2) ∧ (e.ty ≠ 0x0D) ∧ stale s e.index j = false
theorem holds : met := by decide +kernel
end C3
namespace C4
abbrev s : State := { base with mg := { base.mg with quiet := [(0, 10)] } }
abbrev r : DictReq := rq 0x401 1 2 []
abbrev e : DEnt := (dictEntry 0x401 1).getD ⟨0,0,0,0,0,false,0,0,0,0⟩
abbrev i := r.index.toNat
abbrev j := r.sub.toNat
abbrev met : Prop := (s.mg.mode ≠ .off) ∧ r.path = 0 ∧ r.remote = false ∧ r.dest = 0 ∧ r.arg = 0 ∧ (dictEntry i j = some e) ∧ (e.ty = r.type.toNat) ∧ (r.value = []) ∧ (e.cls ≠ 2) ∧ (e.ty ≠ 0x0D) ∧ stale s e.index j = true
theorem holds : met := by decide +kernel
end C4
namespace C5
abbrev s : State := base
abbrev r : DictReq := rq 0x2000 1 11 [1]
abbrev e : DEnt := (dictEntry 0x2000 1).getD ⟨0,0,0,0,0,false,0,0,0,0⟩
abbrev i := r.index.toNat
abbrev j := r.sub.toNat
abbrev met : Prop := (s.mg.mode ≠ .off) ∧ r.path = 0 ∧ r.remote = false ∧ r.dest = 0 ∧ r.arg = 0 ∧ (dictEntry i j = some e) ∧ (e.ty = r.type.toNat) ∧ lenFits e r.value = true ∧ e.cls = 0
theorem holds : met := by decide +kernel
end C5
namespace C6
abbrev s : State := base
abbrev r : DictReq := rq 0x4001 1 1 [1]
abbrev e : DEnt := (dictEntry 0x4001 1).getD ⟨0,0,0,0,0,false,0,0,0,0⟩
abbrev i := r.index.toNat
abbrev j := r.sub.toNat
abbrev met : Prop := (s.mg.mode ≠ .off) ∧ r.path = 0 ∧ r.remote = false ∧ r.dest = 0 ∧ r.arg = 0 ∧ (dictEntry i j = some e) ∧ (e.ty = r.type.toNat) ∧ lenFits e r.value = true ∧ e.cls = 3 ∧ rwlMode s.mg.mode = false
theorem holds : met := by decide +kernel
end C6
namespace C7
abbrev s : State := base
abbrev r : DictReq := rq 0x402 1 3 [1,0]
abbrev e : DEnt := (dictEntry 0x402 1).getD ⟨0,0,0,0,0,false,0,0,0,0⟩
abbrev i := r.index.toNat
abbrev j := r.sub.toNat
abbrev met : Prop := (s.mg.mode ≠ .off) ∧ r.path = 0 ∧ r.remote = false ∧ r.dest = 0 ∧ r.arg = 0 ∧ (dictEntry i j = some e) ∧ (e.ty = r.type.toNat) ∧ lenFits e r.value = true ∧ ((e.cls = 1 ∨ e.cls = 4 ∧ r.job = false)) ∧ (i ∉ [0x0208, 0x4020, 0x2010]) ∧ inRange s e j r.value = false
theorem holds : met := by decide +kernel
end C7
namespace C8
abbrev s : State := base
abbrev r : DictReq := rq 0x402 1 3 [0xFF,0xFF]
abbrev e : DEnt := (dictEntry 0x402 1).getD ⟨0,0,0,0,0,false,0,0,0,0⟩
abbrev size : Nat := 2
abbrev i := r.index.toNat
abbrev j := r.sub.toNat
abbrev met : Prop := (s.mg.mode ≠ .off) ∧ r.path = 0 ∧ r.remote = false ∧ r.dest = 0 ∧ r.arg = 0 ∧ (dictEntry i j = some e) ∧ (e.ty = r.type.toNat) ∧ lenFits e r.value = true ∧ ((e.cls = 1 ∨ e.cls = 4 ∧ r.job = false)) ∧ (tyLen e.ty = some size) ∧ e.p = false ∧ (i ∉ [0x0200, 0x0208, 0x2000, 0x4020, 0x0C12, 0x0420, 0x0400, 0x0800, 0x2010]) ∧ inRange s e j r.value = true
theorem holds : met := by decide +kernel
end C8
namespace C9
abbrev s : State := base
abbrev r : DictReq := rq 0x208 3 1 [1]
abbrev e : DEnt := (dictEntry 0x208 3).getD ⟨0,0,0,0,0,false,0,0,0,0⟩
abbrev i := r.index.toNat
abbrev j := r.sub.toNat
abbrev met : Prop := (s.mg.mode ≠ .off) ∧ r.path = 0 ∧ r.remote = false ∧ r.dest = 0 ∧ r.arg = 0 ∧ (dictEntry i j = some e) ∧ (e.ty = r.type.toNat) ∧ lenFits e r.value = true ∧ r.job = false ∧ i = 0x0208 ∧ j = 3 ∧ ofBytes r.value = 1
theorem holds : met := by decide +kernel
end C9
namespace C10
abbrev s : State := base
abbrev r : DictReq := { rq 0x208 3 1 [1] with job := true }
abbrev e : DEnt := (dictEntry 0x208 3).getD ⟨0,0,0,0,0,false,0,0,0,0⟩
abbrev i := r.index.toNat
abbrev j := r.sub.toNat
abbrev met : Prop := (s.mg.mode ≠ .off) ∧ r.path = 0 ∧ r.remote = false ∧ r.dest = 0 ∧ r.arg = 0 ∧ (dictEntry i j = some e) ∧ (e.ty = r.type.toNat) ∧ r.job = true
theorem holds : met := by decide +kernel
end C10
namespace C11
abbrev s : State := base
abbrev r : DictReq := rq 0x4020 1 0 []
abbrev i := r.index.toNat
abbrev j := r.sub.toNat
abbrev met : Prop := (s.mg.mode ≠ .off) ∧ r.path = 0 ∧ r.remote = false ∧ r.dest = 0 ∧ r.arg = 0 ∧ r.type = 0 ∧ dictNext i j = none
theorem holds : met := by decide +kernel
end C11
namespace C12
abbrev s : State := base
abbrev r : DictReq := rq 0x100 7 0 []
abbrev e : DEnt := (dictEntry 0x100 8).getD ⟨0,0,0,0,0,false,0,0,0,0⟩
abbrev k : Nat := 8
abbrev i := r.index.toNat
abbrev j := r.sub.toNat
abbrev met : Prop := (s.mg.mode ≠ .off) ∧ r.path = 0 ∧ r.remote = false ∧ r.dest = 0 ∧ r.arg = 0 ∧ r.type = 0 ∧ (dictNext i j = some (e, k))
theorem holds : met := by decide +kernel
end C12
namespace C13
abbrev s : State := { base with sark := { base.sark with log := [frc] } }
abbrev r : DictReq := { rq 1 1 0 [] with arg := 7 }
abbrev rec_ : FRec := frc
abbrev met : Prop := (s.mg.mode ≠ .off) ∧ r.path = 0 ∧ r.remote = false ∧ r.dest = 0 ∧ r.type = 0 ∧ (s.sark.log.find? (fun f => f.seq == r.arg) = some rec_)
theorem holds : met := by decide +kernel
end C13
namespace C14
abbrev s : State := base
abbrev r : DictReq := rq 1 1 0 []
abbrev met : Prop := (s.mg.mode ≠ .off) ∧ r.path = 0 ∧ r.remote = false ∧ r.dest = 0 ∧ r.type = 0 ∧ (s.sark.log.find? (fun f => f.seq == r.arg) = none) ∧ (s.sark.snap.length ≤ r.arg.toNat)
theorem holds : met := by decide +kernel
end C14
namespace C15
abbrev s : State := { base with sark := { base.sark with snap := List.replicate 8 1 } }
abbrev r : DictReq := rq 1 1 0 []
abbrev met : Prop := (s.mg.mode ≠ .off) ∧ r.path = 0 ∧ r.remote = false ∧ r.dest = 0 ∧ r.type = 0 ∧ (r.arg.toNat < s.sark.snap.length)
theorem holds : met := by decide +kernel
end C15
namespace C16
abbrev s : State := up 0 fun q => q
abbrev r : DictReq := { rq 0x2000 1 11 [] with remote := true, dest := 1 }
abbrev met : Prop := (s.mg.mode ≠ .off) ∧ r.path = 0 ∧ r.remote = true ∧ r.arg = 0 ∧ unreachable s r.dest = none ∧ (r.dest ≠ devNo s) ∧ r.job = false
theorem holds : met := by decide +kernel
end C16
namespace C17
abbrev s : State := up 0 fun q => q
abbrev r : DictReq := { rq 0x2000 1 11 [] with remote := true, dest := 2 }
abbrev met : Prop := (s.mg.mode ≠ .off) ∧ r.path = 0 ∧ r.remote = true ∧ r.arg = 0 ∧ ((unreachable s r.dest).isSome = true)
theorem holds : met := by decide +kernel
end C17
namespace C18
abbrev s : State := base
abbrev r : DictReq := { rq 0x2000 1 11 [] with dest := 5 }
abbrev h : Hdr := hd 6
abbrev met : Prop := (h.dest = devNo s) ∧ portsRun s.mg.mode = true ∧ r.remote = false ∧ (r.dest = devNo s) ∧ r.arg = 0
theorem holds : met := by decide +kernel
end C18
namespace C19
abbrev s : State := { base with mg := { base.mg with remotes := [(9, 0, 1, { rq 0x2000 1 11 [] with dest := 6 })] } }
abbrev r : DictReq := rq 0x2000 1 11 []
abbrev q : DictReq := { rq 0x2000 1 11 [] with dest := 6 }
abbrev h : Hdr := hd 6
abbrev op : BitVec 8 := 1
abbrev met : Prop := (h.dest = devNo s) ∧ portsRun s.mg.mode = true ∧ (s.mg.remotes = [(r.tag, 0, op, q)]) ∧ (q.dest = h.src) ∧ q.path = 0
theorem holds : met := by decide +kernel
end C19
namespace C20
abbrev s : State := { base with mg := { base.mg with boxes := [(0, { busy := true, lostGo := 254 })] } }
abbrev m : BitVec 2 := 0
abbrev x := tgetD s.mg.boxes m.toNat {}
abbrev met : Prop := issuing s.mg.mode = true ∧ x.busy = true ∧ (x.lostGo ≠ 0xFF)
theorem holds : met := by decide +kernel
end C20
namespace C21
abbrev s : State := { base with mg := { base.mg with boxes := [(0, { len := 16 })] } }
abbrev r : DictReq := rq 0x2000 1 11 []
abbrev e : DEnt := (dictEntry 0x2000 1).getD ⟨0,0,0,0,0,false,0,0,0,0⟩
abbrev m : BitVec 2 := 0
abbrev i := r.index.toNat
abbrev j := r.sub.toNat
abbrev x := tgetD s.mg.boxes m.toNat {}
abbrev met : Prop := issuing s.mg.mode = true ∧ x.busy = false ∧ (16 ≤ x.len.toNat) ∧ (x.len.toNat ≤ 4096) ∧ r.remote = false ∧ r.dest = 0 ∧ r.arg = 0 ∧ (dictEntry i j = some e) ∧ (e.ty = r.type.toNat) ∧ (r.value = []) ∧ (e.cls ≠ 2) ∧ (e.ty ≠ 0x0D)
theorem holds : met := by decide +kernel
end C21
theorem all : C0.met ∧ C1.met ∧ C2.met ∧ C3.met ∧ C4.met ∧ C5.met ∧ C6.met ∧ C7.met ∧ C8.met ∧ C9.met ∧ C10.met ∧ C11.met ∧ C12.met ∧ C13.met ∧ C14.met ∧ C15.met ∧ C16.met ∧ C17.met ∧ C18.met ∧ C19.met ∧ C20.met ∧ C21.met :=
  ⟨C0.holds, C1.holds, C2.holds, C3.holds, C4.holds, C5.holds, C6.holds, C7.holds, C8.holds, C9.holds, C10.holds, C11.holds, C12.holds, C13.holds, C14.holds, C15.holds, C16.holds, C17.holds, C18.holds, C19.holds, C20.holds, C21.holds⟩
end DictionaryAndRegisters
theorem witness_DictionaryAndRegisters : DictionaryAndRegisters.C0.met ∧ DictionaryAndRegisters.C1.met ∧ DictionaryAndRegisters.C2.met ∧ DictionaryAndRegisters.C3.met ∧ DictionaryAndRegisters.C4.met ∧ DictionaryAndRegisters.C5.met ∧ DictionaryAndRegisters.C6.met ∧ DictionaryAndRegisters.C7.met ∧ DictionaryAndRegisters.C8.met ∧ DictionaryAndRegisters.C9.met ∧ DictionaryAndRegisters.C10.met ∧ DictionaryAndRegisters.C11.met ∧ DictionaryAndRegisters.C12.met ∧ DictionaryAndRegisters.C13.met ∧ DictionaryAndRegisters.C14.met ∧ DictionaryAndRegisters.C15.met ∧ DictionaryAndRegisters.C16.met ∧ DictionaryAndRegisters.C17.met ∧ DictionaryAndRegisters.C18.met ∧ DictionaryAndRegisters.C19.met ∧ DictionaryAndRegisters.C20.met ∧ DictionaryAndRegisters.C21.met := DictionaryAndRegisters.all

namespace Starts
namespace C0
abbrev s : State := State.reset
abbrev off : BitVec 32 := 0
abbrev ir : BitVec 8 := 1
abbrev met : Prop := s.pins.pwrok = false ∧ (s.mg.mode = .off) ∧ startable s.mg.mode = false ∧ ((ir = 1 ∨ ir = 0xFF))
theorem holds : met := by decide +kernel
end C0
namespace C1
abbrev s : State := tns .standby .standby [] State.reset
abbrev st := s.mg.start
abbrev met : Prop := s.pins.sysRst = false ∧ st.wbDone = true ∧ (s.mg.trans = some ⟨.standby, .standby, []⟩)
theorem holds : met := by decide +kernel
end C1
namespace C2
abbrev s : State := { (tns .loader .loader [] State.reset) with host := { base.host with link := 1 } }
abbrev st := s.mg.start
abbrev met : Prop := s.pins.sysRst = false ∧ st.wbDone = true ∧ (s.mg.trans = some ⟨.loader, .loader, []⟩) ∧ s.host.link = 1
theorem holds : met := by decide +kernel
end C2
namespace C3
abbrev s : State := mdo .standby (State.reset)
abbrev idle := s.mg.trans = none
abbrev met : Prop := (s.mg.mode = .standby) ∧ idle
theorem holds : met := by decide +kernel
end C3
namespace C4
abbrev s : State := base
abbrev off : BitVec 32 := 0
abbrev kind : BitVec 16 := 5
abbrev ir : BitVec 8 := 2
abbrev met : Prop := (s.mg.mode ≠ .standby) ∧ startable s.mg.mode = true ∧ warmOk s = false ∧ (s.mg.mode ≠ .loader) ∧ (s.mg.mode ≠ .off) ∧ (kind ≠ 3) ∧ (ir ≠ 1) ∧ (ir ≠ 0xFF) ∧ ((dval s 0x4001 1 ≠ 1 ∨ s.mg.mode ≠ .loader))
theorem holds : met := by decide +kernel
end C4
namespace C5
abbrev s : State := trainedS
abbrev met : Prop := startable s.mg.mode = true ∧ warmOk s = true ∧ (dirtyLines s = []) ∧ ((∀ x ∈ s.cores, x.2.stores = []))
theorem holds : met := by decide +kernel
end C5
namespace C6
abbrev s : State := trainedS.modCore 0 fun c => { c with l1d := [(5, { st := .m, data := lineOf [] })] }
abbrev met : Prop := startable s.mg.mode = true ∧ warmOk s = true ∧ (dirtyLines s ≠ [])
theorem holds : met := by decide +kernel
end C6
namespace C7
abbrev s : State := stt (fun x => { x with wbDone := false }) (base)
abbrev st := s.mg.start
abbrev met : Prop := st.wbDone = false
theorem holds : met := by decide +kernel
end C7
namespace C8
abbrev s : State := mdo .loader (base)
abbrev kh : List (BitVec 8) := [1]
abbrev st := s.mg.start
abbrev v : BitVec 16 := 1
abbrev met : Prop := goOk s = true ∧ (s.mg.mode = .loader) ∧ st.fuse = false ∧ st.burning = false ∧ (kh.all (· == 0) = false) ∧ rwlMode s.mg.mode = true ∧ (dval s 0x2010 3 ≤ v.toNat)
theorem holds : met := by decide +kernel
end C8
namespace C9
abbrev s : State := up 0 fun q => q
abbrev port : BitVec 4 := 0
abbrev st := s.mg.start
abbrev met : Prop := ((s.port port.toNat).st = .up)
theorem holds : met := by decide +kernel
end C9
namespace C10
abbrev s : State := mdo .loader (stt (fun x => { x with relay := true, relayGot := 8 }) (base))
abbrev data : List (BitVec 8) := [1, 2]
abbrev off : BitVec 32 := 0
abbrev len : BitVec 32 := 9
abbrev st := s.mg.start
abbrev met : Prop := (s.mg.mode = .loader) ∧ st.relay = true ∧ (len ≠ 0) ∧ (off.toNat + data.length ≤ 66060288)
theorem holds : met := by decide +kernel
end C10
namespace C11
abbrev s : State := mdo .loader (stt (fun x => { x with relay := true }) (base))
abbrev st := s.mg.start
abbrev met : Prop := (s.mg.mode = .loader) ∧ st.relay = true ∧ st.relayLen = 0
theorem holds : met := by decide +kernel
end C11
namespace C12
abbrev s : State := mdo .loader (stt (fun x => { x with verifying := true }) (base))
abbrev sig : BitVec 7 := 0x7F
abbrev dec : BitVec 7 := 0x7F
abbrev kh : List (BitVec 8) := [1]
abbrev c : Nat := 0x10
abbrev a : Nat := 0
abbrev st := s.mg.start
abbrev idle := s.mg.trans = none
abbrev met : Prop := (s.mg.mode = .loader) ∧ idle ∧ st.verifying = true ∧ (verify (setStep s 4) sig dec kh = some (c, a))
theorem holds : met := by decide +kernel
end C12
namespace C13
abbrev s : State := mdo .bringup (setDval base 0x0800 4 6400)
abbrev rate : BitVec 16 := 6400
abbrev far : BitVec 64 := 0x1000000000
abbrev chans : Training := ⟨0xFFFF, 0xFFFF, 0xFFFF, 0xFFFF, 0⟩
abbrev st := s.mg.start
abbrev idle := s.mg.trans = none
abbrev met : Prop := ((s.mg.mode = .bringup) ∧ idle ∧ st.pendWarm = false ∧ chans.chans = 0xFFFF ∧ chans.t64 = 0xFFFF ∧ (6400 ≤ rate.toNat) ∧ (6400 ≤ dval s 0x0800 4) ∧ dimmSizes.contains far.toNat = true) ∧ ((∀ m < 16, (s.mc (8 + m)).rows = [] ∧ ∀ g ∈ (s.mc (8 + m)).groups, g.2 ≠ .retiring ∧ g.2 ≠ .retired))
theorem holds : met := by
  refine ⟨?_, by exact fun m _ => ⟨rfl, fun g hg => absurd hg List.not_mem_nil⟩⟩ <;> decide +kernel
end C13
namespace C14
abbrev s : State := mdo .bringup (base)
abbrev fail : BitVec 8 := 0x20
abbrev idle := s.mg.trans = none
abbrev met : Prop := (s.mg.mode = .bringup) ∧ idle ∧ (fail ≠ 0)
theorem holds : met := by decide +kernel
end C14
namespace C15
abbrev s : State := mdo .selftest (base)
abbrev st := s.mg.start
abbrev idle := s.mg.trans = none
abbrev met : Prop := (s.mg.mode = .selftest) ∧ idle ∧ st.bist = false
theorem holds : met := by decide +kernel
end C15
namespace C16
abbrev s : State := mdo .selftest (stt (fun x => { x with memDone := true }) (base))
abbrev st := s.mg.start
abbrev idle := s.mg.trans = none
abbrev met : Prop := (s.mg.mode = .selftest) ∧ idle ∧ st.memDone = true ∧ findSection s 5 = none
theorem holds : met := by decide +kernel
end C16
namespace C17
abbrev s : State := mdo .loader (stt (fun x => { x with running := true }) (base))
abbrev step : BitVec 8 := 0
abbrev st := s.mg.start
abbrev idle := s.mg.trans = none
abbrev met : Prop := st.running = true ∧ (dval s 0x2000 3 = step.toNat) ∧ (s.mg.mode = .loader) ∧ idle
theorem holds : met := by decide +kernel
end C17
namespace C18
abbrev s : State := stt (fun x => { x with fuse := true }) (base)
abbrev st := s.mg.start
abbrev met : Prop := st.fuse = true
theorem holds : met := by decide +kernel
end C18
namespace C19
abbrev s : State := stt (fun x => { x with burning := true }) (base)
abbrev st := s.mg.start
abbrev met : Prop := st.burning = true
theorem holds : met := by decide +kernel
end C19
namespace C20
abbrev s : State := setDval base 0x2010 3 2
abbrev v : BitVec 16 := 1
abbrev met : Prop := (v.toNat < dval s 0x2010 3)
theorem holds : met := by decide +kernel
end C20
namespace C21
abbrev s : State := { base with sark := { base.sark with waiting := [frc] } }
abbrev off : BitVec 32 := 0
abbrev r : FRec := frc
abbrev rest : List FRec := []
abbrev met : Prop := (s.mg.mode ≠ .off) ∧ (s.sark.waiting = r :: rest)
theorem holds : met := by decide +kernel
end C21
namespace C22
abbrev s : State := mdo .loader (setDval base 0x4001 1 1)
abbrev ir : BitVec 8 := 2
abbrev met : Prop := (ir ≠ 1) ∧ (ir ≠ 0xFF) ∧ dval s 0x4001 1 = 1 ∧ (s.mg.mode = .loader)
theorem holds : met := by decide +kernel
end C22
theorem all : C0.met ∧ C1.met ∧ C2.met ∧ C3.met ∧ C4.met ∧ C5.met ∧ C6.met ∧ C7.met ∧ C8.met ∧ C9.met ∧ C10.met ∧ C11.met ∧ C12.met ∧ C13.met ∧ C14.met ∧ C15.met ∧ C16.met ∧ C17.met ∧ C18.met ∧ C19.met ∧ C20.met ∧ C21.met ∧ C22.met :=
  ⟨C0.holds, C1.holds, C2.holds, C3.holds, C4.holds, C5.holds, C6.holds, C7.holds, C8.holds, C9.holds, C10.holds, C11.holds, C12.holds, C13.holds, C14.holds, C15.holds, C16.holds, C17.holds, C18.holds, C19.holds, C20.holds, C21.holds, C22.holds⟩
end Starts
theorem witness_Starts : Starts.C0.met ∧ Starts.C1.met ∧ Starts.C2.met ∧ Starts.C3.met ∧ Starts.C4.met ∧ Starts.C5.met ∧ Starts.C6.met ∧ Starts.C7.met ∧ Starts.C8.met ∧ Starts.C9.met ∧ Starts.C10.met ∧ Starts.C11.met ∧ Starts.C12.met ∧ Starts.C13.met ∧ Starts.C14.met ∧ Starts.C15.met ∧ Starts.C16.met ∧ Starts.C17.met ∧ Starts.C18.met ∧ Starts.C19.met ∧ Starts.C20.met ∧ Starts.C21.met ∧ Starts.C22.met := Starts.all

namespace ModesAndDomains
namespace C0
abbrev s : State := mdo .quiesce (base)
abbrev f : BitVec 8 := 7
abbrev met : Prop := ((s.mg.mode = .quiesce ∨ s.mg.mode = .hold)) ∧ s.mg.trans = none ∧ ((f.toNat < 8 ∨ 22 < f.toNat))
theorem holds : met := by decide +kernel
end C0
namespace C1
abbrev s : State := mdo .drowse (base)
abbrev met : Prop := (s.mg.mode = .drowse) ∧ s.mg.trans = none
theorem holds : met := by decide +kernel
end C1
namespace C2
abbrev s : State := tns .quiesce .service [72] base
abbrev blk : BitVec 9 := 72
abbrev met : Prop := ((s.mg.trans.isSome = true ∨ s.mg.mode = .loader)) ∧ (s.mg.mode = .service) ∧ (s.mg.waiting = []) ∧ (s.sark.bankPend = []) ∧ (s.mg.trans = some ⟨.quiesce, .service, [blk.toNat]⟩) ∧ (32 ≤ blk.toNat) ∧ (s.mg.trans = some ⟨.quiesce, .service, [72]⟩)
theorem holds : met := by decide +kernel
end C2
namespace C3
abbrev s : State := tns .quiesce .service [72, 73] base
abbrev tile : BitVec 5 := 31
abbrev blk : BitVec 9 := 72
abbrev ws : List Nat := [72, 73]
abbrev bs : Mode := .service
abbrev met : Prop := (s.mg.trans = some ⟨.quiesce, bs, ws⟩) ∧ (32 ≤ blk.toNat) ∧ (ws.filter (fun x => x != blk.toNat && !(decide (x < 32) && (s.tile x).dead)) ≠ [])
theorem holds : met := by decide +kernel
end C3
namespace C4
abbrev s : State := tns .safe .safe [73] base
abbrev met : Prop := (s.mg.mode = .service) ∧ (s.mg.trans = some ⟨.safe, .safe, [73]⟩)
theorem holds : met := by decide +kernel
end C4
namespace C5
abbrev s : State := tns .quiesce .service [0] base
abbrev k : Nat := 0
abbrev tile : BitVec 5 := 31
abbrev met : Prop := (s.mg.mode = .service) ∧ (s.mg.waiting = []) ∧ (s.sark.bankPend = []) ∧ (k < 32) ∧ ((s.tile k).dead = false) ∧ (s.mg.trans = some ⟨.quiesce, .service, [k]⟩)
theorem holds : met := by decide +kernel
end C5
namespace C6
abbrev s : State := { base with tiles := (List.range 32).map fun t => (t, { power := .doze }) }
abbrev met : Prop := drowseOk s = true ∧ s.mg.trans = none
theorem holds : met := by decide +kernel
end C6
namespace C7
abbrev s : State := base
abbrev port : BitVec 4 := 3
abbrev p := port.toNat
abbrev q := s.port p
abbrev tile : BitVec 5 := 31
abbrev dom : BitVec 7 := 31
abbrev d := dom.toNat
abbrev svc := s.mg.mode = .service ∧ s.mg.trans = none
abbrev f : BitVec 8 := 8
abbrev clk := fun (f : Nat) => min f (s.tile tile.toNat).limit.toNat
abbrev clocked := (s.tile tile.toNat).power = .on ∨ (s.tile tile.toNat).power = .nap
abbrev met : Prop := drowseOk s = false ∧ (s.mg.mode ≠ .recovery) ∧ q.fence = false ∧ startable s.mg.mode = true ∧ svc ∧ (d < 32) ∧ ((s.tile d).dead = false) ∧ pdOffOk s 73 = true ∧ ((∀ n < 64, (s.group n).st.busy = false)) ∧ ((∀ n < 4, (s.sq (96 + n)).st ≠ .running ∧ (s.sq (96 + n)).st ≠ .waiting)) ∧ (73 ∉ s.mg.pdPend) ∧ (8 ≤ f.toNat) ∧ (f.toNat ≤ 22) ∧ clocked ∧ (clk f.toNat ≠ clk (dval s 0x0400 (tile.toNat + 1)))
theorem holds : met := by decide +kernel
end C7
namespace C8
abbrev s : State := mdo .recovery (base)
abbrev met : Prop := (s.mg.mode = .recovery) ∧ s.mg.trans = none ∧ dval s 0x0200 4 = 0
theorem holds : met := by decide +kernel
end C8
namespace C9
abbrev s : State := base.setPort 3 { fence := true, st := .fenced }
abbrev port : BitVec 4 := 3
abbrev p := port.toNat
abbrev q := s.port p
abbrev met : Prop := q.fence = true
theorem holds : met := by decide +kernel
end C9
namespace C10
abbrev s : State := base
abbrev dom : BitVec 7 := 32
abbrev d := dom.toNat
abbrev svc := s.mg.mode = .service ∧ s.mg.trans = none
abbrev tile : BitVec 5 := 31
abbrev f : BitVec 8 := 22
abbrev clk := fun (f : Nat) => min f (s.tile tile.toNat).limit.toNat
abbrev clocked := (s.tile tile.toNat).power = .on ∨ (s.tile tile.toNat).power = .nap
abbrev met : Prop := svc ∧ (32 ≤ d) ∧ (d < 40) ∧ pdOffOk s d = false ∧ (8 ≤ f.toNat) ∧ (f.toNat ≤ 22) ∧ (¬ (clocked ∧ clk f.toNat ≠ clk (dval s 0x0400 (tile.toNat + 1))))
theorem holds : met := by decide +kernel
end C10
namespace C11
abbrev s : State := base.modTile 31 fun t => { t with dead := true, power := .off }
abbrev dom : BitVec 7 := 31
abbrev d := dom.toNat
abbrev met : Prop := pdOffOk s d = true ∧ (d < 32) ∧ ((s.sq (64 + d)).st ≠ .running) ∧ ((s.sq (64 + d)).st ≠ .waiting)
theorem holds : met := by decide +kernel
end C11
namespace C12
abbrev s : State := (base.modTile 31 fun t => { t with dead := true }).setSq 95 { base.sq 95 with st := .running }
abbrev dom : BitVec 7 := 31
abbrev d := dom.toNat
abbrev met : Prop := pdOffOk s d = true ∧ (d < 32) ∧ ((s.sq (64 + d)).st = .running ∨ (s.sq (64 + d)).st = .waiting)
theorem holds : met := by decide +kernel
end C12
namespace C13
abbrev s : State := base.setGroup 0 { st := .up }
abbrev b : Nat := 0
abbrev met : Prop := pdOffOk s 73 = true ∧ (b < 64) ∧ ((s.group b).st.busy = true)
theorem holds : met := by decide +kernel
end C13
namespace C14
abbrev s : State := { base with mg := { base.mg with pdPend := [73] } }
abbrev met : Prop := (73 ∈ s.mg.pdPend)
theorem holds : met := by decide +kernel
end C14
namespace C15
abbrev s : State := base
abbrev dom : BitVec 7 := 75
abbrev d := dom.toNat
abbrev met : Prop := startable s.mg.mode = true ∧ (d < 76)
theorem holds : met := by decide +kernel
end C15
namespace C16
abbrev s : State := setPd base 72 .off
abbrev dom : BitVec 7 := 72
abbrev d := dom.toNat
abbrev met : Prop := (72 ≤ d) ∧ (d ≤ 74) ∧ (dval s 0x0420 (d + 1) = 0) ∧ (tgetD s.mg.pd d .off = .off) ∧ portsRun s.mg.mode = true
theorem holds : met := by decide +kernel
end C16
theorem all : C0.met ∧ C1.met ∧ C2.met ∧ C3.met ∧ C4.met ∧ C5.met ∧ C6.met ∧ C7.met ∧ C8.met ∧ C9.met ∧ C10.met ∧ C11.met ∧ C12.met ∧ C13.met ∧ C14.met ∧ C15.met ∧ C16.met :=
  ⟨C0.holds, C1.holds, C2.holds, C3.holds, C4.holds, C5.holds, C6.holds, C7.holds, C8.holds, C9.holds, C10.holds, C11.holds, C12.holds, C13.holds, C14.holds, C15.holds, C16.holds⟩
end ModesAndDomains
theorem witness_ModesAndDomains : ModesAndDomains.C0.met ∧ ModesAndDomains.C1.met ∧ ModesAndDomains.C2.met ∧ ModesAndDomains.C3.met ∧ ModesAndDomains.C4.met ∧ ModesAndDomains.C5.met ∧ ModesAndDomains.C6.met ∧ ModesAndDomains.C7.met ∧ ModesAndDomains.C8.met ∧ ModesAndDomains.C9.met ∧ ModesAndDomains.C10.met ∧ ModesAndDomains.C11.met ∧ ModesAndDomains.C12.met ∧ ModesAndDomains.C13.met ∧ ModesAndDomains.C14.met ∧ ModesAndDomains.C15.met ∧ ModesAndDomains.C16.met := ModesAndDomains.all

namespace FaultsAndSpares
namespace C0
abbrev cls : BitVec 8 := 0x17
abbrev s : State := (allSited base).modCore 7 fun c => { c with life := .substituted }
abbrev core : BitVec 8 := 0
abbrev c := core.toNat
abbrev met : Prop := knownClass cls.toNat = false ∧ (s.mg.mode = .service) ∧ coreLive s c = true ∧ (spareSite s (tileOf c) = none)
theorem holds : met := by decide +kernel
end C0
namespace C1
abbrev s : State := base.modCore 0 fun c => { c with dead := true, l1d := [(5, { st := .s, data := [] })] }
abbrev core : BitVec 8 := 0
abbrev c := core.toNat
abbrev x := s.core c
abbrev met : Prop := (x.dead = true ∧ ((∀ m ∈ s.mesh, m.src ≠ c))) ∧ ((∀ y ∈ s.tiles, ∀ e ∈ y.2.sf, e.2.holders.contains c = false ∧ ∀ w, e.2.txn = some w → w.awaiting.contains c = false ∧ w.wbWait.contains c = false ∧ ∀ y ∈ w.later, y.1 ≠ c))
theorem holds : met := by
  refine ⟨?_, by exact fun y hy e he => absurd he (by rw [(by decide +kernel : ∀ y ∈ FaultsAndSpares.C1.s.tiles, y.2.sf = []) y hy]; exact List.not_mem_nil)⟩ <;> decide +kernel
end C1
namespace C2
abbrev s : State := base
abbrev core : BitVec 8 := 0
abbrev slot : Nat := 1
abbrev tile : BitVec 5 := 0
abbrev power : BitVec 16 := 30
abbrev c := core.toNat
abbrev x := s.core c
abbrev temp : BitVec 16 := 100
abbrev n : Nat := 9
abbrev met : Prop := ((s.mg.mode ≠ .off) ∧ coreLive s c = true ∧ ((s.tile (tileOf c)).power = .on) ∧ x.testing = none ∧ ficRuns s.mg.mode = true ∧ (freeSlot x = some slot) ∧ ((BitVec.ofNat 16 (dval s 0x0400 0x41)).sle temp = false) ∧ (s.mg.mode = .service) ∧ ((s.tile tile.toNat).dead = false) ∧ ((s.tile tile.toNat).power = .on) ∧ (tgetD (s.tile tile.toNat).waysOut 0 0 = 0) ∧ (n < 10) ∧ ((siteOf s c, n) ∉ s.sark.bankPend) ∧ (dval s 0x4001 1 ≠ 1)) ∧ ((∀ i, tgetD s.sark.drops i 0 < 2))
theorem holds : met := by
  refine ⟨?_, by intro i; exact Nat.zero_lt_two⟩ <;> decide +kernel
end C2
namespace C3
abbrev s : State := { base with sark := { base.sark with drops := [(8, 2)] } }
abbrev svc := s.mg.mode = .service ∧ s.mg.trans = none
abbrev met : Prop := (svc ∧ tgetD s.sark.drops 8 0 = 2 ∧ (dval s 0x1001 0x0E ≠ 1)) ∧ ((∀ i, 1 ≤ i → i ≤ 7 → tgetD s.sark.drops i 0 = 0))
theorem holds : met := by
  refine ⟨?_, by intro i h1 h2; interval_cases i <;> decide +kernel⟩ <;> decide +kernel
end C3
namespace C4
abbrev s : State := (allSited base).modCore 0 fun c => { c with testing := some 1 }
abbrev core : BitVec 8 := 0
abbrev j : Nat := 8
abbrev slot : Nat := 1
abbrev c := core.toNat
abbrev x := s.core c
abbrev met : Prop := (x.testing = some slot) ∧ (s.mg.mode = .service) ∧ coreLive s c = true ∧ (spareSite s (tileOf c) = some j)
theorem holds : met := by decide +kernel
end C4
namespace C5
abbrev s : State := base
abbrev temp : BitVec 16 := 1680
abbrev svc := s.mg.mode = .service ∧ s.mg.trans = none
abbrev met : Prop := svc ∧ ((BitVec.ofNat 16 (dval s 0x0400 0x41)).sle temp = true)
theorem holds : met := by decide +kernel
end C5
namespace C6
abbrev s : State := setDval base 0x1801 1 1520
abbrev tile : BitVec 5 := 0
abbrev hot := (BitVec.ofNat 16 (dval s 0x0400 0x40)).sle (BitVec.ofNat 16 (dval s 0x1801 (tile.toNat + 1))) = true ∨ dval s 0x0400 0x42 < dval s 0x0400 0x43
abbrev l := (s.tile tile.toNat).limit
abbrev met : Prop := hot ∧ (8 < l.toNat)
theorem holds : met := by decide +kernel
end C6
namespace C7
abbrev s : State := (base.modTile 0 fun t => { t with limit := 21 })
abbrev tile : BitVec 5 := 0
abbrev cool := (BitVec.ofNat 16 (dval s 0x1801 (tile.toNat + 1))).sle (BitVec.ofNat 16 (dval s 0x0400 0x40) - 80) = true ∧ 100 * dval s 0x0400 0x43 ≤ 95 * dval s 0x0400 0x42
abbrev l := (s.tile tile.toNat).limit
abbrev met : Prop := cool ∧ (l.toNat < 22)
theorem holds : met := by decide +kernel
end C7
namespace C8
abbrev s : State := allSited base
abbrev core : BitVec 8 := 0
abbrev tile : BitVec 5 := 0
abbrev power : BitVec 16 := 30
abbrev c := core.toNat
abbrev x := s.core c
abbrev met : Prop := (s.mg.mode = .service) ∧ coreLive s c = true ∧ x.subst = false ∧ ((s.tile (tileOf c)).power = .on) ∧ ((spareSite s (tileOf c)).isSome = true)
theorem holds : met := by decide +kernel
end C8
namespace C9
abbrev s : State := (allSited base).modCore 0 fun c => { c with slots := [], subst := true, halting := true }
abbrev core : BitVec 8 := 0
abbrev j : Nat := 8
abbrev c := core.toNat
abbrev x := s.core c
abbrev met : Prop := x.subst = true ∧ x.draining = false ∧ (x.slots = []) ∧ (x.swaps = []) ∧ (x.fic.mode = .idle) ∧ x.dead = false ∧ (spareSite s (tileOf c) = some j)
theorem holds : met := by decide +kernel
end C9
namespace C10
abbrev s : State := setDval base 0x4001 1 1
abbrev v : BitVec 64 := 0x1001
abbrev met : Prop := injOk s v = true
theorem holds : met := by decide +kernel
end C10
theorem all : C0.met ∧ C1.met ∧ C2.met ∧ C3.met ∧ C4.met ∧ C5.met ∧ C6.met ∧ C7.met ∧ C8.met ∧ C9.met ∧ C10.met :=
  ⟨C0.holds, C1.holds, C2.holds, C3.holds, C4.holds, C5.holds, C6.holds, C7.holds, C8.holds, C9.holds, C10.holds⟩
end FaultsAndSpares
theorem witness_FaultsAndSpares : FaultsAndSpares.C0.met ∧ FaultsAndSpares.C1.met ∧ FaultsAndSpares.C2.met ∧ FaultsAndSpares.C3.met ∧ FaultsAndSpares.C4.met ∧ FaultsAndSpares.C5.met ∧ FaultsAndSpares.C6.met ∧ FaultsAndSpares.C7.met ∧ FaultsAndSpares.C8.met ∧ FaultsAndSpares.C9.met ∧ FaultsAndSpares.C10.met := FaultsAndSpares.all

end Sys2Proof.Tests
end

section
set_option Elab.async false
/-! PROOFS. Every step keeps the words of memory in their canonical form (O7). Each function of the model that answers a state has
one lemma: a canonical state goes in, a canonical state comes out. A lemma cites the lemmas of the functions that its own function
calls, so that only the few that write `words` or `lost` (`memPut_wf`, `memWfFrom_putWords`, `memWfFrom_filter`) speak of tables.
A lemma is named after its function, in the namespace of the predicate that fits the shape of its answer, so that `.f` finds it. The
theorems stand in the order of the model's files. -/

namespace Sys2Proof.Machine

/-! ### The canonical form, by the shape of what answers a state -/

/-- The state of a pair that begins with one is in canonical form. -/
def MemOkL {α : Type} (p : State × α) : Prop := MemOk p.1

/-- The state of a pair that ends with one is in canonical form. -/
def MemOkR {α : Type} (p : α × State) : Prop := MemOk p.2

/-- A state that is answered is in canonical form. -/
def MemOkO (o : Option State) : Prop := ∀ t, o = some t → MemOk t

/-- The state of an answered pair is in canonical form. -/
def MemOkOR {α : Type} (o : Option (α × State)) : Prop := ∀ p, o = some p → MemOk p.2

/-- The state of an answered pair is in canonical form. -/
def MemOkOL {α : Type} (o : Option (State × α)) : Prop := ∀ p, o = some p → MemOk p.1

/-- A next state that a command answers is in canonical form. -/
def MemOkOut (o : Out) : Prop := ∀ t, o = .next t → MemOk t

/-- A state that is answered beside another is in canonical form. -/
def MemOkE {ε : Type} (p : Except ε State × State) : Prop := ∀ t, p.1 = .ok t → MemOk t

/-- A part of a body keeps the canonical form, whether it answers or stops. -/
def Keeps {α : Type} (m : M α) : Prop := ∀ s, MemOk s → MemOkR (m s)

section
variable {s t : State} {α β : Type} {c : Prop} [Decidable c]

theorem MemOk.upd (h : MemOk s) (e : t.mem = s.mem := by with_reducible rfl) : MemOk t := (congrArg Memory.wf e).trans h
theorem MemOk.updMem (h : MemOk s) (hw : t.mem.words = s.mem.words := by with_reducible rfl)
    (hl : t.mem.lost = s.mem.lost := by with_reducible rfl) : MemOk t := by
  unfold MemOk Memory.wf at *
  rwa [hw, hl]

theorem MemOk.ite (hs : MemOk s) (ht : MemOk t) : MemOk (if c then s else t) := by split <;> assumption
theorem MemOkL.ite {p q : State × α} (hp : MemOkL p) (hq : MemOkL q) : MemOkL (if c then p else q) := by split <;> assumption
theorem MemOkR.ite {p q : α × State} (hp : MemOkR p) (hq : MemOkR q) : MemOkR (if c then p else q) := by split <;> assumption
theorem MemOkO.ite {p q : Option State} (hp : MemOkO p) (hq : MemOkO q) : MemOkO (if c then p else q) := by split <;> assumption
theorem MemOkOR.ite {p q : Option (α × State)} (hp : MemOkOR p) (hq : MemOkOR q) : MemOkOR (if c then p else q) := by split <;> assumption
theorem MemOkOL.ite {p q : Option (State × α)} (hp : MemOkOL p) (hq : MemOkOL q) : MemOkOL (if c then p else q) := by split <;> assumption
theorem MemOkOut.ite {p q : Out} (hp : MemOkOut p) (hq : MemOkOut q) : MemOkOut (if c then p else q) := by split <;> assumption
theorem Keeps.ite {m n : M α} (hm : Keeps m) (hn : Keeps n) : Keeps (if c then m else n) := by split <;> assumption

theorem MemOkL.mk {a : α} (h : MemOk s) : MemOkL (s, a) := h
theorem MemOkR.mk {a : α} (h : MemOk s) : MemOkR (a, s) := h
theorem MemOk.fst {p : State × α} (h : MemOkL p) : MemOk p.1 := h
theorem MemOk.snd {p : α × State} (h : MemOkR p) : MemOk p.2 := h
theorem MemOk.ofL {p : State × α} {a : α} (h : MemOkL p) (e : p = (t, a)) : MemOk t := by subst e; exact h
theorem MemOk.ofR {p : α × State} {a : α} (h : MemOkR p) (e : p = (a, t)) : MemOk t := by subst e; exact h

theorem MemOkE.ite {ε : Type} {p q : Except ε State × State} (hp : MemOkE p) (hq : MemOkE q) : MemOkE (if c then p else q) :=
  by split <;> assumption
theorem MemOkE.error {ε : Type} {x : ε} : MemOkE (.error x, s) := fun _ e => nomatch e
theorem MemOkE.ok {ε : Type} (h : MemOk s) : MemOkE ((.ok s, t) : Except ε State × State) := fun _ e => Except.ok.inj e ▸ h
theorem MemOk.ofE {ε : Type} {p : Except ε State × State} {u : State} (h : MemOkE p) (e : p = (.ok t, u)) : MemOk t := h t (e ▸ rfl)

theorem MemOkO.none : MemOkO none := fun _ e => nomatch e
theorem MemOkO.some (h : MemOk s) : MemOkO (some s) := fun _ e => Option.some.inj e ▸ h
theorem MemOkOR.none : MemOkOR (none : Option (α × State)) := fun _ e => nomatch e
theorem MemOkOR.some {a : α} (h : MemOk s) : MemOkOR (some (a, s)) := fun _ e => Option.some.inj e ▸ h
theorem MemOkOL.none : MemOkOL (none : Option (State × α)) := fun _ e => nomatch e
theorem MemOkOL.some {a : α} (h : MemOk s) : MemOkOL (some (s, a)) := fun _ e => Option.some.inj e ▸ h
theorem MemOk.ofO {o : Option State} (h : MemOkO o) (e : o = .some t) : MemOk t := h t e
theorem MemOk.ofOR {o : Option (α × State)} {a : α} (h : MemOkOR o) (e : o = .some (a, t)) : MemOk t := h _ e
theorem MemOk.ofOL {o : Option (State × α)} {a : α} (h : MemOkOL o) (e : o = .some (t, a)) : MemOk t := h _ e

theorem MemOk.getD {o : Option State} (h : MemOkO o) (hs : MemOk s) : MemOk (o.getD s) := by
  cases o with
  | none => exact hs
  | some t => exact h t rfl

theorem MemOkO.map {o : Option β} {f : β → State} (hf : ∀ b, o = .some b → MemOk (f b)) : MemOkO (o.map f) := by
  cases o with
  | none => exact .none
  | some b => exact .some (hf b rfl)

theorem MemOkOR.map {o : Option β} {f : β → α × State} (hf : ∀ b, o = .some b → MemOkR (f b)) : MemOkOR (o.map f) := by
  cases o with
  | none => exact .none
  | some b => exact .some (hf b rfl)

theorem MemOkOut.next (h : MemOk s) : MemOkOut (.next s) := fun _ e => Host.Outcome.next.inj e ▸ h
theorem MemOkOut.fault {f : Fault} : MemOkOut (.fault f) := fun _ e => nomatch e
theorem MemOkOut.refused {f : Refusal} : MemOkOut (.refused f) := fun _ e => nomatch e

theorem MemOk.foldl {f : State → α → State} {l : List α} (hf : ∀ s a, MemOk s → MemOk (f s a)) (h : MemOk s) : MemOk (l.foldl f s) := by
  induction l generalizing s with
  | nil => exact h
  | cons a l ih => exact ih (hf _ _ h)

theorem MemOkL.foldl {f : State × β → α → State × β} {l : List α} {p : State × β} (hf : ∀ s b a, MemOk s → MemOkL (f (s, b) a))
    (h : MemOkL p) :
    MemOkL (l.foldl f p) := by
  induction l generalizing p with
  | nil => exact h
  | cons a l ih => exact ih (hf _ _ _ h)

theorem MemOkR.foldl {f : β × State → α → β × State} {l : List α} {p : β × State} (hf : ∀ s b a, MemOk s → MemOkR (f (b, s) a))
    (h : MemOkR p) :
    MemOkR (l.foldl f p) := by
  induction l generalizing p with
  | nil => exact h
  | cons a l ih => exact ih (hf _ _ _ h)

/-! ### Parts of bodies -/

theorem Keeps.pure {a : α} : Keeps (pure a : M α) := fun _ h => h
theorem Keeps.bind {m : M α} {f : α → M β} (hm : Keeps m) (hf : ∀ a, Keeps (f a)) : Keeps (m >>= f) := by
  intro s h
  have ht := hm s h
  rcases e : m s with ⟨_ | a, t⟩
  · rw [Claims.bind_error e]; exact .ofR ht e
  · rw [Claims.bind_ok e]; exact hf a t (.ofR ht e)
theorem Keeps.get_bind {f : State → M β} (hf : ∀ s, MemOk s → Keeps (f s)) : Keeps ((get : M State) >>= f) := by
  intro s h
  rw [Claims.get_bind]
  exact hf s h s h
theorem Keeps.modify {f : State → State} (hf : ∀ s, MemOk s → MemOk (f s)) : Keeps (modify f : M PUnit) := fun s h => hf s h
theorem Keeps.set (h : MemOk t) : Keeps (set t : M PUnit) := fun _ _ => h
theorem Keeps.act {f : State → Except Stop α × State} (hf : ∀ s, MemOk s → MemOkR (f s)) : Keeps (act f) := hf
theorem Keeps.chkM {r : Res α} : Keeps (chkM r) := fun _ h => h
theorem Keeps.chkM_bind {r : Res α} {f : α → M β} (hf : ∀ a, r = .ok a → Keeps (f a)) : Keeps (Machine.chkM r >>= f) := by
  intro s h
  rcases r with x | a
  · rw [Claims.chkM_bind_error rfl]; exact h
  · rw [Claims.chkM_bind_ok rfl]; exact hf a rfl s h
theorem Keeps.needM {n : Need} : Keeps (needM n : M α) := fun _ h => h
end


/-! ### The dictionary -/

theorem MemOk.setDval {s i j v} (h : MemOk s) : MemOk (setDval s i j v) := .upd h rfl
theorem MemOk.countUp {s i j n} (h : MemOk s) : MemOk (countUp s i j n) := .setDval h

/-! ### Operations shared by the blocks -/

theorem MemOk.setCtx {s n c} (h : MemOk s) : MemOk (State.setCtx s n c) := .upd h rfl
theorem MemOk.modCtx {s n f} (h : MemOk s) : MemOk (State.modCtx s n f) := .setCtx h
theorem MemOk.setCore {s n c} (h : MemOk s) : MemOk (State.setCore s n c) := .upd h rfl
theorem MemOk.modCore {s n f} (h : MemOk s) : MemOk (State.modCore s n f) := .setCore h
theorem MemOk.setTile {s n t} (h : MemOk s) : MemOk (State.setTile s n t) := .upd h rfl
theorem MemOk.modTile {s n f} (h : MemOk s) : MemOk (State.modTile s n f) := .setTile h
theorem MemOk.setChan {s n c} (h : MemOk s) : MemOk (State.setChan s n c) := .upd h rfl
theorem MemOk.setSq {s n q} (h : MemOk s) : MemOk (State.setSq s n q) := .upd h rfl
theorem MemOk.setPort {s n p} (h : MemOk s) : MemOk (State.setPort s n p) := .upd h rfl
theorem MemOk.setGroup {s n g} (h : MemOk s) : MemOk (State.setGroup s n g) := .upd h rfl
theorem MemOk.setMc {s n m} (h : MemOk s) : MemOk (State.setMc s n m) := .updMem h rfl rfl
theorem MemOk.setWorld {s w v} (h : MemOk s) : MemOk (State.setWorld s w v) := by
  unfold Machine.State.setWorld
  split <;> exact .upd h
theorem MemOk.tick {s} (h : MemOk s) : MemOk (State.tick s) := .upd h rfl
theorem MemOk.beginTrans {s target base} (h : MemOk s) : MemOk (beginTrans s target base) := by
  unfold Machine.beginTrans
  split <;> exact .upd h
theorem MemOk.wakeDevice {s} (h : MemOk s) : MemOk (wakeDevice s) := by
  unfold Machine.wakeDevice
  split <;> exact .ite (.beginTrans h) h
theorem MemOk.wakeTile {s t} (h : MemOk s) : MemOk (wakeTile s t) := .ite (.modTile h) h
theorem MemOk.makeReady {s n} (h : MemOk s) : MemOk (makeReady s n) := .wakeTile (.modCore (.modCtx h))
theorem MemOk.endWait {s n} (h : MemOk s) : MemOk (endWait s n) := by
  unfold Machine.endWait
  extract_lets c _ s1
  have hs1 : MemOk s1 := .setCtx h
  split
  · exact .makeReady hs1
  · exact .makeReady hs1
  · exact .modCtx hs1
  · exact .modCore hs1
  · exact hs1
theorem MemOk.vacate {s n} (h : MemOk s) : MemOk (vacate s n) := .modCore (.setCtx h)
theorem MemOk.queueSwap {s n st} (h : MemOk s) : MemOk (queueSwap s n st) := by
  unfold Machine.queueSwap
  extract_lets c
  split
  · exact .modCore (.setCtx h)
  · exact h
theorem MemOk.swapOutReady {s n} (h : MemOk s) : MemOk (swapOutReady s n) := .ite h (.queueSwap h)
theorem MemOk.discardRing {s} (h : MemOk s) : MemOk (discardRing s) := .countUp h
theorem MemOk.sendMsg {s m} (h : MemOk s) : MemOk (sendMsg s m) := .upd h rfl
theorem MemOk.movedNotice {s w oldId oldGen newId newGen} (h : MemOk s) : MemOk (movedNotice s w oldId oldGen newId newGen) :=
  .ite (.setWorld h) (.setWorld h)
theorem MemOk.forwardDoorbell {s st w events origin hops} (h : MemOk s) : MemOk (forwardDoorbell s st w events origin hops) := .sendMsg h
theorem MemOk.ringBits {s n ev} (h : MemOk s) : MemOk (ringBits s n ev) := by
  unfold Machine.ringBits
  extract_lets c s1 s2 all hit _ c1
  have hs1 : MemOk s1 := .wakeDevice h
  have hs2 : MemOk s2 := .wakeTile hs1
  refine .ite (.discardRing hs1) ?_
  refine .ite ?_ (.ite (.endWait (.setCtx hs2)) (.setCtx hs2))
  split
  · exact .movedNotice (.forwardDoorbell hs1)
  · exact .discardRing hs1
theorem MemOk.pendFic {s core src info} (h : MemOk s) : MemOk (pendFic s core src info) := .wakeTile (.modCore h)
theorem MemOk.seqEvent {s k ev} (h : MemOk s) : MemOk (seqEvent s k ev) := by
  unfold Machine.seqEvent
  extract_lets q all
  split
  · exact .ite (.setSq h) (.setSq h)
  · exact .setSq h
theorem MemOk.signal {s src info} (h : MemOk s) : MemOk (signal s src info) :=
  .ite (.ite (.pendFic (.wakeDevice h)) (.wakeDevice h)) (.ite (.ite (.seqEvent (.wakeDevice h)) (.ringBits (.wakeDevice h)))
      (.wakeDevice h))
theorem MemOk.msix {s v} (h : MemOk s) : MemOk (msix s v) := .ite (.upd h) (.upd h)
theorem MemOk.pcieEvent {s} (h : MemOk s) : MemOk (pcieEvent s) := .signal h
theorem MemOk.setLink {s v} (h : MemOk s) : MemOk (setLink s v) := .ite h (.pcieEvent (.upd h))
theorem MemOk.hostError {s off bar cause} (h : MemOk s) : MemOk (hostError s off bar cause) := by
  unfold Machine.hostError
  extract_lets s1 _ s2 s3
  have hs1 : MemOk s1 := .countUp h
  have hs2 : MemOk s2 := .upd hs1
  have hs3 : MemOk s3 := .ite (.pcieEvent hs2) hs2
  exact .msix hs3
theorem MemOk.logFault {s cls react unit site addr detail} (h : MemOk s) : MemOk (logFault s cls react unit site addr detail) := by
  unfold Machine.logFault
  extract_lets r full s1 s2 _ s3
  have hs1 : MemOk s1 := .setDval h
  have hs2 : MemOk s2 := .ite (.countUp hs1) hs1
  have hs3 : MemOk s3 := .upd hs2
  exact .msix (.signal hs3)
theorem MemOk.lockup {s n cause} (h : MemOk s) : MemOk (lockup s n cause) := by
  unfold Machine.lockup
  extract_lets held s1 s2 _ s3 s4
  have hs1 : MemOk s1 := .vacate h
  have hs2 : MemOk s2 := .modCtx hs1
  have hs3 : MemOk s3 := .upd hs2
  have hs4 : MemOk s4 := .modCore hs3
  exact .logFault hs4
theorem MemOk.countOne {core who ev s k} (h : MemOk s) : MemOk (countOne core who ev s k) :=
  .ite (.ite (.pendFic (.setCore h)) (.setCore h)) h
theorem MemOk.countEvent {s core who ev} (h : MemOk s) : MemOk (countEvent s core who ev) := .ite h (.foldl (fun _ _ h => .countOne h) h)
theorem MemOk.entryEvents {s n cause} (h : MemOk s) : MemOk (entryEvents s n cause) := by
  unfold Machine.entryEvents
  extract_lets c k s1 s2 s3 s4
  have hs1 : MemOk s1 := .countEvent h
  have hs2 : MemOk s2 := .ite (.countEvent hs1) hs1
  have hs3 : MemOk s3 := .ite (.countEvent hs2) hs2
  have hs4 : MemOk s4 := .ite (.countEvent hs3) hs3
  exact .ite (.countEvent hs4) hs4
theorem MemOk.enter {s n e1} (h : MemOk s) : MemOk (enter s n e1) := by
  unfold Machine.enter
  extract_lets c s1
  have hs1 : MemOk s1 := .entryEvents h
  split
  · exact .lockup h
  · exact .ite (.lockup h) (.setCtx hs1)
theorem MemOk.illegalReturn {s n sub} (h : MemOk s) : MemOk (illegalReturn s n sub) := by
  unfold Machine.illegalReturn
  extract_lets c s1 _
  have hs1 : MemOk s1 := .entryEvents h
  split
  · exact .lockup h
  · exact .setCtx hs1
theorem MemOk.ficLockup {s core cause} (h : MemOk s) : MemOk (ficLockup s core cause) := by
  unfold Machine.ficLockup
  extract_lets s1 _ s2
  have hs1 : MemOk s1 := .modCore h
  have hs2 : MemOk s2 := .upd hs1
  exact .logFault hs2
theorem MemOk.raise {s x e1} (h : MemOk s) : MemOk (raise s x e1) := by
  unfold Machine.raise
  split
  · exact .ite (.illegalReturn h) (.enter h)
  · exact .ficLockup h
theorem MemOk.releaseBanks {s n} (h : MemOk s) : MemOk (releaseBanks s n) := .modCore (.setCtx h)
theorem MemOk.becomeFree {s n} (h : MemOk s) : MemOk (becomeFree s n) := .modCtx (.releaseBanks h)
theorem MemOk.killCtx {s n} (h : MemOk s) : MemOk (killCtx s n) := .modCore (.modCtx (.releaseBanks (.vacate h)))
theorem MemOk.holdCtx {s n} (h : MemOk s) : MemOk (holdCtx s n) := .modCore (.modCtx (.vacate h))
theorem MemOk.releaseCtx {s n} (h : MemOk s) : MemOk (releaseCtx s n) := by
  unfold Machine.releaseCtx
  extract_lets c _ s1
  have hs1 : MemOk s1 := .setCtx h
  split
  · exact .ite (.ringBits hs1) hs1
  · exact .setCtx h
  · exact .makeReady h
theorem MemOk.persist {s kind payload} (h : MemOk s) : MemOk (persist s kind payload) := .upd h rfl
theorem MemOk.takeOp {s t o k g} (h : MemOk s) (e : takeOp s o = some (k, g, t)) : MemOk t := by
  unfold Machine.takeOp at e
  split at e
  · exact nomatch e
  · obtain ⟨-, -, rfl⟩ : _ ∧ _ ∧ _ = t := by simpa using e
    exact .upd h
theorem MemOk.freeOpSlot {s k} (h : MemOk s) : MemOk (freeOpSlot s k) := .upd h rfl

/-! ### Codewords and the repair of memory -/

/-- Words written from a key on, one by one. -/
theorem memWfFrom_putWords {lost t k ws} (h : memWfFrom lost t 0 = true) : memWfFrom lost (putWords lost t k ws) 0 = true := by
  induction ws generalizing t k with
  | nil => exact h
  | cons w r ih => exact ih (memPut_wf k w h)
theorem MemOk.setMemLine {s line l} (h : MemOk s) : MemOk (setMemLine s line l) := memWfFrom_putWords h
theorem MemOk.mcEvent {s mc bit} (h : MemOk s) : MemOk (mcEvent s mc bit) := .ite (.signal (.setMc h)) (.setMc h)
theorem MemOk.toDegraded {s} (h : MemOk s) : MemOk (toDegraded s) := by
  unfold Machine.toDegraded
  split
  · exact .beginTrans h
  · exact .upd h
  · exact .upd h
  · exact .upd h
  · exact h
theorem MemOk.spareExhausted {s bit unit} (h : MemOk s) : MemOk (spareExhausted s bit unit) := .toDegraded (.logFault (.setDval h))
theorem MemOk.setUnit {s mc unit st clear} (h : MemOk s) : MemOk (setUnit s mc unit st clear) := .mcEvent (.persist (.setMc h))
theorem MemOk.setGroupSt {s mc group st} (h : MemOk s) : MemOk (setGroupSt s mc group st) := .mcEvent (.persist (.setMc h))
theorem MemOk.groupRetiring {s mc group} (h : MemOk s) : MemOk (groupRetiring s mc group) :=
  .ite (.ite (.ite (.spareExhausted (.setGroupSt h)) (.updMem (.setGroupSt h))) (.spareExhausted (.setGroupSt h))) h
theorem MemOk.suspectUnit {s mc k} (h : MemOk s) : MemOk (suspectUnit s mc k) := .ite (.setUnit (.setMc h)) h
theorem MemOk.countUnit {s p u} (h : MemOk s) : MemOk (countUnit s p u) := .suspectUnit (.setMc h)
theorem MemOk.retireGroup {s mc group} (h : MemOk s) : MemOk (retireGroup s mc group) := .ite (.groupRetiring h) h
theorem MemOk.countUe {s p pair} (h : MemOk s) : MemOk (countUe s p pair) := .retireGroup (.setMc h)
theorem MemOk.applyThresholds {s} (h : MemOk s) : MemOk (applyThresholds s) :=
  .foldl (fun _ _ h => .foldl (fun _ _ h => .ite h (.retireGroup h)) (.foldl (fun _ _ h => .suspectUnit h) h)) h
theorem MemOk.replaceLine {s p line event} (h : MemOk s) : MemOk (replaceLine s p line event) := by
  unfold Machine.replaceLine
  split <;> exact .setMemLine h
theorem MemOk.applyErr {s pair e1} (h : MemOk s) : MemOk (applyErr s pair e1) := .ite h (.setMemLine (.setMemLine h))
theorem MemOk.sarkCount {s k} (h : MemOk s) : MemOk (sarkCount s k) := .upd h rfl
theorem MemOk.injectPair {s pair} (h : MemOk s) : MemOk (injectPair s pair) := by
  unfold Machine.injectPair
  extract_lets p _
  split
  · exact h
  · exact .updMem h
theorem MemOk.corrected {s p fixes} (h : MemOk s) : MemOk (corrected s p fixes) := .foldl (fun _ _ h => .countUnit h) (.setMc h)
theorem MemOk.uncorrected {s p lpa} (h : MemOk s) : MemOk (uncorrected s p lpa) := .mcEvent (.setMc (.logFault h))
theorem MemOk.readPair {s pair} (h : MemOk s) : MemOk (readPair s pair) := by
  unfold Machine.readPair
  extract_lets s1 p er ev s2 _ s3
  have hs1 : MemOk s1 := .injectPair h
  have hs2 : MemOk s2 := .replaceLine (.replaceLine hs1)
  have hs3 : MemOk s3 := .updMem hs2
  split
  · exact hs1
  · split
    · extract_lets s4 _
      have hs4 : MemOk s4 := .applyErr (.ite hs1 (.corrected hs1))
      exact .updMem hs4
    · exact .countUe (.uncorrected hs3)
theorem MemOk.writeMemLine {s line l} (h : MemOk s) : MemOk (writeMemLine s line l) := .setMemLine (.readPair h)

/-! ### Caches -/

theorem MemOk.post {s m} (h : MemOk s) : MemOk (post s m) := .wakeTile (.upd h)
theorem MemOkOR.takeMsg {s p} (h : MemOk s) : MemOkOR (takeMsg s p) := by
  unfold Machine.takeMsg
  split
  · exact .none
  · exact .ite .none (.some (.upd h))
theorem MemOkL.l1dError {s core line word} (h : MemOk s) : MemOkL (l1dError s core line word) := by
  unfold Machine.l1dError
  split
  · exact .mk h
  · split
    · exact .mk h
    · extract_lets _ s1 lost shared s2
      have hs1 : MemOk s1 := .updMem h
      have hs2 : MemOk s2 := .logFault hs1
      exact .ite (.mk (.sarkCount hs1)) (.ite (.mk (.modCore hs2)) (.mk hs2))
theorem MemOk.evictL1 {s core who line} (h : MemOk s) : MemOk (evictL1 s core who line) := by
  unfold Machine.evictL1
  extract_lets s1
  have hs1 : MemOk s1 := by
    unfold s1
    split
    · exact .ite (.fst (.l1dError h)) h
    · exact h
  split
  · exact hs1
  · extract_lets dirty s2 s3
    have hs2 : MemOk s2 := .modCore hs1
    have hs3 : MemOk s3 := .ite (.countEvent hs2) hs2
    exact .post hs3
theorem MemOkO.makeRoom {s core who line} (h : MemOk s) : MemOkO (makeRoom s core who line) := by
  unfold Machine.makeRoom
  extract_lets set vs
  refine .ite (.some h) ?_
  split
  · exact .some (.evictL1 h)
  · exact .none
theorem MemOkR.l1dHit {s core who line word} (h : MemOk s) : MemOkR (l1dHit s core who line word) := by
  unfold Machine.l1dHit
  refine .ite (.mk h) ?_
  refine .ite (.mk h) ?_
  split
  · rename_i t e
    have ht : MemOk t := .ofL (.l1dError h) e
    exact .mk (.evictL1 ht)
  · rename_i t e
    have ht : MemOk t := .ofL (.l1dError h) e
    exact .mk ht
theorem MemOkO.missRead {s core who line wt na} (h : MemOk s) : MemOkO (missRead s core who line wt na) := by
  unfold Machine.missRead
  split
  · exact .some h
  · refine .ite (.some h) ?_
    split
    · exact .none
    · rename_i t e
      have ht : MemOk t := .ofO (.makeRoom h) e
      extract_lets s1 s2 spec
      have hs1 : MemOk s1 := .modCore ht
      have hs2 : MemOk s2 := .countEvent hs1
      exact .some (.post hs2)
theorem MemOkO.makeRoomI {s core line} (h : MemOk s) : MemOkO (makeRoomI s core line) := by
  unfold Machine.makeRoomI
  extract_lets c set vs
  refine .ite (.some h) ?_
  split
  · exact .some (.ite (.setCore h) (.post (.setCore h)))
  · exact .none
theorem MemOkO.missFetch {s core who line na} (h : MemOk s) : MemOkO (missFetch s core who line na) := by
  unfold Machine.missFetch
  split
  · exact .some h
  · refine .ite (.some h) ?_
    split
    · exact .none
    · rename_i t e
      have ht : MemOk t := .ofO (.makeRoomI h) e
      extract_lets s1 s2
      have hs1 : MemOk s1 := .modCore ht
      have hs2 : MemOk s2 := .countEvent hs1
      exact .some (.post hs2)
theorem MemOkO.missWrite {s core who line na} (h : MemOk s) : MemOkO (missWrite s core who line na) := by
  unfold Machine.missWrite
  refine .ite (.some h) ?_
  extract_lets s1 up
  have hs1 : MemOk s1 := .modCore h
  have hup : ∀ a0 a1, MemOkO (up a0 a1) := fun _ _ => .some (.post (.modCore hs1))
  split
  · split
    · exact hup _ _
    · exact hup _ _
    · exact .some hs1
  · split
    · exact .none
    · rename_i t e
      have ht : MemOk t := .ofO (.makeRoom hs1) e
      extract_lets s2 s3
      have hs2 : MemOk s2 := .modCore ht
      have hs3 : MemOk s3 := .countEvent hs2
      exact .some (.post hs3)
theorem MemOk.recompare {s line} (h : MemOk s) : MemOk (recompare s line) := by
  unfold Machine.recompare
  refine .foldl (fun s1 e h1 => ?_) h
  split
  · exact .ite (.endWait (.modCtx h1)) h1
  · exact h1
theorem MemOk.demandRead {s pair} (h : MemOk s) : MemOk (demandRead s pair) := .recompare (.recompare (.readPair h))
theorem MemOk.storeLine {s line l} (h : MemOk s) : MemOk (storeLine s line l) := .recompare (.writeMemLine h)

/-! ### Lines at their homes -/

theorem MemOk.l2Evict {s tile line} (h : MemOk s) : MemOk (l2Evict s tile line) := by
  unfold Machine.l2Evict
  extract_lets t s1
  have hs1 : MemOk s1 := .setTile h
  split
  · exact h
  · split
    · exact .post (.modCore hs1)
    · exact .ite (.storeLine hs1) hs1
theorem MemOk.l2Room {s tile set} (h : MemOk s) : MemOk (l2Room s tile set) := by
  unfold Machine.l2Room
  extract_lets t vs
  refine .ite h ?_
  split
  · exact .setTile h
  · split
    · exact .l2Evict h
    · exact h
theorem MemOk.l2Put {s tile line l} (h : MemOk s) : MemOk (l2Put s tile line l) := by
  unfold Machine.l2Put
  extract_lets held s1
  have hs1 : MemOk s1 := .ite h (.l2Room h)
  exact .ite (.modTile hs1) (.ite (.storeLine hs1) hs1)
theorem MemOk.absorb {s line d na} (h : MemOk s) : MemOk (absorb s line d na) := .ite (.l2Put h) (.storeLine h)
theorem MemOk.cleanL2 {s line drop} (h : MemOk s) : MemOk (cleanL2 s line drop) := by
  unfold Machine.cleanL2
  extract_lets h1
  split
  · exact h
  · exact .modTile (.ite (.storeLine h) h)
theorem MemOk.setEntry {s line e1} (h : MemOk s) : MemOk (setEntry s line e1) := .modTile h
theorem MemOk.answer {s r k d contended} (h : MemOk s) : MemOk (answer s r k d contended) := .ite h (.post h)
theorem MemOk.startRead {s r} (h : MemOk s) : MemOk (startRead s r) := .ite h (.answer h)
theorem MemOk.injectL2 {s h1 line} (h : MemOk s) : MemOk (injectL2 s h1 line) := by
  unfold Machine.injectL2
  split
  · exact h
  · split
    · exact h
    · extract_lets _ s1 lost s2
      have hs1 : MemOk s1 := .updMem h
      have hs2 : MemOk s2 := .logFault hs1
      exact .ite (.sarkCount hs1) (.ite (.l2Evict hs2) (.ite (.modTile hs2) (.ite hs2 (.recompare (.modTile hs2)))))
theorem MemOkL.fetchData {s x} (h : MemOk s) : MemOkL (fetchData s x) := by
  unfold Machine.fetchData
  extract_lets s1
  have hs1 : MemOk s1 := .injectL2 h
  split
  · exact .mk hs1
  · exact .mk (.startRead hs1)
theorem MemOkL.sendSnoop {s r x t} (h : MemOk s) : MemOkL (sendSnoop s r x t) := by
  unfold Machine.sendSnoop
  extract_lets c s1 slice sent gone
  have hs1 : MemOk s1 := .injectL2 h
  have hsent : ∀ a0, MemOkL (sent a0) := fun _ => .mk (.post hs1)
  have hgone : ∀ a0, MemOk (gone a0) := fun _ => .setEntry (.setTile hs1)
  split
  · refine .ite ?_ (hsent ⟨⟩)
    extract_lets data
    have hdata : ∀ a0, MemOk (data a0) := fun _ => .post (hgone ⟨⟩)
    split
    · exact .mk (hdata _)
    · exact .mk (hdata _)
    · exact .mk hs1
    · exact .mk hs1
    · exact .mk (hgone ⟨⟩)
  · exact hsent ⟨⟩
theorem MemOkL.sendSnoops {s r x ts} (h : MemOk s) : MemOkL (sendSnoops s r x ts) := by
  unfold Machine.sendSnoops
  refine .foldl (fun s1 b t h1 => ?_) (.mk h)
  exact .sendSnoop (.fst (.mk h1))
theorem MemOk.openTxn {s r} (h : MemOk s) : MemOk (openTxn s r) := by
  unfold Machine.openTxn
  extract_lets e named ts ts1 first supplies split x s1 owned
  have hs1 : MemOk s1 := .setEntry h
  refine .ite (.answer h) ?_
  split
  rename_i t t1 e1
  have ht : MemOk t := .ofL (.sendSnoops hs1) e1
  split
  rename_i t2 t3 e2
  have ht2 : MemOk t2 := .ofL (.ite (.fetchData ht) (.mk ht)) e2
  exact .setEntry ht2
theorem MemOk.stashTo {s core line data} (h : MemOk s) : MemOk (stashTo s core line data) :=
  .ite (.post (.setEntry (.setCore h))) (.post (.setEntry h))
theorem MemOk.wrfWrite {s line data stash} (h : MemOk s) : MemOk (wrfWrite s line data stash) := by
  unfold Machine.wrfWrite
  extract_lets h1 s1 s2
  have hs1 : MemOk s1 := .ite (.l2Put h) (.storeLine h)
  have hs2 : MemOk s2 := .recompare hs1
  split
  · exact .ite (.stashTo hs2) hs2
  · exact hs2
theorem MemOk.homeMerge {s st} (h : MemOk s) : MemOk (homeMerge s st) := by
  unfold Machine.homeMerge
  extract_lets line s1 s2 s3
  have hs1 : MemOk s1 := .injectL2 h
  have hs2 : MemOk s2 := .demandRead hs1
  have hs3 : MemOk s3 := by
    unfold s3
    split
    · exact .l2Put hs1
    · exact .storeLine hs2
  exact .recompare hs3
theorem MemOk.closeTxn {s x} (h : MemOk s) : MemOk (closeTxn s x) := by
  unfold Machine.closeTxn
  extract_lets r line _ e dir gone put data s1 s2 s3 s4
  have hput : ∀ a0 a1, MemOk a0 → MemOk (put a0 a1) := fun _ _ h1 => .setEntry h1
  have hs1 : MemOk s1 := hput _ _ h
  have hs2 : MemOk s2 := by
    unfold s2
    split
    · exact .homeMerge hs1
    · exact hs1
  have hs3 : MemOk s3 := by
    unfold s3
    split
    · split
      · exact .recompare (.ite (.storeLine hs1) (.l2Put hs1))
      · exact hs1
    · exact hs1
  have hs4 : MemOk s4 := .modTile (hput _ _ h)
  split
  · exact .ite (.answer (hput _ _ h)) (.ite (hput _ _ h) (.ite (hput _ _ h) (.ite (.answer (hput _ _ h)) (.answer (hput _ _ h)))))
  · exact .ite (.ite (.recompare (.storeLine (hput _ _ h))) (hput _ _ h)) (.ite (hput _ _ h) (.answer (hput _ _ h)))
  · exact .ite (hput _ _ h) (.ite (.answer (hput _ _ h)) (.ite (hput _ _ h) (.answer (hput _ _ h))))
  · exact .answer (hput _ _ h)
  · exact .answer hs2
  · exact .answer hs3
  · exact .answer (.cleanL2 (hput _ _ h))
  · exact .answer (.cleanL2 (hput _ _ h))
  · exact .answer (.recompare hs4)
  · exact .wrfWrite (hput _ _ h)
  · exact hput _ _ h
theorem MemOkOL.acceptReq {s r} (h : MemOk s) : MemOkOL (acceptReq s r) := by
  unfold Machine.acceptReq
  extract_lets inSet vs _ s1
  have hs1 : MemOk s1 := .setEntry h
  refine .ite ?_ (.some (.openTxn h))
  split
  · exact .none
  · exact .some (.setEntry (.openTxn hs1))
theorem MemOkOR.nextPrio {s tile line} (h : MemOk s) : MemOkOR (nextPrio s tile line) := by
  unfold Machine.nextPrio
  extract_lets q take
  have htake : ∀ p, MemOkOR (take p) := fun p r e => by
    obtain ⟨a, -, rfl⟩ := Option.map_eq_some_iff.mp e
    exact .modTile h
  split
  · next e => exact fun _ e' => Option.some.inj e' ▸ MemOkOR.ite (htake _) .none _ e
  · exact htake _
theorem MemOk.refuse {s r} (h : MemOk s) : MemOk (refuse s r) := .ite (.modTile h) (.answer h)

/-- A home's work on a line, which its own fuel bounds. -/
theorem MemOk.homeGo {fuel s line} (h : MemOk s) : MemOk (homeGo fuel s line) := by
  induction fuel generalizing s line with
  | zero => exact h
  | succ fuel ih =>
    rw [Machine.homeGo]
    split
    · exact h
    · refine .ite h ?_
      refine .ite ?_ ?_
      · split
        rename_i t t1 e
        have ht : MemOk t := .ofL (.sendSnoops h) e
        exact ih (.setEntry ht)
      · refine .ite ?_ ?_
        · split
          rename_i t t1 e
          have ht : MemOk t := .ofL (.fetchData h) e
          exact .ite (.setEntry ht) (ih (.setEntry ht))
        · extract_lets s1 s2
          have hs1 : MemOk s1 := .closeTxn h
          have hs2 : MemOk s2 := by
            unfold s2
            split
            · exact hs1
            · extract_lets _ s3
              have hs3 : MemOk s3 := .setEntry hs1
              refine .ite hs3 ?_
              split
              · rename_i t l1 e
                have ht : MemOk t := .ofOL (.acceptReq hs3) e
                exact ih ht
              · exact .refuse hs3
          split
          · exact hs2
          · rename_i t1 e
            have ht1 : MemOk t1 := .ofOR (.nextPrio hs2) e
            split
            · rename_i t l1 e1
              have ht : MemOk t := .ofOL (.acceptReq ht1) e1
              exact ih ht
            · exact hs2
theorem MemOk.deadAnswer {s r} (h : MemOk s) : MemOk (deadAnswer s r) := by
  unfold Machine.deadAnswer
  extract_lets lost h1
  split
  · exact .post h
  · exact .post h
  · exact .post h
  · exact .post h
  · exact .post h
  · exact .sarkCount (.post h)
theorem MemOk.takeReq {s r} (h : MemOk s) : MemOk (takeReq s r) := by
  unfold Machine.takeReq
  extract_lets h1 t waits
  refine .ite (.deadAnswer h) ?_
  refine .ite h ?_
  refine .ite (.refuse h) ?_
  refine .ite (.refuse h) ?_
  split
  · exact .refuse h
  · rename_i t1 l1 e
    have ht1 : MemOk t1 := .ofOL (.acceptReq h) e
    exact .homeGo (.modTile ht1)
theorem MemOk.returnCredit {s r} (h : MemOk s) : MemOk (returnCredit s r) := by
  unfold Machine.returnCredit
  split
  · exact .ite (.modCore h) h
  · exact h
theorem MemOk.trainAtom {s core i contended} (h : MemOk s) : MemOk (trainAtom s core i contended) := .modCore h
theorem MemOk.perfStore {s core st} (h : MemOk s) : MemOk (perfStore s core st) := by
  unfold Machine.perfStore
  extract_lets line
  split
  · exact h
  · exact .recompare (.modCore h)
theorem MemOk.sendWrm {s core st} (h : MemOk s) : MemOk (sendWrm s core st) := .post (.modCore h)
theorem MemOkO.takeStash {s core who line} (h : MemOk s) : MemOkO (takeStash s core who line) := by
  unfold Machine.takeStash
  extract_lets t
  have ht : MemOk t := .injectL2 h
  split
  · exact .ite (.map fun u e => .modCore (.modTile (.ofO (.makeRoom ht) e))) .none
  · exact .none
theorem MemOk.doStore {s core st} (h : MemOk s) : MemOk (doStore s core st) := .perfStore (.modCore h)
theorem MemOk.kickStore {s core st} (h : MemOk s) : MemOk (kickStore s core st) := by
  unfold Machine.kickStore
  extract_lets line c
  refine .ite h ?_
  split
  · split
    · split
      · rename_i t e
        have ht : MemOk t := .ofR (.l1dHit h) e
        exact .doStore ht
      · rename_i t e e1
        have ht : MemOk t := .ofR (.l1dHit h) e1
        exact ht
    · split
      · rename_i t e
        have ht : MemOk t := .ofR (.l1dHit h) e
        exact .doStore ht
      · rename_i t e e1
        have ht : MemOk t := .ofR (.l1dHit h) e1
        exact ht
    · exact .ite h (.getD (.missWrite h) h)
    · exact .ite h (.getD (.missWrite h) h)
    · exact h
  · refine .ite h ?_
    refine .ite (.sendWrm h) ?_
    split
    · rename_i t e
      have ht : MemOk t := .ofO (.takeStash h) e
      exact .doStore ht
    · exact .getD (.missWrite h) h
theorem MemOk.kickStores {s core} (h : MemOk s) : MemOk (kickStores s core) := .foldl (fun _ _ h => .kickStore h) h
theorem MemOk.issueStore {s core st} (h : MemOk s) : MemOk (issueStore s core st) := .kickStore (.modCore h)
theorem MemOk.wakePends {s core f} (h : MemOk s) : MemOk (wakePends s core f) := .modCore (.upd h)
theorem MemOk.wakeLine {s core line ifetch d contended early} (h : MemOk s) : MemOk (wakeLine s core line ifetch d contended early) :=
  .wakePends (.ite (.modCore h) h)
theorem MemOk.deliver {s r d contended} (h : MemOk s) : MemOk (deliver s r d contended) := by
  unfold Machine.deliver
  split
  · exact h
  · extract_lets f
    split
    · exact .modCtx h
    · exact .modCore h
theorem MemOkOR.takeFor {s k core line} (h : MemOk s) : MemOkOR (takeFor s k core line) := .takeMsg h
theorem MemOk.killFill {s core line} (h : MemOk s) : MemOk (killFill s core line) := .foldl (fun _ _ h => .sarkCount h) (.modCore h)
theorem MemOk.fill {s m st} (h : MemOk s) : MemOk (fill s m st) := by
  unfold Machine.fill
  extract_lets core line d s1 ifetch c
  have hs1 : MemOk s1 := .returnCredit h
  refine .ite ?_ ?_
  · split
    · exact .wakeLine (.setCore hs1)
    · exact hs1
  · split
    · exact hs1
    · extract_lets early s2 s3 s4 s5
      have hs2 : MemOk s2 := .setCore hs1
      have hs3 : MemOk s3 := .wakeLine hs2
      have hs4 : MemOk s4 := by
        unfold s4
        split
        · exact .ite (.countEvent hs3) hs3
        · exact hs3
      have hs5 : MemOk s5 := .ite (.evictL1 hs4) hs4
      exact .kickStores (.ite (.killFill hs5) hs5)
theorem MemOk.snoopReply {s m k st d fwd na} (h : MemOk s) : MemOk (snoopReply s m k st d fwd na) := .post h
theorem MemOk.forward {s m k d} (h : MemOk s) : MemOk (forward s m k d) := .post h
theorem MemOk.useOnce {s core line ifetch} (h : MemOk s) : MemOk (useOnce s core line ifetch) := .wakePends (.modCore h)
theorem MemOk.snoopL1i {s core line} (h : MemOk s) : MemOk (snoopL1i s core line) := by
  unfold Machine.snoopL1i
  split
  · split
    · exact .modCore h
    · exact .useOnce h
    · exact h
  · exact h
theorem MemOkL.snoopError {s k core line} (h : MemOk s) : MemOkL (snoopError s k core line) := by
  unfold Machine.snoopError
  split
  · exact .mk h
  · extract_lets reads
    refine .ite (.mk h) ?_
    split
    · rename_i t e
      have ht : MemOk t := .ofL (.l1dError h) e
      exact .mk (.modCore ht)
    · rename_i t e
      have ht : MemOk t := .ofL (.l1dError h) e
      exact .mk ht
theorem MemOk.snoopAbsent {s m core line inval i} (h : MemOk s) : MemOk (snoopAbsent s m core line inval i) := by
  unfold Machine.snoopAbsent
  split
  · exact .ite (.snoopReply (.useOnce h)) (.snoopReply h)
  · exact .snoopReply h
theorem MemOk.snoopHeld {s m k core line l} (h : MemOk s) : MemOk (snoopHeld s m k core line l) := by
  unfold Machine.snoopHeld
  extract_lets inval set del ack data
  have hset : ∀ a0 a1, MemOk a0 → MemOk (set a0 a1) := fun _ _ h1 => .modCore h1
  have hdel : ∀ a0, MemOk a0 → MemOk (del a0) := fun _ h1 => .modCore h1
  have hack : ∀ a0 a1 a2, MemOk a0 → MemOk (ack a0 a1 a2) := fun _ _ _ h1 => .snoopReply h1
  have hdata : ∀ a0 a1, MemOk a0 → MemOk (data a0 a1) := fun _ _ h1 => .snoopReply h1
  split
  · exact .snoopReply (.useOnce h)
  · exact h
  · exact .snoopReply h
  · exact .ite (hack _ _ _ (hdel _ h)) (.ite (hdata _ _ h) (hack _ _ _ h))
  · exact .ite (hack _ _ _ (hset _ _ h)) (.ite (hdata _ _ h) (hack _ _ _ h))
  · split
    · exact hack _ _ _ (.forward (hset _ _ h))
    · exact hack _ _ _ (.forward (hdel _ h))
    · exact .snoopReply h
    · exact hack _ _ _ h
    · exact hack _ _ _ (hdel _ h)
  · split
    · exact .ite (.snoopReply h) (hack _ _ _ (.forward (hset _ _ h)))
    · exact hack _ _ _ (.forward (hdel _ h))
    · exact hack _ _ _ (hdel _ h)
    · exact hdata _ _ h
    · exact hdata _ _ (hset _ _ h)
    · exact hdata _ _ (hdel _ h)
  · split
    · exact hack _ _ _ (.forward (hdel _ h))
    · exact hack _ _ _ (hdel _ h)
    · exact hdata _ _ h
    · exact hdata _ _ (hset _ _ h)
    · exact hack _ _ _ (.forward h)
    · exact hdata _ _ (hdel _ h)
  · split
    · exact hack _ _ _ (.forward h)
    · exact hack _ _ _ (.forward (hset _ _ h))
    · exact hack _ _ _ (hset _ _ h)
    · exact hdata _ _ h
    · exact hdata _ _ (hset _ _ h)
    · exact hdata _ _ (hset _ _ h)
theorem MemOk.snoop {s k core line} (h : MemOk s) : MemOk (snoop s k core line) := by
  unfold Machine.snoop
  split
  · exact h
  · rename_i t e
    have ht : MemOk t := .ofOR (.takeFor h) e
    refine .ite h ?_
    extract_lets i inval
    split
    · rename_i t1 e1
      have ht1 : MemOk t1 := .ofL (.snoopError ht) e1
      exact .snoopReply (.ite (.snoopL1i ht1) ht1)
    · rename_i t1 e1
      have ht1 : MemOk t1 := .ofL (.snoopError ht) e1
      split
      · exact .snoopAbsent (.ite (.snoopL1i ht1) ht1)
      · exact .snoopHeld (.ite (.snoopL1i ht1) ht1)
theorem MemOk.snoopAnswer {s k core line} (h : MemOk s) : MemOk (snoopAnswer s k core line) := by
  unfold Machine.snoopAnswer
  split
  · exact h
  · rename_i t e
    have ht : MemOk t := .ofOR (.takeMsg h) e
    extract_lets e1 _ _
    split
    · exact ht
    · refine .ite ht ?_
      extract_lets x1 x2 clean x3 s1 s2
      have hs1 : MemOk s1 := .setEntry ht
      have hs2 : MemOk s2 := by
        unfold s2
        split
        · exact .ite hs1 (.absorb hs1)
        · exact hs1
      split
      · exact .homeGo (.setEntry ht)
      · exact .homeGo hs2
      · exact .ite (.homeGo (.setEntry ht)) (.setEntry ht)
      · exact .homeGo (.setEntry ht)
      · exact .homeGo (.setEntry ht)
      · exact ht
theorem MemOk.homeWb {s k core line} (h : MemOk s) : MemOk (homeWb s k core line) := by
  unfold Machine.homeWb
  split
  · exact h
  · rename_i t e
    have ht : MemOk t := .ofOR (.takeMsg h) e
    extract_lets t1 wba e1 e' inv x1 s1 s2
    have hwba : ∀ a0, MemOk a0 → MemOk (wba a0) := fun _ h1 => .ite h1 (.post h1)
    have hs1 : MemOk s1 := .setEntry ht
    have hs2 : MemOk s2 := by
      unfold s2
      split
      · exact .ite hs1 (.absorb hs1)
      · exact hs1
    exact .ite (.sarkCount (hwba _ ht)) (.ite ht (.homeGo (hwba _ hs2)))
theorem MemOk.homeReq {s k core line} (h : MemOk s) : MemOk (homeReq s k core line) := by
  unfold Machine.homeReq
  split
  · exact h
  · rename_i t e
    have ht : MemOk t := .ofOR (.takeMsg h) e
    extract_lets rivals s' first s'1 s'2
    have hs' : MemOk s' := .foldl (fun _ _ h => .homeWb h) ht
    have hs'1 : MemOk s'1 := .upd hs'
    have hs'2 : MemOk s'2 := by
      unfold s'2
      split
      · exact .takeReq hs'1
      · exact hs'1
    refine .foldl (fun s1 n h1 => ?_) hs'2
    split
    · exact .refuse h1
    · exact h1
theorem MemOk.memArrived {s line} (h : MemOk s) : MemOk (memArrived s line) := by
  unfold Machine.memArrived
  extract_lets e d mate
  split
  · refine .ite ?_ h
    extract_lets keeps s1 s2 s3
    have hs1 : MemOk s1 := .setEntry h
    have hs2 : MemOk s2 := .ite (.l2Put hs1) hs1
    have hs3 : MemOk s3 := .ite (.l2Put hs2) hs2
    exact .homeGo hs3
  · exact h

/-! ### Requests, snoops and answers -/

theorem MemOk.wrf {s line data stash} (h : MemOk s) : MemOk (wrf s line data stash) :=
  .ite (.sarkCount h) (.ite (.wakeTile h) (.homeGo (.openTxn (.wakeTile h))))
theorem MemOk.tagFault {s core set} (h : MemOk s) : MemOk (tagFault s core set) := .foldl (fun _ _ h => .post h) (.setCore h)
theorem MemOk.tagQuery {s core set tile} (h : MemOk s) : MemOk (tagQuery s core set tile) := by
  unfold Machine.tagQuery
  extract_lets s1
  have hs1 : MemOk s1 := .ite h (.tagFault h)
  split
  · rename_i t e
    have ht : MemOk t := .ofOR (.takeMsg hs1) e
    exact .post ht
  · exact hs1
theorem MemOk.recoverOwned {s core line sole} (h : MemOk s) : MemOk (recoverOwned s core line sole) := by
  unfold Machine.recoverOwned
  split
  · exact h
  · extract_lets armed s1 s2
    have hs1 : MemOk s1 := .setEntry (.modCore h)
    have hs2 : MemOk s2 := .modTile hs1
    refine .ite (.evictL1 (.modCore h)) ?_
    split
    · exact .absorb hs1
    · exact .recompare (.storeLine hs2)
theorem MemOk.recoverWay {s core w owner sole} (h : MemOk s) : MemOk (recoverWay s core w owner sole) :=
  .ite (.recoverOwned h) (.ite (.post (.modCore h)) (.evictL1 (.modCore h)))
theorem MemOk.recoverSet {s core set} (h : MemOk s) : MemOk (recoverSet s core set) := by
  unfold Machine.recoverSet
  split
  · exact h
  · extract_lets owned sole step
    have hstep : ∀ (l : List (Bool × Nat)) p, MemOkL p → MemOkL (l.foldl step p) := fun l p hp =>
      .foldl (fun s b a h => .ite (.mk (.recoverWay h)) (.mk h)) hp
    split
    next t left e =>
    have ht : MemOk t := .ofL (hstep _ _ (.mk h)) e
    exact .ite (.kickStores (.sarkCount (.modCore ht))) (.modCore ht)
theorem MemOk.tagAnswer {s core set} (h : MemOk s) : MemOk (tagAnswer s core set) := by
  unfold Machine.tagAnswer
  split
  · exact h
  · rename_i t e
    have ht : MemOk t := .ofOR (.takeFor h) e
    exact .ite (.setCore ht) (.recoverSet (.modCore (.setCore ht)))
theorem MemOk.stashRefused {s core line} (h : MemOk s) : MemOk (stashRefused s core line) := by
  unfold Machine.stashRefused
  split
  · exact h
  · rename_i t e
    have ht : MemOk t := .ofOR (.takeMsg h) e
    exact .homeGo (.ite (.setEntry (.ite ht (.l2Put ht))) (.setEntry (.l2Put ht)))
theorem MemOk.retried {s core line} (h : MemOk s) : MemOk (retried s core line) := by
  unfold Machine.retried
  split
  · exact h
  · rename_i t e
    have ht : MemOk t := .ofOR (.takeFor h) e
    extract_lets s1
    have hs1 : MemOk s1 := .returnCredit ht
    split
    · exact .modCore hs1
    · exact hs1
theorem MemOk.sendReq {s r} (h : MemOk s) : MemOk (sendReq s r) := .post h
theorem MemOk.resend {s core line} (h : MemOk s) : MemOk (resend s core line) := by
  unfold Machine.resend
  extract_lets c h1
  split
  · exact h
  · exact .ite (.sendReq (.setCore h)) h
theorem MemOk.notServed {s core line} (h : MemOk s) : MemOk (notServed s core line) := by
  unfold Machine.notServed
  split
  · exact h
  · rename_i t e
    have ht : MemOk t := .ofOR (.takeFor h) e
    extract_lets s1 waits wanted
    have hs1 : MemOk s1 := .returnCredit ht
    refine .ite ?_ (.modCore hs1)
    split
    · exact .sendReq hs1
    · exact hs1
theorem MemOk.progress {s core line} (h : MemOk s) : MemOk (progress s core line) := by
  unfold Machine.progress
  split
  · exact h
  · rename_i t e
    have ht : MemOk t := .ofOR (.takeFor h) e
    exact .ite ht (.foldl (fun _ _ h => .ite (.queueSwap (.countEvent (.modCtx h))) h) ht)
theorem MemOk.granted {s core line} (h : MemOk s) : MemOk (granted s core line) := by
  unfold Machine.granted
  split
  · exact h
  · rename_i t e
    have ht : MemOk t := .ofOR (.takeFor h) e
    extract_lets s1
    have hs1 : MemOk s1 := .returnCredit ht
    split
    · exact .ite (.kickStores (.wakeLine (.modCore hs1))) hs1
    · exact hs1
theorem MemOk.completed {s core line} (h : MemOk s) : MemOk (completed s core line) := by
  unfold Machine.completed
  split
  · exact h
  · rename_i t e
    have ht : MemOk t := .ofOR (.takeFor h) e
    extract_lets s1
    have hs1 : MemOk s1 := .returnCredit ht
    split
    · split
      · exact .kickStores (.modCore hs1)
      · exact .deliver hs1
    · exact hs1
theorem MemOk.wbDone {s core line} (h : MemOk s) : MemOk (wbDone s core line) := by
  unfold Machine.wbDone
  split
  · exact h
  · rename_i t e
    have ht : MemOk t := .ofOR (.takeFor h) e
    extract_lets gone s1 s2
    have hs1 : MemOk s1 := .modCore ht
    have hs2 : MemOk s2 := .wakePends hs1
    exact .kickStores (.foldl (fun _ _ h => .recoverSet h) hs2)
theorem MemOk.dataTo {s k st core line} (h : MemOk s) : MemOk (dataTo s k st core line) := by
  unfold Machine.dataTo
  split
  · exact h
  · rename_i t e
    have ht : MemOk t := .ofOR (.takeFor h) e
    exact .fill ht
theorem MemOk.uncached {s core line} (h : MemOk s) : MemOk (uncached s core line) := by
  unfold Machine.uncached
  split
  · exact h
  · rename_i t e
    have ht : MemOk t := .ofOR (.takeFor h) e
    extract_lets s1
    have hs1 : MemOk s1 := .returnCredit ht
    split
    · split
      · exact .deliver hs1
      · split
        · exact .trainAtom (.modCore hs1)
        · exact hs1
    · exact hs1
theorem MemOk.drainStep {s core} (h : MemOk s) : MemOk (drainStep s core) :=
  .ite h (.ite (.setCore h) (.foldl (fun _ _ h => .ite (.evictL1 h) h) h))
theorem MemOk.healStep {s core} (h : MemOk s) : MemOk (healStep s core) := by
  unfold Machine.healStep
  split
  · exact h
  · extract_lets line c own
    refine .ite h ?_
    refine .ite (.ite h (.sendReq (.modCore h))) ?_
    refine .ite ?_ ?_
    · split
      · rename_i t e
        have ht : MemOk t := .ofR (.l1dHit h) e
        extract_lets s1
        have hs1 : MemOk s1 := .trainAtom (.modCore ht)
        split
        · exact .ite (.perfStore hs1) hs1
        · exact hs1
      · rename_i t e e1
        have ht : MemOk t := .ofR (.l1dHit h) e1
        exact ht
    · split
      · rename_i t e
        have ht : MemOk t := .ofO (.takeStash h) e
        exact ht
      · exact .getD (.missWrite h) h
theorem MemOk.appendStep {s core} (h : MemOk s) : MemOk (appendStep s core) := by
  unfold Machine.appendStep
  split
  · exact h
  · exact .issueStore (.countEvent (.modCore h))
theorem MemOk.reclaimEntry {s core line} (h : MemOk s) : MemOk (reclaimEntry s core line) := by
  unfold Machine.reclaimEntry
  extract_lets e h1 owner lose s1 e1
  have hlose : ∀ a0, MemOk a0 → MemOk (lose a0) := fun _ h2 => .recompare (.storeLine (.modTile h2))
  have hs1 : MemOk s1 := by
    unfold s1
    refine .ite (.setEntry h) ?_
    refine .ite ?_ (hlose _ (.setEntry h))
    split
    · exact .setEntry (.l2Put h)
    · exact hlose _ (.setEntry h)
  split
  · exact hs1
  · exact .homeGo (.setEntry hs1)
theorem MemOk.lastAnswers {s core} (h : MemOk s) : MemOk (lastAnswers s core) := .foldl (fun _ _ h => .snoopAnswer h) h
theorem MemOk.reclaimCore {s core} (h : MemOk s) : MemOk (reclaimCore s core) := by
  unfold Machine.reclaimCore
  extract_lets s1 mine s2 s3 s4
  have hs1 : MemOk s1 := .lastAnswers h
  have hs2 : MemOk s2 := .upd hs1
  have hs3 : MemOk s3 := .upd hs2
  have hs4 : MemOk s4 := .modCore hs3
  exact .foldl (fun _ _ h => .foldl (fun _ _ h => .ite (.reclaimEntry h) h) h) hs4

/-! ### The memory controllers -/

theorem MemOk.codewordRead {s pair} (h : MemOk s) : MemOk (codewordRead s pair) := .ite (.memArrived (.memArrived (.demandRead h))) h
theorem MemOk.readReserve {s p} (h : MemOk s) : MemOk (readReserve s p) := by
  unfold Machine.readReserve
  split
  · exact h
  · extract_lets _ s1
    have hs1 : MemOk s1 := .updMem h
    split
    · exact hs1
    · exact .corrected hs1
    · exact .uncorrected hs1
theorem MemOk.scrub {s mc} (h : MemOk s) : MemOk (scrub s mc) := by
  unfold Machine.scrub
  extract_lets m group q here busy t
  have ht : MemOk t := by
    unfold t
    clear_value here
    split
    · exact .ite h (.demandRead h)
    · exact .ite (.readReserve h) h
  exact .ite h (.ite h (.ite (.mcEvent (.setMc ht)) (.setMc ht)))
theorem MemOk.eraseUnit {s mc unit} (h : MemOk s) : MemOk (eraseUnit s mc unit) := .ite (.groupRetiring h) (.setUnit h)
theorem MemOk.scrubbed {s mc unit found oneRow} (h : MemOk s) : MemOk (scrubbed s mc unit found oneRow) :=
  .ite h (.ite (.setUnit (.setMc h)) (.ite (.persist (.setMc (.setMc h))) (.eraseUnit (.setMc h))))
theorem MemOk.windowExpiry {s mc ue unit} (h : MemOk s) : MemOk (windowExpiry s mc ue unit) := .ite (.setMc h) (.setMc h)
theorem MemOk.softPpr {s mc unit ok} (h : MemOk s) : MemOk (softPpr s mc unit ok) :=
  .ite h (.ite (.setUnit (.foldl (fun _ _ h => .demandRead h) h)) (.eraseUnit (.setMc h)))
theorem MemOk.takePage {s k} (h : MemOk s) : MemOk (takePage s k) := by
  unfold Machine.takePage
  extract_lets x room _
  split
  · exact h
  · exact .updMem h
theorem MemOk.retirePc {s pc} (h : MemOk s) : MemOk (retirePc s pc) := .persist (.setGroupSt (.foldl (fun _ _ h => .takePage h) h))
theorem MemOk.pcMove {s pc q} (h : MemOk s) : MemOk (pcMove s pc q) := by
  unfold Machine.pcMove
  extract_lets mc g
  split
  · refine .ite h ?_
    extract_lets s1 s2 _ s3
    have hs1 : MemOk s1 := .demandRead h
    have hs2 : MemOk s2 := .ite (.takePage hs1) hs1
    have hs3 : MemOk s3 := .updMem hs2
    exact .ite (.retirePc hs3) hs3
  · exact h

/-! ### The arrays and their error records -/

theorem MemOk.dropEntry {s a line} (h : MemOk s) : MemOk (dropEntry s a line) := by
  unfold Machine.dropEntry
  split
  · exact .modCore h
  · exact .modCore h
  · exact .modTile h
  · exact .modTile h
theorem MemOk.arrayInvalidate {s a set way} (h : MemOk s) : MemOk (arrayInvalidate s a set way) := by
  unfold Machine.arrayInvalidate
  refine .ite ?_ h
  split
  · exact .dropEntry h
  · exact h
theorem MemOk.clearArray {s a} (h : MemOk s) : MemOk (clearArray s a) := .foldl (fun _ _ h => .arrayInvalidate h) h
theorem MemOk.clearArrays {s} (h : MemOk s) : MemOk (clearArrays s) := .foldl (fun _ _ h => .clearArray h) h

/-! ### Memory as the agents read and write it -/

theorem MemOk.deliverMsg {s m} (h : MemOk s) : MemOk (deliverMsg s m) := by
  unfold Machine.deliverMsg
  split
  · exact .snoop h
  · exact .snoop h
  · exact .snoop h
  · exact .snoop h
  · exact .snoop h
  · exact .snoop h
  · exact .snoopAnswer h
  · exact .snoopAnswer h
  · exact .snoopAnswer h
  · exact .snoopAnswer h
  · exact .snoopAnswer h
  · exact .stashRefused h
  · exact .homeWb h
  · exact .homeWb h
  · exact .granted h
  · exact .dataTo h
  · exact .dataTo h
  · exact .dataTo h
  · exact h
theorem MemOk.settleLine {fuel s line} (h : MemOk s) : MemOk (settleLine fuel s line) := by
  induction fuel generalizing s with
  | zero => exact h
  | succ fuel ih =>
    rw [Machine.settleLine]
    refine .ite ?_ h
    split
    · exact ih (.deliverMsg h)
    · split
      · exact .ite (ih (.memArrived (.demandRead h))) h
      · exact h
theorem MemOk.reachHome {s line} (h : MemOk s) : MemOk (reachHome s line) := .settleLine (.wakeTile h)
theorem MemOkR.agentRead {s key} (h : MemOk s) : MemOkR (agentRead s key) := by
  unfold Machine.agentRead
  extract_lets line s1 s2 s3
  have hs1 : MemOk s1 := .reachHome h
  have hs2 : MemOk s2 := .injectL2 hs1
  have hs3 : MemOk s3 := .ite hs1 (.ite hs2 (.demandRead hs2))
  exact .ite (.mk h) (.mk hs3)
theorem MemOk.pokeLine {s line f} (h : MemOk s) : MemOk (pokeLine s line f) := .setTile (.upd (.storeLine h))
theorem MemOk.dropCopies {s line} (h : MemOk s) : MemOk (dropCopies s line) := .foldl (fun _ _ h => .useOnce (.useOnce h)) (.upd h)
theorem MemOk.ownerBack {s line} (h : MemOk s) : MemOk (ownerBack s line) := by
  unfold Machine.ownerBack
  split
  · exact .absorb h
  · exact h
theorem MemOk.agentModify {s line install f} (h : MemOk s) : MemOk (agentModify s line install f) := by
  unfold Machine.agentModify
  refine .ite (.sarkCount h) ?_
  extract_lets s1 s2 s3 s4 s5
  have hs1 : MemOk s1 := .reachHome h
  have hs2 : MemOk s2 := .injectL2 (.dropCopies (.ownerBack hs1))
  have hs3 : MemOk s3 := .modTile hs2
  have hs4 : MemOk s4 := .demandRead hs3
  have hs5 : MemOk s5 := by
    unfold s5
    refine .ite (.pokeLine hs1) ?_
    split
    · exact .l2Put hs3
    · exact .ite (.l2Put hs4) (.storeLine hs4)
  exact .recompare hs5
theorem MemOk.agentWrite {s key w mask} (h : MemOk s) : MemOk (agentWrite s key w mask) := .agentModify h
theorem MemOk.agentLine {s line data stash} (h : MemOk s) : MemOk (agentLine s line data stash) := by
  unfold Machine.agentLine
  refine .ite (.sarkCount h) ?_
  extract_lets s1 s2
  have hs1 : MemOk s1 := .reachHome h
  have hs2 : MemOk s2 := .dropCopies hs1
  exact .ite (.recompare (.pokeLine hs1)) (.wrfWrite (.modTile hs2))
theorem MemOkR.agentAtom {s key op rt rd} (h : MemOk s) : MemOkR (agentAtom s key op rt rd) := by
  unfold Machine.agentAtom
  split
  rename_i t e
  have ht : MemOk t := .ofR (.agentRead h) e
  split
  · exact .mk ht
  · exact .mk (.agentModify ht)
theorem MemOk.flushTracked {s} (h : MemOk s) : MemOk (flushTracked s) := by
  unfold Machine.flushTracked
  extract_lets s1 s2 l1i l1d sf cores tiles
  have hs1 : MemOk s1 := .foldl (fun _ _ h => .settleLine h) h
  have hs2 : MemOk s2 := by
    unfold s2
    refine .foldl (fun s3 c h1 => ?_) hs1
    refine .foldl (fun s4 l h2 => ?_) h1
    split
    · exact .absorb h2
    · exact .absorb h2
    · exact .absorb h2
    · exact h2
  exact .upd hs2

/-! ### Table walks -/

theorem MemOk.tlbInstall {s a e1} (h : MemOk s) : MemOk (tlbInstall s a e1) := by
  unfold Machine.tlbInstall
  split
  · exact h
  · exact .upd h
theorem MemOkR.walkLevels {rd t va addr n fuel l tab dev s} (hrd : ∀ k s, MemOk s → MemOkR (rd k s)) (h : MemOk s) :
    MemOkR (walkLevels rd t va addr n fuel l tab dev s) := by
  induction fuel generalizing l tab dev s with
  | zero => exact h
  | succ fuel ih =>
    rw [Machine.walkLevels]
    refine .ite (.mk h) ?_
    refine .ite (.mk h) ?_
    split
    · exact ih h
    · split
      · rename_i t1 e
        have ht1 : MemOk t1 := .ofR (hrd _ _ h) e
        exact .mk ht1
      · rename_i t1 e
        have ht1 : MemOk t1 := .ofR (hrd _ _ h) e
        split
        · exact .mk ht1
        · exact .ite (.mk ht1) (.ite (.mk ht1) (.ite (.mk (.ite (.tlbInstall ht1) ht1)) (ih (.tlbInstall ht1))))
theorem MemOkR.walkRoot {rd t va addr rootLpa s} (hrd : ∀ a0 a1, MemOk a1 → MemOkR (rd a0 a1)) (h : MemOk s) : MemOkR
    (walkRoot rd t va addr rootLpa s) := by
  unfold Machine.walkRoot
  extract_lets go
  have hgo : ∀ a0 a1, MemOk a1 → MemOkR (go a0 a1) := fun _ _ h1 => .ite (.mk h1) (.ite (.mk h1) (.ite (.mk h1) (.walkLevels hrd h1)))
  split
  · exact hgo _ _ h
  · split
    · rename_i t1 e
      have ht1 : MemOk t1 := .ofR (hrd _ _ h) e
      exact .mk ht1
    · rename_i t1 e
      have ht1 : MemOk t1 := .ofR (hrd _ _ h) e
      split
      · exact .mk ht1
      · exact hgo _ _ (.ite (.tlbInstall ht1) ht1)
theorem MemOkR.walkPrivate {rd t va s} (hrd : ∀ a0 a1, MemOk a1 → MemOkR (rd a0 a1)) (h : MemOk s) : MemOkR (walkPrivate rd t va s) := by
  unfold Machine.walkPrivate
  refine .ite (.mk h) ?_
  split
  · exact .mk h
  · split
    · exact .mk h
    · exact .walkRoot hrd h
theorem MemOkR.agentReader {x0 s} (h : MemOk s) : MemOkR (agentReader x0 s) := .mk (.snd (.agentRead h))
theorem MemOkR.walkHome {t va s} (h : MemOk s) : MemOkR (walkHome t va s) := by
  unfold Machine.walkHome
  extract_lets off t1
  split
  · exact .mk h
  · extract_lets r
    have hr : MemOkR r := by
      unfold r
      split
      · exact .mk h
      · exact .walkRoot (fun _ _ h1 => .agentReader h1) h
    exact .mk (.snd hr)
theorem MemOkR.walkAgent {tlb w space acc cached va s} (h : MemOk s) : MemOkR (walkAgent tlb w space acc cached va s) := by
  unfold Machine.walkAgent
  extract_lets t r
  have hr : MemOkR r := .walkPrivate (fun _ _ h1 => .agentReader h1) h
  exact .mk (.snd hr)

/-! ### Global addresses -/

theorem MemOk.logXlate {s dev w sup va f lpa} (h : MemOk s) : MemOk (logXlate s dev w sup va f lpa) := .countUp (.upd h)
theorem MemOk.homeDrop {s w va e1} (h : MemOk s) : MemOk (homeDrop s w va e1) := .ite (.upd h) h
theorem MemOkR.homeXlate {s dev w sup acc va} (h : MemOk s) : MemOkR (homeXlate s dev w sup acc va) := by
  unfold Machine.homeXlate
  refine .ite (.mk h) ?_
  split
  · rename_i t e
    have ht : MemOk t := .ofR (.walkHome h) e
    exact .mk ht
  · rename_i t e1
    have ht : MemOk t := .ofR (.walkHome h) e1
    exact .mk (.logXlate (.homeDrop ht))
  · rename_i t e
    have ht : MemOk t := .ofR (.walkHome h) e
    exact .mk ht
theorem MemOkR.homeLoad {s dev w sup va} (h : MemOk s) : MemOkR (homeLoad s dev w sup va) := by
  unfold Machine.homeLoad
  split
  · rename_i t e
    have ht : MemOk t := .ofR (.homeXlate h) e
    exact .mk (.snd (.agentRead ht))
  · rename_i t e
    have ht : MemOk t := .ofR (.homeXlate h) e
    exact .mk ht
theorem MemOkR.homeStore {s dev w sup va word size mask} (h : MemOk s) : MemOkR (homeStore s dev w sup va word size mask) := by
  unfold Machine.homeStore
  split
  · rename_i t e
    have ht : MemOk t := .ofR (.homeXlate h) e
    exact .mk ht
  · rename_i t e
    have ht : MemOk t := .ofR (.homeXlate h) e
    extract_lets key r b
    have hr : MemOkR r := .agentRead ht
    refine .ite (.mk (.agentWrite ht)) ?_
    split
    · exact .mk (.snd hr)
    · exact .mk (.agentWrite (.snd hr))
theorem MemOkR.homeAtom {s dev w sup va op rt rd} (h : MemOk s) : MemOkR (homeAtom s dev w sup va op rt rd) := by
  unfold Machine.homeAtom
  split
  · rename_i t e
    have ht : MemOk t := .ofR (.homeXlate h) e
    exact .mk ht
  · rename_i t e
    have ht : MemOk t := .ofR (.homeXlate h) e
    extract_lets key
    split
    · rename_i t1 e1
      have ht1 : MemOk t1 := .ofR (.agentAtom ht) e1
      exact .mk ht1
    · rename_i t1 e1
      have ht1 : MemOk t1 := .ofR (.agentAtom ht) e1
      exact .mk ht1
theorem MemOkOR.sendOp {s o lcn w sup vc b} (h : MemOk s) : MemOkOR (sendOp s o lcn w sup vc b) := by
  unfold Machine.sendOp
  split
  · exact .none
  · next e => exact .some (.sendMsg (.takeOp h e))
theorem MemOkO.ownSlot {s} (h : MemOk s) : MemOkO (ownSlot s) := by
  unfold Machine.ownSlot
  split
  · exact .none
  · exact .some (.freeOpSlot h)
theorem MemOk.wakeSlotWaits {s} (h : MemOk s) : MemOk (wakeSlotWaits s) := .foldl (fun _ _ h => .ite (.endWait h) h) h
theorem MemOk.closeOp {s k} (h : MemOk s) : MemOk (closeOp s k) := .wakeSlotWaits (.freeOpSlot h)

/-! ### Collectives -/

theorem MemOk.sendColl {s port m} (h : MemOk s) : MemOk (sendColl s port m) := .sendMsg h
theorem MemOk.collNotify {s n} (h : MemOk s) : MemOk (collNotify s n) := by
  unfold Machine.collNotify
  extract_lets g s1 s2
  have hs1 : MemOk s1 := .ite (.ringBits h) h
  have hs2 : MemOk s2 := .upd hs1
  exact .ite (.signal hs2) hs1
theorem MemOk.groupError {s n err dev} (h : MemOk s) : MemOk (groupError s n err dev) :=
  .ite h (.collNotify (.ite (.setGroup h) (.ite (.foldl (fun _ _ h => .sendColl h) (.setGroup h)) (.ite (.setGroup h) (.sendColl
      (.setGroup h))))))
theorem MemOkR.readWords {s key n} (h : MemOk s) : MemOkR (readWords s key n) := by
  induction n generalizing s key with
  | zero => exact h
  | succ n ih => exact ih (.snd (.agentRead h))
theorem MemOk.writeWords {s key ws} (h : MemOk s) : MemOk (writeWords s key ws) := by
  induction ws generalizing s key with
  | nil => exact h
  | cons w r ih => exact ih (.agentWrite h)
theorem MemOk.collDone {s n ws} (h : MemOk s) : MemOk (collDone s n ws) :=
  .ite (.groupError (.setGroup h)) (.collNotify (.setGroup (.writeWords h)))
theorem MemOk.tellSeq {s n} (h : MemOk s) : MemOk (tellSeq s n) := .ite (.seqEvent h) h
theorem MemOk.nextWave {s n} (h : MemOk s) : MemOk (nextWave s n) := .tellSeq (.setGroup h)
theorem MemOk.sendDown {s n term ws} (h : MemOk s) : MemOk (sendDown s n term ws) := .foldl (fun _ _ h => .sendColl h) h
theorem MemOk.rootResult {s n v} (h : MemOk s) : MemOk (rootResult s n v) :=
  .ite (.ite (.tellSeq (.collDone (.sendDown (.setGroup h)))) (.setGroup h)) (.collDone (.sendDown (.setGroup h)))
theorem MemOk.collGo {s n} (h : MemOk s) : MemOk (collGo s n) := by
  unfold Machine.collGo
  extract_lets g s1 mine g1 v g2 s2
  have hs1 : MemOk s1 := .setGroup h
  have hs2 : MemOk s2 := .setGroup hs1
  refine .ite h ?_
  split
  · exact .groupError h
  · exact .ite h (.ite (.groupError hs1) (.ite (.ite (.rootResult (.setGroup hs1)) (.sendColl hs2)) hs1))
theorem MemOk.contribute {s n} (h : MemOk s) : MemOk (contribute s n) := by
  unfold Machine.contribute
  extract_lets g k set r want
  have hset : ∀ a0 a1, MemOk a0 → MemOk (set a0 a1) := fun _ _ h1 => .collGo (.setGroup h1)
  have hr : MemOkR r := .readWords h
  split
  · exact hset _ _ h
  · exact h
  · exact .ite (hset _ _ h) (.ite (.groupError h) (.ite (.groupError (.snd hr)) (hset _ _ (.snd hr))))
theorem MemOk.collStart {s n} (h : MemOk s) : MemOk (collStart s n) :=
  .ite (.setGroup h) (.ite h (.ite (.groupError (.setGroup h)) (.collGo (.contribute (.setGroup h)))))
theorem MemOk.collDrop {s} (h : MemOk s) : MemOk (collDrop s) := .countUp h
theorem MemOk.collUp {s n port m} (h : MemOk s) : MemOk (collUp s n port m) :=
  .ite (.collDrop h) (.ite (.groupError (.collDrop h)) (.ite (.ite (.groupError (.collDrop h)) (.setGroup h)) (.ite (.groupError
      (.collDrop h)) (.ite h (.ite (.collGo (.setGroup h)) (.groupError (.collDrop h)))))))
theorem MemOk.collDown {s n port m} (h : MemOk s) : MemOk (collDown s n port m) := by
  unfold Machine.collDown
  extract_lets g fwd s1 s2
  have hfwd : ∀ a0, MemOk a0 → MemOk (fwd a0) := fun _ h1 => .foldl (fun _ _ h => .sendColl h) h1
  have hs1 : MemOk s1 := hfwd _ (.setGroup h)
  have hs2 : MemOk s2 := hfwd _ (.setGroup h)
  exact .ite (.collDrop h) (.ite (.groupError (.collDrop h)) (.ite (.groupError (.collDrop h)) (.ite h (.ite (hfwd _ (.setGroup h)) (.ite
      (.tellSeq (.collNotify hs1)) (.ite (.nextWave hs2) (.tellSeq (.collDone hs2))))))))
theorem MemOk.collRecv {s port m} (h : MemOk s) : MemOk (collRecv s port m) := by
  unfold Machine.collRecv
  refine .ite h ?_
  split
  · exact .ite (.collDrop h) (.ite (.collDown h) (.collUp h))
  · exact .ite (.collDrop h) (.ite (.collDown h) (.collUp h))
  · exact .ite (.collDrop h) (.ite (.collDown h) (.collUp h))
  · exact .ite (.collDrop h) (.ite (.collDown h) (.collUp h))
  · exact .upd (.wakeDevice h)
  · exact .collDrop h
  · exact .collDrop h
  · exact .collDrop h
  · exact .collDrop h
  · exact h
  · exact h
  · exact h
theorem MemOkOut.execColl {port m s} (h : MemOk s) : MemOkOut (execColl port m s) := .next (.tick (.collRecv h))
theorem MemOk.qPeriod {s n} (h : MemOk s) : MemOk (qPeriod s n) := by
  unfold Machine.qPeriod
  extract_lets g
  split
  · exact .ite (.nextWave (.sendDown h)) h
  · exact h
theorem MemOk.qup {s n} (h : MemOk s) : MemOk (qup s n) := .ite (.collGo (.setGroup h)) h
theorem MemOk.groupsError {s p err} (h : MemOk s) : MemOk (groupsError s p err) := .foldl (fun _ _ h => .ite (.groupError h) h) h
theorem MemOk.groupsLink {s port} (h : MemOk s) : MemOk (groupsLink s port) := .foldl (fun _ _ h => .ite (.groupError h) h) h

/-! ### The engines of Teasel -/

theorem MemOk.applyGc {s agent} (h : MemOk s) : MemOk (applyGc s agent) := .ite (.upd h) h
theorem MemOk.startProgram {s k entry} (h : MemOk s) : MemOk (startProgram s k entry) := .setSq h
theorem MemOk.vlHalt {s ch err addr info} (h : MemOk s) : MemOk (vlHalt s ch err addr info) := by
  unfold Machine.vlHalt
  extract_lets c c1 q s1 s2
  have hs1 : MemOk s1 := .setSq (.setChan h)
  have hs2 : MemOk s2 := .ite (.countUp hs1) hs1
  exact .ite (.signal hs2) hs2
theorem MemOkR.vlXlate {s ch acc va} (h : MemOk s) : MemOkR (vlXlate s ch acc va) := by
  unfold Machine.vlXlate
  extract_lets c
  split
  · rename_i t e
    have ht : MemOk t := .ofR (.walkAgent h) e
    exact .mk ht
  · rename_i t e1
    have ht : MemOk t := .ofR (.walkAgent h) e1
    exact .mk ht
  · rename_i t e
    have ht : MemOk t := .ofR (.walkAgent h) e
    exact .mk ht
theorem MemOkR.vlRead {s ch va} (h : MemOk s) : MemOkR (vlRead s ch va) := by
  unfold Machine.vlRead
  split
  · rename_i t e
    have ht : MemOk t := .ofR (.vlXlate h) e
    exact .mk (.snd (.agentRead ht))
  · rename_i t e
    have ht : MemOk t := .ofR (.vlXlate h) e
    exact .mk ht
theorem MemOkR.vlReads {s ch va n} (h : MemOk s) : MemOkR (vlReads s ch va n) := by
  induction n generalizing s va with
  | zero => exact h
  | succ n ih =>
    rw [Machine.vlReads]
    split
    · rename_i t e
      have ht : MemOk t := .ofR (.vlRead h) e
      exact .mk ht
    · rename_i t e
      have ht : MemOk t := .ofR (.vlRead h) e
      split
      · rename_i t1 e1
        have ht1 : MemOk t1 := .ofR (ih ht) e1
        exact .mk ht1
      · rename_i t1 e1
        have ht1 : MemOk t1 := .ofR (ih ht) e1
        exact .mk ht1
theorem MemOkR.vlAsk {s ch va i n} (h : MemOk s) : MemOkR (vlAsk s ch va i n) := by
  induction n generalizing s va i with
  | zero => exact h
  | succ n ih =>
    rw [Machine.vlAsk]
    refine .ite (ih h) ?_
    extract_lets c dev
    split
    · exact .mk h
    · refine .ite ?_ ?_
      · split
        · exact .mk h
        · rename_i t e
          have ht : MemOk t := .ofO (.ownSlot h) e
          split
          · rename_i t1 e1
            have ht1 : MemOk t1 := .ofR (.homeLoad ht) e1
            exact ih (.setChan ht1)
          · rename_i t1 e1
            have ht1 : MemOk t1 := .ofR (.homeLoad ht) e1
            exact .mk ht1
      · split
        · exact .mk h
        · rename_i t e
          have ht : MemOk t := .ofOR (.sendOp h) e
          exact ih (.setChan ht)
theorem MemOkR.vlCollect {s ch va i n} (h : MemOk s) : MemOkR (vlCollect s ch va i n) := by
  induction n generalizing s va i with
  | zero => exact h
  | succ n ih =>
    rw [Machine.vlCollect]
    generalize hr : (if va.getLsbD 58 then _ else _ : Except VStop W × State) = r
    have hr : MemOkR r := hr ▸ .ite (.mk h) (.vlRead h)
    split
    · exact .mk hr
    · split
      · rename_i t e
        have ht : MemOk t := .ofR (ih hr) e
        exact .mk ht
      · rename_i t e
        have ht : MemOk t := .ofR (ih hr) e
        exact .mk ht
theorem MemOk.vlRun {α : Type} {s ch f} {r : Except VStop α × State} (h : MemOk s) (hr : MemOkR r) (hf : ∀ a t, MemOk t → MemOk (f a t)) :
    MemOk (vlRun s ch r f) := by
  unfold Machine.vlRun
  split
  · exact hf _ _ hr
  · exact .vlHalt hr
  · exact h
theorem MemOk.issueLink {s ch} (h : MemOk s) : MemOk (issueLink s ch) := by
  unfold Machine.issueLink
  extract_lets c
  split
  · rename_i t e
    have ht : MemOk t := .ofR (.vlRead h) e
    exact .setChan ht
  · rename_i t e
    have ht : MemOk t := .ofR (.vlRead h) e
    exact .setChan ht
theorem MemOk.powerDomain {s d} (h : MemOk s) : MemOk (powerDomain s d) := by
  unfold Machine.powerDomain
  extract_lets _ s1 _ s2 s3
  have hs1 : MemOk s1 := .upd h
  have hs2 : MemOk s2 := .ite (.setPort hs1) hs1
  have hs3 : MemOk s3 := .ite (.modTile hs2) hs2
  exact .foldl (fun _ _ h => .ite (.ite (.issueLink (.setChan h)) (.setChan h)) h) hs3
theorem MemOk.affectChans {s d} (h : MemOk s) : MemOk (affectChans s d) := .upd h rfl
theorem MemOk.drainCheck {s} (h : MemOk s) : MemOk (drainCheck s) :=
  .foldl (fun _ _ h => .ite (.powerDomain (.affectChans h)) (.affectChans h)) h
theorem MemOk.vlStart {s ch} (h : MemOk s) : MemOk (vlStart s ch) := .startProgram (.setChan h)
theorem MemOk.vlFetched {s ch} (h : MemOk s) : MemOk (vlFetched s ch) := by
  unfold Machine.vlFetched
  extract_lets c
  refine .ite (.vlRun h (.vlCollect h) (fun _ _ h1 => .setChan h1)) ?_
  refine .vlRun h (.vlCollect h) (fun a s1 hs1 => ?_)
  split
  · exact .vlHalt hs1
  · exact .vlStart (.setChan (.setSq hs1))
theorem MemOk.vlDesc {s ch} (h : MemOk s) : MemOk (vlDesc s ch) := by
  unfold Machine.vlDesc
  extract_lets d
  refine .ite (.vlHalt h) ?_
  refine .vlRun h (.vlReads h) (fun a s1 hs1 => ?_)
  extract_lets w0 w1 w2 op len src dst c s2 _ q n
  have hs2 : MemOk s2 := .setChan hs1
  split
  · exact .vlHalt hs1
  · exact .ite (.vlHalt hs2) (.ite (.setChan hs2) (.ite (.setChan hs2) (.ite (.vlStart (.setSq hs2)) (.ite (.vlRun hs2 (.vlAsk hs2)
        (fun _ _ h1 => .ite (.vlFetched (.setChan h1)) (.setChan h1))) (.vlFetched hs2)))))
theorem MemOk.descArrived {s ch} (h : MemOk s) : MemOk (descArrived s ch) := .ite h (.ite (.vlDesc h) (.ite (.vlFetched h) h))
theorem MemOk.grantBurst {s} (h : MemOk s) : MemOk (grantBurst s) := by
  unfold Machine.grantBurst
  refine .ite h ?_
  split
  · exact h
  · extract_lets c src t t1
    have ht : MemOk t := .upd h
    have ht1 : MemOk t1 := .setChan ht
    exact .ite ht1 (.vlRun h (.vlAsk ht1) (fun _ _ h1 => h1))
theorem MemOk.vlWrite {fuel s key ws stash} (h : MemOk s) : MemOk (vlWrite fuel s key ws stash) := by
  induction fuel generalizing s key ws with
  | zero => exact h
  | succ fuel ih =>
    rw [Machine.vlWrite]
    exact .ite h (ih (.ite (.agentLine h) (.agentModify h)))
theorem MemOkR.vlSend {s ch va ws a} (h : MemOk s) : MemOkR (vlSend s ch va ws a) := by
  induction ws generalizing s va with
  | nil => exact h
  | cons w r ih =>
    rw [Machine.vlSend]
    split
    · exact .mk h
    · refine .ite ?_ ?_
      · split
        · exact .mk h
        · rename_i t e
          have ht : MemOk t := .ofO (.ownSlot h) e
          split
          · rename_i t1 e1
            have ht1 : MemOk t1 := .ofR (.homeStore ht) e1
            exact ih ht1
          · rename_i t1 e1
            have ht1 : MemOk t1 := .ofR (.homeStore ht) e1
            exact .mk ht1
      · split
        · exact .mk h
        · rename_i t e
          have ht : MemOk t := .ofOR (.sendOp h) e
          exact ih (.setChan ht)
theorem MemOk.burstOver {s ch n} (h : MemOk s) : MemOk (burstOver s ch n) := .ite (.vlHalt (.setChan h)) (.setChan (.setChan h))
theorem MemOk.burstArrived {s ch} (h : MemOk s) : MemOk (burstArrived s ch) := by
  unfold Machine.burstArrived
  extract_lets c n src dst r
  have hr : MemOkR r := .ite (.mk h) (.vlCollect h)
  refine .ite h ?_
  refine .vlRun h hr (fun a s1 hs1 => ?_)
  split
  · exact .vlHalt hs1
  · exact hs1
  · exact .ite (.vlRun hs1 (.vlSend hs1) (fun _ _ h1 => .burstOver h1)) (.vlRun hs1 (.vlXlate hs1) (fun _ _ h1 => .burstOver (.vlWrite h1)))
theorem MemOk.descDone {s ch} (h : MemOk s) : MemOk (descDone s ch) := by
  unfold Machine.descDone
  extract_lets c c1 s1 s2 _
  have hs1 : MemOk s1 := .setChan h
  have hs2 : MemOk s2 := .ite (.signal hs1) hs1
  exact .ite h (.ite h (.ite (.drainCheck (.setChan hs2)) (.issueLink hs2)))
theorem MemOk.followLink {s ch w} (h : MemOk s) : MemOk (followLink s ch w) :=
  .ite (.ite (.issueLink h) (.setChan h)) (.ite (.setChan h) (.vlHalt h))
theorem MemOk.linkArrived {s ch} (h : MemOk s) : MemOk (linkArrived s ch) := by
  unfold Machine.linkArrived
  extract_lets c
  refine .ite h ?_
  split
  · exact .followLink h
  · exact .vlRun h (.vlRead h) fun _ _ h => .followLink h
theorem MemOk.vlRing {s ch} (h : MemOk s) : MemOk (vlRing s ch) := by
  unfold Machine.vlRing
  extract_lets c
  split
  · exact .setChan h
  · exact .issueLink (.setChan h)
  · exact h
theorem MemOk.vlHead {s ch a} (h : MemOk s) : MemOk (vlHead s ch a) := .ite h (.setChan h)
theorem MemOk.vlAbort {s ch} (h : MemOk s) : MemOk (vlAbort s ch) := .ite h (.ite (.setChan h) (.vlHalt h))
theorem MemOk.drainTimeout {s d} (h : MemOk s) : MemOk (drainTimeout s d) :=
  .ite (.powerDomain (.foldl (fun _ _ h => .ite (.vlHalt h) h) h)) h
theorem MemOk.vlWord {s ch slot w} (h : MemOk s) : MemOk (vlWord s ch slot w) := by
  unfold Machine.vlWord
  extract_lets c
  split
  · exact .setChan h
  · exact h
theorem MemOk.vlAcked {s ch slot} (h : MemOk s) : MemOk (vlAcked s ch slot) := .drainCheck (.setChan h)
theorem MemOk.vlRemote {s ch slot va info} (h : MemOk s) : MemOk (vlRemote s ch slot va info) := by
  unfold Machine.vlRemote
  extract_lets c mine s1 _
  have hs1 : MemOk s1 := .ite (.vlHalt h) h
  exact .drainCheck (.setChan hs1)

/-! ### The sequencers -/

theorem MemOk.seqDone {s k} (h : MemOk s) : MemOk (seqDone s k) := .ite (.signal h) h
theorem MemOk.reedFault {s k f} (h : MemOk s) : MemOk (reedFault s k f) := by
  unfold Machine.reedFault
  extract_lets q s1 s2
  have hs1 : MemOk s1 := .setSq h
  have hs2 : MemOk s2 := .seqDone hs1
  split
  · split <;> exact .vlHalt h
  · exact .ite (.groupsError hs2) hs2
  · exact .ite (.groupsError hs2) hs2
theorem MemOk.reedStep {s k word pfxable falls body} (h : MemOk s) (hbody : ∀ q e t, MemOk t → MemOkR (body q e t)) :
    MemOk (reedStep s k word pfxable falls body) := by
  unfold Machine.reedStep
  extract_lets q
  refine .ite h (.ite (.reedFault h) (.ite h (.ite (.reedFault h) ?_)))
  extract_lets
  split
  · next e => exact .ite (.reedFault h) (.reedFault (.ofR (hbody _ _ _ h) e))
  · next e =>
    have ht := MemOk.ofR (hbody _ _ _ h) e
    refine .ite (.reedFault h) ?_
    split
    · exact .ite (.reedFault ht) (.setSq ht)
    · exact .ite (.reedFault ht) (.setSq ht)
    · exact .setSq ht
theorem MemOk.reedPlain {s k word pfxable f} (h : MemOk s) : MemOk (reedPlain s k word pfxable f) := .reedStep h (fun _ _ _ h1 => .mk h1)
theorem MemOkOut.reedAlu {s k func qd qs f} (h : MemOk s) : MemOkOut (reedAlu s k func qd qs f) := .next (.tick (.reedPlain h))
theorem MemOkOut.reedInt {s k func qd qs f} (h : MemOk s) : MemOkOut (reedInt s k func qd qs f) := .reedAlu h
theorem MemOkOut.reedShift {s k func qd qs f} (h : MemOk s) : MemOkOut (reedShift s k func qd qs f) := .reedAlu h
theorem MemOkOut.reedImm {s k cls qd imm f} (h : MemOk s) : MemOkOut (reedImm s k cls qd imm f) := .next (.tick (.reedPlain h))
theorem MemOkOut.reedAop {s k an sub x pfxable f} (h : MemOk s) : MemOkOut (reedAop s k an sub x pfxable f) := .next (.tick (.reedPlain h))
theorem MemOkR.seqXlate {s k acc va} (h : MemOk s) : MemOkR (seqXlate s k acc va) := by
  unfold Machine.seqXlate
  refine .ite (.mk h) ?_
  split
  · rename_i t e
    have ht : MemOk t := .ofR (.walkAgent h) e
    exact .mk ht
  · rename_i t e1
    have ht : MemOk t := .ofR (.walkAgent h) e1
    exact .mk ht
  · rename_i t e
    have ht : MemOk t := .ofR (.walkAgent h) e
    exact .mk ht
theorem MemOkR.markStore {s k va w} (h : MemOk s) : MemOkR (markStore s k va w) := by
  unfold Machine.markStore
  extract_lets world s1 gc a q i lpa r s2
  have hs1 : MemOk s1 := .applyGc h
  have hr : MemOkR r := .agentRead hs1
  have hs2 : MemOk s2 := .agentWrite (.snd hr)
  exact .ite (.mk hs1) (.ite (.mk hs1) (.ite (.mk hs1) (.ite (.mk (.snd hr)) (.ite (.mk (.snd hr)) (.mk hs2)))))
theorem MemOkR.portStore {s k va w} (h : MemOk s) : MemOkR (portStore s k va w) := by
  unfold Machine.portStore
  extract_lets off n g
  split
  · exact .ite (.markStore h) (.mk h)
  · exact .ite (.mk h) (.mk h)
  · exact .mk h
theorem MemOk.reedLd {s k r an p off} (h : MemOk s) : MemOk (reedLd s k r an p off) := by
  unfold Machine.reedLd
  refine .reedStep h (fun a a1 s1 hs1 => ?_)
  extract_lets va wait dev w
  have hwait : ∀ a0 a1, MemOk a1 → MemOkR (wait a0 a1) := fun _ _ h1 => .mk h1
  refine .ite (.mk hs1) ?_
  refine .ite (.mk hs1) ?_
  refine .ite ?_ ?_
  · split
    · exact .mk hs1
    · refine .ite ?_ ?_
      · split
        · exact .mk hs1
        · rename_i t e
          have ht : MemOk t := .ofO (.ownSlot hs1) e
          split
          · rename_i t1 e1
            have ht1 : MemOk t1 := .ofR (.homeLoad ht) e1
            exact hwait _ _ ht1
          · rename_i t1 e1
            have ht1 : MemOk t1 := .ofR (.homeLoad ht) e1
            exact .mk ht1
      · split
        · exact .mk hs1
        · rename_i t e
          have ht : MemOk t := .ofOR (.sendOp hs1) e
          exact hwait _ _ ht
  · split
    · rename_i t e
      have ht : MemOk t := .ofR (.seqXlate hs1) e
      exact .mk ht
    · rename_i t e
      have ht : MemOk t := .ofR (.seqXlate hs1) e
      exact hwait _ _ ht
theorem MemOk.seqBoundary {s k} (h : MemOk s) : MemOk (seqBoundary s k) := .ite (.ite (.vlHalt h) h) (.ite (.setSq h) h)
theorem MemOk.loadAnswer {s k} (h : MemOk s) : MemOk (loadAnswer s k) := by
  unfold Machine.loadAnswer
  extract_lets q
  split
  · exact h
  · refine .ite h ?_
    extract_lets done
    have hdone : ∀ a0 a1, MemOk a1 → MemOk (done a0 a1) := fun _ _ h1 => .seqBoundary (.setSq h1)
    split
    · exact hdone _ _ (.snd (.agentRead h))
    · exact hdone _ _ h
    · exact h
theorem MemOkE.markStore {s k va w} (h : MemOk s) : MemOkE (markStore s k va w) := by
  unfold Machine.markStore
  extract_lets world s1 gc a q i lpa r s2
  have h1 : MemOk s1 := .applyGc h
  have hr : MemOk r.2 := .snd (.agentRead h1)
  exact .ite .error (.ite (.ok (.setSq h1)) (.ite .error (.ite .error (.ite (.ok (.setSq hr)) (.ok (.setSq (.agentWrite hr)))))))
theorem MemOkE.portStore {s k va w} (h : MemOk s) : MemOkE (portStore s k va w) := by
  unfold Machine.portStore
  split
  · exact .ite (.markStore h) .error
  · exact .ite (.ok (.qup h)) .error
  · exact .error
theorem MemOk.reedSt {s k r an p off} (h : MemOk s) : MemOk (reedSt s k r an p off) := by
  unfold Machine.reedSt
  refine .reedStep h fun q e t ht => ?_
  extract_lets va w post fin dev wd
  have hfin : ∀ u, MemOk u → MemOkR (fin u) := fun _ h => .mk h
  refine .ite (.mk ht) (.ite ?_ (.ite ?_ ?_))
  · split
    · next e => exact hfin _ (.ofE (.portStore ht) e)
    · next e => exact .mk (.ofR (.portStore ht) e)
  · split
    · exact .mk ht
    · refine .ite ?_ ?_
      · split
        · exact .mk ht
        · rename_i t1 e1
          have ht1 : MemOk t1 := .ofO (.ownSlot ht) e1
          split
          · rename_i t2 e2
            have ht2 : MemOk t2 := .ofR (.homeStore ht1) e2
            exact hfin _ ht2
          · rename_i t2 e2
            have ht2 : MemOk t2 := .ofR (.homeStore ht1) e2
            exact .mk ht2
      · refine .ite (.mk ht) ?_
        split
        · exact .mk ht
        · rename_i t1 e1
          have ht1 : MemOk t1 := .ofOR (.sendOp ht) e1
          exact hfin _ ht1
  · split
    · rename_i t1 e1
      have ht1 : MemOk t1 := .ofR (.seqXlate ht) e1
      exact .mk ht1
    · rename_i t1 e1
      have ht1 : MemOk t1 := .ofR (.seqXlate ht) e1
      exact hfin _ (.agentWrite ht1)
theorem MemOkOut.reedBranch {s k word n off taken} (h : MemOk s) : MemOkOut (reedBranch s k word n off taken) :=
  .next (.tick (.reedStep h fun _ _ _ h => .mk h))
theorem MemOkOut.execReedRet {k s} (h : MemOk s) : MemOkOut (execReedRet k s) := by
  unfold Machine.execReedRet
  refine .next ?_
  refine .tick ?_
  refine .reedStep h (fun a a1 s1 hs1 => ?_)
  split <;> exact .mk hs1
theorem MemOkOut.execReedSignal {k q s} (h : MemOk s) : MemOkOut (execReedSignal k q s) := by
  unfold Machine.execReedSignal
  refine .next ?_
  refine .tick ?_
  refine .reedStep h (fun a a1 s1 hs1 => ?_)
  extract_lets k1 w v target ev fin n
  have hfin : ∀ a0, MemOk a0 → MemOkR (fin a0) := fun _ h1 => .mk h1
  refine .ite (.mk hs1) ?_
  refine .ite (.mk hs1) ?_
  refine .ite (.mk hs1) ?_
  split
  · exact .ite (hfin _ (.vlRing hs1)) (.mk hs1)
  · exact .ite (hfin _ (.seqEvent hs1)) (.mk hs1)
  · exact .ite (hfin _ (.ringBits hs1)) (.mk hs1)
  · exact .mk hs1
theorem MemOk.reedEnd {s k} (h : MemOk s) : MemOk (reedEnd s k) := by
  unfold Machine.reedEnd
  refine .reedStep h (fun a a1 s1 hs1 => ?_)
  split
  · exact .mk (.setChan hs1)
  · exact .mk hs1
theorem MemOk.endNotice {s0 s k} (hs : MemOk s) : MemOk (endNotice s0 s k) := .ite (.seqDone hs) hs
theorem MemOkOut.execReedLateStoreFault {k addr info s} (h : MemOk s) : MemOkOut (execReedLateStoreFault k addr info s) := by
  unfold Machine.execReedLateStoreFault
  refine .next ?_
  refine .tick ?_
  split
  · exact .ite (.vlHalt h) h
  · exact h
theorem MemOk.seqGo {s k} (h : MemOk s) : MemOk (seqGo s k) := by
  unfold Machine.seqGo
  extract_lets q s1 _ s2
  have hs1 : MemOk s1 := .startProgram h
  have hs2 : MemOk s2 := .setSq hs1
  exact .ite h (.ite (.wakeTile hs2) hs2)
theorem MemOk.seqHalt {s k} (h : MemOk s) : MemOk (seqHalt s k) := .ite (.ite (.setSq h) (.setSq h)) h
theorem MemOk.seqWord {s k slot w} (h : MemOk s) : MemOk (seqWord s k slot w) := by
  unfold Machine.seqWord
  extract_lets q
  split
  · exact .ite (.setSq h) h
  · exact h
theorem MemOk.seqRemote {s k slot va info posted} (h : MemOk s) : MemOk (seqRemote s k slot va info posted) := by
  unfold Machine.seqRemote
  extract_lets q c
  refine .ite (.ite (.ite (.setSq h) h) (.ite (.vlHalt h) h)) ?_
  split
  · exact .ite (.reedFault h) h
  · exact h

/-! ### Remote requests -/

theorem MemOk.reply {s h1 vc b} (h : MemOk s) : MemOk (reply s h1 vc b) := .sendMsg h
theorem MemOk.replyFault {s h1 f} (h : MemOk s) : MemOk (replyFault s h1 f) := .reply h
theorem MemOk.holdMsg {s m} (h : MemOk s) : MemOk (holdMsg s m) := by
  unfold Machine.holdMsg
  exact .upd (.wakeDevice h)
theorem MemOk.gated {s h1 m f} (h : MemOk s) (hf : ∀ a0, MemOk a0 → MemOk (f a0)) : MemOk (gated s h1 m f) := by
  unfold Machine.gated
  refine .ite h ?_
  split
  · exact h
  · exact .holdMsg h
  · exact hf _ h
theorem MemOkO.track {s w page dev} (h : MemOk s) : MemOkO (track s w page dev) := by
  unfold Machine.track
  extract_lets t _ set
  have hset : ∀ a0, MemOkO (set a0) := fun _ => .some (.upd h)
  split
  · exact .ite (.some h) (hset _)
  · exact .ite (hset _) .none
theorem MemOk.readBoth {s key} (h : MemOk s) : MemOk (readBoth s key) := .snd (.agentRead (.snd (.agentRead h)))
theorem MemOk.rload {s h1 addr} (h : MemOk s) : MemOk (rload s h1 addr) := by
  unfold Machine.rload
  split
  · rename_i t e
    have ht : MemOk t := .ofR (.homeLoad h) e
    exact .replyFault ht
  · rename_i t e
    have ht : MemOk t := .ofR (.homeLoad h) e
    extract_lets shared
    split
    · rename_i t1 e1
      have ht1 : MemOk t1 := .ofO (.ite (.track ht) .none) e1
      exact .reply (.readBoth ht1)
    · exact .reply ht
theorem MemOkOut.execRload {h1 addr size acquire s} (h : MemOk s) : MemOkOut (execRload h1 addr size acquire s) :=
  .next (.tick (.gated h (fun _ h2 => .rload h2)))
theorem MemOk.rstore {s h1 addr word size mask} (h : MemOk s) : MemOk (rstore s h1 addr word size mask) := by
  unfold Machine.rstore
  split
  · rename_i t e
    have ht : MemOk t := .ofR (.homeStore h) e
    exact .replyFault ht
  · rename_i t e
    have ht : MemOk t := .ofR (.homeStore h) e
    exact .reply ht
theorem MemOkOut.execRstore {h1 addr word size mask s} (h : MemOk s) : MemOkOut (execRstore h1 addr word size mask s) :=
  .next (.tick (.gated h (fun _ h2 => .rstore h2)))
theorem MemOk.ratom {s h1 addr word expected op} (h : MemOk s) : MemOk (ratom s h1 addr word expected op) := by
  unfold Machine.ratom
  split
  · rename_i t e
    have ht : MemOk t := .ofR (.homeAtom h) e
    exact .replyFault ht
  · rename_i t e
    have ht : MemOk t := .ofR (.homeAtom h) e
    exact .reply ht
theorem MemOkOut.execRatom {h1 addr word expected op ord s} (h : MemOk s) : MemOkOut (execRatom h1 addr word expected op ord s) :=
  .next (.tick (.gated h (fun _ h2 => .ratom h2)))
theorem MemOk.sendMoved {s w origin oldId st} (h : MemOk s) : MemOk (sendMoved s w origin oldId st) := .ite (.movedNotice h) (.sendMsg h)
theorem MemOk.doorbellIn {s w lcn gen events origin hops} (h : MemOk s) : MemOk (doorbellIn s w lcn gen events origin hops) := by
  unfold Machine.doorbellIn
  extract_lets n c
  refine .ite (.discardRing h) ?_
  refine .ite ?_ (.ite (.discardRing h) (.ringBits h))
  split
  · refine .ite (.discardRing h) ?_
    extract_lets s1
    have hs1 : MemOk s1 := .ite (.countUp h) (.forwardDoorbell h)
    exact .sendMoved hs1
  · exact .discardRing h
theorem MemOk.doorbellMsg {s h1 lcn gen events origin hops} (h : MemOk s) : MemOk (doorbellMsg s h1 lcn gen events origin hops) :=
  .reply (.ite h (.doorbellIn h))
theorem MemOkOut.execDoorbell {h1 lcn gen events origin hops s} (h : MemOk s) : MemOkOut (execDoorbell h1 lcn gen events origin hops s) :=
  .next (.tick (.gated h (fun _ h2 => .doorbellMsg h2)))
theorem MemOk.invPage {s h1 page} (h : MemOk s) : MemOk (invPage s h1 page) := .reply (.modTile h)
theorem MemOkOut.execInv {h1 page s} (h : MemOk s) : MemOkOut (execInv h1 page s) := .next (.tick (.gated h (fun _ h2 => .invPage h2)))
theorem MemOk.invAck {s h1} (h : MemOk s) : MemOk (invAck s h1) := .ite h (.upd h)
theorem MemOk.ackStore {s n} (h : MemOk s) : MemOk (ackStore s n) :=
  .ite (.endWait (.modCtx (.setCtx h))) (.ite (.endWait (.setCtx h)) (.setCtx h))
theorem MemOk.unmigrate {s n} (h : MemOk s) : MemOk (unmigrate s n) := .makeReady (.countUp (.setCtx (.upd h)))
theorem MemOk.latchFault {s n f} (h : MemOk s) : MemOk (latchFault s n f) :=
  .ite (.countUp h) (.ite (.unmigrate (.modCtx (.setCtx h))) (.setCtx h))
theorem MemOk.giveWord {s x k w} (h : MemOk s) : MemOk (giveWord s x k w) := by
  unfold Machine.giveWord
  extract_lets f
  split
  · exact .modCtx h
  · exact .modCore h
theorem MemOk.giveAck {s x} (h : MemOk s) : MemOk (giveAck s x) := by
  unfold Machine.giveAck
  split
  · exact .ackStore h
  · exact .modCore h
theorem MemOk.sendPacket {s n} (h : MemOk s) : MemOk (sendPacket s n) := .ite h (.sendMsg (.setCtx h))
theorem MemOk.admitCtx {s p core n} (h : MemOk s) : MemOk (admitCtx s p core n) := by
  unfold Machine.admitCtx
  extract_lets old bank r c c1 s1 s2
  have hs1 : MemOk s1 := .setCtx h
  have hs2 : MemOk s2 := by
    unfold s2
    clear_value bank
    split
    · exact .upd (.modCore hs1)
    · exact hs1
  exact .makeReady hs2
theorem MemOkR.admission {s h1 p} (h : MemOk s) : MemOkR (admission s h1 p) := by
  unfold Machine.admission
  refine .ite (.mk h) ?_
  refine .ite (.mk h) ?_
  refine .ite (.mk h) ?_
  split
  · rename_i t e
    have ht : MemOk t := .ofR (.homeXlate h) e
    exact .mk ht
  · rename_i t e
    have ht : MemOk t := .ofR (.homeXlate h) e
    extract_lets tile
    split <;> exact .mk ht
theorem MemOk.logAdmission {s src mig ok reason newId gen} (h : MemOk s) : MemOk (logAdmission s src mig ok reason newId gen) := .upd h rfl
theorem MemOk.migrateIn {s h1 p} (h : MemOk s) : MemOk (migrateIn s h1 p) := by
  unfold Machine.migrateIn
  split
  · rename_i t e
    have ht : MemOk t := .ofR (.admission h) e
    exact .reply (.ite ht (.logAdmission ht))
  · rename_i t e
    have ht : MemOk t := .ofR (.admission h) e
    exact .reply (.logAdmission (.countUp (.admitCtx ht)))
theorem MemOkOut.execMigrate {h1 pkt s} (h : MemOk s) : MemOkOut (execMigrate h1 pkt s) :=
  .next (.tick (.gated h (fun _ h2 => .migrateIn h2)))
theorem MemOk.migQuery {s h1 mig} (h : MemOk s) : MemOk (migQuery s h1 mig) := by
  unfold Machine.migQuery
  refine .ite h ?_
  split <;> exact .reply h
theorem MemOk.migrated {s n newId newGen} (h : MemOk s) : MemOk (migrated s n newId newGen) := by
  unfold Machine.migrated
  extract_lets c st s1 _ s2 ev s3 s4
  have hs1 : MemOk s1 := .releaseBanks h
  have hs2 : MemOk s2 := .upd hs1
  have hs3 : MemOk s3 := .modCtx hs2
  have hs4 : MemOk s4 := .ite (.forwardDoorbell hs3) hs3
  exact .countUp hs4
theorem MemOk.migAnswer {s h1 mig outcome newId newGen} (h : MemOk s) : MemOk (migAnswer s h1 mig outcome newId newGen) := by
  unfold Machine.migAnswer
  refine .ite h ?_
  split
  · exact h
  · exact .ite (.migrated h) (.unmigrate h)
theorem MemOk.migAsk {s n} (h : MemOk s) : MemOk (migAsk s n) := .ite (.sendMsg h) h
theorem MemOk.stubEnd {s n} (h : MemOk s) : MemOk (stubEnd s n) := .ite (.becomeFree (.upd h)) h

/-! ### The ports and their flits -/

theorem MemOk.portEvent {s p bit} (h : MemOk s) : MemOk (portEvent s p bit) := .ite (.signal (.setPort h)) (.setPort h)
theorem MemOk.sendFlit {s p ty body} (h : MemOk s) : MemOk (sendFlit s p ty body) := .setPort h
theorem MemOk.sendNumbered {s p f} (h : MemOk s) : MemOk (sendNumbered s p f) := .setPort h
theorem MemOk.sendSeq {s p ty body} (h : MemOk s) : MemOk (sendSeq s p ty body) := .sendNumbered h
theorem MemOk.countDiscards {s p n} (h : MemOk s) : MemOk (countDiscards s p n) := .countUp (.setPort h)
theorem MemOk.portTrain {s p} (h : MemOk s) : MemOk (portTrain s p) := .setPort h
theorem MemOk.portDown {s p reason} (h : MemOk s) : MemOk (portDown s p reason) := by
  unfold Machine.portDown
  exact .logFault (.groupsLink (.portEvent (.countDiscards (.setPort h))))
theorem MemOk.recover {s p} (h : MemOk s) : MemOk (recover s p) := by
  unfold Machine.recover
  extract_lets q s1 s2
  have hs1 : MemOk s1 := .setPort h
  have hs2 : MemOk s2 := .sendFlit hs1
  exact .ite (.portDown hs2) hs2
theorem MemOk.enterRecovery {s p} (h : MemOk s) : MemOk (enterRecovery s p) := .ite h (.recover h)
theorem MemOk.discardFlit {s p f} (h : MemOk s) : MemOk (discardFlit s p f) := by
  unfold Machine.discardFlit
  extract_lets q s1
  have hs1 : MemOk s1 := .ite h (.setPort h)
  exact .ite (.enterRecovery hs1) hs1
theorem MemOk.onFlit {s p ty f k} (h : MemOk s) (hk : ∀ a0, MemOk a0 → MemOk (k a0)) : MemOk (onFlit s p ty f k) := by
  unfold Machine.onFlit
  split
  · exact .ite (.discardFlit h) (.ite h (hk _ (.setPort h)))
  · exact .ite (.discardFlit h) (.ite h (hk _ (.setPort h)))
  · exact h
theorem MemOk.onSeq {s p ty f k} (h : MemOk s) (hk : ∀ a0, MemOk a0 → MemOk (k a0)) : MemOk (onSeq s p ty f k) :=
  .onFlit h (fun _ h1 => .ite h1 (.ite (.enterRecovery h1) (hk _ (.setPort h1))))
theorem MemOk.freed {s p m} (h : MemOk s) : MemOk (freed s p m) := .setPort h
theorem MemOk.gotMsg {s p m} (h : MemOk s) : MemOk (gotMsg s p m) := by
  unfold Machine.gotMsg
  refine .ite (.countDiscards (.freed h)) ?_
  split
  · exact .setPort (.freed h)
  · extract_lets s1 _
    have hs1 : MemOk s1 := .ite (.freed h) h
    exact .setPort hs1
theorem MemOk.takeMsgs {fuel s p u} (h : MemOk s) : MemOk (takeMsgs fuel s p u) := by
  induction fuel generalizing s u with
  | zero => exact h
  | succ fuel ih => exact .ite h (.ite (.setPort h) (ih (.gotMsg h)))
theorem MemOk.dataArea {s p f} (h : MemOk s) : MemOk (dataArea s p f) := by
  unfold Machine.dataArea
  extract_lets q need m s1
  have hs1 : MemOk s1 := .ite h (.ite (.gotMsg (.setPort h)) (.setPort h))
  exact .ite (.takeMsgs hs1) hs1
theorem MemOk.nakIn {s p f} (h : MemOk s) : MemOk (nakIn s p f) := by
  unfold Machine.nakIn
  extract_lets q n q1 s1
  have hs1 : MemOk s1 := .ite (.setPort h) (.countUp (.setPort h))
  exact .ite (.portDown hs1) hs1
theorem MemOk.secondLane {s p} (h : MemOk s) : MemOk (secondLane s p) := by
  unfold Machine.secondLane
  exact .spareExhausted (.portDown h)
theorem MemOk.spareMade {s p lane} (h : MemOk s) : MemOk (spareMade s p lane) := .portEvent (.setPort h)
theorem MemOk.laneLost {s p lane} (h : MemOk s) : MemOk (laneLost s p lane) := by
  unfold Machine.laneLost
  extract_lets q s1 s2
  have hs1 : MemOk s1 := .setPort h
  have hs2 : MemOk s2 := .sendSeq hs1
  split
  · exact .ite hs1 (.spareMade (.setPort hs2))
  · exact .ite h (.secondLane h)
theorem MemOk.laneCe {s p lane} (h : MemOk s) : MemOk (laneCe s p lane) := .ite (.setPort h) (.laneLost (.setPort h))
theorem MemOk.spareIn {s p f} (h : MemOk s) : MemOk (spareIn s p f) := by
  unfold Machine.spareIn
  extract_lets lane q
  refine .ite h ?_
  split
  · exact .spareMade (.setPort h)
  · exact .ite h (.secondLane h)
theorem MemOk.pmdDone {s p failed} (h : MemOk s) : MemOk (pmdDone s p failed) := .ite h (.setPort h)
theorem MemOk.sendInit {s p} (h : MemOk s) : MemOk (sendInit s p) := .sendFlit (.setPort h)
theorem MemOk.laneLock {s p lane pos} (h : MemOk s) : MemOk (laneLock s p lane pos) := .ite h (.ite (.sendInit (.setPort h)) (.setPort h))
theorem MemOk.initIn {s p f} (h : MemOk s) : MemOk (initIn s p f) := by
  unfold Machine.initIn
  extract_lets q dev ok s1 _
  have hs1 : MemOk s1 := .ite (.sendInit h) h
  exact .ite h (.ite (.portEvent (.setPort hs1)) (.ite (.portDown h) (.logFault (.setPort h))))
theorem MemOkOut.execLinkSilenceTimeout {port s} (h : MemOk s) : MemOkOut (execLinkSilenceTimeout port s) := by
  unfold Machine.execLinkSilenceTimeout
  exact .next (.tick (.ite (.portDown h) h))
theorem MemOk.holdPorts {s b} (h : MemOk s) : MemOk (holdPorts s b) := .foldl (fun _ _ h => .ite (.sendFlit h) h) h
theorem MemOk.fencePort {s p} (h : MemOk s) : MemOk (fencePort s p) :=
  .ite (.setDval h) (.groupsLink (.portEvent (.sendFlit (.setPort (.setDval h)))))
theorem MemOk.unfencePort {s p} (h : MemOk s) : MemOk (unfencePort s p) := .ite (.portEvent (.setPort (.setDval h))) (.setDval h)

/-! ### Modes and transitions -/

theorem MemOk.enterMode {s m b} (h : MemOk s) : MemOk (enterMode s m b) := by
  unfold Machine.enterMode
  extract_lets info s1 _
  have hs1 : MemOk s1 := .msix (.signal h)
  exact .upd hs1
theorem MemOk.setStatus {s code} (h : MemOk s) : MemOk (setStatus s code) := .ite h (.msix (.setDval h))
theorem MemOk.setStep {s n} (h : MemOk s) : MemOk (setStep s n) := .setDval h
theorem MemOk.persistVal {s kind i j} (h : MemOk s) : MemOk (persistVal s kind i j) := .persist h
theorem MemOk.resetBlocks {s warm} (h : MemOk s) : MemOk (resetBlocks s warm) := by
  unfold Machine.resetBlocks
  extract_lets core port mc _ _ _
  exact .updMem h
theorem MemOk.resetPlane {s warm} (h : MemOk s) : MemOk (resetPlane s warm) := .upd h rfl
theorem MemOk.beginStart {s warm} (h : MemOk s) : MemOk (beginStart s warm) := by
  unfold Machine.beginStart
  extract_lets s1 s2 _
  have hs1 : MemOk s1 := .setStep (.resetPlane (.resetBlocks h))
  have hs2 : MemOk s2 := .setDval hs1
  exact .upd hs2
theorem MemOk.writeback {s} (h : MemOk s) : MemOk (writeback s) := .foldl (fun _ _ h => .ite h (.writeMemLine h)) h
theorem MemOk.beginWarm {s} (h : MemOk s) : MemOk (beginWarm s) := by
  unfold Machine.beginWarm
  extract_lets s1 _ s2 _ _
  have hs1 : MemOk s1 := .holdPorts h
  have hs2 : MemOk s2 := .upd hs1
  exact .ite (.beginStart hs2) (.upd hs2)
theorem MemOk.trigger {s warm} (h : MemOk s) : MemOk (trigger s warm) := .ite h (.ite (.beginWarm h) (.beginStart h))
theorem MemOk.writebackDone {s ok} (h : MemOk s) : MemOk (writebackDone s ok) :=
  .ite h (.ite (.beginStart (.writeback (.upd h))) (.beginStart (.upd h)))
theorem MemOk.askImage {s off} (h : MemOk s) : MemOk (askImage s off) := .sendMsg h
theorem MemOk.takeDims {s} (h : MemOk s) : MemOk (takeDims s) := .upd h rfl
theorem MemOk.startPort {s p} (h : MemOk s) : MemOk (startPort s p) := .ite h (.ite (.sendInit h) (.portTrain h))
theorem MemOk.enterLoader {s} (h : MemOk s) : MemOk (enterLoader s) := by
  unfold Machine.enterLoader
  extract_lets s1 _ _ s2
  have hs1 : MemOk s1 := .setStep (.enterMode h)
  have hs2 : MemOk s2 := .upd hs1
  exact .ite hs1 (.askImage (.startPort (.takeDims hs2)))
theorem MemOk.failStart {s code arg} (h : MemOk s) : MemOk (failStart s code arg) := by
  unfold Machine.failStart
  extract_lets step fails s1 s2 s3 s4 st _ s5 s6
  have hs1 : MemOk s1 := .persistVal (.setDval h)
  have hs2 : MemOk s2 := .setDval hs1
  have hs3 : MemOk s3 := .setStatus hs2
  have hs4 : MemOk s4 := .resetBlocks hs3
  have hs5 : MemOk s5 := .upd hs4
  have hs6 : MemOk s6 := .enterMode hs5
  exact .setStep hs6
theorem MemOk.toSafe {s cls} (h : MemOk s) : MemOk (toSafe s cls) := by
  unfold Machine.toSafe
  refine .ite h ?_
  split
  · exact .failStart h
  · exact .failStart h
  · exact .ite (.upd h) h
theorem MemOk.takeSnapshot {s} (h : MemOk s) : MemOk (takeSnapshot s) := .persist (.upd h)
theorem MemOk.loadCmd {s} (h : MemOk s) : MemOk (loadCmd s) := .ite (.enterLoader (.setDval (.resetPlane (.resetBlocks h)))) h
theorem MemOk.forceStart {s warm} (h : MemOk s) : MemOk (forceStart s warm) := .ite (.loadCmd h) (.trigger h)
theorem MemOk.pwrokUp {s slot} (h : MemOk s) : MemOk (pwrokUp s slot) := by
  unfold Machine.pwrokUp
  refine .ite h ?_
  extract_lets _ s1 _ _
  have hs1 : MemOk s1 := .setStep (.upd h)
  exact .upd hs1
theorem MemOk.pwrokDown {s} : MemOk (pwrokDown s) := rfl
theorem MemOk.sysRst {s warm} (h : MemOk s) : MemOk (sysRst s warm) := by
  unfold Machine.sysRst
  split
  · exact .upd h
  · exact h
  · exact .trigger h
theorem MemOk.bootDone {s} (h : MemOk s) : MemOk (bootDone s) := by
  unfold Machine.bootDone
  split
  · exact .ite h (.ite (.enterMode h) (.ite (.enterLoader h) h))
  · exact h

/-! ### Fault handling and power -/

theorem MemOk.endRecord {s n} (h : MemOk s) : MemOk (endRecord s n) := .setCtx (.ite (.upd h) h)
theorem MemOk.freeCoreOps {s core} (h : MemOk s) : MemOk (freeCoreOps s core) :=
  .ite h (.wakeSlotWaits (.foldl (fun _ _ h => .freeOpSlot h) h))
theorem MemOk.redirect {s core} (h : MemOk s) : MemOk (redirect s core) := by
  unfold Machine.redirect
  split
  · exact h
  · extract_lets p nmi s1 s2 s3
    have hs1 : MemOk s1 := .foldl (fun _ _ h => .ite (.setDval h) h) h
    have hs2 : MemOk s2 := .foldl (fun _ _ h => .pendFic h) hs1
    have hs3 : MemOk s3 := .ite (.modCore hs2) hs2
    exact .modCore hs3
theorem MemOk.stopCore {s core} (h : MemOk s) : MemOk (stopCore s core) := by
  unfold Machine.stopCore
  exact .modCore (.foldl (fun _ _ h => .endRecord h) (.freeCoreOps h))
theorem MemOk.react {s cls} (h : MemOk s) : MemOk (react s cls) := .ite (.toSafe h) h
theorem MemOk.declareCore {s core cls addr sub} (h : MemOk s) : MemOk (declareCore s core cls addr sub) := by
  unfold Machine.declareCore
  refine .ite h ?_
  extract_lets intact site free spare bits s1 s2 s3
  have hs1 : MemOk s1 := .modCore (.stopCore h)
  have hs2 : MemOk s2 := by
    unfold s2
    clear_value spare
    split
    · exact .persist (.modCore hs1)
    · exact .redirect (.modCore hs1)
  have hs3 : MemOk s3 := .logFault hs2
  exact .ite hs3 (.ite (.toDegraded hs3) (.spareExhausted hs3))
theorem MemOk.toRecovery {s} (h : MemOk s) : MemOk (toRecovery s) := by
  unfold Machine.toRecovery
  split
  · exact .beginTrans h
  · exact .beginTrans h
  · exact .beginTrans h
  · exact .beginTrans h
  · exact .beginTrans h
  · exact h
theorem MemOk.recompareShare {s t} (h : MemOk s) : MemOk (recompareShare s t) := by
  unfold Machine.recompareShare
  refine .foldl (fun s1 e h1 => ?_) h
  split
  · exact .ite (.recompare h1) h1
  · exact h1
theorem MemOk.declareTile {s t cls addr} (h : MemOk s) : MemOk (declareTile s t cls addr) := by
  unfold Machine.declareTile
  refine .ite h ?_
  extract_lets s1 s2 old reqs s3 s4 _ s5 s6 s7 s8
  have hs1 : MemOk s1 := .modTile (.logFault h)
  have hs2 : MemOk s2 := .foldl (fun _ _ h => .declareCore h) hs1
  have hs3 : MemOk s3 := .setTile hs2
  have hs4 : MemOk s4 := .foldl (fun _ _ h => .ite h (.deadAnswer h)) hs3
  have hs5 : MemOk s5 := .setSq hs4
  have hs6 : MemOk s6 := .seqDone (.upd hs5)
  have hs7 : MemOk s7 := .recompareShare hs6
  have hs8 : MemOk s8 := .setDval hs7
  exact .toRecovery (.persistVal hs8)
theorem MemOk.setPd {s d p} (h : MemOk s) : MemOk (setPd s d p) := .upd h rfl
theorem MemOk.cowslipOff {s} (h : MemOk s) : MemOk (cowslipOff s) := .powerDomain (.foldl (fun _ _ h => .seqHalt h) (.groupsError h))
theorem MemOk.askDrain {s d} (h : MemOk s) : MemOk (askDrain s d) := .drainCheck (.upd h)
theorem MemOk.gateDomain {s d} (h : MemOk s) : MemOk (gateDomain s d) := by
  unfold Machine.gateDomain
  extract_lets forced s1 s2 s3
  have hforced : ∀ a0 a1, MemOk a0 → MemOk (forced a0 a1) := fun _ _ h1 => .logFault h1
  have hs1 : MemOk s1 := .ite (.setDval h) h
  have hs2 : MemOk s2 := .declareTile (hforced _ _ hs1)
  have hs3 : MemOk s3 := .setPd (.toDegraded (hforced _ _ hs1))
  exact .ite (.modTile hs2) (.ite (.setPd (.toSafe (hforced _ _ hs1))) (.ite (.ite (.setPd (.toSafe (hforced _ _ hs1))) (.setPd
      (.toDegraded (hforced _ _ hs1)))) (.ite (.powerDomain (.fencePort (.toDegraded (hforced _ _ hs1)))) (.ite (.drainTimeout (.askDrain
      (.toDegraded (hforced _ _ hs1)))) (.ite (.cowslipOff (.toDegraded (hforced _ _ hs1))) (.ite (.setLink hs3) hs1))))))
theorem MemOk.pdOff {s d} (h : MemOk s) : MemOk (pdOff s d) :=
  .ite h (.ite (.ite (.upd (.setDval h)) (.modTile (.setDval h))) (.ite (.askDrain (.setDval h)) (.ite (.ite (.upd (.setDval h))
      (.powerDomain (.setDval h))) (.powerDomain (.setDval h)))))
theorem MemOk.pdOn {s d} (h : MemOk s) : MemOk (pdOn s d) := .setDval h
theorem MemOk.pdReady {s d} (h : MemOk s) : MemOk (pdReady s d) := by
  unfold Machine.pdReady
  extract_lets mayReturn s1 _ s2
  have hs1 : MemOk s1 := .setPd h
  have hs2 : MemOk s2 := .setPort hs1
  exact .ite (.ite (.ite (.portTrain hs2) hs2) hs1) h
theorem MemOk.releaseLockup {s} (h : MemOk s) : MemOk (releaseLockup s) := .upd h rfl
theorem MemOk.datapath {s core lcn} (h : MemOk s) : MemOk (datapath s core lcn) := by
  unfold Machine.datapath
  extract_lets s1 l s2
  have hs1 : MemOk s1 := .ite (.modCtx h) h
  have hs2 : MemOk s2 := .modCore hs1
  exact .ite (.declareCore hs2) (.logFault hs2)
theorem MemOk.dropReaction {s cls} (h : MemOk s) : MemOk (dropReaction s cls) := .ite (.toSafe h) (.ite h (.toDegraded h))
theorem MemOk.report {s cls unit addr detail} (h : MemOk s) : MemOk (report s cls unit addr detail) := by
  unfold Machine.report
  refine .ite h ?_
  extract_lets s1 d _
  have hs1 : MemOk s1 := .wakeDevice h
  refine .ite (.failStart (.logFault hs1)) ?_
  split
  · exact .ite (.react (.declareTile hs1)) (.logFault hs1)
  · exact .ite (.react (.datapath hs1)) hs1
  · exact .ite (.react (.declareCore hs1)) hs1
  · exact .ite (.react (.declareCore hs1)) hs1
  · exact .ite (.react (.declareCore hs1)) hs1
  · exact .react (.declareTile hs1)
  · exact .ite (.portDown hs1) hs1
  · exact .ite (.fencePort (.logFault hs1)) hs1
  · exact .logFault (.upd hs1)
  · exact .toDegraded (.logFault hs1)
  · exact .gateDomain hs1
  · exact .toSafe (.logFault (.upd hs1))
  · exact .dropReaction (.logFault hs1)
  · exact .ite (.toSafe (.logFault hs1)) (.logFault hs1)
theorem MemOk.runCheck {s n done failed unit} (h : MemOk s) : MemOk (runCheck s n done failed unit) := by
  unfold Machine.runCheck
  refine .ite (.ite (.upd h) (.ite (.react (.declareTile (.upd h))) (.report (.upd h)))) ?_
  extract_lets k s1 _ s2
  have hs1 : MemOk s1 := .setDval h
  have hs2 : MemOk s2 := .upd hs1
  exact .ite (.report hs2) hs2
theorem MemOk.period {s done failed unit} (h : MemOk s) : MemOk (period s done failed unit) :=
  .ite h (.foldl (fun _ _ h => .runCheck h) (.upd h))
theorem MemOk.testStart {s core} (h : MemOk s) : MemOk (testStart s core) := by
  unfold Machine.testStart
  extract_lets c
  refine .ite h ?_
  split
  · exact .setCore h
  · split
    · exact .ite h (.queueSwap (.setCore h))
    · exact h
theorem MemOk.testResult {s core ok} (h : MemOk s) : MemOk (testResult s core ok) := .ite h (.ite (.modCore h) (.report (.modCore h)))
theorem MemOk.sample {s kind unit temp power} (h : MemOk s) : MemOk (sample s kind unit temp power) := by
  unfold Machine.sample
  refine .ite h ?_
  extract_lets s1 s2
  have hs1 : MemOk s1 := .setDval h
  have hs2 : MemOk s2 := by
    unfold s2
    split
    · exact .setDval hs1
    · exact .setDval hs1
    · exact .setDval hs1
    · exact hs1
  exact .ite (.report hs2) hs2
theorem MemOk.relock {old s t} (hs : MemOk s) : MemOk (relock old s t) := .ite (.modTile hs) hs
theorem MemOk.throttle {s t up} (h : MemOk s) : MemOk (throttle s t up) := .relock (.ite (.ite (.modTile h) h) (.ite (.modTile h) h))
theorem MemOk.logWear {s unit site} (h : MemOk s) : MemOk (logWear s unit site) := .setDval (.logFault h)
theorem MemOk.beginSubst {s core} (h : MemOk s) : MemOk (beginSubst s core) := .foldl (fun _ _ h => .ite (.swapOutReady h) h) (.modCore h)
theorem MemOk.copyBanks {s} (h : MemOk s) : MemOk (copyBanks s) := by
  unfold Machine.copyBanks
  extract_lets one l _
  have hone : ∀ a0 a1, MemOk a0 → MemOk (one a0 a1) := by
    intro a0 a1 ha0
    unfold one
    split
    · exact ha0
    · exact .ite (.upd ha0) (.spareExhausted (.upd ha0))
  exact .foldl (fun _ _ h => hone _ _ h) (.upd h)
theorem MemOk.wear {s mon unit} (h : MemOk s) : MemOk (wear s mon unit) := by
  unfold Machine.wear
  extract_lets live t set n s1 s2 s3 b s4 _ s5
  have hs1 : MemOk s1 := .l2Room h
  have hs2 : MemOk s2 := .modTile hs1
  have hs3 : MemOk s3 := .spareExhausted hs2
  have hs4 : MemOk s4 := .logWear h
  have hs5 : MemOk s5 := .upd hs4
  split
  · exact .ite h (.ite (.beginSubst (.logWear h)) (.spareExhausted h))
  · exact .ite h (.ite (.beginSubst (.logWear h)) (.spareExhausted h))
  · exact .ite h (.ite (.logWear hs2) (.ite (.declareTile hs3) hs3))
  · exact .ite h (.ite (.copyBanks hs5) hs5)
  · exact .logWear h
theorem MemOk.substDone {s core} (h : MemOk s) : MemOk (substDone s core) := by
  unfold Machine.substDone
  extract_lets c
  refine .ite h ?_
  split
  · exact h
  · exact .persist (.setCore h)
theorem MemOk.arrayAccess {s core arr} (h : MemOk s) : MemOk (arrayAccess s core arr) := by
  unfold Machine.arrayAccess
  split
  · exact h
  · exact .ite (.sarkCount (.updMem h)) (.react (.declareCore (.updMem h)))
theorem MemOk.inject {s v} (h : MemOk s) : MemOk (inject s v) := .ite (.updMem h) h
theorem MemOk.commit {s kind payload interrupted} (h : MemOk s) : MemOk (commit s kind payload interrupted) := by
  unfold Machine.commit
  refine .ite h ?_
  refine .ite (.upd h) ?_
  refine .ite ?_ (.persist h)
  split
  · extract_lets _ s1 _
    have hs1 : MemOk s1 := .persist (.upd h)
    exact .upd hs1
  · exact h

/-! ### Starting the device -/

theorem MemOk.putVal {s e1 j v} (h : MemOk s) : MemOk (putVal s e1 j v) := by
  unfold Machine.putVal
  split
  · exact .ite (.persistVal (.setDval h)) (.setDval h)
  · exact .upd h
theorem MemOkR.blockWrite {s e1 j n v} (h : MemOk s) : MemOkR (blockWrite s e1 j n v) := by
  unfold Machine.blockWrite
  split
  · exact .mk (.applyThresholds (.putVal h))
  · exact .mk (.ite (.fencePort h) (.unfencePort h))
  · exact .ite (.ite (.mk (.pdOff h)) (.mk h)) (.mk (.pdOn h))
  · exact .mk (.ite (.relock (.putVal h)) (.putVal h))
  · exact .mk (.putVal h)
theorem MemOkL.applyDefaults {s b o fuel} (h : MemOk s) : MemOkL (applyDefaults s b o fuel) := by
  induction fuel generalizing s o with
  | zero => exact h
  | succ fuel ih =>
    rw [Machine.applyDefaults]
    refine .ite (.mk h) ?_
    extract_lets i j len v
    split
    · exact .mk h
    · exact .ite (.mk h) (ih (.snd (.blockWrite h)))
theorem MemOk.beginVerify {s src} (h : MemOk s) : MemOk (beginVerify s src) := by
  unfold Machine.beginVerify
  extract_lets s1 s2 s3 s4 _ _
  have hs1 : MemOk s1 := .setStep (.setDval h)
  have hs2 : MemOk s2 := .setDval (.setDval (.setDval hs1))
  have hs3 : MemOk s3 := .setDval hs2
  have hs4 : MemOk s4 := .setStatus hs3
  exact .upd hs4
theorem MemOk.startGo {s} (h : MemOk s) : MemOk (startGo s) := .ite (.beginVerify h) h
theorem MemOk.powerUp {s} (h : MemOk s) : MemOk (powerUp s) :=
  .takeDims (.foldl (fun _ _ h => .ite h (.modTile h)) (.foldl (fun _ _ h => .setPd h) h))
theorem MemOk.startPorts {s} (h : MemOk s) : MemOk (startPorts s) := .foldl (fun _ _ h => .startPort h) h
theorem MemOk.verified {s sig dec keyHash} (h : MemOk s) : MemOk (verified s sig dec keyHash) := by
  unfold Machine.verified
  refine .ite h ?_
  extract_lets s1 _ _ s2 s3 body
  have hs1 : MemOk s1 := .setStep h
  have hs2 : MemOk s2 := .upd hs1
  have hs3 : MemOk s3 := .setStep hs2
  split
  · exact .failStart (.ite (.setDval hs1) hs1)
  · split
    · rename_i t e
      have ht : MemOk t := .ofL (.applyDefaults hs3) e
      exact .failStart ht
    · rename_i t e
      have ht : MemOk t := .ofL (.applyDefaults hs3) e
      exact .startPorts (.powerUp (.setStep (.enterMode ht)))
theorem MemOk.imgReq {s port off} (h : MemOk s) : MemOk (imgReq s port off) := .ite h (.sendMsg h)
theorem MemOk.imgRel {s port off len data} (h : MemOk s) : MemOk (imgRel s port off len data) :=
  .ite h (.ite (.beginVerify (.upd h)) (.askImage (.upd h)))
theorem MemOk.loadFlashing {s} (h : MemOk s) : MemOk (loadFlashing s) :=
  .ite h (.setDval (.setDval (.setDval (.foldl (fun _ _ h => .ite h (.modTile h)) h))))
theorem MemOk.presentRanks {s chans oneRank} (h : MemOk s) : MemOk (presentRanks s chans oneRank) := .foldl (fun _ _ h => .setMc h) h
theorem MemOk.configFar {s chans cap rate} (h : MemOk s) : MemOk (configFar s chans cap rate) := by
  unfold Machine.configFar
  extract_lets ok set _
  split
  exact .updMem h
theorem MemOk.reportFar {s} (h : MemOk s) : MemOk (reportFar s) := .setDval (.setDval (.setDval h))
theorem MemOk.clearDimm {s c} (h : MemOk s) : MemOk (clearDimm s c) := by
  unfold Machine.clearDimm
  extract_lets mc m s1 s2 _
  have hs1 : MemOk s1 := .foldl (fun _ _ h => .ite h (.setUnit h)) h
  have hs2 : MemOk s2 := .foldl (fun _ _ h => .ite h (.setGroupSt h)) hs1
  exact .setMc hs2
theorem MemOk.repairLane {s mc unit} (h : MemOk s) : MemOk (repairLane s mc unit) := .ite (.setUnit (.setMc h)) h
theorem MemOk.repairRow {s mc unit} (h : MemOk s) : MemOk (repairRow s mc unit) :=
  .ite (.setMc h) (.ite (.eraseUnit (.setMc h)) (.ite (.setUnit (.setMc h)) (.setMc h)))
theorem MemOk.restartTargets {s mc} (h : MemOk s) : MemOk (restartTargets s mc) := .setMc h
theorem MemOk.repairMem {s warm changed} (h : MemOk s) : MemOk (repairMem s warm changed) :=
  .foldl (fun _ _ h => .restartTargets h) (.foldl (fun _ _ h => .foldl (fun _ _ h => .ite (.setGroupSt h) h) h) (.foldl
      (fun _ _ h => .foldl (fun _ _ h => .repairRow h) h) (.foldl (fun _ _ h => .ite (.clearDimm h) h) (.foldl (fun _ _ h => .foldl
      (fun _ _ h => .repairLane h) h) h))))
theorem MemOk.bringupDone {s fail unit rate cap far oneRank} (h : MemOk s) : MemOk (bringupDone s fail unit rate cap far oneRank) := by
  unfold Machine.bringupDone
  refine .ite h ?_
  refine .ite (.failStart h) ?_
  extract_lets warm s1
  have hs1 : MemOk s1 := .copyBanks (.loadFlashing (.repairMem h))
  split
  exact .setStep (.enterMode (.reportFar (.ite hs1 (.configFar (.presentRanks hs1)))))
theorem MemOk.bistDone {s ok} (h : MemOk s) : MemOk (bistDone s ok) := .ite h (.ite (.setStep (.upd (.clearArrays h))) (.failStart h))

/-- Writing a list of keys leaves every other key of a table. -/
theorem tget_foldl_tset (f : Nat → W) (l : List Nat) (t : Tbl W) (k : Nat) (h : k ∉ l) :
    tget ((l.map fun i => (i, f i)).foldl (fun t e => tset t e.1 e.2) t) k = tget t k := by
  induction l generalizing t with
  | nil => rfl
  | cons i l ih =>
    obtain ⟨hi, hl⟩ := List.ne_and_not_mem_of_not_mem_cons h
    exact (ih _ hl).trans (tget_tset_ne t _ hi)

/-- Words taken out leave a canonical form, and the words that stay are still no default where the default is the same. -/
theorem memWfFrom_filter {lost lost' t : Tbl W} {lo : Nat} {p : Nat → Bool} (hp : ∀ k, p k = true → dfltW lost' k = dfltW lost k)
    (h : memWfFrom lost t lo = true) : memWfFrom lost' (t.filter fun e => p e.1) lo = true := by
  induction t generalizing lo with
  | nil => rfl
  | cons a r ih =>
    obtain ⟨k, v⟩ := a
    simp only [memWfFrom, Bool.and_eq_true, decide_eq_true_eq] at h
    obtain ⟨⟨hlo, hv⟩, hr⟩ := h
    by_cases hk : p k = true
    · simp only [List.filter_cons, hk, if_true, memWfFrom, Bool.and_eq_true, decide_eq_true_eq]
      exact ⟨⟨hlo, hp k hk ▸ hv⟩, ih hr⟩
    · simp only [List.filter_cons, hk, if_false, Bool.false_eq_true]
      exact memWfFrom_mono (by omega) (ih hr)

/-- The words of the shares that become LOST are taken out, and in every other share the default stays (R251). -/
theorem MemOk.moveShares {s} (h : MemOk s) : MemOk (moveShares s) := by
  unfold Machine.moveShares
  extract_lets map shares lost gone _ t
  refine .ite h (.persist (.upd (s := t) ?_))
  show memWfFrom t.mem.lost t.mem.words 0 = true
  refine memWfFrom_filter (p := fun k => !gone k) (fun k hk => ?_) h
  have : homeShare (8 * k) ∉ shares := by simpa [gone] using hk
  simp only [dfltW, tgetD, t, lost, tget_foldl_tset _ _ _ _ this]
theorem MemOk.memInit {s} (h : MemOk s) : MemOk (memInit s) := by
  unfold Machine.memInit
  extract_lets st _ t u
  have ht : MemOk t := .ite h (rfl : Memory.wf {} = true)
  have hu : MemOk u := .moveShares ht
  exact .ite h (.setStep (.upd hu))
theorem MemOk.takeSettings {s} (h : MemOk s) : MemOk (takeSettings s) := .setDval (.setDval (.setDval (.upd (.upd h))))
theorem MemOk.loadReedLib {s} (h : MemOk s) : MemOk (loadReedLib s) := by
  unfold Machine.loadReedLib
  split
  · exact h
  · extract_lets b m ks one s1 _
    have hone : ∀ a0 a1, MemOk a0 → MemOk (one a0 a1) := fun _ _ h1 => .foldl (fun _ _ h => .setSq h) h1
    have hs1 : MemOk s1 := .foldl (fun _ _ h => hone _ _ h) h
    exact .upd hs1
theorem MemOk.bootCtx {s r} (h : MemOk s) : MemOk (bootCtx s r) := by
  unfold Machine.bootCtx
  extract_lets core
  split
  · exact h
  · exact .makeReady (.setCtx h)
theorem MemOk.writeSegment {s x} (h : MemOk s) : MemOk (writeSegment s x) := .foldl (fun _ _ h => .agentWrite h) h
theorem MemOk.enterService {s} (h : MemOk s) : MemOk (enterService s) := by
  unfold Machine.enterService
  refine .ite h ?_
  extract_lets warm s1 body segs seq s2 s3 s4 s5 k s6 s7 _ _
  have hs1 : MemOk s1 := .loadReedLib (.takeSettings h)
  have hs2 : MemOk s2 := .foldl (fun _ _ h => .writeSegment h) hs1
  have hs3 : MemOk s3 := .foldl (fun _ _ h => .bootCtx h) hs2
  have hs4 : MemOk s4 := .enterMode (.flushTracked hs3)
  have hs5 : MemOk s5 := .persistVal (.setDval hs4)
  have hs6 : MemOk s6 := .persistVal (.setDval hs5)
  have hs7 : MemOk s7 := .setStatus (.setStep hs6)
  exact .ite (.failStart hs1) (.ite (.failStart hs2) (.persist (.upd hs7)))
theorem MemOk.stepTimeout {s step} (h : MemOk s) : MemOk (stepTimeout s step) := .ite (.failStart h) h
theorem MemOk.ownerHash {s h1} (h : MemOk s) : MemOk (ownerHash s h1) := .ite h (.upd h)
theorem MemOk.fuseBurnt {s} (h : MemOk s) : MemOk (fuseBurnt s) := .ite (.setDval (.upd h)) h
theorem MemOk.minSvn {s v} (h : MemOk s) : MemOk (minSvn s v) := .ite (.persistVal (.setDval h)) h

/-! ### The management plane -/

theorem MemOk.modeCmd {s v} (h : MemOk s) : MemOk (modeCmd s v) := by
  unfold Machine.modeCmd
  refine .ite h ?_
  refine .ite (.ite (.wakeDevice h) (.upd (.wakeDevice h))) ?_
  split
  · exact .beginTrans h
  · exact .beginTrans h
  · exact .beginTrans h
  · exact .toSafe h
theorem MemOk.mirrorTick {s} (h : MemOk s) : MemOk (mirrorTick s) := .upd h rfl
theorem MemOkR.writeAction {s e1 j n v} (h : MemOk s) : MemOkR (writeAction s e1 j n v) := by
  unfold Machine.writeAction
  split
  · exact .ite (.mk (.ite (.modeCmd h) h)) (.mk (.putVal h))
  · exact .ite (.mk h) (.mk (.putVal h))
  · split
    · exact .ite (.mk (.loadCmd h)) (.mk h)
    · exact .ite (.mk (.trigger h)) (.mk h)
    · exact .ite (.mk (.trigger h)) (.mk h)
    · exact .ite (.mk (.startGo h)) (.mk h)
  · exact .ite (.mk (.inject h)) (.mk h)
  · exact .ite (.mk (.ownerHash h)) (.ite (.mk h) (.mk (.putVal h)))
  · exact .blockWrite h
theorem MemOkR.dictWrite {s r} (h : MemOk s) : MemOkR (dictWrite s r) := by
  unfold Machine.dictWrite
  split
  · exact .mk h
  · exact .ite (.mk h) (.ite (.mk h) (.ite (.mk h) (.mk (.snd (.writeAction h)))))
theorem MemOkR.dictForce {s r} (h : MemOk s) : MemOkR (dictForce s r) := by
  unfold Machine.dictForce
  split
  · exact .mk h
  · exact .ite (.mk h) (.ite (.mk h) (.ite (.mk (.fencePort h)) (.ite (.mk (.gateDomain h)) (.ite (.mk (.forceStart h)) (.ite (.mk
        (.releaseLockup h)) (.mk h))))))
theorem MemOkR.perform {s op r} (h : MemOk s) : MemOkR (perform s op r) := by
  unfold Machine.perform
  refine .ite (.mk h) ?_
  split
  · exact .mk h
  · exact .dictWrite h
  · exact .dictForce h
  · exact .mk h
  · exact .mk h
  · exact .mk h
  · exact .mk h
theorem MemOk.replyBar2 {s b} (h : MemOk s) : MemOk (replyBar2 s b) := .msix (.upd h)
theorem MemOk.replyBox {s m b} (h : MemOk s) : MemOk (replyBox s m b) := by
  unfold Machine.replyBox
  extract_lets x _ s1 s2
  have hs1 : MemOk s1 := .upd h
  have hs2 : MemOk s2 := .ite (.ringBits hs1) hs1
  exact .ite (.signal hs2) hs2
theorem MemOk.deliverReply {s op a} (h : MemOk s) : MemOk (deliverReply s op a) := by
  unfold Machine.deliverReply
  extract_lets r _ out
  have hout : MemOk out := .upd h
  split
  · exact .replyBar2 h
  · exact .replyBox h
  · exact .replyBox h
  · exact .replyBox h
  · exact .replyBox h
  · exact hout
theorem MemOk.request {s op r} (h : MemOk s) : MemOk (request s op r) := by
  unfold Machine.request
  refine .ite h ?_
  refine .ite (.deliverReply h) ?_
  refine .ite (.deliverReply (.snd (.perform h))) ?_
  split
  · exact .deliverReply h
  · refine .ite (.deliverReply (.snd (.perform h))) ?_
    extract_lets w s1 _ s2 _ _ m _ _
    have hs1 : MemOk s1 := .sendMsg h
    have hs2 : MemOk s2 := .upd hs1
    exact .ite (.upd hs2) (.ite (.upd hs2) hs2)
theorem MemOk.mgmtIn {s h1 isReply op status r} (h : MemOk s) : MemOk (mgmtIn s h1 isReply op status r) := by
  unfold Machine.mgmtIn
  refine .ite h ?_
  refine .ite ?_ ?_
  · split
    · exact h
    · exact .deliverReply (.upd h)
  · extract_lets r1 a _
    have ha : MemOkR a := .ite (.mk h) (.perform h)
    exact .sendMsg (.snd ha)
theorem MemOk.remoteLate {s tag} (h : MemOk s) : MemOk (remoteLate s tag) := by
  unfold Machine.remoteLate
  split
  · exact h
  · exact .deliverReply (.upd h)
theorem MemOk.hostLater {s x} (h : MemOk s) : MemOk (hostLater s x) := .upd h rfl
theorem MemOk.hiDmGo {s op r} (h : MemOk s) : MemOk (hiDmGo s op r) := .ite (.upd h) (.ite (.deliverReply (.upd h)) (.request (.upd h)))
theorem MemOk.dmbGo {s m op r} (h : MemOk s) : MemOk (dmbGo s m op r) := .ite (.upd h) (.request (.upd h))
theorem MemOk.bar2Write {s off data} (h : MemOk s) : MemOk (bar2Write s off data) := .ite (.hostError h) (.ite (.upd (.upd h)) (.upd h))
theorem MemOk.flrReset {s} (h : MemOk s) : MemOk (flrReset s) := .upd h rfl
theorem MemOk.outLate {s x} (h : MemOk s) : MemOk (outLate s x) := by
  unfold Machine.outLate
  split
  · exact h
  · extract_lets _ s1 f
    have hs1 : MemOk s1 := .hostError (.upd h)
    split
    · exact .modCtx hs1
    · exact .modCore hs1

/-! ### The register space -/

theorem MemOk.seqFileWrite {s k o v} (h : MemOk s) : MemOk (seqFileWrite s k o v) :=
  .ite h (.ite (.setSq h) (.ite (.ite h (.setSq h)) (.ite (.setSq h) (.ite (.setSq h) h))))
theorem MemOk.progWrite {s k i v} (h : MemOk s) : MemOk (progWrite s k i v) := .ite (.setSq h) h
theorem MemOk.seqCtlWrite {s w k v} (h : MemOk s) : MemOk (seqCtlWrite s w k v) :=
  .ite (.seqHalt h) (.ite (.ite (.seqGo (.setSq h)) (.setSq h)) (.ite (.seqHalt (.setSq h)) (.setSq h)))
theorem MemOk.seqRegWrite {s w k o v} (h : MemOk s) : MemOk (seqRegWrite s w k o v) := by
  unfold Machine.seqRegWrite
  split
  · exact .seqCtlWrite h
  · exact .ite (.setSq h) h
  · exact .seqEvent h
  · exact .seqFileWrite h
theorem MemOk.gcBegin {s x} (h : MemOk s) : MemOk (gcBegin s x) := .upd h rfl
theorem MemOk.gcWrite {s x w o v} (h : MemOk s) : MemOk (gcWrite s x w o v) := .setWorld (.gcBegin h)
theorem MemOk.gptWrite {s x w o v} (h : MemOk s) : MemOk (gptWrite s x w o v) := .setWorld (.gcBegin h)
theorem MemOk.vlCtlWrite {s w n v} (h : MemOk s) : MemOk (vlCtlWrite s w n v) := .setChan h
theorem MemOk.chanWrite {s w n o v} (h : MemOk s) : MemOk (chanWrite s w n o v) := by
  unfold Machine.chanWrite
  split
  · exact .vlCtlWrite h
  · exact .vlHead h
  · exact .ite (.vlRing h) h
  · exact .ite (.vlAbort h) h
  · exact .seqEvent h
  · exact .seqFileWrite h
theorem MemOk.groupWrite {s w n o v} (h : MemOk s) : MemOk (groupWrite s w n o v) := by
  unfold Machine.groupWrite
  extract_lets g
  split
  · exact .setGroup h
  · exact .ite (.setGroup h) h
  · exact .ite (.setGroup h) h
  · exact .setGroup h
  · exact .ite (.collStart h) h
  · exact .setGroup h
  · exact .setGroup h
  · exact h
theorem MemOk.portWrite {s p o v} (h : MemOk s) : MemOk (portWrite s p o v) := by
  unfold Machine.portWrite
  extract_lets q
  split
  · exact .setPort h
  · exact .setPort h
  · exact h
theorem MemOk.mcWrite {s m o v} (h : MemOk s) : MemOk (mcWrite s m o v) := by
  unfold Machine.mcWrite
  extract_lets c
  split
  · exact .setMc h
  · exact .setMc h
  · exact h
theorem MemOk.setBox {s m x} (h : MemOk s) : MemOk (setBox s m x) := .upd h rfl
theorem MemOk.dmbCtl {s m v} (h : MemOk s) : MemOk (dmbCtl s m v) :=
  .ite (.setBox h) (.ite (.dmbGo (.setBox h)) (.deliverReply (.setBox (.setBox h))))
theorem MemOk.mboxWrite {s m o v} (h : MemOk s) : MemOk (mboxWrite s m o v) := by
  unfold Machine.mboxWrite
  extract_lets x
  refine .ite (.ite h (.setBox h)) ?_
  split
  · exact .setBox h
  · exact .dmbCtl h
  · exact .ite (.setBox h) h
  · exact h
theorem MemOk.slotWrite {s w n o v} (h : MemOk s) : MemOk (slotWrite s w n o v) :=
  .ite (.discardRing h) (.ite h (.ite (.ringBits h) (.ite h (.modCtx h))))
theorem MemOk.msixSend {s v} (h : MemOk s) : MemOk (msixSend s v) := .ite (.hostError h) (.msix h)
theorem MemOk.regWrite {s w host x lpa v} (h : MemOk s) : MemOk (regWrite s w host x lpa v) := by
  unfold Machine.regWrite
  split
  · exact .seqRegWrite h
  · exact .progWrite h
  · exact .gcWrite h
  · exact .gptWrite h
  · exact .chanWrite h
  · exact .groupWrite h
  · exact .portWrite h
  · exact .mcWrite h
  · exact .mboxWrite h
  · exact .slotWrite h
  · exact .ite (.setWorld h) h
  · exact .msixSend h
  · exact h
  · exact h
  · exact h
theorem MemOk.msixTable {s o v} (h : MemOk s) : MemOk (msixTable s o v) := .ite (.msix (.upd (.upd h))) (.upd h)
theorem MemOk.hiRaise {s v} (h : MemOk s) : MemOk (hiRaise s v) := .foldl (fun _ _ h => .ite (.signal h) h) h
theorem MemOk.hiDmTake {s v} (h : MemOk s) : MemOk (hiDmTake s v) := .ite (.hiDmGo (.upd h)) (.deliverReply (.upd (.upd h)))
theorem MemOk.hiDmCtl {s v} (h : MemOk s) : MemOk (hiDmCtl s v) := .ite (.upd h) (.ite (.hostLater h) (.hiDmTake h))
theorem MemOk.hiWrite {s o v} (h : MemOk s) : MemOk (hiWrite s o v) := by
  unfold Machine.hiWrite
  extract_lets h1 _
  refine .ite (.msixTable h) ?_
  split
  · exact .upd h
  · exact .upd h
  · exact .upd h
  · exact .upd h
  · exact .ite (.hostLater h) (.hiRaise h)
  · exact .hiDmCtl h
  · exact .ite (.upd h) h
  · exact h
theorem MemOk.bar0Write {s o v} (h : MemOk s) : MemOk (bar0Write s o v) := by
  unfold Machine.bar0Write
  split
  · exact .hiWrite h
  · refine .ite (.hostError h) ?_
    split
    · exact .ite (.hostLater h) (.regWrite h)
    · exact h
    · exact .ite (.regWrite h) (.hostError h)
theorem MemOk.hostEffect {s lpa v} (h : MemOk s) : MemOk (hostEffect s lpa v) := .ite (.hiRaise h) (.ite (.hiDmTake h) (.regWrite h))
theorem MemOk.hostWrite {s x v} (h : MemOk s) : MemOk (hostWrite s x v) := by
  unfold Machine.hostWrite
  split
  · exact h
  · exact .ite h (.ite (.bar0Write h) (.ite (.hostError h) (.ite (.holdMsg h) (.bar0Write h))))
theorem MemOk.writeReg {s by_ lpa v} (h : MemOk s) : MemOk (writeReg s by_ lpa v) := by
  unfold Machine.writeReg
  split
  · exact .hostWrite h
  · exact .ite (.regWrite h) h
theorem MemOk.gcDone {s} (h : MemOk s) : MemOk (gcDone s) := .upd h rfl

/-! ### Answers at the core -/

theorem MemOk.hostRead {s off v} (h : MemOk s) : MemOk (hostRead s off v) := .upd h rfl
theorem MemOk.hostFault {s off read f} (h : MemOk s) : MemOk (hostFault s off read f) := .ite (.hostRead (.hostError h)) (.hostError h)
theorem MemOk.hostWord {s off w} (h : MemOk s) : MemOk (hostWord s off w) := .ite (.hostRead (.hostError h)) (.hostRead h)
theorem MemOkO.barWord {s o va w data} (h : MemOk s) : MemOkO (barWord s o va w data) := by
  unfold Machine.barWord
  extract_lets read acc
  split
  · exact .some (.hostFault h)
  · refine .ite (.map fun u e => ?_) (.map fun u e => .upd (.ofOR (.sendOp h) (a := u.1) e))
    have hu : MemOk u := .ofO (.ownSlot h) e
    split
    · split
      · rename_i t e1
        have ht : MemOk t := .ofR (.homeLoad hu) e1
        exact .hostWord ht
      · rename_i t e1
        have ht : MemOk t := .ofR (.homeLoad hu) e1
        exact .hostFault ht
    · split
      · rename_i t e1
        have ht : MemOk t := .ofR (.homeStore hu) e1
        exact ht
      · rename_i t e1
        have ht : MemOk t := .ofR (.homeStore hu) e1
        exact .hostFault ht
theorem MemOk.barGo {s fuel} (h : MemOk s) : MemOk (barGo s fuel) := by
  induction fuel generalizing s with
  | zero => rw [Machine.barGo]; exact h
  | succ fuel ih =>
    unfold Machine.barGo
    split
    · exact h
    · exact h
    · next e _ =>
      obtain rfl := Nat.succ.inj e
      extract_lets _ t
      have ht : MemOk t := .upd h
      split
      · refine .ite h ?_
        split
        · rename_i t1 e1
          have ht1 : MemOk t1 := .ofO (.barWord ht) e1
          exact ih ht1
        · exact h
      · exact .ite h (ih (.hostEffect ht))
      · exact .ite h (ih (.hiDmGo ht))
theorem MemOk.barRun {s} (h : MemOk s) : MemOk (barRun s) := .barGo h
theorem MemOk.barDone {s read} (h : MemOk s) : MemOk (barDone s read) := .barRun (.upd h)
theorem MemOk.barSlot {s} (h : MemOk s) : MemOk (barSlot s) := .ite (.barRun h) h
theorem MemOk.barAfter {s o} (h : MemOk s) : MemOk (barAfter s o) := by
  unfold Machine.barAfter
  split
  · exact .barDone h
  · exact .barDone h
  · exact .barSlot h
theorem MemOk.lateAnswer {s} (h : MemOk s) : MemOk (lateAnswer s) := .countUp h
theorem MemOk.answerWord {s k o w ack} (h : MemOk s) : MemOk (answerWord s k o w ack) := by
  unfold Machine.answerWord
  extract_lets s1
  have hs1 : MemOk s1 := by
    unfold s1
    split
    · exact .ite (.giveAck (.giveWord h)) (.giveWord h)
    · exact .vlWord h
    · exact .seqWord h
    · exact .hostWord h
    · exact h
  exact .barAfter (.closeOp hs1)
theorem MemOk.rdata {s h1 w ack} (h : MemOk s) : MemOk (rdata s h1 w ack) := by
  unfold Machine.rdata
  refine .ite h ?_
  split
  · exact .lateAnswer h
  · exact .ite h (.answerWord h)
theorem MemOk.installReplica {s w va ws} (h : MemOk s) : MemOk (installReplica s w va ws) :=
  .ite h (.modTile (.l2Room (.l2Room (.setTile h))))
theorem MemOk.rpair {s h1 ws} (h : MemOk s) : MemOk (rpair s h1 ws) := by
  unfold Machine.rpair
  refine .ite h ?_
  split
  · exact .lateAnswer h
  · exact .ite h (.answerWord (.installReplica h))
theorem MemOk.rack {s h1} (h : MemOk s) : MemOk (rack s h1) := by
  unfold Machine.rack
  refine .ite h ?_
  split
  · exact .lateAnswer h
  · refine .ite h ?_
    extract_lets k s1 s2 s3
    have hs1 : MemOk s1 := by
      unfold s1
      split
      · exact .giveAck h
      · exact .vlAcked h
      · exact h
    have hs2 : MemOk s2 := .closeOp hs1
    have hs3 : MemOk s3 := by
      unfold s3
      split
      · exact .drainCheck hs2
      · exact .drainCheck hs2
      · exact hs2
    exact .barAfter hs3
theorem MemOk.opEnd {s k o f} (h : MemOk s) : MemOk (opEnd s k o f) := by
  unfold Machine.opEnd
  extract_lets s1
  have hs1 : MemOk s1 := .closeOp h
  split
  · exact .ite (.ackStore (.latchFault hs1)) (.ite (.ackStore (.modCtx hs1)) (.modCtx hs1))
  · refine .ite (.countUp (.giveAck hs1)) ?_
    extract_lets s2
    have hs2 : MemOk s2 := .ite (.giveAck hs1) hs1
    split
    · exact .ite (.ficLockup hs2) hs2
    · exact hs2
  · exact .vlRemote hs1
  · exact .drainCheck (.seqRemote hs1)
  · exact .hostFault hs1
  · exact hs1
theorem MemOk.opFault {s k o f} (h : MemOk s) : MemOk (opFault s k o f) := .barAfter (.opEnd h)
theorem MemOk.rfault {s h1 f} (h : MemOk s) : MemOk (rfault s h1 f) := by
  unfold Machine.rfault
  refine .ite h ?_
  split
  · exact .lateAnswer h
  · exact .opFault h
theorem MemOk.remoteTimeout {s slot gen} (h : MemOk s) : MemOk (remoteTimeout s slot gen) := by
  unfold Machine.remoteTimeout
  split
  · exact .ite (.opFault h) h
  · exact h
theorem MemOk.bar4 {s off len data ep} (h : MemOk s) : MemOk (bar4 s off len data ep) :=
  .ite (.hostError h) (.ite (.ite (.hostRead (.hostError h)) (.hostError h)) (.ite (.ite (.hostRead (.hostError h)) (.hostError h))
      (.barRun (.upd h))))
theorem MemOkOut.execBar4Read {off len s} (h : MemOk s) : MemOkOut (execBar4Read off len s) :=
  .next (.tick (.ite h (.ite (.holdMsg h) (.bar4 h))))
theorem MemOkOut.execBar4Write {off data ep s} (h : MemOk s) : MemOkOut (execBar4Write off data ep s) :=
  .next (.tick (.ite h (.ite (.holdMsg h) (.bar4 h))))

/-! ### Operands and results -/

theorem MemOk.modFic {s k f} (h : MemOk s) : MemOk (State.modFic s k f) := .modCore h
theorem MemOk.setXreg {s x r v} (h : MemOk s) : MemOk (setXreg s x r v) := by
  unfold Machine.setXreg
  split
  · exact .modCtx h
  · exact .modFic h
theorem MemOk.setXpc {s x v} (h : MemOk s) : MemOk (setXpc s x v) := by
  unfold Machine.setXpc
  split
  · exact .modCtx h
  · exact .modFic h
theorem MemOk.setXlk {s x v} (h : MemOk s) : MemOk (setXlk s x v) := by
  unfold Machine.setXlk
  split
  · exact .modCtx h
  · exact .modFic h
theorem MemOk.setXcnt {s x v} (h : MemOk s) : MemOk (setXcnt s x v) := by
  unfold Machine.setXcnt
  split
  · exact .modCtx h
  · exact .modFic h
theorem MemOk.setXfpsr {s x v} (h : MemOk s) : MemOk (setXfpsr s x v) := by
  unfold Machine.setXfpsr
  split
  · exact .modCtx h
  · exact .modFic h
theorem Keeps.toReg {rd f e} : Keeps (toReg rd f e) := by
  unfold Machine.toReg
  intro s h
  beta_reduce
  split
  · exact .mk (.setXreg h)
  · exact .mk h

/-! ### Accesses of a core -/

/-- A read of a word through the caches: a hit, the L2, or a request that is sent. -/
theorem Keeps.cacheWord {e1 key mt na walk} : Keeps (cacheWord e1 key mt na walk) := by
  unfold Machine.cacheWord
  intro s h
  beta_reduce
  extract_lets core c line own got need
  have hgot : ∀ a0 a1, MemOk a0 → MemOkR (got a0 a1) := fun _ _ h1 => .mk h1
  have hneed : ∀ a0, MemOkR (need a0) := fun _ => .mk h
  refine .ite (hneed _) ?_
  refine .ite (hgot _ _ h) ?_
  split
  · exact hgot _ _ h
  · split
    · exact hgot _ _ h
    · refine .ite (hneed _) ?_
      refine .ite (hneed _) ?_
      split
      · refine .ite ?_ (hneed _)
        split
        · rename_i t1 e
          have ht1 : MemOk t1 := .ofR (.l1dHit h) e
          exact hgot _ _ ht1
        · exact hneed _
        · exact hneed _
      · split
        · rename_i t e
          have ht : MemOk t := .ofO (.takeStash h) e
          exact hgot _ _ ht
        · exact hneed _
theorem MemOkR.tableReader {e k s} (h : MemOk s) : MemOkR (tableReader e k s) := Keeps.cacheWord s h
theorem MemOk.countXlate {s x t page} (h : MemOk s) : MemOk (countXlate s x t page) := by
  unfold Machine.countXlate
  refine .ite h ?_
  extract_lets held s1
  have hs1 : MemOk s1 := .ite h (.countEvent h)
  exact .ite hs1 (.countEvent hs1)
theorem Keeps.translateAs {e1 t va size v pre} : Keeps (translateAs e1 t va size v pre) := by
  unfold Machine.translateAs
  split
  · exact .pure
  · exact .bind (.modify fun _ h => .countXlate h) fun _ => .bind (.act (fun _ h => .walkPrivate (fun _ _ h' => .tableReader h') h))
        fun _ => .get_bind fun _ h => .bind .chkM fun _ => .bind .chkM fun _ => .chkM
theorem Keeps.keepLeaf {α : Type} {va l} {m : M α} (hm : Keeps m) : Keeps (keepLeaf va l m) := by
  intro s h
  unfold Machine.keepLeaf
  split
  · next e => exact .mk (.ofR (hm s h) e)
  · next e => exact .mk (.ofR (hm s h) e)
  · exact hm s h
theorem Keeps.translate {e1 acc va size v} : Keeps (translate e1 acc va size v) := .get_bind fun _ _ => .translateAs
theorem Keeps.waitEarlier {x} : Keeps (waitEarlier x) := .get_bind fun _ _ => .ite .pure .needM
theorem Keeps.waitSide {x mt} : Keeps (waitSide x mt) := .get_bind fun _ _ => .ite .needM .pure
theorem Keeps.gcNow {e1} : Keeps (gcNow e1) := .bind (.modify fun _ h => .applyGc h) fun _ => .get_bind fun _ _ => .pure
theorem Keeps.gcWord {e1 lpa} : Keeps (gcWord e1 lpa) :=
  .get_bind fun _ _ => .ite (.bind (.act (fun _ h' => .tableReader h')) fun _ => .pure) .pure
theorem Keeps.ftProbe {e ft n o q fuel} : Keeps (ftProbe e ft n o q fuel) := by
  induction fuel generalizing q with
  | zero => exact .pure
  | succ fuel ih =>
    rw [Machine.ftProbe]
    refine .bind .gcWord fun x => ?_
    split
    · exact .pure
    · exact .ite .pure (.ite (.bind .gcWord fun _ => .pure) ih)
theorem Keeps.estProbe {e est space p o k fuel} : Keeps (estProbe e est space p o k fuel) := by
  induction fuel generalizing k with
  | zero => exact .pure
  | succ fuel ih =>
    rw [Machine.estProbe]
    refine .bind .gcWord fun a => ?_
    split
    · exact .pure
    · extract_lets valid bad
      refine .ite .pure ?_
      refine .ite ?_ ih
      refine .bind .gcWord fun b => ?_
      split
      · exact .pure
      · exact .ite .pure .ftProbe
theorem Keeps.targetLeaf {e1 va} : Keeps (targetLeaf e1 va) := by
  unfold Machine.targetLeaf
  intro s h
  beta_reduce
  split
  · rename_i t e
    have ht : MemOk t := .ofR (.walkPrivate (fun _ _ h1 => .tableReader h1) (.countXlate h)) e
    exact .mk ht
  · exact .mk h
  · rename_i t e
    have ht : MemOk t := .ofR (.walkPrivate (fun _ _ h1 => .tableReader h1) (.countXlate h)) e
    exact .mk ht
theorem Keeps.loadBarrier {e1 va slot w} : Keeps (loadBarrier e1 va slot w) := by
  unfold Machine.loadBarrier
  refine .bind .gcNow fun g => ?_
  refine .ite .pure ?_
  extract_lets h x
  have hx : ∀ a0, Keeps (x a0) := by
    intro a0
    unfold x
    refine .bind (.modify fun _ h => .countEvent h) fun _ => ?_
    refine .get_bind fun s h1 => ?_
    extract_lets x1
    have hx1 : ∀ a0, Keeps (x1 a0) := fun _ => .pure
    split
    · exact .ite (.bind (.modify fun _ h => .modCore h) fun _ => hx1 ⟨⟩) (hx1 ⟨⟩)
    · exact hx1 ⟨⟩
  refine .bind .targetLeaf fun l => ?_
  extract_lets evac x1
  have hx1 : ∀ a0, Keeps (x1 a0) := by
    intro a0
    unfold x1
    refine .ite ?_ (.bind .pure fun _ => hx _)
    refine .bind ?_ fun _ => hx _
    clear_value x
    split
    · exact .pure
    · exact .chkM
  exact .ite (.bind (.get_bind fun _ h => .ite .estProbe .pure) fun _ => hx1 _) (.bind .pure fun _ => hx1 _)
theorem MemOkL.touch {s x va} (h : MemOk s) : MemOkL (touch s x va) := by
  unfold Machine.touch
  split
  · exact .mk h
  · refine .ite (.mk h) ?_
    extract_lets n1 s1 c
    have hs1 : MemOk s1 := .applyGc h
    split
    · exact .mk hs1
    · exact .mk (.setCtx hs1)
theorem MemOk.moreStores {s x} (h : MemOk s) : MemOk (moreStores s x) := by
  unfold Machine.moreStores
  split
  · exact .modCtx h
  · exact .modFic h
theorem Keeps.globalRelease {e1 release} : Keeps (globalRelease e1 release) := by
  unfold Machine.globalRelease
  refine .get_bind fun s h => ?_
  refine .ite ?_ .pure
  extract_lets x
  have hx : ∀ a0, Keeps (x a0) := fun _ => .bind .waitEarlier fun _ => .ite .needM .pure
  split
  · exact .ite (.bind .needM fun _ => hx ⟨⟩) (hx ⟨⟩)
  · exact hx ⟨⟩
theorem Keeps.globalLoad {e1 va size acq} : Keeps (globalLoad e1 va size acq) := by
  unfold Machine.globalLoad
  refine .get_bind fun s h => ?_
  split
  · exact .pure
  · refine .ite .needM ?_
    split
    · exact .chkM
    · exact .needM
theorem MemOk.storeFault {s x va f home} (h : MemOk s) : MemOk (storeFault s x va f home) := by
  unfold Machine.storeFault
  split
  · exact .latchFault h
  · exact .countUp h
theorem Keeps.globalStore {e va word size release} : Keeps (globalStore e va word size release) := by
  unfold Machine.globalStore
  refine .bind .globalRelease fun _ => .get_bind fun s h => ?_
  have ht : MemOk (touch s e.x va).1 := .fst (.touch h)
  refine .ite .needM (.ite .needM (.ite ?_ ?_))
  · split
    · exact .needM
    · next e1 =>
      split
      · next e2 => exact .set (.ofR (.homeStore (.moreStores (.countEvent (.takeOp h e1)))) e2)
      · next e2 => exact .set (.opFault (.ofR (.homeStore (.moreStores (.countEvent (.takeOp h e1)))) e2))
  · split
    · exact .set (.storeFault ht)
    · split
      · next e1 => exact .set (.moreStores (.countEvent (.ofOR (.sendOp ht) e1)))
      · exact .needM
theorem Keeps.sendDoorbell {e1 va v} : Keeps (sendDoorbell e1 va v) := by
  unfold Machine.sendDoorbell
  refine .get_bind fun s h => ?_
  extract_lets home lcn gen ev o
  refine .ite (.set (.doorbellIn h)) ?_
  refine .ite .needM ?_
  split
  · exact .set (.storeFault h)
  · split
    · rename_i t e
      have ht : MemOkR t := .ofOR (.sendOp h) e
      exact .set (.moreStores (.snd ht))
    · exact .needM
theorem Keeps.regLoad {e1 lpa} : Keeps (regLoad e1 lpa) := by
  unfold Machine.regLoad
  refine .get_bind fun s h => ?_
  extract_lets a
  refine .ite ?_ .pure
  split
  · exact .pure
  · exact .ite .needM (.bind (.set (.hostError h)) fun _ => .pure)
theorem Keeps.regStore {e1 va lpa w} : Keeps (regStore e1 va lpa w) := by
  unfold Machine.regStore
  refine .get_bind fun s h => ?_
  extract_lets a _
  refine .ite (.ite (.set (.upd h)) (.set (.hostError h))) ?_
  split
  · exact .sendDoorbell
  · exact .set (.regWrite h)
theorem Keeps.rawLoad {e1 va size acq} : Keeps (rawLoad e1 va size acq) :=
  .bind .chkM fun _ => .ite (.bind .globalLoad fun _ => .pure) (.bind .translate fun _ => .get_bind fun _ _ => .bind .chkM
      fun _ => .bind .waitSide fun _ => .bind (.keepLeaf (.ite .regLoad .cacheWord)) fun _ => .pure)
theorem Keeps.loadWord {e1 va acq} : Keeps (loadWord e1 va acq) := by
  unfold Machine.loadWord
  refine .bind .rawLoad fun x => ?_
  split
  exact .get_bind fun _ h => .ite .chkM .loadBarrier
theorem Keeps.loadPlain {e1 va} : Keeps (loadPlain e1 va) := by
  unfold Machine.loadPlain
  refine .bind .rawLoad fun x => ?_
  split
  exact .pure
theorem Keeps.loadBytes {e1 va size} : Keeps (loadBytes e1 va size) := by
  unfold Machine.loadBytes
  refine .bind .rawLoad fun x => ?_
  split
  exact .get_bind fun _ h => .ite .pure (.ite (.ite .chkM .pure) (.ite .chkM .chkM))
theorem Keeps.logSlot {e1 ptr} : Keeps (logSlot e1 ptr) := .get_bind fun _ _ => .bind .translateAs fun _ => .pure
theorem Keeps.logFor {e1 used ptr} : Keeps (logFor e1 used ptr) := .ite (.bind .logSlot fun _ => .pure) .pure
theorem Keeps.storeBarrier {e1 g va l v} : Keeps (storeBarrier e1 g va l v) :=
  .get_bind fun _ _ => .bind .chkM fun _ => .bind .logFor fun _ => .bind .logFor fun _ => .bind .chkM fun _ => .bind .chkM fun _ => .pure
theorem Keeps.translateSlot {e1 g acc va v reg} : Keeps (translateSlot e1 g acc va v reg) := .get_bind fun _ _ => .translateAs
theorem Keeps.roomAppends {e1 b} : Keeps (roomAppends e1 b) := .get_bind fun _ _ => .ite .needM .pure
theorem Keeps.waitBehind {e1 key} : Keeps (waitBehind e1 key) := .get_bind fun _ _ => .ite .needM .pure
theorem MemOk.bumpRs {s x} (h : MemOk s) : MemOk (bumpRs s x) := by
  unfold Machine.bumpRs
  split
  · exact .modCtx h
  · exact h
theorem MemOk.bumpSa {s x} (h : MemOk s) : MemOk (bumpSa s x) := by
  unfold Machine.bumpSa
  split
  · exact .modCtx h
  · exact h
theorem MemOk.pushAppend {s x slot w} (h : MemOk s) : MemOk (pushAppend s x slot w) := .modCore h
theorem MemOk.snapAppend {s x b old} (h : MemOk s) : MemOk (snapAppend s x b old) := by
  unfold Machine.snapAppend
  split
  · exact .ite (.bumpSa (.pushAppend h)) h
  · exact h
theorem MemOk.cardAppend {s x b va} (h : MemOk s) : MemOk (cardAppend s x b va) := by
  unfold Machine.cardAppend
  split
  · exact .bumpRs (.pushAppend h)
  · exact h
theorem Keeps.ownLine {e1 key na} : Keeps (ownLine e1 key na) := by
  unfold Machine.ownLine
  refine .get_bind fun s h => ?_
  extract_lets c line
  refine .ite .needM ?_
  refine .ite .needM ?_
  split
  · refine .ite ?_ .needM
    split
    · rename_i t1 e
      have ht1 : MemOk t1 := .ofR (.l1dHit h) e
      exact .set ht1
    · exact .needM
    · exact .needM
  · split
    · rename_i t e
      have ht : MemOk t := .ofO (.takeStash h) e
      exact .set ht
    · exact .needM
theorem Keeps.putWord {e1 va l v b} : Keeps (putWord e1 va l v b) := by
  unfold Machine.putWord
  extract_lets key core card
  refine .bind .roomAppends fun _ => ?_
  refine .get_bind fun s h => ?_
  refine .ite ?_ (.bind .waitBehind fun _ => .modify fun _ h => .ite (.bumpRs (.issueStore h)) (.issueStore h))
  refine .ite ?_ (.bind .ownLine fun _ => .modify fun _ h => .cardAppend (.snapAppend (.perfStore h)))
  split
  · exact .modify fun _ h => .cardAppend (.snapAppend h)
  · exact .bind .waitBehind fun _ => .ite .needM .needM
theorem Keeps.heldBarrier {e1 m} (hm : Keeps m) : Keeps (heldBarrier e1 m) := by
  unfold Machine.heldBarrier
  split
  · exact .pure
  · exact hm
theorem Keeps.storeWord {e1 va v release} : Keeps (storeWord e1 va v release) :=
  .bind .chkM fun _ => .ite .globalStore (.bind .gcNow fun _ => .bind .translateSlot fun _ => .bind (.heldBarrier .storeBarrier)
      fun _ => .ite (.bind .waitEarlier fun _ => .bind .waitSide fun _ => .ite .regStore .putWord) (.bind .waitSide
      fun _ => .ite .regStore .putWord))
theorem Keeps.storeBytes {e1 va v size} : Keeps (storeBytes e1 va v size) := by
  unfold Machine.storeBytes
  refine .bind .chkM fun _ => ?_
  refine .ite .globalStore ?_
  refine .bind .translate fun l => ?_
  refine .get_bind fun s h => ?_
  refine .bind .chkM fun _ => ?_
  extract_lets key core p a refuse
  have hrefuse : ∀ a0, Keeps (refuse a0) := by
    intro a0
    unfold refuse
    split
    · exact .chkM
    · exact .chkM
    · exact .pure
  exact .bind .waitSide fun _ => .ite (.bind .ownLine fun _ => .get_bind fun _ h => .bind (hrefuse _) fun _ => .set (.perfStore h)) (.bind
      (.keepLeaf .cacheWord) fun _ => .bind (hrefuse _) fun _ => .modify fun _ h => .issueStore h)
theorem Keeps.privateAtom {e va op ord rt rd} : Keeps (privateAtom e va op ord rt rd) := by
  unfold Machine.privateAtom
  extract_lets v
  refine .bind .gcNow fun g => .bind .translateSlot fun l => .bind (.heldBarrier .storeBarrier) fun b => ?_
  extract_lets lpa key finish rest
  have hfinish : ∀ old perf i ev, (∀ s, MemOk s → MemOk (perf s)) → Keeps (finish old perf i ev) := fun old perf i ev hperf =>
    .bind (.modify fun s h => .countEvent (.trainAtom (.ite (.cardAppend (.snapAppend (hperf s h))) (hperf s h)))) fun _ => .pure
  have hrest : ∀ u, Keeps (rest u) := by
    intro u
    unfold rest
    clear_value finish
    refine .bind .waitSide fun _ => .ite (.bind .regLoad fun old => ?_) (.bind .roomAppends fun _ => .get_bind fun s h => ?_)
    · split
      · exact .bind .chkM fun _ => .pure
      · exact .bind .regStore fun _ => .pure
    · split
      · split
        · exact .bind .chkM fun _ => .pure
        · exact hfinish _ _ _ _ fun _ h => h
      · refine .ite (.ite .needM .needM) (.bind .ownLine fun _ => .get_bind fun t ht => ?_)
        extract_lets old
        split
        · exact .bind .chkM fun _ => .pure
        · exact hfinish _ _ _ _ fun _ h => .ite h (.perfStore h)
  exact .ite (.bind .waitEarlier fun _ => hrest ⟨⟩) (hrest ⟨⟩)
theorem Keeps.globalAtom {e1 va op ord rt rd} : Keeps (globalAtom e1 va op ord rt rd) := by
  unfold Machine.globalAtom
  split
  · exact .pure
  · refine .bind .globalRelease fun _ => ?_
    refine .get_bind fun s h => ?_
    extract_lets t
    have ht : MemOkL t := .touch h
    refine .ite .needM ?_
    refine .ite .needM ?_
    split
    · exact .chkM
    · exact .needM
theorem Keeps.atom {e1 va op ord rt rd} : Keeps (atom e1 va op ord rt rd) := .bind .chkM fun _ => .ite .globalAtom .privateAtom
theorem Keeps.maintain {e1 kind va} : Keeps (maintain e1 kind va) :=
  .ite .pure (.bind .translate fun _ => .get_bind fun _ _ => .ite .pure (.ite .pure (.ite .needM .needM)))

/-! ### Microcoded loops -/

theorem MemOk.microLost {s x a} (h : MemOk s) : MemOk (microLost s x a) := .react (.declareCore h)

/-! ### Issue and completion -/

theorem MemOk.setPend {s x p} (h : MemOk s) : MemOk (setPend s x p) := by
  unfold Machine.setPend
  extract_lets out
  split
  · exact .modCtx h
  · exact .modFic h
theorem MemOk.setRepeated {s x r} (h : MemOk s) : MemOk (setRepeated s x r) := by
  unfold Machine.setRepeated
  split
  · exact .modCtx h
  · exact .modFic h
theorem MemOk.dropPage {s x va} (h : MemOk s) : MemOk (dropPage s x va) := .upd h rfl
theorem MemOk.raiseX {s x e1} (h : MemOk s) : MemOk (raiseX s x e1) := .raise (.setRepeated (.ite (.dropPage h) h))
theorem MemOk.takeLatch {s n} (h : MemOk s) : MemOk (takeLatch s n) := by
  unfold Machine.takeLatch
  extract_lets c _ s1
  have hs1 : MemOk s1 := .setCtx h
  split
  · exact .raiseX hs1
  · exact .setCtx h
theorem MemOk.takeFault {s n} (h : MemOk s) : MemOk (takeFault s n) := by
  unfold Machine.takeFault
  extract_lets c _
  split
  · exact .raiseX (.setCtx h)
  · exact .takeLatch h
theorem MemOk.commitX {s x} (h : MemOk s) : MemOk (commitX s x) := by
  unfold Machine.commitX
  extract_lets s1
  have hs1 : MemOk s1 := .countEvent h
  split
  · exact .modCtx hs1
  · exact .modFic hs1
theorem MemOk.retire {s x word rep go} (h : MemOk s) : MemOk (retire s x word rep go) := by
  unfold Machine.retire
  split
  · exact .setXpc (.commitX h)
  · exact .setXpc (.commitX h)
  · exact .setRepeated h
  · exact h
theorem MemOk.swapWait {s x wait} (h : MemOk s) : MemOk (swapWait s x wait) := by
  unfold Machine.swapWait
  split
  · exact h
  · exact .ite (.queueSwap (.countEvent (.modCtx h))) (.modCtx h)
theorem MemOk.swapEst {s x est} (h : MemOk s) : MemOk (swapEst s x est) := .ite (.swapWait h) h
theorem MemOk.beginMigration {s n va acc} (h : MemOk s) : MemOk (beginMigration s n va acc) := by
  unfold Machine.beginMigration
  split
  · exact h
  · exact .modCore (.modCtx (.upd (.vacate h)))
theorem MemOk.askHome {s x line p r} (h : MemOk s) : MemOk (askHome s x line p r) := .ite (.setPend h) (.setPend (.sendReq h))
theorem MemOk.refetchI {s core line} (h : MemOk s) : MemOk (refetchI s core line) := .post (.logFault (.modCore h))
theorem MemOkOR.sendAccess {s x va acc body} (h : MemOk s) : MemOkOR (sendAccess s x va acc body) := by
  refine .ite (.map fun b e => ?_) (.sendOp h)
  exact MemOk.takeOp h e
theorem MemOk.ownHome {s x k va body} (h : MemOk s) : MemOk (ownHome s x k va body) := by
  unfold Machine.ownHome
  extract_lets give
  have hgive : ∀ r, MemOkR r → MemOk (give r) := by
    intro r hr
    unfold give
    split
    · exact .giveWord hr
    · exact .opFault hr
  clear_value give
  split
  · split
    · next e => exact hgive (_, _) (MemOk.ofR (.homeLoad h) e)
    · next e => exact hgive (_, _) (MemOk.ofR (.homeLoad h) e)
  · exact hgive _ (.homeAtom h)
  · exact h
theorem MemOk.closeOwn {s x p} (h : MemOk s) : MemOk (closeOwn s x p) := by
  unfold Machine.closeOwn
  split
  · split
    · exact .ite (.ite (.giveAck (.closeOp h)) (.closeOp h)) h
    · exact h
  · exact h

/-- An access that waits leaves its request behind. -/
theorem MemOk.await {s x word rep fetch old n} (h : MemOk s) : MemOk (await s x word rep fetch old n) := by
  unfold Machine.await
  extract_lets core p wait _ _ _ _
  have hwait : ∀ a0 a1, MemOk a0 → MemOk (wait a0 a1) := by
    intro a0 a1 ha0
    unfold wait
    split
    · exact .swapWait (.setPend ha0)
    · exact ha0
  split
  · exact h
  · extract_lets why sent _
    have hsent : MemOkO sent := .ite (.missFetch h) (.ite (.missWrite h) (.missRead h))
    clear_value sent
    split
    · rename_i t e
      have he : MemOk e := .ofO hsent rfl
      exact .swapEst (.setPend he)
    · exact .setPend h
  · exact .swapEst (.setPend (.ite (.refetchI h) (.snd (.l1dHit h))))
  · exact .swapEst (.askHome h)
  · exact .swapEst (.askHome h)
  · exact .askHome h
  · extract_lets t
    have ht : MemOk t := .countEvent (.fst (.touch h))
    split
    · exact .swapEst (.setPend ht)
    · split
      · exact hwait _ _ h
      · rename_i t1 e
        have ht1 : MemOkR t1 := .ofOR (.sendAccess ht) e
        extract_lets s1 s2
        have hs1 : MemOk s1 := .ite (.moreStores (.snd ht1)) (.snd ht1)
        have hs2 : MemOk s2 := .setPend hs1
        exact .swapEst (.ite (.ownHome hs2) hs2)
  · exact .setPend (.upd h)
  · exact hwait _ _ h
  · exact hwait _ _ h
  · split
    · exact .swapWait (.setPend h)
    · exact h
  · exact .swapWait (.setPend h)
  · exact .swapWait (.setPend h)
  · split
    · exact .ite (.beginMigration (.fst (.touch h))) (.endWait h)
    · exact h
  · split
    · exact .takeLatch h
    · exact h
theorem MemOk.clearBus {s x} (h : MemOk s) : MemOk (clearBus s x) := by
  unfold Machine.clearBus
  split
  · exact .ite (.modCtx h) h
  · exact h
theorem MemOk.kept {s x t} (hs : MemOk s) : MemOk (kept s x t) := .ite (.upd hs) (.modCore (.upd hs))
theorem MemOk.keptHeals {s x t} (hs : MemOk s) : MemOk (keptHeals s x t) := .foldl (fun _ _ h => .countEvent h) (.modCore hs)
theorem MemOk.settle {s x word rep r} (h : MemOk s) (hr : MemOkR r) : MemOk (settle s x word rep r) := by
  unfold Machine.settle
  split
  · exact .retire hr
  · exact .raiseX (.kept h)
  · exact .keptHeals h
  · exact .await h
theorem MemOk.bankRead {s x} (h : MemOk s) : MemOk (bankRead s x) := .ite (.arrayAccess h) h

/-- The body runs from the state in which the instruction issues; a stop of any kind keeps the state or enters an exception. -/
theorem MemOk.issue {x op body s} (hbody : ∀ e, Keeps (body e)) (h : MemOk s) : MemOk (issue x op body s) := by
  unfold Machine.issue
  extract_lets t
  have ht : MemOk t := .bankRead h
  refine .ite ht (.ite ?_ ?_)
  · split
    · exact .takeFault ht
    · exact ht
  · split
    · exact .raiseX (.clearBus ht)
    · exact ht
    · split
      · exact .microLost ht
      · exact .settle ht (hbody _ t ht)

/-! ### Generic arithmetic -/

theorem Keeps.tableWord {e1 off} : Keeps (tableWord e1 off) := by
  unfold Machine.tableWord
  refine .get_bind fun s h => ?_
  split
  · exact .pure
  · exact .bind (.act (fun _ h1 => .tableReader h1)) fun _ => .pure
theorem Keeps.classOf {e1 w} : Keeps (classOf e1 w) := .ite .pure (.ite .pure (.bind .tableWord fun _ => .pure))
theorem Keeps.operandClass {e1 k w} : Keeps (operandClass e1 k w) := .bind .chkM fun _ => .bind .classOf fun _ => .ite .chkM .pure
theorem Keeps.dispatch {e1 off cause info} : Keeps (dispatch e1 off cause info) := .bind (.bind .tableWord fun _ => .pure) fun _ => .chkM
theorem Keeps.raiseFlags {e1 op f} : Keeps (raiseFlags e1 op f) := .get_bind fun _ h => .ite .chkM (.set (.setXfpsr h))
theorem Keeps.generic {op rd rs rt imm e} : Keeps (generic op rd rs rt imm e) := by
  unfold Machine.generic
  refine .get_bind fun s h => ?_
  extract_lets a b
  refine .bind .operandClass fun ca => ?_
  extract_lets x
  have hx : ∀ a0, Keeps (x a0) := by
    intro a0
    unfold x
    refine .ite ?_ ?_
    · refine .ite ?_ (.get_bind fun _ h => .bind .raiseFlags fun _ => .bind (.modify fun _ h => .setXreg h) fun _ => .pure)
      split
      · exact .bind (.modify fun _ h => .setXreg h) fun _ => .pure
      · exact .dispatch
    · split
      exact .dispatch
  split
  · exact .bind .operandClass fun _ => hx _
  · exact .bind .pure fun _ => hx _

/-! ### Floating point -/

theorem Keeps.needBank {e1} : Keeps (needBank e1) := .get_bind fun _ _ => .ite .chkM (.ite .needM .pure)
theorem MemOk.fpPut {s core bank r v} (h : MemOk s) : MemOk (fpPut s core bank r v) := .modCore h
theorem Keeps.fpOp {fd srcs f e} : Keeps (fpOp fd srcs f e) :=
  .bind .needBank fun _ => .get_bind fun _ _ => .bind .raiseFlags fun _ => .bind (.modify fun _ h => .fpPut h) fun _ => .pure
theorem Keeps.fpBin {f fd fs ft e} : Keeps (fpBin f fd fs ft e) := .fpOp
theorem Keeps.fpMove {f fd fs e} : Keeps (fpMove f fd fs e) := .fpOp
theorem Keeps.fpRel {k rd fs ft e} : Keeps (fpRel k rd fs ft e) :=
  .bind .needBank fun _ => .get_bind fun _ _ => .bind .raiseFlags fun _ => .bind (.modify fun _ h => .setXreg h) fun _ => .pure
theorem Keeps.fsqrtBody {fd fs e} : Keeps (fsqrtBody fd fs e) := .fpOp
theorem Keeps.fmaBody {fd fs ft e} : Keeps (fmaBody fd fs ft e) := .fpOp
theorem Keeps.fmvgfBody {fd rs e} : Keeps (fmvgfBody fd rs e) :=
  .bind .needBank fun _ => .get_bind fun _ h => .bind .chkM fun _ => .bind (.set (.fpPut h)) fun _ => .pure
theorem Keeps.fmvfgBody {rd fs e} : Keeps (fmvfgBody rd fs e) :=
  .bind .needBank fun _ => .get_bind fun _ h => .bind (.set (.setXreg h)) fun _ => .pure
theorem Keeps.fcvtxfBody {fd rs e} : Keeps (fcvtxfBody fd rs e) :=
  .bind .needBank fun _ => .get_bind fun _ _ => .bind .chkM fun _ => .bind .raiseFlags fun _ => .bind (.modify fun _ h => .fpPut h)
      fun _ => .pure
theorem Keeps.fcvtfxBody {rd fs e} : Keeps (fcvtfxBody rd fs e) :=
  .bind .needBank fun _ => .get_bind fun _ _ => .bind .raiseFlags fun _ => .bind (.modify fun _ h => .setXreg h) fun _ => .pure

/-! ### Loads, stores and atomics -/

theorem Keeps.putRd {e1 rd w} : Keeps (putRd e1 rd w) := .bind (.modify fun _ h => .setXreg h) fun _ => .pure
theorem Keeps.effective {e1 rs off} : Keeps (effective e1 rs off) := .get_bind fun _ _ => .bind .chkM fun _ => .pure
theorem Keeps.indexed {e1 rs rt} : Keeps (indexed e1 rs rt) := .get_bind fun _ _ => .bind .chkM fun _ => .bind .chkM fun _ => .pure
theorem Keeps.through {e1 rs va size acc} : Keeps (through e1 rs va size acc) := .get_bind fun _ _ => .chkM
theorem Keeps.loadTo {addr rd rs acq e} (haddr : ∀ a0, Keeps (addr a0)) : Keeps (loadTo addr rd rs acq e) :=
  .bind (haddr _) fun _ => .bind .through fun _ => .bind .loadWord fun _ => .putRd
theorem Keeps.storeFrom {addr rd rs release e} (haddr : ∀ a0, Keeps (addr a0)) : Keeps (storeFrom addr rd rs release e) :=
  .bind (haddr _) fun _ => .bind .through fun _ => .get_bind fun _ _ => .bind .storeWord fun _ => .pure
theorem Keeps.loadPart {size rd rs imm e} : Keeps (loadPart size rd rs imm e) :=
  .bind .effective fun _ => .bind .through fun _ => .bind .loadBytes fun _ => .putRd
theorem Keeps.storePart {size rd rs imm e} : Keeps (storePart size rd rs imm e) :=
  .bind .effective fun _ => .get_bind fun _ _ => .bind .chkM fun _ => .bind .through fun _ => .bind .storeBytes fun _ => .pure
theorem Keeps.ldwBody {rd rs imm e} : Keeps (ldwBody rd rs imm e) := .loadTo (fun _ => .effective)
theorem Keeps.ldwABody {rd rs imm e} : Keeps (ldwABody rd rs imm e) := .loadTo (fun _ => .effective)
theorem Keeps.ldwPBody {rd rs imm e} : Keeps (ldwPBody rd rs imm e) :=
  .get_bind fun _ _ => .bind .chkM fun _ => .bind .effective fun _ => .bind .through fun _ => .bind .loadPlain fun _ => .putRd
theorem Keeps.stwBody {rd rs imm e} : Keeps (stwBody rd rs imm e) := .storeFrom (fun _ => .effective)
theorem Keeps.stwRBody {rd rs imm e} : Keeps (stwRBody rd rs imm e) := .storeFrom (fun _ => .effective)
theorem Keeps.ldpcBody {rd off e} : Keeps (ldpcBody rd off e) := .get_bind fun _ _ => .bind .loadWord fun _ => .putRd
theorem Keeps.ldxBody {rd rs rt e} : Keeps (ldxBody rd rs rt e) := .loadTo (fun _ => .indexed)
theorem Keeps.ldxABody {rd rs rt e} : Keeps (ldxABody rd rs rt e) := .loadTo (fun _ => .indexed)
theorem Keeps.stxBody {rd rs rt e} : Keeps (stxBody rd rs rt e) := .storeFrom (fun _ => .indexed)
theorem Keeps.stxRBody {rd rs rt e} : Keeps (stxRBody rd rs rt e) := .storeFrom (fun _ => .indexed)
theorem Keeps.atomicBody {op ord rd rs rt e} : Keeps (atomicBody op ord rd rs rt e) :=
  .bind .effective fun _ => .get_bind fun _ _ => .bind .chkM fun _ => .bind .atom fun _ => .putRd
theorem Keeps.carBody_ {off rd rs e} : Keeps (carBody_ off rd rs e) :=
  .get_bind fun _ _ => .bind .chkM fun _ => .ite .putRd (.bind .loadWord fun _ => .putRd)
theorem Keeps.rplacBody_ {off rs rt e} : Keeps (rplacBody_ off rs rt e) :=
  .get_bind fun _ _ => .bind .chkM fun _ => .bind .storeWord fun _ => .pure
theorem Keeps.allocPages {e l} : Keeps (allocPages e l) := by
  induction l with
  | nil => exact .pure
  | cons va r ih => exact .bind .translate fun _ => .bind ih fun _ => .pure
theorem Keeps.allocWrite {e pages l} : Keeps (allocWrite e pages l) := by
  induction l with
  | nil => exact .pure
  | cons a r ih =>
    obtain ⟨va, w⟩ := a
    rw [Machine.allocWrite]
    split
    · exact ih
    · exact .ite (.bind .regStore fun _ => ih) (.bind (.modify fun _ h => .issueStore h) fun _ => ih)
theorem MemOk.setAllocPtr {s x v} (h : MemOk s) : MemOk (setAllocPtr s x v) := by
  unfold Machine.setAllocPtr
  split
  · exact .modCtx h
  · exact h
theorem Keeps.allocate {e1 code n body} : Keeps (allocate e1 code n body) :=
  .get_bind fun _ _ => .bind .chkM fun _ => .bind .allocPages fun _ => .get_bind fun _ _ => .bind .chkM fun _ => .bind .waitSide
      fun _ => .ite (.bind .needM fun _ => .bind .allocWrite fun _ => .bind (.modify fun _ h => .setAllocPtr h) fun _ => .get_bind
      fun _ _ => .pure) (.bind .allocWrite fun _ => .bind (.modify fun _ h => .setAllocPtr h) fun _ => .get_bind fun _ _ => .pure)
theorem Keeps.allocBody {rd rs imm e} : Keeps (allocBody rd rs imm e) :=
  .get_bind fun _ _ => .bind .chkM fun _ => .bind .allocate fun _ => .putRd
theorem Keeps.consBody {rd rs rt e} : Keeps (consBody rd rs rt e) := .get_bind fun _ _ => .bind .allocate fun _ => .putRd

/-! ### Long instructions -/

theorem Keeps.loadChecked {e1 va ok extra} : Keeps (loadChecked e1 va ok extra) := by
  unfold Machine.loadChecked
  refine .bind .rawLoad fun x => ?_
  split
  exact .get_bind fun _ h => .ite .chkM (.bind .chkM fun _ => .bind .chkM fun _ => .loadBarrier)
theorem Keeps.stepOn {e1 r w} : Keeps (stepOn e1 r w) := .bind (.modify fun _ h => .setXcnt (.setXreg h)) fun _ => .pure
theorem Keeps.listStep {e1 rd rs rt step} (hstep : ∀ a0 a1, Keeps (step a0 a1)) : Keeps (listStep e1 rd rs rt step) :=
  .get_bind fun _ _ => .ite .pure (.bind .chkM fun _ => .bind .chkM fun _ => .ite .putRd (.ite .chkM (hstep _ _)))
theorem Keeps.listNext {e1 rt pos} : Keeps (listNext e1 rt pos) := .bind .loadWord fun _ => .stepOn
theorem Keeps.memqBody {rd rs rt e} : Keeps (memqBody rd rs rt e) :=
  .listStep (fun _ _ => .bind .loadChecked fun _ => .ite .putRd .listNext)
theorem Keeps.assqBody {rd rs rt e} : Keeps (assqBody rd rs rt e) :=
  .listStep (fun _ _ => .bind .loadChecked fun _ => .bind .loadChecked fun _ => .ite .putRd .listNext)
theorem Keeps.walkBody {rd rs rt e} : Keeps (walkBody rd rs rt e) :=
  .get_bind fun _ _ => .bind .chkM fun _ => .bind .chkM fun _ => .ite .pure (.bind .chkM fun _ => .bind .loadChecked
      fun _ => .ite .stepOn .putRd)
theorem Keeps.probeBody {rd rs rt e} : Keeps (probeBody rd rs rt e) := by
  unfold Machine.probeBody
  refine .get_bind fun s h => ?_
  extract_lets tab key idx x
  have hx : ∀ a0, Keeps (x a0) := by
    intro a0
    unfold x
    refine .bind .chkM fun _ => ?_
    refine .ite .pure ?_
    refine .bind .loadChecked fun h1 => ?_
    split
    · exact .chkM
    · exact .bind .loadChecked fun _ => .ite .putRd (.ite .putRd .stepOn)
  exact .bind .chkM fun _ => .ite (.bind .chkM fun _ => hx ⟨⟩) (hx ⟨⟩)
theorem Keeps.advanceReg {e1 r by_} : Keeps (advanceReg e1 r by_) := .modify fun _ h => .setXreg h
theorem Keeps.copyChecks {e1 src dst} : Keeps (copyChecks e1 src dst) := by
  unfold Machine.copyChecks
  refine .get_bind fun s h => ?_
  refine .bind .gcNow fun g => ?_
  extract_lets x
  have hx : ∀ a0, Keeps (x a0) := by
    intro a0
    unfold x
    extract_lets x1
    have hx1 : ∀ a0, Keeps (x1 a0) := by
      intro a0
      unfold x1
      extract_lets x2
      have hx2 : ∀ a0, Keeps (x2 a0) := by
        intro a0
        unfold x2
        split
        · exact .pure
        · exact .bind .storeBarrier fun _ => .pure
      exact .ite (hx2 ⟨⟩) (.bind .chkM fun _ => hx2 ⟨⟩)
    exact .ite (.bind .pure fun _ => hx1 _) (.bind .translateSlot fun _ => .bind .pure fun _ => hx1 _)
  exact .ite (.bind .pure fun _ => hx _) (.bind .translate fun _ => .bind .pure fun _ => hx _)
theorem Keeps.copyStep {rd rs e1} : Keeps (copyStep rd rs e1) :=
  .get_bind fun _ _ => .bind .chkM fun _ => .bind .chkM fun _ => .bind .chkM fun _ => .bind .chkM fun _ => .bind .copyChecks
      fun _ => .bind .loadWord fun _ => .bind .storeWord fun _ => .bind .advanceReg fun _ => .advanceReg
theorem Keeps.fillStep {rd rs e1} : Keeps (fillStep rd rs e1) :=
  .get_bind fun _ _ => .bind .chkM fun _ => .bind .storeWord fun _ => .advanceReg
theorem Keeps.maintStep {kind rs e1} : Keeps (maintStep kind rs e1) :=
  .get_bind fun _ _ => .ite (.bind .chkM fun _ => .bind .chkM fun _ => .bind .maintain fun _ => .advanceReg) (.bind .chkM
      fun _ => .bind .maintain fun _ => .advanceReg)
theorem Keeps.oneStep {f e} (hf : ∀ a0, Keeps (f a0)) : Keeps (oneStep f e) := .bind (hf _) fun _ => .pure
theorem Keeps.copywBody {rd rs e} : Keeps (copywBody rd rs e) := .oneStep (fun _ => .copyStep)
theorem Keeps.fillwBody {rd rs e} : Keeps (fillwBody rd rs e) := .oneStep (fun _ => .fillStep)
theorem Keeps.cleanLBody {rs e} : Keeps (cleanLBody rs e) := .oneStep (fun _ => .maintStep)
theorem Keeps.flushLBody {rs e} : Keeps (flushLBody rs e) := .oneStep (fun _ => .maintStep)
theorem Keeps.invalLBody {rs e} : Keeps (invalLBody rs e) := .oneStep (fun _ => .maintStep)
theorem Keeps.stepOf {op f e} (h : stepOf op = some f) : Keeps (f e) := by
  unfold Machine.stepOf at h
  split at h <;> cases h
  · exact .copyStep
  · exact .fillStep
  all_goals exact .maintStep
theorem Keeps.repTarget {x word f e} (h : repTarget x word = .ok f) : Keeps (f e) := by
  unfold Machine.repTarget at h
  split at h
  · cases h
  · split at h
    · cases h
    · split at h
      · next hf => cases h; exact .stepOf hf
      · cases h
theorem Keeps.repBody {word e} : Keeps (repBody word e) :=
  .chkM_bind fun _ hf => .get_bind fun _ _ => .ite .pure (.bind (.repTarget hf) fun _ => .bind (.modify fun _ h => .setXcnt h) fun _ =>
    .get_bind fun _ _ => .pure)
theorem MemOk.issueRep {x word s} (h : MemOk s) : MemOk (issueRep x word s) := by
  unfold Machine.issueRep
  extract_lets t
  have ht : MemOk t := .bankRead h
  refine .ite ht (.ite ?_ ?_)
  · split
    · exact .takeFault ht
    · exact ht
  · split
    · exact .raiseX (.clearBus ht)
    · exact ht
    · split
      · exact .microLost ht
      · exact .settle ht (Keeps.repBody t ht)
theorem Keeps.longBody {op b e} (h : longBody op = some b) : Keeps (b e) := by
  unfold Machine.longBody at h
  split at h <;> cases h
  · exact .memqBody
  · exact .assqBody
  · exact .walkBody
  · exact .probeBody
theorem MemOk.nextStep {x s} (h : MemOk s) : MemOk (nextStep x s) := by
  unfold Machine.nextStep
  split
  · exact h
  · exact .issueRep h
  · split
    · exact h
    · split
      · next e => exact .issue (fun _ => .longBody e) h
      · exact h

/-! ### Branches and windows -/

theorem MemOk.shiftHist {s core slot taken} (h : MemOk s) : MemOk (shiftHist s core slot taken) := .modCore h
theorem MemOk.wrongLoad {s x va} (h : MemOk s) : MemOk (wrongLoad s x va) := by
  unfold Machine.wrongLoad
  extract_lets core t e
  split
  · exact h
  · extract_lets line
    split
    · refine .ite h ?_
      split
      · exact h
      · rename_i t1 e1
        have ht1 : MemOk t1 := .ofO (.makeRoom h) e1
        exact .post (.modCore ht1)
    · exact h
theorem MemOk.wrongPath {s x slot} (h : MemOk s) : MemOk (wrongPath s x slot) := by
  unfold Machine.wrongPath
  extract_lets core s1
  have hs1 : MemOk s1 := .foldl (fun _ _ h => .shiftHist h) h
  exact .ite hs1 (.foldl (fun _ _ h => .wrongLoad h) hs1)
theorem MemOk.trainBranch {s x taken} (h : MemOk s) : MemOk (trainBranch s x taken) := by
  unfold Machine.trainBranch
  extract_lets core s1
  have hs1 : MemOk s1 := .countEvent h
  split
  · exact .countEvent h
  · extract_lets i v right s2 s3
    have hs2 : MemOk s2 := .ite hs1 (.countEvent hs1)
    have hs3 : MemOk s3 := .shiftHist (.modCore hs2)
    exact .ite hs3 (.wrongPath hs3)
theorem MemOk.useBtb {s x target} (h : MemOk s) : MemOk (useBtb s x target) := by
  unfold Machine.useBtb
  split
  · exact h
  · exact .ite h (.modCore (.ite h (.countEvent h)))
theorem Keeps.jumpTo {e1 t} : Keeps (jumpTo e1 t) := .bind (.modify fun _ h => .useBtb h) fun _ => .pure
theorem Keeps.condition {e1 c} : Keeps (condition e1 c) := by
  unfold Machine.condition
  intro s h
  beta_reduce
  split
  · exact .mk h
  · refine .mk ?_
    split
    · exact .shiftHist h
    · exact h
theorem Keeps.branch {n : Nat} {off : BitVec n} {cond e} : Keeps (branch off cond e) :=
  .get_bind fun _ _ => .bind .condition fun _ => .bind (.modify fun _ h => .trainBranch h) fun _ => .ite .jumpTo .pure
theorem Keeps.linkNext {e1} : Keeps (linkNext e1) := .modify fun _ h => .setXlk h
theorem Keeps.jBody {off e} : Keeps (jBody off e) := .get_bind fun _ _ => .jumpTo
theorem Keeps.jlBody {off e} : Keeps (jlBody off e) := .get_bind fun _ _ => .bind .linkNext fun _ => .jumpTo
theorem Keeps.jrBody {rs imm e} : Keeps (jrBody rs imm e) := .get_bind fun _ _ => .bind .chkM fun _ => .jumpTo
theorem Keeps.jlrBody {rs imm e} : Keeps (jlrBody rs imm e) := .get_bind fun _ _ => .bind .chkM fun _ => .bind .linkNext fun _ => .pure
theorem Keeps.retlBody {e} : Keeps (retlBody e) := .get_bind fun _ _ => .pure
theorem Keeps.modRec {e1 f} : Keeps (modRec e1 f) := by
  unfold Machine.modRec
  split
  · exact .modify fun _ h => .modCtx h
  · exact .pure
theorem Keeps.callwBody {off e} : Keeps (callwBody off e) := .get_bind fun _ _ => .bind .chkM fun _ => .bind .modRec fun _ => .jumpTo
theorem Keeps.callwrBody {rs imm e} : Keeps (callwrBody rs imm e) :=
  .get_bind fun _ _ => .bind .chkM fun _ => .bind .chkM fun _ => .bind .chkM fun _ => .bind .modRec fun _ => .pure
theorem Keeps.retwBody {e} : Keeps (retwBody e) := .get_bind fun _ _ => .bind .chkM fun _ => .bind .modRec fun _ => .jumpTo

/-! ### System instructions -/

theorem Keeps.commitM {e1} : Keeps (commitM e1) := .modify fun _ h => .commitX h
theorem Keeps.brkBody {e} : Keeps (brkBody e) := .get_bind fun _ _ => .chkM
theorem Keeps.retxBody {e} : Keeps (retxBody e) := by
  unfold Machine.retxBody
  refine .get_bind fun s h => ?_
  refine .bind .chkM fun _ => ?_
  split
  · exact .bind .commitM fun _ => .bind (.modify fun _ h => .modFic h) fun _ => .pure
  · split
    · exact .chkM
    · exact .bind .commitM fun _ => .bind (.modify fun _ h => .setCtx h) fun _ => .pure
theorem Keeps.wcallBody {rs e} : Keeps (wcallBody rs e) := by
  unfold Machine.wcallBody
  refine .get_bind fun s h => ?_
  extract_lets a num
  refine .bind .chkM fun _ => ?_
  split
  · exact .chkM
  · extract_lets r
    split
    · exact .chkM
    · exact .bind .commitM fun _ => .bind (.modify fun _ h => .modCtx h) fun _ => .pure
theorem Keeps.yieldBody {e} : Keeps (yieldBody e) := by
  unfold Machine.yieldBody
  refine .bind .commitM fun _ => ?_
  refine .bind ?_ fun _ => .pure
  refine .modify fun s h => ?_
  extract_lets s1
  have hs1 : MemOk s1 := .setXpc h
  split
  · exact .queueSwap hs1
  · exact hs1
theorem Keeps.fenceBody {e} : Keeps (fenceBody e) := .bind .waitEarlier fun _ => .get_bind fun _ _ => .ite .needM .pure
theorem Keeps.syncGBody {e} : Keeps (syncGBody e) := .get_bind fun _ _ => .ite (.ite .needM (.ite .needM .needM)) (.ite .needM .pure)
theorem Keeps.syncVBody {e} : Keeps (syncVBody e) := .get_bind fun _ _ => .ite .pure (.ite .needM .needM)
theorem Keeps.syncTBody {e} : Keeps (syncTBody e) := .get_bind fun _ _ => .bind .chkM fun _ => .ite (.ite .needM .needM) .pure
theorem Keeps.setpkrBody {rs e} : Keeps (setpkrBody rs e) := by
  unfold Machine.setpkrBody
  refine .get_bind fun s h => ?_
  extract_lets a
  refine .bind .chkM fun _ => ?_
  split
  · exact .pure
  · exact .ite .chkM (.bind .modRec fun _ => .pure)

/-! ### Special registers -/

theorem MemOkR.readVictim {s n} (h : MemOk s) : MemOkR (readVictim s n) := by
  unfold Machine.readVictim
  extract_lets b
  refine .mk ?_
  clear_value b
  split
  · exact .modCore h
  · exact h
theorem MemOk.bindBank {s n b} (h : MemOk s) : MemOk (bindBank s n b) := by
  unfold Machine.bindBank
  extract_lets core c s1 old s2 s3 _
  have hs1 : MemOk s1 := by
    unfold s1
    split
    · exact .modCtx h
    · exact h
  have hs2 : MemOk s2 := by
    unfold s2
    clear_value old
    split
    · exact .modCore hs1
    · exact hs1
  have hs3 : MemOk s3 := .modCtx hs2
  exact .upd (.modCore hs3)
theorem MemOk.writeBind {s n v} (h : MemOk s) : MemOk (writeBind s n v) := .ite (.releaseBanks h) (.ite (.bindBank h) h)
theorem MemOkR.sprRead {s x sel} (h : MemOk s) : MemOkR (sprRead s x sel) := by
  unfold Machine.sprRead
  split
  · exact .mk h
  · split
    · exact .mk h
    · exact .ite (.readVictim h) (.mk h)
theorem MemOk.sprWrite {s x sel v} (h : MemOk s) : MemOk (sprWrite s x sel v) := by
  unfold Machine.sprWrite
  refine .ite (.modCore h) ?_
  refine .ite (.modCore h) ?_
  refine .ite (.modCore h) ?_
  split
  · split
    · exact .setXlk h
    · exact .setXcnt h
    · exact .setXfpsr h
    · exact h
  · exact .ite (.writeBind h) (.modCtx h)
theorem Keeps.mfsBody {rd sel e} : Keeps (mfsBody rd sel e) :=
  .get_bind fun _ h => .ite .chkM (.bind (.set (.snd (.sprRead h))) fun _ => .putRd)
theorem Keeps.mtsBody {rs sel e} : Keeps (mtsBody rs sel e) :=
  .get_bind fun _ h => .ite .chkM (.bind .chkM fun _ => .bind (.set (.sprWrite h)) fun _ => .pure)
theorem Keeps.rdwBody {rd n e} : Keeps (rdwBody rd n e) := by
  unfold Machine.rdwBody
  refine .get_bind fun s h => ?_
  refine .bind .chkM fun _ => ?_
  split <;> exact .putRd
theorem Keeps.wrwBody {rs n e} : Keeps (wrwBody rs n e) := by
  unfold Machine.wrwBody
  refine .get_bind fun s h => ?_
  refine .bind .chkM fun _ => ?_
  split
  · exact .bind (.modify fun _ h => .modCtx h) fun _ => .pure
  · exact .pure
theorem Keeps.fbrdBody {rd rs e} : Keeps (fbrdBody rd rs e) :=
  .get_bind fun _ _ => .bind .chkM fun _ => .bind .chkM fun _ => .bind .chkM fun _ => .putRd
theorem Keeps.fbwrBody {rs rt e} : Keeps (fbwrBody rs rt e) :=
  .get_bind fun _ h => .bind .chkM fun _ => .bind .chkM fun _ => .bind .chkM fun _ => .bind .chkM fun _ => .bind (.set (.fpPut h))
      fun _ => .pure

/-! ### Context instructions -/

theorem Keeps.onTarget {rs kill ok f e} (hf : ∀ a0 a1, Keeps (f a0 a1)) : Keeps (onTarget rs kill ok f e) :=
  .get_bind fun _ _ => .bind .chkM fun _ => .bind .chkM fun _ => hf _ _
theorem Keeps.ctxholdBody {rs e} : Keeps (ctxholdBody rs e) :=
  .onTarget (fun _ _ => .get_bind fun _ h => .ite (.bind (.set (.holdCtx h)) fun _ => .pure) .needM)
theorem Keeps.ctxrelBody {rs e} : Keeps (ctxrelBody rs e) := .onTarget (fun _ _ => .bind (.modify fun _ h => .releaseCtx h) fun _ => .pure)
theorem Keeps.ctxkillBody {rs e} : Keeps (ctxkillBody rs e) :=
  .onTarget (fun _ _ => .get_bind fun _ h => .ite .needM (.bind (.set (.killCtx h)) fun _ => .pure))
theorem Keeps.ctxendBody {e} : Keeps (ctxendBody e) := by
  unfold Machine.ctxendBody
  refine .get_bind fun s h => ?_
  refine .bind .chkM fun _ => ?_
  split
  · exact .pure
  · exact .ite .chkM (.ite .needM (.bind .commitM fun _ => .bind (.modify fun _ h => .killCtx h) fun _ => .pure))
theorem Keeps.spawnBody {rd rs rt e} : Keeps (spawnBody rd rs rt e) := by
  unfold Machine.spawnBody
  refine .get_bind fun s h => .bind .chkM fun _ => .bind .chkM fun _ => .bind .chkM fun _ => .ite (.bind .chkM fun _ => ?_) ?_
  all_goals
    split
    · exact .pure
    · extract_lets core free
      clear_value free
      split
      · exact .putRd
      · exact .bind (.modify fun _ h => .setCtx h) fun _ => .putRd
theorem MemOk.beginWait {s n wait rd deadline st} (h : MemOk s) : MemOk (beginWait s n wait rd deadline st) := by
  unfold Machine.beginWait
  extract_lets s1 s2
  have hs1 : MemOk s1 := .commitX h
  have hs2 : MemOk s2 := .modCtx hs1
  exact .ite (.queueSwap (.ite (.countEvent hs2) hs2)) hs2
theorem Keeps.waitBody {rd rs rt e} : Keeps (waitBody rd rs rt e) := by
  unfold Machine.waitBody
  refine .get_bind fun s h => ?_
  extract_lets a d mask
  refine .bind .chkM fun _ => ?_
  refine .bind .chkM fun _ => ?_
  split
  · exact .pure
  · exact .ite (.bind (.modify fun _ h => .modCtx h) fun _ => .putRd) (.bind (.modify fun _ h => .beginWait (.modCtx h)) fun _ => .pure)
theorem Keeps.waitMBody {rd rs rt e} : Keeps (waitMBody rd rs rt e) := by
  unfold Machine.waitMBody
  refine .bind .effective fun va => ?_
  refine .bind .chkM fun _ => ?_
  refine .ite .putRd ?_
  refine .bind .translate fun l => ?_
  refine .get_bind fun s h => ?_
  refine .bind .chkM fun _ => ?_
  refine .ite .putRd ?_
  refine .bind .cacheWord fun w => ?_
  refine .get_bind fun s1 h1 => ?_
  extract_lets want
  refine .ite .putRd ?_
  split
  · exact .pure
  · exact .ite .putRd (.bind (.modify fun _ h => .beginWait (.modCtx h)) fun _ => .pure)
theorem Keeps.ctxrdBody {rd rs sel e} : Keeps (ctxrdBody rd rs sel e) := .onTarget (fun _ _ => .get_bind fun _ _ => .putRd)
theorem Keeps.ctxwrBody {rd rs sel e} : Keeps (ctxwrBody rd rs sel e) :=
  .onTarget (fun _ _ => .bind (.modify fun _ h => .modCtx h) fun _ => .pure)

/-! ### TLB invalidation -/

theorem MemOk.waitOver {s n} (h : MemOk s) : MemOk (waitOver s n) := .endWait (.setXpc (.commitX (.setPend h)))
theorem MemOk.tlbiBegin {s x k} (h : MemOk s) : MemOk (tlbiBegin s x k) := .upd h rfl
theorem Keeps.tlbiVaBody {rs e} : Keeps (tlbiVaBody rs e) :=
  .get_bind fun _ h => .bind .chkM fun _ => .bind .chkM fun _ => .ite (.ite (.bind (.set (.tlbiBegin h)) fun _ => .pure) .pure) (.bind
      (.set (.tlbiBegin h)) fun _ => .pure)
theorem Keeps.tlbiSpBody {rs e} : Keeps (tlbiSpBody rs e) :=
  .get_bind fun _ h => .bind .chkM fun _ => .bind .chkM fun _ => .bind (.set (.tlbiBegin h)) fun _ => .pure
theorem Keeps.tlbiWBody {e} : Keeps (tlbiWBody e) := .get_bind fun _ h => .bind .chkM fun _ => .bind (.set (.tlbiBegin h)) fun _ => .pure
theorem MemOkL.tellInv {s t l k} (h : MemOk s) : MemOkL (tellInv s t l k) := by
  induction l generalizing s k with
  | nil => exact h
  | cons a r ih => exact ih (.sendMsg h)
theorem MemOk.dropEntries {s t agent} (h : MemOk s) : MemOk (dropEntries s t agent) := .upd h rfl
theorem MemOk.tlbiEffect {s id agent} (h : MemOk s) : MemOk (tlbiEffect s id agent) := by
  unfold Machine.tlbiEffect
  split
  · exact h
  · refine .ite h ?_
    extract_lets s1 s2 r _
    have hs1 : MemOk s1 := .dropEntries h
    have hs2 : MemOk s2 := .ite (.wakePends hs1) hs1
    have hr : MemOkL r := .ite (.tellInv hs2) (.mk hs2)
    exact .upd (.fst hr)
theorem MemOk.tlbiDone {s id} (h : MemOk s) : MemOk (tlbiDone s id) := by
  unfold Machine.tlbiDone
  split
  · exact h
  · refine .ite h ?_
    extract_lets tracked s1 _ s2
    have hs1 : MemOk s1 := .foldl (fun _ _ h => .ite h (.dropEntries h)) h
    have hs2 : MemOk s2 := .upd hs1
    split
    · exact hs2
    · exact .ite (.waitOver hs2) hs2

/-! ### Completion, fetching and the bodies of instructions -/

/-- The body of every instruction. -/
theorem Keeps.bodyOf {op e} : Keeps (bodyOf op e) := by
  cases op with dsimp only [Machine.bodyOf]
  | iadd | isub | imul | and | or | xor | andn | shl | shr | sar | ult | eq | ne | mov | tagof | movi | moviR | ldc | eqi | lti | lei
    | gti | tagis | kindis | settag | shli | shri | sari | andi =>
    exact .toReg
  | add | sub | mul | div | rem | neg | numeq | lt | le | addi => exact .generic
  | fadd | fsub | fmul | fdiv | fmin | fmax => exact .fpBin
  | fsqrt => exact .fsqrtBody
  | fma => exact .fmaBody
  | fneg | fabs | fmov => exact .fpMove
  | fceq | fclt | fcle => exact .fpRel
  | fmvgf => exact .fmvgfBody
  | fmvfg => exact .fmvfgBody
  | fcvtxf => exact .fcvtxfBody
  | fcvtfx => exact .fcvtfxBody
  | ldw => exact .ldwBody
  | ldwA => exact .ldwABody
  | ldwP => exact .ldwPBody
  | stw => exact .stwBody
  | stwR => exact .stwRBody
  | ldb | ldh => exact .loadPart
  | stb | sth => exact .storePart
  | ldx => exact .ldxBody
  | stx => exact .stxBody
  | ldxA => exact .ldxABody
  | stxR => exact .stxRBody
  | car | cdr => exact .carBody_
  | rplaca | rplacd => exact .rplacBody_
  | cons => exact .consBody
  | memq => exact .memqBody
  | assq => exact .assqBody
  | walk => exact .walkBody
  | probe => exact .probeBody
  | alloc => exact .allocBody
  | copyw => exact .copywBody
  | fillw => exact .fillwBody
  | jr => exact .jrBody
  | jlr => exact .jlrBody
  | callwr => exact .callwrBody
  | retl => exact .retlBody
  | syscall => exact .chkM
  | wcall => exact .wcallBody
  | retx => exact .retxBody
  | brk => exact .brkBody
  | yield => exact .yieldBody
  | fence => exact .fenceBody
  | syncG => exact .syncGBody
  | syncV => exact .syncVBody
  | syncT => exact .syncTBody
  | mfs => exact .mfsBody
  | mts => exact .mtsBody
  | rdw => exact .rdwBody
  | wrw => exact .wrwBody
  | fbrd => exact .fbrdBody
  | fbwr => exact .fbwrBody
  | spawn => exact .spawnBody
  | ctxhold => exact .ctxholdBody
  | ctxrel => exact .ctxrelBody
  | ctxkill => exact .ctxkillBody
  | ctxend => exact .ctxendBody
  | wait => exact .waitBody
  | waitM => exact .waitMBody
  | ctxrd => exact .ctxrdBody
  | ctxwr => exact .ctxwrBody
  | cleanL => exact .cleanLBody
  | flushL => exact .flushLBody
  | invalL => exact .invalLBody
  | tlbiVa => exact .tlbiVaBody
  | tlbiSp => exact .tlbiSpBody
  | tlbiW => exact .tlbiWBody
  | setpkr => exact .setpkrBody
  | atomic => exact .atomicBody
  | ldpc => exact .ldpcBody
  | bz | bnz | bnil | bnnil | bt | bnt => exact .branch
  | j => exact .jBody
  | jl => exact .jlBody
  | callw => exact .callwBody
  | retw => exact .retwBody
  | rep => exact .pure
theorem Keeps.fetchWord {e1 lpa na} : Keeps (fetchWord e1 lpa na) := by
  unfold Machine.fetchWord
  refine .get_bind fun s h => ?_
  extract_lets line core
  split
  · exact .pure
  · refine .ite .needM ?_
    split
    · refine .ite ?_ .needM
      split
      · exact .pure
      · exact .bind (.modify fun _ h => .sarkCount h) fun _ => .pure
      · exact .ite .needM .needM
    · exact .needM
theorem Keeps.fetchAt {e1 pc} : Keeps (fetchAt e1 pc) := .bind .translate fun _ => .bind .fetchWord fun _ => .ite .pure .chkM
theorem Keeps.fetchBody {e} : Keeps (fetchBody e) := by
  unfold Machine.fetchBody
  refine .get_bind fun s h => ?_
  refine .bind .chkM fun _ => ?_
  refine .bind .fetchAt fun word => ?_
  refine .get_bind fun s1 h1 => ?_
  split
  · exact .bind .chkM fun _ => .chkM
  · exact .bind .chkM fun _ => .bind .fetchAt fun _ => .get_bind fun _ h => .bind .chkM fun _ => .bind .chkM fun _ => .pure
  · exact .bind .chkM fun _ => .bind .chkM fun _ => .pure
theorem MemOk.issueFetch {x s} (h : MemOk s) : MemOk (issueFetch x s) := by
  unfold Machine.issueFetch
  extract_lets t
  have ht : MemOk t := .bankRead h
  refine .ite ht (.ite ?_ ?_)
  · split
    · exact .takeFault ht
    · exact ht
  · split
    · next e => exact .ofR (Keeps.fetchBody t ht) e
    · exact .raiseX (.clearBus ht)
    · exact .await ht
theorem MemOk.dropRead {s x} (h : MemOk s) : MemOk (dropRead s x) := .upd h rfl
theorem MemOk.outReady {s x} (h : MemOk s) : MemOk (outReady s x) := by
  unfold Machine.outReady
  split
  · exact .endWait h
  · exact h
theorem MemOk.completeFault {s x f} (h : MemOk s) : MemOk (completeFault s x f) := by
  unfold Machine.completeFault
  refine .ite (.raiseX h) ?_
  split
  · exact .endWait (.modCtx h)
  · exact h
theorem Keeps.pendBody {p e} : Keeps (pendBody p e) := by
  unfold Machine.pendBody
  by_cases hf : p.fetch = true
  · rw [if_pos hf]; exact .fetchBody
  · rw [if_neg hf]
    by_cases hr : p.rep = true
    · rw [if_pos hr]; exact .repBody
    · rw [if_neg hr]
      cases decodeInstr p.word with
      | ok op => exact .bodyOf
      | error => exact .pure
theorem MemOk.completeOk {s x p go} (h : MemOk s) : MemOk (completeOk s x p go) := .ite (.retire h) (.outReady (.retire h))
theorem MemOk.completeLatch {s x} (h : MemOk s) : MemOk (completeLatch s x) := by
  unfold Machine.completeLatch
  split
  · exact .ite (.takeLatch h) (.endWait (.modCtx h))
  · exact h
theorem MemOk.withRegs {s n f} (h : MemOk s) : MemOk (withRegs s n f) := .modCtx h
theorem MemOkR.asIssued {s x p f} (h : MemOk s) (hf : ∀ a0, MemOk a0 → MemOkR (f a0)) : MemOkR (asIssued s x p f) := by
  unfold Machine.asIssued
  split
  · extract_lets now cur
    refine .ite (hf _ h) ?_
    split
    · rename_i t e
      have ht : MemOk t := .ofR (hf _ (.withRegs h)) e
      exact .mk (.withRegs ht)
    · exact hf _ (.withRegs h)
  · exact hf _ h
theorem MemOk.goOn {s x p} (h : MemOk s) : MemOk (goOn s x p) := by
  unfold Machine.goOn
  extract_lets p' t e
  have ht : MemOk t := .setPend (.dropRead h)
  have hr : MemOkR (asIssued t x p (pendBody p e)) := .asIssued ht fun u hu => Keeps.pendBody u hu
  split
  · next e1 => exact .completeOk (.ofR hr e1)
  · next e1 => exact .completeFault (.kept ht)
  · next e1 => exact .keptHeals h
  · exact .completeLatch ht
  · exact .await ht
theorem MemOk.complete {s x p} (h : MemOk s) : MemOk (complete s x p) := by
  unfold Machine.complete
  refine .ite (.setPend (.dropRead h)) ?_
  split
  · extract_lets s1 s2
    have hs1 : MemOk s1 := .setPend h
    have hs2 : MemOk s2 := by
      unfold s2
      split
      · exact .modCtx hs1
      · exact hs1
    exact .completeFault hs2
  · exact .goOn h
theorem MemOk.substOut {s x} (h : MemOk s) : MemOk (substOut s x) := by
  unfold Machine.substOut
  split
  · exact .ite (.swapOutReady h) h
  · exact h
theorem MemOk.accessComplete {s x} (h : MemOk s) : MemOk (accessComplete s x) := by
  unfold Machine.accessComplete
  split
  · split
    · exact .ite (.substOut (.complete (.closeOwn h))) h
    · exact .ite (.substOut (.complete (.closeOwn h))) h
    · exact .ite (.substOut (.complete (.closeOwn h))) h
    · exact .substOut (.complete h)
    · exact h
  · exact h
theorem MemOk.walkComplete {s x} (h : MemOk s) : MemOk (walkComplete s x) := by
  unfold Machine.walkComplete
  split
  · exact .ite (.substOut (.complete h)) h
  · exact h
theorem MemOk.syncVDone {s n} (h : MemOk s) : MemOk (syncVDone s n) := by
  unfold Machine.syncVDone
  split
  · exact .ite (.waitOver h) h
  · exact h
theorem MemOk.storeAccess {s core} (h : MemOk s) : MemOk (storeAccess s core) := by
  unfold Machine.storeAccess
  split
  · exact .ite (.arrayAccess h) h
  · exact h
theorem MemOk.swapStart {s core} (h : MemOk s) : MemOk (swapStart s core) := by
  unfold Machine.swapStart
  extract_lets s1 c
  have hs1 : MemOk s1 := .storeAccess h
  split
  · exact hs1
  · exact .ite hs1 (.ite (.setCore hs1) (.setCore hs1))
theorem MemOk.leaveSlot {s n st} (h : MemOk s) : MemOk (leaveSlot s n st) :=
  .ite (.modCtx h) (.ite (.makeReady (.modCtx h)) (.modCtx (.modCtx h)))
theorem MemOk.takeSlot {s core slot n} (h : MemOk s) : MemOk (takeSlot s core slot n) := by
  unfold Machine.takeSlot
  extract_lets s1 s2 s3
  have hs1 : MemOk s1 := .upd h
  have hs2 : MemOk s2 := .modCtx hs1
  have hs3 : MemOk s3 := .modCore hs2
  exact .substOut (.ite (.takeFault hs3) hs3)
theorem MemOk.swapEnd {s core} (h : MemOk s) : MemOk (swapEnd s core) := by
  unfold Machine.swapEnd
  extract_lets c
  split
  · exact h
  · extract_lets ready s1 s2 s3
    have hs1 : MemOk s1 := by
      unfold s1
      split
      · exact .leaveSlot (.countEvent h)
      · exact h
    have hs2 : MemOk s2 := .modCore hs1
    have hs3 : MemOk s3 := by
      unfold s3
      split
      · exact .ite (.countEvent (.takeSlot hs2)) (.takeSlot hs2)
      · exact hs2
    exact .ite h (.modCore hs3)
theorem MemOk.preempt {s core} (h : MemOk s) : MemOk (preempt s core) := by
  unfold Machine.preempt
  split
  · exact h
  · exact .ite (.swapOutReady h) h
theorem MemOk.quantumEnd {s n} (h : MemOk s) : MemOk (quantumEnd s n) := .ite (.swapOutReady h) h
theorem MemOk.expire {s n} (h : MemOk s) : MemOk (expire s n) :=
  .ite h (.ite (.endWait (.wakeDevice (.setCtx h))) (.endWait (.wakeDevice (.ite h (.setCtx h)))))
theorem MemOk.drainEnd {s n} (h : MemOk s) : MemOk (drainEnd s n) := .ite (.becomeFree h) h

/-! ### Waiting and sleeping -/

theorem MemOk.tileNapNow {s t} (h : MemOk s) : MemOk (tileNapNow s t) := .ite (.setTile h) h
theorem MemOk.tileDozeNow {s t} (h : MemOk s) : MemOk (tileDozeNow s t) := .ite (.setTile h) h
theorem MemOk.tileAwake {s t} (h : MemOk s) : MemOk (tileAwake s t) := by
  unfold Machine.tileAwake
  extract_lets s1 mine s2
  have hs1 : MemOk s1 := .modTile h
  have hs2 : MemOk s2 := .upd hs1
  exact .foldl (fun _ _ h => .foldl (fun _ _ h => .ite h (.tlbiEffect h)) h) hs2
theorem MemOk.tileWakeDone {s t} (h : MemOk s) : MemOk (tileWakeDone s t) := .ite (.tileAwake h) h
theorem MemOk.nmi {s} (h : MemOk s) : MemOk (nmi s) := by
  unfold Machine.nmi
  refine .ite h ?_
  extract_lets k s1 s2
  have hs1 : MemOk s1 := .wakeDevice h
  have hs2 : MemOk s2 := .wakeTile (.modCore hs1)
  exact .ite (.logFault hs2) hs2
theorem MemOk.ficNmi {s core} (h : MemOk s) : MemOk (ficNmi s core) := .ite (.modCore h) h
theorem MemOk.ficIrq {s core} (h : MemOk s) : MemOk (ficIrq s core) := by
  unfold Machine.ficIrq
  extract_lets f
  split
  · exact .ite (.modCore (.upd h)) h
  · exact h
theorem MemOk.migLate {s n} (h : MemOk s) : MemOk (migLate s n) := .ite (.logFault h) h
theorem MemOk.dbRemote {s x va v} (h : MemOk s) : MemOk (dbRemote s x va v) := by
  unfold Machine.dbRemote
  refine .ite ?_ h
  split
  · next e => exact .ofR (Keeps.sendDoorbell s h) e
  · exact h

/-! ### Power transitions -/

theorem MemOk.stopCtx {s n} (h : MemOk s) : MemOk (stopCtx s n) := .ite (.leaveSlot (.setCtx h)) (.leaveSlot h)
theorem MemOk.haltCore {s k} (h : MemOk s) : MemOk (haltCore s k) := by
  unfold Machine.haltCore
  extract_lets c s1 s2 left
  have hs1 : MemOk s1 := .setCore h
  have hs2 : MemOk s2 := by
    unfold s2
    refine .foldl (fun s3 w h1 => ?_) hs1
    extract_lets s4
    have hs4 : MemOk s4 := by
      unfold s4
      split
      · exact .leaveSlot h1
      · exact h1
    split
    · exact .makeReady hs4
    · exact hs4
  exact .foldl (fun _ _ h => .stopCtx h) hs2
theorem MemOk.resume {s} (h : MemOk s) : MemOk (resume s) := .upd h rfl

/-- What a held message's command answers, or the state before it. -/
theorem MemOk.ran {s o} (h : MemOk s) (ho : MemOkOut o) : MemOk (ran s o) := by
  unfold Machine.ran
  split
  · exact ho _ rfl
  · exact h
theorem MemOk.runHeld {s h1} (h : MemOk s) : MemOk (runHeld s h1) := by
  unfold Machine.runHeld
  refine .ran h ?_
  split
  · exact .execRload h
  · exact .execRstore h
  · exact .execRatom h
  · exact .execDoorbell h
  · exact .execInv h
  · exact .execMigrate h
  · exact .execColl h
  · exact .next (.hostWrite h)
  · exact .execBar4Read h
  · exact .execBar4Write h
theorem MemOk.runAllHeld {s} (h : MemOk s) : MemOk (runAllHeld s) := .foldl (fun _ _ h => .runHeld h) (.upd h)
theorem MemOk.onEntry {s m} (h : MemOk s) : MemOk (onEntry s m) := by
  unfold Machine.onEntry
  split
  · exact .takeSnapshot (.upd h)
  · exact .copyBanks h
  · exact .resume h
  · exact .resume h
  · exact .resume h
  · exact h
theorem MemOk.applyTrigger {s m} (h : MemOk s) : MemOk (applyTrigger s m) := by
  unfold Machine.applyTrigger
  split
  · exact .toRecovery h
  · exact .toDegraded h
  · exact .ite (.beginTrans h) h
  · exact .ite (.beginTrans h) h
  · exact .toSafe h
  · exact .ite (.beginTrans h) h
  · exact .wakeDevice h
  · exact h
theorem MemOk.nextTrigger {s} (h : MemOk s) : MemOk (nextTrigger s) := .foldl (fun _ _ h => .ite (.applyTrigger (.upd h)) h) h
theorem MemOk.finishTrans {s t} (h : MemOk s) : MemOk (finishTrans s t) := by
  unfold Machine.finishTrans
  extract_lets old target s1 s2 s3 s4
  have hs1 : MemOk s1 := .ite (.flushTracked h) h
  have hs2 : MemOk s2 := .ite (.groupsError hs1) hs1
  have hs3 : MemOk s3 := .onEntry (.enterMode hs2)
  have hs4 : MemOk s4 := .ite (.runAllHeld hs3) hs3
  exact .nextTrigger hs4
theorem MemOk.tileCommand {s t target} (h : MemOk s) : MemOk (tileCommand s t target) := by
  unfold Machine.tileCommand
  extract_lets s1
  have hs1 : MemOk s1 := .ite h (.foldl (fun _ _ h => .haltCore h) h)
  exact .ite (.tileAwake hs1) hs1
theorem MemOk.ack {s b} (h : MemOk s) : MemOk (ack s b) := by
  unfold Machine.ack
  split
  · exact h
  · refine .ite h ?_
    refine .ite h ?_
    extract_lets s1 left t _ s2
    have hs1 : MemOk s1 := .ite (.tileCommand h) h
    have hs2 : MemOk s2 := .upd hs1
    exact .ite (.finishTrans hs2) hs2
theorem MemOk.gateLate {s b} (h : MemOk s) : MemOk (gateLate s b) := .ite (.modTile (.declareTile h)) (.setPd (.logFault h))
theorem MemOk.ackLate {s} (h : MemOk s) : MemOk (ackLate s) := by
  unfold Machine.ackLate
  split
  · exact h
  · refine .ite h ?_
    refine .ite ?_ ?_
    · extract_lets s1 t _
      have hs1 : MemOk s1 := .foldl (fun _ _ h => .gateLate h) h
      exact .finishTrans (.upd hs1)
    · refine .ite ?_ (.toSafe (.foldl (fun _ _ h => .logFault h) (.foldl (fun _ _ h => .declareTile h) h)))
      extract_lets s1 _
      have hs1 : MemOk s1 := .foldl (fun _ _ h => .declareTile h) h
      split
      · exact .ite (.finishTrans (.upd hs1)) hs1
      · exact hs1
theorem MemOk.reverified {s pass} (h : MemOk s) : MemOk (reverified s pass) := .ite (.ite (.beginTrans h) (.trigger h)) h

/-! ### Flits and messages that arrive -/

theorem MemOk.startMsg {s p r} (h : MemOk s) : MemOk (startMsg s p r) := by
  unfold Machine.startMsg
  extract_lets q q1 cc s1 _
  have hs1 : MemOk s1 := .setPort h
  split
  · exact .setPort h
  · exact .upd hs1
theorem MemOkL.fillArea {fuel s p area first} (h : MemOk s) : MemOkL (fillArea fuel s p area first) := by
  induction fuel generalizing s area first with
  | zero => exact h
  | succ fuel ih =>
    rw [Machine.fillArea]
    refine .ite (.mk h) ?_
    refine .ite (ih (.setPort h)) ?_
    split
    · exact ih (.startMsg h)
    · exact .mk h
theorem MemOk.sendWith {s p ty area first} (h : MemOk s) : MemOk (sendWith s p ty area first) := .sendNumbered (.setPort h)
theorem MemOk.collectSent {s} (h : MemOk s) : MemOk (collectSent s) := .upd h rfl
theorem MemOk.flitTime {s p} (h : MemOk s) : MemOk (flitTime s p) := by
  unfold Machine.flitTime
  extract_lets q r
  have hr : MemOkL r := .fillArea (.collectSent h)
  exact .ite h (.ite (.sendFlit h) (.ite (.sendWith (.fst hr)) (.ite (.sendWith (.fst hr)) (.sendFlit (.fst hr)))))
theorem MemOkR.takeTransit {s h1 at_} (h : MemOk s) : MemOkR (takeTransit s h1 at_) := by
  unfold Machine.takeTransit
  extract_lets q
  split
  · exact .mk (.setPort h)
  · exact .mk h
theorem MemOk.transit {s h1 vc at_ len d1} (h : MemOk s) : MemOk (transit s h1 vc at_ len d1) := by
  unfold Machine.transit
  refine .ite h ?_
  split
  · exact h
  · exact .countDiscards (.snd (.takeTransit h))
  · split
    rename_i t e
    have ht : MemOk t := .ofR (.takeTransit h) e
    exact .upd (.setPort ht)

/-! ### Every command -/

/-- Every command that answers ends with the tick of its step. -/
theorem MemOkOut.ticked {s} (h : MemOk s) : MemOkOut (.next s.tick) := .next (.tick h)

/-- An instruction's command issues the body of its operation. -/
theorem MemOkOut.issued {x op s} (h : MemOk s) : MemOkOut (.next (issue x op (bodyOf op) s).tick) :=
  .ticked (.issue (fun _ => .bodyOf) h)

/-- Every command, along the dispatcher. -/
theorem MemOkOut.exec {c s} (h : MemOk s) : MemOkOut (exec c s) := by
  cases c with dsimp only [Machine.exec]
  | mov | iadd | isub | imul | and | or | xor | andn | shl | shr | sar | ult | eq | ne | tagof | movi | moviR | ldc | eqi | lti | lei
    | gti | shli | shri | sari | andi | tagis | kindis | settag | add | sub | mul | div | rem | neg | numeq | lt | le | addi | fadd
    | fsub | fmul | fdiv | fmin | fmax | fsqrt | fma | fneg | fabs | fmov | fceq | fclt | fcle | fmvgf | fmvfg | fcvtxf | fcvtfx | ldw
    | ldwA | ldwP | stw | stwR | ldpc | ldx | ldxA | stx | stxR | ldb | ldh | stb | sth | amoadd | amoswap | amomin | amomax | cas | cast
    | car | cdr | rplaca | rplacd | cons | memq | assq | walk | probe | alloc | bz | bnz | bnil | bnnil | bt | bnt | j | jl | callw | jr
    | jlr | callwr | retl | retw | copyw | fillw | cleanL | flushL | invalL | syscall | wcall | retx | brk | yield | fence | syncG
    | syncV | syncT | mfs | mts | rdw | wrw | fbrd | fbwr | spawn | ctxhold | ctxrel | ctxkill | ctxend | wait | waitM | ctxrd | ctxwr
    | tlbiVa | tlbiSp | tlbiW | setpkr =>
    exact .issued h
  | loadbarHealWrite => exact .ticked (.healStep h)
  | logAppend => exact .ticked (.appendStep h)
  | rep => exact .ticked (.issueRep h)
  | repStep => exact .ticked (.nextStep h)
  | fpBankBind => exact .ticked (.ite h (.issue (fun _ => .mtsBody) h))
  | fpBankRelease => exact .ticked (.ite (.issue (fun _ => .mtsBody) h) h)
  | walkReadComplete => exact .ticked (.walkComplete h)
  | tlbiTakesEffect => exact .ticked (.tlbiEffect h)
  | tlbiComplete => exact .ticked (.tlbiDone h)
  | swapStart => exact .ticked (.swapStart h)
  | swapComplete => exact .ticked (.swapEnd h)
  | preemption => exact .ticked (.preempt h)
  | quantumExpiry => exact .ticked (.quantumEnd h)
  | accessComplete => exact .ticked (.accessComplete h)
  | deadlineExpiry => exact .ticked (.expire h)
  | contextDrainComplete => exact .ticked (.drainEnd h)
  | dbRingWrite | dbPendingWrite | tslGo | tslHalt | tslEventsWrite =>
    exact .ticked (.ite (.writeReg h) h)
  | tileWakeComplete => exact .ticked (.tileWakeDone h)
  | tileNap => exact .ticked (.tileNapNow h)
  | tileDoze => exact .ticked (.tileDozeNow h)
  | nmiNAssert => exact .ticked (.nmi h)
  | ficNmiEntry => exact .ticked (.ficNmi h)
  | ficIrqEntry => exact .ticked (.ficIrq h)
  | rds | rdx | upg | rdo | wrm | atm | cln | fls | homeInv => exact .ticked (.homeReq h)
  | wrf => exact .ticked (.ite (.wrf h) h)
  | tagq => exact .ticked (.ite (.tagQuery h) h)
  | wbd | evc => exact .ticked (.homeWb h)
  | sns | snx | sni | snr | snc | snf => exact .ticked (.snoop h)
  | ack | ackd | ackw | acku | ackn => exact .ticked (.snoopAnswer h)
  | nakst => exact .ticked (.stashRefused h)
  | rty => exact .ticked (.retried h)
  | requestResend => exact .ticked (.resend h)
  | naks => exact .ticked (.notServed h)
  | prg => exact .ticked (.progress h)
  | gnt => exact .ticked (.granted h)
  | cmp => exact .ticked (.completed h)
  | wba => exact .ticked (.wbDone h)
  | tagr => exact .ticked (.tagAnswer h)
  | dats | date | datm => exact .ticked (.dataTo h)
  | dato => exact .ticked (.uncached h)
  | l1dDrainComplete => exact .ticked (.drainStep h)
  | codewordReadComplete => exact .ticked (.codewordRead h)
  | scrubRead => exact .ticked (.scrub h)
  | targetedScrubComplete => exact .ticked (.scrubbed h)
  | errorWindowExpiry => exact .ticked (.windowExpiry h)
  | softPprComplete => exact .ticked (.softPpr h)
  | pseudoChannelMove => exact .ticked (.pcMove h)
  | memoryInitComplete => exact .ticked (.memInit h)
  | gcRegisterWrite | vlHeadWrite | vlDoorbellWrite | vlAbortWrite | vlQeventsWrite | cwGgoWrite | cwQsentAdd | cwQrecvAdd
    | registerWrite =>
    exact .ticked (.writeReg h)
  | gcWritePerformed => exact .ticked (.gcDone h)
  | descriptorReadComplete => exact .ticked (.drainCheck (.descArrived h))
  | burstGrant => exact .ticked (.drainCheck (.grantBurst h))
  | burstSourceReadComplete => exact .ticked (.drainCheck (.burstArrived h))
  | descriptorDone => exact .ticked (.drainCheck (.descDone h))
  | linkReadComplete => exact .ticked (.drainCheck (.linkArrived h))
  | syncVComplete => exact .ticked (.syncVDone h)
  | domainDrainTimeout => exact .ticked (.ite h (.drainTimeout h))
  | reedMov | reedCmp | reedEq | reedTagof | reedSettag | reedVa => exact .reedAlu h
  | reedAdd | reedSub | reedAnd | reedOr | reedXor => exact .reedInt h
  | reedShl | reedShr => exact .reedShift h
  | reedMovi | reedAddi | reedCmpi => exact .reedImm h
  | reedMvaq | reedMvqa | reedAdda | reedAddaq | reedMvcq | reedMvqc | reedMvaa => exact .reedAop h
  | reedLd => exact .ticked (.reedLd h)
  | reedLoadAnswer => exact .ticked (.loadAnswer h)
  | reedSt => exact .ticked (.reedSt h)
  | reedTt => exact .ticked (.reedPlain h)
  | reedBr | reedLoop | reedJcz => exact .reedBranch h
  | reedCall | reedWaite =>
    exact .ticked (.reedStep h (fun _ _ _ h1 => .ite (.mk h1) (.ite (.mk h1) (.mk h1))))
  | reedRet => exact .execReedRet h
  | reedPfx => exact .ticked (.reedStep h (fun _ _ _ h1 => .mk h1))
  | reedSignal => exact .execReedSignal h
  | reedEnd => exact .ticked (.endNotice (.reedEnd h))
  | reedLateStoreFault => exact .execReedLateStoreFault h
  | coll => exact .execColl h
  | qPeriodExpiry => exact .ticked (.qPeriod h)
  | collTimeout => exact .ticked (.ite (.groupError h) h)
  | rload => exact .execRload h
  | rstore => exact .execRstore h
  | ratom => exact .execRatom h
  | doorbell => exact .execDoorbell h
  | rdata => exact .ticked (.rdata h)
  | rpair => exact .ticked (.rpair h)
  | rack => exact .ticked (.rack h)
  | rfault => exact .ticked (.rfault h)
  | invack => exact .ticked (.invAck h)
  | moved => exact .ticked (.ite (.movedNotice h) h)
  | migrate => exact .execMigrate h
  | migans => exact .ticked (.migAnswer h)
  | migq => exact .ticked (.migQuery h)
  | mgmt => exact .ticked (.mgmtIn h)
  | imgreq => exact .ticked (.imgReq h)
  | imgrel => exact .ticked (.imgRel h)
  | inv => exact .execInv h
  | remoteTimeout => exact .ticked (.remoteTimeout h)
  | migrationPacketSend => exact .ticked (.sendPacket h)
  | migReplyTimeout => exact .ticked (.migAsk h)
  | migUnresolved => exact .ticked (.migLate h)
  | stubRelease => exact .ticked (.stubEnd h)
  | dbRemoteWrite => exact .ticked (.dbRemote h)
  | idleFlit => exact .ticked (.flitTime (.onFlit h fun _ h => h))
  | dataFlit => exact .ticked (.flitTime (.onSeq h (fun _ h1 => .dataArea h1)))
  | creditFlit => exact .ticked (.flitTime (.onSeq h fun _ h => h))
  | nakFlit => exact .ticked (.onFlit h (fun _ h1 => .ite (.nakIn h1) h1))
  | initFlit => exact .ticked (.onFlit h (fun _ h1 => .initIn h1))
  | spareFlit => exact .ticked (.onSeq h (fun _ h1 => .spareIn h1))
  | holdFlit => exact .ticked (.onFlit h (fun _ h1 => .ite (.setPort h1) h1))
  | transitForward => exact .ticked (.transit h)
  | nakRepeat => exact .ticked (.ite (.recover h) h)
  | laneLockLoss => exact .ticked (.ite (.laneLost h) h)
  | laneCeThreshold => exact .ticked (.ite (.laneCe h) h)
  | pmdTrainingDone => exact .ticked (.pmdDone h)
  | codewordLock => exact .ticked (.laneLock h)
  | linkSilenceTimeout => exact .execLinkSilenceTimeout h
  | portRetry => exact .ticked (.ite (.portTrain h) h)
  | rerouteHoldExpiry => exact .ticked (.ite h (.setPort h))
  | lowPowerIdleEntry => exact .ticked (.ite (.setPort h) h)
  | safeHoldTick => exact .ticked (.ite (.holdPorts h) h)
  | bar2Write => exact .ticked (.ite (.bar2Write h) h)
  | bar4Read => exact .execBar4Read h
  | bar4Write => exact .execBar4Write h
  | flr => exact .ticked (.ite (.flrReset h) h)
  | pePerstNAssert => exact .ticked (.setLink (.upd (.flrReset h)))
  | pcieLinkChange => exact .ticked (.ite h (.setLink (.upd h)))
  | hiRaiseWrite => exact .ticked (.hostWrite h)
  | hiDmGo => exact .ticked (.ite h (.ite (.hostLater h) (.hiDmGo h)))
  | msixSendWrite => exact .ticked (.ite (.msixSend h) h)
  | outboundReadTimeout => exact .ticked (.outLate h)
  | spdmRequest => exact .ticked (.ite (.upd h) h)
  | dmbGo => exact .ticked (.ite (.dmbGo h) h)
  | dictRead | dictWrite | dictForce | dictNext | dictLog | dictSnap => exact .ticked (.request h)
  | dictRemoteTimeout => exact .ticked (.remoteLate h)
  | dictMirrorTick => exact .ticked (.mirrorTick h)
  | startCmdLoad => exact .ticked (.loadCmd h)
  | startCmdResetCold | startCmdResetWarm => exact .ticked (.trigger h)
  | startCmdGo => exact .ticked (.startGo h)
  | forceStartCold | forceStartWarm => exact .ticked (.forceStart h)
  | forcePortFence => exact .ticked (.ite h (.fencePort h))
  | forceGateDomain => exact .ticked (.ite h (.gateDomain h))
  | forceLockupRelease => exact .ticked (.releaseLockup h)
  | portFenceWrite => exact .ticked (.ite (.fencePort h) (.unfencePort h))
  | pdCtlOff => exact .ticked (.pdOff h)
  | pdCtlOn => exact .ticked (.ite (.pdOn h) h)
  | domainPowerOnComplete => exact .ticked (.pdReady h)
  | cowslipGateTimeout => exact .ticked (.ite (.cowslipOff h) h)
  | tileFreqWrite => exact .ticked (.ite (.relock (.setDval h)) h)
  | pllRelockComplete => exact .ticked (.modTile h)
  | injectError => exact .ticked (.inject h)
  | ownerKeyHashWrite => exact .ticked (.ownerHash h)
  | fuseBurnComplete => exact .ticked (.fuseBurnt h)
  | minSvnWrite => exact .ticked (.minSvn h)
  | persistentCommit => exact .ticked (.commit h)
  | modeCmdQuiesce | modeCmdHold | modeCmdResume | modeCmdSafe => exact .ticked (.modeCmd h)
  | transitionAck => exact .ticked (.ack h)
  | transitionAckTimeout => exact .ticked (.ackLate h)
  | drowseEntry => exact .ticked (.ite (.beginTrans h) h)
  | recoveryReverifyDone => exact .ticked (.reverified h)
  | pwrokRise => exact .ticked (.pwrokUp h)
  | pwrokFall => exact .ticked .pwrokDown
  | sysRstNAssert => exact .ticked (.sysRst h)
  | sysRstNRelease | thermtrip | trstNAssert => exact .ticked (.upd h)
  | bootRomDone => exact .ticked (.bootDone h)
  | imageVerified => exact .ticked (.verified h)
  | imageRelayRetry => exact .ticked (.ite (.askImage h) h)
  | bringupComplete => exact .ticked (.bringupDone h)
  | bistComplete => exact .ticked (.bistDone h)
  | serviceEntry => exact .ticked (.enterService h)
  | startStepTimeout => exact .ticked (.stepTimeout h)
  | warmWritebackComplete => exact .ticked (.writebackDone h)
  | faultReport | watchdogExpiry | voltageExcursion => exact .ticked (.report h)
  | deadCoreReclaim => exact .ticked (.ite (.modCore (.reclaimCore h)) h)
  | periodicCheckPeriod => exact .ticked (.period h)
  | selftestStart => exact .ticked (.testStart h)
  | selftestResult => exact .ticked (.testResult h)
  | clockFault => exact .ticked (.ite (.report h) h)
  | thermalSample => exact .ticked (.sample h)
  | throttleStep => exact .ticked (.throttle h)
  | wearThreshold => exact .ticked (.wear h)
  | coreSubstitutionComplete => exact .ticked (.substDone h)
  | illegalOpcode => exact .ticked (.issueFetch h)
  | reedIllegal => exact .ticked (.ite h (.reedStep h (fun _ _ _ h1 => .mk h1)))
  | tapInstruction => exact .ite (.next (.tick (.upd h))) (.ite .refused (.next (.tick h)))

/-- A step runs the command at the front of the queue, if there is one. -/
theorem MemOk.step {s t} (h : MemOk s) (e : step s = .next t) : MemOk t := by
  unfold Machine.step at e
  split at e
  · cases e; exact h
  · exact MemOkOut.exec (s := { s with pending := _ }) (.upd h) t e

/-! ### Counts of a unit that is listed twice -/

/-- A controller with one SUSPECT unit, which a targeted scrub reads and whose table of counts lists it twice. -/
def countedTwice : State :=
  State.reset.setMc 0 { State.reset.mc 0 with units := [(0, .suspect)], targets := [0], counts := [(0, 1), (0, 1)] }

theorem scrubbed_countedTwice : tgetD ((scrubbed countedTwice 0 0 0 false).tick.mc 0).counts 0 0 = 1 := by rfl

end Sys2Proof.Machine

open Sys2Proof Sys2Proof.Machine

/-- Settles O7: each function of the model that answers a state keeps the canonical form, so each command does. -/
theorem memoryCanonicalKept : Obligations.MemoryCanonicalKept := fun _ _ => MemOk.step

/-- Settles O8: memory at reset lists no word. -/
theorem resetMemoryCanonical : Obligations.ResetMemoryCanonical := reset_memory_wf

/-- Refutes O46, by its clause on a targeted scrub that found under 4 errors: the counts of the unit are taken out of the table by
`tdel`, which takes out the first entry alone, so a table of counts that lists the unit twice still counts an error. -/
theorem not_memoryControllers : ¬ Obligations.MemoryControllers := by
  unfold Obligations.MemoryControllers
  intro h
  obtain ⟨-, -, -, hscrub, -⟩ := h countedTwice 0 0 0 0 false 0 0 { kind := .rds, core := 0, line := 0 } 0
  obtain ⟨hclears, -⟩ := hscrub rfl (by decide)
  obtain ⟨t, hgives, -, hcounts, -⟩ := hclears (by decide)
  obtain rfl := Host.Outcome.next.inj hgives
  exact Nat.one_ne_zero (scrubbed_countedTwice.symm.trans hcounts)
end

section
/-! PROOFS. Rules of the operations that the statements of chapter 03 share: counting and completing, queueing a swap, leaving a
slot, becoming READY, ending a wait. -/

namespace Sys2Proof.Claims

open Sys2Proof.Machine

/-! ### What a change of a core, and counting an event, keep -/

/-- A change of a core that keeps a part of it keeps that part of every core. -/
theorem modCore_keeps {α : Type} (g : Core → α) {f : Core → Core} (hf : ∀ c, g (f c) = g c) (s : State) (k j : Nat) :
    g ((s.modCore k f).core j) = g (s.core j) := by
  by_cases h : j = k
  · subst h; rw [State.core_modCore_same, hf]
  · rw [State.core_modCore_ne _ _ h]

theorem Counted.ctx {s t : State} (h : Counted s t) (n : Nat) : t.ctx n = s.ctx n := State.ctx_congr h.ctxs n

/-- Counting changes the counters of a core and the requests pending at its fast interrupt context. -/
theorem Counted.core {s t : State} (h : Counted s t) (k : Nat) :
    t.core k = { s.core k with pmc := (t.core k).pmc, pmsel := (t.core k).pmsel, fic := (t.core k).fic } := h.around.2.1 k

section
variable (s : State) (k : Nat) (who : Option (World × Bool × Nat)) (ev j : Nat)

@[simp] theorem ctx_countEvent : (countEvent s k who ev).ctx j = s.ctx j := (countEvent_keeps s k who ev).ctx j
@[simp] theorem countEvent_swaps : ((countEvent s k who ev).core j).swaps = (s.core j).swaps := by rw [(countEvent_keeps s k who ev).core j]
@[simp] theorem countEvent_subst : ((countEvent s k who ev).core j).subst = (s.core j).subst := by rw [(countEvent_keeps s k who ev).core j]
@[simp] theorem countEvent_l1d : ((countEvent s k who ev).core j).l1d = (s.core j).l1d := by rw [(countEvent_keeps s k who ev).core j]
@[simp] theorem countEvent_stores : ((countEvent s k who ev).core j).stores = (s.core j).stores := by rw [(countEvent_keeps s k who ev).core j]
end

/-! ### Completing an instruction -/

section
variable (s : State) (n : BitVec 16) (m j : Nat) (v : BitVec 59)

/-- The context after its instruction is counted as complete, with pc where it was. -/
theorem ctx_commitX_same : (commitX s (.ctx n)).ctx n.toNat = doneCtx (s.ctx n.toNat) (s.ctx n.toNat).r.pc := by
  simp [commitX, doneCtx]

theorem ctx_commitX_ne (h : m ≠ n.toNat) : (commitX s (.ctx n)).ctx m = s.ctx m := by
  simp [commitX, State.ctx_modCtx_ne _ _ h]

@[simp] theorem commitX_swaps : ((commitX s (.ctx n)).core j).swaps = (s.core j).swaps := by simp [commitX]
@[simp] theorem commitX_subst : ((commitX s (.ctx n)).core j).subst = (s.core j).subst := by simp [commitX]
end

/-! ### What a body's answer makes of an issued instruction -/

theorem issue_done {s u : State} {x : Exec} {op : Op} {body : Body_} (h : Ready s x op)
    (hb : body (env x op) s = (.ok .done, u)) : (issue x op body s).tick = u.tick := by
  rw [issue_of_ready h, hb]; rfl

theorem issue_need {s u : State} {x : Exec} {op : Op} {body : Body_} {need : Need} (h : Ready s x op) (hn : need ≠ .held)
    (hb : body (env x op) s = (.error (.need need), u)) :
    (issue x op body s).tick = (await s x op.word false false none need).tick := by
  rw [issue_of_ready h, hb]
  cases need with
  | held => exact absurd rfl hn
  | _ => rfl

/-! ### Queueing a swap-out -/

theorem queueSwap_slot {s : State} {n k : Nat} (st : CState) (h : (s.ctx n).slot = some k) :
    queueSwap s n st = (s.setCtx n { s.ctx n with stopped := true }).modCore (coreOf n) fun q =>
      { q with swaps := q.swaps ++ [{ slot := k, out := some n, goal := st }] } := by
  simp [queueSwap, h]

theorem ctx_queueSwap_same {s : State} {n k : Nat} (st : CState) (h : (s.ctx n).slot = some k) :
    (queueSwap s n st).ctx n = { s.ctx n with stopped := true } := by
  simp [queueSwap_slot st h]

theorem queueSwap_swaps {s : State} {n k : Nat} (st : CState) (h : (s.ctx n).slot = some k) :
    ((queueSwap s n st).core (coreOf n)).swaps = (s.core (coreOf n)).swaps ++ [{ slot := k, out := some n, goal := st }] := by
  simp [queueSwap_slot st h]

/-! ### Ordering instructions -/

theorem yieldBody_ctx (s : State) (n : BitVec 16) : yieldBody (env (.ctx n) .yield) s =
    (.ok .done, queueSwap (setXpc (commitX s (.ctx n)) (.ctx n) (xpc (commitX s (.ctx n)) (.ctx n) + 4)) n.toNat .ready) := rfl

theorem waitEarlier_done {s : State} {x : Exec} (h : earlierDone s x = true) : waitEarlier x s = (.ok (), s) := by
  rw [waitEarlier, get_bind, if_pos h, pure_eq]

theorem fenceBody_done {s : State} {x : Exec} (h : earlierDone s x = true) (hg : s.gcBy ≠ some x) :
    fenceBody (env x .fence) s = (.ok .next, s) := by
  rw [fenceBody, bind_ok (waitEarlier_done (x := (env x .fence).x) h), get_bind, if_neg (show s.gcBy ≠ some (env x .fence).x from hg), pure_eq]

theorem syncGBody_done {s : State} {x : Exec} (h : storesOut s x = 0) (hl : ∀ m, x = .ctx m → (s.ctx m.toNat).sfault = none) :
    syncGBody (env x .syncG) s = (.ok .next, s) := by
  rw [syncGBody, get_bind]
  cases x with
  | ctx m => simp [env, h, hl m rfl, pure_eq]
  | fic k => simp [env, h, pure_eq]

theorem syncVBody_done {s : State} {x : Exec} (h : valleyWrites s = []) : syncVBody (env x .syncV) s = (.ok .next, s) := by
  rw [syncVBody, get_bind, if_pos h, pure_eq]

theorem syncVBody_waits {s : State} {n : BitVec 16} (h : valleyWrites s ≠ []) :
    syncVBody (env (.ctx n) .syncV) s = (.error (.need (.sync .syncV)), s) := by
  rw [syncVBody, get_bind, if_neg h]; rfl

theorem needSup_ok {e : Env} {s : State} (h : xsup s e.x = true) : needSup e s = .ok () := by simp [needSup, h]

theorem syncTBody_done {s : State} {x : Exec} (hs : xsup s x = true) (h : ∀ u ∈ s.tlbis, u.by_ ≠ x) :
    syncTBody (env x .syncT) s = (.ok .next, s) := by
  have hany : ¬ (s.tlbis.any fun t => t.by_ == x) = true := by simpa using h
  rw [syncTBody, get_bind, chkM_bind_ok (needSup_ok hs)]
  exact congrFun (if_neg hany) s

theorem syncTBody_waits {s : State} {n : BitVec 16} (hs : xsup s (.ctx n) = true) (h : ∃ u ∈ s.tlbis, u.by_ = .ctx n) :
    syncTBody (env (.ctx n) .syncT) s = (.error (.need (.sync .syncT)), s) := by
  have hany : (s.tlbis.any fun t => t.by_ == .ctx n) = true := by simpa using h
  rw [syncTBody, get_bind, chkM_bind_ok (needSup_ok hs)]
  exact congrFun (if_pos hany) s

end Sys2Proof.Claims

open Sys2Proof Sys2Proof.Machine Sys2Proof.Claims

/-- Settles O32: each instruction's body ends at once when nothing that it waits for is left, and asks to wait otherwise. -/
theorem orderingInstructions : Obligations.OrderingInstructions := by
  intro s x n k
  refine ⟨fun hr hk => ?_, fun hr h hg => ?_, fun hr h hl => ?_, fun hr h => ?_, fun hr h => ?_, fun hr hs h => ?_, fun hr hs h => ?_⟩
  · have hslot : ((setXpc (commitX s (.ctx n)) (.ctx n) (xpc (commitX s (.ctx n)) (.ctx n) + 4)).ctx n.toNat).slot = some k := by
      simp [setXpc, ctx_commitX_same, doneCtx, hk]
    refine ⟨_, congrArg Host.Outcome.next (issue_done hr (yieldBody_ctx s n)), ?_, ?_, ?_⟩
    · rw [State.ctx_tick, ctx_queueSwap_same _ hslot]
    · rw [State.ctx_tick, ctx_queueSwap_same _ hslot]
      simp [setXpc, xpc, ctx_commitX_same, doneCtx]
    · rw [State.core_tick, queueSwap_swaps _ hslot]
      simp [setXpc]
  · exact congrArg Host.Outcome.next (issue_next hr (fenceBody_done h hg))
  · exact congrArg Host.Outcome.next (issue_next hr (syncGBody_done h hl))
  · exact congrArg Host.Outcome.next (issue_next hr (syncVBody_done h))
  · exact congrArg Host.Outcome.next (issue_need hr nofun (syncVBody_waits h))
  · exact congrArg Host.Outcome.next (issue_next hr (syncTBody_done hs h))
  · exact congrArg Host.Outcome.next (issue_need hr nofun (syncTBody_waits hs h))
end

section
/-! PROOFS. The end of a quantum, and a swap whose incoming number is no record's. -/

namespace Sys2Proof.Claims

open Sys2Proof.Machine

/-! ### The end of a quantum -/

/-- The end of a quantum (R64) acts for an ACTIVE context that still issues, when there is a quantum, no slot is free and a READY context
of equal or higher priority waits. -/
theorem quantumEnd_eq (s : State) (n : Nat) : quantumEnd s n =
    if (s.ctx n).dir.state = .active ∧ (s.ctx n).stopped = false ∧ dval s 0x3200 0x03 ≠ 0 ∧ freeSlot (s.core (coreOf n)) = none ∧
      ∃ m ∈ (s.core (coreOf n)).readyQ, (s.ctx n).dir.prio.toNat ≤ (s.ctx m).dir.prio.toNat
    then swapOutReady s n else s := by
  simp [quantumEnd, slotsFull]

theorem swapOutReady_of_boundary {s : State} {n : Nat} (h : (s.ctx n).pend = none) : swapOutReady s n = queueSwap s n .ready := by
  simp [swapOutReady, h]

/-! ### Swaps -/

/-- Core 0 has a started swap that takes number 65,536 + 160 in. No record has that number; its low 16 bits are 160, the number of an
ACTIVE context that holds a slot of core 1 while the substitution of that core waits for its slots to empty. -/
def strayNumber : State :=
  ((State.reset.setCore 0 { swaps := [{ slot := 0, out := none, goal := .ready, started := true, inc := some 65696 }] }).setCore 1
    { subst := true }).setCtx 160 { dir := { state := .active }, slot := some 0 }

/-- Taking the number in applies the substitution to the context of its low 16 bits, so context 160 of core 1 stops issuing. -/
theorem strayNumber_stops : (((swapEnd strayNumber 0).tick).ctx 160).stopped = true := by rfl

end Sys2Proof.Claims

open Sys2Proof Sys2Proof.Machine Sys2Proof.Claims

/-- Settles O37, by the conditions of the end of a quantum: each of the three ways it does nothing contradicts one of them. -/
theorem quantumExpiry : Obligations.QuantumExpiry := by
  intro s n k c q waiting hact hslot hrun hpend
  have hgives : Gives (.quantumExpiry n) s (quantumEnd s n.toNat).tick := rfl
  rw [quantumEnd_eq] at hgives
  refine ⟨fun hq hw hf => ?_, fun hno => ?_⟩
  · rwa [if_pos ⟨hact, hrun, hq, hf, hw⟩, swapOutReady_of_boundary hpend, queueSwap_slot _ hslot] at hgives
  · rwa [if_neg] at hgives
    rintro ⟨-, -, hq, hf, hw⟩
    rcases hno with h | h | h
    · exact hq h
    · exact h hw
    · exact h hf

/-- Refutes O38, by its clause on a swap that completes and takes a context in: it holds the incoming number to no range, and the model
tells a core's substitution of the number's low 16 bits. A swap that takes 65,536 + 160 in stops context 160, which the clause says is
untouched. -/
theorem not_swapsAndPreemption : ¬ Obligations.SwapsAndPreemption := by
  unfold Obligations.SwapsAndPreemption
  intro h
  obtain ⟨-, -, htakes, -⟩ := h strayNumber 0 { slot := 0, out := none, goal := .ready, started := true, inc := some 65696 } [] 0 65696
  obtain ⟨t, hgives, -, -, -, -, hothers, -⟩ := htakes rfl rfl rfl rfl rfl rfl rfl
  obtain rfl := Host.Outcome.next.inj hgives
  exact Bool.false_ne_true ((congrArg Ctx.stopped (hothers 160 (by decide))).symm.trans strayNumber_stops)
end

section
/-! PROOFS. How a context becomes READY, is held, killed or ended, and how one is made. -/

namespace Sys2Proof.Claims

open Sys2Proof.Machine

/-! ### Becoming READY -/

/-- Filling a free slot queues a swap at most. -/
theorem fillSlot_eq (c : Core) : ∃ l, fillSlot c = { c with swaps := c.swaps ++ l } := by
  unfold fillSlot
  split
  · split
    · exact ⟨_, rfl⟩
    · exact ⟨[], by simp⟩
  · exact ⟨[], by simp⟩

@[simp] theorem fillSlot_readyQ (c : Core) : (fillSlot c).readyQ = c.readyQ := by obtain ⟨l, h⟩ := fillSlot_eq c; rw [h]
@[simp] theorem fillSlot_subst (c : Core) : (fillSlot c).subst = c.subst := by obtain ⟨l, h⟩ := fillSlot_eq c; rw [h]

theorem mem_fillSlot_swaps {c : Core} {w : Swap} (h : w ∈ c.swaps) : w ∈ (fillSlot c).swaps := by
  obtain ⟨l, e⟩ := fillSlot_eq c
  rw [e]
  exact List.mem_append_left l h

@[simp] theorem ctx_wakeTile (s : State) (t j : Nat) : (wakeTile s t).ctx j = s.ctx j := State.ctx_congr (wakeTile_ctxs s t) j
@[simp] theorem core_wakeTile (s : State) (t j : Nat) : (wakeTile s t).core j = s.core j := State.core_congr (wakeTile_cores s t) j

section
variable (s : State) (n : Nat)

theorem ctx_makeReady_same : (makeReady s n).ctx n = { s.ctx n with dir := { (s.ctx n).dir with state := .ready } } := by
  simp [makeReady]

theorem makeReady_readyQ : ((makeReady s n).core (coreOf n)).readyQ = (s.core (coreOf n)).readyQ ++ [n] := by
  simp [makeReady]

end

/-! ### Leaving a slot -/

section
variable (s : State) (n : Nat)

theorem ctx_vacate_same : (vacate s n).ctx n = { s.ctx n with stopped := (s.ctx n).slot.isSome } := by
  simp [vacate]

theorem ctx_vacate_ne {m : Nat} (h : m ≠ n) : (vacate s n).ctx m = s.ctx m := by
  simp [vacate, State.ctx_setCtx_ne, h]

/-- A context that holds a slot has a swap-out queued once it has to leave. -/
theorem vacate_queues (h : (s.ctx n).slot ≠ none) : ∃ w ∈ ((vacate s n).core (coreOf n)).swaps, w.out = some n := by
  obtain ⟨k, hk⟩ := Option.ne_none_iff_exists'.mp h
  simp only [vacate, hk, State.core_modCore_same]
  split
  · next hany => simpa using hany
  · exact ⟨_, List.mem_append_right _ (List.mem_singleton_self _), rfl⟩

theorem ctx_releaseBanks_same : (releaseBanks s n).ctx n = { s.ctx n with r := { (s.ctx n).r with fpBound := false, fpBank := 0 } } := by
  simp [releaseBanks]

theorem ctx_releaseBanks_ne {m : Nat} (h : m ≠ n) : (releaseBanks s n).ctx m = s.ctx m := by
  simp [releaseBanks, State.ctx_setCtx_ne, h]

@[simp] theorem releaseBanks_swaps (j : Nat) : ((releaseBanks s n).core j).swaps = (s.core j).swaps :=
  modCore_keeps Core.swaps (by intro; rfl) _ _ _

theorem holdCtx_state : ((holdCtx s n).ctx n).dir.state = .held := by
  simp [holdCtx]

theorem holdCtx_stopped : ((holdCtx s n).ctx n).stopped = (s.ctx n).slot.isSome := by
  simp [holdCtx, ctx_vacate_same]

/-- CTXHOLD of a context outside ACTIVE remembers its state (R80). -/
theorem holdCtx_heldFrom {st : CState} (h : (s.ctx n).dir.state = st) (hst : st ≠ .active) : ((holdCtx s n).ctx n).dir.heldFrom = st := by
  simp only [holdCtx, State.ctx_modCore, State.ctx_modCtx_same, h]

/-- A record after CTXKILL or CTXEND (R81). -/
theorem ctx_killCtx_same : (killCtx s n).ctx n = { s.ctx n with
    stopped := (s.ctx n).slot.isSome, r := { (s.ctx n).r with fpBound := false, fpBank := 0 },
    dir := { (s.ctx n).dir with dying := true, gen := (s.ctx n).dir.gen + 1, wait := 0 },
    pend := if (s.ctx n).dir.accessOut then (s.ctx n).pend else none, exn := none, monitor := none } := by
  simp only [killCtx, State.ctx_modCore, State.ctx_modCtx_same, ctx_releaseBanks_same, ctx_vacate_same]

theorem ctx_killCtx_ne {m : Nat} (h : m ≠ n) : (killCtx s n).ctx m = s.ctx m := by
  simp [killCtx, State.ctx_modCtx_ne _ _ h, ctx_releaseBanks_ne _ _ h, ctx_vacate_ne _ _ h]

theorem leaving_holdCtx (h : (s.ctx n).slot ≠ none) : Leaving (holdCtx s n) n := by
  obtain ⟨w, hw, hout⟩ := vacate_queues s n h
  refine ⟨by rw [holdCtx_stopped]; exact Option.isSome_iff_ne_none.mpr h, w, ?_, hout⟩
  simp only [holdCtx, State.core_modCore_same]
  exact mem_fillSlot_swaps hw

theorem leaving_killCtx (h : (s.ctx n).slot ≠ none) : Leaving (killCtx s n) n := by
  obtain ⟨w, hw, hout⟩ := vacate_queues s n h
  refine ⟨by rw [ctx_killCtx_same]; exact Option.isSome_iff_ne_none.mpr h, w, ?_, hout⟩
  simp only [killCtx, State.core_modCore_same]
  exact mem_fillSlot_swaps (by simpa using hw)
end

@[simp] theorem env_x (x : Exec) (op : Op) : (env x op).x = x := rfl

theorem Leaving.tick {t : State} {n : Nat} (h : Leaving t n) : Leaving t.tick n := by
  rwa [Leaving, State.ctx_tick, State.core_tick]

/-- A context that issues holds a slot, is ACTIVE and is not stopped (R62, R65). -/
theorem issuing_ctx {s : State} {n : BitVec 16} {op : Op} (h : Ready s (.ctx n) op) :
    (s.ctx n.toNat).dir.state = .active ∧ (s.ctx n.toNat).slot ≠ none ∧ (s.ctx n.toNat).stopped = false := by
  obtain ⟨hcan, -⟩ := h
  simp only [canIssue, ctxIssues, Bool.and_eq_true, beq_iff_eq, Bool.not_eq_true', decide_eq_true_eq] at hcan
  obtain ⟨-, hact, hslot, -, hrun, -⟩ := hcan
  exact ⟨hact, Option.isSome_iff_ne_none.mp hslot, hrun⟩

/-! ### Targets of context instructions -/

theorem target_ok {e : Env} {s : State} {h : W} {m : Nat} {kill : Bool} {ok ok' : CState → Bool} (t : Targets s e.x h m ok)
    (hok : ok (s.ctx m).dir.state = true → ok' (s.ctx m).dir.state = true) : target e s h kill ok' = .ok m := by
  obtain ⟨-, htag, hm, hdev, hlt, hgen, hfree, howner, hworld, hstate, hself⟩ := t
  have hchk : chk e 0 h (h.tag == 0x007) = .ok () := chk_pass (whole_of_tag htag (by decide)) (beq_iff_eq.mpr htag)
  simp only [target, hchk, hm]
  simp [hdev, hgen, hfree, howner, hworld, hok hstate, hself, Nat.not_le.mpr hlt]

theorem onTarget_ok {s : State} {x : Exec} {op : Op} {rs : BitVec 5} {m : Nat} {kill : Bool} {ok ok' : CState → Bool} {f : Env → Nat → M Go}
    (t : Targets s x (xreg s x rs) m ok) (hok : ok (s.ctx m).dir.state = true → ok' (s.ctx m).dir.state = true) :
    onTarget rs kill ok' f (env x op) s = f (env x op) m s := by
  have hsup : needSup (env x op) s = .ok () := needSup_ok t.1
  have htarget : target (env x op) s (xreg s x rs) kill ok' = .ok m := target_ok (e := env x op) t hok
  simp only [onTarget, get_bind, env_x, chkM_bind_ok hsup, chkM_bind_ok htarget]

theorem ctxholdBody_ok {s : State} {x : Exec} {rs : BitVec 5} {m : Nat} (t : Targets s x (xreg s x rs) m mayHold)
    (ha : appendsDone s m = true) (hw : atAck s m = false) :
    ctxholdBody rs (env x (.ctxhold rs)) s = (.ok .next, holdCtx s m) := by
  rw [ctxholdBody, onTarget_ok t id, get_bind, if_pos (by rw [ha, hw]; rfl)]
  rfl

theorem ctxrelBody_ok {s : State} {x : Exec} {rs : BitVec 5} {m : Nat} (t : Targets s x (xreg s x rs) m isHeld) :
    ctxrelBody rs (env x (.ctxrel rs)) s = (.ok .next, releaseCtx s m) := by
  rw [ctxrelBody, onTarget_ok t id]
  rfl

theorem ctxkillBody_ok {s : State} {x : Exec} {rs : BitVec 5} {m : Nat} (t : Targets s x (xreg s x rs) m mayKill) (hw : atAck s m = false) :
    ctxkillBody rs (env x (.ctxkill rs)) s = (.ok .next, killCtx s m) := by
  rw [ctxkillBody, onTarget_ok t id, get_bind, if_neg (by rw [hw]; decide)]
  rfl

theorem ctxendBody_ok {s : State} {n : BitVec 16} (hs : xsup s (.ctx n) = true) (hg : (s.ctx n.toNat).r.gateOpen = false)
    (hf : (s.ctx n.toNat).sfault = none) :
    ctxendBody (env (.ctx n) .ctxend) s = (.ok .done, killCtx (commitX s (.ctx n)) n.toNat) := by
  have hsup : xsup s (env (.ctx n) .ctxend).x = true := hs
  rw [ctxendBody, get_bind, chkM_bind_ok (needSup_ok hsup)]
  change (if (s.ctx n.toNat).r.gateOpen = true then _ else if (s.ctx n.toNat).sfault.isSome = true then _ else _ : M Go) s = _
  rw [hg, hf]
  rfl

/-! ### SPAWN -/

/-- Where SPAWN finds a record: the core exists, its tile is live, and it has a FREE record outside the pool (R57, R78). -/
def spawnAt (s : State) (core : Nat) : Option Nat :=
  if 256 ≤ core then none else if (s.tile (tileOf core)).dead then none else freeRecord s core

/-- A fresh context at User level (R78). -/
theorem freshCtx_user (gen : BitVec 16) (owner : World) (prio : BitVec 2) (space : BitVec 12) (pc : BitVec 59) (pkr : BitVec 64) :
    freshCtx gen owner prio false space pc pkr = {
      dir := { state := .held, heldFrom := .ready, gen := gen, owner := owner, prio := prio },
      r := { pc := pc, pkr := pkr, vwc := 1, ctxStat := BitVec.ofNat 32 (owner.num + 4 * space.toNat) } } := by
  simp [freshCtx, b2n]

/-- What SPAWN of context n leaves, by the record it found: the handle of a fresh context, or NIL (R78). -/
def spawned (s : State) (n : BitVec 16) (rd : BitVec 5) (pc : BitVec 59) : Option Nat → State
  | none => setXreg s (.ctx n) rd nilW
  | some k =>
    let me := s.ctx n.toNat
    setXreg (s.setCtx k (freshCtx (s.ctx k).dir.gen me.r.world me.dir.prio false me.r.space pc me.r.pkr)) (.ctx n) rd (handleOf s k (s.ctx k).dir.gen)

theorem spawnBody_ctx {s : State} {n : BitVec 16} {rd rs rt : BitVec 5} (hs : xsup s (.ctx n) = true) (ha : IsFix (xreg s (.ctx n) rs))
    (hb : (xreg s (.ctx n) rt).tag = 0x108 ∨ (xreg s (.ctx n) rt).tag = 0x006) (hpc : (vaOf (xreg s (.ctx n) rt)).toNat % 4 = 0) :
    spawnBody rd rs rt (env (.ctx n) (.spawn rd rs rt)) s =
      (.ok .next, spawned s n rd (vaOf (xreg s (.ctx n) rt)) (spawnAt s (xreg s (.ctx n) rs).payload.toNat)) := by
  have hsup : needSup (env (.ctx n) (.spawn rd rs rt)) s = .ok () := needSup_ok hs
  have hfix : chk (env (.ctx n) (.spawn rd rs rt)) 0 (xreg s (.ctx n) rs) ((xreg s (.ctx n) rs).tag == 0x001) = .ok () := chk_fix ha
  have hcode : chk (env (.ctx n) (.spawn rd rs rt)) 1 (xreg s (.ctx n) rt)
      ((xreg s (.ctx n) rt).tag == 0x108 || (xreg s (.ctx n) rt).tag == 0x006) = .ok () := by
    refine chk_pass ?_ (by simpa using hb)
    rcases hb with h | h
    · exact whole_of_tag h (by decide)
    · exact whole_of_tag h (by decide)
  simp only [spawnBody, get_bind, env_x, chkM_bind_ok hsup, chkM_bind_ok hfix, chkM_bind_ok hcode, hpc, ne_eq, not_true_eq_false, if_false]
  change (match spawnAt s (xreg s (.ctx n) rs).payload.toNat with | none => _ | some k => _ : M Go) s = _
  cases spawnAt s (xreg s (.ctx n) rs).payload.toNat <;> rfl

end Sys2Proof.Claims

open Sys2Proof Sys2Proof.Machine Sys2Proof.Claims

/-- Settles O34: a permitted target passes the checks of R79, so each body is the context operation that its instruction names. -/
theorem contextInstructions : Obligations.ContextInstructions := by
  intro s n m k rd rs rt x a b me
  refine ⟨fun hr hs ha hb hpc hlt hlive hfree => ?_, fun hr hs ha hb hpc hnone => ?_, fun hr ht happ hack => ⟨?_, ?_, ?_, ?_, ?_⟩,
    fun hr ht => ⟨?_, ?_, ?_⟩, fun hr ht hack => ⟨?_, ?_, ?_, ?_, ?_⟩, fun hr hs hg hf => ?_⟩
  · have hat : spawnAt s a.payload.toNat = some k := by simp [spawnAt, Nat.not_le.mpr hlt, hlive, hfree]
    have hbody := spawnBody_ctx (rd := rd) hs ha hb hpc
    rw [hat] at hbody
    exact congrArg Host.Outcome.next ((issue_next hr hbody).trans (by rw [spawned, freshCtx_user]; rfl))
  · have hat : spawnAt s a.payload.toNat = none := by
      unfold spawnAt
      rcases hnone with h | h | h
      · rw [if_pos h]
      · simp [h]
      · simp [h]
    have hbody := spawnBody_ctx (rd := rd) hs ha hb hpc
    rw [hat] at hbody
    exact result_of hr rfl hbody
  · exact congrArg Host.Outcome.next (issue_next hr (ctxholdBody_ok ht happ hack))
  · exact holdCtx_state s m
  · exact leaving_holdCtx s m
  · exact fun h => holdCtx_heldFrom s m h nofun
  · exact fun h => holdCtx_heldFrom s m h nofun
  · exact congrArg Host.Outcome.next (issue_next hr (ctxrelBody_ok ht))
  · intro h
    simp [releaseCtx, h, ctx_makeReady_same]
  · intro h
    simp [releaseCtx, h]
  · exact congrArg Host.Outcome.next (issue_next hr (ctxkillBody_ok ht hack))
  · rw [ctx_killCtx_same]
  · rw [ctx_killCtx_same]
  · exact leaving_killCtx s m
  · rw [ctx_killCtx_same]
  · have hslot : ((commitX s x).ctx n.toNat).slot ≠ none := by
      rw [ctx_commitX_same]
      exact (issuing_ctx hr).2.1
    refine ⟨_, congrArg Host.Outcome.next (issue_done hr (ctxendBody_ok hs hg hf)), ?_, ?_, ?_, fun j hj => ?_⟩
    · rw [State.ctx_tick, ctx_killCtx_same]
    · rw [State.ctx_tick, ctx_killCtx_same, ctx_commitX_same]; rfl
    · exact (leaving_killCtx _ _ hslot).tick
    · rw [State.ctx_tick, ctx_killCtx_ne _ _ hj, ctx_commitX_ne _ _ _ hj]
end

section
/-! PROOFS. What the fault log, interrupts, doorbells and the end of waits leave alone. A property of states that survives a
change outside contexts and cores, a change of a core that keeps its substitution, and a change of a context that keeps its
record, its slot and that it is ACTIVE, survives each of these, and so a translation (R204) whatever errors its table reads meet. -/

namespace Sys2Proof.Claims

open Sys2Proof.Machine

/-- A context keeps its record, its slot and whether it is stopped, and stays ACTIVE if it was. -/
structure Undisturbed (c d : Ctx) : Prop where
  r : d.r = c.r
  slot : d.slot = c.slot
  stopped : d.stopped = c.stopped
  active : c.dir.state = .active → d.dir.state = .active

theorem Undisturbed.refl (c : Ctx) : Undisturbed c c := ⟨rfl, rfl, rfl, id⟩

theorem Undisturbed.trans {a b c : Ctx} (h : Undisturbed a b) (g : Undisturbed b c) : Undisturbed a c :=
  ⟨g.r.trans h.r, g.slot.trans h.slot, g.stopped.trans h.stopped, fun e => g.active (h.active e)⟩

theorem undisturbed_setCtxReg (c : Ctx) (r : Nat) (v : W) : Undisturbed c (setCtxReg c r v) :=
  ⟨setCtxReg_r c r v, setCtxReg_slot c r v, by rw [setCtxReg_eq], fun h => by rw [setCtxReg_dir]; exact h⟩

/-- A property that a change outside contexts and cores, of a core but for `subst`, and of a context that is not disturbed
cannot break. -/
structure Robust (P : State → Prop) : Prop where
  outside : ∀ {s t : State}, P s → t.ctxs = s.ctxs → t.cores = s.cores → P t
  setCore : ∀ {s : State} {k : Nat} {c : Core}, c.subst = (s.core k).subst → P s → P (s.setCore k c)
  setCtx : ∀ {s : State} {n : Nat} {c : Ctx}, Undisturbed (s.ctx n) c → P s → P (s.setCtx n c)

/-- That a core's slots are stopped for a substitution or not. -/
theorem robust_subst (k : Nat) (b : Bool) : Robust fun s => (s.core k).subst = b where
  outside h _ hc := by rw [State.core_congr hc]; exact h
  setCore {s j c} he h := by
    by_cases hj : k = j
    · subst hj; rw [State.core_setCore_same, he]; exact h
    · rw [State.core_setCore_ne _ _ hj]; exact h
  setCtx _ h := h

/-- That a context is where it was. -/
theorem robust_undisturbed (n : Nat) (c : Ctx) : Robust fun s => Undisturbed c (s.ctx n) where
  outside h hx _ := by rw [State.ctx_congr hx]; exact h
  setCore _ h := h
  setCtx {s m d} he h := by
    by_cases hm : n = m
    · subst hm; rw [State.ctx_setCtx_same]; exact h.trans he
    · rw [State.ctx_setCtx_ne _ _ hm]; exact h

theorem keep_ite {P : State → Prop} {p : Prop} [Decidable p] {s t : State} (hs : P s) (ht : P t) : P (if p then s else t) := by
  split <;> assumption

theorem keep_ite_snd {P : State → Prop} {α : Type} {p : Prop} [Decidable p] {r q : α × State} (hr : P r.2) (hq : P q.2) :
    P (if p then r else q).2 := by
  split <;> assumption

theorem keep_foldl {P : State → Prop} {α : Type} {f : State → α → State} (hf : ∀ s a, P s → P (f s a)) :
    ∀ (l : List α) {s : State}, P s → P (l.foldl f s)
  | [], _, h => h
  | a :: l, _, h => keep_foldl hf l (hf _ a h)

/-- A part of a body keeps a property, whether it answers or stops. -/
def Carries {α : Type} (P : State → Prop) (m : M α) : Prop := ∀ s, P s → P (m s).2

theorem Carries.bind {P : State → Prop} {α β : Type} {m : M α} {f : α → M β} (hm : Carries P m) (hf : ∀ a, Carries P (f a)) :
    Carries P (m >>= f) := by
  intro s h
  have ht := hm s h
  rcases e : m s with ⟨_ | a, t⟩
  · rw [bind_error e]; rwa [e] at ht
  · rw [bind_ok e]; rw [e] at ht; exact hf a t ht

/-! ### Waking the device touches the management plane alone -/

@[simp] theorem beginTrans_ctxs (s : State) (m b : Mode) : (beginTrans s m b).ctxs = s.ctxs := by unfold beginTrans; split <;> rfl
@[simp] theorem beginTrans_cores (s : State) (m b : Mode) : (beginTrans s m b).cores = s.cores := by unfold beginTrans; split <;> rfl
@[simp] theorem beginTrans_tiles (s : State) (m b : Mode) : (beginTrans s m b).tiles = s.tiles := by unfold beginTrans; split <;> rfl
@[simp] theorem wakeDevice_ctxs (s : State) : (wakeDevice s).ctxs = s.ctxs := by unfold wakeDevice; split <;> split_ifs <;> simp
@[simp] theorem wakeDevice_cores (s : State) : (wakeDevice s).cores = s.cores := by unfold wakeDevice; split <;> split_ifs <;> simp
@[simp] theorem wakeDevice_tiles (s : State) : (wakeDevice s).tiles = s.tiles := by unfold wakeDevice; split <;> split_ifs <;> simp

section
variable {P : State → Prop} (hP : Robust P) {s : State}
include hP

/-! ### Doorbells, interrupts and the fault log -/

theorem Robust.modCore {k : Nat} {f : Core → Core} (hf : ∀ c, (f c).subst = c.subst) (h : P s) : P (s.modCore k f) := hP.setCore (hf _) h
theorem Robust.modCtx {n : Nat} {f : Ctx → Ctx} (hf : Undisturbed (s.ctx n) (f (s.ctx n))) (h : P s) : P (s.modCtx n f) := hP.setCtx hf h

theorem Robust.wakeDevice (h : P s) : P (wakeDevice s) := by
  exact hP.outside h (wakeDevice_ctxs s) (wakeDevice_cores s)

theorem Robust.wakeTile (t : Nat) (h : P s) : P (wakeTile s t) := keep_ite (hP.outside h rfl rfl) h

theorem Robust.makeReady {n : Nat} (hn : (s.ctx n).dir.state ≠ .active) (h : P s) : P (makeReady s n) :=
  hP.wakeTile _ (hP.modCore (fun _ => fillSlot_subst _) (hP.modCtx ⟨rfl, rfl, rfl, fun e => absurd e hn⟩ h))

theorem Robust.endWait (n : Nat) (h : P s) : P (endWait s n) := by
  unfold Machine.endWait
  extract_lets c _ s1
  have h1 : P s1 := hP.setCtx ⟨rfl, rfl, rfl, id⟩ h
  have hc : (s1.ctx n).dir.state = c.dir.state := by rw [State.ctx_setCtx_same]
  split
  · next e => exact hP.makeReady (by rw [hc, e]; decide) h1
  · next e => exact hP.makeReady (by rw [hc, e]; decide) h1
  · exact hP.modCtx ⟨rfl, rfl, rfl, id⟩ h1
  · exact hP.modCore (fun _ => rfl) h1
  · exact h1

theorem Robust.ringBits (n : Nat) (ev : BitVec 16) (h : P s) : P (ringBits s n ev) := by
  unfold Machine.ringBits
  extract_lets c s1 s2 all hit _ c1
  have h1 : P s1 := hP.wakeDevice h
  have h2 : P s2 := hP.wakeTile _ h1
  have hc : s2.ctx n = c := by
    rw [ctx_wakeTile, State.ctx_congr (wakeDevice_ctxs s)]
  refine keep_ite (hP.outside h1 rfl rfl) (keep_ite ?_ (keep_ite (hP.endWait n (hP.setCtx ?_ h2)) (hP.setCtx ?_ h2)))
  · split
    · exact keep_ite (hP.outside h1 (by simp [forwardDoorbell, sendMsg]) (by simp [forwardDoorbell, sendMsg]))
        (hP.outside h1 (by simp [forwardDoorbell, sendMsg]) (by simp [forwardDoorbell, sendMsg]))
    · exact hP.outside h1 rfl rfl
  · rw [hc]
    exact Undisturbed.trans (b := { c with dir := { c.dir with events := all &&& ~~~hit } }) ⟨rfl, rfl, rfl, id⟩ (undisturbed_setCtxReg _ _ _)
  · rw [hc]
    exact ⟨rfl, rfl, rfl, id⟩

theorem Robust.pendFic (k src : Nat) (v : BitVec 64) (h : P s) : P (pendFic s k src v) := hP.wakeTile _ (hP.modCore (fun _ => rfl) h)

theorem Robust.signal (src : Nat) (v : BitVec 64) (h : P s) : P (signal s src v) := by
  have h1 := hP.wakeDevice h
  have hseq : ∀ k ev, P (seqEvent (Machine.wakeDevice s) k ev) := fun k ev => by
    unfold seqEvent
    extract_lets q all
    split
    · exact keep_ite (hP.outside h1 rfl rfl) (hP.outside h1 rfl rfl)
    · exact hP.outside h1 rfl rfl
  exact keep_ite (keep_ite (hP.pendFic _ _ _ h1) h1) (keep_ite (keep_ite (hseq _ _) (hP.ringBits _ _ h1)) h1)

theorem Robust.logFault (cls react unit site : Nat) (addr : BitVec 64) (detail : List (BitVec 8)) (h : P s) :
    P (logFault s cls react unit site addr detail) := by
  unfold Machine.logFault
  extract_lets r full s1 s2 _ s3
  have h1 : P s1 := hP.outside h rfl rfl
  have h2 : P s2 := keep_ite (hP.outside h1 rfl rfl) h1
  have h4 := hP.signal 0xA1 (BitVec.ofNat 64 (r.seq.toNat + 2 ^ 32 * cls)) (hP.outside (t := s3) h2 rfl rfl)
  exact keep_ite (hP.outside h4 rfl rfl) (hP.outside h4 rfl rfl)

theorem Robust.countEvent (k : Nat) (who : Option (World × Bool × Nat)) (ev : Nat) (h : P s) : P (countEvent s k who ev) := by
  have hone : ∀ (t : State) (j : Nat), P t → P (countOne k who ev t j) := fun t j ht =>
    keep_ite (keep_ite (hP.pendFic _ _ _ (hP.setCore rfl ht)) (hP.setCore rfl ht)) ht
  exact keep_ite h (keep_foldl hone _ h)
end

end Sys2Proof.Claims
end

section
/-! PROOFS. What reads of memory, the caches and a translation leave alone: a robust property, whatever errors they meet. -/

namespace Sys2Proof.Claims

open Sys2Proof.Machine

section
variable {P : State → Prop} (hP : Robust P) {s : State}
include hP

/-! ### Codewords: what a read of memory may set off -/

theorem Robust.mcEvent (mc bit : Nat) (h : P s) : P (mcEvent s mc bit) :=
  keep_ite (hP.signal _ _ (hP.outside h rfl rfl)) (hP.outside h rfl rfl)

theorem Robust.setUnit (mc unit : Nat) (st : UnitSt) (clear : Bool) (h : P s) : P (setUnit s mc unit st clear) :=
  hP.mcEvent _ _ (hP.outside h rfl rfl)

theorem Robust.toDegraded (h : P s) : P (toDegraded s) := by
  unfold Machine.toDegraded
  split
  · exact hP.outside h (beginTrans_ctxs _ _ _) (beginTrans_cores _ _ _)
  · exact hP.outside h rfl rfl
  · exact hP.outside h rfl rfl
  · exact hP.outside h rfl rfl
  · exact h

theorem Robust.spareExhausted (bit unit : Nat) (h : P s) : P (spareExhausted s bit unit) :=
  hP.toDegraded (hP.logFault _ _ _ _ _ _ (hP.outside h rfl rfl))

theorem Robust.retireGroup (mc group : Nat) (h : P s) : P (retireGroup s mc group) := by
  have hset : P (setGroupSt s mc group .retiring) := hP.mcEvent _ _ (hP.outside h rfl rfl)
  exact keep_ite (keep_ite (keep_ite (keep_ite (hP.spareExhausted _ _ hset) (hP.outside hset rfl rfl)) (hP.spareExhausted _ _ hset)) h) h

theorem Robust.countUnit (p : Place) (u : Nat) (h : P s) : P (countUnit s p u) := by
  have hcount := hP.outside (t := s.setMc p.mc { s.mc p.mc with
    counts := tset (s.mc p.mc).counts (unitKey (decide (p.mc < 8)) p.group u)
      (tgetD (s.mc p.mc).counts (unitKey (decide (p.mc < 8)) p.group u) 0 + 1) }) h rfl rfl
  exact keep_ite (hP.setUnit _ _ _ _ (hP.outside hcount rfl rfl)) hcount

theorem Robust.corrected (p : Place) (fixes : List (Nat × BitVec 16)) (h : P s) : P (corrected s p fixes) :=
  keep_foldl (fun _ _ ht => hP.countUnit _ _ ht) _ (hP.outside h rfl rfl)

theorem Robust.applyErr (pair : Nat) (e : Err) (h : P s) : P (applyErr s pair e) := keep_ite h (hP.outside h rfl rfl)

theorem Robust.uncorrected (p : Place) (lpa : Nat) (h : P s) : P (uncorrected s p lpa) :=
  hP.mcEvent _ _ (hP.outside (hP.logFault _ _ _ _ _ _ h) rfl rfl)

theorem Robust.countUe (p : Place) (pair : Nat) (h : P s) : P (countUe s p pair) := hP.retireGroup _ _ (hP.outside h rfl rfl)

theorem Robust.injectPair (pair : Nat) (h : P s) : P (injectPair s pair) := by
  unfold Machine.injectPair
  extract_lets p _
  split
  · exact h
  · exact hP.outside h rfl rfl

theorem Robust.readPair (pair : Nat) (h : P s) : P (readPair s pair) := by
  unfold Machine.readPair
  extract_lets s1 p er ev s2 _ s3
  have h1 : P s1 := hP.injectPair _ h
  have hline : ∀ {t : State} (line : Nat), P t → P (replaceLine t p line ev) := fun line ht => by
    unfold replaceLine
    split <;> exact hP.outside ht rfl rfl
  have h3 : P s3 := hP.outside (hline _ (hline _ h1)) rfl rfl
  split
  · exact h1
  · split
    · next res fixes _ =>
      extract_lets s4 _
      have h4 : P s4 := hP.applyErr _ _ (keep_ite h1 (hP.corrected _ _ h1))
      exact hP.outside h4 rfl rfl
    · exact hP.countUe _ _ (hP.uncorrected _ _ h3)

theorem Robust.recompare (line : Nat) (h : P s) : P (recompare s line) := by
  refine keep_foldl (fun t e ht => ?_) s.ctxs h
  split
  · exact keep_ite (hP.endWait _ (hP.modCtx (undisturbed_setCtxReg _ _ _) ht)) ht
  · exact ht

theorem Robust.storeLine (line : Nat) (l : Line) (h : P s) : P (storeLine s line l) :=
  hP.recompare _ (hP.outside (hP.readPair (line / 2) h) rfl rfl)

/-! ### Lines of the caches -/

theorem Robust.post (m : Msg) (h : P s) : P (post s m) := hP.wakeTile _ (hP.outside h rfl rfl)

theorem Robust.l1dError (core line : Nat) (word : Option Nat) (h : P s) : P (l1dError s core line word).1 := by
  unfold Machine.l1dError
  split
  · exact h
  · split
    · exact h
    · extract_lets _ s1 lost shared s2
      have h1 : P s1 := hP.outside h rfl rfl
      have h2 : P s2 := hP.logFault _ _ _ _ _ _ h1
      split_ifs
      · exact hP.outside h1 rfl rfl
      · dsimp only
        exact hP.modCore (fun _ => rfl) h2
      · exact h2

theorem Robust.evictL1 (core : Nat) (who : Option (World × Bool × Nat)) (line : Nat) (h : P s) : P (evictL1 s core who line) := by
  unfold Machine.evictL1
  extract_lets s1
  have h1 : P s1 := by
    unfold s1
    split
    · exact keep_ite (hP.l1dError _ _ _ h) h
    · exact h
  split
  · exact h1
  · extract_lets dirty s2 s3
    have h2 : P s2 := hP.modCore (fun _ => rfl) h1
    have h3 : P s3 := keep_ite (hP.countEvent _ _ _ h2) h2
    exact hP.post _ h3

theorem Robust.makeRoom {core : Nat} {who : Option (World × Bool × Nat)} {line : Nat} {t : State} (h : P s)
    (e : makeRoom s core who line = some t) : P t := by
  unfold Machine.makeRoom at e
  dsimp only at e
  split_ifs at e
  · cases e; exact h
  · split at e
    · cases e; exact hP.evictL1 _ _ _ h
    · cases e

theorem Robust.l1dHit (core : Nat) (who : Option (World × Bool × Nat)) (line : Nat) (word : Option Nat) (h : P s) :
    P (l1dHit s core who line word).2 := by
  have herr := hP.l1dError core line word h
  unfold Machine.l1dHit
  split_ifs
  · exact h
  · exact h
  · split
    · next e => rw [e] at herr; exact hP.evictL1 _ _ _ herr
    · next e => rw [e] at herr; exact herr

theorem Robust.l2Evict (tile line : Nat) (h : P s) : P (l2Evict s tile line) := by
  unfold Machine.l2Evict
  extract_lets t s1
  have h1 : P s1 := hP.outside h rfl rfl
  split
  · exact h
  · split
    · exact hP.post _ (hP.modCore (fun _ => by split <;> rfl) h1)
    · exact keep_ite (hP.storeLine _ _ h1) h1

theorem Robust.injectL2 (tile line : Nat) (h : P s) : P (injectL2 s tile line) := by
  unfold Machine.injectL2
  split
  · exact h
  · split
    · exact h
    · extract_lets _ s1 lost s2
      have h1 : P s1 := hP.outside h rfl rfl
      have h2 : P s2 := hP.logFault _ _ _ _ _ _ h1
      exact keep_ite (hP.outside h1 rfl rfl) (keep_ite (hP.l2Evict _ _ h2) (keep_ite (hP.outside h2 rfl rfl)
        (keep_ite h2 (hP.recompare _ (hP.outside h2 rfl rfl)))))

theorem Robust.takeStash {core : Nat} {who : Option (World × Bool × Nat)} {line : Nat} {t : State} (h : P s)
    (e : takeStash s core who line = some t) : P t := by
  unfold Machine.takeStash at e
  dsimp only at e
  split at e
  · split_ifs at e
    obtain ⟨u, hu, rfl⟩ := Option.map_eq_some_iff.mp e
    exact hP.modCore (fun _ => rfl) (hP.outside (hP.makeRoom (hP.injectL2 _ _ h) hu) rfl rfl)
  · cases e

/-! ### Translations -/

theorem Robust.cacheWord (e : Env) (key mt : Nat) (na walk : Bool) : Carries P (cacheWord e key mt na walk) := by
  intro s h
  unfold Machine.cacheWord
  extract_lets core c line own got need
  have hgot : ∀ t w, P t → P (got t w).2 := fun _ _ ht => ht
  have hneed : ∀ n, P (need n).2 := fun _ => h
  refine keep_ite_snd (hneed _) (keep_ite_snd (hgot _ _ h) ?_)
  split
  · exact hgot _ _ h
  · split
    · exact hgot _ _ h
    · refine keep_ite_snd (hneed _) (keep_ite_snd (hneed _) ?_)
      split
      · refine keep_ite_snd ?_ (hneed _)
        have hhit := hP.l1dHit core (whoOf s e.x) line (some (key % 8)) h
        split
        · next eq => rw [eq] at hhit; exact hgot _ _ hhit
        · exact hneed _
        · exact hneed _
      · split
        · next eq => exact hgot _ _ (hP.takeStash h eq)
        · exact hneed _

theorem Robust.tlbInstall (a : Option Nat) (e : TlbEntry) (h : P s) : P (tlbInstall s a e) := by
  unfold Machine.tlbInstall
  split
  · exact h
  · exact hP.outside h rfl rfl

theorem Robust.walkLevels {rd : Reader} (hrd : ∀ k, Carries P (rd k)) (t : TCtx) (va : BitVec 59) (addr n : Nat) :
    ∀ (fuel l tab : Nat) (dev : Bool) {s : State}, P s → P (walkLevels rd t va addr n fuel l tab dev s).2
  | 0, _, _, _, _, h => h
  | fuel + 1, l, tab, dev, s, h => by
    have hnext := Robust.walkLevels hrd t va addr n fuel
    rw [Machine.walkLevels]
    refine keep_ite_snd h (keep_ite_snd h ?_)
    split
    · exact hnext _ _ _ h
    · have hread := hrd (tab + 8 * (addr / 2 ^ (12 + 9 * (n - l)) % 512)) s h
      split
      · next e => rw [e] at hread; exact hread
      · next e =>
        rw [e] at hread
        split
        · exact hread
        · exact keep_ite_snd hread (keep_ite_snd hread (keep_ite_snd (keep_ite (hP.tlbInstall _ _ hread) hread)
            (hnext _ _ _ (hP.tlbInstall _ _ hread))))

theorem Robust.walkRoot {rd : Reader} (hrd : ∀ k, Carries P (rd k)) (t : TCtx) (va : BitVec 59) (addr rootLpa : Nat) :
    Carries P (walkRoot rd t va addr rootLpa) := by
  intro s h
  unfold Machine.walkRoot
  extract_lets go
  have hgo : ∀ r t, P t → P (go r t).2 := fun _ _ ht => keep_ite_snd ht (keep_ite_snd ht
    (keep_ite_snd ht (hP.walkLevels hrd _ _ _ _ _ _ _ _ ht)))
  split
  · exact hgo _ _ h
  · have hread := hrd rootLpa s h
    split
    · next e => rw [e] at hread; exact hread
    · next e =>
      rw [e] at hread
      split
      · exact hread
      · exact hgo _ _ (keep_ite (hP.tlbInstall _ _ hread) hread)

theorem Robust.walkPrivate {rd : Reader} (hrd : ∀ k, Carries P (rd k)) (t : TCtx) (va : BitVec 59) : Carries P (walkPrivate rd t va) := by
  intro s h
  unfold Machine.walkPrivate
  refine keep_ite_snd h ?_
  split
  · exact h
  · split
    · exact h
    · exact hP.walkRoot hrd _ _ _ _ s h

theorem Robust.countXlate (x : Exec) (t : TCtx) (page : Nat) (h : P s) : P (countXlate s x t page) := by
  unfold Machine.countXlate
  refine keep_ite h ?_
  extract_lets held s1
  have h1 : P s1 := keep_ite h (hP.countEvent _ _ _ h)
  exact keep_ite h1 (hP.countEvent _ _ _ h1)

theorem Robust.translateAs (e : Env) (t : TCtx) (va : BitVec 59) (size : Nat) (v : Option (BitVec 64)) (pre : Leaf → Res Unit) :
    Carries P (translateAs e t va size v pre) := by
  have hchk : ∀ {α : Type} (r : Res α), Carries P (chkM r) := fun r t ht => by cases r <;> exact ht
  unfold Machine.translateAs
  split
  · exact fun _ h => h
  · refine Carries.bind (fun _ h => hP.countXlate _ _ _ h) fun _ =>
      Carries.bind (fun _ h => hP.walkPrivate (fun _ => hP.cacheWord _ _ _ _ _) _ _ _ h) fun l u h => ?_
    rw [get_bind]
    exact Carries.bind (hchk _) (fun _ => Carries.bind (hchk _) fun _ => hchk _) u h

theorem Robust.translate (e : Env) (acc : Nat) (va : BitVec 59) (size : Nat) (v : Option (BitVec 64)) :
    Carries P (translate e acc va size v) := by
  intro s h
  rw [Machine.translate, get_bind]
  exact hP.translateAs _ _ _ _ _ _ s h

end
end Sys2Proof.Claims
end

section
/-! PROOFS. WAIT, WAIT.M, and the items of a record. -/

namespace Sys2Proof.Claims

open Sys2Proof.Machine

/-! ### Beginning to wait -/

/-- A context that issues and begins to wait is past its instruction, takes its wait and deadline, and issues nothing until the swap-out
that it queues (R72). -/
theorem beginWait_waits {s : State} {n : BitVec 16} {k : Nat} (wait : Nat) (rd : BitVec 5) (d : BitVec 32) (st : CState)
    (hact : (s.ctx n.toNat).dir.state = .active) (hrun : (s.ctx n.toNat).stopped = false) (hslot : (s.ctx n.toNat).slot = some k) :
    (beginWait s n.toNat wait rd d st).ctx n.toNat = { doneCtx (s.ctx n.toNat) ((s.ctx n.toNat).r.pc + 4) with
      waitRd := rd, stopped := true, dir := { (s.ctx n.toNat).dir with wait := BitVec.ofNat 3 wait, deadline := d } } ∧
    ((beginWait s n.toNat wait rd d st).core (coreOf n.toNat)).swaps =
      (s.core (coreOf n.toNat)).swaps ++ [{ slot := k, out := some n.toNat, goal := st }] := by
  obtain ⟨v, he, hv, hswaps⟩ : ∃ v, beginWait s n.toNat wait rd d st = queueSwap v n.toNat st ∧
      v.ctx n.toNat = { doneCtx (s.ctx n.toNat) ((s.ctx n.toNat).r.pc + 4) with
        waitRd := rd, dir := { (s.ctx n.toNat).dir with wait := BitVec.ofNat 3 wait, deadline := d } } ∧
      (v.core (coreOf n.toNat)).swaps = (s.core (coreOf n.toNat)).swaps := by
    simp only [beginWait, BitVec.ofNat_toNat, BitVec.setWidth_eq, State.ctx_modCtx_same, ctx_commitX_same, doneCtx]
    rw [if_pos ⟨hact, hrun⟩]
    refine ⟨_, rfl, ?_, ?_⟩
    · split <;> simp [ctx_commitX_same, doneCtx]
    · split <;> simp
  have hs : (v.ctx n.toNat).slot = some k := by rw [hv]; exact hslot
  rw [he, ctx_queueSwap_same st hs, queueSwap_swaps st hs, hv, hswaps]
  exact ⟨rfl, rfl⟩

/-! ### The operands and the word of WAIT.M -/

theorem putRd_eq (e : Env) (rd : BitVec 5) (w : W) (s : State) : putRd e rd w s = (.ok .next, setXreg s e.x rd w) := rfl

theorem effective_ok {s : State} {x : Exec} {op : Op} {rs : BitVec 5} (off : BitVec 64) (h : Base s x (xreg s x rs)) :
    effective (env x op) rs off s = (.ok (addOff (vaOf (xreg s x rs)) off), s) := by
  obtain ⟨hw, hb⟩ := h
  have hok : (isPtr (xreg s x rs) || (xsup s x && ((xreg s x rs).tag == 0x300 || (xreg s x rs).tag == 0x006))) = true := by
    simpa using hb
  have hbase : baseOf (env x op) s 0 (xreg s x rs) = .ok (vaOf (xreg s x rs)) := by
    simp only [baseOf, env_x, chk_pass hw hok]
    rfl
  rw [effective, get_bind]
  exact chkM_bind_ok hbase _ _

/-- A load of a word of write-back memory whose line the core holds answers at once and changes nothing. -/
theorem cacheWord_held {t : State} {x : Exec} {op : Op} {key : Nat} {h : L1Line} (hh : Held t x key h) (hit : h.st.hit = true) (na walk : Bool) :
    cacheWord (env x op) key 0 na walk t = (.ok (lineWord h.data key), t) := by
  obtain ⟨hown, hbehind, hbyp, htag, harm, hline⟩ := hh
  simp [cacheWord, env, hown, hbehind, hbyp, htag, hline, hit, recovering, l1dHit, harm, forwarded, tget, tgetD]

/-! ### The bodies of WAIT and WAIT.M -/

section
variable {s : State} {n : BitVec 16} {rd rs rt : BitVec 5}

/-- Events that match the mask are taken at once (R72). -/
theorem waitBody_takes (ha : IsFix (xreg s (.ctx n) rs)) (hb : IsFix (xreg s (.ctx n) rt))
    (hhit : (s.ctx n.toNat).dir.events &&& (xreg s (.ctx n) rs).payload.extractLsb' 0 16 ≠ 0) :
    waitBody rd rs rt (env (.ctx n) (.wait rd rs rt)) s =
      (.ok .next, setXreg (s.modCtx n.toNat fun c => { c with dir := { c.dir with
        events := c.dir.events &&& ~~~((s.ctx n.toNat).dir.events &&& (xreg s (.ctx n) rs).payload.extractLsb' 0 16) } }) (.ctx n) rd
        (fixW ((s.ctx n.toNat).dir.events &&& (xreg s (.ctx n) rs).payload.extractLsb' 0 16).toNat)) := by
  have hfa : chk (env (.ctx n) (.wait rd rs rt)) 0 (xreg s (.ctx n) rs) ((xreg s (.ctx n) rs).tag == 0x001) = .ok () := chk_fix ha
  have hfb : chk (env (.ctx n) (.wait rd rs rt)) 1 (xreg s (.ctx n) rt) ((xreg s (.ctx n) rt).tag == 0x001) = .ok () := chk_fix hb
  simp only [waitBody, get_bind, env_x, chkM_bind_ok hfa, chkM_bind_ok hfb]
  exact congrFun (if_pos hhit) s

/-- With no matching event the context begins to wait (R72). -/
theorem waitBody_waits (ha : IsFix (xreg s (.ctx n) rs)) (hb : IsFix (xreg s (.ctx n) rt))
    (hhit : (s.ctx n.toNat).dir.events &&& (xreg s (.ctx n) rs).payload.extractLsb' 0 16 = 0) :
    waitBody rd rs rt (env (.ctx n) (.wait rd rs rt)) s =
      (.ok .done, beginWait (s.modCtx n.toNat fun c => { c with dir := { c.dir with mask := (xreg s (.ctx n) rs).payload.extractLsb' 0 16 } })
        n.toNat 4 rd ((xreg s (.ctx n) rt).payload.extractLsb' 0 32) .waitEvent) := by
  have hfa : chk (env (.ctx n) (.wait rd rs rt)) 0 (xreg s (.ctx n) rs) ((xreg s (.ctx n) rs).tag == 0x001) = .ok () := chk_fix ha
  have hfb : chk (env (.ctx n) (.wait rd rs rt)) 1 (xreg s (.ctx n) rt) ((xreg s (.ctx n) rt).tag == 0x001) = .ok () := chk_fix hb
  simp only [waitBody, get_bind, env_x, chkM_bind_ok hfa, chkM_bind_ok hfb]
  exact congrFun (if_neg (not_not_intro hhit)) s

variable {va : BitVec 59} (ha : Base s (.ctx n) (xreg s (.ctx n) rs)) (hva : addOff (vaOf (xreg s (.ctx n) rs)) 0 = va)
include ha hva

theorem waitMBody_global (hg : isGlobal va = true) (hal : va.toNat % 8 = 0) :
    waitMBody rd rs rt (env (.ctx n) (.waitM rd rs rt)) s = (.ok .next, setXreg s (.ctx n) rd (fixW 2)) := by
  have haligned : aligned (env (.ctx n) (.waitM rd rs rt)) va 8 0 = .ok () := if_pos hal
  rw [waitMBody, bind_ok (effective_ok 0 ha), hva, chkM_bind_ok haligned]
  exact congrFun (if_pos hg) s

/-- WAIT.M of a word whose line the core holds, once the translation left t: it answers 1 when the word differs, 2 when it agrees and
no monitor is free, and else begins to wait with a monitor (R74). -/
theorem waitMBody_held {t : State} {l : Leaf} {h : L1Line} (hm : Mapped (env (.ctx n) (.waitM rd rs rt)) s va 0 8 none l t)
    (hh : Held t (.ctx n) (l.lpa va / 8) h) (hit : h.st.hit = true) :
    waitMBody rd rs rt (env (.ctx n) (.waitM rd rs rt)) s =
      if lineWord h.data (l.lpa va / 8) ≠ xreg t (.ctx n) rt then (.ok .next, setXreg t (.ctx n) rd (fixW 1))
      else if 32 ≤ monitorsUsed t (xcore (.ctx n)) then (.ok .next, setXreg t (.ctx n) rd (fixW 2))
      else (.ok .done, beginWait (t.modCtx n.toNat fun c => { c with monitor := some (l.lpa va / 8, xreg t (.ctx n) rt) })
        n.toNat 5 rd ((t.ctx n.toNat).r.cnt.extractLsb' 0 32) .waitMem) := by
  obtain ⟨hg, hal, htr, hwatch, hmt, -⟩ := hm
  have haligned : aligned (env (.ctx n) (.waitM rd rs rt)) va 8 0 = .ok () := if_pos hal
  have hpriv : ¬ isGlobal va = true := by rw [hg]; decide
  have hwatch : watch t (.ctx n) va false = .ok () := hwatch
  have hcnt : BitVec.ofNat 32 (t.ctx n.toNat).r.cnt.toNat = (t.ctx n.toNat).r.cnt.extractLsb' 0 32 := by
    simp [BitVec.extractLsb']
  rw [waitMBody, bind_ok (effective_ok 0 ha), hva, chkM_bind_ok haligned]
  refine (congrFun (if_neg hpriv) s).trans ?_
  rw [bind_ok htr, get_bind, env_x, chkM_bind_ok hwatch]
  refine (congrFun (if_neg (not_not_intro hmt)) t).trans ?_
  rw [bind_ok (cacheWord_held hh hit _ _), get_bind]
  by_cases hw : lineWord h.data (l.lpa va / 8) = xreg t (.ctx n) rt
  · rw [if_neg (not_not_intro hw), if_neg (not_not_intro hw)]
    by_cases hfull : 32 ≤ monitorsUsed t (xcore (.ctx n))
    · rw [if_pos hfull]
      exact congrFun (if_pos hfull) t
    · rw [if_neg hfull, ← hcnt]
      exact congrFun (if_neg hfull) t
  · rw [if_pos hw, if_pos hw, putRd_eq, env_x]
end

/-! ### The items of a record -/

theorem ctxrdBody_ok {s : State} {x : Exec} {rd rs : BitVec 5} {sel : BitVec 12} {m : Nat} {ok : CState → Bool} (t : Targets s x (xreg s x rs) m ok)
    (hok : ok (s.ctx m).dir.state = true → 0x070 ≤ sel.toNat ∨ (s.ctx m).dir.state = .held ∨ (s.ctx m).dir.state = .lockup) :
    ctxrdBody rd rs sel (env x (.ctxrd rd rs sel)) s = (.ok .next, setXreg s x rd (itemRead (s.ctx m) sel.toNat)) := by
  rw [ctxrdBody, onTarget_ok t (by simpa using hok), get_bind]
  rfl

theorem ctxwrBody_ok {s : State} {x : Exec} {rd rs : BitVec 5} {sel : BitVec 12} {m : Nat} (t : Targets s x (xreg s x rs) m isHeld) :
    ctxwrBody rd rs sel (env x (.ctxwr rd rs sel)) s = (.ok .next, s.modCtx m fun c => itemWrite c sel.toNat (xreg s x rd)) := by
  rw [ctxwrBody, onTarget_ok t id]
  rfl

section
variable (c : Ctx) {sel : Nat} (w : W)

/-- A ring slot is read and written whole (R82). -/
theorem item_ring (h : sel < 0x040) : itemRead c sel = tgetD c.ring sel nilW ∧ itemRead (itemWrite c sel w) sel = w := by
  simp [itemRead, itemWrite, h]

/-- A global is read and written whole (R82). -/
theorem item_global (h : 0x040 ≤ sel) (h' : sel < 0x047) :
    itemRead c sel = tgetD c.g (sel - 0x040) nilW ∧ itemRead (itemWrite c sel w) sel = w := by
  simp [itemRead, itemWrite, h', Nat.not_lt.mpr h]

/-- A trap register is read and written whole (R82). -/
theorem item_trap (h : 0x048 ≤ sel) (h' : sel < 0x050) :
    itemRead c sel = tgetD c.trap (sel - 0x048) nilW ∧ itemRead (itemWrite c sel w) sel = w := by
  have h1 : ¬ sel < 0x040 := by omega
  have h2 : ¬ sel < 0x047 := by omega
  simp [itemRead, itemWrite, h, h', h1, h2]
end

end Sys2Proof.Claims

open Sys2Proof Sys2Proof.Machine Sys2Proof.Claims

/-- Settles O35: each body goes one way by its conditions, a translation leaves the context as it was, and an item reads back what was
written to it. -/
theorem waitsAndRecords : Obligations.WaitsAndRecords := by
  intro s t n m k rd rs rt sel w x a b c mask hit
  refine ⟨fun hr ha hb hne => ?_, fun hr ha hb heq hslot => ?_, fun hr ha => ⟨fun hg hal => ?_, ?_, ?_, ?_⟩, fun hr ht => ?_,
    fun hr hsel ht => ?_, fun hr ht => ?_,
    fun d => ⟨fun h => item_ring d w h, fun h h' => item_global d w h h', fun h h' => item_trap d w h h', rfl, rfl⟩⟩
  · have hw : fixW hit.toNat = ⟨0x001, hit.zeroExtend 64⟩ := by simp [fixW]
    rw [← hw]
    exact congrArg Host.Outcome.next (issue_next hr (waitBody_takes ha hb hne))
  · obtain ⟨hact, -, hrun⟩ := issuing_ctx hr
    have hc := State.ctx_modCtx_same s n.toNat fun c => { c with dir := { c.dir with mask := mask } }
    obtain ⟨hctx, hswaps⟩ := beginWait_waits 4 rd (b.payload.extractLsb' 0 32) .waitEvent
      (by rw [hc]; exact hact) (by rw [hc]; exact hrun) (by rw [hc]; exact hslot)
    refine ⟨_, congrArg Host.Outcome.next (issue_done hr (waitBody_waits ha hb heq)), ?_⟩
    rw [State.ctx_tick, State.core_tick, hctx, hswaps, hc, State.core_modCtx]
    exact ⟨rfl, rfl, rfl, rfl, rfl, rfl, rfl, rfl⟩
  · exact result_of hr rfl (waitMBody_global ha rfl hg hal)
  · rintro ⟨l, h, hm, hh, hit, rfl⟩ hne
    have hbody := waitMBody_held ha rfl hm hh hit
    rw [if_pos hne] at hbody
    exact congrArg Host.Outcome.next (issue_next hr hbody)
  · rintro ⟨l, h, hm, hh, hit, rfl⟩ heq hfull
    have hbody := waitMBody_held ha rfl hm hh hit
    rw [if_neg (not_not_intro heq), if_pos hfull] at hbody
    exact congrArg Host.Outcome.next (issue_next hr hbody)
  · intro l h hm hh hit heq hfree hslot
    have hbody := waitMBody_held ha rfl hm hh hit
    rw [if_neg (not_not_intro heq), if_neg (Nat.not_le.mpr hfree)] at hbody
    obtain ⟨hact, -, hrun⟩ := issuing_ctx hr
    have hu : Undisturbed c (t.ctx n.toNat) := by
      obtain ⟨-, -, htr, -⟩ := hm
      have hkeep := (robust_undisturbed n.toNat c).translate (env x (.waitM rd rs rt)) 0 (addOff (vaOf a) 0) 8 none s (Undisturbed.refl c)
      rwa [htr] at hkeep
    have hc := State.ctx_modCtx_same t n.toNat fun c => { c with monitor := some (l.lpa (addOff (vaOf a) 0) / 8, xreg t x rt) }
    obtain ⟨hctx, hswaps⟩ := beginWait_waits 5 rd ((t.ctx n.toNat).r.cnt.extractLsb' 0 32) .waitMem
      (by rw [hc]; exact hu.active hact) (by rw [hc]; exact hu.stopped.trans hrun) (by rw [hc]; exact hu.slot.trans hslot)
    refine ⟨_, congrArg Host.Outcome.next (issue_done hr hbody), ?_⟩
    rw [State.ctx_tick, State.core_tick, hctx, hswaps, hc, State.core_modCtx]
    exact ⟨rfl, rfl, congrArg (fun r : Rec => r.cnt.extractLsb' 0 32) hu.r, rfl, rfl, congrArg (fun r : Rec => r.pc + 4) hu.r, rfl⟩
  · exact result_of hr rfl (ctxrdBody_ok ht fun h => .inr (by simpa using h))
  · exact result_of hr rfl (ctxrdBody_ok ht fun _ => .inl hsel)
  · exact congrArg Host.Outcome.next (issue_next hr (ctxwrBody_ok ht))
end

section
/-! PROOFS. What goes on when an access completes, a deadline expires, or a dying record has drained. -/

namespace Sys2Proof.Claims

open Sys2Proof.Machine

/-! ### An access completes -/

theorem gives_of_eq {c : Instr} {s t u : State} (hc : Gives c s t.tick) (h : t = u) : Gives c s u.tick := h ▸ hc

@[simp] theorem ctx_dropRead (s : State) (x : Exec) (n : Nat) : (dropRead s x).ctx n = s.ctx n := rfl

/-- An instruction whose record still has the registers that it issued with goes on as it is (R66). -/
theorem asIssued_same {s : State} {x : Exec} {p : Pend} (h : ∀ n was, x = .ctx n → p.regs = some was → regFile s x = some was)
    (f : State → Except Stop Go × State) : asIssued s x p f = f s := by
  unfold asIssued
  split
  · next n was hregs => exact if_pos (Option.some.inj (h n was rfl hregs))
  · rfl

theorem complete_of_goesOn {s u : State} {x : Exec} {p : Pend} (h : GoesOn s x p u) : complete s x p = completeOk u x p .next := by
  obtain ⟨-, hdying, hfault, hregs, hbody, -⟩ := h
  have hsame : ∀ n was, x = .ctx n → p.regs = some was → regFile (setPend (dropRead s x) x none) x = some was := by
    rintro n was rfl e
    rw [← hregs n was rfl e]
    simp [regFile, setPend]
  simp only [complete, hdying, hfault, goOn, asIssued_same hsame]
  dsimp only at hbody
  rw [hbody]
  rfl

theorem accessComplete_of_goesOn {s u : State} {x : Exec} {p : Pend} (hp : pendOf s x = some p)
    (hw : p.why = .line ∨ p.why = .remote ∨ p.why = .maint) (h : GoesOn (closeOwn s x p) x p u) :
    accessComplete s x = substOut (completeOk u x p .next) x := by
  have hready : p.ready = true := h.1
  have hgo := complete_of_goesOn h
  rcases hw with e | e | e
  · simp only [accessComplete, hp, e, hready, if_true, hgo]
  · simp only [accessComplete, hp, e, hready, if_true, hgo]
  · simp only [accessComplete, hp, e, hready, if_true, hgo]

/-- While no substitution takes a core, its contexts stay in their slots. -/
theorem substOut_of_not {s : State} {n : BitVec 16} (h : (s.core (coreOf n.toNat)).subst = false) : substOut s (.ctx n) = s := by
  simp [substOut, h]

/-- A context that an access left outside ACTIVE stays where it is. -/
theorem substOut_of_outside {s : State} {n : BitVec 16} (h : (s.ctx n.toNat).dir.state ≠ .active) : substOut s (.ctx n) = s := by
  simp [substOut, inSlot, h]

/-! ### A wait ends -/

/-- The context after the end of a wait in WAIT_EVENT or WAIT_MEM (R62). -/
theorem ctx_endWait_same {s : State} {n : Nat} (h : (s.ctx n).dir.state = .waitEvent ∨ (s.ctx n).dir.state = .waitMem) :
    (endWait s n).ctx n = { s.ctx n with dir := { (s.ctx n).dir with state := .ready, wait := 0, deadline := 0 }, monitor := none } := by
  rcases h with e | e
  · simp [endWait, e, ctx_makeReady_same]
  · simp [endWait, e, ctx_makeReady_same]

theorem ctxReg_congr {c d : Ctx} (hr : d.r.tw = c.r.tw ∧ d.r.wp = c.r.wp) (h1 : d.ring = c.ring) (h2 : d.g = c.g) (h3 : d.trap = c.trap) (r : Nat) :
    ctxReg d r = ctxReg c r := by
  rw [ctxReg_placed, ctxReg_placed, regAt_congr hr.1 hr.2, placed_congr h1 h2 h3]

/-- A register of a context reads back what was written to it. -/
theorem ctxReg_setCtxReg_same (c : Ctx) {r : Nat} (v : W) (h : r ≠ 0) : ctxReg (setCtxReg c r v) r = v := by
  have hat : regAt (setCtxReg c r v) r = regAt c r := regAt_congr (by rw [setCtxReg_r]) (by rw [setCtxReg_r]) r
  rw [ctxReg_placed, hat, placed_setCtxReg, if_pos ⟨rfl, fun e => h ((regAt_zero_iff c r).mp e)⟩]

/-! ### Exceptions keep a core's substitution -/

section
variable (s : State) (j : Nat)

theorem logFault_subst (cls react unit site : Nat) (addr : BitVec 64) (detail : List (BitVec 8)) :
    ((logFault s cls react unit site addr detail).core j).subst = (s.core j).subst := (robust_subst j _).logFault _ _ _ _ _ _ rfl

theorem vacate_subst (n : Nat) : ((vacate s n).core j).subst = (s.core j).subst :=
  modCore_keeps Core.subst (by intro; rfl) _ _ _

theorem lockup_subst (n cause : Nat) : ((lockup s n cause).core j).subst = (s.core j).subst := by
  unfold lockup
  rw [logFault_subst, modCore_keeps Core.subst fillSlot_subst]
  exact vacate_subst s j n

theorem entryEvents_subst (n cause : Nat) : ((entryEvents s n cause).core j).subst = (s.core j).subst := by
  unfold entryEvents
  split_ifs <;> simp

theorem raise_subst (n : BitVec 16) (e : Exn) : ((raise s (.ctx n) e).core j).subst = (s.core j).subst := by
  unfold raise enter illegalReturn
  dsimp only
  split_ifs
  · split
    · exact lockup_subst _ _ _ _
    · exact entryEvents_subst _ _ _ _
  · split
    · exact lockup_subst _ _ _ _
    · exact lockup_subst _ _ _ _
  · split
    · exact lockup_subst _ _ _ _
    · exact entryEvents_subst _ _ _ _

theorem raiseX_subst (n : BitVec 16) (e : Exn) : ((raiseX s (.ctx n) e).core j).subst = (s.core j).subst := by
  unfold raiseX
  rw [raise_subst]
  split
  · rfl
  · rfl
end

end Sys2Proof.Claims

open Sys2Proof Sys2Proof.Machine Sys2Proof.Claims

/-- Settles O39: an access that goes on runs its instruction on the registers it issued with, the end of a wait is READY, and no exception
or completion starts a substitution. -/
theorem accessesGoOn : Obligations.AccessesGoOn := by
  intro s u x n p f c y
  refine ⟨fun hp hw h hin => ?_, fun hp hw h hst hslot => ?_, fun hp hw hready hown hdying hexn hin hsub => ?_, fun hwait hd hst => ?_,
    fun hdying hslot hacc hsto => ?_, fun hdying hout => ?_⟩
  · obtain ⟨-, -, -, -, -, hsub⟩ := id h
    have hgo : accessComplete s x = setXpc (commitX u x) x (xpc u x + 4) := by
      rw [accessComplete_of_goesOn hp hw h, completeOk, if_pos (.inl hin)]
      cases x with
      | ctx m => exact substOut_of_not (by simpa [setXpc, retire] using (show (u.core (coreOf m.toNat)).subst = false from hsub))
      | fic k => rfl
    exact gives_of_eq rfl hgo
  · have hlive : ¬ (inSlot u y = true ∨ (Go.next = .done ∧ p.fetch = false)) := by simp [inSlot, y, hst]
    have hv : (retire u y p.word p.rep .next).ctx n.toNat = doneCtx (u.ctx n.toNat) ((u.ctx n.toNat).r.pc + 4) := by
      simp [retire, setXpc, xpc, ctx_commitX_same, doneCtx, y]
    have hwait : ((retire u y p.word p.rep .next).ctx n.toNat).dir.state = .waitMem := by rw [hv]; exact hst
    have hctx := ctx_endWait_same (.inr hwait)
    have hgo : accessComplete s y = endWait (retire u y p.word p.rep .next) n.toNat := by
      rw [accessComplete_of_goesOn hp hw h, completeOk, if_neg hlive]
      exact substOut_of_outside (by rw [outReady, hctx]; exact CState.noConfusion)
    refine ⟨_, gives_of_eq rfl hgo, ?_⟩
    simp only [y, xreg, State.ctx_tick, hctx, hv]
    exact ⟨trivial, rfl, trivial, fun q => ctxReg_congr ⟨rfl, rfl⟩ rfl rfl rfl _⟩
  · have hfault : faultOf s y = some f := hexn
    have hin' : inSlot ((setPend s y none).modCtx n.toNat fun c => { c with exn := none }) y = true := by
      simpa [inSlot, setPend, y] using hin
    have hgo : accessComplete s y = raiseX ((setPend s y none).modCtx n.toNat fun c => { c with exn := none }) y f := by
      have hcomplete : complete s y p = raiseX ((setPend s y none).modCtx n.toNat fun c => { c with exn := none }) y f := by
        simp only [complete, show dyingX s y = false from hdying, hfault]
        exact if_pos hin'
      simp only [accessComplete, hp, hw, hready, if_true, hown, hcomplete]
      exact substOut_of_not ((raiseX_subst _ _ n f).trans hsub)
    exact gives_of_eq rfl hgo
  · have hgo : expire s n.toNat = endWait (wakeDevice (s.setCtx n.toNat (setCtxReg c c.waitRd.toNat (fixW 0)))) n.toNat := by
      have hw : ¬ (c.dir.wait = 0 ∨ c.dir.deadline = 0) := by
        rintro (h0 | h0)
        · rcases hwait with h | h <;> rw [h0] at h <;> exact absurd h (by decide)
        · exact hd h0
      exact (if_neg hw).trans (if_pos hwait)
    have hctx : (wakeDevice (s.setCtx n.toNat (setCtxReg c c.waitRd.toNat (fixW 0)))).ctx n.toNat = setCtxReg c c.waitRd.toNat (fixW 0) := by
      rw [State.ctx_congr (wakeDevice_ctxs _), State.ctx_setCtx_same]
    have hst' := (congrArg (fun d : Ctx => d.dir.state) hctx).trans (congrArg Dir.state (setCtxReg_dir c c.waitRd.toNat (fixW 0)))
    have hv := ctx_endWait_same (by rwa [hst'])
    refine ⟨_, gives_of_eq rfl hgo, ?_⟩
    rw [State.ctx_tick, hv, hctx]
    refine ⟨rfl, rfl, rfl, fun hrd => ?_, setCtxReg_r _ _ _⟩
    exact (ctxReg_congr ⟨rfl, rfl⟩ rfl rfl rfl _).trans (ctxReg_setCtxReg_same c (fixW 0) fun h => hrd (BitVec.eq_of_toNat_eq h))
  · have hgo : drainEnd s n.toNat = becomeFree s n.toNat := if_pos (by simp [drainDone, c, hdying, hslot, hacc, hsto])
    refine ⟨_, gives_of_eq rfl hgo, ?_⟩
    refine ⟨?_, ?_, ?_, fun j hj => ?_⟩
    · simp [becomeFree]
    · simp [becomeFree]
    · simp [becomeFree, ctx_releaseBanks_same, c, hdying]
    · simp [becomeFree, State.ctx_modCtx_ne _ _ hj, ctx_releaseBanks_ne _ _ hj]
  · have hbusy : drainDone c = false := by
      rcases hout with h | h | h
      · simp [drainDone, Option.isNone_eq_false_iff.mpr (Option.isSome_iff_ne_none.mpr h)]
      · simp [drainDone, h]
      · simpa [drainDone] using fun _ _ _ => h
    have hgo : drainEnd s n.toNat = s := if_neg (by rw [hbusy]; decide)
    exact gives_of_eq rfl hgo
end

section
/-! PROOFS. Writes of a doorbell slot, and the sleep and waking of a tile. -/

namespace Sys2Proof.Claims

open Sys2Proof.Machine

/-! ### A write of a doorbell slot -/

/-- The doorbell slots stand at 0x7F6_0000_0000, 64 bytes for each context (R75). -/
theorem regBlk_slot {lpa n o : Nat} (hn : n < 40960) (ho : o < 0x40) (h : lpa = 0x7F600000000 + n * 0x40 + o) : regBlk lpa = .slot n o := by
  have hblock : lpa / 2 ^ 32 = 0x7F6 := by omega
  have hoff : lpa % 2 ^ 32 = n * 0x40 + o := by omega
  have hlt : n * 0x40 + o < 0x280000 := by omega
  have hslot : (n * 0x40 + o) / 0x40 = n := by omega
  have hword : (n * 0x40 + o) % 0x40 = o := by omega
  simp only [regBlk, hblock, hoff, hlt, hslot, hword, if_true]

theorem writeReg_slot {s : State} {w : World} {lpa n o : Nat} {v : BitVec 64} (hn : n < 40960) (ho : o = 0 ∨ o = 8)
    (h : lpa = 0x7F600000000 + n * 0x40 + o) (hmay : MayWrite s w lpa v) : writeReg s (.world w) lpa v = slotWrite s (some w) n o v := by
  obtain ⟨hruns, hok⟩ := hmay
  have hword : lpa % 8 = 0 := by omega
  have hreg : isReg lpa = true := by simp only [isReg, Bool.and_eq_true, decide_eq_true_eq]; omega
  have hin : isOut lpa = false := by simp only [isOut, Bool.and_eq_false_iff, decide_eq_false_iff_not]; omega
  have hblk : regBlk lpa = .slot n o := regBlk_slot hn (by omega) h
  simp only [writeReg, hword, hruns, hreg, hin, hok, regWrite, hblk]
  rfl

theorem ofNat_setWidth_toNat (ev : BitVec 16) : BitVec.ofNat 16 (ev.setWidth 64 : BitVec 64).toNat = ev :=
  BitVec.eq_of_toNat_eq (by rw [BitVec.toNat_setWidth, BitVec.toNat_ofNat]; omega)

/-- The owner's write of DB_RING rings its bits (R75). -/
theorem slotWrite_ring {s : State} {w : World} {n : Nat} (ev : BitVec 16) (hown : (s.ctx n).dir.owner = w)
    (hb : noBells (modeAt s (tileOf (coreOf n))) = false) : slotWrite s (some w) n 0 (ev.setWidth 64) = ringBits s n ev := by
  simp only [slotWrite, ofNat_setWidth_toNat]
  simp [hown, hb]

/-- A write by another world is discarded (R76). -/
theorem slotWrite_foreign {s : State} {w : World} {n o : Nat} (v : BitVec 64) (hown : (s.ctx n).dir.owner ≠ w) :
    slotWrite s (some w) n o v = discardRing s := by
  simp [slotWrite, hown]

/-- The owner's write of DB_PENDING clears its bits (R75). -/
theorem slotWrite_clear {s : State} {w : World} {n : Nat} (ev : BitVec 16) (hown : (s.ctx n).dir.owner = w)
    (hb : noBells (modeAt s (tileOf (coreOf n))) = false) (hst : (s.ctx n).dir.state ≠ .stub) :
    slotWrite s (some w) n 8 (ev.setWidth 64) = s.modCtx n fun c => { c with dir := { c.dir with events := c.dir.events &&& ~~~ev } } := by
  simp only [slotWrite, ofNat_setWidth_toNat]
  simp [hown, hb, hst]

/-! ### Ringing a live context -/

theorem wakeTile_waking {s : State} {t : Nat} (h : (s.tile t).power = .nap) : ((wakeTile s t).tile t).waking = true := by
  rw [wakeTile, if_pos (.inl h), State.tile_modTile_same]

theorem mem_endWait_readyQ {s : State} {n : Nat} (h : (s.ctx n).dir.state = .waitEvent ∨ (s.ctx n).dir.state = .waitMem) :
    n ∈ ((endWait s n).core (coreOf n)).readyQ := by
  rcases h with e | e
  · simp [endWait, e, makeReady_readyQ]
  · simp [endWait, e, makeReady_readyQ]

section
variable {s : State} {n : Nat} {ev : BitVec 16} (hn : n < 40960) (hfree : (s.ctx n).dir.state ≠ .free) (hstub : (s.ctx n).dir.state ≠ .stub)
  (hlive : (s.ctx n).dir.dying = false)
include hn hfree hstub hlive

/-- Bits that end no WAIT are added to the events (R72). -/
theorem ringBits_adds (h : (s.ctx n).dir.wait ≠ 4 ∨ ((s.ctx n).dir.events ||| ev) &&& (s.ctx n).dir.mask = 0) :
    ringBits s n ev = (wakeTile (wakeDevice s) (tileOf (coreOf n))).setCtx n
      { s.ctx n with dir := { (s.ctx n).dir with events := (s.ctx n).dir.events ||| ev } } := by
  have hnone : ¬ ((s.ctx n).dir.wait = 4 ∧
      (if (s.ctx n).dir.state = .held then ev else (s.ctx n).dir.events ||| ev) &&& (s.ctx n).dir.mask ≠ 0) := by
    rintro ⟨hw, hne⟩
    have hall := h.resolve_left (not_not_intro hw)
    have hev : ev &&& (s.ctx n).dir.mask = 0 := by
      rw [BitVec.and_or_distrib_right] at hall
      exact (BitVec.or_eq_zero_iff.mp hall).2
    split at hne
    · exact hne hev
    · exact hne hall
  unfold ringBits
  dsimp only
  rw [if_neg (by simp [hfree, hlive, hn]), if_neg hstub, if_neg hnone]

/-- A bit that matches the mask of a context in WAIT_EVENT ends its WAIT with the matching bits (R72). -/
theorem ringBits_ends (hw : (s.ctx n).dir.wait = 4) (hhit : ((s.ctx n).dir.events ||| ev) &&& (s.ctx n).dir.mask ≠ 0)
    (hst : (s.ctx n).dir.state = .waitEvent) :
    ringBits s n ev = endWait ((wakeTile (wakeDevice s) (tileOf (coreOf n))).setCtx n (setCtxReg
      { s.ctx n with dir := { (s.ctx n).dir with
        events := ((s.ctx n).dir.events ||| ev) &&& ~~~(((s.ctx n).dir.events ||| ev) &&& (s.ctx n).dir.mask) } }
      (s.ctx n).waitRd.toNat (fixW (((s.ctx n).dir.events ||| ev) &&& (s.ctx n).dir.mask).toNat))) n := by
  have hheld : ¬ (s.ctx n).dir.state = .held := by rw [hst]; exact CState.noConfusion
  unfold ringBits
  dsimp only
  rw [if_neg (by simp [hfree, hlive, hn]), if_neg hstub, if_neg hheld, if_pos ⟨hw, hhit⟩]
end

/-! ### Waking a tile -/

theorem tellInv_around (t : Tlbi) (l : List (Nat × BitVec 16)) (k : Nat) (s : State) :
    (tellInv s t l k).1.tiles = s.tiles ∧ (tellInv s t l k).1.gcLag = s.gcLag := by
  induction l generalizing s k with
  | nil => exact ⟨rfl, rfl⟩
  | cons p r ih => exact ih (k + 1) (sendMsg s _)

/-- A TLBI that takes effect at an agent leaves the tiles, and who lags behind a write of the GC registers (R223, R258). -/
theorem tlbiEffect_around (s : State) (id agent : Nat) :
    (tlbiEffect s id agent).tiles = s.tiles ∧ (tlbiEffect s id agent).gcLag = s.gcLag := by
  unfold tlbiEffect
  split
  · exact ⟨rfl, rfl⟩
  · next t _ =>
    split
    · exact ⟨rfl, rfl⟩
    · have htell := tellInv_around t
      extract_lets s1 s2 r
      have h2 : s2.tiles = s.tiles ∧ s2.gcLag = s.gcLag := by
        simp only [s2]
        split
        · exact ⟨rfl, rfl⟩
        · exact ⟨rfl, rfl⟩
      have hr : r.1.tiles = s.tiles ∧ r.1.gcLag = s.gcLag := by
        simp only [r]
        split
        · exact ⟨(htell _ _ _).1.trans h2.1, (htell _ _ _).2.trans h2.2⟩
        · exact h2
      exact hr

/-- A tile that runs again is on, not waking, and none of its agents lags behind a write of the GC registers (R258). -/
theorem tileAwake_runs (s : State) (t : Nat) :
    ((tileAwake s t).tile t).power = .on ∧ ((tileAwake s t).tile t).waking = false ∧
      (tileAwake s t).gcLag = s.gcLag.filter fun a => !((decide (a < 256) && tileOf a == t) || a == 320 + t) := by
  unfold tileAwake
  extract_lets s1 mine s2
  have hkeep : ∀ u : State, (u.tiles = s2.tiles ∧ u.gcLag = s2.gcLag) →
      ∀ id a, (tlbiEffect u id a).tiles = s2.tiles ∧ (tlbiEffect u id a).gcLag = s2.gcLag :=
    fun u hu id a => ⟨(tlbiEffect_around u id a).1.trans hu.1, (tlbiEffect_around u id a).2.trans hu.2⟩
  have hfold := keep_foldl (P := fun u : State => u.tiles = s2.tiles ∧ u.gcLag = s2.gcLag)
    (f := fun s u => (((List.range 8).map fun k => 8 * t + k) ++ [320 + t]).foldl (fun s a => if u.done.contains a then s else tlbiEffect s u.id a) s)
    (fun u v hu => keep_foldl (fun w a hw => keep_ite hw (hkeep w hw _ _)) _ hu) s2.tlbis (s := s2) ⟨rfl, rfl⟩
  obtain ⟨htiles, hlag⟩ := hfold
  have htile : s2.tile t = { s.tile t with power := .on, waking := false } :=
    State.tile_modTile_same s t fun x => { x with power := .on, waking := false }
  refine ⟨?_, ?_, hlag⟩
  · rw [State.tile_congr htiles, htile]
  · rw [State.tile_congr htiles, htile]

end Sys2Proof.Claims

open Sys2Proof Sys2Proof.Machine Sys2Proof.Claims

/-- Settles O40: a doorbell slot is found in register space, a live context takes the bits or ends its WAIT, and a tile sleeps and wakes. -/
theorem doorbellsAndTileSleep : Obligations.DoorbellsAndTileSleep := by
  intro s w lcn ev tile n c v all hit x
  refine ⟨fun hn hmay hb hown hfree hstub hlive => ?_, fun hn hmay hb hown hstub => ?_, fun hn hmay hown => ⟨?_, rfl⟩,
    fun hp hw hd hi => ?_, fun hp hw hi hdoze => ?_, fun hw => ?_⟩
  · have hring : Gives (.dbRingWrite (.world w) lcn ev) s (ringBits s n ev).tick :=
      gives_of_eq rfl ((if_pos hn).trans ((writeReg_slot hn (.inl rfl) rfl hmay).trans (slotWrite_ring ev hown hb)))
    refine ⟨fun hno => ?_, fun hw hne hst => ?_⟩
    · rw [ringBits_adds hn hfree hstub hlive hno] at hring
      refine ⟨_, hring, State.ctx_setCtx_same _ _ _, fun hnap => ?_⟩
      exact wakeTile_waking (by rwa [State.tile_congr (wakeDevice_tiles s)])
    · rw [ringBits_ends hn hfree hstub hlive hw hne hst] at hring
      have hc := State.ctx_setCtx_same (wakeTile (wakeDevice s) (tileOf (coreOf n))) n
        (setCtxReg { c with dir := { c.dir with events := all &&& ~~~hit } } c.waitRd.toNat (fixW hit.toNat))
      have hstate := (congrArg (fun d : Ctx => d.dir.state) hc).trans ((congrArg Dir.state (setCtxReg_dir _ _ _)).trans hst)
      have hv := ctx_endWait_same (.inl hstate)
      rw [hc] at hv
      have hword : fixW hit.toNat = ⟨0x001, hit.setWidth 64⟩ := by simp [fixW]
      refine ⟨_, hring, ?_, ?_, ?_, fun hrd => ?_, mem_endWait_readyQ (.inl hstate)⟩
      · rw [State.ctx_tick, hv]
      · rw [State.ctx_tick, hv]
      · rw [State.ctx_tick, hv, setCtxReg_dir]
      · rw [State.ctx_tick, hv, ← hword]
        exact (ctxReg_congr ⟨rfl, rfl⟩ rfl rfl rfl _).trans (ctxReg_setCtxReg_same _ _ fun h => hrd (BitVec.eq_of_toNat_eq h))
  · exact gives_of_eq rfl ((if_pos hn).trans ((writeReg_slot hn (.inr rfl) (by omega) hmay).trans (slotWrite_clear ev hown hb hstub)))
  · exact gives_of_eq rfl ((if_pos hn).trans ((writeReg_slot hn (.inl rfl) rfl hmay).trans (slotWrite_foreign v hown)))
  · exact gives_of_eq rfl (if_pos ⟨hp, hw, hd, hi⟩)
  · exact gives_of_eq rfl (if_pos ⟨hp, hw, hi, hdoze⟩)
  · obtain ⟨hpower, hwaking, hlag⟩ := tileAwake_runs s tile.toNat
    refine ⟨_, gives_of_eq rfl (if_pos hw), hpower, hwaking, fun a ha => ?_⟩
    change a ∈ (tileAwake s tile.toNat).gcLag at ha
    rw [hlag, List.mem_filter] at ha
    obtain ⟨hmem, hother⟩ := ha
    simp only [Bool.not_eq_true', Bool.or_eq_false_iff, Bool.and_eq_false_iff, decide_eq_false_iff_not, beq_eq_false_iff_ne] at hother
    exact ⟨hmem, hother.2, fun hlt => hother.1.resolve_left (not_not_intro hlt)⟩
end

section
/-! PROOFS. What the answers of a home do at a core. -/

namespace Sys2Proof.Claims

open Sys2Proof.Machine

/-! ### Taking a message, returning a credit, waking accesses -/

theorem takeFor_eq {s u : State} {k : MsgK} {core line : Nat} {m : Msg} (h : takeFor s k core line = some (m, u)) :
    u = { s with mesh := u.mesh } := by
  unfold takeFor takeMsg at h
  split at h
  · cases h
  · split at h
    · cases h
    · cases h; rfl

/-- A returned credit changes the credits of its requester alone (R241). -/
theorem returnCredit_keeps {α : Type} (g : Core → α) (hg : ∀ (c : Core) l, g { c with credits := l } = g c)
    (s : State) (r : Option Req) (j : Nat) : g ((returnCredit s r).core j) = g (s.core j) := by
  unfold returnCredit
  split
  · split
    · exact modCore_keeps g (fun _ => hg _ _) _ _ _
    · rfl
  · rfl

/-- What pending accesses receive changes nothing else of a core. -/
theorem wakePends_keeps {α : Type} (g : Core → α) (hg : ∀ (c : Core) x, g { c with fic := x } = g c)
    (s : State) (core : Nat) (f : Pend → Pend) (j : Nat) : g ((wakePends s core f).core j) = g (s.core j) := modCore_keeps g (fun _ => hg _ _) _ _ _

/-- A line that arrived touches the accesses and healing writes that wait for it (R247). -/
theorem wakeLine_keeps {α : Type} (g : Core → α) (hg : ∀ (c : Core) x, g { c with fic := x } = g c)
    (hh : ∀ (c : Core) l, g { c with heals := l } = g c) (s : State) (core line : Nat) (i : Bool) (d : Option Line) (cont early : Bool) (j : Nat) :
    g ((wakeLine s core line i d cont early).core j) = g (s.core j) := by
  unfold wakeLine
  rw [wakePends_keeps g hg]
  split
  · exact modCore_keeps g (fun _ => hh _ _) _ _ _
  · rfl

section
variable (s : State) (r : Option Req) (core line : Nat) (f : Pend → Pend) (i : Bool) (d : Option Line) (cont early : Bool) (j : Nat)

@[simp] theorem returnCredit_retries : ((returnCredit s r).core j).retries = (s.core j).retries :=
  returnCredit_keeps Core.retries (fun _ _ => rfl) s r j
@[simp] theorem returnCredit_l1d : ((returnCredit s r).core j).l1d = (s.core j).l1d :=
  returnCredit_keeps Core.l1d (fun _ _ => rfl) s r j
@[simp] theorem returnCredit_stores : ((returnCredit s r).core j).stores = (s.core j).stores :=
  returnCredit_keeps Core.stores (fun _ _ => rfl) s r j
@[simp] theorem wakePends_l1d : ((wakePends s core f).core j).l1d = (s.core j).l1d :=
  wakePends_keeps Core.l1d (fun _ _ => rfl) s core f j
@[simp] theorem wakePends_stores : ((wakePends s core f).core j).stores = (s.core j).stores :=
  wakePends_keeps Core.stores (fun _ _ => rfl) s core f j
@[simp] theorem wakePends_tagErr : ((wakePends s core f).core j).tagErr = (s.core j).tagErr :=
  wakePends_keeps Core.tagErr (fun _ _ => rfl) s core f j
@[simp] theorem wakeLine_l1d : ((wakeLine s core line i d cont early).core j).l1d = (s.core j).l1d :=
  wakeLine_keeps Core.l1d (fun _ _ => rfl) (fun _ _ => rfl) s core line i d cont early j
@[simp] theorem wakeLine_stores : ((wakeLine s core line i d cont early).core j).stores = (s.core j).stores :=
  wakeLine_keeps Core.stores (fun _ _ => rfl) (fun _ _ => rfl) s core line i d cont early j
end

@[simp] theorem core_sarkCount (s : State) (n j : Nat) : (sarkCount s n).core j = s.core j := rfl

@[simp] theorem addCard_stores (c : Core) (st : PStore) : (c.addCard st).stores = c.stores := by
  unfold Core.addCard
  split <;> rfl

@[simp] theorem core_post (s : State) (m : Msg) (j : Nat) : (post s m).core j = s.core j := core_wakeTile _ _ _

theorem post_mesh (s : State) (m : Msg) : (post s m).mesh = s.mesh ++ [m] := by
  unfold post wakeTile
  split <;> rfl

theorem returnCredit_none {s : State} {r : Req} (h : r.credit = false) : returnCredit s (some r) = s := by
  simp [returnCredit, h]

/-- With no store waiting there is nothing to carry on. -/
theorem kickStores_nil {s : State} {core : Nat} (h : (s.core core).stores = []) : kickStores s core = s := by
  simp [kickStores, h]

/-! ### The answers -/

section
variable {s u : State} {c k : Nat} {m : Msg} {r : Req}

/-- RTY queues the request again (R241). -/
theorem retried_queues (h : AtCore s .rty c k m u) (hr : m.req = some r) : ((retried s c k).core c).retries =
    (s.core c).retries ++ [{ r with tries := r.tries + 1, credit := false, prio := decide (5 ≤ r.tries + 1) }] := by
  have hu : u.core c = s.core c := by rw [takeFor_eq h]; rfl
  simp [retried, h, hr, hu]

theorem splitAtFirst_head {α : Type} {p : α → Bool} {a : α} {l : List α} (h : p a = true) : splitAtFirst p (a :: l) = some ([], a, l) := by
  simp [splitAtFirst, h]

/-- The first waiting request of a line is sent while fewer than two are out (R241). -/
theorem resend_sends {b : List Req} (hb : (s.core c).retries = r :: b) (hk : r.line = k) (hlt : tgetD (s.core c).credits (homeNode s k) 0 < 2) :
    resend s c k = sendReq (s.setCore c { s.core c with
      retries := b, credits := tmod (s.core c).credits (homeNode s k) 0 fun n => n + 1 }) { r with credit := true } := by
  have hfirst := splitAtFirst_head (l := b) (p := fun q : Req => q.line == k) (a := r) (by simp [hk])
  simp only [resend, hb, hfirst, hlt, if_true, List.nil_append]

theorem resend_waits {b : List Req} (hb : (s.core c).retries = r :: b) (hk : r.line = k) (hge : 2 ≤ tgetD (s.core c).credits (homeNode s k) 0) :
    resend s c k = s := by
  have hfirst := splitAtFirst_head (l := b) (p := fun q : Req => q.line == k) (a := r) (by simp [hk])
  simp only [resend, hb, hfirst, Nat.not_lt.mpr hge, if_false]

/-- NAKS sends RDS again when an access of the fast interrupt context waits for the line (R236). -/
theorem notServed_resends {p : Pend} (h : AtCore s .naks c k m u) (hr : m.req = some r) (hcr : r.credit = false)
    (hp : (u.core c).fic.pend = some p) (hline : p.why.isLine = true) (hk : p.needs = some k) :
    notServed s c k = sendReq u { r with spec := false, credit := false, who := none } := by
  simp [notServed, h, hr, returnCredit_none hcr, hp, hline, hk]

/-- PRG with an estimate at or below swap_thresh swaps nobody out (R65). -/
theorem progress_below (h : AtCore s .prg c k m u) (hest : dval u 0x3200 (if m.flag then 0x06 else 0x07) ≤ dval u 0x3200 0x02) :
    progress s c k = u := by
  simp only [progress, h, hest, if_true]

/-- GNT takes a line in SM_A or OM_A to M (R236). -/
theorem granted_owns {l : L1Line} (h : AtCore s .gnt c k m u) (hl : tget (u.core c).l1d k = some l) (hst : l.st = .smA ∨ l.st = .omA)
    (hs : (u.core c).stores = []) : tget ((granted s c k).core c).l1d k = some { l with st := .m } := by
  simp only [granted, h, returnCredit_l1d, hl, hst, if_true]
  rw [kickStores_nil (by simpa [Core.setL1] using hs)]
  simp [Core.setL1]

/-- CMP of the only store that waits leaves none (R246). -/
theorem completed_store {ps : PStore} (h : AtCore s .cmp c k m u) (hr : m.req = some r) (hw : r.word = some ps)
    (hs : (u.core c).stores = [ps]) : ((completed s c k).core c).stores = [] := by
  have hgone : (((returnCredit u (some r)).modCore c fun x => { x with stores := x.stores.erase ps }.addCard ps).core c).stores = [] := by
    simp [hs]
  simp only [completed, h, hr, hw]
  rw [kickStores_nil hgone, hgone]

/-- CMP of a maintenance step lets the instruction that waits for it go on (R246). -/
theorem completed_maint {n : BitVec 16} {p : Pend} (h : AtCore s .cmp c k m u) (hr : m.req = some r) (hcr : r.credit = false)
    (hw : r.word = none) (hwho : r.who = some (.ctx n)) (hp : (u.ctx n.toNat).pend = some p) (hline : p.why.isLine = true)
    (hk : p.needs = some r.line) :
    ((completed s c k).ctx n.toNat).pend = some { p with ready := true, words := tset p.words (maintKey r.line) nilW } := by
  simp [completed, h, hr, hw, returnCredit_none hcr, deliver, hwho, hp, hline, hk]

/-- DATO delivers the words of the line to the instruction that waits for them (R238). -/
theorem uncached_delivers {n : BitVec 16} {p : Pend} {d : Line} (h : AtCore s .dato c k m u) (hr : m.req = some r) (hcr : r.credit = false)
    (hwho : r.who = some (.ctx n)) (hd : m.data = some d) (hp : (u.ctx n.toNat).pend = some p) (hline : p.why.isLine = true)
    (hk : p.needs = some r.line) :
    ((uncached s c k).ctx n.toNat).pend = some { p with
      ready := true, contended := p.contended || (m.flag && r.kind == .atm),
      words := (List.range 8).foldl (fun t i => tset t (r.line * 8 + i) (lineWord d i)) p.words } := by
  simp [uncached, h, hr, hd, returnCredit_none hcr, deliver, hwho, hp, hline, hk]

/-- Words that are listed from a key on, one for each number below n, are read there. -/
theorem tget_foldl_range (f : Nat → W) (a : Nat) (t : Tbl W) {n i : Nat} (hi : i < n) :
    tget ((List.range n).foldl (fun t i => tset t (a + i) (f i)) t) (a + i) = some (f i) := by
  induction n with
  | zero => omega
  | succ n ih =>
    rw [List.range_succ, List.foldl_append, List.foldl_cons, List.foldl_nil, tget_tset]
    by_cases h : i = n
    · rw [if_pos (by omega), h]
    · rw [if_neg (by omega), ih (by omega)]

/-- WBA ends XI_A at the L1D (R236). -/
theorem wbDone_ends (h : AtCore s .wba c k m u) (ht : m.toward ≠ 1) (hs : (u.core c).stores = []) (he : (u.core c).tagErr = []) :
    ((wbDone s c k).core c).l1d = (u.core c).l1d.filter fun l => !(l.1 == k && l.2.st == .xiA) := by
  unfold wbDone
  split
  · next e => rw [h] at e; cases e
  next e =>
  rw [h] at e
  cases e
  extract_lets gone v w
  have hv : v.core c = { u.core c with l1d := gone (u.core c).l1d } := by simp [v, ht]
  have htag : (w.core c).tagErr = [] := by simp [w, hv, he]
  have hstores : (w.core c).stores = [] := by simp [w, hv, hs]
  rw [htag, List.foldl_nil, kickStores_nil hstores]
  simp [w, hv, gone]

section
variable {l : L1Line} {d : Line} (st : L1) (hl : tget (u.core c).l1d k = some l) (honce : l.once = false) (ht : m.toward ≠ 1)
  (hdst : m.dst = c) (hline : m.line = k) (hd : m.data = some d) (hr : m.req = some r) (hf : r.ifetch = false) (hcr : r.credit = false)
  (hs : (u.core c).stores = []) (hdr : (u.core c).draining = false)
include hl honce ht hdst hline hd hr hf hcr hs hdr

/-- Data granted to the L1D is installed (R236). -/
theorem fill_installs : tget ((fill u m st).core c).l1d k = some { l with st := st, data := d, once := false } := by
  subst hdst hline
  simp only [fill, hr, returnCredit_none hcr, hf, hl, honce, ht, hd, hdr, Bool.false_and, Bool.false_or, beq_iff_eq, if_false, Bool.false_eq_true,
    Option.getD_some]
  rw [kickStores_nil (by split <;> simpa using hs)]
  split <;> simp

theorem dataTo_installs {kind : MsgK} (h : AtCore s kind c k m u) :
    tget ((dataTo s kind st c k).core c).l1d k = some { l with st := st, data := d, once := false } := by
  simp only [dataTo, h]
  exact fill_installs st hl honce ht hdst hline hd hr hf hcr hs hdr
end

/-- A TAGR that is not the last adds to the list of its set (R230). -/
theorem tagAnswer_more (h : AtCore s .tagr c k m u)
    (hm : (u.mesh.any fun m => m.line == k && ((m.kind == .tagr && m.dst == c) || (m.kind == .tagq && m.src == c))) = true) :
    tagAnswer s c k = u.setCore c { u.core c with
      tagErr := (u.core c).tagErr.map fun e => if e.set = k then { e with got := e.got ++ m.tags } else e } := by
  simp only [tagAnswer, h, hm, if_true]

/-- A recovery with no way left to recover ends (R230). -/
theorem recoverSet_ends {v : State} {e : TagErr} (he : (v.core c).tagErr = [e]) (hset : e.set = k) (hfinal : e.final = true) (htodo : e.todo = [])
    (hs : (v.core c).stores = []) : recoverSet v c k = sarkCount (v.modCore c fun x => { x with tagErr := [] }) 1 := by
  have hfind : (v.core c).tagErr.find? (fun e => e.set == k && e.final) = some e := by simp [he, hset, hfinal]
  simp only [recoverSet, hfind, htodo, List.foldl_nil, if_true]
  rw [kickStores_nil (by simpa using hs)]
  simp [State.modCore, he, hset]

/-- The last TAGR, with no line listed, releases the failed ways and ends the recovery of its set (R230). -/
theorem tagAnswer_last {e : TagErr} (h : AtCore s .tagr c k m u)
    (hm : (u.mesh.any fun m => m.line == k && ((m.kind == .tagr && m.dst == c) || (m.kind == .tagq && m.src == c))) = false)
    (he : (u.core c).tagErr = [e]) (hset : e.set = k) (hgot : e.got = []) (htags : m.tags = []) (hs : (u.core c).stores = []) :
    ((tagAnswer s c k).core c).tagErr = [] ∧ ((tagAnswer s c k).core c).l1d = (u.core c).l1d.filter (fun l => !e.ways.contains (false, l.1)) ∧
      tgetD (tagAnswer s c k).sark.counts 1 0 = tgetD u.sark.counts 1 0 + 1 := by
  unfold tagAnswer
  split
  · next e => rw [h] at e; cases e
  next heq =>
  rw [h] at heq
  cases heq
  extract_lets more x close v todo ways gone w
  have hclose : close e = { e with final := true, todo := [] } := by simp [close, more, hm, hset, hgot, htags]
  have hv : v.core c = { u.core c with tagErr := [{ e with final := true, todo := [] }] } := by
    simp [v, x, he, hclose]
  have hgone : gone = e.ways := by simp [gone, ways, todo, hv, x, he, hset]
  have hw : w.core c = { v.core c with
      l1d := (u.core c).l1d.filter fun l => !e.ways.contains (false, l.1),
      l1i := (u.core c).l1i.filter fun l => !e.ways.contains (true, l.1) } := by
    simp [w, hgone, hv]
  have hends : recoverSet w c k = sarkCount (w.modCore c fun x => { x with tagErr := [] }) 1 :=
    recoverSet_ends (e := { e with final := true, todo := [] }) (by rw [hw, hv]) hset rfl rfl (by rw [hw, hv]; exact hs)
  rw [if_neg (by simp [more, hm]), hends]
  refine ⟨by simp, by simp [hw], ?_⟩
  exact tgetD_tset_same _ _ _ _

/-- A drain ends when no line remains (R249). -/
theorem drainStep_ends (hdr : (s.core c).draining = true) (hempty : (s.core c).l1d = []) :
    drainStep s c = s.setCore c { s.core c with draining := false, bypass := (s.core c).cfg.getLsbD 0 } := by
  simp [drainStep, hdr, hempty]
end

end Sys2Proof.Claims

open Sys2Proof Sys2Proof.Machine Sys2Proof.Claims

/-- Settles O45: each answer is one operation on the core that receives it, and with no store waiting nothing further is carried on. -/
theorem answersAtTheCore : Obligations.AnswersAtTheCore := by
  intro s u core line set m r l d b ps n p c k cr
  refine ⟨fun h hr => ⟨_, rfl, retried_queues h hr⟩, fun hb hk hc hlt => ?_, fun hb hk hge => ?_,
    fun h hr hcr hc hk hkind hp hline hneeds => ?_, fun h hest => gives_of_eq rfl (progress_below h hest),
    fun h hl hst hs => ⟨_, rfl, granted_owns h hl hst hs⟩,
    fun h hr hw hs => ⟨_, rfl, completed_store h hr hw hs⟩, fun h hr hcr hw hwho hk hp hmaint hneeds => ?_,
    fun h ht hl hst hs he => ⟨_, rfl, fun q hq => ?_⟩,
    fun h => ⟨fun hm => ?_, fun e hm he hset hgot htags hs => ⟨_, rfl, tagAnswer_last h hm he hset hgot htags hs⟩⟩,
    fun hl hst honce ht hdst hline hd hr hf hcr hs hdr => ?_, fun h hr hcr hwho hk hd hp hline hneeds => ?_, fun hdr hempty => ?_⟩
  · have hgo := resend_sends hb hk hlt
    refine ⟨_, gives_of_eq rfl hgo, ?_, ?_, ?_⟩
    · simp [sendReq]
    · simp [sendReq, tmod, cr]
    · change (sendReq _ _).mesh = _
      rw [sendReq, post_mesh, ← hk, ← hc]
      rfl
  · exact gives_of_eq rfl (resend_waits hb hk hge)
  · refine ⟨_, gives_of_eq rfl (notServed_resends h hr hcr hp (by rw [hline]; rfl) hneeds), ?_⟩
    change (sendReq _ _).mesh = _
    rw [sendReq, post_mesh, hkind, hc, hk]
    rfl
  · exact ⟨_, _, rfl, completed_maint h hr hcr hw hwho hp (by rw [hmaint]; rfl) (hneeds.trans (congrArg some hk.symm)), rfl⟩
  · change (k, q) ∈ ((wbDone s c k).core c).l1d at hq
    rw [wbDone_ends h ht hs he, List.mem_filter] at hq
    obtain ⟨-, hq⟩ := hq
    intro e
    simp [e] at hq
  · exact ⟨_, gives_of_eq rfl (tagAnswer_more h hm), by simp [c], by simp [c]⟩
  · exact ⟨fun h => ⟨_, rfl, dataTo_installs .s hl honce ht hdst hline hd hr hf hcr hs hdr h⟩,
      fun h => ⟨_, rfl, dataTo_installs .e hl honce ht hdst hline hd hr hf hcr hs hdr h⟩,
      fun h => ⟨_, rfl, dataTo_installs .m hl honce ht hdst hline hd hr hf hcr hs hdr h⟩⟩
  · refine ⟨_, _, rfl, uncached_delivers h hr hcr hwho hd hp (by rw [hline]; rfl) (hneeds.trans (congrArg some hk.symm)), rfl, fun i hi => ?_⟩
    rw [hk]
    exact tget_foldl_range (fun i => lineWord d i) (k * 8) p.words hi
  · exact gives_of_eq rfl (drainStep_ends hdr hempty)
end

section
/-! PROOFS. Integer operations, immediates and tag instructions: each body computes one word from its operands, or stops at the first
operand that is refused. -/

namespace Sys2Proof.Claims

open Sys2Proof.Machine

/-! ### Conditions as words -/

theorem boolW_truth {b : Bool} {p : Prop} [Decidable p] (h : b = true ↔ p) : boolW b = truth p := by
  simp only [boolW, truth, h]

theorem sx_toInt (imm : BitVec 14) : (imm.signExtend 64).toInt = imm.toInt :=
  BitVec.toInt_signExtend_of_le (by decide)

/-- The bits that a shift leaves zero take the immediate (R124). -/
theorem shift_or_imm (v : BitVec 64) (imm : BitVec 14) : v <<< 14 ||| imm.zeroExtend 64 = v * 16384 + imm.zeroExtend 64 := by
  have hdisj : v <<< 14 &&& imm.zeroExtend 64 = 0 := by
    ext i hi
    by_cases h : i < 14
    · simp [h]
    · simp [BitVec.getLsbD_of_ge _ _ (Nat.le_of_not_lt h)]
  rw [← BitVec.add_eq_or_of_and_eq_zero _ _ hdisj, BitVec.shiftLeft_eq_mul_twoPow]
  rfl

/-! ### The shapes of bodies -/

section
variable {c : Instr} {s : State} {x : Exec} {op : Op} {rd rs rt : BitVec 5}

/-- What is computed from a word of any tag. -/
theorem passOp_result (f : W → W) (h : Ready s x op) (hc : exec c s = .next (issue x op (passOp f rd rs) s).tick) :
    Result c s x rd (f (xreg s x rs)) :=
  toReg_result h hc rfl rfl

theorem intOp_result (f : BitVec 64 → BitVec 64 → BitVec 64) (ha : IsInt (xreg s x rs)) (hb : IsInt (xreg s x rt)) (h : Ready s x op)
    (hc : exec c s = .next (issue x op (intOp f rd rs rt) s).tick) :
    Result c s x rd ⟨tag2 (xreg s x rs) (xreg s x rt), f (xreg s x rs).payload (xreg s x rt).payload⟩ :=
  toReg_result h hc rfl (by rw [ints_ok (e := env x op) ha hb]; rfl)

theorem shiftOp_result (f : BitVec 64 → Nat → BitVec 64) (ha : IsInt (xreg s x rs)) (hb : IsInt (xreg s x rt)) (h : Ready s x op)
    (hc : exec c s = .next (issue x op (shiftOp f rd rs rt) s).tick) :
    Result c s x rd ⟨(xreg s x rs).tag, f (xreg s x rs).payload ((xreg s x rt).payload.toNat % 64)⟩ :=
  toReg_result h hc rfl (by rw [ints_ok (e := env x op) ha hb]; rfl)

theorem ult_result (ha : IsInt (xreg s x rs)) (hb : IsInt (xreg s x rt)) (h : Ready s x op)
    (hc : exec c s = .next (issue x op (ultBody rd rs rt) s).tick) :
    Result c s x rd (truth ((xreg s x rs).payload.toNat < (xreg s x rt).payload.toNat)) := by
  refine toReg_result h hc rfl ?_
  rw [ints_ok (e := env x op) ha hb]
  exact congrArg Except.ok (boolW_truth decide_eq_true_iff)

theorem wordCond_result (f : W → W → Bool) {p : Prop} [Decidable p] (ha : Whole (xreg s x rs)) (hb : Whole (xreg s x rt))
    (hp : f (xreg s x rs) (xreg s x rt) = true ↔ p) (h : Ready s x op)
    (hc : exec c s = .next (issue x op (wordCond f rd rs rt) s).tick) : Result c s x rd (truth p) := by
  refine toReg_result h hc rfl ?_
  simp only [env_x, chk_whole ha, chk_whole hb]
  exact congrArg Except.ok (boolW_truth hp)

theorem immOp_result (f : BitVec 64 → BitVec 64) (ha : IsInt (xreg s x rs)) (h : Ready s x op)
    (hc : exec c s = .next (issue x op (immOp f rd rs) s).tick) :
    Result c s x rd ⟨(xreg s x rs).tag, f (xreg s x rs).payload⟩ :=
  toReg_result h hc rfl (by rw [int1_ok (e := env x op) ha]; rfl)

theorem fixCond_result (f : BitVec 64 → Bool) {p : Prop} [Decidable p] (ha : IsFix (xreg s x rs)) (hp : f (xreg s x rs).payload = true ↔ p)
    (h : Ready s x op) (hc : exec c s = .next (issue x op (fixCond f rd rs) s).tick) : Result c s x rd (truth p) := by
  refine toReg_result h hc rfl ?_
  simp only [env_x, chk_fix ha]
  exact congrArg Except.ok (boolW_truth hp)

/-! ### Tags -/

/-- The kind of a word is the high two bits of its tag (R24). -/
theorem kind_eq_iff (tag : BitVec 10) (kind : BitVec 2) : (tag.extractLsb' 8 2 == kind) = true ↔ tag.toNat / 256 = kind.toNat := by
  have h : (tag.extractLsb' 8 2).toNat = tag.toNat / 256 := by
    simp only [BitVec.extractLsb'_toNat, Nat.shiftRight_eq_div_pow]
    omega
  rw [beq_iff_eq, ← h]
  exact BitVec.toNat_inj.symm

/-- A tag that is not reserved, on a word that is no character out of range (R25, R27). -/
theorem retag_ok {w : W} {tag : BitVec 10} (hres : reservedTag tag = false)
    (hchar : tag = 0x003 → w.payload.toNat ≤ 0x10FFFF ∧ (w.payload.toNat < 0xD800 ∨ 0xDFFF < w.payload.toNat)) :
    retag w tag = .ok ⟨tag, if tag = 0x000 ∨ tag = 0x004 ∨ tag = 0x005 ∨ tag = 0x00F then 0 else w.payload⟩ := by
  have hrange : ¬ (tag = 0x003 ∧ (0x10FFFF < w.payload.toNat ∨ (0xD800 ≤ w.payload.toNat ∧ w.payload.toNat ≤ 0xDFFF))) := by
    rintro ⟨ht, hout⟩
    have := hchar ht
    omega
  simp only [retag, hres, if_neg hrange, Bool.false_eq_true, if_false]
  split <;> rfl

theorem settag_result {tag : BitVec 10} (ha : Whole (xreg s x rs)) (hsup : xsup s x = true) (hres : reservedTag tag = false)
    (hchar : tag = 0x003 → (xreg s x rs).payload.toNat ≤ 0x10FFFF ∧ ((xreg s x rs).payload.toNat < 0xD800 ∨ 0xDFFF < (xreg s x rs).payload.toNat))
    (h : Ready s x op) (hc : exec c s = .next (issue x op (settagBody rd rs tag) s).tick) :
    Result c s x rd ⟨tag, if tag = 0x000 ∨ tag = 0x004 ∨ tag = 0x005 ∨ tag = 0x00F then 0 else (xreg s x rs).payload⟩ := by
  refine toReg_result h hc rfl ?_
  simp only [env_x, hsup, hres, chk_whole ha, retag_ok hres hchar]
  rfl

/-! ### Operands that are no integers -/

/-- A body that leaves the state as it was leaves nothing besides its exception. -/
theorem kept_self (s : State) (x : Exec) : kept s x s = s := if_pos rfl

/-- An instruction that computes a word and stops at an exception has no other effect. -/
theorem toReg_raises {f : Env → State → Res W} {e : Exn} (h : Ready s x op) (hf : f (env x op) s = .error (.exn e))
    (hc : exec c s = .next (issue x op (toReg rd f) s).tick) : Gives c s (raiseX s x e).tick := by
  rw [Gives, hc, issue_exn h (toReg_error hf), kept_self]

theorem ints_raises (f : W × W → W) (h : Ready s x op)
    (hc : exec c s = .next (issue x op (toReg rd fun e s => (ints e s rs rt).map f) s).tick) :
    (Whole (xreg s x rs) → ¬ IsInt (xreg s x rs) →
      Gives c s (raiseX s x ⟨0x05, 0, BitVec.ofNat 64 (1 + 1024 * (xreg s x rs).tag.toNat), none, 0⟩).tick) ∧
    (IsInt (xreg s x rs) → Whole (xreg s x rt) → ¬ IsInt (xreg s x rt) →
      Gives c s (raiseX s x ⟨0x05, 0, BitVec.ofNat 64 (1 + 256 + 1024 * (xreg s x rt).tag.toNat), none, 0⟩).tick) := by
  refine ⟨fun hw hn => toReg_raises h ?_ hc, fun hi hw hn => toReg_raises h ?_ hc⟩
  · rw [ints_left (e := env x op) hw hn]; rfl
  · rw [ints_right (e := env x op) hi hw hn]; rfl
end

end Sys2Proof.Claims

open Sys2Proof Sys2Proof.Machine Sys2Proof.Claims

/-- Settles O10: the shape of each body says what it computes from its operands. -/
theorem integerResults : Obligations.IntegerResults := by
  intro s x rd rs rt a b
  refine ⟨fun h => passOp_result (fun w => w) h rfl, fun h => ?_, fun ha hb =>
    ⟨fun h => intOp_result (· + ·) ha hb h rfl, fun h => intOp_result (· - ·) ha hb h rfl, fun h => intOp_result (· * ·) ha hb h rfl,
     fun h => intOp_result (· &&& ·) ha hb h rfl, fun h => intOp_result (· ||| ·) ha hb h rfl, fun h => intOp_result (· ^^^ ·) ha hb h rfl,
     fun h => intOp_result (fun p q => p &&& ~~~q) ha hb h rfl, fun h => shiftOp_result shlF ha hb h rfl,
     fun h => shiftOp_result shrF ha hb h rfl, fun h => shiftOp_result sarF ha hb h rfl, fun h => ult_result ha hb h rfl⟩,
    fun ha hb => ⟨fun h => wordCond_result identical ha hb Iff.rfl h rfl,
      fun h => wordCond_result (fun p q => !identical p q) ha hb (by simp [a, b]) h rfl⟩⟩
  have hw : fixW a.tag.toNat = ⟨0x001, a.tag.zeroExtend 64⟩ := by simp [fixW]
  exact hw ▸ passOp_result (fun w => fixW w.tag.toNat) h rfl

/-- Settles O11: immediates are sign-extended, so that a comparison of payloads is one of the numbers. -/
theorem immediateResults : Obligations.ImmediateResults := by
  intro s x rd rs imm sh tag kind a v
  have hv : v.toInt = imm.toInt := sx_toInt imm
  refine ⟨fun h => toReg_result h rfl rfl rfl, fun h => toReg_result h rfl rfl rfl, fun ha =>
    ⟨fun h => ?_, fun h => immOp_result (shlF · sh.toNat) ha h rfl, fun h => immOp_result (shrF · sh.toNat) ha h rfl,
     fun h => immOp_result (sarF · sh.toNat) ha h rfl, fun h => immOp_result (· &&& v) ha h rfl⟩, fun ha =>
    ⟨fun h => fixCond_result (· == v) ha ?_ h rfl, fun h => fixCond_result (·.slt v) ha ?_ h rfl,
     fun h => fixCond_result (·.sle v) ha ?_ h rfl, fun h => fixCond_result v.slt ha ?_ h rfl⟩, fun h => ?_, fun h => ?_,
    fun ha hsup hres hchar h => settag_result ha hsup hres hchar h rfl⟩
  · exact shift_or_imm a.payload imm ▸ immOp_result (fun p => p <<< 14 ||| imm.zeroExtend 64) ha h rfl
  · rw [← hv, beq_iff_eq]; exact BitVec.toInt_inj.symm
  · rw [← hv]; exact BitVec.slt_iff_toInt_lt
  · rw [← hv]; exact BitVec.sle_iff_toInt_le
  · rw [← hv]; exact BitVec.slt_iff_toInt_lt
  · exact boolW_truth (p := a.tag = tag) beq_iff_eq ▸ passOp_result (fun w => boolW (w.tag == tag)) h rfl
  · exact boolW_truth (kind_eq_iff a.tag kind) ▸ passOp_result (fun w => boolW (w.tag.extractLsb' 8 2 == kind)) h rfl

/-- Settles O12: the operands of the eleven instructions are checked alike, rs before rt. -/
theorem integerTagTraps : Obligations.IntegerTagTraps := by
  intro s x rd rs rt c o hmem h
  simp only [List.mem_cons, Prod.mk.injEq, List.not_mem_nil, or_false] at hmem
  obtain ⟨rfl, rfl⟩ | ⟨rfl, rfl⟩ | ⟨rfl, rfl⟩ | ⟨rfl, rfl⟩ | ⟨rfl, rfl⟩ | ⟨rfl, rfl⟩ | ⟨rfl, rfl⟩ |
    ⟨rfl, rfl⟩ | ⟨rfl, rfl⟩ | ⟨rfl, rfl⟩ | ⟨rfl, rfl⟩ := hmem
  all_goals exact ints_raises _ h rfl
end

section
/-! PROOFS. Floating-point instructions on a bank that is bound: what an operation computes goes to its register, and its flags to fpsr. -/

namespace Sys2Proof.Claims

open Sys2Proof.Machine

section
variable {c : Instr} {s : State} {x : Exec} {op : Op} {b : Nat}

/-- A bank that is bound, of the world of x and unclaimed is used at once (R99, R101). -/
theorem needBank_ok (hb : BankOk s x b) : needBank (env x op) s = (.ok b, s) := by
  obtain ⟨hbound, rfl, hown, hclaim⟩ := hb
  have hbank : ¬ (!((xrec s x).fpBound && (banksOf s (xworld s x)).contains (xrec s x).fpBank.toNat)) = true := by
    rw [hbound, hown]; decide
  have hfree : ¬ (tget (s.core (xcore x)).claim (xrec s x).fpBank.toNat).isSome = true := by rw [hclaim]; decide
  simp only [needBank, get_bind, env_x]
  exact (congrFun (if_neg hbank) s).trans (congrFun (if_neg hfree) s)

/-- Flags of which none is enabled to trap are ORed into fpsr (R150, R151). -/
theorem raiseFlags_ok {α : Type} {k : Nat} {r : α × Fl} (h : NoTrap s x r) : raiseFlags (env x op) k r.2 s = (.ok (), flagged s x r) := by
  have htrap : ¬ trapped (xfpsr s x) (r.2.bits (xfpsr s x)) = true := by rw [h]; decide
  simp only [raiseFlags, get_bind, env_x]
  exact congrFun (if_neg htrap) s

/-- An operation that raises no flag does not trap. -/
theorem noTrap_of_noFlags {α : Type} (v : α) : NoTrap s x (v, ({} : Fl)) := by
  simp [NoTrap, trapped, Fl.bits, b2n]

/-- An operation on registers of the bank: the result goes to fd, the flags to fpsr. -/
theorem fpOp_gives {fd : BitVec 5} {srcs : List (BitVec 5)} (f : Rm → List F64 → F64 × Fl) (hb : BankOk s x b) (h : Ready s x op)
    (ht : NoTrap s x (f (rmOf (xfpsr s x)) (srcs.map (fpGet s (xcore x) b)))) (hc : exec c s = .next (issue x op (fpOp fd srcs f) s).tick) :
    Gives c s (fpDone s x b fd (f (rmOf (xfpsr s x)) (srcs.map (fpGet s (xcore x) b)))) := by
  rw [Gives, hc, fpDone]
  refine congrArg _ (issue_next h ?_)
  simp only [fpOp, bind_ok (needBank_ok hb), get_bind, env_x, bind_ok (raiseFlags_ok ht), modify_bind]
  rfl

theorem fpBin_gives {fd fs ft : BitVec 5} (f : Rm → F64 → F64 → F64 × Fl) (hb : BankOk s x b) (h : Ready s x op)
    (ht : NoTrap s x (f (rmOf (xfpsr s x)) (fpGet s (xcore x) b fs) (fpGet s (xcore x) b ft)))
    (hc : exec c s = .next (issue x op (fpBin f fd fs ft) s).tick) :
    Gives c s (fpDone s x b fd (f (rmOf (xfpsr s x)) (fpGet s (xcore x) b fs) (fpGet s (xcore x) b ft))) :=
  fpOp_gives (srcs := [fs, ft]) (fun rm l => f rm (l.getD 0 0) (l.getD 1 0)) hb h ht hc

/-- An operation that copies a register but for its sign raises no flag. -/
theorem fpMove_gives {fd fs : BitVec 5} (f : F64 → F64) (hb : BankOk s x b) (h : Ready s x op)
    (hc : exec c s = .next (issue x op (fpMove f fd fs) s).tick) : Gives c s (fpDone s x b fd (f (fpGet s (xcore x) b fs), {})) :=
  fpOp_gives (srcs := [fs]) (fun _ l => (f (l.getD 0 0), {})) hb h (noTrap_of_noFlags (f (fpGet s (xcore x) b fs))) hc

/-- A comparison of two registers of the bank: its truth goes to a general register, its flags to fpsr. -/
theorem fpRel_gives {rd fs ft : BitVec 5} {k : Nat} {r : Bool × Fl} (hb : BankOk s x b) (h : Ready s x op)
    (hr : frel k (fdec (fpGet s (xcore x) b fs)) (fdec (fpGet s (xcore x) b ft))
      (isSnan (fpGet s (xcore x) b fs) || isSnan (fpGet s (xcore x) b ft)) = r)
    (ht : NoTrap s x r) (hc : exec c s = .next (issue x op (fpRel k rd fs ft) s).tick) :
    Gives c s (advanced (setXreg (flagged s x r) x rd (boolW r.1)) x) := by
  rw [Gives, hc]
  refine congrArg _ (issue_next h ?_)
  simp only [fpRel, bind_ok (needBank_ok hb), get_bind, env_x, hr, bind_ok (raiseFlags_ok ht), modify_bind]
  rfl

theorem fmvgfBody_ok {fd rs : BitVec 5} (hb : BankOk s x b) (ha : (xreg s x rs).tag = 0x002) :
    fmvgfBody fd rs (env x op) s = (.ok .next, fpPut s (xcore x) b fd (xreg s x rs).payload) := by
  have hchk : chk (env x op) 0 (xreg s x rs) ((xreg s x rs).tag == 0x002) = .ok () :=
    chk_pass (whole_of_tag ha (by decide)) (beq_iff_eq.mpr ha)
  simp only [fmvgfBody, bind_ok (needBank_ok hb), get_bind, env_x, chkM_bind_ok hchk, set_bind]
  rfl

theorem fmvfgBody_ok {rd fs : BitVec 5} (hb : BankOk s x b) :
    fmvfgBody rd fs (env x op) s = (.ok .next, setXreg s x rd ⟨0x002, fpGet s (xcore x) b fs⟩) := by
  simp only [fmvfgBody, bind_ok (needBank_ok hb), get_bind, env_x, set_bind]
  rfl

theorem fcvtxfBody_ok {fd rs : BitVec 5} {r : F64 × Fl} (hb : BankOk s x b) (ha : IsFix (xreg s x rs))
    (hr : fromInt (rmOf (xfpsr s x)) (xreg s x rs).payload.toInt = r) (ht : NoTrap s x r) :
    fcvtxfBody fd rs (env x op) s = (.ok .next, fpPut (flagged s x r) (xcore x) b fd r.1) := by
  have hchk : chk (env x op) 0 (xreg s x rs) ((xreg s x rs).tag == 0x001) = .ok () := chk_fix ha
  simp only [fcvtxfBody, bind_ok (needBank_ok hb), get_bind, env_x, chkM_bind_ok hchk, hr, bind_ok (raiseFlags_ok ht), modify_bind]
  rfl

theorem fcvtfxBody_ok {rd fs : BitVec 5} {r : BitVec 64 × Fl} (hb : BankOk s x b)
    (hr : toFix (rmOf (xfpsr s x)) (fpGet s (xcore x) b fs) = r) (ht : NoTrap s x r) :
    fcvtfxBody rd fs (env x op) s = (.ok .next, setXreg (flagged s x r) x rd ⟨0x001, r.1⟩) := by
  simp only [fcvtfxBody, bind_ok (needBank_ok hb), get_bind, env_x, hr, bind_ok (raiseFlags_ok ht), modify_bind]
  rfl
end

/-! ### Bit 4 of a field that names a register of the bank (R118) -/

/-- An instruction with fields of the bank is refused for nothing but bit 4 of one of them. -/
theorem bad_of_fpFields {o : Op} (h : o.fpFields ≠ []) (fic : Bool) :
    o.bad fic = if o.fpFields.any fun r => r.getLsbD 4 then some 8 else none := by
  cases o
  case bt | bnt | atomic | alloc | mfs | mts | ctxrd | ctxwr => exact absurd rfl h
  all_goals rfl

section
variable {s : State} {n : BitVec 16} {o : Op}

theorem preChecks_of_word {r : Res Unit} (hpc : pcChecks (env (.ctx n) o) s = .ok ()) (hbus : busCheck (env (.ctx n) o) s = .ok ())
    (hr : wordChecks (.ctx n) o o.word = r) : preChecks { x := .ctx n, word := o.word } s o = r := by
  subst hr
  change (pcChecks (env (.ctx n) o) s >>= fun _ => busCheck (env (.ctx n) o) s >>= fun _ => wordChecks (.ctx n) o o.word) = _
  rw [hpc, hbus]
  rfl

/-- A context's instruction whose word the checks refuse takes that exception and does nothing else. -/
theorem issue_refused {body : Body_} {e : Exn} (hi : canIssue s (.ctx n) = true) (hb : bankArmed s (.ctx n) = false)
    (hf : faultDue s (.ctx n) = false) (hp : preChecks { x := .ctx n, word := o.word } s o = .error (.exn e)) :
    issue (.ctx n) o body s = raiseX (clearBus s (.ctx n)) (.ctx n) e := by
  simp [issue, bankRead, hi, hb, hf, hp]
end

end Sys2Proof.Claims

open Sys2Proof Sys2Proof.Machine Sys2Proof.Claims

/-- Settles O14: each operation is one function of the registers of the bank, with its flags. -/
theorem fpArithmetic : Obligations.FpArithmetic := by
  intro s x fd fs ft b hb m g
  exact ⟨fun h ht => fpBin_gives fadd hb h ht rfl, fun h ht => fpBin_gives fsub hb h ht rfl, fun h ht => fpBin_gives fmul hb h ht rfl,
    fun h ht => fpBin_gives fdiv hb h ht rfl,
    fun h ht => fpOp_gives (srcs := [fd, fs, ft]) (fun rm l => ffma rm (l.getD 0 0) (l.getD 1 0) (l.getD 2 0)) hb h ht rfl,
    fun h ht => fpBin_gives (fun _ => fminmax false) hb h ht rfl, fun h ht => fpBin_gives (fun _ => fminmax true) hb h ht rfl,
    fun h ht => fpOp_gives (srcs := [fs]) (fun rm l => fsqrt rm (l.getD 0 0)) hb h ht rfl, fun h => fpMove_gives fnegB hb h rfl,
    fun h => fpMove_gives (· &&& 0x7FFFFFFFFFFFFFFF) hb h rfl, fun h => fpMove_gives (fun v => v) hb h rfl⟩

/-- Settles O15: comparisons and conversions raise their flags, moves raise none. -/
theorem fpComparesAndMoves : Obligations.FpComparesAndMoves := by
  intro s x rd rs fd fs ft b hb m g a
  exact ⟨fun h ht => fpRel_gives hb h rfl ht rfl, fun h ht => fpRel_gives hb h rfl ht rfl, fun h ht => fpRel_gives hb h rfl ht rfl,
    fun h ha => congrArg Host.Outcome.next (issue_next h (fmvgfBody_ok hb ha)),
    fun h => congrArg Host.Outcome.next (issue_next h (fmvfgBody_ok hb)),
    fun h ha ht => congrArg Host.Outcome.next (issue_next h (fcvtxfBody_ok hb ha rfl ht)),
    fun h ht => congrArg Host.Outcome.next (issue_next h (fcvtfxBody_ok hb rfl ht))⟩

/-- Settles O17: the fetch checks pass, so the check of the word decides, and of such a word it looks at bit 4 alone. -/
theorem fpFieldBit4 : Obligations.FpFieldBit4 := by
  intro s n o body hi hb hf hpc hbus hne
  have hbad := bad_of_fpFields hne false
  refine ⟨fun hset => issue_refused hi hb hf (preChecks_of_word hpc hbus ?_), fun hclear hmicro => ⟨hi, hb, hf, preChecks_of_word hpc hbus ?_, hmicro⟩⟩
  · rw [if_pos (List.any_eq_true.mpr hset)] at hbad
    simp only [wordChecks, isFicX, hbad]
    rfl
  · rw [if_neg (by simpa using hclear)] at hbad
    simp only [wordChecks, isFicX, hbad]
    rfl
end

section
/-! PROOFS. Accesses to write-back memory at addresses that translate and are not global, with the collector's barriers off: a load that
finds its line, a posted store, and what the operands of an access name. -/

namespace Sys2Proof.Claims

open Sys2Proof.Machine

/-- No write of the GC registers is on its way to the core of x, and the barriers are off (R257, R258). -/
abbrev GcOff (s : State) (x : Exec) : Prop := s.gcLag.contains (xcore x) = false ∧ (gcOf s x).en = false

/-! ### Conditions of a body -/

section
variable {α : Type} {p : Prop} [Decidable p] {m n : M α} {s : State}

theorem run_if_pos (h : p) : (if p then m else n) s = m s := congrFun (if_pos h) s
theorem run_if_neg (h : ¬ p) : (if p then m else n) s = n s := congrFun (if_neg h) s
end

/-- A part of a body that is done under a condition, and leaves the state as it is. -/
theorem run_guard {α : Type} {p : Prop} [Decidable p] {m : M Unit} {f : Unit → M α} {s : State} (h : p → m s = (.ok (), s)) :
    (if p then m >>= f else f ()) s = f () s := by
  by_cases hp : p
  · rw [run_if_pos hp, bind_ok (h hp)]
  · rw [run_if_neg hp]

/-- An instruction whose body ends without a jump completes at the next instruction. -/
theorem gives_next {c : Instr} {s u : State} {x : Exec} {op : Op} {body : Body_} (h : Ready s x op)
    (hb : body (env x op) s = (.ok .next, u)) (hc : exec c s = .next (issue x op body s).tick) : Gives c s (advanced u x) := by
  rw [Gives, hc, issue_next h hb]

/-! ### Barriers that are off -/

section
variable {e : Env} {s : State} {va : BitVec 59} {l : Leaf} {v w : W} {g : Gc}

theorem gcNow_off (h : GcOff s e.x) : gcNow e s = (.ok (gcOf s e.x), s) := by
  have hnot : xcore e.x ∉ s.gcLag := by simpa using h.1
  rw [gcNow, modify_bind, applyGc_applied s _ hnot, get_bind, pure_eq]

theorem loadBarrier_off (h : GcOff s e.x) (slot : Option Leaf) : loadBarrier e va slot w s = (.ok w, s) := by
  rw [loadBarrier, bind_ok (gcNow_off h)]
  exact run_if_pos (by simp [h.2])

theorem logAligned_off (hg : g.en = false) (r : Rec) (l : Leaf) : logAligned e r g (fun l => usesRs g l v) l = .ok () := by
  simp [logAligned, usesSa, usesRs, hg]

/-- With the barriers off the slot of a word store translates like any other. -/
theorem translateSlot_off (hg : g.en = false) (acc : Nat) (reg : BitVec 64) :
    translateSlot e g acc va v reg s = translate e acc va 8 (some reg) s := by
  rw [translateSlot, Machine.translate, get_bind, get_bind, funext (logAligned_off hg (xrec s e.x))]

theorem storeBarrier_off (hg : g.en = false) (hw : watch s e.x va true = .ok ()) :
    storeBarrier e g va l v s = (.ok { m := g.m }, s) := by
  have hsa : usesSa g l = false := by simp [usesSa, hg]
  have hrs : usesRs g l v = false := by simp [usesRs, hg]
  have hlog : ∀ ptr, logFor e false ptr s = (.ok none, s) := fun _ => rfl
  simp only [storeBarrier, get_bind, chkM_bind_ok (logAligned_off hg (xrec s e.x) l), hsa, hrs, bind_ok (hlog _), chkM_bind_ok hw]
  rfl

/-! ### Loads -/

theorem aligned_ok {size acc : Nat} (h : va.toNat % size = 0) : aligned e va size acc = .ok () := if_pos h

/-- An access of a page that is not mt = 11 waits for no other (R207). -/
theorem waitSide_wb (x : Exec) : waitSide x 0 s = (.ok (), s) := by
  rw [waitSide, get_bind]
  exact run_if_neg (by simp)

section
variable {t : State} {size : Nat} {acq : Bool}

/-- A load of write-back memory at an address that is not global delivers what the cache holds of its word. -/
theorem rawLoad_word (hm : Mapped e s va 0 size none l t)
    (hword : cacheWord e (l.lpa va / 8) 0 (pteNa l.pte) false t = (.ok w, t)) : rawLoad e va size acq s = (.ok (w, some l), t) := by
  obtain ⟨hpriv, hal, htr, hwatch, hmt, hreg, -⟩ := hm
  have hwatch : watch t e.x va false = .ok () := hwatch
  have hkeep : keepLeaf va l (cacheWord e (l.lpa va / 8) 0 (pteNa l.pte) false) t = (.ok w, t) := by simp only [keepLeaf, hword]
  rw [rawLoad, chkM_bind_ok (aligned_ok hal)]
  refine (run_if_neg (by simp [hpriv])).trans ?_
  rw [bind_ok htr, get_bind, chkM_bind_ok hwatch, hmt, bind_ok (waitSide_wb _), if_neg (by simp [hreg]), bind_ok hkeep, pure_eq]

theorem loadWord_ok (hraw : rawLoad e va 8 acq s = (.ok (w, some l), t)) (hw : w.tag ≠ 0x000) (hoff : GcOff t e.x) :
    loadWord e va acq s = (.ok w, t) := by
  rw [loadWord, bind_ok hraw]
  exact (run_if_neg fun h => hw h.1).trans (loadBarrier_off hoff _)

theorem loadPlain_ok (hraw : rawLoad e va 8 false s = (.ok (w, some l), t)) : loadPlain e va s = (.ok w, t) := by
  rw [loadPlain, bind_ok hraw]; rfl

theorem loadBytes_ok (hraw : rawLoad e va size false s = (.ok (w, some l), t)) (hw : w.tag = 0x006) :
    loadBytes e va size s = (.ok (rawW (bitsN w.payload (8 * (va.toNat % 8)) (8 * size))), t) := by
  rw [loadBytes, bind_ok hraw]
  exact run_if_pos hw

theorem chkMem_pass {ok : Bool} (h : Whole w) (g : ok = true) : chkMem e va w ok = .ok () := by
  obtain ⟨hlost, huninit, hres⟩ := h
  rw [chkMem, if_neg hlost, if_neg huninit, if_neg (by simp [hres]), if_pos g]

theorem loadChecked_ok {ok : W → Bool} {extra : W → Res Unit} (hraw : rawLoad e va 8 false s = (.ok (w, some l), t)) (hw : Whole w)
    (hok : ok w = true) (hextra : extra w = .ok ()) (hoff : GcOff t e.x) : loadChecked e va ok extra s = (.ok w, t) := by
  rw [loadChecked, bind_ok hraw]
  refine (run_if_neg fun h => hw.2.1 h.1).trans ?_
  rw [chkM_bind_ok (chkMem_pass hw hok), chkM_bind_ok hextra, loadBarrier_off hoff]
end
end

section
variable {s t : State} {x : Exec} {op : Op} {va : BitVec 59} {w : W} {size : Nat}

/-- A read that answers at once delivers its word and leaves the barriers off. -/
theorem Reads.rawLoad (h : Reads (env x op) s va size w t) : ∃ l, ∀ acq, rawLoad (env x op) va size acq s = (.ok (w, some l), t) := by
  obtain ⟨l, h, hm, hh, hit, rfl⟩ := h
  exact ⟨l, fun _ => rawLoad_word hm (cacheWord_held hh hit _ _)⟩

theorem Reads.gcOff (h : Reads (env x op) s va size w t) : GcOff t x := by
  obtain ⟨l, h, ⟨-, -, -, -, -, -, -, hoff⟩, -⟩ := h
  exact hoff

theorem Reads.loadWord (h : Reads (env x op) s va 8 w t) (hw : w.tag ≠ 0x000) (acq : Bool) :
    loadWord (env x op) va acq s = (.ok w, t) := by
  obtain ⟨l, hraw⟩ := h.rawLoad
  exact loadWord_ok (hraw acq) hw h.gcOff

theorem Reads.loadChecked (h : Reads (env x op) s va 8 w t) (hw : Whole w) {ok : W → Bool} {extra : W → Res Unit} (hok : ok w = true)
    (hextra : extra w = .ok ()) : loadChecked (env x op) va ok extra s = (.ok w, t) := by
  obtain ⟨l, hraw⟩ := h.rawLoad
  exact loadChecked_ok (hraw false) hw hok hextra h.gcOff
end

/-! ### Bases -/

section
variable {s : State} {x : Exec} {op : Op} {rs rt : BitVec 5} {w : W}

theorem baseOf_ok (k : Nat) (h : Base s x w) : baseOf (env x op) s k w = .ok (vaOf w) := by
  obtain ⟨hw, hb⟩ := h
  have hok : (isPtr w || (xsup s x && (w.tag == 0x300 || w.tag == 0x006))) = true := by simpa using hb
  simp only [baseOf, env_x, chk_pass hw hok]
  rfl

theorem indexed_ok (h : Base s x (xreg s x rs)) (hi : IsFix (xreg s x rt)) :
    indexed (env x op) rs rt s = (.ok (addOff (vaOf (xreg s x rs)) ((xreg s x rt).payload * 8)), s) := by
  have hchk : chk (env x op) 1 (xreg s x rt) ((xreg s x rt).tag == 0x001) = .ok () := chk_fix hi
  simp only [indexed, get_bind, env_x, chkM_bind_ok (baseOf_ok 0 h), chkM_bind_ok hchk]
  rfl

theorem baseAligned_ok {va : BitVec 59} {size acc : Nat} (h : Through s x w) : baseAligned (env x op) w va size acc = .ok () := by
  refine if_neg fun hc => ?_
  simp only [Bool.and_eq_true, Bool.or_eq_true, beq_iff_eq, bne_iff_ne, ne_eq] at hc
  exact hc.2 (h.2 hc.1)

theorem through_ok {va : BitVec 59} {size acc : Nat} (h : Through s x (xreg s x rs)) :
    through (env x op) rs va size acc s = (.ok (), s) := by
  rw [through, get_bind, chkM_eq]
  exact congrArg (·, s) (baseAligned_ok h)
end

end Sys2Proof.Claims
end

section
/-! PROOFS. Loads whose line the core holds. -/

namespace Sys2Proof.Claims

open Sys2Proof.Machine

section
variable {c : Instr} {s t : State} {x : Exec} {op : Op} {rd rs rt : BitVec 5} {va : BitVec 59} {w : W}

/-- A load through a base writes the word of its line to rd. -/
theorem loadTo_gives {addr : Env → M (BitVec 59)} {acq : Bool} (h : Ready s x op) (hb : Through s x (xreg s x rs))
    (haddr : addr (env x op) s = (.ok va, s)) (hr : Reads (env x op) s va 8 w t) (hw : w.tag ≠ 0x000)
    (hc : exec c s = .next (issue x op (loadTo addr rd rs acq) s).tick) : Gives c s (advanced (setXreg t x rd w) x) := by
  refine gives_next h ?_ hc
  rw [loadTo, bind_ok haddr, bind_ok (through_ok hb), bind_ok (hr.loadWord hw acq), putRd_eq, env_x]

theorem ldwPBody_ok {imm : BitVec 14} (hb : Through s x (xreg s x rs)) (hsup : xsup s x = true)
    (hr : Reads (env x op) s (addOff (vaOf (xreg s x rs)) (imm.signExtend 64)) 8 w t) :
    ldwPBody rd rs imm (env x op) s = (.ok .next, setXreg t x rd w) := by
  obtain ⟨l, hraw⟩ := hr.rawLoad
  have hneed : needSup (env x op) s = .ok () := needSup_ok hsup
  simp only [ldwPBody, get_bind, chkM_bind_ok hneed, bind_ok (effective_ok (sx imm) hb.1), bind_ok (through_ok hb)]
  rw [sx, bind_ok (loadPlain_ok (hraw false)), putRd_eq, env_x]

theorem ldpcBody_ok {off : BitVec 21} (hr : Reads (env x op) s (branchTo (xpc s x) off) 8 w t) (hw : w.tag ≠ 0x000) :
    ldpcBody rd off (env x op) s = (.ok .next, setXreg t x rd w) := by
  rw [ldpcBody, get_bind, env_x, bind_ok (hr.loadWord hw false), putRd_eq, env_x]

/-- A load of part of a RAW word delivers that part as RAW (R130). -/
theorem loadPart_gives {size : Nat} {imm : BitVec 14} (h : Ready s x op) (hb : Through s x (xreg s x rs))
    (hr : Reads (env x op) s (addOff (vaOf (xreg s x rs)) (imm.signExtend 64)) size w t) (hw : w.tag = 0x006)
    (hc : exec c s = .next (issue x op (loadPart size rd rs imm) s).tick) :
    Gives c s (advanced (setXreg t x rd
      (rawW (bitsN w.payload (8 * ((addOff (vaOf (xreg s x rs)) (imm.signExtend 64)).toNat % 8)) (8 * size)))) x) := by
  obtain ⟨l, hraw⟩ := hr.rawLoad
  refine gives_next h ?_ hc
  rw [loadPart, bind_ok (effective_ok (sx imm) hb.1), bind_ok (through_ok hb), sx, bind_ok (loadBytes_ok (hraw false) hw), putRd_eq, env_x]

/-- CAR and CDR of a CONS load one of its words (R132). -/
theorem car_gives {off : Nat} (h : Ready s x op) (ha : (xreg s x rs).tag = 0x100)
    (hr : Reads (env x op) s (vaOf (xreg s x rs) + BitVec.ofNat 59 off) 8 w t) (hw : w.tag ≠ 0x000)
    (hc : exec c s = .next (issue x op (carBody_ off rd rs) s).tick) : Gives c s (advanced (setXreg t x rd w) x) := by
  refine gives_next h ?_ hc
  have hchk : chk (env x op) 0 (xreg s x rs) ((xreg s x rs).tag == 0x100 || (xreg s x rs).tag == 0x004) = .ok () :=
    chk_pass (whole_of_tag ha (by decide)) (by simp [ha])
  simp only [carBody_, get_bind, env_x, chkM_bind_ok hchk]
  refine (run_if_neg (by simp [ha])).trans ?_
  rw [bind_ok (hr.loadWord hw false), putRd_eq, env_x]

theorem carBody_nil {off : Nat} (ha : (xreg s x rs).tag = 0x004) :
    carBody_ off rd rs (env x op) s = (.ok .next, setXreg s x rd nilW) := by
  have hchk : chk (env x op) 0 (xreg s x rs) ((xreg s x rs).tag == 0x100 || (xreg s x rs).tag == 0x004) = .ok () :=
    chk_pass (whole_of_tag ha (by decide)) (by simp [ha])
  simp only [carBody_, get_bind, env_x, chkM_bind_ok hchk]
  exact run_if_pos ha
end

end Sys2Proof.Claims

open Sys2Proof Sys2Proof.Machine Sys2Proof.Claims

/-- Settles O19: the forms differ in how they name the address and in what they take of the word that is read. -/
theorem loadHits : Obligations.LoadHits := by
  intro s x rd rs rt imm off a
  exact ⟨fun w t h hb hr hw => loadTo_gives h hb (effective_ok (sx imm) hb.1) hr hw rfl,
    fun w t h hb hr hw => loadTo_gives h hb (effective_ok (sx imm) hb.1) hr hw rfl,
    fun w t h hb hsup hr => gives_next h (ldwPBody_ok hb hsup hr) rfl,
    fun w t h hb hi hr hw => loadTo_gives h hb (indexed_ok hb.1 hi) hr hw rfl,
    fun w t h hb hi hr hw => loadTo_gives h hb (indexed_ok hb.1 hi) hr hw rfl,
    fun w t h hr hw => gives_next h (ldpcBody_ok hr hw) rfl,
    fun w t h hb hr hw => loadPart_gives (size := 1) h hb hr hw rfl,
    fun w t h hb hr hw => loadPart_gives (size := 2) h hb hr hw rfl,
    fun w t h ha hr hw => car_gives (off := 8) h ha hr hw rfl,
    fun w t h ha hr hw => car_gives (off := 16) h ha hr hw rfl,
    fun ha h => result_of h rfl (carBody_nil ha), fun ha h => result_of h rfl (carBody_nil ha)⟩
end

section
/-! PROOFS. Stores to write-back memory: a whole word is posted, part of a word is written in the line that the core owns. -/

namespace Sys2Proof.Claims

open Sys2Proof.Machine

section
variable {e : Env} {s t : State} {va : BitVec 59} {l : Leaf} {v : W}

/-- A store waits for nothing of its own when nothing of it waits on the word (R262, R268). -/
theorem waitBehind_ok {key : Nat} (h : ownBehind s e.x key = false) : waitBehind e key s = (.ok (), s) := by
  rw [waitBehind, get_bind]
  exact run_if_neg (by simp [h])

/-- A barrier that uses no log takes no room in the append buffer. -/
theorem roomAppends_none (m : Nat) : roomAppends e { m := m } s = (.ok (), s) := by
  rw [roomAppends, get_bind]
  exact run_if_neg (by simp)

theorem putWord_posts {m : Nat} (hmt : pteMt l.pte = 0) (h : ownBehind s e.x (l.lpa va / 8) = false) :
    putWord e va l v { m := m } s = (.ok (), issueStore s (xcore e.x) (wordStore e.x (l.lpa va / 8) v l)) := by
  rw [putWord, bind_ok (roomAppends_none m), get_bind]
  refine (run_if_neg (by simp)).trans ?_
  rw [bind_ok (waitBehind_ok h), hmt]
  rfl

/-- A store of a whole word is posted to the word at the translated address (R236). -/
theorem storeWord_posts {release : Bool} (hbar : e.bar = none) (hm : Mapped e s va 1 8 (some v.payload) l t)
    (hb : ownBehind t e.x (l.lpa va / 8) = false) (hr : release = true → earlierDone t e.x = true) :
    storeWord e va v release s = (.ok (), issueStore t (xcore e.x) (wordStore e.x (l.lpa va / 8) v l)) := by
  obtain ⟨hpriv, hal, htr, hwatch, hmt, hreg, hoff, -⟩ := hm
  have hwatch : watch t e.x va true = .ok () := hwatch
  have hslot : translateSlot e (gcOf s e.x) 1 va v v.payload s = (.ok l, t) := (translateSlot_off hoff.2 _ _).trans htr
  rw [storeWord, chkM_bind_ok (aligned_ok hal)]
  refine (run_if_neg (by simp [hpriv])).trans ?_
  rw [bind_ok (gcNow_off hoff), bind_ok hslot, heldBarrier, hbar]
  rw [bind_ok (storeBarrier_off hoff.2 hwatch)]
  refine (run_guard fun h => waitEarlier_done (hr h)).trans ?_
  dsimp only
  rw [hmt, bind_ok (waitSide_wb _), if_neg (by simp [hreg]), putWord_posts hmt hb]

/-- The core holds the line in M or E with nothing of x waiting on the word: it is written at once (R236). -/
theorem ownLine_held {key : Nat} {h : L1Line} {na : Bool} (hh : Held s e.x key h) (hst : h.st = .m ∨ h.st = .e) :
    ownLine e key na s = (.ok (), s) := by
  obtain ⟨hown, hbehind, -, htag, harm, hline⟩ := hh
  have hrec : recovering s (xcore e.x) (key / 8) = false := by simp [recovering, htag]
  have hhit : l1dHit s (xcore e.x) (whoOf s e.x) (key / 8) (some (key % 8)) = (.data, s) := by simp [l1dHit, harm]
  rw [ownLine, get_bind]
  refine (run_if_neg (by simp [hown, hbehind])).trans ((run_if_neg (by simp [hrec])).trans ?_)
  simp only [hline]
  refine (run_if_pos hst).trans ?_
  rw [hhit]
  rfl

theorem lineAt_held {key : Nat} {h : L1Line} (hh : Held s e.x key h) : lineAt s e.x key = lineWord h.data key := by
  obtain ⟨-, -, -, -, -, hline⟩ := hh
  rw [lineAt, tgetD, hline]
  rfl

/-- Part of a RAW or UNINIT word is written in the line (R39). -/
theorem storeBytes_held {size : Nat} {h : L1Line} (hm : Mapped e s va 1 size (some 0) l t) (hh : Held t e.x (l.lpa va / 8) h)
    (hst : h.st = .m ∨ h.st = .e) (hold : (lineWord h.data (l.lpa va / 8)).tag = 0x006 ∨ (lineWord h.data (l.lpa va / 8)).tag = 0x000) :
    storeBytes e va v size s = (.ok (), perfStore t (xcore e.x)
      { who := e.x, key := l.lpa va / 8, word := (placeBytes va v (Nat.log2 size) 0).1, mask := (placeBytes va v (Nat.log2 size) 0).2 }) := by
  obtain ⟨hpriv, hal, htr, hwatch, hmt, -⟩ := hm
  have hwatch : watch t e.x va true = .ok () := hwatch
  have hbyp : (t.core (xcore e.x)).bypass = false := hh.2.2.1
  have hpart : partialWrite (lineAt t e.x (l.lpa va / 8)) = none := by rw [lineAt_held hh]; exact if_pos hold
  rw [storeBytes, chkM_bind_ok (aligned_ok hal)]
  refine (run_if_neg (by simp [hpriv])).trans ?_
  rw [bind_ok htr, get_bind, chkM_bind_ok hwatch]
  dsimp only
  rw [hmt, bind_ok (waitSide_wb _), if_pos ⟨rfl, hbyp⟩, bind_ok (ownLine_held hh hst), get_bind, hpart]
  rfl
end

section
variable {c : Instr} {s t : State} {x : Exec} {op : Op} {rd rs rt : BitVec 5} {va : BitVec 59} {l : Leaf}

/-- A word store through a base posts rd to the word at its address. -/
theorem storeFrom_gives {addr : Env → M (BitVec 59)} {release : Bool} (h : Ready s x op) (hb : Through s x (xreg s x rs))
    (haddr : addr (env x op) s = (.ok va, s)) (hm : Mapped (env x op) s va 1 8 (some (xreg s x rd).payload) l t)
    (hbehind : ownBehind t x (l.lpa va / 8) = false) (hr : release = true → earlierDone t x = true)
    (hc : exec c s = .next (issue x op (storeFrom addr rd rs release) s).tick) :
    Gives c s (advanced (issueStore t (xcore x) (wordStore x (l.lpa va / 8) (xreg s x rd) l)) x) := by
  refine gives_next h ?_ hc
  rw [storeFrom, bind_ok haddr, bind_ok (through_ok hb), get_bind, env_x, bind_ok (storeWord_posts rfl hm hbehind hr)]
  rfl

/-- RPLACA and RPLACD post rt to a word of a CONS (R132). -/
theorem rplac_gives {off : Nat} (h : Ready s x op) (ha : (xreg s x rs).tag = 0x100)
    (hm : Mapped (env x op) s (vaOf (xreg s x rs) + BitVec.ofNat 59 off) 1 8 (some (xreg s x rt).payload) l t)
    (hbehind : ownBehind t x (l.lpa (vaOf (xreg s x rs) + BitVec.ofNat 59 off) / 8) = false)
    (hc : exec c s = .next (issue x op (rplacBody_ off rs rt) s).tick) :
    Gives c s (advanced (issueStore t (xcore x)
      (wordStore x (l.lpa (vaOf (xreg s x rs) + BitVec.ofNat 59 off) / 8) (xreg s x rt) l)) x) := by
  have hchk : chk (env x op) 0 (xreg s x rs) ((xreg s x rs).tag == 0x100) = .ok () :=
    chk_pass (whole_of_tag ha (by decide)) (beq_iff_eq.mpr ha)
  refine gives_next h ?_ hc
  simp only [rplacBody_, get_bind, env_x, chkM_bind_ok hchk]
  rw [bind_ok (storeWord_posts (release := false) rfl hm hbehind nofun)]
  rfl

/-- STB and STH write their part of an integer in the line that the core owns. -/
theorem storePart_gives {size : Nat} {imm : BitVec 14} {g : L1Line} (h : Ready s x op) (hb : Through s x (xreg s x rs)) (hd : IsInt (xreg s x rd))
    (hva : addOff (vaOf (xreg s x rs)) (imm.signExtend 64) = va) (hm : Mapped (env x op) s va 1 size (some 0) l t)
    (hh : Held t x (l.lpa va / 8) g) (hst : g.st = .m ∨ g.st = .e)
    (hold : (lineWord g.data (l.lpa va / 8)).tag = 0x006 ∨ (lineWord g.data (l.lpa va / 8)).tag = 0x000)
    (hc : exec c s = .next (issue x op (storePart size rd rs imm) s).tick) :
    Gives c s (advanced (perfStore t (xcore x)
      { who := x, key := l.lpa va / 8, word := (placeBytes va (xreg s x rd) (Nat.log2 size) 0).1,
        mask := (placeBytes va (xreg s x rd) (Nat.log2 size) 0).2 }) x) := by
  have hchk : chk (env x op) 2 (xreg s x rd) (isInt (xreg s x rd)) = .ok () := chk_int hd
  refine gives_next h ?_ hc
  rw [storePart, bind_ok (effective_ok (sx imm) hb.1), get_bind]
  simp only [env_x, chkM_bind_ok hchk]
  rw [bind_ok (through_ok hb), sx, hva, bind_ok (storeBytes_held hm hh hst hold)]
  rfl
end

end Sys2Proof.Claims

open Sys2Proof Sys2Proof.Machine Sys2Proof.Claims

/-- Settles O20: the forms differ in how they name the address and in what they wait for. -/
theorem storesArePosted : Obligations.StoresArePosted := by
  intro s x rd rs rt imm a d
  exact ⟨fun l t h hb hm hbehind => storeFrom_gives (release := false) h hb (effective_ok (sx imm) hb.1) hm hbehind nofun rfl,
    fun l t h hb hm hbehind hearlier => storeFrom_gives h hb (effective_ok (sx imm) hb.1) hm hbehind (fun _ => hearlier) rfl,
    fun l t h hb hi hm hbehind => storeFrom_gives (release := false) h hb (indexed_ok hb.1 hi) hm hbehind nofun rfl,
    fun l t h hb hi hm hbehind hearlier => storeFrom_gives h hb (indexed_ok hb.1 hi) hm hbehind (fun _ => hearlier) rfl,
    fun l t h ha hm hbehind => rplac_gives (off := 8) h ha hm hbehind rfl,
    fun l t h ha hm hbehind => rplac_gives (off := 16) h ha hm hbehind rfl,
    fun l t g h hb hd hm hh hst hold => storePart_gives (size := 1) h hb hd rfl hm hh hst hold rfl,
    fun l t g h hb hd hm hh hst hold => storePart_gives (size := 2) h hb hd rfl hm hh hst hold rfl⟩
end

section
/-! PROOFS. Atomics that the core performs in its own line. -/

namespace Sys2Proof.Claims

open Sys2Proof.Machine

/-! ### What an atomic makes of the old word (R131) -/

/-- The order of AMOMIN and AMOMAX on words of one tag: FIXNUMs are compared signed, RAW words unsigned. -/
def wordLess (p q : W) : Bool :=
  if p.tag = 0x001 then decide (p.payload.toInt < q.payload.toInt) else decide (p.payload.toNat < q.payload.toNat)

section
variable {old b d : W}

/-- A word that its checks accept is replaced as the operation says. -/
theorem atomNew_whole {op : Nat} (ho : Whole old) : atomNew op old b d =
    if op = 0 then (if isInt old ∧ isInt b then .ok ⟨old.tag, old.payload + b.payload⟩ else .error (0x05, 1))
    else if op = 1 then .ok b
    else if op = 2 ∨ op = 3 then
      (if old.tag = b.tag ∧ isInt old then
        .ok (if (op == 2) == (if old.tag = 0x001 then old.payload.slt b.payload else old.payload.ult b.payload) then old else ⟨old.tag, b.payload⟩)
      else .error (0x05, 1))
    else if op = 4 then .ok (if old.payload = d.payload then b else old)
    else .ok (if old = d then b else old) := by
  obtain ⟨hlost, huninit, hres⟩ := ho
  unfold atomNew
  dsimp only
  rw [if_neg fun h => hlost h.2, if_neg fun h => huninit h.2, if_neg (by simp [hres])]

theorem atomNew_add (ho : IsInt old) (hb : IsInt b) : atomNew 0 old b d = .ok ⟨old.tag, old.payload + b.payload⟩ := by
  rw [atomNew_whole (whole_of_int ho), if_pos rfl, if_pos (And.intro (isInt_of ho) (isInt_of hb))]

theorem atomNew_swap : atomNew 1 old b d = .ok b := by simp [atomNew]

theorem atomNew_minmax {op : Nat} (hop : op = 2 ∨ op = 3) (hb : IsInt b) (ht : old.tag = b.tag) :
    atomNew op old b d = .ok (if (op == 2) == wordLess old b then old else b) := by
  have ho : IsInt old := by unfold IsInt; rw [ht]; exact hb
  have hw : (⟨old.tag, b.payload⟩ : W) = b := by rw [ht]
  rw [atomNew_whole (whole_of_int ho), if_neg (by omega), if_neg (by omega), if_pos hop, if_pos (And.intro ht (isInt_of ho)), hw]
  rfl

theorem atomNew_min (hb : IsInt b) (ht : old.tag = b.tag) : atomNew 2 old b d = .ok (if wordLess old b then old else b) := by
  rw [atomNew_minmax (.inl rfl) hb ht]
  cases wordLess old b <;> rfl

theorem atomNew_max (hb : IsInt b) (ht : old.tag = b.tag) : atomNew 3 old b d = .ok (if wordLess old b then b else old) := by
  rw [atomNew_minmax (.inr rfl) hb ht]
  cases wordLess old b <;> rfl

theorem atomNew_cas (ho : Whole old) : atomNew 4 old b d = .ok (if old.payload = d.payload then b else old) := atomNew_whole ho

theorem atomNew_cast : atomNew 5 old b d = .ok (if old = d then b else old) := by simp [atomNew]
end

/-! ### In the core's own line (R243) -/

section
variable {e : Env} {s t : State} {va : BitVec 59} {l : Leaf} {h : L1Line} {op ord : Nat} {b d w : W}

/-- An atomic whose line the core owns, and which the predictor keeps near, is performed at once. -/
theorem privateAtom_near (hbar : e.bar = none) (hwords : e.words = []) (hcont : e.contended = false)
    (hm : Mapped e s va 3 8 (some b.payload) l t) (hh : Held t e.x (l.lpa va / 8) h) (hst : h.st = .m ∨ h.st = .e)
    (hord : 2 ≤ ord → earlierDone t e.x = true) (hnear : (tgetD (t.core (xcore e.x)).atomPred (atomIdx t e.x (l.lpa va)) 1).toNat < 2)
    (hnew : atomNew op (lineWord h.data (l.lpa va / 8)) b d = .ok w) :
    atom e va op ord b d s = (.ok (lineWord h.data (l.lpa va / 8)),
      nearAtom t e.x (l.lpa va / 8) (atomIdx t e.x (l.lpa va)) (lineWord h.data (l.lpa va / 8)) w) := by
  obtain ⟨hpriv, hal, htr, hwatch, hmt, hreg, hoff, -⟩ := hm
  have hwatch : watch t e.x va true = .ok () := hwatch
  have hbyp : (t.core (xcore e.x)).bypass = false := hh.2.2.1
  have hfar : ¬ (0 != 0 || atomFar t e.x (atomIdx t e.x (l.lpa va))) = true := by
    simpa only [atomFar, hbyp, bne_self_eq_false, Bool.false_or, decide_eq_true_iff] using Nat.not_le.mpr hnear
  have hnone : tget e.words (l.lpa va / 8) = none := by rw [hwords]; rfl
  have hslot : ∀ v, translateSlot e (gcOf s e.x) 3 va v b.payload s = (.ok l, t) := fun v => (translateSlot_off hoff.2 _ _).trans htr
  rw [atom, chkM_bind_ok (aligned_ok hal)]
  refine (run_if_neg (by simp [hpriv])).trans ?_
  rw [privateAtom, bind_ok (gcNow_off hoff), bind_ok (hslot _), heldBarrier, hbar, bind_ok (storeBarrier_off hoff.2 hwatch)]
  refine (run_guard fun h => waitEarlier_done (hord h)).trans ?_
  dsimp only
  rw [hmt, bind_ok (waitSide_wb _), if_neg (by simp [hreg]), bind_ok (roomAppends_none _), get_bind, hnone]
  refine (run_if_neg hfar).trans ?_
  rw [bind_ok (ownLine_held hh hst), get_bind, lineAt_held hh]
  simp only [hnew, cardAppend, snapAppend, ite_self, hcont]
  rfl
end

section
variable {c : Instr} {s t : State} {x : Exec} {l : Leaf} {h : L1Line} {op : BitVec 3} {ord : BitVec 2} {rd rs rt : BitVec 5} {va : BitVec 59} {w : W}

/-- An atomic in the core's own line delivers the old word to rd. -/
theorem atomic_gives (hr : Ready s x (.atomic op ord rd rs rt)) (hb : Base s x (xreg s x rs)) (hva : addOff (vaOf (xreg s x rs)) 0 = va)
    (hm : Mapped (env x (.atomic op ord rd rs rt)) s va 3 8 (some (xreg s x rt).payload) l t) (hh : Held t x (l.lpa va / 8) h)
    (hst : h.st = .m ∨ h.st = .e) (hord : 2 ≤ ord.toNat → earlierDone t x = true)
    (hnear : (tgetD (t.core (xcore x)).atomPred (atomIdx t x (l.lpa va)) 1).toNat < 2)
    (hchk : atomChecks (env x (.atomic op ord rd rs rt)) op.toNat (xreg s x rt) (xreg s x rd) = .ok ())
    (hnew : atomNew op.toNat (lineWord h.data (l.lpa va / 8)) (xreg s x rt) (xreg s x rd) = .ok w)
    (hc : exec c s = .next (issue x (.atomic op ord rd rs rt) (atomicBody op ord rd rs rt) s).tick) :
    Gives c s (advanced (setXreg (nearAtom t x (l.lpa va / 8) (atomIdx t x (l.lpa va)) (lineWord h.data (l.lpa va / 8)) w) x rd
      (lineWord h.data (l.lpa va / 8))) x) := by
  refine gives_next hr ?_ hc
  rw [atomicBody, bind_ok (effective_ok 0 hb), get_bind, hva]
  simp only [env_x, chkM_bind_ok hchk]
  rw [bind_ok (privateAtom_near rfl rfl rfl hm hh hst hord hnear hnew), putRd_eq, env_x]
end

end Sys2Proof.Claims

open Sys2Proof Sys2Proof.Machine Sys2Proof.Claims

/-- Settles O22: every near atomic delivers the old word; the operations differ in their checks and in the new word. -/
theorem nearAtomics : Obligations.NearAtomics := by
  intro s x rd rs rt ord a b d va less
  refine ⟨fun l t h hr hb hm hh hst hord hnear hi ho => ?_, fun l t h hr hb hm hh hst hord hnear => ?_,
    fun l t h hr hb hm hh hst hord hnear hi ht => ?_, fun l t h hr hb hm hh hst hord hnear hi ht => ?_,
    fun l t h hr hb hm hh hst hord hnear hd ho => ?_, fun l t h hr hb hm hh hst hord hnear hd => ?_⟩
  · exact atomic_gives hr hb rfl hm hh hst hord hnear (chk_int hi) (atomNew_add ho hi) rfl
  · exact atomic_gives hr hb rfl hm hh hst hord hnear rfl atomNew_swap rfl
  · exact atomic_gives hr hb rfl hm hh hst hord hnear (chk_int hi) (atomNew_min hi ht) rfl
  · exact atomic_gives hr hb rfl hm hh hst hord hnear (chk_int hi) (atomNew_max hi ht) rfl
  · exact atomic_gives hr hb rfl hm hh hst hord hnear (chk_whole hd) (atomNew_cas ho) rfl
  · exact atomic_gives hr hb rfl hm hh hst hord hnear (chk_whole hd) atomNew_cast rfl
end

section
/-! PROOFS. The long instructions MEMQ, ASSQ, WALK and PROBE: a step whose words the core holds ends the search or moves it on. -/

namespace Sys2Proof.Claims

open Sys2Proof.Machine

/-! ### A step that leaves the instruction unfinished (R137) -/

theorem xcnt_setXreg (s : State) (x : Exec) (r : BitVec 5) (w : W) : xcnt (setXreg s x r w) x = xcnt s x := by
  cases x with
  | ctx n => simp [xcnt, setXreg]
  | fic k =>
    simp only [xcnt, setXreg, State.modFic, State.fic, State.core_modCore_same]
    rw [setFicReg_eq]

theorem stepOn_eq (e : Env) (s : State) (r : BitVec 5) (w : W) :
    stepOn e r w s = (.ok .step, setXcnt (setXreg s e.x r w) e.x (xcnt s e.x - 1)) := by
  rw [stepOn, modify_bind, ← xcnt_setXreg s e.x r w]
  rfl

/-- An instruction whose body has a further step stays in progress. -/
theorem gives_stepped {c : Instr} {s u : State} {x : Exec} {op : Op} {body : Body_} {r : BitVec 5} {w : W} (h : Ready s x op)
    (hb : body (env x op) s = stepOn (env x op) r w u) (hc : exec c s = .next (issue x op body s).tick) : Gives c s (stepped u x r w op) := by
  rw [Gives, hc, issue_of_ready h, hb, stepOn_eq]
  rfl

/-! ### Lists (R139) -/

section
variable {s t u v : State} {x : Exec} {op : Op} {rd rs rt : BitVec 5} {w d f : W} {step : W → W → M Go}

theorem listStep_zero (hcnt : xcnt s x = 0) : listStep (env x op) rd rs rt step s = (.ok .next, s) := by
  rw [listStep, get_bind]
  exact run_if_pos hcnt

theorem listStep_nil (hcnt : xcnt s x ≠ 0) (ha : Whole (xreg s x rs)) (hb : (xreg s x rt).tag = 0x004) :
    listStep (env x op) rd rs rt step s = (.ok .next, setXreg s x rd nilW) := by
  have hkey : chk (env x op) 0 (xreg s x rs) true = .ok () := chk_whole ha
  have hpos : chk (env x op) 1 (xreg s x rt) true = .ok () := chk_whole (whole_of_tag hb (by decide))
  rw [listStep, get_bind]
  refine (run_if_neg hcnt).trans ?_
  simp only [env_x, chkM_bind_ok hkey, chkM_bind_ok hpos]
  exact run_if_pos hb

/-- At a CONS the step of the search is made. -/
theorem listStep_cons (hcnt : xcnt s x ≠ 0) (ha : Whole (xreg s x rs)) (hb : (xreg s x rt).tag = 0x100) :
    listStep (env x op) rd rs rt step s = step (xreg s x rs) (xreg s x rt) s := by
  have hkey : chk (env x op) 0 (xreg s x rs) true = .ok () := chk_whole ha
  have hpos : chk (env x op) 1 (xreg s x rt) true = .ok () := chk_whole (whole_of_tag hb (by decide))
  rw [listStep, get_bind]
  refine (run_if_neg hcnt).trans ?_
  simp only [env_x, chkM_bind_ok hkey, chkM_bind_ok hpos]
  exact (run_if_neg (by simp [hb])).trans (run_if_neg (by simp [hb]))

theorem listNext_reads (hr : Reads (env x op) s (vaOf w + 16) 8 d t) (hd : d.tag ≠ 0x000) :
    listNext (env x op) rt w s = stepOn (env x op) rt d t := by
  rw [listNext, bind_ok (hr.loadWord hd false)]

theorem memqBody_car (hcnt : xcnt s x ≠ 0) (ha : Whole (xreg s x rs)) (hb : (xreg s x rt).tag = 0x100)
    (hr : Reads (env x op) s (vaOf (xreg s x rt) + 8) 8 w t) (hw : Whole w) : memqBody rd rs rt (env x op) s =
      (if identical w (xreg s x rs) then putRd (env x op) rd (xreg s x rt) else listNext (env x op) rt (xreg s x rt)) t := by
  rw [memqBody, listStep_cons hcnt ha hb, bind_ok (hr.loadChecked hw rfl rfl)]

theorem assqBody_key (hcnt : xcnt s x ≠ 0) (ha : Whole (xreg s x rs)) (hb : (xreg s x rt).tag = 0x100)
    (hr : Reads (env x op) s (vaOf (xreg s x rt) + 8) 8 w t) (hw : w.tag = 0x100) (hk : Reads (env x op) t (vaOf w + 8) 8 d u) (hd : Whole d) :
    assqBody rd rs rt (env x op) s =
      (if identical d (xreg s x rs) then putRd (env x op) rd w else listNext (env x op) rt (xreg s x rt)) u := by
  rw [assqBody, listStep_cons hcnt ha hb, bind_ok (hr.loadChecked (ok := fun w => w.tag == 0x100) (whole_of_tag hw (by decide)) (beq_iff_eq.mpr hw) rfl),
    bind_ok (hk.loadChecked hd rfl rfl)]

/-! ### Chains and tables (R139) -/

theorem walkBody_zero (hb : Base s x (xreg s x rs)) (hi : IsFix (xreg s x rt)) (hcnt : xcnt s x = 0) :
    walkBody rd rs rt (env x op) s = (.ok .next, s) := by
  have hchk : chk (env x op) 1 (xreg s x rt) ((xreg s x rt).tag == 0x001) = .ok () := chk_fix hi
  simp only [walkBody, get_bind, env_x, chkM_bind_ok (baseOf_ok 0 hb), chkM_bind_ok hchk]
  exact run_if_pos hcnt

theorem walkBody_node (hb : Through s x (xreg s x rs)) (hi : IsFix (xreg s x rt)) (hcnt : xcnt s x ≠ 0)
    (hr : Reads (env x op) s (addOff (vaOf (xreg s x rs)) (xreg s x rt).payload) 8 w t) (hw : Whole w) :
    walkBody rd rs rt (env x op) s = (if isPtr w then stepOn (env x op) rs w else putRd (env x op) rd (xreg s x rs)) t := by
  have hchk : chk (env x op) 1 (xreg s x rt) ((xreg s x rt).tag == 0x001) = .ok () := chk_fix hi
  simp only [walkBody, get_bind, env_x, chkM_bind_ok (baseOf_ok 0 hb.1), chkM_bind_ok hchk]
  refine (run_if_neg hcnt).trans ?_
  rw [chkM_bind_ok (baseAligned_ok hb), bind_ok (hr.loadChecked hw rfl rfl)]

theorem probeSize_table {n : Nat} (ht : w.tag = 0x201) (hlen : w.payload.toNat % 2 ^ 48 = 2 * n) (hn : n ≠ 0) (hpow : 2 ^ Nat.log2 n = n) :
    probeSize w = some n := by
  have hbits : bitsN w.payload 0 48 = 2 * n := by rw [bitsN, pow_zero, Nat.div_one, hlen]
  have hhalf : 2 * n / 2 = n := by omega
  simp only [probeSize, hbits, hhalf]
  exact if_pos ⟨ht, by omega, hn, hpow⟩

theorem probeBody_zero (ha : (xreg s x rs).tag = 0x101) (hi : IsFix (xreg s x rd)) (hcnt : xcnt s x = 0) :
    probeBody rd rs rt (env x op) s = (.ok .next, s) := by
  have htab : chk (env x op) 0 (xreg s x rs) ((xreg s x rs).tag == 0x101) = .ok () := chk_pass (whole_of_tag ha (by decide)) (beq_iff_eq.mpr ha)
  have hidx : chk (env x op) 2 (xreg s x rd) ((xreg s x rd).tag == 0x001) = .ok () := chk_fix hi
  simp only [probeBody, get_bind, env_x, chkM_bind_ok htab]
  refine (run_if_neg (not_not_intro hcnt)).trans ?_
  rw [chkM_bind_ok hidx]
  exact run_if_pos hcnt

/-- What PROBE does with the key of the pair that it looks at. -/
def probeAt (e : Env) (rd : BitVec 5) (key k : W) (n i : Nat) : M Go :=
  if identical k key then putRd e rd (fixW i)
  else if k.tag = 0x005 then putRd e rd ⟨0x001, BitVec.ofInt 64 (-1 - (i : Int))⟩
  else stepOn e rd (fixW ((i + 1) % n))

theorem probeBody_pair {n i : Nat} (ha : (xreg s x rs).tag = 0x101) (hb : Whole (xreg s x rt)) (hi : IsFix (xreg s x rd)) (hcnt : xcnt s x ≠ 0)
    (hr : Reads (env x op) s (vaOf (xreg s x rs)) 8 w t) (ht : w.tag = 0x201) (hlen : w.payload.toNat % 2 ^ 48 = 2 * n) (hn : n ≠ 0)
    (hpow : 2 ^ Nat.log2 n = n) (hidx : (xreg s x rd).payload.toNat % n = i)
    (hk : Reads (env x op) t (vaOf (xreg s x rs) + BitVec.ofNat 59 (8 + 16 * i)) 8 d u) (hd : Whole d) :
    probeBody rd rs rt (env x op) s = probeAt (env x op) rd (xreg s x rt) d n i u := by
  have hsize := probeSize_table ht hlen hn hpow
  have htab : chk (env x op) 0 (xreg s x rs) ((xreg s x rs).tag == 0x101) = .ok () := chk_pass (whole_of_tag ha (by decide)) (beq_iff_eq.mpr ha)
  have hkey : chk (env x op) 1 (xreg s x rt) true = .ok () := chk_whole hb
  have hfix : chk (env x op) 2 (xreg s x rd) ((xreg s x rd).tag == 0x001) = .ok () := chk_fix hi
  have hhdr := hr.loadChecked (whole_of_tag ht (by decide)) (ok := fun _ => true)
    (extra := fun h => if (probeSize h).isSome then .ok () else tagTrap 5 3 h (vaOf (xreg s x rs))) rfl (if_pos (by rw [hsize]; rfl))
  simp only [probeBody, get_bind, env_x, chkM_bind_ok htab]
  refine (run_if_pos hcnt).trans ?_
  rw [chkM_bind_ok hkey, chkM_bind_ok hfix]
  refine (run_if_neg hcnt).trans ?_
  rw [bind_ok hhdr]
  simp only [hsize, hidx]
  rw [bind_ok (hk.loadChecked hd rfl rfl)]
  rfl
end

end Sys2Proof.Claims

open Sys2Proof Sys2Proof.Machine Sys2Proof.Claims

/-- Settles O24: each step reads its words in turn; what it finds decides between the end of the search and the next step. -/
theorem listSearches : Obligations.ListSearches := by
  intro s t u x rd rs rt w d n a b i
  refine ⟨fun _ _ hcnt => ⟨fun h => gives_next h (listStep_zero hcnt) rfl, fun h => gives_next h (listStep_zero hcnt) rfl⟩,
    fun ha hcnt hb => ⟨fun h => result_of h rfl (listStep_nil hcnt ha hb), fun h => result_of h rfl (listStep_nil hcnt ha hb)⟩,
    fun ha hcnt hb h hr hw => ⟨fun hid => ?_, fun hid hr' hd => ?_⟩,
    fun ha hcnt hb h hr hw hk hd => ⟨fun hid => ?_, fun f v hid hr' hf => ?_⟩,
    fun hb hi h => ⟨fun hcnt => gives_next h (walkBody_zero hb.1 hi hcnt) rfl, fun hcnt hr hw => ⟨fun hp => ?_, fun hp => ?_⟩⟩,
    fun ha hb hi h => ⟨fun hcnt => gives_next h (probeBody_zero ha hi hcnt) rfl, fun hcnt hr ht hlen hn hpow hk hd => ?_⟩⟩
  · exact gives_next h ((memqBody_car hcnt ha hb hr hw).trans (run_if_pos hid)) rfl
  · exact gives_stepped h ((memqBody_car hcnt ha hb hr hw).trans ((run_if_neg (ne_true_of_eq_false hid)).trans (listNext_reads hr' hd))) rfl
  · exact gives_next h ((assqBody_key hcnt ha hb hr hw hk hd).trans (run_if_pos hid)) rfl
  · exact gives_stepped h ((assqBody_key hcnt ha hb hr hw hk hd).trans ((run_if_neg (ne_true_of_eq_false hid)).trans (listNext_reads hr' hf))) rfl
  · exact gives_next h ((walkBody_node hb hi hcnt hr hw).trans (run_if_neg (ne_true_of_eq_false hp))) rfl
  · exact gives_stepped h ((walkBody_node hb hi hcnt hr hw).trans (run_if_pos hp)) rfl
  · have hbody := probeBody_pair ha hb hi hcnt hr ht hlen hn hpow rfl hk hd
    refine ⟨fun hid => ?_, fun hid hun => ?_, fun hid hun => ?_⟩
    · exact gives_next h (hbody.trans (run_if_pos hid)) rfl
    · exact gives_next h (hbody.trans ((run_if_neg (ne_true_of_eq_false hid)).trans (run_if_pos hun))) rfl
    · exact gives_stepped h (hbody.trans ((run_if_neg (ne_true_of_eq_false hid)).trans (run_if_neg hun))) rfl
end

section
/-! PROOFS. REP and its steps, the words of the long instructions, COPYW, FILLW and line maintenance. -/

namespace Sys2Proof.Claims

open Sys2Proof.Machine

/-! ### cnt and pc after a step -/

section
variable (s : State) (x : Exec) (v : BitVec 64)

@[simp] theorem xcnt_setXcnt : xcnt (setXcnt s x v) x = v := by
  cases x <;> simp [xcnt, setXcnt, State.modFic, State.fic]

@[simp] theorem xpc_setXcnt : xpc (setXcnt s x v) x = xpc s x := by
  cases x <;> simp [xpc, setXcnt, State.modFic, State.fic]
end

/-! ### REP (R140) -/

section
variable {s t : State} {x : Exec} {word : BitVec 32} {f : Env → M Unit}

theorem issueRep_of_ready (h : RepReady s x word) :
    issueRep x word s = settle s x word true (repBody word { x := x, word := word } s) := by
  obtain ⟨hcan, hbank, hfault, hchecks, hmicro⟩ := h
  simp [issueRep, bankRead, hcan, hbank, hfault, hchecks, hmicro]

theorem repBody_zero (ht : repTarget x word = .ok f) (hcnt : xcnt s x = 0) :
    repBody word { x := x, word := word } s = (.ok (.goto (xpc s x + 8)), s) := by
  rw [repBody, chkM_bind_ok ht, get_bind]
  exact run_if_pos hcnt

theorem repBody_step (ht : repTarget x word = .ok f) (hcnt : xcnt s x ≠ 0) (hf : f { x := x, word := word } s = (.ok (), t)) :
    repBody word { x := x, word := word } s =
      (.ok (if xcnt t x = 1 then .goto (xpc t x + 8) else .step), setXcnt t x (xcnt t x - 1)) := by
  have hlast : xcnt t x - 1 = 0 ↔ xcnt t x = 1 := sub_eq_zero
  rw [repBody, chkM_bind_ok ht, get_bind]
  refine (run_if_neg hcnt).trans ?_
  rw [bind_ok hf, modify_bind, get_bind, pure_eq]
  simp only [xcnt_setXcnt, xpc_setXcnt, hlast]

/-- REP_STEP repeats the instruction that REP names. -/
theorem exec_repStep_rep (h : repeatedOf s x = some (true, word)) : exec (.repStep x) s = exec (.rep x word) s := by
  change Host.Outcome.next (nextStep x s).tick = .next (issueRep x word s).tick
  rw [nextStep, h]

theorem rep_passes (h : RepReady s x word) (ht : repTarget x word = .ok f) (hcnt : xcnt s x = 0) :
    Gives (.rep x word) s (jumped s x (xpc s x + 8)) := by
  change Host.Outcome.next (issueRep x word s).tick = _
  rw [issueRep_of_ready h, repBody_zero ht hcnt]
  rfl

theorem rep_steps (h : RepReady s x word) (ht : repTarget x word = .ok f) (hcnt : xcnt s x ≠ 0) (hf : f { x := x, word := word } s = (.ok (), t)) :
    Gives (.rep x word) s (if xcnt t x = 1 then jumped (setXcnt t x (xcnt t x - 1)) x (xpc t x + 8)
      else (setRepeated (setXcnt t x (xcnt t x - 1)) x (some (true, word))).tick) := by
  change Host.Outcome.next (issueRep x word s).tick = _
  rw [issueRep_of_ready h, repBody_step ht hcnt hf]
  split <;> rfl
end

/-! ### Words of opcode 0x13 (R106) -/

section
variable (op : BitVec 6) (rd rs rt : BitVec 5) (func : BitVec 11)

theorem rrr_toNat : (rrr op rd rs rt func).toNat =
    op.toNat * 2 ^ 26 + rd.toNat * 2 ^ 21 + rs.toNat * 2 ^ 16 + rt.toNat * 2 ^ 11 + func.toNat := by
  have := rd.isLt; have := rs.isLt; have := rt.isLt; have := func.isLt
  simp only [rrr, BitVec.toNat_append]
  rw [← Nat.shiftLeft_add_eq_or_of_lt rd.isLt, ← Nat.shiftLeft_add_eq_or_of_lt rs.isLt, ← Nat.shiftLeft_add_eq_or_of_lt rt.isLt,
    ← Nat.shiftLeft_add_eq_or_of_lt func.isLt]
  simp only [Nat.shiftLeft_eq]
  omega

/-- The fields of a word are those that it was made of. -/
theorem rrr_fields : (rrr op rd rs rt func).extractLsb' 26 6 = op ∧ (rrr op rd rs rt func).extractLsb' 21 5 = rd ∧
    (rrr op rd rs rt func).extractLsb' 16 5 = rs ∧ (rrr op rd rs rt func).extractLsb' 11 5 = rt ∧
    (rrr op rd rs rt func).extractLsb' 0 11 = func := by
  have := op.isLt; have := rd.isLt; have := rs.isLt; have := rt.isLt; have := func.isLt
  refine ⟨?_, ?_, ?_, ?_, ?_⟩ <;> apply BitVec.eq_of_toNat_eq <;>
    rw [BitVec.extractLsb'_toNat, rrr_toNat, Nat.shiftRight_eq_div_pow] <;> omega
end

theorem decode_rrr13 (rd rs rt : BitVec 5) (func : BitVec 11) : decodeInstr (rrr 0x13 rd rs rt func) = dec13 rd rs rt func.toNat := by
  obtain ⟨hop, hrd, hrs, hrt, hfunc⟩ := rrr_fields 0x13 rd rs rt func
  simp only [decodeInstr, hop, hrd, hrs, hrt, hfunc]
  rfl

/-- REP_STEP makes the next step of a long instruction. -/
theorem exec_repStep_long {s : State} {x : Exec} {o : Op} {b : Body_} (h : repeatedOf s x = some (false, o.word))
    (hdec : decodeInstr o.word = .ok o) (hlong : longBody o = some b) : exec (.repStep x) s = .next (issue x o b s).tick := by
  change Host.Outcome.next (nextStep x s).tick = _
  simp only [nextStep, h, hdec, hlong]

end Sys2Proof.Claims
end

section
/-! PROOFS. One step of COPYW, of FILLW and of line maintenance. -/

namespace Sys2Proof.Claims

open Sys2Proof.Machine

/-! ### Leaves that a step holds (R141) -/

section
variable {e : Env} {va vb : BitVec 59} {l : Leaf}

/-- A page of memory is held as two words under keys of its address. -/
theorem hold_eq (hreg : isReg (l.lpa va) = false) : e.hold va l = { e with
    words := tset (tset e.words (pinKey va) ⟨BitVec.ofNat 10 l.lvl, l.pte⟩) (pinKey va + 1) ⟨0, BitVec.ofNat 64 l.page⟩ } :=
  if_neg (by simp [hreg])

theorem heldLeaf_hold_same (hreg : isReg (l.lpa va) = false) (hpage : l.page < 2 ^ 31) (hlvl : l.lvl < 2 ^ 10) :
    heldLeaf (e.hold va l) va = some l := by
  have hp : l.page % 2 ^ 64 = l.page := Nat.mod_eq_of_lt (by omega)
  have hl : l.lvl % 2 ^ 10 = l.lvl := Nat.mod_eq_of_lt hlvl
  rw [hold_eq hreg, heldLeaf, tget_tset_ne _ _ (Nat.ne_of_lt (Nat.lt_succ_self _)), tget_tset_same, tget_tset_same]
  simp only [BitVec.toNat_ofNat, hp, hl]

/-- The keys of one address are not those of another, nor of a word of memory. -/
theorem hold_words_ne {k : Nat} (h : k ≠ pinKey va) (h' : k ≠ pinKey va + 1) : tget (e.hold va l).words k = tget e.words k := by
  unfold Env.hold
  split
  · rfl
  · simp [pinLeaf, tget_tset_ne, h, h']

theorem heldLeaf_hold_ne (h : va ≠ vb) : heldLeaf (e.hold vb l) va = heldLeaf e va := by
  have hne : va.toNat ≠ vb.toNat := fun k => h (BitVec.eq_of_toNat_eq k)
  have h1 : tget (e.hold vb l).words (pinKey va) = tget e.words (pinKey va) := hold_words_ne (by unfold pinKey; omega) (by unfold pinKey; omega)
  have h2 : tget (e.hold vb l).words (pinKey va + 1) = tget e.words (pinKey va + 1) :=
    hold_words_ne (by unfold pinKey; omega) (by unfold pinKey; omega)
  rw [heldLeaf, heldLeaf, h1, h2]

@[simp] theorem hold_x : (e.hold va l).x = e.x := by unfold Env.hold; split <;> rfl
@[simp] theorem hold_once : (e.hold va l).once = e.once := by unfold Env.hold; split <;> rfl
@[simp] theorem hold_bar : (e.hold va l).bar = e.bar := by unfold Env.hold; split <;> rfl

theorem translate_heldLeaf {s : State} (h : heldLeaf e va = some l) (acc size : Nat) (v : Option (BitVec 64)) :
    Machine.translate e acc va size v s = (.ok l, s) := by
  rw [Machine.translate, get_bind, translateAs, h]
  rfl

/-- A load whose word the access does not bring with it finds its line. -/
theorem cacheWord_line {t : State} {key : Nat} {h : L1Line} (hh : Held t e.x key h) (hit : h.st.hit = true) (honce : e.once = [])
    (hword : tget e.words key = none) (na walk : Bool) : cacheWord e key 0 na walk t = (.ok (lineWord h.data key), t) := by
  obtain ⟨hown, hbehind, hbyp, htag, harm, hline⟩ := hh
  have hnone : tget e.once (key / 8) = none := by rw [honce]; rfl
  simp [cacheWord, hown, hbehind, hbyp, htag, hline, hit, recovering, l1dHit, harm, forwarded, hword, hnone, tgetD]
end

/-! ### Steps -/

/-- A step advances the va of a register (R141). -/
def stepReg (s : State) (x : Exec) (r : BitVec 5) (n : Nat) : State := setXreg s x r (advance (xreg s x r) n)

theorem advanceReg_eq (e : Env) (r : BitVec 5) (n : Nat) (s : State) : advanceReg e r n s = (.ok (), stepReg s e.x r n) := rfl

section
variable {e : Env} {s t u v : State} {x : Exec} {op : Op} {rd rs : BitVec 5} {la l : Leaf} {w : W} {src dst va : BitVec 59} {h : L1Line}

/-- Both addresses of a step translate, and their leaves are held for the rest of it. -/
theorem copyChecks_ok (hs : Mapped e s src 0 8 none la t) (hd : Mapped e t dst 1 8 (some 0) l v) (hwatch : watch s e.x src false = .ok ()) :
    copyChecks e src dst s = (.ok ((e.hold src la).hold dst l), v) := by
  obtain ⟨hpriv, -, htr, -, -, -, hoff, -⟩ := hs
  obtain ⟨hpriv', -, htr', hwatch', -, -, hoff', -⟩ := hd
  have hwatch' : watch v e.x dst true = .ok () := hwatch'
  have hslot : translateSlot e (gcOf s e.x) 1 dst nilW 0 t = (.ok l, v) := (translateSlot_off hoff.2 _ _).trans htr'
  rw [copyChecks, get_bind, bind_ok (gcNow_off hoff)]
  simp only [hpriv, hpriv']
  refine (run_if_neg Bool.false_ne_true).trans ?_
  rw [bind_ok htr, pure_bind_M]
  refine (run_if_neg Bool.false_ne_true).trans ?_
  rw [bind_ok hslot, pure_bind_M]
  refine (run_if_neg Bool.false_ne_true).trans ?_
  rw [chkM_bind_ok hwatch]
  dsimp only
  rw [bind_ok (storeBarrier_off hoff.2 hwatch')]
  rfl

/-- The word of the first address goes to the second, and both registers are advanced (R141). -/
theorem copyStep_ok (ha : Base s x (xreg s x rs)) (hd : Base s x (xreg s x rd)) (hwatch : watch s x (vaOf (xreg s x rs)) false = .ok ())
    (hms : Mapped (env x op) s (vaOf (xreg s x rs)) 0 8 none la t) (hmd : Mapped (env x op) t (vaOf (xreg s x rd)) 1 8 (some 0) l v)
    (hsame : vaOf (xreg s x rs) = vaOf (xreg s x rd) → la = l) (hla : la.page < 2 ^ 31 ∧ la.lvl < 2 ^ 10) (hl : l.page < 2 ^ 31 ∧ l.lvl < 2 ^ 10)
    (hwatch' : watch v x (vaOf (xreg s x rs)) false = .ok ()) (hh : Held v x (la.lpa (vaOf (xreg s x rs)) / 8) h) (hit : h.st.hit = true)
    (hw : lineWord h.data (la.lpa (vaOf (xreg s x rs)) / 8) = w) (hinit : w.tag ≠ 0x000)
    (hbehind : ownBehind v x (l.lpa (vaOf (xreg s x rd)) / 8) = false) :
    copyStep rd rs (env x op) s =
      (.ok (), stepReg (stepReg (issueStore v (xcore x) (wordStore x (l.lpa (vaOf (xreg s x rd)) / 8) w l)) x rd 8) x rs 8) := by
  generalize hsrc : vaOf (xreg s x rs) = src at *
  generalize hdst : vaOf (xreg s x rd) = dst at *
  have hchecks := copyChecks_ok hms hmd hwatch
  obtain ⟨hpriv, hal, -, -, hmt, hreg, -, -⟩ := hms
  obtain ⟨hpriv', hal', -, hwd, hmt', hreg', -, hoff⟩ := hmd
  have hleafS : heldLeaf (((env x op).hold src la).hold dst l) src = some la := by
    by_cases e : src = dst
    · subst e; rw [hsame rfl]; exact heldLeaf_hold_same hreg' hl.1 hl.2
    · rw [heldLeaf_hold_ne e]; exact heldLeaf_hold_same hreg hla.1 hla.2
  have hleafD : heldLeaf (((env x op).hold src la).hold dst l) dst = some l := heldLeaf_hold_same hreg' hl.1 hl.2
  have hkey : la.lpa src / 8 < 2 ^ 63 := by unfold Leaf.lpa; omega
  have hnone : tget (((env x op).hold src la).hold dst l).words (la.lpa src / 8) = none := by
    rw [hold_words_ne (by unfold pinKey; omega) (by unfold pinKey; omega), hold_words_ne (by unfold pinKey; omega) (by unfold pinKey; omega)]
    rfl
  generalize he : ((env x op).hold src la).hold dst l = e at *
  have hx : e.x = x := by rw [← he]; simp
  subst hx
  have hmS : Mapped e v src 0 8 none la v := ⟨hpriv, hal, translate_heldLeaf hleafS _ _ _, hwatch', hmt, hreg, hoff, hoff⟩
  have hmD : Mapped e v dst 1 8 (some w.payload) l v := ⟨hpriv', hal', translate_heldLeaf hleafD _ _ _, hwd, hmt', hreg', hoff, hoff⟩
  have hload : loadWord e src false v = (.ok w, v) :=
    loadWord_ok (rawLoad_word hmS (hw ▸ cacheWord_line hh hit (by rw [← he]; simp [env]) hnone _ _)) hinit hoff
  have hstore := storeWord_posts (release := false) (by rw [← he]; simp [env]) hmD hbehind nofun
  simp only [copyStep, get_bind, env_x, chkM_bind_ok (baseOf_ok 0 ha), chkM_bind_ok (baseOf_ok 2 hd), hsrc, hdst, chkM_bind_ok (aligned_ok hal),
    chkM_bind_ok (aligned_ok hal'), bind_ok hchecks, bind_ok hload, bind_ok hstore, bind_ok (advanceReg_eq _ _ _ _)]
  exact advanceReg_eq _ _ _ _

/-- The word of a register goes to the address that is filled (R141). -/
theorem fillStep_ok (hd : Base s x (xreg s x rd)) (hm : Mapped (env x op) s (vaOf (xreg s x rd)) 1 8 (some (xreg s x rs).payload) l t)
    (hbehind : ownBehind t x (l.lpa (vaOf (xreg s x rd)) / 8) = false) : fillStep rd rs (env x op) s =
      (.ok (), stepReg (issueStore t (xcore x) (wordStore x (l.lpa (vaOf (xreg s x rd)) / 8) (xreg s x rs) l)) x rd 8) := by
  have hstore := storeWord_posts (release := false) (e := env x op) rfl hm hbehind nofun
  simp only [fillStep, get_bind, env_x, chkM_bind_ok (baseOf_ok 2 hd), bind_ok hstore]
  exact advanceReg_eq _ _ _ _

/-! ### Line maintenance (R246) -/

/-- The operand and the level of a step of line maintenance are checked before its address. -/
theorem maintStep_checked {kind : ReqK} (hsup : kind = .inv → xsup s x = true) (ha : Base s x (xreg s x rs)) :
    maintStep kind rs (env x op) s = (maintain (env x op) kind (vaOf (xreg s x rs)) >>= fun _ => advanceReg (env x op) rs 64) s := by
  rw [maintStep, get_bind]
  refine (run_guard fun hk => ?_).trans ?_
  · rw [chkM_eq, needSup_ok (e := env x op) (hsup hk)]
  · simp only [env_x, chkM_bind_ok (baseOf_ok 0 ha)]

/-- A global address takes no access. -/
theorem maintStep_global {kind : ReqK} (hsup : kind = .inv → xsup s x = true) (ha : Base s x (xreg s x rs))
    (hg : isGlobal (vaOf (xreg s x rs)) = true) : maintStep kind rs (env x op) s = (.ok (), setXreg s x rs (advance (xreg s x rs) 64)) := by
  have hnothing : maintain (env x op) kind (vaOf (xreg s x rs)) s = (.ok (), s) := run_if_pos hg
  rw [maintStep_checked hsup ha, bind_ok hnothing]
  exact advanceReg_eq _ _ _ _

/-- An address that is not global asks the home of its line, once no store of x to the line waits. -/
theorem maintStep_requests {kind : ReqK} (hsup : kind = .inv → xsup s x = true) (ha : Base s x (xreg s x rs))
    (hg : isGlobal (vaOf (xreg s x rs)) = false) (htr : Machine.translate (env x op) 0 (vaOf (xreg s x rs)) 8 none s = (.ok l, t))
    (hmt : pteMt l.pte ≠ 3) (hst : ((t.core (xcore x)).stores.any fun p => p.who == x && p.key / 8 == l.lpa (vaOf (xreg s x rs)) / 64) = false) :
    maintStep kind rs (env x op) s = (.error (.need (.maint kind (l.lpa (vaOf (xreg s x rs)) / 64))), t) := by
  rw [maintStep_checked hsup ha]
  refine bind_error ?_
  refine (run_if_neg (by simp [hg])).trans ?_
  rw [bind_ok htr, get_bind]
  exact (run_if_neg hmt).trans ((run_if_neg Bool.false_ne_true).trans (run_if_neg (by rw [env_x, hst]; decide)))
end

/-! ### Instructions that are one step -/

section
variable {c : Instr} {s u : State} {x : Exec} {op : Op} {rs : BitVec 5} {f : Env → M Unit}

theorem oneStep_ok (hf : f (env x op) s = (.ok (), u)) : oneStep f (env x op) s = (.ok .next, u) := by
  rw [oneStep, bind_ok hf]; rfl

theorem maint_result {kind : ReqK} (hsup : kind = .inv → xsup s x = true) (ha : Base s x (xreg s x rs))
    (hg : isGlobal (vaOf (xreg s x rs)) = true) (h : Ready s x op) (hc : exec c s = .next (issue x op (oneStep (maintStep kind rs)) s).tick) :
    Result c s x rs (advance (xreg s x rs) 64) :=
  result_of h hc (oneStep_ok (maintStep_global hsup ha hg))

theorem maint_waits {kind : ReqK} {t : State} {l : Leaf} (hsup : kind = .inv → xsup s x = true) (ha : Base s x (xreg s x rs))
    (hg : isGlobal (vaOf (xreg s x rs)) = false) (hmt : pteMt l.pte ≠ 3)
    (hst : ((t.core (xcore x)).stores.any fun p => p.who == x && p.key / 8 == l.lpa (vaOf (xreg s x rs)) / 64) = false) (h : Ready s x op)
    (htr : Machine.translate (env x op) 0 (vaOf (xreg s x rs)) 8 none s = (.ok l, t))
    (hc : exec c s = .next (issue x op (oneStep (maintStep kind rs)) s).tick) :
    Gives c s (await s x op.word false false none (.maint kind (l.lpa (vaOf (xreg s x rs)) / 64))).tick := by
  rw [Gives, hc]
  exact congrArg _ (issue_need h nofun (bind_error (maintStep_requests hsup ha hg htr hmt hst)))
end

end Sys2Proof.Claims

open Sys2Proof Sys2Proof.Machine Sys2Proof.Claims

/-- Settles O25: one step of each instruction, and what makes it the last. -/
theorem repeatedInstructions : Obligations.RepeatedInstructions := by
  intro s t x rd rs word f l w a d down
  refine ⟨fun h ht hcnt => ⟨rep_passes h ht hcnt, fun hrep => (exec_repStep_rep hrep).trans (rep_passes h ht hcnt)⟩,
    fun h ht hcnt hf => rep_steps h ht hcnt hf, exec_repStep_rep, fun rt => ⟨?_, ?_, ?_, ?_⟩,
    fun la h v hr ha hd hwatch hms hmd hsame hp hlv hp' hlv' hwatch' hh hit hw hinit hbehind => ?_, fun hr hd hm hbehind => ?_,
    fun ha hg => ⟨fun h => maint_result (kind := .cln) nofun ha hg h rfl, fun h => maint_result (kind := .fls) nofun ha hg h rfl,
      fun hsup h => maint_result (kind := .inv) (fun _ => hsup) ha hg h rfl⟩,
    fun ha hg hmt hst => ⟨fun h htr => maint_waits (kind := .cln) nofun ha hg hmt hst h htr rfl,
      fun h htr => maint_waits (kind := .fls) nofun ha hg hmt hst h htr rfl,
      fun hsup h htr => maint_waits (kind := .inv) (fun _ => hsup) ha hg hmt hst h htr rfl⟩⟩
  · exact fun h => exec_repStep_long h (decode_rrr13 rd rs rt 0x008) rfl
  · exact fun h => exec_repStep_long h (decode_rrr13 rd rs rt 0x009) rfl
  · exact fun h => exec_repStep_long h (decode_rrr13 rd rs rt 0x00A) rfl
  · exact fun h => exec_repStep_long h (decode_rrr13 rd rs rt 0x00B) rfl
  · exact gives_next hr (oneStep_ok (copyStep_ok ha hd hwatch hms hmd hsame ⟨hp, hlv⟩ ⟨hp', hlv'⟩ hwatch' hh hit hw hinit hbehind)) rfl
  · exact gives_next hr (oneStep_ok (fillStep_ok hd hm hbehind)) rfl
end

section
/-! PROOFS. CONS and ALLOC of an object that lies in one page. -/

namespace Sys2Proof.Claims

open Sys2Proof.Machine

/-- The words of an object at their addresses: the header and the body, lowest first (R133). -/
def objectWords (a : BitVec 59) (code : Nat) (body : List W) : List (BitVec 59 × W) :=
  ((⟨BitVec.ofNat 10 (code + 0x100), BitVec.ofNat 64 body.length⟩ : W) :: body).zipIdx.map fun p =>
    (a + BitVec.ofNat 59 (8 * p.2), p.1)

/-- The posted store of a word of the object through the leaf of its page. -/
def storeAt (x : Exec) (l : Leaf) (u : State) (p : BitVec 59 × W) : State :=
  issueStore u (xcore x) (wordStore x (l.lpa p.1 / 8) p.2 l)

section
variable {a : BitVec 59} {code : Nat} {body : List W}

/-- Numbering the words from below gives each the address of its number. -/
theorem zip_range_zipIdx {α β : Type} (f : Nat → β) (l : List α) :
    ((List.range l.length).map f).zip l = l.zipIdx.map fun p => (f p.2, p.1) := by
  apply List.ext_getElem (by simp)
  intro i h1 h2
  simp

/-- The words of an object that ends in the page in which it begins lie in that page. -/
theorem objectWords_page (hpage : (a.toNat + 8 * body.length) / 4096 = a.toNat / 4096) {p : BitVec 59 × W} (hp : p ∈ objectWords a code body) :
    p.1.toNat / 4096 = a.toNat / 4096 := by
  obtain ⟨⟨w, i⟩, hq, rfl⟩ := List.mem_map.mp hp
  have hi : i < body.length + 1 := by
    obtain ⟨-, h, -⟩ := List.mem_zipIdx hq
    simpa using h
  have := a.isLt
  simp only [BitVec.toNat_add, BitVec.toNat_ofNat]
  omega
end

section
variable {e : Env} {s t : State} {a : BitVec 59} {l : Leaf} {code : Nat} {body : List W}

theorem isReg_eq_false_iff (n : Nat) : isReg n = false ↔ n < 0x7F000000000 ∨ 0x80000000000 ≤ n := by
  rw [isReg, Bool.and_eq_false_iff, decide_eq_false_iff_not, decide_eq_false_iff_not, Nat.not_le, Nat.not_lt]

/-- A word of a page lies below page k if the page itself begins below it. -/
theorem page_word_lt {p v k : Nat} (hv : v < 4096) (h : p * 4096 < k * 4096) : p * 4096 + v < k * 4096 := by
  have hpage : p < k := Nat.lt_of_mul_lt_mul_right h
  clear h
  omega

/-- No word of a page of memory lies in register space. -/
theorem isReg_lpa (h : isReg (l.page * 4096) = false) (va : BitVec 59) : isReg (l.lpa va) = false := by
  refine (isReg_eq_false_iff _).mpr (((isReg_eq_false_iff _).mp h).imp (fun hlow => ?_) Nat.le_add_right_of_le)
  exact page_word_lt (k := 0x7F000000) (Nat.mod_lt _ (by decide)) hlow

theorem allocChecks_ok {n : Nat} (hn : n ≤ 4095) (hg : (xrec s e.x).allocPtr.getLsbD 58 = false)
    (hlim : (xrec s e.x).allocPtr.toNat + 8 * (n + 1) ≤ (xrec s e.x).allocLim.toNat) (hal : (xrec s e.x).allocPtr.toNat % 8 = 0) :
    allocChecks e s n = .ok () := by
  dsimp only [allocChecks]
  rw [if_neg (Nat.not_lt.mpr hn), if_neg (by rw [hg]; decide), if_neg (Nat.not_lt.mpr hlim), if_pos hal]

theorem allocPages_one (htr : Machine.translate e 1 a 8 (some 0) s = (.ok l, t)) : allocPages e [a] s = (.ok [(a.toNat / 4096, l)], t) := by
  rw [allocPages, bind_ok htr]
  rfl

theorem allocWatch_ok {vas : List (BitVec 59)} (h : ∀ va ∈ vas, watch s e.x va true = .ok ()) : allocWatch e s vas = .ok () := by
  induction vas with
  | nil => rfl
  | cons va r ih =>
    rw [allocWatch, h va List.mem_cons_self]
    exact ih fun v hv => h v (List.mem_cons_of_mem _ hv)

/-- The words of an object in one page of write-back memory are posted, lowest first. -/
theorem allocWrite_posts {k : Nat} (hmt : pteMt l.pte = 0) (hreg : isReg (l.page * 4096) = false) {ws : List (BitVec 59 × W)}
    (h : ∀ p ∈ ws, p.1.toNat / 4096 = k) : allocWrite e [(k, l)] ws s = (.ok (), ws.foldl (storeAt e.x l) s) := by
  induction ws generalizing s with
  | nil => rfl
  | cons p r ih =>
    obtain ⟨va, w⟩ := p
    have hk : va.toNat / 4096 = k := h (va, w) List.mem_cons_self
    have hpage : tget [(k, l)] (va.toNat / 4096) = some l := by simp [tget, hk]
    have hnot : ¬ isReg (l.lpa va) = true := by simp [isReg_lpa hreg va]
    rw [allocWrite, hpage]
    refine (run_if_neg hnot).trans ?_
    rw [modify_bind, hmt]
    exact ih fun q hq => h q (List.mem_cons_of_mem _ hq)

theorem allocate_ok (hn : body.length ≤ 4095) (ha : (xrec s e.x).allocPtr = a) (hg : a.getLsbD 58 = false) (hal : a.toNat % 8 = 0)
    (hlim : a.toNat + 8 * (body.length + 1) ≤ (xrec s e.x).allocLim.toNat) (hpage : (a.toNat + 8 * body.length) / 4096 = a.toNat / 4096)
    (htr : Machine.translate e 1 a 8 (some 0) s = (.ok l, t)) (hmt : pteMt l.pte = 0) (hreg : isReg (l.page * 4096) = false)
    (hfree : ∀ p ∈ objectWords a code body, watch t e.x p.1 true = .ok () ∧ ownBehind t e.x (l.lpa p.1 / 8) = false) :
    allocate e code body.length body s =
      (.ok (newPointer (gcOf (setAllocPtr ((objectWords a code body).foldl (storeAt e.x l) t) e.x (a + BitVec.ofNat 59 (8 * (body.length + 1)))) e.x) code a),
        setAllocPtr ((objectWords a code body).foldl (storeAt e.x l) t) e.x (a + BitVec.ofNat 59 (8 * (body.length + 1)))) := by
  have hwords : ((List.range (body.length + 1)).map fun i => a + BitVec.ofNat 59 (8 * i)).zip
      ((⟨BitVec.ofNat 10 (code + 0x100), BitVec.ofNat 64 body.length⟩ : W) :: body) = objectWords a code body :=
    zip_range_zipIdx (fun i => a + BitVec.ofNat 59 (8 * i)) ((⟨BitVec.ofNat 10 (code + 0x100), BitVec.ofNat 64 body.length⟩ : W) :: body)
  subst ha
  have hchecks := allocChecks_ok (e := e) hn hg hlim hal
  have hpages : (xrec s e.x).allocPtr :: ((List.range (((xrec s e.x).allocPtr.toNat + 8 * body.length) / 4096 - (xrec s e.x).allocPtr.toNat / 4096)).map
      fun i => BitVec.ofNat 59 (((xrec s e.x).allocPtr.toNat / 4096 + 1 + i) * 4096)) = [(xrec s e.x).allocPtr] := by
    rw [hpage, Nat.sub_self]; rfl
  rw [allocate, get_bind, chkM_bind_ok hchecks]
  dsimp only
  rw [hwords, hpages, bind_ok (allocPages_one htr), get_bind]
  have hwatch := allocWatch_ok (e := e) (vas := (objectWords (xrec s e.x).allocPtr code body).map fun w => w.1) (s := t) (by
    simpa using fun va w h => (hfree (va, w) h).1)
  have hside : (if ([((xrec s e.x).allocPtr.toNat / 4096, l)].any fun p => pteMt p.2.pte == 3) = true then 3 else 0) = 0 := by simp [hmt]
  rw [chkM_bind_ok hwatch, hside, bind_ok (waitSide_wb _)]
  refine (run_if_neg ?_).trans ?_
  · rw [Bool.not_eq_true, List.any_eq_false]
    intro p hp
    have hleaf : tget [((xrec s e.x).allocPtr.toNat / 4096, l)] (p.1.toNat / 4096) = some l := by simp [tget, objectWords_page hpage hp]
    simp [hleaf, (hfree p hp).2]
  · rw [bind_ok (allocWrite_posts hmt hreg fun p hp => objectWords_page hpage hp), modify_bind, get_bind]
    rfl
end

section
variable {s : State} {x : Exec} {op : Op} {rd rs rt : BitVec 5} {imm : BitVec 14} {u : State} {w : W}

theorem consBody_ok (h : allocate (env x op) 0x100 2 [xreg s x rs, xreg s x rt] s = (.ok w, u)) :
    consBody rd rs rt (env x op) s = (.ok .next, setXreg u x rd w) := by
  rw [consBody, get_bind, env_x, bind_ok h, putRd_eq, env_x]

theorem allocBody_ok {body : List W} (hi : IsFix (xreg s x rs)) (hlen : body.length ≤ 4095)
    (hbody : body = List.replicate (xreg s x rs).payload.toNat (if imm.toNat % 1024 = 0x102 then rawW 0 else nilW))
    (h : allocate (env x op) (imm.toNat % 1024) body.length body s = (.ok w, u)) :
    allocBody rd rs imm (env x op) s = (.ok .next, setXreg u x rd w) := by
  have hchk : chk (env x op) 0 (xreg s x rs) ((xreg s x rs).tag == 0x001) = .ok () := chk_fix hi
  have hn : body.length = (xreg s x rs).payload.toNat := by rw [hbody, List.length_replicate]
  have hmin : min (xreg s x rs).payload.toNat 4096 = (xreg s x rs).payload.toNat := by omega
  rw [hn, hbody] at h
  simp only [allocBody, get_bind, env_x, chkM_bind_ok hchk, hmin, bind_ok h]
  rw [putRd_eq, env_x]
end

end Sys2Proof.Claims

open Sys2Proof Sys2Proof.Machine Sys2Proof.Claims

/-- Settles O23: the two instructions allocate alike; they differ in the body that they give the object. -/
theorem listsAreAllocated : Obligations.ListsAreAllocated := by
  intro s t n rd rs rt imm l x a words made fits len code fill
  refine ⟨fun ⟨h, hn, hg, hal, hlim, hpage, htr, hmt, hreg, hfree⟩ => ?_, fun hi ⟨h, hn, hg, hal, hlim, hpage, htr, hmt, hreg, hfree⟩ => ?_⟩
  · have hobj := allocate_ok (e := env x (.cons rd rs rt)) (s := s) (t := t) (a := a) (l := l) (code := 0x100) (body := [xreg s x rs, xreg s x rt])
      hn rfl hg hal hlim hpage htr hmt hreg hfree
    exact gives_next h (consBody_ok hobj) rfl
  · have hobj := allocate_ok (e := env x (.alloc rd rs imm)) (s := s) (t := t) (a := a) (l := l) (code := code) (body := fill)
      hn rfl hg hal hlim hpage htr hmt hreg hfree
    exact gives_next h (allocBody_ok hi hn rfl hobj) rfl
end

section
/-! PROOFS. Generic operations on two FIXNUMs: an operand of class 1 passes its checks and reads no dispatch table, so that the
instruction writes what R145 computes whenever that is no entry of the table. -/

namespace Sys2Proof.Claims

open Sys2Proof.Machine

/-! ### The operands -/

/-- A FIXNUM has class 1, with or without a dispatch table (R143). -/
theorem operandClass_fix {e : Env} {k : Nat} {w : W} {s : State} (h : IsFix w) : operandClass e k w s = (.ok 1, s) := by
  rw [operandClass, chkM_bind_ok (chk_whole (whole_of_fix h)), classOf, if_pos h]
  rfl

/-- The second operand of a generic instruction: a register or an immediate FIXNUM (R143). -/
def secondOperand (s : State) (x : Exec) (rt : Option (BitVec 5)) (imm : BitVec 64) : W :=
  match rt with
  | some r => xreg s x r
  | none => ⟨0x001, imm⟩

section
variable {op : GOp} {rd rs : BitVec 5} {rt : Option (BitVec 5)} {imm : BitVec 64} {s : State} {w : W}

/-- Two FIXNUMs take the path of R145: no flag is raised and no table is read. -/
theorem generic_fix {e : Env} (ha : IsFix (xreg s e.x rs)) (hb : IsFix (secondOperand s e.x rt imm))
    (hw : genFix op (xreg s e.x rs).payload.toInt (secondOperand s e.x rt imm).payload.toInt = .ok w) :
    generic op rd rs rt imm e s = (.ok .next, setXreg s e.x rd w) := by
  rw [generic, get_bind, bind_ok (operandClass_fix ha)]
  cases rt with
  | none =>
    dsimp only [secondOperand] at hw
    simp only [pure_bind_M, ha, and_self, Nat.one_le_ofNat, if_true, hw, modify_bind]
    rfl
  | some r =>
    dsimp only [secondOperand] at hb hw
    simp only [bind_ok (operandClass_fix hb), ha, hb, and_self, Nat.one_le_ofNat, if_true, hw, modify_bind]
    rfl

theorem generic_fix_result {c : Instr} {x : Exec} {o : Op} (h : Ready s x o)
    (hc : exec c s = .next (issue x o (generic op rd rs rt imm) s).tick) (ha : IsFix (xreg s x rs)) (hb : IsFix (secondOperand s x rt imm))
    (hw : genFix op (xreg s x rs).payload.toInt (secondOperand s x rt imm).payload.toInt = .ok w) : Result c s x rd w :=
  result_of h hc (generic_fix ha hb hw)
end

/-! ### The hardware path (R145) -/

theorem fixOr_fits {v : Int} {entry : Nat} (h : -(2 ^ 63) ≤ v ∧ v < 2 ^ 63) : fixOr v entry = .ok ⟨0x001, BitVec.ofInt 64 v⟩ := if_pos h

/-- A remainder is nearer to zero than the divisor, so REM never overflows. -/
theorem tmod_fits (a : Int) {b : BitVec 64} (hb : b.toInt ≠ 0) : -(2 ^ 63) ≤ a.tmod b.toInt ∧ a.tmod b.toInt < 2 ^ 63 := by
  have hlow : -(2 ^ 63) ≤ b.toInt := BitVec.le_toInt b
  have hhigh : b.toInt < 2 ^ 63 := BitVec.toInt_lt
  have habs : (a.tmod b.toInt).natAbs < b.toInt.natAbs := by
    rw [Int.natAbs_tmod]
    exact Nat.mod_lt _ (Int.natAbs_pos.mpr hb)
  omega

theorem genFix_div {a b : Int} (hb : b ≠ 0) (h : -(2 ^ 63) ≤ a.tdiv b ∧ a.tdiv b < 2 ^ 63) :
    genFix .div a b = .ok ⟨0x001, BitVec.ofInt 64 (a.tdiv b)⟩ :=
  (if_neg hb).trans (fixOr_fits h)

theorem genFix_rem (a : Int) {b : BitVec 64} (hb : b.toInt ≠ 0) :
    genFix .rem a b.toInt = .ok ⟨0x001, BitVec.ofInt 64 (a.tmod b.toInt)⟩ :=
  (if_neg hb).trans (fixOr_fits (tmod_fits a hb))

/-- A comparison has the truth of its relation as its FIXNUM. -/
theorem boolW_decide (p : Prop) [Decidable p] : boolW (decide p) = truth p := boolW_truth decide_eq_true_iff

end Sys2Proof.Claims

open Sys2Proof Sys2Proof.Machine Sys2Proof.Claims

/-- Settles O13: the operands take the path of R145, and a result that fits is none of its table entries. -/
theorem fixnumArithmetic : Obligations.FixnumArithmetic := by
  intro s x rd rs rt imm a b fits w ha
  refine ⟨fun h hf => generic_fix_result h rfl ha rfl (fixOr_fits hf), fun h hf => ?_, fun hb =>
    ⟨fun h hf => generic_fix_result h rfl ha hb (fixOr_fits hf), fun h hf => generic_fix_result h rfl ha hb (fixOr_fits hf),
     fun h hf => generic_fix_result h rfl ha hb (fixOr_fits hf), fun h hne hf => generic_fix_result h rfl ha hb (genFix_div hne hf),
     fun h hne => generic_fix_result h rfl ha hb (genFix_rem a hne),
     fun h => generic_fix_result h rfl ha hb (congrArg Except.ok (boolW_decide (a = b))),
     fun h => generic_fix_result h rfl ha hb (congrArg Except.ok (boolW_decide (a < b))),
     fun h => generic_fix_result h rfl ha hb (congrArg Except.ok (boolW_decide (a ≤ b)))⟩⟩
  rw [← sx_toInt imm] at hf ⊢
  exact generic_fix_result h rfl ha rfl (fixOr_fits hf)
end

section
/-! PROOFS. Completion of an instruction (R161, R115): what counting it and moving pc leave, field by field. -/

namespace Sys2Proof.Claims

open Sys2Proof.Machine

/-! ### What completion is made of -/

section
variable (s : State) (k : BitVec 8) (pc : BitVec 59)

theorem commitX_fic : commitX s (.fic k) = (countEvent s (xcore (.fic k)) (whoOf s (.fic k)) 0x01).modFic k.toNat fun f =>
    { f with repeated := none } := rfl

theorem setXpc_fic : setXpc s (.fic k) pc = s.modFic k.toNat fun f => { f with pc := pc } := rfl
end

/-! ### Updates that stay within `Around` -/

section
variable (s : State) (x : Exec) (k : Nat)

theorem around_setCtx (n : Nat) (c : Ctx) : Around s (s.setCtx n c) := ⟨rfl, fun _ => rfl, fun _ => rfl⟩

theorem around_tick : Around s s.tick := ⟨rfl, fun _ => rfl, fun _ => rfl⟩

theorem around_modFic (f : Fic → Fic) : Around s (s.modFic k f) := around_core s k (s.core k).pmc (s.core k).pmsel (f (s.fic k))

@[simp] theorem fic_modFic_same (f : Fic → Fic) : (s.modFic k f).fic k = f (s.fic k) := by simp [State.fic, State.modFic]

theorem ficKept_modFic_ne (f : Fic → Fic) {j : Nat} (h : j ≠ k) : FicKept s (s.modFic k f) j := by
  simp [FicKept, State.fic, State.modFic, State.core_modCore_ne _ _ h]

theorem Around.mem {t : State} (h : Around s t) : t.mem = s.mem := (congrArg State.mem h.1).trans rfl

theorem around_commitX : Around s (commitX s x) := by
  refine (countEvent_keeps s (xcore x) (whoOf s x) 0x01).around.trans ?_
  cases x with
  | ctx n => exact around_setCtx _ _ _
  | fic k => rw [commitX_fic]; exact around_modFic _ _ _

theorem around_setXpc (pc : BitVec 59) : Around s (setXpc s x pc) := by
  cases x with
  | ctx n => exact around_setCtx _ _ _
  | fic k => rw [setXpc_fic]; exact around_modFic _ _ _

theorem around_jumped (pc : BitVec 59) : Around s (jumped s x pc) :=
  ((around_commitX s x).trans (around_setXpc _ x pc)).trans (around_tick _)

theorem commitX_free : (commitX s x).free = s.free := by
  have hcounted : (countEvent s (xcore x) (whoOf s x) 0x01).free = s.free := (countEvent_keeps s _ _ _).free
  cases x <;> exact hcounted

theorem jumped_free (pc : BitVec 59) : (jumped s x pc).free = s.free + 1 := by
  rw [← commitX_free s x]
  cases x <;> rfl
end

/-! ### The executor after completion -/

section
variable (s : State)

theorem ctx_jumped_same (n : BitVec 16) (pc : BitVec 59) : (jumped s (.ctx n) pc).ctx n.toNat = doneCtx (s.ctx n.toNat) pc := by
  simp [jumped, setXpc, ctx_commitX_same, doneCtx]

theorem ctx_jumped_ne (n : BitVec 16) (pc : BitVec 59) {m : Nat} (h : m ≠ n.toNat) : (jumped s (.ctx n) pc).ctx m = s.ctx m := by
  simp [jumped, setXpc, State.ctx_modCtx_ne _ _ h, ctx_commitX_ne _ _ _ h]

/-- A context's completion leaves every fast interrupt context but for the requests pending there. -/
theorem ficKept_jumped_ctx (n : BitVec 16) (pc : BitVec 59) (k : Nat) : FicKept s (jumped s (.ctx n) pc) k :=
  ((countEvent_keeps s (xcore (.ctx n)) (whoOf s (.ctx n)) 0x01).fic k).trans (ficKept_of_cores rfl k)

theorem ctx_commitX_fic (k : BitVec 8) (m : Nat) : (commitX s (.fic k)).ctx m = s.ctx m :=
  ctx_countEvent s (xcore (.fic k)) (whoOf s (.fic k)) 0x01 m

/-- A fast interrupt context whose instruction is counted as complete has a request pending, perhaps, and nothing else new. -/
theorem fic_commitX_same (k : BitVec 8) :
    (commitX s (.fic k)).fic k.toNat = { s.fic k.toNat with pending := ((commitX s (.fic k)).fic k.toNat).pending, repeated := none } := by
  have hcounted : FicKept s (countEvent s (xcore (.fic k)) (whoOf s (.fic k)) 0x01) k.toNat := (countEvent_keeps s _ _ _).fic _
  rw [commitX_fic, fic_modFic_same, hcounted]

theorem fic_jumped_same (k : BitVec 8) (pc : BitVec 59) :
    (jumped s (.fic k) pc).fic k.toNat =
      { s.fic k.toNat with pc := pc, pending := ((jumped s (.fic k) pc).fic k.toNat).pending, repeated := none } := by
  have h : (jumped s (.fic k) pc).fic k.toNat = { (commitX s (.fic k)).fic k.toNat with pc := pc } := by
    rw [← fic_modFic_same (commitX s (.fic k)) k.toNat fun f => { f with pc := pc }, ← setXpc_fic]
    rfl
  rw [h, fic_commitX_same]

theorem ficKept_jumped_ne (k : BitVec 8) (pc : BitVec 59) {j : Nat} (h : j ≠ k.toNat) : FicKept s (jumped s (.fic k) pc) j := by
  have hcommit : FicKept s (commitX s (.fic k)) j := by
    rw [commitX_fic]
    exact ((countEvent_keeps s _ _ _).fic j).trans (ficKept_modFic_ne _ _ _ h)
  have hpc : FicKept (commitX s (.fic k)) (setXpc (commitX s (.fic k)) (.fic k) pc) j := by
    rw [setXpc_fic]
    exact ficKept_modFic_ne _ _ _ h
  exact (hcommit.trans hpc).trans (ficKept_of_cores rfl j)

theorem placed_doneCtx (c : Ctx) (pc : BitVec 59) (p : RegAt) : placed (doneCtx c pc) p = placed c p := placed_congr rfl rfl rfl p

theorem ctxReg_doneCtx (c : Ctx) (pc : BitVec 59) (r : Nat) : ctxReg (doneCtx c pc) r = ctxReg c r := by
  rw [ctxReg_placed, ctxReg_placed, placed_doneCtx, regAt_congr (c := c) (d := doneCtx c pc) rfl rfl]

/-- Where a fast interrupt context's registers are read from: its two tables and its mode. -/
theorem ficReg_congr {f g : Fic} (hmode : g.mode = f.mode) (hregs : g.regs = f.regs) (hnl : g.nl = f.nl) (r : Nat) :
    ficReg g r = ficReg f r := by
  rw [ficReg, ficReg, hmode, hregs, hnl]
end

end Sys2Proof.Claims

open Sys2Proof Sys2Proof.Machine Sys2Proof.Claims

/-- Settles O18: completion counts the instruction and touches pc, wsup and the mark of a long instruction of its executor. -/
theorem completionFrame : Obligations.CompletionFrame := by
  intro u x pc
  cases x with
  | ctx n =>
    have hself := ctx_jumped_same u n pc
    refine ⟨?_, ⟨fun p _ => ?_, ?_, fun m hm => ctx_jumped_ne u n pc hm, ficKept_jumped_ctx u n pc⟩, around_jumped u _ pc, jumped_free u _ pc,
      fun r => ?_, ?_, ?_, ?_, rfl⟩
    · rw [xpc, hself]; rfl
    · rw [hself, placed_doneCtx]
    · rw [hself]; rfl
    · rw [xreg, hself]; exact ctxReg_doneCtx _ _ _
    · rw [xlk, hself]; rfl
    · rw [xcnt, hself]; rfl
    · rw [xfpsr, hself]; rfl
  | fic k =>
    have hself := fic_jumped_same u k pc
    have hread : ∀ r, xreg (jumped u (.fic k) pc) (.fic k) r = xreg u (.fic k) r := fun r => by
      rw [xreg, hself]; exact ficReg_congr rfl rfl rfl _
    refine ⟨?_, ⟨fun r _ => hread r, fun _ => ?_, ?_, fun m => ctx_commitX_fic u k m, fun j hj => ficKept_jumped_ne u k pc hj⟩,
      around_jumped u _ pc, jumped_free u _ pc, hread, ?_, ?_, ?_, rfl⟩
    · rw [xpc, hself]
    · rw [hself]
    · rw [hself]
    · rw [xlk, hself]; rfl
    · rw [xcnt, hself]; rfl
    · rw [xfpsr, hself]; rfl
end

section
/-! PROOFS. Exceptions of contexts: the saved registers of a world, the bits of the saved and the current status (R161, R168), and
the entry (R166). -/

namespace Sys2Proof.Claims

open Sys2Proof.Machine

/-! ### Saved registers by world -/

section
variable (r : Rec) (w : World) (pc : BitVec 59) (stat : BitVec 32) (v : Bool)

/-- Setting a valid bit touches the two valid bits alone. -/
theorem setXvalid_eq : r.setXvalid w v = { r with xvalidS := (r.setXvalid w v).xvalidS, xvalidJ := (r.setXvalid w v).xvalidJ } := by
  cases w <;> rfl

theorem xvalid_setXvalid_same : (r.setXvalid w v).xvalid w = v := by cases w <;> rfl

theorem xvalid_setXvalid_other : (r.setXvalid w v).xvalid w.other = r.xvalid w.other := by cases w <;> rfl

theorem xvalid_setXvalid_otherSet : (r.setXvalid w.other v).xvalid w = r.xvalid w := by cases w <;> rfl

/-- A record with the saved registers of world w written, as an exception entry and a gate entry write them. -/
def saveFrame : Rec := ((r.setXpc w pc).setXstat w stat).setXvalid w true

theorem saveFrame_same :
    (saveFrame r w pc stat).xpc w = pc ∧ (saveFrame r w pc stat).xstat w = stat ∧ (saveFrame r w pc stat).xvalid w = true := by
  cases w <;> exact ⟨rfl, rfl, rfl⟩

theorem saveFrame_other :
    (saveFrame r w pc stat).xpc w.other = r.xpc w.other ∧ (saveFrame r w pc stat).xstat w.other = r.xstat w.other ∧
      (saveFrame r w pc stat).xvalid w.other = r.xvalid w.other := by
  cases w <;> exact ⟨rfl, rfl, rfl⟩

/-- Writing a frame touches the six saved registers alone. -/
theorem saveFrame_eq : saveFrame r w pc stat = { r with
    xpcS := (saveFrame r w pc stat).xpcS, xstatS := (saveFrame r w pc stat).xstatS, xvalidS := (saveFrame r w pc stat).xvalidS,
    xpcJ := (saveFrame r w pc stat).xpcJ, xstatJ := (saveFrame r w pc stat).xstatJ, xvalidJ := (saveFrame r w pc stat).xvalidJ } := by
  cases w <;> rfl
end

/-- The saved registers of a world are three fields of its own. -/
theorem savedRegs_congr {r d : Rec} (hS : d.xpcS = r.xpcS ∧ d.xstatS = r.xstatS ∧ d.xvalidS = r.xvalidS)
    (hJ : d.xpcJ = r.xpcJ ∧ d.xstatJ = r.xstatJ ∧ d.xvalidJ = r.xvalidJ) (w : World) :
    d.xpc w = r.xpc w ∧ d.xstat w = r.xstat w ∧ d.xvalid w = r.xvalid w := by
  cases w
  · exact hS
  · exact hJ

/-! ### The bits of a status (R161, R168) -/

/-- The world that a status names in its bit 0. -/
theorem world_eq (r : Rec) : r.world = worldOf (if r.ctxStat.getLsbD 0 then 1 else 0) := by
  unfold Rec.world
  split <;> rfl

theorem b2n_eq (b : Bool) : b2n b = if b then 1 else 0 := rfl

theorem b2n_le_one (b : Bool) : b2n b ≤ 1 := by cases b <;> decide

section
variable {x y : BitVec 32}

/-- Words with the same low 14 bits agree in each of them: world, level and space. -/
theorem getLsbD_of_low (h : x.toNat % 2 ^ 14 = y.toNat % 2 ^ 14) {i : Nat} (hi : i < 14) : x.getLsbD i = y.getLsbD i := by
  have hbit : (x.toNat % 2 ^ 14).testBit i = (y.toNat % 2 ^ 14).testBit i := by rw [h]
  rwa [Nat.testBit_mod_two_pow, Nat.testBit_mod_two_pow, decide_eq_true hi, Bool.true_and, Bool.true_and] at hbit

theorem space_of_low (h : x.toNat % 2 ^ 14 = y.toNat % 2 ^ 14) : x.extractLsb' 2 12 = y.extractLsb' 2 12 := by
  ext i hi
  simp only [BitVec.getElem_extractLsb']
  exact getLsbD_of_low h (by omega)

theorem getLsbD_of_bit {i : Nat} {b : Bool} (h : x.toNat / 2 ^ i % 2 = b2n b) : x.getLsbD i = b := by
  rw [BitVec.getLsbD, Nat.testBit_eq_decide_div_mod_eq, h]
  cases b <;> rfl

theorem bit_toNat (x : BitVec 32) (i : Nat) : x.toNat / 2 ^ i % 2 = b2n (x.getLsbD i) := by
  rw [BitVec.getLsbD, Nat.testBit_eq_decide_div_mod_eq]
  rcases Nat.mod_two_eq_zero_or_one (x.toNat / 2 ^ i) with h | h <;> simp [h, b2n]

theorem field_toNat (x : BitVec 32) (lo n : Nat) : (x.extractLsb' lo n).toNat = x.toNat / 2 ^ lo % 2 ^ n := by
  rw [BitVec.extractLsb'_toNat, Nat.shiftRight_eq_div_pow]

theorem field_of_toNat {lo n : Nat} {v : BitVec n} (h : x.toNat / 2 ^ lo % 2 ^ n = v.toNat) : x.extractLsb' lo n = v :=
  BitVec.eq_of_toNat_eq ((field_toNat x lo n).trans h)
end

section
variable (r : Rec) (stat sv : BitVec 32) (gframe wsup : Bool) {token wfix : Nat}

/-- The fields of a saved status do not overlap. -/
theorem savedStat_toNat (ht : token < 16) (hw : wfix < 4) : (savedStat r gframe token wfix).toNat =
    r.ctxStat.toNat % 2 ^ 14 + 2 ^ 14 * b2n r.tw + 2 ^ 15 * b2n gframe + 2 ^ 16 * token + 2 ^ 21 * wfix := by
  have htw := b2n_le_one r.tw
  have hg := b2n_le_one gframe
  rw [savedStat, BitVec.toNat_ofNat]
  omega

theorem restoreStat_toNat : (restoreStat stat sv wsup).toNat =
    stat.toNat / 2 ^ 14 * 2 ^ 14 % 2 ^ 24 + sv.toNat % 2 ^ 14 + 2 ^ 24 * b2n wsup := by
  have hw := b2n_le_one wsup
  rw [restoreStat, BitVec.toNat_ofNat]
  omega

theorem restoreStat_low : (restoreStat stat sv wsup).toNat % 2 ^ 14 = sv.toNat % 2 ^ 14 := by
  rw [restoreStat_toNat]
  omega

/-- What a gate return leaves of a status: no open gate, no gate number, and the token (R176). -/
theorem gateReturnStat_toNat : (putN (putN (restoreStat stat sv false) 14 1 0) 19 5 0).toNat =
    stat.toNat / 2 ^ 15 % 2 ^ 4 * 2 ^ 15 + sv.toNat % 2 ^ 14 := by
  have h := restoreStat_toNat stat sv false
  simp only [putN, bitsN, BitVec.toNat_ofNat, h, b2n, Bool.false_eq_true, if_false]
  omega

theorem gateReturnStat_low : (putN (putN (restoreStat stat sv false) 14 1 0) 19 5 0).toNat % 2 ^ 14 = sv.toNat % 2 ^ 14 := by
  rw [gateReturnStat_toNat]
  omega
end

/-! ### The entry (R166) -/

/-- The events of an entry are counted (R115). -/
theorem counted_entryEvents (s : State) (n cause : Nat) : Counted s (entryEvents s n cause) := by
  have hif : ∀ (p : Prop) [Decidable p] (t : State) (ev : Nat),
      Counted s t → Counted s (if p then countEvent t (coreOf n) (evWho (s.ctx n)) ev else t) := by
    intro p _ t ev h
    split
    · exact h.trans (countEvent_keeps _ _ _ _)
    · exact h
  exact hif _ _ _ (hif _ _ _ (hif _ _ _ (hif _ _ _ (countEvent_keeps _ _ _ _))))

section
variable (c : Ctx) (e : Exn) (pc : BitVec 59)

/-- An entry writes the saved registers of a world, what describes the exception, tw, pc and the status. -/
theorem enterAt_eq : enterAt c e pc =
    { c with r := { c.r with
        xpcS := (enterAt c e pc).r.xpcS, xstatS := (enterAt c e pc).r.xstatS, xvalidS := (enterAt c e pc).r.xvalidS,
        xpcJ := (enterAt c e pc).r.xpcJ, xstatJ := (enterAt c e pc).r.xstatJ, xvalidJ := (enterAt c e pc).r.xvalidJ,
        xcause := e.cause, xaddr := e.addr, xinfo := e.info, tw := true, pc := pc,
        ctxStat := (c.r.ctxStat ||| 2) &&& ~~~(0x1000000 : BitVec 32) } } :=
  congrArg (fun r => { c with r := { r with
      xcause := e.cause, xaddr := e.addr, xinfo := e.info, tw := true, pc := pc,
      ctxStat := (r.ctxStat ||| 2) &&& ~~~(0x1000000 : BitVec 32) } })
    (saveFrame_eq c.r c.r.world c.r.pc (savedStat c.r false 0 (wfixOf e.cause.toNat)))

theorem enterAt_frame (w : World) : let f := saveFrame c.r c.r.world c.r.pc (savedStat c.r false 0 (wfixOf e.cause.toNat))
    (enterAt c e pc).r.xpc w = f.xpc w ∧ (enterAt c e pc).r.xstat w = f.xstat w ∧ (enterAt c e pc).r.xvalid w = f.xvalid w :=
  savedRegs_congr ⟨rfl, rfl, rfl⟩ ⟨rfl, rfl, rfl⟩ w

theorem enterAt_saved : (enterAt c e pc).r.xpc c.r.world = c.r.pc ∧
    (enterAt c e pc).r.xstat c.r.world = savedStat c.r false 0 (wfixOf e.cause.toNat) ∧ (enterAt c e pc).r.xvalid c.r.world = true := by
  obtain ⟨hpc, hstat, hvalid⟩ := enterAt_frame c e pc c.r.world
  rw [hpc, hstat, hvalid]
  exact saveFrame_same _ _ _ _

theorem enterAt_other : (enterAt c e pc).r.xpc c.r.world.other = c.r.xpc c.r.world.other ∧
    (enterAt c e pc).r.xstat c.r.world.other = c.r.xstat c.r.world.other ∧
    (enterAt c e pc).r.xvalid c.r.world.other = c.r.xvalid c.r.world.other := by
  obtain ⟨hpc, hstat, hvalid⟩ := enterAt_frame c e pc c.r.world.other
  rw [hpc, hstat, hvalid]
  exact saveFrame_other _ _ _ _
end

/-- The status of the handler: Supervisor level, no suppression of watches, and world and space as they were. -/
theorem entryStat_fields {r d : Rec} (h : d.ctxStat = (r.ctxStat ||| 2) &&& ~~~(0x1000000 : BitVec 32)) :
    d.sup = true ∧ d.wsup = false ∧ d.world = r.world ∧ d.space = r.space := by
  have hspace : ∀ i < 12, (2 : BitVec 32).getLsbD (2 + i) = false ∧ (~~~(0x1000000 : BitVec 32)).getLsbD (2 + i) = true := by decide
  refine ⟨?_, ?_, ?_, ?_⟩
  · simp [Rec.sup, h]
  · simp [Rec.wsup, h]
  · simp [Rec.world, h]
  · rw [Rec.space, Rec.space, h]
    ext i hi
    obtain ⟨hor, hand⟩ := hspace i hi
    rw [BitVec.getElem_extractLsb', BitVec.getElem_extractLsb', BitVec.getLsbD_and, BitVec.getLsbD_or, hor, hand, Bool.or_false, Bool.and_true]

section
variable {s : State} {n : Nat} {e : Exn}

theorem enter_undelivered (h : vector s (s.ctx n).r.world = none ∨ (s.ctx n).r.xvalid (s.ctx n).r.world = true) :
    enter s n e = lockup s n e.cause.toNat := by
  simp only [enter]
  split
  · rfl
  next v hv =>
    have hx : (s.ctx n).r.xvalid (s.ctx n).r.world = true := h.resolve_left (by simp [hv])
    exact if_pos hx

theorem enter_delivered {v : BitVec 59} (hv : vector s (s.ctx n).r.world = some v) (hx : (s.ctx n).r.xvalid (s.ctx n).r.world = false)
    (hh : e.handler = none) : enter s n e =
      (entryEvents s n e.cause.toNat).setCtx n (enterAt (s.ctx n) e (v + BitVec.ofNat 59 (0x40 * e.cause.toNat))) := by
  simp [enter, hv, hx, hh]
end

theorem wfixOf_toNat (cause : BitVec 8) :
    wfixOf cause.toNat = if cause = 0x11 then 1 else if cause = 0x12 then 2 else 0 := by
  have h11 : cause.toNat = 0x11 ↔ cause = 0x11 := ⟨fun h => BitVec.eq_of_toNat_eq h, fun h => by rw [h]; rfl⟩
  have h12 : cause.toNat = 0x12 ↔ cause = 0x12 := ⟨fun h => BitVec.eq_of_toNat_eq h, fun h => by rw [h]; rfl⟩
  simp only [wfixOf, h11, h12]

theorem wfixOf_lt (cause : Nat) : wfixOf cause < 4 := by
  unfold wfixOf
  split_ifs <;> decide

/-- The status that an entry saves (R166): the low bits of the current one, tw, and the window adjustment. -/
theorem entrySaved_toNat (r : Rec) (cause : BitVec 8) : (savedStat r false 0 (wfixOf cause.toNat)).toNat =
    r.ctxStat.toNat % 2 ^ 14 + (if r.tw then 2 ^ 14 else 0) + 2 ^ 21 * (if cause = 0x11 then 1 else if cause = 0x12 then 2 else 0) := by
  rw [savedStat_toNat r false (by decide) (wfixOf_lt _), wfixOf_toNat]
  cases r.tw <;> simp [b2n]

end Sys2Proof.Claims

open Sys2Proof Sys2Proof.Machine Sys2Proof.Claims

/-- Settles O29: the entry counts its events and writes the frame of the world, the status of a handler, and nothing else. -/
theorem exceptionEntry : Obligations.ExceptionEntry := by
  intro s n e v hh c w t d
  refine ⟨fun hv hx => ?_, fun h => enter_undelivered h⟩
  have ht : t = (entryEvents s n e.cause.toNat).setCtx n (enterAt c e (v + BitVec.ofNat 59 (0x40 * e.cause.toNat))) :=
    enter_delivered hv hx hh
  have hd : d = enterAt c e (v + BitVec.ofNat 59 (0x40 * e.cause.toNat)) :=
    (congrArg (State.ctx · n) ht).trans (State.ctx_setCtx_same _ _ _)
  have hcounted := counted_entryEvents s n e.cause.toNat
  have haround : Around s t := ht ▸ hcounted.around.trans (around_setCtx _ _ _)
  have hother : ∀ m, m ≠ n → t.ctx m = s.ctx m := fun m hm => by
    rw [ht, State.ctx_setCtx_ne _ _ hm, hcounted.ctx]
  obtain ⟨hpc, hxstat, hvalid⟩ := enterAt_saved c e (v + BitVec.ofNat 59 (0x40 * e.cause.toNat))
  obtain ⟨hpcO, hstatO, hvalidO⟩ := enterAt_other c e (v + BitVec.ofNat 59 (0x40 * e.cause.toNat))
  rw [← hd] at hpc hvalid hxstat hpcO hstatO hvalidO
  rw [enterAt_eq] at hd
  obtain ⟨hsup, hwsup, hworld, hspace⟩ := entryStat_fields (r := c.r) (d := d.r) (congrArg (·.r.ctxStat) hd)
  refine ⟨hpc, hvalid, ?_, ?_, ?_, hsup, hwsup, hworld, hspace, ?_, ?_, (congrArg BitVec.toNat hxstat).trans (entrySaved_toNat _ _),
    hpcO, hstatO, hvalidO, ?_, ?_, ?_, ?_, ?_, ?_, ?_, ?_, hother, haround.mem, (congrArg State.mesh haround.1).trans rfl,
    (congrArg State.tlbs haround.1).trans rfl, (congrArg State.pending haround.1).trans rfl⟩
  all_goals rw [hd]
end

section
/-! PROOFS. Instructions that raise and return: SYSCALL and BRK (R170, R171), RETX (R104, R176, R177) and WCALL (R173). -/

namespace Sys2Proof.Claims

open Sys2Proof.Machine

/-! ### An instruction that raises -/

section
variable {c : Instr} {s : State} {x : Exec} {op : Op} {body : Body_} {e : Exn}

/-- A body that only raises leaves nothing besides its exception. -/
theorem raises_gives (h : Ready s x op) (hc : exec c s = .next (issue x op body s).tick) (hb : body (env x op) s = (.error (.exn e), s)) :
    Gives c s (raiseX s x e).tick := by
  rw [Gives, hc, issue_exn h hb, kept_self]

/-- Of the causes, two drop translations and one is a return that failed; every other enters (R166). -/
theorem raiseX_enters (s : State) (n : BitVec 16) {cause : BitVec 8} (addr : BitVec 59) (info : BitVec 64)
    (hc : ¬ (cause = 0x0C ∨ cause = 0x0D) ∧ cause ≠ 0x18) :
    raiseX s (.ctx n) ⟨cause, addr, info, none, 0⟩ = enter (setRepeated s (.ctx n) none) n.toNat ⟨cause, addr, info, none, 0⟩ := by
  obtain ⟨hflag, hret⟩ := hc
  rw [raiseX, if_neg hflag, raise, if_neg hret]

theorem raiseX_illegalReturn (s : State) (n : BitVec 16) (pc : BitVec 59) {sub : Nat} (hsub : sub < 2 ^ 64) :
    raiseX s (.ctx n) ⟨0x18, pc, BitVec.ofNat 64 sub, none, 0⟩ = illegalReturn (setRepeated s (.ctx n) none) n.toNat sub := by
  have hflag : ¬ ((0x18 : BitVec 8) = 0x0C ∨ (0x18 : BitVec 8) = 0x0D) := by decide
  rw [raiseX, if_neg hflag, raise, if_pos rfl, BitVec.toNat_ofNat, Nat.mod_eq_of_lt hsub]

theorem raiseX_fic (s : State) (k : BitVec 8) {e : Exn} (hflag : ¬ (e.cause = 0x0C ∨ e.cause = 0x0D)) :
    raiseX s (.fic k) e = ficLockup (setRepeated s (.fic k) none) k.toNat e.cause.toNat := by
  rw [raiseX, if_neg hflag, raise]
end

theorem syscall_raises {s : State} {x : Exec} (h : Ready s x .syscall) : Gives (.syscall x) s (raiseX s x ⟨0x16, 0, 0, none, 0⟩).tick :=
  raises_gives h rfl rfl

theorem brk_raises {s : State} {x : Exec} (h : Ready s x .brk) :
    Gives (.brk x) s (raiseX s x ⟨0x19, xpc s x, BitVec.ofNat 64 (2 ^ 32 * Op.brk.word.toNat), none, 0⟩).tick :=
  raises_gives h rfl (by rw [brkBody, get_bind, Nat.mul_comm]; rfl)

/-! ### RETX of a context (R176, R177) -/

/-- The context after the return from an exception. -/
def ordinaryReturn (c : Ctx) : Ctx :=
  let w := c.r.world
  let sv := c.r.xstat w
  let r := { c.r with ctxStat := restoreStat c.r.ctxStat sv (sv.getLsbD 20), tw := sv.getLsbD 14,
                      vwc := applyWfix c.r.vwc (bitsN sv 21 2), pc := c.r.xpc w }
  { c with r := r.setXvalid w false }

/-- The context after the return from a gate. -/
def gateReturn (c : Ctx) : Ctx :=
  let t := c.r.world.other
  let sv := c.r.xstat t
  let r := { c.r with ctxStat := putN (putN (restoreStat c.r.ctxStat sv false) 14 1 0) 19 5 0, tw := sv.getLsbD 14, pc := c.r.xpc t }
  { c with r := r.setXvalid t false }

section
variable {c : Ctx}

theorem retx_ordinary (hx : c.r.xvalid c.r.world = true)
    (hw : worldOf (if (c.r.xstat c.r.world).getLsbD 0 then 1 else 0) = c.r.world) (hf : (c.r.xstat c.r.world).getLsbD 15 = false) :
    retx c = .ok (ordinaryReturn c) := by
  have hok : ¬ (worldOf (b2n ((c.r.xstat c.r.world).getLsbD 0)) ≠ c.r.world ∨ (c.r.xstat c.r.world).getLsbD 15 = true) :=
    not_or.mpr ⟨not_not.mpr hw, Bool.not_eq_true _ ▸ hf⟩
  rw [retx, if_pos hx, if_neg hok]
  rfl

theorem retx_foreign (hx : c.r.xvalid c.r.world = true)
    (hbad : worldOf (b2n ((c.r.xstat c.r.world).getLsbD 0)) ≠ c.r.world ∨ (c.r.xstat c.r.world).getLsbD 15 = true) :
    retx c = .error 2 := by
  rw [retx, if_pos hx, if_pos hbad]

theorem retx_nothing (hx : c.r.xvalid c.r.world = false) (hg : c.r.gateOpen = false ∨ c.r.xvalid c.r.world.other = false) :
    retx c = .error 1 := by
  have hgate : ¬ (c.r.gateOpen = true ∧ c.r.xvalid c.r.world.other = true) := by
    rcases hg with h | h <;> simp [h]
  rw [retx, if_neg (by simp [hx]), if_neg hgate]

section
variable (hx : c.r.xvalid c.r.world = false) (hg : c.r.gateOpen = true ∧ c.r.xvalid c.r.world.other = true)
include hx hg

theorem retx_gate_foreign (hbad : worldOf (b2n ((c.r.xstat c.r.world.other).getLsbD 0)) ≠ c.r.world.other ∨
      c.r.world.other ≠ c.dir.owner ∨ (c.r.xstat c.r.world.other).getLsbD 15 = false) : retx c = .error 2 := by
  rw [retx, if_neg (by simp [hx]), if_pos hg, if_pos hbad]

variable (hok : ¬ (worldOf (b2n ((c.r.xstat c.r.world.other).getLsbD 0)) ≠ c.r.world.other ∨
      c.r.world.other ≠ c.dir.owner ∨ (c.r.xstat c.r.world.other).getLsbD 15 = false))
include hok

theorem retx_gate_token (htoken : bitsN (c.r.xstat c.r.world.other) 16 4 ≠ c.r.token.toNat) : retx c = .error 3 := by
  rw [retx, if_neg (by simp [hx]), if_pos hg, if_neg hok, if_pos htoken]

theorem retx_gate (htoken : bitsN (c.r.xstat c.r.world.other) 16 4 = c.r.token.toNat) : retx c = .ok (gateReturn c) := by
  rw [retx, if_neg (by simp [hx]), if_pos hg, if_neg hok, if_neg (not_not.mpr htoken)]
  rfl
end
end

/-- A status whose low bits are those of a saved one has its world, level and space. -/
theorem status_of_low {r : Rec} {sv : BitVec 32} (h : r.ctxStat.toNat % 2 ^ 14 = sv.toNat % 2 ^ 14) :
    r.world = worldOf (if sv.getLsbD 0 then 1 else 0) ∧ r.sup = sv.getLsbD 1 ∧ r.space = sv.extractLsb' 2 12 := by
  refine ⟨?_, getLsbD_of_low h (by decide), space_of_low h⟩
  rw [world_eq, getLsbD_of_low h (by decide)]

section
variable (c : Ctx)

/-- The return clears a valid bit, and sets status, tw, vwc and pc. -/
theorem ordinaryReturn_eq : ordinaryReturn c = { c with r := { c.r with
    xvalidS := (ordinaryReturn c).r.xvalidS, xvalidJ := (ordinaryReturn c).r.xvalidJ,
    ctxStat := restoreStat c.r.ctxStat (c.r.xstat c.r.world) ((c.r.xstat c.r.world).getLsbD 20),
    tw := (c.r.xstat c.r.world).getLsbD 14, vwc := applyWfix c.r.vwc (bitsN (c.r.xstat c.r.world) 21 2), pc := c.r.xpc c.r.world } } :=
  congrArg (fun r => { c with r := r }) (setXvalid_eq _ _ _)

theorem ordinaryReturn_xvalid : (ordinaryReturn c).r.xvalid c.r.world = false ∧
    (ordinaryReturn c).r.xvalid c.r.world.other = c.r.xvalid c.r.world.other :=
  ⟨xvalid_setXvalid_same _ _ _, (xvalid_setXvalid_other _ _ _).trans (savedRegs_congr ⟨rfl, rfl, rfl⟩ ⟨rfl, rfl, rfl⟩ _).2.2⟩

theorem gateReturn_eq : gateReturn c = { c with r := { c.r with
    xvalidS := (gateReturn c).r.xvalidS, xvalidJ := (gateReturn c).r.xvalidJ,
    ctxStat := putN (putN (restoreStat c.r.ctxStat (c.r.xstat c.r.world.other) false) 14 1 0) 19 5 0,
    tw := (c.r.xstat c.r.world.other).getLsbD 14, pc := c.r.xpc c.r.world.other } } :=
  congrArg (fun r => { c with r := r }) (setXvalid_eq _ _ _)

theorem gateReturn_xvalid : (gateReturn c).r.xvalid c.r.world.other = false ∧
    (gateReturn c).r.xvalid c.r.world = c.r.xvalid c.r.world :=
  ⟨xvalid_setXvalid_same _ _ _, (xvalid_setXvalid_otherSet _ _ _).trans (savedRegs_congr ⟨rfl, rfl, rfl⟩ ⟨rfl, rfl, rfl⟩ _).2.2⟩
end

/-- A return keeps the gate and takes wsup as given. -/
theorem restoredStat_fields {r d : Rec} {sv : BitVec 32} {wsup : Bool} (h : d.ctxStat = restoreStat r.ctxStat sv wsup) :
    d.wsup = wsup ∧ d.gateOpen = r.gateOpen ∧ d.token = r.token := by
  have hn : d.ctxStat.toNat = _ := h ▸ restoreStat_toNat r.ctxStat sv wsup
  have hw := b2n_le_one wsup
  refine ⟨getLsbD_of_bit ?_, getLsbD_of_bit ?_, field_of_toNat ?_⟩
  · omega
  · rw [Rec.gateOpen, ← bit_toNat]; omega
  · rw [Rec.token, field_toNat]; omega

/-- A gate return leaves no gate open and no watch suppressed. -/
theorem gateReturned_fields {r d : Rec} {sv : BitVec 32} (h : d.ctxStat = putN (putN (restoreStat r.ctxStat sv false) 14 1 0) 19 5 0) :
    d.wsup = false ∧ d.gateOpen = false ∧ d.gate = 0 := by
  have hn : d.ctxStat.toNat = _ := h ▸ gateReturnStat_toNat r.ctxStat sv
  refine ⟨getLsbD_of_bit ?_, getLsbD_of_bit ?_, field_of_toNat ?_⟩
  · rw [b2n]; simp only [Bool.false_eq_true, if_false]; omega
  · rw [b2n]; simp only [Bool.false_eq_true, if_false]; omega
  · simp only [BitVec.ofNat_eq_ofNat, BitVec.toNat_ofNat]; omega

/-- What an ordinary return leaves of the context (R176, R93). -/
theorem ordinaryReturn_fields (c : Ctx) (hw : worldOf (if (c.r.xstat c.r.world).getLsbD 0 then 1 else 0) = c.r.world) :
    let d := ordinaryReturn c
    let sv := c.r.xstat c.r.world
    d.r.pc = c.r.xpc c.r.world ∧ d.r.tw = sv.getLsbD 14 ∧ d.r.world = c.r.world ∧ d.r.sup = sv.getLsbD 1 ∧
    d.r.space = sv.extractLsb' 2 12 ∧ d.r.wsup = sv.getLsbD 20 ∧ d.r.xvalid c.r.world = false ∧
    d.r.vwc = applyWfix c.r.vwc (bitsN sv 21 2) ∧ d.r.wp = c.r.wp ∧ d.ring = c.ring ∧ d.g = c.g ∧ d.trap = c.trap ∧
    d.r.xvalid c.r.world.other = c.r.xvalid c.r.world.other ∧ d.r.gateOpen = c.r.gateOpen ∧ d.r.token = c.r.token ∧ d.dir = c.dir := by
  intro d sv
  have hd : d = _ := ordinaryReturn_eq c
  have hstat : d.r.ctxStat = restoreStat c.r.ctxStat sv (sv.getLsbD 20) := congrArg (·.r.ctxStat) hd
  obtain ⟨hworld, hsup, hspace⟩ := status_of_low (hstat ▸ restoreStat_low c.r.ctxStat sv (sv.getLsbD 20))
  obtain ⟨hwsup, hopen, htoken⟩ := restoredStat_fields hstat
  obtain ⟨hclear, hkeep⟩ := ordinaryReturn_xvalid c
  refine ⟨?_, ?_, hworld.trans hw, hsup, hspace, hwsup, hclear, ?_, ?_, ?_, ?_, ?_, hkeep, hopen, htoken, ?_⟩
  all_goals rw [hd]

/-- What a gate return leaves of the context (R176). -/
theorem gateReturn_fields (c : Ctx) (hw : worldOf (if (c.r.xstat c.r.world.other).getLsbD 0 then 1 else 0) = c.r.world.other)
    (hx : c.r.xvalid c.r.world = false) :
    let d := gateReturn c
    let st := c.r.xstat c.r.world.other
    d.r.pc = c.r.xpc c.r.world.other ∧ d.r.world = c.r.world.other ∧ d.r.sup = st.getLsbD 1 ∧ d.r.tw = st.getLsbD 14 ∧
    d.r.space = st.extractLsb' 2 12 ∧ d.r.wsup = false ∧ d.r.gateOpen = false ∧ d.r.gate = 0 ∧
    d.r.xvalid c.r.world.other = false ∧ d.r.xvalid c.r.world = false ∧
    d.r.wp = c.r.wp ∧ d.r.vwc = c.r.vwc ∧ d.ring = c.ring ∧ d.g = c.g ∧ d.trap = c.trap ∧ d.dir = c.dir := by
  intro d st
  have hd : d = _ := gateReturn_eq c
  have hstat : d.r.ctxStat = putN (putN (restoreStat c.r.ctxStat st false) 14 1 0) 19 5 0 := congrArg (·.r.ctxStat) hd
  obtain ⟨hworld, hsup, hspace⟩ := status_of_low (sv := st) (hstat ▸ gateReturnStat_low c.r.ctxStat st)
  obtain ⟨hwsup, hopen, hgate⟩ := gateReturned_fields hstat
  obtain ⟨hclear, hkeep⟩ := gateReturn_xvalid c
  refine ⟨?_, hworld.trans hw, hsup, ?_, hspace, hwsup, hopen, hgate, hclear, hkeep.trans hx, ?_, ?_, ?_, ?_, ?_, ?_⟩
  all_goals rw [hd]

/-! ### What the bodies do with the state -/

section
variable {s : State} {n : BitVec 16} {k : BitVec 8} {d : Ctx} {sub : Nat}

/-- A context whose instruction is counted as complete takes what the instruction made of it; the rest is as it was. -/
theorem committed_ctx (s : State) (n : BitVec 16) (d : Ctx) : let t := ((commitX s (.ctx n)).setCtx n.toNat d).tick
    t.ctx n.toNat = d ∧ (∀ m, m ≠ n.toNat → t.ctx m = s.ctx m) ∧ t.mem = s.mem := by
  refine ⟨State.ctx_setCtx_same _ _ _, fun m hm => ?_, (around_commitX s (.ctx n)).mem⟩
  rw [State.ctx_tick, State.ctx_setCtx_ne _ _ hm, ctx_commitX_ne _ _ _ hm]

theorem retxBody_ok (hs : xsup s (.ctx n) = true) (hd : retx (s.ctx n.toNat) = .ok d) :
    retxBody (env (.ctx n) .retx) s = (.ok .done, (commitX s (.ctx n)).setCtx n.toNat { d with repeated := none }) := by
  rw [retxBody, get_bind, chkM_bind_ok (needSup_ok hs)]
  simp only [env_x, hd]
  rfl

theorem retxBody_error (hs : xsup s (.ctx n) = true) (hd : retx (s.ctx n.toNat) = .error sub) :
    retxBody (env (.ctx n) .retx) s = (.error (.exn ⟨0x18, xpc s (.ctx n), BitVec.ofNat 64 sub, none, 0⟩), s) := by
  rw [retxBody, get_bind, chkM_bind_ok (needSup_ok hs)]
  simp only [env_x, hd]
  rfl

/-- RETX that returns: the context is as the return says, without the mark of a long instruction. -/
theorem retx_returns (h : Ready s (.ctx n) .retx) (hs : (s.ctx n.toNat).r.sup = true) (hd : retx (s.ctx n.toNat) = .ok d) :
    ∃ t, Gives (.retx (.ctx n)) s t ∧ t.ctx n.toNat = { d with repeated := none } ∧ (∀ m, m ≠ n.toNat → t.ctx m = s.ctx m) ∧ t.mem = s.mem :=
  ⟨_, congrArg Host.Outcome.next (issue_done h (retxBody_ok hs hd)), committed_ctx s n _⟩

theorem retx_fails (h : Ready s (.ctx n) .retx) (hs : (s.ctx n.toNat).r.sup = true) (hsub : sub < 2 ^ 64)
    (hd : retx (s.ctx n.toNat) = .error sub) : Gives (.retx (.ctx n)) s (illegalReturn (setRepeated s (.ctx n) none) n.toNat sub).tick := by
  rw [← raiseX_illegalReturn s n (xpc s (.ctx n)) hsub]
  exact raises_gives h rfl (retxBody_error hs hd)

theorem retxBody_fic (s : State) (k : BitVec 8) : retxBody (env (.fic k) .retx) s = (.ok .done, (commitX s (.fic k)).modFic k.toNat ficReturn) := by
  rw [retxBody, get_bind, chkM_bind_ok (needSup_ok rfl)]
  rfl

theorem retx_fic (h : Ready s (.fic k) .retx) :
    ∃ t, Gives (.retx (.fic k)) s t ∧ t.fic k.toNat = ficReturn ((commitX s (.fic k)).fic k.toNat) :=
  ⟨_, congrArg Host.Outcome.next (issue_done h (retxBody_fic s k)), fic_modFic_same _ _ _⟩
end

/-! ### WCALL (R173) -/

/-- The gate entry's status: its fields do not overlap. -/
theorem gateStat_toNat {world space token gate : Nat} (hw : world < 2) (hsp : space < 2 ^ 12) (ht : token < 2 ^ 4) (hg : gate < 2 ^ 5) :
    (BitVec.ofNat 32 (world + 2 + 4 * space + 2 ^ 14 + 2 ^ 15 * token + 2 ^ 19 * gate)).toNat =
      world + 2 + 4 * space + 2 ^ 14 + 2 ^ 15 * token + 2 ^ 19 * gate := by
  rw [BitVec.toNat_ofNat]
  omega

theorem worldOf_num (w : World) : worldOf w.num = w := by cases w <;> rfl
theorem num_lt (w : World) : w.num < 2 := by cases w <;> decide

section
variable (s : State) (r : Rec) (n : Nat)

/-- A gate entry writes the saved registers of a world, what describes the crossing, tw, pc and the status. -/
theorem enterGate_eq : enterGate s r n = { r with
    xpcS := (enterGate s r n).xpcS, xstatS := (enterGate s r n).xstatS, xvalidS := (enterGate s r n).xvalidS,
    xpcJ := (enterGate s r n).xpcJ, xstatJ := (enterGate s r n).xstatJ, xvalidJ := (enterGate s r n).xvalidJ,
    ctxStat := BitVec.ofNat 32 (r.world.other.num + 2 + 4 * ((gateOf s r.world.other n).2 % 2 ^ 12) + 2 ^ 14 +
      2 ^ 15 * ((r.token.toNat + 1) % 16) + 2 ^ 19 * n),
    xcause := 0x17, xaddr := 0, xinfo := BitVec.ofNat 64 (gateInfo 0 n r.world r.sup), tw := true,
    pc := BitVec.ofNat 59 (gateOf s r.world.other n).1 } :=
  congrArg (fun f : Rec => { f with
      ctxStat := BitVec.ofNat 32 (r.world.other.num + 2 + 4 * ((gateOf s r.world.other n).2 % 2 ^ 12) + 2 ^ 14 +
        2 ^ 15 * ((r.token.toNat + 1) % 16) + 2 ^ 19 * n),
      xcause := 0x17, xaddr := 0, xinfo := BitVec.ofNat 64 (gateInfo 0 n r.world r.sup), tw := true,
      pc := BitVec.ofNat 59 (gateOf s r.world.other n).1 })
    (saveFrame_eq r r.world (r.pc + 4) (savedStat r true ((r.token.toNat + 1) % 16) 0))

theorem enterGate_frame (w : World) : let f := saveFrame r r.world (r.pc + 4) (savedStat r true ((r.token.toNat + 1) % 16) 0)
    (enterGate s r n).xpc w = f.xpc w ∧ (enterGate s r n).xstat w = f.xstat w ∧ (enterGate s r n).xvalid w = f.xvalid w :=
  savedRegs_congr ⟨rfl, rfl, rfl⟩ ⟨rfl, rfl, rfl⟩ w

theorem enterGate_saved : (enterGate s r n).xpc r.world = r.pc + 4 ∧
    (enterGate s r n).xstat r.world = savedStat r true ((r.token.toNat + 1) % 16) 0 ∧ (enterGate s r n).xvalid r.world = true := by
  obtain ⟨hpc, hstat, hvalid⟩ := enterGate_frame s r n r.world
  rw [hpc, hstat, hvalid]
  exact saveFrame_same _ _ _ _

theorem enterGate_xvalid_other : (enterGate s r n).xvalid r.world.other = r.xvalid r.world.other :=
  (enterGate_frame s r n r.world.other).2.2.trans (saveFrame_other _ _ _ _).2.2
end

/-- The status behind a gate: the other world at Supervisor level in the gate's space, the gate open with its number and token. -/
theorem enterGate_status (s : State) (r : Rec) {n : Nat} (hn : n < 32) :
    (enterGate s r n).world = r.world.other ∧ (enterGate s r n).sup = true ∧
    (enterGate s r n).space = BitVec.ofNat 12 ((gateOf s r.world.other n).2 % 2 ^ 12) ∧
    (enterGate s r n).gateOpen = true ∧ (enterGate s r n).token = r.token + 1 ∧ (enterGate s r n).gate.toNat = n := by
  have hstat : (enterGate s r n).ctxStat.toNat = _ := (congrArg (·.ctxStat.toNat) (enterGate_eq s r n)).trans
    (gateStat_toNat (num_lt r.world.other) (Nat.mod_lt _ (by decide)) (Nat.mod_lt _ (by decide)) hn)
  have hw := num_lt r.world.other
  refine ⟨?_, getLsbD_of_bit ?_, field_of_toNat ?_, getLsbD_of_bit ?_, field_of_toNat ?_, ?_⟩
  · rw [world_eq, ← b2n_eq, ← bit_toNat, ← worldOf_num r.world.other]
    congr 1
    omega
  · rw [b2n, if_pos rfl]; omega
  · rw [BitVec.toNat_ofNat]; omega
  · rw [b2n, if_pos rfl]; omega
  · rw [BitVec.toNat_add]
    simp only [BitVec.ofNat_eq_ofNat, BitVec.toNat_ofNat]
    omega
  · rw [Rec.gate, field_toNat]; omega

/-- The status that a gate entry saves: the caller's, with gframe and the token. -/
theorem gateSaved_fields (r : Rec) {token : Nat} (ht : token < 16) : let f := savedStat r true token 0
    worldOf (if f.getLsbD 0 then 1 else 0) = r.world ∧ f.getLsbD 1 = r.sup ∧ f.extractLsb' 2 12 = r.space ∧ f.getLsbD 14 = r.tw ∧
      f.getLsbD 15 = true ∧ bitsN f 16 4 = token ∧ bitsN f 20 12 = 0 := by
  have hn := savedStat_toNat r true ht (show 0 < 4 by decide)
  have htw := b2n_le_one r.tw
  rw [show b2n true = 1 from rfl] at hn
  have hlow : r.ctxStat.toNat % 2 ^ 14 = (savedStat r true token 0).toNat % 2 ^ 14 := by omega
  obtain ⟨hworld, hsup, hspace⟩ := status_of_low hlow
  refine ⟨hworld.symm, hsup.symm, hspace.symm, getLsbD_of_bit ?_, getLsbD_of_bit ?_, ?_, ?_⟩
  · omega
  · rw [b2n, if_pos rfl]; omega
  · rw [bitsN]; omega
  · rw [bitsN]; omega

theorem gateRefusal_none {s : State} {r : Rec} {v : BitVec 64} (hv : v.toNat < 32) (hopen : gateIsOpen (gateOf s r.world.other v.toNat) = true)
    (hlevel : r.sup = true ∨ (gateOf s r.world.other v.toNat).2 / 2 ^ 13 % 2 = 1) (hg : r.gateOpen = false) (hx : r.xvalid r.world = false) :
    gateRefusal s r v = none := by
  have huser : ¬ (r.sup = false ∧ (gateOf s r.world.other v.toNat).2 / 2 ^ 13 % 2 = 0) := by
    rintro ⟨hsup, hctl⟩
    rcases hlevel with h | h
    · exact absurd h (by simp [hsup])
    · omega
  rw [gateRefusal, if_neg (Nat.not_le.mpr hv), if_neg (by simp [hopen]), if_neg huser, if_neg (by simp [hg]), if_neg (by simp [hx])]

/-- Gates are in the dictionary, which counting does not touch. -/
theorem enterGate_commitX (s : State) (x : Exec) (r : Rec) (n : Nat) : enterGate (commitX s x) r n = enterGate s r n := by
  have hmg : (commitX s x).mg = s.mg := (congrArg State.mg (around_commitX s x).1).trans rfl
  have hgate : gateOf (commitX s x) r.world.other n = gateOf s r.world.other n := by
    simp only [gateOf, dval, hmg]
  rw [enterGate, enterGate, hgate]

theorem wcallBody_enters {s : State} {n : BitVec 16} {rs : BitVec 5} (ha : IsFix (xreg s (.ctx n) rs))
    (hr : gateRefusal s (s.ctx n.toNat).r (xreg s (.ctx n) rs).payload = none) :
    wcallBody rs (env (.ctx n) (.wcall rs)) s = (.ok .done, (commitX s (.ctx n)).setCtx n.toNat
      { doneCtx (s.ctx n.toNat) (s.ctx n.toNat).r.pc with r := enterGate s (s.ctx n.toNat).r (xreg s (.ctx n) rs).payload.toNat }) := by
  have hchk : chk (env (.ctx n) (.wcall rs)) 0 (xreg s (env (.ctx n) (.wcall rs)).x rs)
      ((xreg s (env (.ctx n) (.wcall rs)).x rs).tag == 0x001) = .ok () := chk_fix ha
  rw [wcallBody, get_bind, chkM_bind_ok hchk]
  simp only [env_x, hr]
  rw [← enterGate_commitX s (.ctx n), ← ctx_commitX_same]
  rfl

/-- WCALL that enters: the context is completed, with the record of the gate entry. -/
theorem wcall_enters {s : State} {n : BitVec 16} {rs : BitVec 5} (h : Ready s (.ctx n) (.wcall rs)) (ha : IsFix (xreg s (.ctx n) rs))
    (hr : gateRefusal s (s.ctx n.toNat).r (xreg s (.ctx n) rs).payload = none) :
    ∃ t, Gives (.wcall (.ctx n) rs) s t ∧ t.ctx n.toNat =
        { doneCtx (s.ctx n.toNat) (s.ctx n.toNat).r.pc with r := enterGate s (s.ctx n.toNat).r (xreg s (.ctx n) rs).payload.toNat } ∧
      (∀ m, m ≠ n.toNat → t.ctx m = s.ctx m) ∧ t.mem = s.mem :=
  ⟨_, congrArg Host.Outcome.next (issue_done h (wcallBody_enters ha hr)), committed_ctx s n _⟩

/-- The gate's number in ctx_stat is the low bits of the operand. -/
theorem gate_of_number {gate : BitVec 5} {v : BitVec 64} (hv : v.toNat < 32) (h : gate.toNat = v.toNat) : gate = v.extractLsb' 0 5 := by
  apply BitVec.eq_of_toNat_eq
  rw [BitVec.extractLsb'_toNat, Nat.shiftRight_zero, h, Nat.mod_eq_of_lt hv]

end Sys2Proof.Claims

open Sys2Proof Sys2Proof.Machine Sys2Proof.Claims

/-- Settles O30: both instructions only raise, and their causes enter as R166 says. -/
theorem syscallAndBreakpoint : Obligations.SyscallAndBreakpoint := by
  intro s n k
  have hsyscall : Ready s (.ctx n) .syscall →
      Gives (.syscall (.ctx n)) s (enter (setRepeated s (.ctx n) none) n.toNat ⟨0x16, 0, 0, none, 0⟩).tick := fun h => by
    rw [← raiseX_enters s n 0 0 (by decide)]
    exact syscall_raises h
  refine ⟨hsyscall, fun h hx => ?_, fun h => ?_, fun h => ?_⟩
  · have hlock := enter_undelivered (s := setRepeated s (.ctx n) none) (n := n.toNat) (e := ⟨0x16, 0, 0, none, 0⟩)
      (Or.inr (by rw [setRepeated, State.ctx_modCtx_same]; exact hx))
    exact hlock ▸ hsyscall h
  · rw [← raiseX_enters s n _ _ (by decide)]
    exact brk_raises h
  · have hfic := raiseX_fic s k (e := ⟨0x16, 0, 0, none, 0⟩) (by decide)
    exact hfic ▸ syscall_raises h

/-- Settles O31: RETX does what `retx` answers, WCALL of a gate that refuses nothing enters it, and in both the executing context
alone changes. -/
theorem returnsAndGates : Obligations.ReturnsAndGates := by
  intro s n k rs x c w sv g
  refine ⟨fun h hs hx hw hf => ?_, fun h hs hx hg => ?_, fun h hs hx hbad => ?_, fun h hs hx hg hxo => ⟨fun hbad => ?_, fun hok htoken => ?_⟩,
    fun h hs hx hg hxo howner hw hf htoken => ?_, fun h ha hnum hopen hlevel hg hx => ?_, fun h => ?_⟩
  · obtain ⟨t, hgives, hself, hother, hmem⟩ := retx_returns h hs (retx_ordinary hx hw hf)
    refine ⟨t, hgives, ?_, hother, hmem⟩
    rw [hself]
    exact ordinaryReturn_fields c hw
  · exact retx_fails h hs (by decide) (retx_nothing hx hg)
  · exact retx_fails h hs (by decide) (retx_foreign hx hbad)
  · exact retx_fails h hs (by decide) (retx_gate_foreign hx ⟨hg, hxo⟩ hbad)
  · exact retx_fails h hs (by decide) (retx_gate_token hx ⟨hg, hxo⟩ hok htoken)
  · have hok : ¬ (worldOf (b2n ((c.r.xstat w.other).getLsbD 0)) ≠ w.other ∨ w.other ≠ c.dir.owner ∨
        (c.r.xstat w.other).getLsbD 15 = false) :=
      not_or.mpr ⟨not_not.mpr hw, not_or.mpr ⟨not_not.mpr howner, Bool.not_eq_false _ ▸ hf⟩⟩
    obtain ⟨t, hgives, hself, hother, hmem⟩ := retx_returns h hs (retx_gate hx ⟨hg, hxo⟩ hok htoken)
    refine ⟨t, hgives, ?_, hother, hmem⟩
    rw [hself]
    exact gateReturn_fields c hw hx
  · obtain ⟨t, hgives, hself, hother, hmem⟩ := wcall_enters h ha (gateRefusal_none hnum hopen hlevel hg hx)
    have hr := enterGate_eq s c.r (xreg s x rs).payload.toNat
    obtain ⟨hxpc, hxstat, hvalid⟩ := enterGate_saved s c.r (xreg s x rs).payload.toNat
    obtain ⟨hworld, hsup, hspace, hgopen, htoken, hgate⟩ := enterGate_status s c.r hnum
    have hframe := gateSaved_fields c.r (Nat.mod_lt (c.r.token.toNat + 1) (show 0 < 16 by decide))
    rw [← hxstat] at hframe
    refine ⟨t, hgives, ?_, hother, hmem⟩
    rw [hself]
    exact ⟨congrArg Rec.pc hr, hxpc, hvalid, enterGate_xvalid_other _ _ _, hframe, hworld, hsup, hspace, hgopen, htoken, gate_of_number hnum hgate,
      congrArg Rec.xcause hr, congrArg Rec.xaddr hr, congrArg Rec.xinfo hr, congrArg Rec.tw hr, rfl, rfl, rfl, rfl⟩
  · obtain ⟨t, hgives, hself⟩ := retx_fic h
    refine ⟨t, hgives, ?_⟩
    rw [xpc, hself, fic_commitX_same]
    split_ifs with hnmi
    · exact ⟨congrArg Fic.mode (if_pos hnmi), congrArg Fic.pc (if_pos hnmi)⟩
    · exact congrArg Fic.mode (if_neg hnmi)
end

section
/-! PROOFS. TLB maintenance: what a TLBI begins with, removes at an agent and leaves when it completes; SETPKR; a walk that goes on. -/

namespace Sys2Proof.Claims

open Sys2Proof.Machine

/-! ### The bodies of the instructions -/

section
variable {s : State} {x : Exec} {rs : BitVec 5}

/-- At Supervisor level TLBI.VA of a pointer or RAW word answers by the kind of its address (R220). -/
theorem tlbiVaBody_eq (hs : xsup s x = true) (hw : Whole (xreg s x rs)) (hk : isPtr (xreg s x rs) = true ∨ (xreg s x rs).tag = 0x006) :
    tlbiVaBody rs (env x (.tlbiVa rs)) s = (.ok .next,
      if isGlobal (vaOf (xreg s x rs)) = true then
        if homeDev (vaOf (xreg s x rs)) = devNo s then tlbiBegin s x (.globalVa (bitsN (vaOf (xreg s x rs)) 12 47)) else s
      else tlbiBegin s x (.va (bitsN (vaOf (xreg s x rs)) 12 47))) := by
  have hok : (isPtr (xreg s x rs) || (xreg s x rs).tag == 0x006) = true := by simpa using hk
  have hchk : chk (env x (.tlbiVa rs)) 0 (xreg s x rs) (isPtr (xreg s x rs) || (xreg s x rs).tag == 0x006) = .ok () := chk_pass hw hok
  rw [tlbiVaBody, get_bind, chkM_bind_ok (needSup_ok hs), env_x, chkM_bind_ok hchk]
  by_cases hg : isGlobal (vaOf (xreg s x rs)) = true
  · by_cases hd : homeDev (vaOf (xreg s x rs)) = devNo s
    · rw [if_pos hg, if_pos hg, if_pos hd, if_pos hd]
      rfl
    · rw [if_pos hg, if_pos hg, if_neg hd, if_neg hd]
      rfl
  · rw [if_neg hg, if_neg hg]
    rfl

theorem tlbiSpBody_ok (hs : xsup s x = true) (ha : IsFix (xreg s x rs)) :
    tlbiSpBody rs (env x (.tlbiSp rs)) s = (.ok .next, tlbiBegin s x (.sp ((xreg s x rs).payload.extractLsb' 0 12))) := by
  have hchk : chk (env x (.tlbiSp rs)) 0 (xreg s x rs) ((xreg s x rs).tag == 0x001) = .ok () := chk_fix ha
  rw [tlbiSpBody, get_bind, chkM_bind_ok (needSup_ok hs), env_x, chkM_bind_ok hchk]
  rfl

theorem tlbiWBody_ok (hs : xsup s x = true) : tlbiWBody (env x .tlbiW) s = (.ok .next, tlbiBegin s x .w) := by
  rw [tlbiWBody, get_bind, chkM_bind_ok (needSup_ok hs)]
  rfl

/-- At Supervisor level SETPKR writes every field of pkr (R210). -/
theorem setpkrBody_sup {n : BitVec 16} (hs : xsup s (.ctx n) = true) (ha : IsInt (xreg s (.ctx n) rs)) :
    setpkrBody rs (env (.ctx n) (.setpkr rs)) s =
      (.ok .next, s.modCtx n.toNat fun c => { c with r := { c.r with pkr := (xreg s (.ctx n) rs).payload } }) := by
  have hchk : chk (env (.ctx n) (.setpkr rs)) 0 (xreg s (.ctx n) rs) (isInt (xreg s (.ctx n) rs)) = .ok () := chk_int ha
  have hpass : ¬ (xsup s (.ctx n) = false ∧
      (xreg s (.ctx n) rs).payload.toNat / 2 ^ 32 ≠ (s.ctx n.toNat).r.pkr.toNat / 2 ^ 32) := by simp [hs]
  rw [setpkrBody, get_bind, env_x, chkM_bind_ok hchk]
  exact congrFun (if_neg hpass) s
end

/-! ### Taking effect at an agent -/

/-- The INVs that tell other devices of removed pages leave the TLBs of this one (R307). -/
theorem tellInv_tlbs (t : Tlbi) (l : List (Nat × BitVec 16)) (k : Nat) (s : State) : (tellInv s t l k).1.tlbs = s.tlbs := by
  induction l generalizing s k with
  | nil => rfl
  | cons p r ih => exact ih (k + 1) (sendMsg s _)

/-- Of the TLBs a TLBI that takes effect at an agent changes what `dropEntries` does (R221). -/
theorem tlbiEffect_tlbs {s : State} {id agent : Nat} {u : Tlbi} (hu : (s.tlbis.find? fun v => v.id == id) = some u)
    (hvis : storesVisible s u.by_ = true) (hdone : u.done.contains agent = false) (hagent : agent ≤ homeTlb) :
    (tlbiEffect s id agent).tlbs = (dropEntries s u agent).tlbs := by
  have hgo : ¬ ((!storesVisible s u.by_) = true ∨ u.done.contains agent = true ∨ homeTlb < agent) := by
    rw [hvis, hdone]
    rintro (h | h | h)
    · exact absurd h (by decide)
    · exact absurd h (by decide)
    · exact Nat.not_lt.mpr hagent h
  simp only [tlbiEffect, hu]
  rw [if_neg hgo]
  have hwake : (if agent < 256 then wakePends (dropEntries s u agent) agent forgetWalk else dropEntries s u agent).tlbs =
      (dropEntries s u agent).tlbs := by
    split
    · rfl
    · rfl
  split
  · exact (tellInv_tlbs _ _ _ _).trans hwake
  · exact hwake

/-! ### Completion -/

section
variable (s : State) (n : Nat)

@[simp] theorem wakeTile_tlbis : (wakeTile s n).tlbis = s.tlbis := (congrArg State.tlbis (around_wakeTile s n).1).trans rfl
@[simp] theorem commitX_tlbis (x : Exec) : (commitX s x).tlbis = s.tlbis := (congrArg State.tlbis (around_commitX s x).1).trans rfl
@[simp] theorem makeReady_tlbis : (makeReady s n).tlbis = s.tlbis := by simp [makeReady]

@[simp] theorem endWait_tlbis : (endWait s n).tlbis = s.tlbis := by
  unfold endWait
  extract_lets c dir t
  have ht : t.tlbis = s.tlbis := rfl
  split
  · rw [makeReady_tlbis, ht]
  · rw [makeReady_tlbis, ht]
  · exact ht
  · exact ht
  · exact ht

/-- The end of a SYNC.T keeps the list of TLBIs (R222). -/
theorem waitOver_tlbis : (waitOver s n).tlbis = s.tlbis := by simp [waitOver, setXpc, setPend]
end

/-- Dropping entries of some agents keeps the list of TLBIs. -/
theorem foldl_dropEntries_tlbis (t : Tlbi) (l : List Nat) (s : State) :
    (l.foldl (fun s k => if (tgetD s.tlbs k []).isEmpty then s else dropEntries s t k) s).tlbis = s.tlbis :=
  keep_foldl (P := fun v => v.tlbis = s.tlbis) (fun v k h => by split; exacts [h, h]) l rfl

/-- A TLBI that took effect everywhere, with nothing outstanding, leaves the list (R222). -/
theorem tlbiDone_tlbis {s : State} {id : Nat} {u : Tlbi} (hu : (s.tlbis.find? fun v => v.id == id) = some u)
    (hvis : storesVisible s u.by_ = true) (hacks : u.acks = []) (hacc : accessesDone s = true)
    (hall : (List.range (homeTlb + 1)).all (tookEffect s u) = true) :
    (tlbiDone s id).tlbis = s.tlbis.filter fun v => v.id != id := by
  have hgo : ¬ (!(storesVisible s u.by_ && (u.acks.isEmpty && (accessesDone s && (List.range (homeTlb + 1)).all (tookEffect s u))))) = true := by
    simp [hvis, hacks, hacc, hall]
  unfold tlbiDone
  simp -zeta only [hu]
  rw [if_neg hgo]
  extract_lets tracked v remote w
  have hv : v.tlbis = s.tlbis := foldl_dropEntries_tlbis u _ s
  clear_value v
  have hw : w.tlbis = s.tlbis.filter fun t => t.id != id := by rw [← hv]
  clear_value w
  split
  · exact hw
  · extract_lets waits
    split
    · rw [waitOver_tlbis, hw]
    · exact hw

/-! ### A walk goes on -/

/-- What went on to its end in its slot is at its next instruction, and no substitution takes it out. -/
theorem substOut_completeOk_of_goesOn {s u : State} {x : Exec} {p : Pend} (h : GoesOn s x p u) (hin : inSlot u x = true) :
    substOut (completeOk u x p .next) x = setXpc (commitX u x) x (xpc u x + 4) := by
  obtain ⟨-, -, -, -, -, hsub⟩ := h
  rw [completeOk, if_pos (.inl hin)]
  cases x with
  | ctx m => exact substOut_of_not (by simpa [setXpc, retire] using (show (u.core (coreOf m.toNat)).subst = false from hsub))
  | fic k => rfl

theorem walkComplete_of_goesOn {s u : State} {x : Exec} {p : Pend} (hp : pendOf s x = some p) (hw : p.why = .walk) (h : GoesOn s x p u) :
    walkComplete s x = substOut (completeOk u x p .next) x := by
  have hready : p.ready = true := h.1
  simp only [walkComplete, hp]
  rw [if_pos ⟨hw, hready⟩, complete_of_goesOn h]

end Sys2Proof.Claims

open Sys2Proof Sys2Proof.Machine Sys2Proof.Claims

/-- Settles O36: each body enters its TLBI, an agent drops what the TLBI names, a TLBI that is done everywhere leaves the list, and a walk
that goes on runs its instruction to its end. -/
theorem translationMaintenance : Obligations.TranslationMaintenance := by
  intro s x n rs u id agent p a begin_
  refine ⟨fun hs => ⟨fun hr hw hk => ?_, fun hr ha => ?_, fun hr => ?_⟩, fun hr ha hs => ?_, fun hu hvis hdone hagent => ?_,
    fun hu hvis hacks hacc hall => ?_, fun v hp hwhy h hin => ?_⟩
  · have hgives : Gives (.tlbiVa x rs) s _ := congrArg Host.Outcome.next (issue_next hr (tlbiVaBody_eq hs hw hk))
    refine ⟨fun hg => ?_, fun hg hd => ?_, fun hg hd => ?_⟩
    · rw [if_neg (show ¬ isGlobal (vaOf a) = true by rw [hg]; decide)] at hgives
      exact hgives
    · rw [if_pos hg, if_pos hd] at hgives
      exact hgives
    · rw [if_pos hg, if_neg hd] at hgives
      exact hgives
  · exact congrArg Host.Outcome.next (issue_next hr (tlbiSpBody_ok hs ha))
  · exact congrArg Host.Outcome.next (issue_next hr (tlbiWBody_ok hs))
  · exact congrArg Host.Outcome.next (issue_next hr (setpkrBody_sup hs ha))
  · have htlbs := tlbiEffect_tlbs hu hvis hdone hagent
    refine ⟨_, rfl, ?_, fun j hj => ?_⟩
    · rw [State.tick_tlbs, htlbs]
      exact tgetD_tset_same _ _ _ _
    · rw [State.tick_tlbs, htlbs]
      exact tgetD_tset_ne _ _ _ hj
  · exact ⟨_, rfl, tlbiDone_tlbis hu hvis hacks hacc hall⟩
  · exact gives_of_eq rfl ((walkComplete_of_goesOn hp hwhy h).trans (substOut_completeOk_of_goesOn h hin))
end

section
/-! PROOFS. What interrupts, doorbells, the end of waits and the fault log leave alone, as one relation of states; a store to a line
that its core holds. -/

namespace Sys2Proof.Claims

open Sys2Proof.Machine

/-! ### Nothing but schedulers and notices differs -/

/-- The entries of the dictionary that notices and a core's retirement change: the classes seen, records not kept, doorbells discarded, and
the routes of interrupts. -/
def noticeEntries : List Nat := [0x1000, 0x1003, 0x1800, 0x3080]

/-- Nothing differs of memory, messages, pins and mode, of a core but its queues and its fast interrupt context, of a tile but whether it
wakes, of a context its generation and that it is FREE, and of the dictionary but those entries. No transition begins in SERVICE. -/
structure Calm (s t : State) : Prop where
  mem : t.mem = s.mem
  mesh : t.mesh = s.mesh
  pins : t.pins = s.pins
  core : ∀ k, t.core k = { s.core k with readyQ := (t.core k).readyQ, swaps := (t.core k).swaps, fic := (t.core k).fic }
  tile : ∀ j, t.tile j = { s.tile j with waking := (t.tile j).waking }
  gen : ∀ n, (t.ctx n).dir.gen = (s.ctx n).dir.gen
  free : ∀ n, (s.ctx n).dir.state = .free → (t.ctx n).dir.state = .free
  mode : t.mg.mode = s.mg.mode
  trans : s.mg.mode = .service → s.mg.trans = none → t.mg.trans = none
  dict : ∀ k, k / 256 ∉ noticeEntries → tget t.mg.dict k = tget s.mg.dict k

namespace Calm

theorem refl (s : State) : Calm s s := ⟨rfl, rfl, rfl, fun _ => rfl, fun _ => rfl, fun _ => rfl, fun _ => id, rfl, fun _ => id, fun _ _ => rfl⟩

theorem after {s t u : State} (g : Calm t u) (h : Calm s t) : Calm s u where
  mem := g.mem.trans h.mem
  mesh := g.mesh.trans h.mesh
  pins := g.pins.trans h.pins
  core k := by rw [g.core k, h.core k]
  tile j := by rw [g.tile j, h.tile j]
  gen n := (g.gen n).trans (h.gen n)
  free n e := g.free n (h.free n e)
  mode := g.mode.trans h.mode
  trans e f := g.trans (h.mode.trans e) (h.trans e f)
  dict k e := (g.dict k e).trans (h.dict k e)

theorem ite {s t u : State} {p : Prop} [Decidable p] (h : Calm s t) (g : Calm s u) : Calm s (if p then t else u) := by split <;> assumption

theorem foldl {α : Type} {f : State → α → State} {l : List α} (hf : ∀ a ∈ l, ∀ s, Calm s (f s a)) (s : State) : Calm s (l.foldl f s) := by
  induction l generalizing s with
  | nil => exact refl s
  | cons a l ih => exact (ih (fun b hb => hf b (.tail _ hb)) (f s a)).after (hf a (.head _) s)

/-- A change outside contexts, cores, tiles, memory, messages, pins and the management plane. -/
theorem outside {s t : State} (hctxs : t.ctxs = s.ctxs) (hcores : t.cores = s.cores) (htiles : t.tiles = s.tiles) (hmem : t.mem = s.mem)
    (hmesh : t.mesh = s.mesh) (hpins : t.pins = s.pins) (hmg : t.mg = s.mg) : Calm s t where
  mem := hmem
  mesh := hmesh
  pins := hpins
  core k := by rw [State.core_congr hcores]
  tile j := by rw [State.tile_congr htiles]
  gen n := by rw [State.ctx_congr hctxs]
  free n e := by rwa [State.ctx_congr hctxs]
  mode := by rw [hmg]
  trans _ e := by rwa [hmg]
  dict k _ := by rw [hmg]

theorem setCtx {s : State} {n : Nat} {c : Ctx} (hg : c.dir.gen = (s.ctx n).dir.gen) (hf : (s.ctx n).dir.state = .free → c.dir.state = .free) :
    Calm s (s.setCtx n c) := by
  have hctx : ∀ m, (s.setCtx n c).ctx m = if m = n then c else s.ctx m := fun m => tgetD_tset _ _ _ _ _
  refine { refl s with gen := fun m => ?_, free := fun m e => ?_ }
  · rw [hctx]; split
    · next h => rw [hg, h]
    · rfl
  · rw [hctx]; split
    · next h => exact hf (h ▸ e)
    · exact e

theorem setCore {s : State} {k : Nat} {c : Core} (h : ∃ q w x, c = { s.core k with readyQ := q, swaps := w, fic := x }) : Calm s (s.setCore k c) := by
  obtain ⟨q, w, x, rfl⟩ := h
  refine { refl s with core := fun j => ?_ }
  by_cases e : j = k
  · subst e; rw [State.core_setCore_same]
  · rw [State.core_setCore_ne _ _ e]

theorem modCore {s : State} {k : Nat} {f : Core → Core} (hf : ∀ c, ∃ q w x, f c = { c with readyQ := q, swaps := w, fic := x }) :
    Calm s (s.modCore k f) := setCore (hf _)

theorem modCtx {s : State} {n : Nat} {f : Ctx → Ctx} (hg : ∀ c, (f c).dir.gen = c.dir.gen)
    (hf : (s.ctx n).dir.state = .free → (f (s.ctx n)).dir.state = .free) : Calm s (s.modCtx n f) := setCtx (hg _) hf

theorem setDval (s : State) {i j : Nat} (v : Nat) (h : (i * 256 + j) / 256 ∈ noticeEntries) : Calm s (setDval s i j v) :=
  { refl s with dict := fun _ e => tget_tset_ne _ _ fun hk => e (hk ▸ h) }

theorem wakeTile (s : State) (t : Nat) : Calm s (wakeTile s t) := by
  refine ite { refl s with tile := fun j => ?_ } (refl s)
  by_cases e : j = t
  · subst e; rw [State.tile_modTile_same]
  · rw [State.tile_modTile_ne _ _ e]

/-- A transition begins outside SERVICE, or its target waits for the end of another (R443). -/
theorem beginTrans {s : State} (m b : Mode) (h : s.mg.mode = .service → s.mg.trans ≠ none) : Calm s (beginTrans s m b) := by
  unfold Machine.beginTrans
  split
  · next e => exact { refl s with trans := fun hm _ => absurd e (h hm) }
  · exact { refl s with trans := fun _ => id }

theorem wakeDevice (s : State) : Calm s (wakeDevice s) := by
  unfold Machine.wakeDevice
  split
  · split
    · next hd => exact beginTrans _ _ fun hs => by rw [hs] at hd; cases hd
    · exact refl s
  · next t ht => exact ite (beginTrans _ _ fun _ => by rw [ht]; nofun) (refl s)

/-! ### Doorbells and the end of waits -/

theorem makeReady {s : State} {n : Nat} (h : (s.ctx n).dir.state ≠ .free) : Calm s (makeReady s n) := by
  have hfill : ∀ c : Core, ∃ q w x, fillSlot { c with readyQ := c.readyQ ++ [n] } = { c with readyQ := q, swaps := w, fic := x } := fun c =>
    have ⟨_, hl⟩ := fillSlot_eq { c with readyQ := c.readyQ ++ [n] }
    ⟨_, _, _, hl⟩
  exact (wakeTile _ _).after ((modCore hfill).after (modCtx (fun _ => rfl) fun e => absurd e h))

theorem endWait (s : State) (n : Nat) : Calm s (endWait s n) := by
  unfold Machine.endWait
  extract_lets c _ s1
  have h1 : Calm s s1 := setCtx rfl id
  have hc : (s1.ctx n).dir.state = c.dir.state := by rw [State.ctx_setCtx_same]
  split
  · next e => exact (makeReady (by rw [hc, e]; decide)).after h1
  · next e => exact (makeReady (by rw [hc, e]; decide)).after h1
  · exact after (modCtx (fun _ => rfl) id) h1
  · exact after (modCore fun _ => ⟨_, _, _, rfl⟩) h1
  · exact h1

/-- Waits on the words of a line are compared again (R74). -/
theorem recompare (s : State) (line : Nat) : Calm s (recompare s line) := by
  refine foldl (fun e _ t => ?_) s
  split
  · exact ite ((endWait _ _).after (setCtx (by rw [setCtxReg_dir]) (by rw [setCtxReg_dir]; exact id))) (refl t)
  · exact refl t

end Calm

/-! ### A store to a held line -/

section
variable {t : State} {k : Nat} {st : PStore} {h : L1Line}

theorem setCore_setCore (s : State) (k : Nat) (c d : Core) : (s.setCore k c).setCore k d = s.setCore k d := by
  simp [State.setCore]

/-- With no error injected an access finds the data of the line it holds (R52). -/
theorem l1dHit_unarmed (hm : t.mem.armed = []) (k : Nat) (who : Option (World × Bool × Nat)) (line : Nat) (word : Option Nat) :
    l1dHit t k who line word = (.data, t) := by
  simp [l1dHit, hm]

/-- A store to a line held in M or E, with no store of the executor to the word ahead, is performed (R236, R253). -/
theorem kickStore_held (hsent : st.sent = false) (hhome : st.home = false) (hahead : storeAhead (t.core k) st = false)
    (htag : (t.core k).tagErr = []) (hm : t.mem.armed = []) (hl : tget (t.core k).l1d (st.key / 8) = some h) (hst : h.st = .m ∨ h.st = .e) :
    kickStore t k st = doStore t k st := by
  have hnow : (st.sent || (storeAhead (t.core k) st || recovering t k (st.key / 8))) = false := by simp [hsent, hahead, recovering, htag]
  unfold kickStore
  dsimp only
  rw [hnow]
  rcases hst with e | e <;> simp [hhome, hl, e, l1dHit_unarmed hm]

/-- A store performed leaves its line in M, with the word merged in; with nothing appended nothing else of the core changes (R236, R267). -/
theorem core_perfStore (hcard : st.card = none) (hl : tget (t.core k).l1d (st.key / 8) = some h) :
    Calm (t.modCore k fun c => c.setL1 (st.key / 8) { h with st := .m, data := mergeLine h.data st.key st.word st.mask }) (perfStore t k st) := by
  unfold perfStore
  simp only [hl, Core.addCard, hcard]
  exact Calm.recompare _ _

/-- A posted store to a line held in M or E is performed at once (R236). -/
theorem issueStore_held (hb : (t.core k).bypass = false) (htag : (t.core k).tagErr = []) (hm : t.mem.armed = []) (hmt : st.mt = 0)
    (hsent : st.sent = false) (hcard : st.card = none) (hs : (t.core k).stores = []) (hl : tget (t.core k).l1d (st.key / 8) = some h)
    (hst : h.st = .m ∨ h.st = .e) :
    Calm (t.setCore k ({ t.core k with stores := [] }.setL1 (st.key / 8) { h with st := .m, data := mergeLine h.data st.key st.word st.mask }))
      (issueStore t k st) := by
  have hhome : (decide (st.mt ≠ 0) || (t.core k).bypass) = false := by simp [hmt, hb]
  rw [issueStore, hhome]
  set p : PStore := { st with home := false } with hp
  set v := t.modCore k fun c => { c with stores := c.stores ++ [p] } with hv
  have hcore : v.core k = { t.core k with stores := [p] } := by simp [v, hs]
  have hahead : storeAhead (v.core k) p = false := by simp [hcore, storeAhead]
  have hkick : kickStore v k p = doStore v k p :=
    kickStore_held (h := h) hsent rfl hahead (by rw [hcore]; exact htag) hm (by rw [hcore]; exact hl) hst
  have hgo := core_perfStore (t := v.modCore k fun c => { c with stores := c.stores.erase p }) (k := k) (st := p) (h := h) hcard
    (by rw [State.core_modCore_same, hcore]; exact hl)
  have hsame : (v.modCore k fun c => { c with stores := c.stores.erase p }).modCore k
      (fun c => c.setL1 (p.key / 8) { h with st := .m, data := mergeLine h.data p.key p.word p.mask }) =
      t.setCore k ({ t.core k with stores := [] }.setL1 (st.key / 8) { h with st := .m, data := mergeLine h.data st.key st.word st.mask }) := by
    simp [State.modCore, setCore_setCore, v, hs, p]
  rw [hkick, doStore]
  rwa [hsame] at hgo

/-- The words of a line of eight after a store to one of them (R39). -/
theorem lineWord_mergeLine {l : Line} (hl : l.length = 8) (key : Nat) (w : W) (mask : BitVec 8) (j : Nat) :
    lineWord (mergeLine l key w mask) j = if j % 8 = key % 8 then mergeWord (lineWord l key) w mask else lineWord l j := by
  have hk : key % 8 < l.length := by omega
  simp only [mergeLine, lineWord, List.getD_eq_getElem?_getD, List.getElem?_set]
  rcases Decidable.em (j % 8 = key % 8) with h | h
  · simp [h, hk]
  · simp [h, Ne.symm h]
end

end Sys2Proof.Claims

open Sys2Proof Sys2Proof.Machine Sys2Proof.Claims

/-- Settles O21: the store is performed in the line, and the waits that are compared again touch no cache. -/
theorem storeToHeldLine : Obligations.StoreToHeldLine := by
  intro t k st h hb htag hm hmt hsent hcard hs hl hst hlen u
  have hu := issueStore_held hb htag hm hmt hsent hcard hs hl hst
  have hcore := hu.core k
  rw [State.core_setCore_same] at hcore
  have hl1d : (u.core k).l1d = tset (t.core k).l1d (st.key / 8) { h with st := .m, data := mergeLine h.data st.key st.word st.mask } := by
    rw [hcore]; rfl
  refine ⟨⟨_, by rw [hl1d, tget_tset_same], rfl, lineWord_mergeLine hlen _ _ _⟩, fun line hne => by rw [hl1d, tget_tset_ne _ _ hne],
    fun j hj => ?_, by rw [hcore]; rfl, hu.mem, hu.mesh, fun j => by rw [hu.tile j]; rfl, fun hall => by simp [mergeWord, hall]⟩
  rw [hu.core j, State.core_setCore_ne _ _ hj]
end

section
/-! PROOFS. Lines, entries and copies that a table lists twice: `tdel` takes the first listing out alone, so the second is found
afterwards. No statement of these three asks that a table lists a key once. -/

namespace Sys2Proof.Claims

open Sys2Proof.Machine

/-- Line 0 is in the L2 slice of its home, tile 0, whose snoop filter lists the line twice: as held by nobody, and as shared by core 1. -/
def entryTwice : State :=
  State.reset.setTile 0 { l2 := [(0, { data := List.replicate 8 nilW })], sf := [(0, {}), (0, { st := .sh, sharers := [1] })] }

/-- The entry that a whole-line write leaves empty goes, and core 1 is named. -/
theorem entryTwice_written {t : State} (h : Gives (.wrf 0 (List.replicate 8 nilW) none) entryTwice t) : (entryOf t 0).st = .sh := by
  cases h; rfl

/-- Core 3 lists line 0 twice in its L1D, and an SNI of the line from the home reaches it. -/
def heldTwice : State :=
  { State.reset.setCore 3 { l1d := [(0, { st := .s }), (0, { st := .s })] } with mesh := [{ kind := .sni, src := 256, dst := 3, line := 0 }] }

/-- The L1D still holds the line after the SNI. -/
theorem heldTwice_holds {t : State} (h : Gives (.sni 3 0) heldTwice t) : tget (t.core 3).l1d 0 = some { st := .s } := by
  cases h; rfl

/-- The home of line 0, tile 0, awaits the answer of core 0 to a stash of the line, and core 0 refuses it. The snoop filter lists the line
a second time, with a transaction that awaits core 1. -/
def stashTwice : State :=
  { State.reset.setTile 0 { sf := [(0, { txn := some { req := { kind := .evict, core := 0, line := 0 }, awaiting := [0] } }),
      (0, { txn := some { req := { kind := .inv, core := 2, line := 0 }, awaiting := [1] } })] } with
    mesh := [{ kind := .nakst, src := 0, dst := 256, line := 0, data := some [] }] }

/-- The transaction of the stash ends, and the entry that is found has one open. -/
theorem stashTwice_busy {t : State} (h : Gives (.nakst 0 0) stashTwice t) : (entryOf t 0).txn ≠ none := by
  cases h; nofun

end Sys2Proof.Claims

open Sys2Proof Sys2Proof.Machine Sys2Proof.Claims

/-- Refutes O42, by its clause on a WRF of a line in L2 that no core is named for: it leaves no entry of the line, but `setEntry` takes
an empty entry out by `tdel`, which takes out the first listing alone, so a snoop filter that lists the line twice still has one. -/
theorem not_homeRequests : ¬ Obligations.HomeRequests := by
  unfold Obligations.HomeRequests
  intro h
  obtain ⟨-, -, hwrf, -⟩ := h entryTwice entryTwice 0 0 0 0 { kind := .wrf, core := 0, line := 0 } {} { kind := .inv, src := 0, dst := 0, line := 0 }
    { req := { kind := .wrf, core := 0, line := 0 } } (List.replicate 8 nilW) nilW
    { who := .fic 0, key := 0, word := nilW, mask := 0 } 0 0 nilW nilW 0
  obtain ⟨-, hinL2, -⟩ := hwrf rfl rfl rfl rfl
  obtain ⟨t, hgives, -, hentry⟩ := hinL2 rfl nofun
  exact SfState.noConfusion ((congrArg Sf.st hentry).symm.trans (entryTwice_written hgives))

/-- Refutes O43, by its clause on SNI: it takes the line, but out of the L1D by `tdel`, which takes out the first listing alone, so an L1D
that lists the line twice still holds it. -/
theorem not_snoopsAndEvictions : ¬ Obligations.SnoopsAndEvictions := by
  unfold Obligations.SnoopsAndEvictions
  intro h
  obtain ⟨-, -, hsni, -⟩ := h heldTwice { heldTwice with mesh := [] } 3 0 { kind := .sni, src := 256, dst := 3, line := 0 } { st := .s } [] {}
  obtain ⟨t, hgives, hgone, -⟩ := hsni ⟨rfl, rfl, rfl, rfl⟩ (.inl rfl)
  exact nomatch hgone.symm.trans (heldTwice_holds hgives)

/-- Refutes O44, by its clause on NAKST at the line's home: the stash's transaction ends, and where its entry names no core `setEntry`
takes it out by `tdel`, which takes out the first listing alone, so a snoop filter that lists the line twice still has a transaction of it. -/
theorem not_snoopAnswersAtHome : ¬ Obligations.SnoopAnswersAtHome := by
  unfold Obligations.SnoopAnswersAtHome
  intro h
  obtain ⟨-, -, hnakst⟩ := h stashTwice { stashTwice with mesh := [] } 0 0 { kind := .nakst, src := 0, dst := 256, line := 0, data := some [] }
    { req := { kind := .evict, core := 0, line := 0 } } [] {}
  obtain ⟨t, hgives, hends, -⟩ := hnakst rfl rfl rfl rfl rfl rfl
  exact stashTwice_busy hgives hends
end

section
/-! PROOFS. Interrupts, doorbells and the fault log as calm changes, and the record that a detection leaves. -/

namespace Sys2Proof.Claims

open Sys2Proof.Machine

namespace Calm

theorem discardRing (s : State) : Calm s (discardRing s) := setDval s _ (by decide)

theorem ringBits (s : State) (n : Nat) (ev : BitVec 16) : Calm s (ringBits s n ev) := by
  unfold Machine.ringBits
  extract_lets c s1 s2 all hit _ c1
  have h1 : Calm s s1 := wakeDevice s
  have h2 : Calm s s2 := (wakeTile _ _).after h1
  have hc : s2.ctx n = c := by
    rw [ctx_wakeTile, State.ctx_congr (wakeDevice_ctxs s)]
  refine ite ((discardRing _).after h1) (ite ?_ (ite ((endWait _ _).after (after (setCtx ?_ ?_) h2)) (after (setCtx ?_ ?_) h2)))
  · split
    · refine after ?_ h1
      unfold movedNotice
      dsimp only
      split_ifs
      all_goals cases c.dir.owner <;> exact outside rfl rfl rfl rfl rfl rfl rfl
    · exact (discardRing _).after h1
  · rw [hc, setCtxReg_dir]
  · rw [hc, setCtxReg_dir]
    exact id
  · rw [hc]
  · rw [hc]
    exact id

theorem pendFic (s : State) (k src : Nat) (v : BitVec 64) : Calm s (pendFic s k src v) :=
  (wakeTile _ _).after (modCore fun _ => ⟨_, _, _, rfl⟩)

theorem seqEvent (s : State) (k : Nat) (ev : BitVec 16) : Calm s (seqEvent s k ev) := by
  unfold Machine.seqEvent
  extract_lets q all
  split
  · exact ite (outside rfl rfl rfl rfl rfl rfl rfl) (outside rfl rfl rfl rfl rfl rfl rfl)
  · exact outside rfl rfl rfl rfl rfl rfl rfl

theorem signal (s : State) (src : Nat) (v : BitVec 64) : Calm s (signal s src v) := by
  have h := wakeDevice s
  exact ite (ite ((pendFic _ _ _ _).after h) h) (ite (ite ((seqEvent _ _ _).after h) ((ringBits _ _ _).after h)) h)

theorem msix (s : State) (v : Nat) : Calm s (msix s v) := ite (outside rfl rfl rfl rfl rfl rfl rfl) (outside rfl rfl rfl rfl rfl rfl rfl)

/-- A fault record touches no more than its notices do (R480, R481). -/
theorem logFault (s : State) (cls react unit site : Nat) (addr : BitVec 64) (detail : List (BitVec 8)) :
    Calm s (logFault s cls react unit site addr detail) := by
  unfold Machine.logFault
  extract_lets r full s1 s2 _ s3
  have h1 : Calm s s1 := setDval s _ (by decide)
  have h2 : Calm s s2 := ite ((setDval s1 _ (by decide)).after h1) h1
  have h3 : Calm s s3 := after (outside (s := s2) rfl rfl rfl rfl rfl rfl rfl) h2
  exact (msix _ _).after ((signal _ _ _).after h3)

theorem logWear (s : State) (unit site : Nat) : Calm s (logWear s unit site) := (setDval _ _ (by decide)).after (logFault _ _ _ _ _ _ _)

theorem persist (s : State) (kind : Nat) (payload : List (BitVec 8)) : Calm s (persist s kind payload) := outside rfl rfl rfl rfl rfl rfl rfl

theorem queueSwap (s : State) (n : Nat) (st : CState) : Calm s (queueSwap s n st) := by
  unfold Machine.queueSwap
  dsimp only
  split
  · exact after (modCore fun _ => ⟨_, _, _, rfl⟩) (setCtx rfl id)
  · exact refl s

theorem swapOutReady (s : State) (n : Nat) : Calm s (swapOutReady s n) := ite (refl s) (queueSwap _ _ _)

/-! ### What a calm change keeps of the cores' places -/

section
variable {s t : State} (h : Calm s t)
include h

theorem life (k : Nat) : (t.core k).life = (s.core k).life := by rw [h.core]
theorem site (k : Nat) : (t.core k).site = (s.core k).site := by rw [h.core]
theorem dead (k : Nat) : (t.core k).dead = (s.core k).dead := by rw [h.core]
theorem tileDead (j : Nat) : (t.tile j).dead = (s.tile j).dead := by rw [h.tile]

theorem dval {i j : Nat} (hk : (i * 256 + j) / 256 ∉ noticeEntries) : dval t i j = dval s i j := by
  rw [Machine.dval, h.dict _ hk, Machine.dval]
end

end Calm

section
variable {s t : State}

/-- The spare site of a tile depends on the service state and the site of each core alone (R477). -/
theorem spareSite_congr (hl : ∀ k, (t.core k).life = (s.core k).life) (hs : ∀ k, (t.core k).site = (s.core k).site) (j : Nat) :
    spareSite t j = spareSite s j := by
  simp only [spareSite, siteIn, siteOf, hl, hs]

theorem coreLive_congr (hl : ∀ k, (t.core k).life = (s.core k).life) (hd : ∀ k, (t.core k).dead = (s.core k).dead)
    (ht : ∀ j, (t.tile j).dead = (s.tile j).dead) (k : Nat) : coreLive t k = coreLive s k := by
  simp only [coreLive, hl, hd, ht]
end

/-! ### Sarking's own registers -/

section
variable (s : State) (n k j : Nat) (v : BitVec 64) (ev : BitVec 16)

@[simp] theorem wakeTile_sark : (wakeTile s n).sark = s.sark := by unfold wakeTile; split <;> rfl
@[simp] theorem wakeDevice_sark : (wakeDevice s).sark = s.sark := by
  unfold wakeDevice beginTrans
  split <;> split_ifs <;> (try split) <;> rfl
@[simp] theorem pendFic_sark : (pendFic s k n v).sark = s.sark := by simp [pendFic]
@[simp] theorem makeReady_sark : (makeReady s n).sark = s.sark := by simp [makeReady]
@[simp] theorem endWait_sark : (endWait s n).sark = s.sark := by
  unfold endWait
  dsimp only
  split <;> simp
@[simp] theorem seqEvent_sark : (seqEvent s k ev).sark = s.sark := by
  unfold seqEvent
  dsimp only
  split
  · split_ifs <;> rfl
  · rfl
@[simp] theorem movedNotice_sark (w : World) (i i' : BitVec 32) (g g' : BitVec 16) : (movedNotice s w i g i' g').sark = s.sark := by
  unfold movedNotice
  dsimp only
  split_ifs <;> cases w <;> rfl
@[simp] theorem ringBits_sark : (ringBits s n ev).sark = s.sark := by
  unfold ringBits
  extract_lets c s1 s2
  have h1 : s1.sark = s.sark := wakeDevice_sark s
  split_ifs
  · exact h1
  · split <;> simp [discardRing, countUp, setDval, forwardDoorbell, sendMsg, h1]
  all_goals simp [s2, h1]
@[simp] theorem signal_sark : (signal s n v).sark = s.sark := by
  unfold signal
  dsimp only
  split_ifs <;> simp
@[simp] theorem msix_sark : (msix s n).sark = s.sark := by
  unfold msix
  dsimp only
  split_ifs <;> rfl
end

/-- A record of a class about a unit is the last one, with the number and in the mode of a state before (R481). -/
def Recorded (s t : State) (cls : BitVec 8) (u : Nat) : Prop :=
  ∃ r, t.sark.last = some r ∧ r.cls = cls ∧ r.unit = BitVec.ofNat 16 u ∧ r.seq = s.sark.nextSeq ∧ r.mode = s.mg.mode

/-- A record takes the next number, and of Sarking's registers the buffer besides (R481). -/
theorem logFault_sark (s : State) (cls react unit site : Nat) (addr : BitVec 64) (detail : List (BitVec 8)) :
    ∃ r w, (logFault s cls react unit site addr detail).sark = { s.sark with nextSeq := s.sark.nextSeq + 1, last := some r, waiting := w } ∧
      r.cls = BitVec.ofNat 8 cls ∧ r.unit = BitVec.ofNat 16 unit ∧ r.seq = s.sark.nextSeq ∧ r.mode = s.mg.mode := by
  unfold logFault
  extract_lets r full s1 s2 _ s3
  have h2 : s2.sark = s.sark := by unfold s2; split <;> rfl
  refine ⟨r, s3.sark.waiting, ?_, rfl, rfl, rfl, rfl⟩
  rw [msix_sark, signal_sark]
  change { s2.sark with nextSeq := s2.sark.nextSeq + 1, last := some r, waiting := s3.sark.waiting } = _
  rw [h2]

theorem recorded_logFault (s : State) (cls react unit site : Nat) (addr : BitVec 64) (detail : List (BitVec 8)) :
    Recorded s (logFault s cls react unit site addr detail) (BitVec.ofNat 8 cls) unit := by
  obtain ⟨r, w, h, hr⟩ := logFault_sark s cls react unit site addr detail
  exact ⟨r, by rw [h], hr⟩

theorem Recorded.congr {s s' t t' : State} {cls : BitVec 8} {u : Nat} (hn : s'.sark.nextSeq = s.sark.nextSeq) (hm : s'.mg.mode = s.mg.mode)
    (ht : t'.sark.last = t.sark.last) (h : Recorded s' t cls u) : Recorded s t' cls u := by
  obtain ⟨r, hl, hc, hu, hs, hr⟩ := h
  exact ⟨r, ht.trans hl, hc, hu, hs.trans hn, hr.trans hm⟩

end Sys2Proof.Claims
end

section
/-! PROOFS. Fault reports in SERVICE and cores declared dead. -/

namespace Sys2Proof.Claims

open Sys2Proof.Machine

/-! ### Reactions in SERVICE -/

/-- A transition to a mode is under way. -/
def Towards (t : State) (m : Mode) : Prop := ∃ u, t.mg.trans = some u ∧ u.target = m

section
variable {s : State} (hm : s.mg.mode = .service)
include hm

theorem wakeDevice_idle (ht : s.mg.trans = none) : wakeDevice s = s := by simp [wakeDevice, ht, hm]

theorem toSafe_begins (ht : s.mg.trans = none) (cls : Nat) : toSafe s cls = { s with
    pins := { s.pins with safe := true },
    mg := { s.mg with trans := some ⟨.safe, .safe, affected s⟩, waiting := [], start := { s.mg.start with safeClass := BitVec.ofNat 8 cls } } } := by
  simp [toSafe, starting, ht, hm, reacting]

theorem toDegraded_begins (ht : s.mg.trans = none) :
    toDegraded s = { s with mg := { s.mg with trans := some ⟨.degraded, .degraded, affected s⟩ } } := by
  simp [toDegraded, beginTrans, ht, hm]

/-- Whatever transition is in progress, a reaction touches the pins, the transitions and the class that SAFE was entered for. -/
theorem react_changes (cls : Nat) : ∃ p tr w st, react s cls = { s with pins := p, mg := { s.mg with trans := tr, waiting := w, start := st } } := by
  unfold react toSafe
  split_ifs
  · exact ⟨_, _, _, _, rfl⟩
  · rw [hm]
    exact ⟨_, _, _, _, rfl⟩
  · exact ⟨_, _, _, _, rfl⟩

theorem toDegraded_changes : ∃ tr w, toDegraded s = { s with mg := { s.mg with trans := tr, waiting := w } } := by
  unfold toDegraded beginTrans
  rw [hm]
  dsimp only
  split <;> exact ⟨_, _, rfl⟩

/-- CLOCK, VOLTAGE, THERMAL and REFUSED take the device to SAFE (R471, R479). -/
theorem report_safe (ht : s.mg.trans = none) {cls : Nat} (hc : cls ∈ [0x0B, 0x0C, 0x0D, 0x12]) (unit : Nat) (addr det : BitVec 64) :
    report s cls unit addr det = toSafe (logFault s cls 2 unit 0xFFFF addr (toBytes det.toNat 8)) cls := by
  simp only [List.mem_cons, List.not_mem_nil, or_false] at hc
  rcases hc with rfl | rfl | rfl | rfl <;> simp [report, hm, wakeDevice_idle hm ht, knownClass, safeClass]

/-- Such a report is recorded, and the transition to SAFE begins with SAFE_N driven (R479, R480). -/
theorem report_stops (ht : s.mg.trans = none) {cls : Nat} (hc : cls ∈ [0x0B, 0x0C, 0x0D, 0x12]) (unit : Nat) (addr det : BitVec 64) :
    Recorded s (report s cls unit addr det) (BitVec.ofNat 8 cls) unit ∧ Towards (report s cls unit addr det) .safe ∧
      (report s cls unit addr det).pins.safe = true ∧ (report s cls unit addr det).mg.start.safeClass = BitVec.ofNat 8 cls := by
  have hlog := Calm.logFault s cls 2 unit 0xFFFF addr (toBytes det.toNat 8)
  rw [report_safe hm ht hc, toSafe_begins (hlog.mode.trans hm) (hlog.trans hm ht)]
  exact ⟨recorded_logFault _ _ _ _ _ _ _, ⟨_, rfl, rfl⟩, rfl, rfl⟩

/-- SPARE_EXHAUSTED begins DEGRADED (R479). -/
theorem report_degrades (ht : s.mg.trans = none) (unit : Nat) (addr det : BitVec 64) :
    Recorded s (report s 0x14 unit addr det) 0x14 unit ∧ Towards (report s 0x14 unit addr det) .degraded := by
  have hlog := Calm.logFault s 0x14 1 unit 0xFFFF addr (toBytes det.toNat 8)
  have hrep : report s 0x14 unit addr det = toDegraded (logFault s 0x14 1 unit 0xFFFF addr (toBytes det.toNat 8)) := by
    simp [report, hm, wakeDevice_idle hm ht, knownClass]
  rw [hrep, toDegraded_begins (hlog.mode.trans hm) (hlog.trans hm ht)]
  exact ⟨recorded_logFault _ _ _ _ _ _ _, ⟨_, rfl, rfl⟩⟩

/-- A lockup of a fast interrupt context drives LOCKUP_N (R480). -/
theorem report_lockup (ht : s.mg.trans = none) (unit : Nat) (addr det : BitVec 64) :
    Recorded s (report s 0x13 unit addr det) 0x13 unit ∧ (report s 0x13 unit addr det).pins.lockup = true ∧
      (report s 0x13 unit addr det).mg.trans = none := by
  have hlog := Calm.logFault { s with pins := { s.pins with lockup := true } } 0x13 0 unit 0xFFFF addr (toBytes det.toNat 8)
  have hrep : report s 0x13 unit addr det =
      logFault { s with pins := { s.pins with lockup := true } } 0x13 0 unit 0xFFFF addr (toBytes det.toNat 8) := by
    simp [report, hm, wakeDevice_idle hm ht, knownClass]
  rw [hrep]
  exact ⟨.congr (s' := { s with pins := { s.pins with lockup := true } }) rfl rfl rfl (recorded_logFault _ _ _ _ _ _ _), by rw [hlog.pins],
    hlog.trans hm ht⟩

/-- CACHE_UE is recorded alone (R471). -/
theorem report_records (ht : s.mg.trans = none) (unit : Nat) (addr det : BitVec 64) :
    Recorded s (report s 0x05 unit addr det) 0x05 unit ∧ (report s 0x05 unit addr det).mg.trans = none ∧
      (report s 0x05 unit addr det).mg.mode = .service := by
  have hlog := Calm.logFault s 0x05 0 unit 0xFFFF addr (toBytes det.toNat 8)
  have hrep : report s 0x05 unit addr det = logFault s 0x05 0 unit 0xFFFF addr (toBytes det.toNat 8) := by
    simp [report, hm, wakeDevice_idle hm ht, knownClass, safeClass]
  rw [hrep]
  exact ⟨recorded_logFault _ _ _ _ _ _ _, hlog.trans hm ht, hlog.mode.trans hm⟩

end

theorem report_unknown (s : State) {cls : Nat} (h : knownClass cls = false) (unit : Nat) (addr det : BitVec 64) : report s cls unit addr det = s := by
  simp [report, h]

/-! ### Cores declared dead (R476, R477) -/

/-- A core is dead, and its contexts are FREE, one generation on. -/
def Cleared (s t : State) (c : Nat) : Prop :=
  (t.core c).dead = true ∧ ∀ i < 160, (t.ctx (c * 160 + i)).dir.state = .free ∧ (t.ctx (c * 160 + i)).dir.gen = (s.ctx (c * 160 + i)).dir.gen + 1

theorem Cleared.calm {s t u : State} {c : Nat} (h : Cleared s t c) (g : Calm t u) : Cleared s u c :=
  ⟨(g.dead c).trans h.1, fun i hi => ⟨g.free _ (h.2 i hi).1, (g.gen _).trans (h.2 i hi).2⟩⟩

theorem Cleared.congr {s t u : State} {c : Nat} (h : Cleared s t c) (hd : (u.core c).dead = (t.core c).dead) (hctxs : u.ctxs = t.ctxs) :
    Cleared s u c :=
  ⟨hd.trans h.1, fun i hi => by rw [State.ctx_congr hctxs]; exact h.2 i hi⟩

theorem Cleared.before {s s' t : State} {c : Nat} (h : Cleared s' t c) (g : Calm s s') : Cleared s t c :=
  ⟨h.1, fun i hi => ⟨(h.2 i hi).1, by rw [(h.2 i hi).2, g.gen]⟩⟩

section
variable (s : State) (c : Nat)

theorem calm_wakeSlotWaits : Calm s (wakeSlotWaits s) := Calm.foldl (fun _ _ t => .ite (.endWait t _) (.refl t)) s

theorem wakeSlotWaits_sark : (wakeSlotWaits s).sark = s.sark :=
  keep_foldl (P := fun t => t.sark = s.sark) (fun t a h => by split <;> simp [h]) _ rfl

theorem calm_freeOpSlot (k : Nat) : Calm s (freeOpSlot s k) := .outside rfl rfl rfl rfl rfl rfl rfl

/-- The operations of a core free their slots, and the contexts that wait for one go on. -/
theorem calm_freeCoreOps : Calm s (freeCoreOps s c) :=
  .ite (.refl s) ((calm_wakeSlotWaits _).after (Calm.foldl (fun k _ t => calm_freeOpSlot t k) s))

theorem freeCoreOps_sark : (freeCoreOps s c).sark = s.sark := by
  unfold freeCoreOps
  dsimp only
  split
  · rfl
  · rw [wakeSlotWaits_sark]
    exact keep_foldl (P := fun t => t.sark = s.sark) (f := freeOpSlot) (fun _ _ h => h) _ rfl

theorem ctx_endRecord_same (n : Nat) : (endRecord s n).ctx n = { dir := { gen := (s.ctx n).dir.gen + 1 } } := by
  unfold endRecord
  dsimp only
  rw [State.ctx_setCtx_same]

theorem ctx_endRecord_ne {n m : Nat} (h : m ≠ n) : (endRecord s n).ctx m = s.ctx m := by
  unfold endRecord
  dsimp only
  rw [State.ctx_setCtx_ne _ _ h]
  split <;> rfl

theorem endRecord_mg (n : Nat) : (endRecord s n).mg = s.mg := by
  unfold endRecord
  dsimp only
  split <;> rfl

theorem endRecord_sark (n : Nat) : (endRecord s n).sark = s.sark := by
  unfold endRecord
  dsimp only
  split <;> rfl

/-- The first n records of a core end. -/
def endRecords (n : Nat) : State := (List.range n).foldl (fun s i => endRecord s (c * 160 + i)) s

theorem endRecords_succ (n : Nat) : endRecords s c (n + 1) = endRecord (endRecords s c n) (c * 160 + n) := by
  simp [endRecords, List.range_succ]

theorem endRecords_mg (n : Nat) : (endRecords s c n).mg = s.mg :=
  keep_foldl (P := fun t => t.mg = s.mg) (fun t _ h => (endRecord_mg t _).trans h) _ rfl

theorem endRecords_sark (n : Nat) : (endRecords s c n).sark = s.sark :=
  keep_foldl (P := fun t => t.sark = s.sark) (fun t _ h => (endRecord_sark t _).trans h) _ rfl

theorem ctx_endRecords (n i : Nat) :
    (endRecords s c n).ctx (c * 160 + i) = if i < n then { dir := { gen := (s.ctx (c * 160 + i)).dir.gen + 1 } } else s.ctx (c * 160 + i) := by
  induction n with
  | zero => rfl
  | succ n ih =>
    rw [endRecords_succ]
    by_cases h : i = n
    · subst h
      rw [ctx_endRecord_same, ih, if_neg (Nat.lt_irrefl i), if_pos (Nat.lt_succ_self i)]
    · rw [ctx_endRecord_ne _ (by omega), ih]
      simp only [show (i < n + 1) ↔ i < n by omega]

theorem stopCore_eq : stopCore s c = (endRecords (freeCoreOps s c) c 160).modCore c fun c =>
    { l1d := c.l1d, l1i := c.l1i, fic := { pending := c.fic.pending, nmi := c.fic.nmi }, life := c.life, site := c.site, dead := true,
      cfg := c.cfg, bypass := c.bypass } := rfl

/-- A core that stops is dead, with its records ended (R476). -/
theorem cleared_stopCore : Cleared s (stopCore s c) c := by
  rw [stopCore_eq]
  refine ⟨by rw [State.core_modCore_same], fun i hi => ?_⟩
  rw [State.ctx_modCore, ctx_endRecords, if_pos hi]
  exact ⟨rfl, congrArg (· + 1) ((calm_freeCoreOps s c).gen _)⟩

theorem stopCore_mode : (stopCore s c).mg.mode = s.mg.mode := by
  rw [stopCore_eq, State.modCore_mg, endRecords_mg]
  exact (calm_freeCoreOps s c).mode

theorem stopCore_sark : (stopCore s c).sark = s.sark := by
  rw [stopCore_eq, State.modCore_sark, endRecords_sark, freeCoreOps_sark]

/-- A core that stops, with the number that its record will carry, goes on as Sarking decides. -/
def stoppedAs (f : Core → Core) : State := ((stopCore s c).modCore c fun x => { x with deadEv := s.sark.nextSeq }).modCore c f

theorem stoppedAs_mode (f : Core → Core) : (stoppedAs s c f).mg.mode = s.mg.mode := by rw [stoppedAs, State.modCore_mg, State.modCore_mg, stopCore_mode]

theorem stoppedAs_sark (f : Core → Core) : (stoppedAs s c f).sark = s.sark := by rw [stoppedAs, State.modCore_sark, State.modCore_sark, stopCore_sark]

theorem core_stoppedAs (f : Core → Core) : (stoppedAs s c f).core c = f { (stopCore s c).core c with deadEv := s.sark.nextSeq } := by
  rw [stoppedAs, State.core_modCore_same, State.core_modCore_same]

theorem cleared_stoppedAs {f : Core → Core} (hf : ∀ x, (f x).dead = x.dead) : Cleared s (stoppedAs s c f) c :=
  (cleared_stopCore s c).congr (by rw [core_stoppedAs, hf]) (by rw [stoppedAs, State.modCore_ctxs, State.modCore_ctxs])

/-- What was directed to a core goes to another (R476). -/
theorem calm_redirect : Calm s (redirect s c) := by
  unfold redirect
  split
  · exact .refl s
  · extract_lets p nmi s1 s2 s3
    have h1 : Calm s s1 := Calm.foldl (fun src hsrc t => .ite (Calm.setDval t _ ?_) (.refl t)) s
    · have h2 : Calm s s2 := (Calm.foldl (fun e _ t => .pendFic t _ _ _) s1).after h1
      have h3 : Calm s s3 := .ite (.after (.modCore fun _ => ⟨_, _, _, rfl⟩) h2) h2
      exact .after (.modCore fun _ => ⟨_, _, _, rfl⟩) h3
    · rw [List.mem_range] at hsrc
      rw [show (0x3080 * 256 + src) / 256 = 0x3080 by omega]
      decide

end

end Sys2Proof.Claims
end

section
/-! PROOFS. Reports that kill a core: it goes on at the spare site, or it is retired. -/

namespace Sys2Proof.Claims

open Sys2Proof.Machine

theorem dval_setDval_same (s : State) (i j v : Nat) : dval (setDval s i j v) i j = v := by simp [dval, setDval]

theorem dval_setDval_ne (s : State) {i j i' j' : Nat} (v : Nat) (h : i' * 256 + j' ≠ i * 256 + j) : dval (setDval s i j v) i' j' = dval s i' j' := by
  simp [dval, setDval, h]

/-- A dead core's number is taken over by a site. -/
def takenOver (site : Nat) (x : Core) : Core := { x with life := .substituted, site := some site }

/-- A dead core is out of service. -/
def retired (x : Core) : Core := { x with life := .retired }

section
variable {s : State} {c cls : Nat} (hlive : coreLive s c = true) (addr : BitVec 64)
include hlive

/-- With the spare site free, and its generations read, a dead core goes on there (R477). -/
theorem declareCore_substitutes {j : Nat} (hc : cls ≠ 3) (hj : spareSite s (tileOf c) = some j) : ∃ x y d, declareCore s c cls addr true =
    logFault (persist (stoppedAs s c (takenOver (9 * tileOf c + j))) 1 x) cls 3 c y addr d := by
  refine ⟨coreMap (stoppedAs s c (takenOver (9 * tileOf c + j))), siteOf s c, recordBits s c ++ [BitVec.ofNat 8 (b2n true)], ?_⟩
  simp [declareCore, hlive, hc, hj]
  rfl

/-- Without one it is retired, and the spares of its class are exhausted (R477, R486). -/
theorem declareCore_retires (hj : spareSite s (tileOf c) = none) : ∃ y d, declareCore s c cls addr true =
    spareExhausted (logFault (redirect (stoppedAs s c retired) c) cls 3 c y addr d) 0 c := by
  refine ⟨siteOf s c, recordBits s c ++ [BitVec.ofNat 8 (b2n false)], ?_⟩
  simp [declareCore, hlive, hj]
  rfl
end

theorem report_core {s : State} {c cls : Nat} (hm : s.mg.mode = .service) (hcls : cls = 0x08 ∨ cls = 0x0E) (hc : c < 256) (addr det : BitVec 64) :
    report s cls c addr det = react (declareCore (wakeDevice s) c cls addr true) cls := by
  have hw : (wakeDevice s).mg.mode = .service := (Calm.wakeDevice s).mode.trans hm
  rcases hcls with rfl | rfl <;> simp [report, hm, hw, knownClass, hc]

section
variable {s : State} {c : Nat}

theorem coreLive_wakeDevice (hlive : coreLive s c = true) : coreLive (wakeDevice s) c = true :=
  (coreLive_congr (Calm.wakeDevice s).life (Calm.wakeDevice s).dead (Calm.wakeDevice s).tileDead c).trans hlive

theorem spareSite_wakeDevice (k : Nat) : spareSite (wakeDevice s) k = spareSite s k :=
  spareSite_congr (Calm.wakeDevice s).life (Calm.wakeDevice s).site k

theorem lt_of_coreLive (hlive : coreLive s c = true) : c < 256 := by simpa using (Bool.and_eq_true_iff.mp hlive).1
end

/-! ### Reports about a core in SERVICE -/

section
variable {s u : State} {c cls unit site : Nat} (hm : u.mg.mode = .service) (addr : BitVec 64) (x d : List (BitVec 8))
include hm

/-- After a dead core went on at a spare site, its record and the reaction of the class touch neither it nor the record (R479). -/
theorem react_substituted : ∃ t, react (logFault (persist u 1 x) cls 3 unit site addr d) cls = t ∧
    (Cleared s u c → Cleared s t c) ∧ (t.core c).life = (u.core c).life ∧ (t.core c).site = (u.core c).site ∧
    Recorded u t (BitVec.ofNat 8 cls) unit := by
  have hlog := (Calm.logFault (persist u 1 x) cls 3 unit site addr d).after (.persist u 1 x)
  have hrec : Recorded u _ (BitVec.ofNat 8 cls) unit :=
    .congr (s' := persist u 1 x) rfl rfl rfl (recorded_logFault (persist u 1 x) cls 3 unit site addr d)
  generalize logFault (persist u 1 x) cls 3 unit site addr d = v at hlog hrec ⊢
  obtain ⟨p, tr, w, st, hreact⟩ := react_changes (hlog.mode.trans hm) cls
  exact ⟨_, hreact, fun h => (h.calm hlog).congr rfl rfl, hlog.life c, hlog.site c, .congr (s' := u) rfl rfl rfl hrec⟩

/-- After a core was retired, its record and the exhausted spares touch it no further, and the class of spares is marked (R486). -/
theorem react_retired : ∃ t, react (spareExhausted (logFault (redirect u c) cls 3 unit site addr d) 0 unit) cls = t ∧
    (Cleared s u c → Cleared s t c) ∧ (t.core c).life = (u.core c).life ∧ Nat.testBit (dval t 0x1400 6) 0 = true := by
  rw [spareExhausted]
  have hv := (Calm.logFault (redirect u c) cls 3 unit site addr d).after (calm_redirect u c)
  generalize logFault (redirect u c) cls 3 unit site addr d = v at hv ⊢
  have hbit : Nat.testBit (dval (setDval v 0x1400 6 (dval v 0x1400 6 ||| 2 ^ 0)) 0x1400 6) 0 = true := by
    rw [dval_setDval_same, Nat.testBit_or]
    simp
  have hm' : (setDval v 0x1400 6 (dval v 0x1400 6 ||| 2 ^ 0)).mg.mode = .service := hv.mode.trans hm
  have hc : Cleared s u c → Cleared s (setDval v 0x1400 6 (dval v 0x1400 6 ||| 2 ^ 0)) c := fun h => (h.calm hv).congr rfl rfl
  have hl : ((setDval v 0x1400 6 (dval v 0x1400 6 ||| 2 ^ 0)).core c).life = (u.core c).life := hv.life c
  generalize setDval v 0x1400 6 (dval v 0x1400 6 ||| 2 ^ 0) = m at hbit hm' hc hl ⊢
  have hw := Calm.logFault m 0x14 1 unit 0xFFFF 0 []
  generalize logFault m 0x14 1 unit 0xFFFF 0 [] = r at hw ⊢
  obtain ⟨tr, q, hdeg⟩ := toDegraded_changes (hw.mode.trans hm')
  obtain ⟨p, tr', q', st, hreact⟩ := react_changes (s := toDegraded r) (by rw [hdeg]; exact hw.mode.trans hm') cls
  rw [hreact, hdeg]
  exact ⟨_, rfl, fun h => ((hc h).calm hw).congr rfl rfl, (hw.life c).trans hl, (congrArg (Nat.testBit · 0) (hw.dval (by decide))).trans hbit⟩
end

section
variable {s : State} {c cls : Nat} (hm : s.mg.mode = .service) (hlive : coreLive s c = true) (hcls : cls = 0x08 ∨ cls = 0x0E) (addr det : BitVec 64)
include hm hlive hcls

/-- A watchdog that expires, or a self-test that fails, kills a core; it goes on at the free spare site (R473, R476, R477). -/
theorem report_core_spare {j : Nat} (hj : spareSite s (tileOf c) = some j) : ∃ t, report s cls c addr det = t ∧
    Cleared s t c ∧ (t.core c).life = .substituted ∧ (t.core c).site = some (9 * tileOf c + j) ∧ Recorded s t (BitVec.ofNat 8 cls) c := by
  have hwake := Calm.wakeDevice s
  obtain ⟨x, y, d, hdecl⟩ := declareCore_substitutes (cls := cls) (coreLive_wakeDevice hlive) addr (by omega) ((spareSite_wakeDevice _).trans hj)
  rw [report_core hm hcls (lt_of_coreLive hlive), hdecl]
  have hclear := (cleared_stoppedAs (wakeDevice s) c (f := takenOver (9 * tileOf c + j)) fun _ => rfl).before hwake
  have hcore := core_stoppedAs (wakeDevice s) c (takenOver (9 * tileOf c + j))
  have hmode := (stoppedAs_mode (wakeDevice s) c (takenOver (9 * tileOf c + j))).trans hwake.mode
  have hsark := (stoppedAs_sark (wakeDevice s) c (takenOver (9 * tileOf c + j))).trans (wakeDevice_sark s)
  generalize stoppedAs (wakeDevice s) c (takenOver (9 * tileOf c + j)) = u at hclear hcore hmode hsark ⊢
  obtain ⟨t, ht, hcl, hlife, hsite, hrec⟩ := react_substituted (s := s) (c := c) (cls := cls) (unit := c) (site := y) (hmode.trans hm) addr x d
  exact ⟨t, ht, hcl hclear, hlife.trans (by rw [hcore]; rfl), hsite.trans (by rw [hcore]; rfl), .congr (by rw [hsark]) hmode rfl hrec⟩

/-- Without one the core is retired, and the class of spares is marked as exhausted (R477, R486). -/
theorem report_core_retired (hj : spareSite s (tileOf c) = none) : ∃ t, report s cls c addr det = t ∧
    Cleared s t c ∧ (t.core c).life = .retired ∧ Nat.testBit (dval t 0x1400 6) 0 = true := by
  have hwake := Calm.wakeDevice s
  obtain ⟨y, d, hdecl⟩ := declareCore_retires (cls := cls) (coreLive_wakeDevice hlive) addr ((spareSite_wakeDevice _).trans hj)
  rw [report_core hm hcls (lt_of_coreLive hlive), hdecl]
  have hclear := (cleared_stoppedAs (wakeDevice s) c (f := retired) fun _ => rfl).before hwake
  have hcore := core_stoppedAs (wakeDevice s) c retired
  have hmode := (stoppedAs_mode (wakeDevice s) c retired).trans hwake.mode
  generalize stoppedAs (wakeDevice s) c retired = u at hclear hcore hmode ⊢
  obtain ⟨t, ht, hcl, hlife, hbit⟩ := react_retired (s := s) (c := c) (cls := cls) (unit := c) (site := y) (hmode.trans hm) addr d
  exact ⟨t, ht, hcl hclear, hlife.trans (by rw [hcore]; rfl), hbit⟩
end

end Sys2Proof.Claims
end

section
/-! PROOFS. What is left of a dead core once nothing names it, and the periods of checks. -/

namespace Sys2Proof.Claims

open Sys2Proof.Machine

theorem foldl_unchanged {α β : Type} {f : α → β → α} {a : α} : ∀ {l : List β}, (∀ b ∈ l, f a b = a) → l.foldl f a = a
  | [], _ => rfl
  | b :: l, h => by rw [List.foldl_cons, h b (.head l), foldl_unchanged fun b hb => h b (.tail _ hb)]

/-! ### Reclaiming a core that nothing names (R250) -/

section
variable {s : State} {c : Nat}

theorem lastAnswers_none (h : ∀ m ∈ s.mesh, m.src ≠ c) : lastAnswers s c = s := by
  have hnone : (s.mesh.filter fun m => m.src == c &&
      (m.kind == .ack || (m.kind == .ackd || (m.kind == .acku || (m.kind == .ackn || m.kind == .ackw))))) = [] :=
    List.filter_eq_nil_iff.mpr fun m hm => by simp [h m hm]
  rw [lastAnswers, hnone, List.foldl_nil]

/-- No home holds the core as a holder, awaits it, or will name it. -/
def Unnamed (e : Sf) (c : Nat) : Prop :=
  e.holders.contains c = false ∧ ∀ w, e.txn = some w → w.awaiting.contains c = false ∧ w.wbWait.contains c = false ∧ ∀ y ∈ w.later, y.1 ≠ c

/-- A core without lines, stores and requests. -/
def emptied (x : Core) : Core :=
  { x with l1d := [], l1i := [], stores := [], appends := [], heals := [], retries := [], credits := [], tagErr := [] }

/-- Of a core that no home and no message names, the messages to it go, and its lines and requests. -/
theorem reclaimCore_unnamed (hsf : ∀ y ∈ s.tiles, ∀ e ∈ y.2.sf, Unnamed e.2 c) (hmesh : ∀ m ∈ s.mesh, m.src ≠ c) :
    ∃ ts, reclaimCore s c = { s with mesh := s.mesh.filter fun m => m.dst != c, tiles := ts }.modCore c emptied := by
  have hmine : (s.mesh.filter fun m => !((m.src == c && (m.kind.vc == 0 || m.kind.vc == 4)) || m.dst == c)) = s.mesh.filter fun m => m.dst != c :=
    List.filter_congr fun m hm => by rw [beq_eq_false_iff_ne.mpr (hmesh m hm), Bool.false_and, Bool.false_or, bne]
  unfold reclaimCore
  rw [lastAnswers_none hmesh]
  dsimp only
  rw [hmine]
  refine ⟨_, foldl_unchanged fun y hy => foldl_unchanged fun e he => if_neg ?_⟩
  obtain ⟨y', hy', rfl⟩ := List.mem_map.mp hy
  obtain ⟨hhold, htxn⟩ := hsf y' hy' e he
  cases hx : e.2.txn with
  | none => simp only [hhold]; decide
  | some w =>
    obtain ⟨haw, hwb, hlater⟩ := htxn w hx
    have hany : (w.later.any fun t => t.1 == c) = false := by simpa using hlater
    simp only [hhold, haw, hwb, hany]
    decide

/-- Whether a reclaimed core runs is whether a site took it over (R477). -/
def restarted (x : Core) : Core := { x with dead := x.life == .retired }

theorem reclaimed_unnamed (hsf : ∀ y ∈ s.tiles, ∀ e ∈ y.2.sf, Unnamed e.2 c) (hmesh : ∀ m ∈ s.mesh, m.src ≠ c) :
    ∃ t, (reclaimCore s c).modCore c restarted = t ∧ t.core c = restarted (emptied (s.core c)) ∧ t.mem = s.mem ∧
      t.mesh = s.mesh.filter fun m => m.dst != c := by
  obtain ⟨ts, h⟩ := reclaimCore_unnamed hsf hmesh
  exact ⟨_, congrArg (State.modCore · c restarted) h, by rw [State.core_modCore_same, State.core_modCore_same]; rfl,
    rfl, rfl⟩
end

/-! ### A period of checks (R474, R475) -/

/-- The state with the drops in a row of each check. -/
def withDrops (s : State) (d : Tbl Nat) : State := { s with sark := { s.sark with drops := d } }

/-- The state in which a period's checks run: DATAPATH failures have aged. -/
def aged (s : State) : State :=
  { s with cores := s.cores.map fun c => (c.1, { c.2 with dpFaults := (c.2.dpFaults.map (· + 1)).filter fun a => decide (a < 10) }) }

/-- The order of a period's checks: those that the period before abandoned come first (R475). -/
def checkOrder (s : State) : List Nat :=
  let ns := (List.range 8).map (· + 1)
  let late := ns.filter fun n => tgetD s.sark.drops n 0 != 0
  late ++ ns.filter fun n => !late.contains n

/-- One check of a period's order. -/
def checkStep (done failed : BitVec 8) (unit : Nat) (s : State) (n : Nat) : State :=
  runCheck s n (done.getLsbD (n - 1)) (failed.getLsbD (n - 1)) unit

section
variable (s : State) (done failed : BitVec 8) (unit : Nat)

theorem period_eq (h : s.mg.mode ≠ .off) : period s done failed unit = (checkOrder s).foldl (checkStep done failed unit) (aged s) := by
  rw [period, if_neg h]
  rfl

theorem mem_checkOrder (n : Nat) : n ∈ checkOrder s ↔ 1 ≤ n ∧ n ≤ 8 := by
  have hns : n ∈ (List.range 8).map (· + 1) ↔ 1 ≤ n ∧ n ≤ 8 := by
    rw [List.mem_map]
    exact ⟨by rintro ⟨a, ha, rfl⟩; rw [List.mem_range] at ha; omega, fun h => ⟨n - 1, List.mem_range.mpr (by omega), by omega⟩⟩
  unfold checkOrder
  extract_lets ns late
  rw [← hns, List.mem_append]
  constructor
  · rintro (h | h) <;> exact List.mem_of_mem_filter h
  · intro h
    by_cases hl : n ∈ late
    · exact .inl hl
    · exact .inr (List.mem_filter.mpr ⟨h, by simpa using hl⟩)

theorem nodup_checkOrder : (checkOrder s).Nodup := by
  unfold checkOrder
  extract_lets ns late
  have hns : ns.Nodup := by decide
  refine List.nodup_append'.mpr ⟨hns.filter _, hns.filter _, fun n hl hr => ?_⟩
  simpa [hl] using (List.mem_filter.mp hr).2

/-- A check that finishes without a finding clears its drops. -/
theorem runCheck_done (n : Nat) : runCheck s n true false unit = withDrops s (tset s.sark.drops n 0) := rfl

/-- A drop of a check is counted, in a row and since the start. -/
def countDrop (s : State) (n : Nat) : State :=
  withDrops (setDval s 0x1002 n (min 0xFFFFFFFF (dval s 0x1002 n + 1))) (tset s.sark.drops n (tgetD s.sark.drops n 0 + 1))

theorem runCheck_dropped (n : Nat) (f : Bool) : runCheck s n false f unit =
    if (tgetD s.sark.drops n 0 + 1) % 3 = 0 then report (countDrop s n) 0x0F n 0 0 else countDrop s n := rfl

theorem countDrop_drops (n i : Nat) : tgetD (countDrop s n).sark.drops i 0 = tgetD s.sark.drops i 0 + if i = n then 1 else 0 := by
  change tgetD (tset _ _ _) i 0 = _
  rw [tgetD_tset]
  split
  · next h => rw [h]
  · rfl

theorem countDrop_dval (n i : Nat) : dval (countDrop s n) 0x1002 i = if i = n then min 0xFFFFFFFF (dval s 0x1002 i + 1) else dval s 0x1002 i := by
  split
  · next h => subst h; exact dval_setDval_same _ _ _ _
  · next h => exact dval_setDval_ne _ _ (by omega)

/-- Checks that all finish without a finding clear their drops, and nothing else changes. -/
theorem checks_done {l : List Nat} (h : ∀ n ∈ l, done.getLsbD (n - 1) = true ∧ failed.getLsbD (n - 1) = false) :
    ∃ d, l.foldl (checkStep done failed unit) s = withDrops s d ∧ ∀ i, tgetD d i 0 = if i ∈ l then 0 else tgetD s.sark.drops i 0 := by
  induction l generalizing s with
  | nil => exact ⟨s.sark.drops, rfl, fun i => rfl⟩
  | cons n l ih =>
    obtain ⟨hd, hf⟩ := h n (.head l)
    obtain ⟨d, hfold, hdrops⟩ := ih (withDrops s (tset s.sark.drops n 0)) fun m hm => h m (.tail _ hm)
    refine ⟨d, ?_, fun i => ?_⟩
    · rw [List.foldl_cons, checkStep, hd, hf, runCheck_done, hfold]
      rfl
    · rw [hdrops]
      change (if i ∈ l then 0 else tgetD (tset s.sark.drops n 0) i 0) = _
      rw [tgetD_tset]
      by_cases hi : i ∈ l <;> by_cases hn : i = n <;> simp [hi, hn]

/-- Checks that are all dropped, none for the third time in a row, are each counted. -/
theorem checks_dropped {l : List Nat} (hl : l.Nodup) (h : ∀ n ∈ l, done.getLsbD (n - 1) = false ∧ tgetD s.sark.drops n 0 < 2) (i : Nat) :
    tgetD (l.foldl (checkStep done failed unit) s).sark.drops i 0 = tgetD s.sark.drops i 0 + (if i ∈ l then 1 else 0) ∧
      dval (l.foldl (checkStep done failed unit) s) 0x1002 i = if i ∈ l then min 0xFFFFFFFF (dval s 0x1002 i + 1) else dval s 0x1002 i := by
  induction l generalizing s with
  | nil => exact ⟨rfl, rfl⟩
  | cons n l ih =>
    obtain ⟨hn, hl⟩ := List.nodup_cons.mp hl
    obtain ⟨hd, hk⟩ := h n (.head l)
    have hstep : checkStep done failed unit s n = countDrop s n := by rw [checkStep, hd, runCheck_dropped, if_neg (by omega)]
    rw [List.foldl_cons, hstep]
    obtain ⟨hdrops, hdval⟩ := ih (countDrop s n) hl fun m hm =>
      ⟨(h m (.tail _ hm)).1, by rw [countDrop_drops, if_neg (ne_of_mem_of_not_mem hm hn)]; exact (h m (.tail _ hm)).2⟩
    rw [hdrops, hdval, countDrop_drops, countDrop_dval]
    by_cases hi : i = n
    · subst hi; simp [hn]
    · simp [hi]

/-- A period in which every check finishes without a finding clears the drops (R475). -/
theorem period_done (hm : s.mg.mode ≠ .off) : ∃ d, period s 0xFF 0 unit = withDrops (aged s) d ∧ ∀ i, 1 ≤ i ∧ i ≤ 8 → tgetD d i 0 = 0 := by
  obtain ⟨d, hfold, hd⟩ := checks_done (aged s) 0xFF 0 unit (l := checkOrder s) fun n hn => by
    obtain ⟨h1, h8⟩ := (mem_checkOrder s n).mp hn
    interval_cases n <;> decide
  exact ⟨d, (period_eq _ _ _ _ hm).trans hfold, fun i hi => (hd i).trans (if_pos ((mem_checkOrder s i).mpr hi))⟩

/-- A period in which every check is dropped, none for the third time in a row, counts each (R475). -/
theorem period_dropped (hm : s.mg.mode ≠ .off) (hd : ∀ i, tgetD s.sark.drops i 0 < 2) {i : Nat} (hi : 1 ≤ i ∧ i ≤ 8) :
    tgetD (period s 0 0 unit).sark.drops i 0 = tgetD s.sark.drops i 0 + 1 ∧
      dval (period s 0 0 unit) 0x1002 i = min 0xFFFFFFFF (dval s 0x1002 i + 1) := by
  obtain ⟨hdrops, hdval⟩ := checks_dropped (aged s) 0 0 unit (nodup_checkOrder s) (fun n _ => ⟨BitVec.getLsbD_zero, hd n⟩) i
  rw [if_pos ((mem_checkOrder s i).mpr hi)] at hdrops hdval
  rw [period_eq _ _ _ _ hm]
  exact ⟨hdrops, hdval⟩

end

/-! ### The third drop in a row (R475) -/

section
variable {s : State} (hm : s.mg.mode = .service) (ht : s.mg.trans = none)
include hm ht

/-- The check that never answers is recorded, and begins DEGRADED unless its class takes the device to SAFE (R475, R479). -/
theorem report_thirdDrop (hsafe : dval s 0x1001 0x0E ≠ 1) : ∃ t, report s 0x0F 8 0 0 = t ∧ Recorded s t 0x0F 8 ∧ Towards t .degraded ∧
    t.sark.drops = s.sark.drops := by
  have hrep : report s 0x0F 8 0 0 = dropReaction (logFault s 0x0F (dropCode s 0x0E) 8 0xFFFF 0 (toBytes 0 8)) 0x0E := by
    simp [report, hm, wakeDevice_idle hm ht, knownClass, checkClass]
  have hlog := Calm.logFault s 0x0F (dropCode s 0x0E) 8 0xFFFF 0 (toBytes 0 8)
  have hrec := recorded_logFault s 0x0F (dropCode s 0x0E) 8 0xFFFF 0 (toBytes 0 8)
  obtain ⟨_, _, hsark, -⟩ := logFault_sark s 0x0F (dropCode s 0x0E) 8 0xFFFF 0 (toBytes 0 8)
  rw [hrep]
  generalize logFault s 0x0F (dropCode s 0x0E) 8 0xFFFF 0 (toBytes 0 8) = v at hlog hrec hsark ⊢
  have hreact : dval v 0x1001 0x0E ≠ 1 := by rwa [hlog.dval (by decide)]
  have hgo : dropReaction v 0x0E = toDegraded v := by simp [dropReaction, safeClass, hreact]
  rw [hgo, toDegraded_begins (hlog.mode.trans hm) (hlog.trans hm ht)]
  exact ⟨_, rfl, hrec, ⟨_, rfl, rfl⟩, by rw [hsark]⟩

/-- A period in which the other checks finish, and the eighth is dropped for the third time (R475). -/
theorem period_thirdDrop (hd : ∀ i, 1 ≤ i → i ≤ 7 → tgetD s.sark.drops i 0 = 0) (h8 : tgetD s.sark.drops 8 0 = 2) (hsafe : dval s 0x1001 0x0E ≠ 1)
    (unit : Nat) : ∃ t, period s 0x7F 0 unit = t ∧ Recorded s t 0x0F 8 ∧ Towards t .degraded ∧ tgetD t.sark.drops 8 0 = 3 := by
  have horder : checkOrder s = [8, 1, 2, 3, 4, 5, 6, 7] := by
    simp [checkOrder, List.range_succ, hd 1, hd 2, hd 3, hd 4, hd 5, hd 6, hd 7, h8]
  have hfirst : checkStep 0x7F 0 unit (aged s) 8 = report (countDrop (aged s) 8) 0x0F 8 0 0 := by
    have hthird : (tgetD (aged s).sark.drops 8 0 + 1) % 3 = 0 := by rw [show tgetD (aged s).sark.drops 8 0 = 2 from h8]
    rw [checkStep, show (0x7F : BitVec 8).getLsbD (8 - 1) = false by decide, runCheck_dropped, if_pos hthird]
  have hcode : dval (countDrop (aged s) 8) 0x1001 0x0E = dval s 0x1001 0x0E := dval_setDval_ne _ _ (by decide)
  have hcount : tgetD (countDrop (aged s) 8).sark.drops 8 0 = 3 := by
    rw [countDrop_drops, if_pos rfl, show tgetD (aged s).sark.drops 8 0 = 2 from h8]
  obtain ⟨v, hv, hrec, htow, hdrops⟩ := report_thirdDrop (s := countDrop (aged s) 8) hm ht (by rwa [hcode])
  obtain ⟨d, hrest, hd'⟩ := checks_done v 0x7F 0 unit (l := [1, 2, 3, 4, 5, 6, 7]) (by decide)
  rw [period_eq _ _ _ _ (by rw [hm]; decide), horder, List.foldl_cons, hfirst, hv, hrest]
  refine ⟨_, rfl, .congr (s' := countDrop (aged s) 8) rfl rfl rfl hrec, htow, ?_⟩
  exact (hd' 8).trans (by rw [if_neg (by decide), hdrops, hcount])

end

end Sys2Proof.Claims
end

section
/-! PROOFS. Self-tests, temperatures and limits, wear, substitution and injected errors. -/

namespace Sys2Proof.Claims

open Sys2Proof.Machine

/-! ### The rotating self-test (R473) -/

section
variable {s : State} {c slot : Nat}

theorem testStart_free (hlive : coreLive s c = true) (hon : (s.tile (tileOf c)).power = .on) (hnone : (s.core c).testing = none)
    (hrun : ficRuns s.mg.mode = true) (hslot : freeSlot (s.core c) = some slot) :
    testStart s c = s.setCore c { s.core c with testing := some slot } := by
  simp [testStart, hlive, hon, hnone, hrun, hslot]

/-- The slot that a test gives back takes the next ready context. -/
def testEnded (s : State) (c : Nat) : State := s.setCore c (fillSlot { s.core c with testing := none })

theorem testResult_ok (h : (s.core c).testing = some slot) : testResult s c true = testEnded s c := by
  rw [testResult, h]
  rfl

theorem testResult_failed (h : (s.core c).testing = some slot) : testResult s c false = report (testEnded s c) 0x0E c 0 0 := by
  rw [testResult, h]
  rfl

theorem testResult_none (h : (s.core c).testing = none) (ok : Bool) : testResult s c ok = s := by
  rw [testResult, h]
  rfl

/-- A core that fails its test dies as one whose watchdog expires does (R473, R476). -/
theorem testResult_kills {j : Nat} (h : (s.core c).testing = some slot) (hm : s.mg.mode = .service) (hlive : coreLive s c = true)
    (hj : spareSite s (tileOf c) = some j) : ∃ t, testResult s c false = t ∧ Cleared s t c ∧ Recorded s t 0x0E c := by
  have hcore : ∀ k, ∃ l x, (testEnded s c).core k = { s.core k with swaps := l, testing := x } := fun k => by
    by_cases hk : k = c
    · obtain ⟨l, hl⟩ := fillSlot_eq { s.core c with testing := none }
      subst hk
      exact ⟨_, _, (State.core_setCore_same _ _ _).trans hl⟩
    · exact ⟨_, _, State.core_setCore_ne _ _ hk⟩
  have hlife : ∀ k, ((testEnded s c).core k).life = (s.core k).life := fun k => by obtain ⟨_, _, h⟩ := hcore k; rw [h]
  have hsite : ∀ k, ((testEnded s c).core k).site = (s.core k).site := fun k => by obtain ⟨_, _, h⟩ := hcore k; rw [h]
  have hdead : ∀ k, ((testEnded s c).core k).dead = (s.core k).dead := fun k => by obtain ⟨_, _, h⟩ := hcore k; rw [h]
  obtain ⟨t, ht, ⟨hd, hcleared⟩, -, -, hrec⟩ := report_core_spare (s := testEnded s c) (cls := 0x0E) hm
    ((coreLive_congr hlife hdead (fun _ => rfl) c).trans hlive) (.inr rfl) 0 0 ((spareSite_congr hlife hsite _).trans hj)
  exact ⟨t, (testResult_failed h).trans ht, ⟨hd, hcleared⟩, hrec⟩
end

/-! ### Temperatures and limits (R449) -/

/-- The state with a tile's reading and the package power recorded. -/
def sampled (s : State) (unit : Nat) (temp power : BitVec 16) : State := setDval (setDval s 0x0400 0x43 power.toNat) 0x1801 (unit + 1) temp.toNat

section
variable {s : State} {unit : Nat} (temp power : BitVec 16)

theorem sampled_temp : dval (sampled s unit temp power) 0x1801 (unit + 1) = temp.toNat := dval_setDval_same _ _ _ _

theorem sampled_power : dval (sampled s unit temp power) 0x0400 0x43 = power.toNat :=
  (dval_setDval_ne _ _ (by omega)).trans (dval_setDval_same _ _ _ _)

theorem sampled_crit : dval (sampled s unit temp power) 0x0400 0x41 = dval s 0x0400 0x41 :=
  (dval_setDval_ne _ _ (by omega)).trans (dval_setDval_ne _ _ (by omega))

/-- A tile's sample is recorded, and one at tj_crit is reported (R449). -/
theorem sample_tile (hm : s.mg.mode ≠ .off) : sample s 0 unit temp power =
    if (BitVec.ofNat 16 (dval s 0x0400 0x41)).sle temp = true then report (sampled s unit temp power) 0x0D unit 0 0 else sampled s unit temp power := by
  have hs : sample s 0 unit temp power = if (0 : Nat) ≠ 3 ∧ (BitVec.ofNat 16 (dval (sampled s unit temp power) 0x0400 0x41)).sle temp = true then
      report (sampled s unit temp power) 0x0D unit 0 0 else sampled s unit temp power := if_neg hm
  rw [hs, sampled_crit]
  simp
end

/-- A tile's limit is set, and its PLL relocks when that changes the clock of a tile that runs (R447, R449). -/
def Limited (s t : State) (k : Nat) (v : BitVec 8) : Prop :=
  t.tile k = { s.tile k with limit := v, relock := (s.tile k).relock || (((s.tile k).power == .on || (s.tile k).power == .nap) &&
    decide (min (dval s 0x0400 (k + 1)) v.toNat ≠ min (dval s 0x0400 (k + 1)) (s.tile k).limit.toNat)) } ∧ ∀ i, i ≠ k → t.tile i = s.tile i

section
variable (s : State) (k : Nat)

/-- What a change of the effective clock leaves of the tile (R447). -/
theorem tile_relock (old : State) : (relock old s k).tile k = { s.tile k with
    relock := (s.tile k).relock || (((s.tile k).power == .on || (s.tile k).power == .nap) && decide (effClock s k ≠ effClock old k)) } := by
  by_cases h : effClock s k ≠ effClock old k ∧ ((s.tile k).power = .on ∨ (s.tile k).power = .nap)
  · have hb : (((s.tile k).power == .on || (s.tile k).power == .nap) && decide (effClock s k ≠ effClock old k)) = true := by simpa [and_comm] using h
    rw [relock, if_pos h, State.tile_modTile_same, hb, Bool.or_true]
  · have hb : (((s.tile k).power == .on || (s.tile k).power == .nap) && decide (effClock s k ≠ effClock old k)) = false := by
      rw [← Bool.not_eq_true]
      simpa [and_comm] using h
    rw [relock, if_neg h, hb, Bool.or_false]

theorem tile_relock_ne (old : State) {i : Nat} (h : i ≠ k) : (relock old s k).tile i = s.tile i := by
  unfold relock
  split
  · exact State.tile_modTile_ne _ _ h
  · rfl

theorem limited_relock (v : BitVec 8) : Limited s (relock s (s.modTile k fun x => { x with limit := v }) k) k v := by
  refine ⟨?_, fun i hi => (tile_relock_ne _ _ _ hi).trans (State.tile_modTile_ne _ _ hi)⟩
  rw [tile_relock]
  simp only [effClock, State.tile_modTile_same]
  rfl

/-- A hot tile, or one of a package over its power cap, is slowed by a step (R449). -/
theorem throttle_down (hot : (BitVec.ofNat 16 (dval s 0x0400 0x40)).sle (BitVec.ofNat 16 (dval s 0x1801 (k + 1))) = true ∨
    dval s 0x0400 0x42 < dval s 0x0400 0x43) (hl : 8 < (s.tile k).limit.toNat) : Limited s (throttle s k false) k ((s.tile k).limit - 1) := by
  have hcond : ((BitVec.ofNat 16 (dval s 0x0400 0x40)).sle (BitVec.ofNat 16 (dval s 0x1801 (k + 1))) ||
      decide (dval s 0x0400 0x42 < dval s 0x0400 0x43)) = true := by
    simpa using hot
  have hgo : throttle s k false = relock s (s.modTile k fun x => { x with limit := (s.tile k).limit - 1 }) k := by
    simp only [throttle, hcond, hl]
    rfl
  rw [hgo]
  exact limited_relock s k _

/-- A cool tile of a package well below its power cap is sped up by a step (R449). -/
theorem throttle_up (hcool : (BitVec.ofNat 16 (dval s 0x1801 (k + 1))).sle (BitVec.ofNat 16 (dval s 0x0400 0x40) - 80) = true ∧
    100 * dval s 0x0400 0x43 ≤ 95 * dval s 0x0400 0x42) (hl : (s.tile k).limit.toNat < 22) : Limited s (throttle s k true) k ((s.tile k).limit + 1) := by
  have hgo : throttle s k true = relock s (s.modTile k fun x => { x with limit := (s.tile k).limit + 1 }) k := by
    simp only [throttle, hcool.1, hcool.2, hl]
    rfl
  rw [hgo]
  exact limited_relock s k _
end

/-- What a table lists for a number, after a change of every value. -/
theorem tget_map_snd {α β : Type} (f : α → β) : ∀ (l : Tbl α) (i : Nat), tget (l.map fun e => (e.1, f e.2)) i = (tget l i).map f
  | [], _ => rfl
  | (j, v) :: l, i => by
    by_cases h : j = i
    · simp [tget, h]
    · simp [tget, h, tget_map_snd f l i]

/-- THERMTRIP_N stops the clocks of a tile that has power. -/
def tripped (t : Tile) : Tile := if t.power == Power.off then t else { t with power := .retention }

theorem tripped_power (l : Tbl Tile) (i : Nat) :
    (tgetD (l.map fun t => (t.1, tripped t.2)) i {}).power = if (tgetD l i {}).power = .off then .off else .retention := by
  rw [tgetD, tget_map_snd, tgetD]
  cases tget l i with
  | none => rfl
  | some t => by_cases h : t.power = .off <;> simp [tripped, h]

/-! ### Wear, substitution (R485 to R487) -/

theorem logWear_sark (s : State) (unit site : Nat) : (logWear s unit site).sark.bankPend = s.sark.bankPend := by
  obtain ⟨_, _, h, -⟩ := logFault_sark s ((Config.freeValue s.free 31).toNat % 256) 4 unit site 0 []
  exact (congrArg Sark.bankPend h :)

section
variable {s : State} {c : Nat} (hm : s.mg.mode = .service)
include hm

/-- A worn core's substitution begins: it halts, its caches drain, and nothing that its contexts do changes that (R487). -/
theorem wear_core (hlive : coreLive s c = true) (hsub : (s.core c).subst = false) (hon : (s.tile (tileOf c)).power = .on)
    (hspare : (spareSite s (tileOf c)).isSome = true) :
    ∃ t, wear s 0 c = t ∧ (t.core c).subst = true ∧ (t.core c).halting = true ∧ (t.core c).draining = true ∧ (t.core c).l1i = [] := by
  have hgo : wear s 0 c = beginSubst (logWear s c (siteOf s c)) c := by simp [wear, hm, issuing, hlive, hsub, hon, hspare]
  rw [hgo, beginSubst]
  have hv := State.core_modCore_same (logWear s c (siteOf s c)) c fun x => { x with halting := true, subst := true, draining := true, l1i := [] }
  generalize (logWear s c (siteOf s c)).modCore c _ = v at hv ⊢
  have hswaps := Calm.foldl (l := (v.core c).slots) (f := fun s e => if (s.ctx e.2).dir.state = .active ∧ !(s.ctx e.2).stopped then swapOutReady s e.2 else s)
    (fun e _ t => .ite (.swapOutReady t e.2) (.refl t)) v
  refine ⟨_, rfl, ?_⟩
  rw [hswaps.core c, hv]
  exact ⟨rfl, rfl, rfl, rfl⟩

/-- The first worn set of a slice loses a way (R486). -/
theorem wear_way {k : Nat} (hk : k < 32) (hdead : (s.tile k).dead = false) (hon : (s.tile k).power = .on) (hw : tgetD (s.tile k).waysOut 0 0 = 0) :
    ∃ t, wear s 2 k = t ∧ tgetD (t.tile k).waysOut 0 0 = 1 := by
  have hk' : k % 32 = k ∧ k / 32 = 0 := by omega
  have hgo : wear s 2 k = logWear ((l2Room s k 0).modTile k fun x => { x with waysOut := tset x.waysOut 0 1 }) k 0xFFFF := by
    simp [wear, hm, issuing, hk', hdead, hon, hw]
  refine ⟨_, hgo, ?_⟩
  rw [(Calm.logWear _ _ _).tile k, State.tile_modTile_same]
  exact tgetD_tset_same _ _ _ _

/-- A worn bank awaits its substitution in QUIESCE (R486). -/
theorem wear_bank {n : Nat} (hc : c < 256) (hn : n < 10) (hnew : (siteOf s c, n) ∉ s.sark.bankPend) :
    ∃ t, wear s 3 (16 * c + n) = t ∧ t.sark.bankPend = s.sark.bankPend ++ [(siteOf s c, n)] := by
  have hu : (16 * c + n) / 16 % 256 = c ∧ (16 * c + n) % 16 = n := by omega
  have hmode : (logWear s (16 * c + n) 0xFFFF).mg.mode ≠ .quiesce := by
    rw [(Calm.logWear _ _ _).mode, hm]
    decide
  have hgo : wear s 3 (16 * c + n) = { logWear s (16 * c + n) 0xFFFF with sark := { (logWear s (16 * c + n) 0xFFFF).sark with
      bankPend := (logWear s (16 * c + n) 0xFFFF).sark.bankPend ++ [(siteOf s c, n)] } } := by
    simp [wear, hu, hnew, hmode, Nat.not_le.mpr hn]
  exact ⟨_, hgo, by rw [logWear_sark]⟩
end

/-- A core whose substitution ends: it is on the spare site, with its caches as after a reset (R487). -/
def onSpare (site : Nat) (halting : Bool) (x : Core) : Core :=
  { takenOver site x with subst := false, halting := halting, bypass := x.cfg.getLsbD 0, l1i := [] }

/-- A substitution ends: the core goes on at the spare site, and its queue and the contexts are as they were (R487). -/
theorem substDone_ends {s : State} {c j : Nat} (hsub : (s.core c).subst = true) (hdrain : (s.core c).draining = false) (hslots : (s.core c).slots = [])
    (hswaps : (s.core c).swaps = []) (hfic : (s.core c).fic.mode = .idle) (hdead : (s.core c).dead = false) (hj : spareSite s (tileOf c) = some j) :
    ∃ t, substDone s c = t ∧ (t.core c).life = .substituted ∧ (t.core c).site = some (9 * tileOf c + j) ∧ (t.core c).subst = false ∧
      (t.core c).halting = !issuing s.mg.mode ∧ (t.core c).readyQ = (s.core c).readyQ ∧ t.ctxs = s.ctxs := by
  obtain ⟨l, hl⟩ := fillSlot_eq (onSpare (9 * tileOf c + j) (!issuing s.mg.mode) (s.core c))
  have hgo : substDone s c = persist (s.setCore c (fillSlot (onSpare (9 * tileOf c + j) (!issuing s.mg.mode) (s.core c)))) 1
      (coreMap (s.setCore c (fillSlot (onSpare (9 * tileOf c + j) (!issuing s.mg.mode) (s.core c))))) := by
    have hgate : ¬ ((!(s.core c).subst) = true ∨ (s.core c).draining = true ∨ (s.core c).slots ≠ [] ∨ (s.core c).swaps ≠ [] ∨
        (s.core c).fic.mode ≠ .idle ∨ (s.core c).dead = true) := by simp [hsub, hdrain, hslots, hswaps, hfic, hdead]
    refine (if_neg hgate).trans ?_
    rw [hj]
    rfl
  have hcore : (substDone s c).core c = _ := (congrArg (State.core · c) hgo).trans ((State.core_setCore_same _ _ _).trans hl)
  refine ⟨_, rfl, ?_⟩
  rw [hcore, hgo]
  exact ⟨rfl, rfl, rfl, rfl, rfl, rfl⟩

end Sys2Proof.Claims
end

section
/-! PROOFS. O60, from the lemmas about each of its commands. -/

open Sys2Proof Sys2Proof.Machine Sys2Proof.Claims

/-- Settles O60: each clause is the lemma about its command. -/
theorem faultsAndSpares : Obligations.FaultsAndSpares := by
  intro s core clk cls what rail unit addr det v j n slot tile temp power ok c x svc logged towards stops cleared hot cool l freq limited
  have hc : c < 256 := core.isLt
  refine ⟨?_, ?_, ?_, ?_, ?_, ?_, ?_, ?_, ?_, ?_, ?_, ?_, ?_, ?_, ?_, ?_, ?_, ?_, ?_, ?_, ?_, ?_, ?_⟩
  -- Reports of CLOCK, VOLTAGE, REFUSED, SPARE_EXHAUSTED, a lockup and CACHE_UE.
  · rintro ⟨hm, ht⟩
    have hsafe : ∀ {cls : Nat}, cls ∈ [0x0B, 0x0C, 0x0D, 0x12] → ∀ unit addr det,
        Recorded s (report s cls unit addr det).tick (BitVec.ofNat 8 cls) unit ∧ stops (report s cls unit addr det).tick (BitVec.ofNat 8 cls) := fun h unit addr det => report_stops hm ht h unit addr det
    refine ⟨⟨_, gives_of_eq rfl (if_pos (by rw [hm]; rfl)), hsafe (by decide) _ _ _⟩, ⟨_, rfl, hsafe (by decide) _ _ _⟩,
      ⟨_, rfl, hsafe (by decide) _ _ _⟩,
      ⟨_, rfl, report_degrades hm ht _ _ _⟩, ⟨_, rfl, report_lockup hm ht _ _ _⟩, ⟨_, rfl, report_records hm ht _ _ _⟩⟩
  -- An unknown class.
  · exact fun h => gives_of_eq rfl (report_unknown s h _ _ _)
  -- The watchdog, with a spare site.
  · intro hm hlive hj
    obtain ⟨t, rfl, h⟩ := report_core_spare hm hlive (.inl rfl) 0 (what.setWidth 64) hj
    exact ⟨_, rfl, h⟩
  -- The watchdog, without one.
  · intro hm hlive hj
    obtain ⟨t, rfl, h⟩ := report_core_retired hm hlive (.inl rfl) 0 (what.setWidth 64) hj
    exact ⟨_, rfl, h⟩
  -- A dead core is reclaimed, or a live one is not.
  · intro hdead hsf hmesh
    obtain ⟨t, hgo, hcore, hmem, hmesh'⟩ := reclaimed_unnamed hsf hmesh
    refine ⟨_, gives_of_eq rfl ((if_pos hdead).trans hgo), congrArg Core.l1d hcore, congrArg Core.stores hcore,
      congrArg Core.dead hcore, hmem, fun m hm => ?_⟩
    obtain ⟨hm, hne⟩ := List.mem_filter.mp (hmesh' ▸ hm)
    exact ⟨hm, by simpa using hne⟩
  · exact fun h => gives_of_eq rfl (if_neg (by rw [show (s.core core.toNat).dead = false from h]; nofun))
  -- Periods in which all checks finish, or none does.
  · intro hm
    refine ⟨?_, fun hd => ?_⟩
    · obtain ⟨d, hgo, hd⟩ := period_done s unit.toNat hm
      exact ⟨_, gives_of_eq rfl hgo, rfl, rfl, fun i h1 h8 => hd i ⟨h1, h8⟩⟩
    · exact ⟨_, rfl, fun i h1 h8 => period_dropped s unit.toNat hm hd ⟨h1, h8⟩⟩
  -- The third drop in a row.
  · rintro ⟨hm, ht⟩ hd h8 hsafe
    obtain ⟨t, rfl, h⟩ := period_thirdDrop hm ht hd h8 hsafe unit.toNat
    exact ⟨_, rfl, h⟩
  -- The self-test: its start, a pass, a failure, and a result without a test.
  · exact fun hlive hon hnone hrun hslot => gives_of_eq rfl (testStart_free hlive hon hnone hrun hslot)
  · exact fun h => gives_of_eq rfl (testResult_ok h)
  · intro h hm hlive hj
    obtain ⟨t, rfl, h⟩ := testResult_kills h hm hlive hj
    exact ⟨_, rfl, h⟩
  · exact fun h => gives_of_eq rfl (testResult_none h ok)
  -- A temperature below tj_crit, and one at it.
  · intro hm hbelow
    refine ⟨_, gives_of_eq rfl ((sample_tile temp power hm).trans (if_neg (by rw [hbelow]; nofun))), sampled_temp temp power, sampled_power temp power, rfl⟩
  · rintro ⟨hm, ht⟩ hcrit
    have hgo : sample s 0 tile.toNat temp power = _ := (sample_tile temp power (by rw [hm]; decide)).trans (if_pos hcrit)
    obtain ⟨hrec, hstop⟩ := report_stops (s := sampled s tile.toNat temp power) hm ht (cls := 0x0D) (by decide) tile.toNat 0 0
    exact ⟨_, gives_of_eq rfl hgo, hrec, hstop⟩
  -- A tile's limit, down and up.
  · exact fun hhot hl => ⟨_, rfl, throttle_down s tile.toNat hhot hl⟩
  · exact fun hcool hl => ⟨_, rfl, throttle_up s tile.toNat hcool hl⟩
  -- THERMTRIP_N.
  · exact ⟨_, rfl, rfl, rfl, rfl, fun i => tripped_power s.tiles i⟩
  -- Wear of a core, of a way and of a bank.
  · intro hm hlive hsub hon hspare
    obtain ⟨t, hgo, h⟩ := wear_core hm hlive hsub hon hspare
    have hu : (core.setWidth 16).toNat = c := by rw [BitVec.toNat_setWidth, Nat.mod_eq_of_lt (by omega)]
    exact ⟨_, gives_of_eq rfl ((congrArg (wear s 0) hu).trans hgo), h⟩
  · intro hm hdead hon hw
    obtain ⟨t, hgo, h⟩ := wear_way hm tile.isLt hdead hon hw
    have hu : (tile.setWidth 16).toNat = tile.toNat := by rw [BitVec.toNat_setWidth, Nat.mod_eq_of_lt (by omega)]
    exact ⟨_, gives_of_eq rfl ((congrArg (wear s 2) hu).trans hgo), h⟩
  · intro hm hn hnew
    obtain ⟨t, hgo, h⟩ := wear_bank hm hc hn hnew
    have hu : (BitVec.ofNat 16 (16 * c + n)).toNat = 16 * c + n := by rw [BitVec.toNat_ofNat, Nat.mod_eq_of_lt (by omega)]
    exact ⟨_, gives_of_eq rfl ((congrArg (wear s 3) hu).trans hgo), h⟩
  -- The end of a substitution.
  · intro hsub hdrain hslots hswaps hfic hdead hj
    obtain ⟨t, rfl, h⟩ := substDone_ends hsub hdrain hslots hswaps hfic hdead hj
    exact ⟨_, rfl, h⟩
  -- An injection, accepted and refused.
  · exact fun h => gives_of_eq rfl (if_pos h)
  · exact fun h => gives_of_eq rfl (if_neg (by simp [injOk, h]))
end

section
set_option Elab.async false
/-! PROOFS. Memory traffic leaves the channels of Valley alone: each function that a read by an agent without caches can set off has one
lemma, which cites those of the functions that it calls. They stand in the order of the model's files. -/

namespace Sys2Proof.Claims

open Sys2Proof.Machine

theorem foldl_chans {α : Type} {f : State → α → State} (hf : ∀ s a, (f s a).chans = s.chans) (l : List α) (s : State) :
    (l.foldl f s).chans = s.chans := by
  induction l generalizing s with
  | nil => rfl
  | cons a l ih => exact (ih (f s a)).trans (hf s a)

/-! ### Transitions, doorbells, interrupts and the fault log -/
theorem setDval_chans {s i j v} : (setDval s i j v).chans = s.chans := rfl
theorem beginTrans_chans {s m b} : (beginTrans s m b).chans = s.chans := by
  grind [beginTrans]
theorem wakeDevice_chans {s} : (wakeDevice s).chans = s.chans := by
  grind [wakeDevice, beginTrans_chans]
theorem wakeTile_chans {s t} : (wakeTile s t).chans = s.chans := by
  grind [wakeTile, State.modTile_chans]
theorem makeReady_chans {s n} : (makeReady s n).chans = s.chans := by
  grind [makeReady, wakeTile_chans, State.modCore_chans, State.modCtx_chans]
theorem endWait_chans {s n} : (endWait s n).chans = s.chans := by
  grind [endWait, makeReady_chans, State.setCtx_chans, State.modCore_chans, State.modCtx_chans]
theorem movedNotice_chans {s w i g j h} : (movedNotice s w i g j h).chans = s.chans := by
  grind [movedNotice, State.setWorld_chans]
theorem ringBits_chans {s n ev} : (ringBits s n ev).chans = s.chans := by
  grind [ringBits, discardRing, countUp, forwardDoorbell, sendMsg, setDval_chans, wakeDevice_chans, wakeTile_chans, movedNotice_chans, endWait_chans, State.setCtx_chans]
theorem pendFic_chans {s k src v} : (pendFic s k src v).chans = s.chans := by
  grind [pendFic, wakeTile_chans, State.modCore_chans]
theorem seqEvent_chans {s k ev} : (seqEvent s k ev).chans = s.chans := by
  grind [seqEvent, State.setSq_chans]
theorem signal_chans {s src v} : (signal s src v).chans = s.chans := by
  grind [signal, wakeDevice_chans, pendFic_chans, seqEvent_chans, ringBits_chans]
theorem msix_chans {s v} : (msix s v).chans = s.chans := by
  grind [msix]
theorem logFault_chans {s cls react unit site addr detail} : (logFault s cls react unit site addr detail).chans = s.chans := by
  grind [logFault, countUp, setDval_chans, signal_chans, msix_chans]
theorem countOne_chans {k who ev s j} : (countOne k who ev s j).chans = s.chans := by
  grind [countOne, pendFic_chans, State.setCore_chans]
theorem countEvent_chans {s k who ev} : (countEvent s k who ev).chans = s.chans := by
  grind [countEvent, countOne_chans, foldl_chans]
/-! ### Codewords -/
theorem setMemLine_chans {s line l} : (setMemLine s line l).chans = s.chans := rfl
theorem mcEvent_chans {s mc bit} : (mcEvent s mc bit).chans = s.chans := by
  grind [mcEvent, signal_chans, State.setMc_chans]
theorem toDegraded_chans {s} : (toDegraded s).chans = s.chans := by
  grind [toDegraded, beginTrans_chans]
theorem spareExhausted_chans {s bit unit} : (spareExhausted s bit unit).chans = s.chans := by
  grind [spareExhausted, toDegraded_chans, logFault_chans, setDval_chans]
theorem setUnit_chans {s mc unit st clear} : (setUnit s mc unit st clear).chans = s.chans := by
  grind [setUnit, mcEvent_chans, persist, State.setMc_chans]
theorem setGroupSt_chans {s mc group st} : (setGroupSt s mc group st).chans = s.chans := by
  grind [setGroupSt, mcEvent_chans, persist, State.setMc_chans]
theorem groupRetiring_chans {s mc group} : (groupRetiring s mc group).chans = s.chans := by
  grind [groupRetiring, setGroupSt_chans, spareExhausted_chans]
theorem suspectUnit_chans {s mc k} : (suspectUnit s mc k).chans = s.chans := by
  grind [suspectUnit, setUnit_chans, State.setMc_chans]
theorem countUnit_chans {s p u} : (countUnit s p u).chans = s.chans := by
  grind [countUnit, suspectUnit_chans, State.setMc_chans]
theorem retireGroup_chans {s mc group} : (retireGroup s mc group).chans = s.chans := by
  grind [retireGroup, groupRetiring_chans]
theorem countUe_chans {s p pair} : (countUe s p pair).chans = s.chans := by
  grind [countUe, retireGroup_chans, State.setMc_chans]
theorem replaceLine_chans {s p line ev} : (replaceLine s p line ev).chans = s.chans := by
  grind [replaceLine, setMemLine_chans]
theorem applyErr_chans {s pair e} : (applyErr s pair e).chans = s.chans := by
  unfold applyErr
  split <;> rfl
theorem injectPair_chans {s pair} : (injectPair s pair).chans = s.chans := by
  grind [injectPair]
theorem corrected_chans {s p fixes} : (corrected s p fixes).chans = s.chans := by
  grind [corrected, countUnit_chans, foldl_chans, State.setMc_chans]
theorem uncorrected_chans {s p lpa} : (uncorrected s p lpa).chans = s.chans := by
  grind [uncorrected, logFault_chans, mcEvent_chans, State.setMc_chans]
theorem readPair_chans {s pair} : (readPair s pair).chans = s.chans := by
  grind [readPair, injectPair_chans, applyErr_chans, corrected_chans, replaceLine_chans, countUe_chans, uncorrected_chans]
theorem writeMemLine_chans {s line l} : (writeMemLine s line l).chans = s.chans := by
  grind [writeMemLine, setMemLine_chans, readPair_chans]
/-! ### Caches -/
theorem post_chans {s m} : (post s m).chans = s.chans := by
  grind [post, wakeTile_chans]
theorem recompare_chans {s line} : (recompare s line).chans = s.chans := by
  grind [recompare, endWait_chans, foldl_chans, State.modCtx_chans]
theorem demandRead_chans {s pair} : (demandRead s pair).chans = s.chans := by
  grind [demandRead, recompare_chans, readPair_chans]
theorem storeLine_chans {s line l} : (storeLine s line l).chans = s.chans := by
  grind [storeLine, recompare_chans, writeMemLine_chans]
theorem l1dError_chans {s core line word} : (l1dError s core line word).1.chans = s.chans := by
  grind [l1dError, sarkCount, logFault_chans, State.modCore_chans]
theorem evictL1_chans {s core who line} : (evictL1 s core who line).chans = s.chans := by
  grind [evictL1, l1dError_chans, countEvent_chans, post_chans, State.modCore_chans]
theorem makeRoom_chans {s core who line} : ((makeRoom s core who line).getD s).chans = s.chans := by
  grind [makeRoom, evictL1_chans]
theorem l1dHit_chans {s core who line word} : (l1dHit s core who line word).2.chans = s.chans := by
  grind [l1dHit, l1dError_chans, evictL1_chans]
theorem missWrite_chans {s core who line na} : ((missWrite s core who line na).getD s).chans = s.chans := by
  grind [missWrite, makeRoom_chans, countEvent_chans, post_chans, State.modCore_chans]
/-! ### Lines at their homes -/
theorem l2Evict_chans {s tile line} : (l2Evict s tile line).chans = s.chans := by
  grind [l2Evict, post_chans, storeLine_chans, State.modCore_chans, State.setTile_chans]
theorem l2Room_chans {s tile set} : (l2Room s tile set).chans = s.chans := by
  grind [l2Room, l2Evict_chans, State.setTile_chans]
theorem l2Put_chans {s tile line l} : (l2Put s tile line l).chans = s.chans := by
  grind [l2Put, l2Room_chans, storeLine_chans, State.modTile_chans]
theorem absorb_chans {s line d na} : (absorb s line d na).chans = s.chans := by
  grind [absorb, l2Put_chans, storeLine_chans]
theorem cleanL2_chans {s line drop} : (cleanL2 s line drop).chans = s.chans := by
  grind [cleanL2, storeLine_chans, State.modTile_chans]
theorem setEntry_chans {s line e} : (setEntry s line e).chans = s.chans := by
  grind [setEntry, State.modTile_chans]
theorem answer_chans {s r k d contended} : (answer s r k d contended).chans = s.chans := by
  grind [answer, post_chans]
theorem startRead_chans {s r} : (startRead s r).chans = s.chans := by
  grind [startRead, answer_chans]
theorem injectL2_chans {s h line} : (injectL2 s h line).chans = s.chans := by
  grind [injectL2, sarkCount, logFault_chans, l2Evict_chans, recompare_chans, State.modTile_chans]
theorem fetchData_chans {s x} : (fetchData s x).1.chans = s.chans := by
  grind [fetchData, injectL2_chans, startRead_chans]
theorem sendSnoop_chans {s r x t} : (sendSnoop s r x t).1.chans = s.chans := by
  grind [sendSnoop, injectL2_chans, post_chans, setEntry_chans, State.setTile_chans]
theorem sendSnoops_chans {s r x ts} : (sendSnoops s r x ts).1.chans = s.chans := by
  suffices h : ∀ p : State × Txn, (ts.foldl (fun a t => sendSnoop a.1 r a.2 t) p).1.chans = p.1.chans from h (s, x)
  induction ts with
  | nil => exact fun _ => rfl
  | cons t ts ih => exact fun p => (ih _).trans sendSnoop_chans
theorem openTxn_chans {s r} : (openTxn s r).chans = s.chans := by
  grind [openTxn, answer_chans, sendSnoops_chans, fetchData_chans, setEntry_chans]
theorem stashTo_chans {s core line data} : (stashTo s core line data).chans = s.chans := by
  grind [stashTo, post_chans, setEntry_chans, State.setCore_chans]
theorem wrfWrite_chans {s line data stash} : (wrfWrite s line data stash).chans = s.chans := by
  cases stash <;> grind [wrfWrite, l2Put_chans, storeLine_chans, recompare_chans, stashTo_chans]
theorem homeMerge_chans {s st} : (homeMerge s st).chans = s.chans := by
  grind [homeMerge, injectL2_chans, l2Put_chans, demandRead_chans, storeLine_chans, recompare_chans]
theorem closeTxn_chans {s x} : (closeTxn s x).chans = s.chans := by
  grind [closeTxn, answer_chans, setEntry_chans, recompare_chans, storeLine_chans, l2Put_chans, cleanL2_chans, homeMerge_chans, wrfWrite_chans, State.modTile_chans]
theorem acceptReq_chans {s r t l} (h : acceptReq s r = some (t, l)) : t.chans = s.chans := by
  grind [acceptReq, openTxn_chans, setEntry_chans]
theorem nextPrio_chans {s tile line r t} (h : nextPrio s tile line = some (r, t)) : t.chans = s.chans := by
  have htake : ∀ (p : Req → Bool) (q : List Req) (f : List Req → Tile → Tile),
      (splitAtFirst p q).map (fun a => (a.2.1, s.modTile tile (f (a.1 ++ a.2.2)))) = some (r, t) → t.chans = s.chans := fun p q f e => by
    obtain ⟨a, -, ha⟩ := Option.map_eq_some_iff.mp e
    exact congrArg (fun b => b.2.chans) ha.symm
  unfold nextPrio at h
  dsimp only at h
  split at h
  · next e =>
    split_ifs at e
    exact htake _ _ (fun l x => { x with prioQ := l }) (e.trans h)
  · exact htake _ _ (fun l x => { x with prioQ := l }) h
theorem refuse_chans {s r} : (refuse s r).chans = s.chans := by
  grind [refuse, answer_chans, State.modTile_chans]
/-- A home's work on a line, which its own fuel bounds. -/
theorem homeGo_chans {fuel s line} : (homeGo fuel s line).chans = s.chans := by
  induction fuel generalizing s line with
  | zero => rfl
  | succ fuel ih =>
    rw [homeGo]
    split
    · rfl
    · split_ifs
      · rfl
      · grind [sendSnoops_chans, setEntry_chans]
      · grind [fetchData_chans, setEntry_chans]
      · extract_lets s1 s2
        have hqueued : s2.chans = s.chans := by grind [closeTxn_chans, setEntry_chans, acceptReq_chans, refuse_chans]
        split
        · exact hqueued
        · next h => grind [nextPrio_chans h, acceptReq_chans]
/-! ### The core's side -/
theorem returnCredit_chans {s r} : (returnCredit s r).chans = s.chans := by
  cases r <;> grind [returnCredit, State.modCore_chans]
theorem perfStore_chans {s core st} : (perfStore s core st).chans = s.chans := by
  grind [perfStore, recompare_chans, State.modCore_chans]
theorem sendWrm_chans {s core st} : (sendWrm s core st).chans = s.chans := by
  grind [sendWrm, post_chans, State.modCore_chans]
theorem takeStash_chans {s core who line} : ((takeStash s core who line).getD s).chans = s.chans := by
  have hroom : ((makeRoom (injectL2 s (tileOf core) line) core who line).getD _).chans = _ := makeRoom_chans
  cases h : makeRoom (injectL2 s (tileOf core) line) core who line <;>
    grind [takeStash, injectL2_chans, State.modTile_chans, State.modCore_chans]
theorem doStore_chans {s core st} : (doStore s core st).chans = s.chans := by
  grind [doStore, perfStore_chans, State.modCore_chans]
theorem kickStore_chans {s core st} : (kickStore s core st).chans = s.chans := by
  grind [kickStore, l1dHit_chans, doStore_chans, missWrite_chans, sendWrm_chans, takeStash_chans]
theorem kickStores_chans {s core} : (kickStores s core).chans = s.chans := by
  grind [kickStores, kickStore_chans, foldl_chans]
theorem wakePends_chans {s core f} : (wakePends s core f).chans = s.chans := by
  grind [wakePends, State.modCore_chans]
theorem wakeLine_chans {s core line ifetch d contended early} : (wakeLine s core line ifetch d contended early).chans = s.chans := by
  grind [wakeLine, wakePends_chans, State.modCore_chans]
theorem killFill_chans {s core line} : (killFill s core line).chans = s.chans := by
  grind [killFill, sarkCount, foldl_chans, State.modCore_chans]
theorem fill_chans {s m st} : (fill s m st).chans = s.chans := by
  grind [fill, returnCredit_chans, wakeLine_chans, countEvent_chans, evictL1_chans, killFill_chans, kickStores_chans, State.setCore_chans]
theorem snoopReply_chans {s m k st d fwd na} : (snoopReply s m k st d fwd na).chans = s.chans := by
  grind [snoopReply, post_chans]
theorem forward_chans {s m k d} : (forward s m k d).chans = s.chans := by
  grind [forward, post_chans]
theorem useOnce_chans {s core line ifetch} : (useOnce s core line ifetch).chans = s.chans := by
  grind [useOnce, wakePends_chans, State.modCore_chans]
theorem snoopL1i_chans {s core line} : (snoopL1i s core line).chans = s.chans := by
  grind [snoopL1i, useOnce_chans, State.modCore_chans]
theorem snoopError_chans {s k core line} : (snoopError s k core line).1.chans = s.chans := by
  grind [snoopError, l1dError_chans, State.modCore_chans]
theorem snoopAbsent_chans {s m core line inval i} : (snoopAbsent s m core line inval i).chans = s.chans := by
  cases i <;> grind [snoopAbsent, snoopReply_chans, useOnce_chans]
theorem snoopHeld_chans {s m k core line l} : (snoopHeld s m k core line l).chans = s.chans := by
  unfold snoopHeld
  grind [snoopReply_chans, useOnce_chans, forward_chans, State.modCore_chans]
theorem takeMsg_chans {s p m t} (h : takeMsg s p = some (m, t)) : t.chans = s.chans := by
  grind [takeMsg]
theorem takeFor_chans {s k core line m t} (h : takeFor s k core line = some (m, t)) : t.chans = s.chans := takeMsg_chans h
theorem snoop_chans {s k core line} : (snoop s k core line).chans = s.chans := by
  unfold snoop
  split
  · rfl
  · next h => grind [takeFor_chans h, snoopError_chans, snoopReply_chans, snoopL1i_chans, snoopAbsent_chans, snoopHeld_chans]
theorem snoopAnswer_chans {s k core line} : (snoopAnswer s k core line).chans = s.chans := by
  unfold snoopAnswer
  split
  · rfl
  · next h => grind [takeMsg_chans h, setEntry_chans, absorb_chans, homeGo_chans]
theorem homeWb_chans {s k core line} : (homeWb s k core line).chans = s.chans := by
  unfold homeWb
  split
  · rfl
  · next h => grind [takeMsg_chans h, sarkCount, post_chans, setEntry_chans, absorb_chans, homeGo_chans]
theorem stashRefused_chans {s core line} : (stashRefused s core line).chans = s.chans := by
  unfold stashRefused
  split
  · rfl
  · next h => grind [takeMsg_chans h, setEntry_chans, l2Put_chans, homeGo_chans]
theorem granted_chans {s core line} : (granted s core line).chans = s.chans := by
  unfold granted
  split
  · rfl
  · next h => grind [takeFor_chans h, returnCredit_chans, wakeLine_chans, kickStores_chans, State.modCore_chans]
theorem dataTo_chans {s k st core line} : (dataTo s k st core line).chans = s.chans := by
  unfold dataTo
  split
  · rfl
  · next h => grind [takeFor_chans h, fill_chans]
theorem memArrived_chans {s line} : (memArrived s line).chans = s.chans := by
  grind [memArrived, setEntry_chans, l2Put_chans, homeGo_chans]
/-! ### Reads and translations of an agent -/
theorem deliverMsg_chans {s m} : (deliverMsg s m).chans = s.chans := by
  grind [deliverMsg, snoop_chans, snoopAnswer_chans, stashRefused_chans, homeWb_chans, granted_chans, dataTo_chans]
theorem settleLine_chans {fuel s line} : (settleLine fuel s line).chans = s.chans := by
  induction fuel generalizing s with
  | zero => rfl
  | succ fuel ih => grind [settleLine, deliverMsg_chans, memArrived_chans, demandRead_chans]
theorem reachHome_chans {s line} : (reachHome s line).chans = s.chans := by
  grind [reachHome, settleLine_chans, wakeTile_chans]
theorem agentRead_chans {s key} : (agentRead s key).2.chans = s.chans := by
  grind [agentRead, reachHome_chans, injectL2_chans, demandRead_chans]
theorem tlbInstall_chans {s a e} : (tlbInstall s a e).chans = s.chans := by cases a <;> rfl

section
variable {rd : Reader} (hrd : ∀ k s, (rd k s).2.chans = s.chans)
include hrd

theorem walkLevels_chans {t va addr n fuel l tab dev s} : (walkLevels rd t va addr n fuel l tab dev s).2.chans = s.chans := by
  induction fuel generalizing l tab dev s with
  | zero => rfl
  | succ fuel ih => grind [walkLevels, tlbInstall_chans]

theorem walkRoot_chans {t va addr root s} : (walkRoot rd t va addr root s).2.chans = s.chans := by
  grind [walkRoot, walkLevels_chans, tlbInstall_chans]

theorem walkPrivate_chans {t va s} : (walkPrivate rd t va s).2.chans = s.chans := by
  grind [walkPrivate, walkRoot_chans]
end

theorem walkAgent_chans {tlb w space acc cached va s} : (walkAgent tlb w space acc cached va s).2.chans = s.chans :=
  walkPrivate_chans (rd := agentReader) fun _ _ => agentRead_chans

/-- A channel's read of a word changes no channel. -/
theorem vlRead_chans {s ch va} : (vlRead s ch va).2.chans = s.chans := by
  grind [vlRead, vlXlate, walkAgent_chans, agentRead_chans]

end Sys2Proof.Claims
end

section
/-! PROOFS. Writes of GC, sequencer and channel registers by software of a world that may write them: where the register lies, and what
its write does. -/

namespace Sys2Proof.Claims

open Sys2Proof.Machine

/-! ### Where a register lies (R276, R278) -/

theorem writeReg_permitted {s : State} {w : World} {lpa : Nat} {v : BitVec 64} (hword : lpa % 8 = 0) (hlo : 0x7F000000000 ≤ lpa)
    (hhi : lpa < 0x7F800000000) (hmay : MayWrite s w lpa v) : writeReg s (.world w) lpa v = regWrite s w false none lpa v := by
  obtain ⟨hruns, hok⟩ := hmay
  have hreg : isReg lpa = true := by simp only [isReg, Bool.and_eq_true, decide_eq_true_eq]; omega
  have hin : isOut lpa = false := by simp only [isOut, Bool.and_eq_false_iff, decide_eq_false_iff_not]; omega
  simp [writeReg, hword, hruns, hreg, hin, hok]

section
variable {lpa t p : Nat} (ht : t < 32) (h : lpa = tileBase t + p)
include ht h

/-- The block of a tile: its number and the offset in it. -/
theorem tile_place (hp : p < 2 ^ 24) : lpa / 2 ^ 32 = 0x7F0 ∧ lpa % 2 ^ 32 / 2 ^ 24 = t ∧ lpa % 2 ^ 32 % 2 ^ 24 = p := by
  simp only [tileBase] at h
  omega

theorem regBlk_teasel {o : Nat} (ho : o < 0x10000) (hp : p = 0x800000 + o) : regBlk lpa = .seq (64 + t) o := by
  obtain ⟨hblock, htile, hoff⟩ := tile_place ht h (by omega)
  have hin : 0x800000 ≤ p ∧ p < 0x810000 := by omega
  simp only [regBlk, hblock, htile, hoff, Nat.not_le.mpr ht, hin, and_self, if_true, if_false]
  rw [hp, Nat.add_sub_cancel_left]

theorem regBlk_gc {w : World} {o : Nat} (ho : o < 0x1000) (hp : p = (if w = .sys then 0x880000 else 0x881000) + o) : regBlk lpa = .gc w o := by
  have hlo : 0x880000 + o ≤ p ∧ p < 0x882000 := by split_ifs at hp <;> omega
  obtain ⟨hblock, htile, hoff⟩ := tile_place ht h (by omega)
  have hseq : ¬ (0x800000 ≤ p ∧ p < 0x810000) := by omega
  have hprog : ¬ (0x810000 ≤ p ∧ p < 0x818000) := by omega
  simp only [regBlk, hblock, htile, hoff, Nat.not_le.mpr ht, hseq, hprog, if_false]
  cases w with
  | sys =>
    have hp : p = 0x880000 + o := hp
    rw [if_pos (by omega), hp, Nat.add_sub_cancel_left]
  | job =>
    have hp : p = 0x881000 + o := hp
    rw [if_neg (by omega), if_pos (by omega), hp, Nat.add_sub_cancel_left]
end

theorem regBlk_chan {lpa n o : Nat} (hn : n < 64) (ho : o < 0x1000) (h : lpa = chanBase n + o) : regBlk lpa = .chan n o := by
  simp only [chanBase] at h
  have hblock : lpa / 2 ^ 32 = 0x7F1 := by omega
  have hoff : lpa % 2 ^ 32 = n * 0x1000 + o := by omega
  have hlt : n * 0x1000 + o < 0x40000 := by omega
  have hchan : (n * 0x1000 + o) / 0x1000 = n := by omega
  have hword : (n * 0x1000 + o) % 0x1000 = o := by omega
  simp only [regBlk, hblock, hoff, hlt, hchan, hword, if_true]

theorem regBlk_seq {lpa k o : Nat} (hk : hasCtl k = true) (ho : o < 0x8000) (h : lpa = seqBase k + o) : regBlk lpa = .seq k o := by
  simp only [hasCtl, Bool.and_eq_true, decide_eq_true_eq] at hk
  by_cases h96 : k < 96
  · simp only [seqBase, h96, if_true] at h
    have hnum : 64 + (k - 64) = k := by omega
    rw [regBlk_teasel (t := k - 64) (p := 0x800000 + o) (o := o) (by omega) (by omega) (by omega) rfl, hnum]
  · simp only [seqBase, h96, if_false] at h
    have hblock : lpa / 2 ^ 32 = 0x7F2 := by omega
    have hoff : lpa % 2 ^ 32 = 0x10000 + (k - 96) * 0x10000 + o := by omega
    have hgroup : ¬ 0x10000 + (k - 96) * 0x10000 + o < 0x4000 := by omega
    have hin : 0x10000 ≤ 0x10000 + (k - 96) * 0x10000 + o ∧ 0x10000 + (k - 96) * 0x10000 + o < 0x50000 := by omega
    have hword : (0x10000 + (k - 96) * 0x10000 + o) % 0x10000 = o := by omega
    have hnum : 96 + (0x10000 + (k - 96) * 0x10000 + o - 0x10000) / 0x10000 = k := by omega
    simp only [regBlk, hblock, hoff, hgroup, hin, hword, ho, hnum, and_self, if_true, if_false]

section
variable {s : State} {w : World} {k n o : Nat} {v : BitVec 64}

theorem writeReg_gc (ho : o < 0x1000) (hword : o % 8 = 0)
    (hmay : MayWrite s w (tileBase 0 + (if w = .sys then 0x880000 else 0x881000) + o) v) :
    writeReg s (.world w) (tileBase 0 + (if w = .sys then 0x880000 else 0x881000) + o) v = gcWrite s none w o v := by
  have hp : (if w = .sys then 0x880000 else 0x881000) % 8 = 0 ∧ (if w = .sys then 0x880000 else 0x881000) < 0x882000 := by cases w <;> decide
  rw [writeReg_permitted (by simp only [tileBase]; omega) (by simp only [tileBase]; omega) (by simp only [tileBase]; omega) hmay, regWrite,
    regBlk_gc (w := w) (o := o) (by decide) (Nat.add_assoc _ _ _) ho rfl]

theorem writeReg_chan (hn : n < 64) (ho : o < 0x1000) (hword : o % 8 = 0) (hmay : MayWrite s w (chanBase n + o) v) :
    writeReg s (.world w) (chanBase n + o) v = chanWrite s w n o v := by
  rw [writeReg_permitted (by simp only [chanBase]; omega) (by simp only [chanBase]; omega) (by simp only [chanBase]; omega) hmay, regWrite,
    regBlk_chan hn ho rfl]

theorem writeReg_seq (hk : hasCtl k = true) (ho : o < 0x8000) (hword : o % 8 = 0) (hmay : MayWrite s w (seqBase k + o) v) :
    writeReg s (.world w) (seqBase k + o) v = seqRegWrite s w k o v := by
  have hbase : seqBase k % 8 = 0 ∧ 0x7F000000000 ≤ seqBase k ∧ seqBase k < 0x7F200100000 := by
    simp only [hasCtl, Bool.and_eq_true, decide_eq_true_eq] at hk
    unfold seqBase tileBase
    split_ifs <;> omega
  rw [writeReg_permitted (by omega) (by omega) (by omega) hmay, regWrite, regBlk_seq hk ho rfl]

/-- TSL_CTL is the first register of its block. -/
theorem writeReg_ctl (hk : hasCtl k = true) (hmay : MayWrite s w (seqBase k) v) : writeReg s (.world w) (seqBase k) v = seqCtlWrite s w k v :=
  writeReg_seq (o := 0) hk (by decide) rfl hmay
end

/-! ### GC registers (R257, R258) -/

@[simp] theorem world_setWorld_same (s : State) (w : World) (v : WorldSt) : (s.setWorld w v).world w = v := by cases w <;> rfl
theorem world_setWorld_ne (s : State) {w x : World} (v : WorldSt) (h : x ≠ w) : (s.setWorld w v).world x = s.world x := by
  cases w <;> cases x
  · exact absurd rfl h
  · rfl
  · rfl
  · exact absurd rfl h

section
variable (s : State) (x : Option Exec) (w u : World) (o : Nat) (v : BitVec 64)

theorem world_gcBegin : (gcBegin s x).world u =
    { s.world u with gcOld := (s.world u).gc, gptOld := ((s.world u).gptB, (s.world u).gptN) } := by cases u <;> rfl

/-- A write that begins is performed at no agent yet, and the values before it are kept for them (R258). -/
theorem gcWrite_begins : (gcWrite s x w o v).gcLag = gcAgents s ∧ ((gcWrite s x w o v).world w).gcOld = (s.world w).gc := by
  simp only [gcWrite, State.setWorld_gcLag, world_setWorld_same, world_gcBegin, and_true]
  rfl

theorem gcWrite_other (h : u ≠ w) : ((gcWrite s x w o v).world u).gc = (s.world u).gc := by
  simp only [gcWrite, world_setWorld_ne _ _ h, world_gcBegin]

/-- The registers of the world take the value where R257 lays them out. -/
theorem gcWrite_gc : ((gcWrite s x w o v).world w).gc =
    if o = 0x00 then { (s.world w).gc with ctl := v.setWidth 7 }
    else if o = 0x08 then { (s.world w).gc with est := v.setWidth 43, estV := v.getLsbD 63 }
    else if o = 0x10 then { (s.world w).gc with mark := v.setWidth 43 }
    else if o = 0x18 then { (s.world w).gc with lo := v.setWidth 59 }
    else if o = 0x20 then { (s.world w).gc with hi := v.setWidth 59 } else (s.world w).gc := by
  simp only [gcWrite, world_setWorld_same, world_gcBegin, BitVec.ofNat_toNat]
  split
  case h_6 h0 h8 h10 h18 h20 => rw [if_neg h0, if_neg h8, if_neg h10, if_neg h18, if_neg h20]
  all_goals rfl
end

/-! ### TSL_CTL and TSL_EVENTS (R271) -/

/-- The value that changes no field of TSL_CTL spells the fields, and the command bit. -/
theorem ctlKeep_toNat (s : State) (k : Nat) {bit : Nat} (hb : 2 ^ bit ≤ 2) : (ctlKeep s k bit).toNat =
    2 ^ bit + 4 * (s.sq k).owner.num + 8 * (s.sq k).space.toNat + 2 ^ 15 * (s.sq k).entry.toNat + 2 ^ 27 * b2n (s.sq k).irqEn := by
  have howner : (s.sq k).owner.num < 2 := by cases (s.sq k).owner <;> decide
  have hirq : b2n (s.sq k).irqEn < 2 := by cases (s.sq k).irqEn <;> decide
  have := (s.sq k).space.isLt
  have := (s.sq k).entry.isLt
  rw [ctlKeep, BitVec.toNat_ofNat, Nat.mod_eq_of_lt]
  · simp only [seqRead]
    omega
  · simp only [seqRead]
    omega

theorem b2n_odd (b : Bool) : decide (b2n b % 2 = 1) = b := by cases b <;> rfl

section
variable {s : State} {w : World} {k : Nat} (hown : (s.sq k).owner = w ∨ 96 ≤ k)
include hown

/-- A write of TSL_CTL that changes no field is its command alone: go for a program that is idle, halt for one that is not. -/
theorem seqCtlWrite_keep {bit : Nat} (hb : 2 ^ bit ≤ 2) : seqCtlWrite s w k (ctlKeep s k bit) =
    if seqIdle s k then (if (ctlKeep s k bit).getLsbD 0 then seqGo (s.setSq k (s.sq k)) k else s.setSq k (s.sq k))
    else (if (ctlKeep s k bit).getLsbD 1 then seqHalt (s.setSq k (s.sq k)) k else s.setSq k (s.sq k)) := by
  have hn := ctlKeep_toNat s k hb
  have howner : (s.sq k).owner.num < 2 := by cases (s.sq k).owner <;> decide
  have := (s.sq k).space.isLt
  have := (s.sq k).entry.isLt
  have hpow := Nat.one_le_two_pow (n := bit)
  have hirq : (ctlKeep s k bit).getLsbD 27 = (s.sq k).irqEn := by
    rw [BitVec.getLsbD, Nat.testBit_eq_decide_div_mod_eq, show (ctlKeep s k bit).toNat / 2 ^ 27 = b2n (s.sq k).irqEn by omega, b2n_odd]
  have hworld : worldOf (bitsN (ctlKeep s k bit) 2 1) = (s.sq k).owner := by
    rw [show bitsN (ctlKeep s k bit) 2 1 = (s.sq k).owner.num by rw [bitsN]; omega, worldOf_num]
  have hspace : BitVec.ofNat 12 (bitsN (ctlKeep s k bit) 3 12) = (s.sq k).space := by
    rw [show bitsN (ctlKeep s k bit) 3 12 = (s.sq k).space.toNat by rw [bitsN]; omega, BitVec.ofNat_toNat, BitVec.setWidth_eq]
  have hentry : BitVec.ofNat 12 (bitsN (ctlKeep s k bit) 15 12) = (s.sq k).entry := by
    rw [show bitsN (ctlKeep s k bit) 15 12 = (s.sq k).entry.toNat by rw [bitsN]; omega, BitVec.ofNat_toNat, BitVec.setWidth_eq]
  have hmine : ¬ ((s.sq k).owner ≠ w ∧ k < 96) := by
    rintro ⟨hne, hlt⟩
    exact hown.elim hne (Nat.not_le.mpr hlt)
  simp only [seqCtlWrite, hmine, hirq, hworld, hspace, hentry, ite_self, if_false]

theorem seqCtlWrite_go (hidle : seqIdle s k = true) : seqCtlWrite s w k (ctlKeep s k 0) = seqGo (s.setSq k (s.sq k)) k := by
  have hcmd : (ctlKeep s k 0).getLsbD 0 = true := by
    rw [BitVec.getLsbD, Nat.testBit_eq_decide_div_mod_eq, ctlKeep_toNat s k (by decide)]
    exact decide_eq_true (by omega)
  rw [seqCtlWrite_keep hown (by decide), hidle, hcmd, if_pos rfl, if_pos rfl]

theorem seqCtlWrite_halt (hidle : seqIdle s k = false) : seqCtlWrite s w k (ctlKeep s k 1) = seqHalt (s.setSq k (s.sq k)) k := by
  have howner : (s.sq k).owner.num < 2 := by cases (s.sq k).owner <;> decide
  have hcmd : (ctlKeep s k 1).getLsbD 1 = true := by
    rw [BitVec.getLsbD, Nat.testBit_eq_decide_div_mod_eq, ctlKeep_toNat s k (by decide)]
    exact decide_eq_true (by omega)
  rw [seqCtlWrite_keep hown (by decide), hidle, hcmd, if_neg Bool.false_ne_true, if_pos rfl]
end

section
variable {s : State} {k : Nat}

theorem seqIdle_iff (hk : 64 ≤ k) : seqIdle s k = true ↔ (s.sq k).st ≠ .running ∧ (s.sq k).st ≠ .waiting := by
  rw [seqIdle, if_neg (Nat.not_lt.mpr hk)]
  simp

theorem seqHost_teasel_lt (h : seqHost k = .teasel) : k < 96 := by
  unfold seqHost at h
  split_ifs at h
  assumption

@[simp] theorem sq_wakeTile (t j : Nat) : (wakeTile s t).sq j = s.sq j := by unfold wakeTile; split <;> rfl

/-- Go starts an idle program at its entry with its registers, on a tile that lives (R271). -/
theorem sq_seqGo (hst : (s.sq k).st ≠ .running ∧ (s.sq k).st ≠ .waiting) (hlive : seqHost k = .teasel → (s.tile (k - 64)).dead = false) :
    (seqGo s k).sq k = { s.sq k with st := .running, fault := 0, pc := (s.sq k).entry, z := false, n := false, b := false, t := false,
                                     stack := [], pfx := none, waitM := none, ld := none, halt := false, lateFault := none, marks := 0 } := by
  have hgo : ¬ ((s.sq k).st = .running ∨ (s.sq k).st = .waiting ∨ (seqHost k = .teasel ∧ (s.tile (k - 64)).dead = true)) := by
    rintro (h | h | ⟨h, hd⟩)
    · exact hst.1 h
    · exact hst.2 h
    · rw [hlive h] at hd
      cases hd
  simp only [seqGo, if_neg hgo]
  split_ifs <;> simp [startProgram]

/-- Halt stops a program at its instruction boundary; an LD that is outstanding is answered first (R271). -/
theorem sq_seqHalt (hst : (s.sq k).st = .running ∨ (s.sq k).st = .waiting) :
    (seqHalt s k).sq k = if (s.sq k).ld.isSome then { s.sq k with halt := true } else { s.sq k with st := .idle, waitM := none, pfx := none } := by
  simp only [seqHalt, if_pos hst]
  split_ifs <;> rw [State.sq_setSq_same]

section
variable {w : World} (hk : 64 ≤ k) (hown : (s.sq k).owner = w ∨ 96 ≤ k)
include hk hown

/-- The write of go alone. -/
theorem sq_seqCtlWrite_go (hst : (s.sq k).st ≠ .running ∧ (s.sq k).st ≠ .waiting) (hlive : k < 96 → (s.tile (k - 64)).dead = false) :
    (seqCtlWrite s w k (ctlKeep s k 0)).sq k =
      { s.sq k with st := .running, fault := 0, pc := (s.sq k).entry, z := false, n := false, b := false, t := false, stack := [],
                    pfx := none, waitM := none, ld := none, halt := false, lateFault := none, marks := 0 } := by
  have hgo := sq_seqGo (s := s.setSq k (s.sq k)) (k := k) (by rwa [State.sq_setSq_same]) fun hhost => hlive (seqHost_teasel_lt hhost)
  rwa [State.sq_setSq_same, ← seqCtlWrite_go hown ((seqIdle_iff hk).mpr hst)] at hgo

/-- The write of halt alone. -/
theorem sq_seqCtlWrite_halt (hst : (s.sq k).st = .running ∨ (s.sq k).st = .waiting) : (seqCtlWrite s w k (ctlKeep s k 1)).sq k =
    if (s.sq k).ld.isSome then { s.sq k with halt := true } else { s.sq k with st := .idle, waitM := none, pfx := none } := by
  have hbusy : seqIdle s k = false := by
    rw [← Bool.not_eq_true, seqIdle_iff hk]
    exact fun hidle => hst.elim hidle.1 hidle.2
  have hhalt := sq_seqHalt (s := s.setSq k (s.sq k)) (k := k) (by rwa [State.sq_setSq_same])
  rwa [State.sq_setSq_same, ← seqCtlWrite_halt hown hbusy] at hhalt
end

/-- Event bits are added; no WAITE waits for them (R397). -/
theorem seqEvent_adds (ev : BitVec 16) (hw : (s.sq k).waitM = none) : seqEvent s k ev = s.setSq k { s.sq k with events := (s.sq k).events ||| ev } := by
  simp only [seqEvent, hw]
end

/-! ### VL_HEAD and VL_ABORT (R370, R381) -/

section
variable {s : State} {n : Nat}

/-- An abort halts a channel that is between bursts (R381). -/
theorem vlAbort_between (hst : (s.chan n).st = .running) (hph : (s.chan n).phase = .burst) : vlAbort s n = vlHalt s n 0x0A (s.chan n).cur 0 := by
  simp [vlAbort, hst, hph]

/-- A halt without its interrupt: the error, its address, and the channel's sequencer idle (R380). -/
theorem vlHalt_quiet {err : Nat} (herr : err ≠ 8) (addr : BitVec 59) (info : Nat) (hirq : (s.chan n).errIrq = false) :
    ((vlHalt s n err addr info).chan n).st = .halted ∧ ((vlHalt s n err addr info).chan n).err = BitVec.ofNat 8 err ∧
      ((vlHalt s n err addr info).chan n).errAddr = addr ∧ ((vlHalt s n err addr info).chan n).doneCnt = (s.chan n).doneCnt ∧
      ((vlHalt s n err addr info).sq n).st = .idle := by
  have hchan : ∀ (t : State) (q : Seq), (t.setSq n q).chan n = t.chan n := fun _ _ => rfl
  simp [vlHalt, hirq, herr, hchan]
end

end Sys2Proof.Claims
end

section
/-! PROOFS. Barrier appends and healing writes that the L1D of their core performs (R262, R268). -/

namespace Sys2Proof.Claims

open Sys2Proof.Machine

section
variable {s : State} {n : Nat} {l : L1Line} (hm : s.mem.armed = []) (htag : (s.core n).tagErr = []) (hb : (s.core n).bypass = false)
include hm htag hb

/-- The first append of a core is performed as a store to a line that it holds in M or E (R268). -/
theorem appendStep_held {a : PStore} {as : List PStore} (happ : (s.core n).appends = a :: as) (hmt : a.mt = 0) (hcard : a.card = none)
    (hsent : a.sent = false) (hs : (s.core n).stores = []) (hl : tget (s.core n).l1d (a.key / 8) = some l) (hst : l.st = .m ∨ l.st = .e) :
    ((appendStep s n).core n).appends = as ∧ ((appendStep s n).core n).stores = [] ∧
      tget ((appendStep s n).core n).l1d (a.key / 8) = some { l with st := .m, data := mergeLine l.data a.key a.word a.mask } := by
  have hgo : appendStep s n = issueStore (countEvent (s.modCore n fun c => { c with appends := as }) n (whoOf s a.who) 0x17) n a := by
    simp only [appendStep, happ]
  rw [hgo]
  set u := s.modCore n fun c => { c with appends := as } with hu
  set t := countEvent u n (whoOf s a.who) 0x17 with ht
  obtain ⟨hrest, hcores, -⟩ : Around u t := (countEvent_keeps u n (whoOf s a.who) 0x17).around
  have hcore := hcores n
  rw [hu, State.core_modCore_same] at hcore
  have hmem : t.mem = s.mem := (congrArg State.mem hrest).trans rfl
  have hcalm := issueStore_held (t := t) (st := a) (by rw [hcore]; exact hb) (by rw [hcore]; exact htag) (by rw [hmem]; exact hm) hmt hsent hcard
    (by rw [hcore]; exact hs) (by rw [hcore]; exact hl) hst
  rw [hcalm.core n, State.core_setCore_same]
  refine ⟨by rw [hcore]; rfl, rfl, tget_tset_same _ _ _⟩

/-- The first healing write of a core is performed in a line that it holds in M or E, if the word there still is the word seen (R262). -/
theorem healStep_held {h : Heal} {hs : List Heal} (hheals : (s.core n).heals = h :: hs) (hsent : h.sent = false) (hfar : h.far = false)
    (hnone : ∀ p ∈ (s.core n).stores, p.who = h.who → p.key ≠ h.key) (hl : tget (s.core n).l1d (h.key / 8) = some l)
    (hst : l.st = .m ∨ l.st = .e) :
    ((healStep s n).core n).heals = hs ∧ tget ((healStep s n).core n).l1d (h.key / 8) =
      some (if lineWord l.data h.key = h.old then { l with st := .m, data := mergeLine l.data h.key h.new 255 } else l) := by
  have hown : (l.st == .m || l.st == .e) = true := by simpa using hst
  have hnow : (h.sent || (recovering s n (h.key / 8) || (s.core n).stores.any fun p => p.who == h.who && p.key == h.key)) = false := by
    simpa [hsent, recovering, htag] using hnone
  set t := trainAtom (s.modCore n fun c => { c with heals := hs }) n h.idx h.cont with ht
  have hheld : tget (t.core n).l1d (h.key / 8) = some l := by simpa [t, trainAtom] using hl
  have hleft : (t.core n).heals = hs := by simp [t, trainAtom]
  have hgo : healStep s n = if lineWord l.data h.key = h.old then perfStore t n { who := h.who, key := h.key, word := h.new, mask := 255 } else t := by
    simp only [healStep, hheals, hnow, hfar, hb, hl, hown, l1dHit_unarmed hm, Bool.or_self, Bool.false_eq_true, if_false, if_true]
    rw [← ht, hheld]
  rw [hgo]
  split_ifs with hword
  · have hcalm := core_perfStore (t := t) (k := n) (st := { who := h.who, key := h.key, word := h.new, mask := 255 }) rfl hheld
    rw [hcalm.core n, State.core_modCore_same]
    exact ⟨hleft, tget_tset_same _ _ _⟩
  · exact ⟨hleft, hheld⟩
end

end Sys2Proof.Claims
end

section
/-! PROOFS. Writes of the registers of a channel (R370, R371, R381, R397), and O47: the writes of GC, sequencer and channel registers by
their world, with the appends and healing writes that the L1D performs. -/

namespace Sys2Proof.Claims

open Sys2Proof.Machine

section
variable {s : State} {n : Nat}

/-- VL_HEAD starts a channel that does not run at its descriptor (R370). -/
theorem vlHead_starts (hst : (s.chan n).st ≠ .running) (a : BitVec 59) : (vlHead s n a).chan n =
    { s.chan n with err := 0, recheck := false, progress := 0, cur := a, st := .running, phase := .desc, pos := 0, linkTag := 0,
                    link0 := none, held := false, abort := false, want := [], got := [] } := by
  rw [vlHead, if_neg hst, State.chan_setChan_same]

theorem vlHead_running (hst : (s.chan n).st = .running) (a : BitVec 59) : vlHead s n a = s := if_pos hst

/-- A channel that asks for the link of its descriptor changes nothing else of its own: the read leaves the channels alone (R378). -/
theorem chan_issueLink : (issueLink s n).chan n =
    { s.chan n with recheck := false, phase := .link, link0 := (vlRead s n ((s.chan n).cur + 24)).1.toOption } := by
  have hread : (vlRead s n ((s.chan n).cur + 24)).2.chan n = s.chan n := by simp only [State.chan, vlRead_chans]
  simp only [issueLink]
  split <;> next heq =>
    rw [heq] at hread
    rw [State.chan_setChan_same, hread, heq]
    rfl

theorem vlRing_running (hst : (s.chan n).st = .running) : vlRing s n = s.setChan n { s.chan n with recheck := true } := by
  simp only [vlRing, hst]

/-- A doorbell at the end of a chain has its last link read again (R371). -/
theorem vlRing_atEoc (hst : (s.chan n).st = .atEoc) : ((vlRing s n).chan n).st = .running ∧ ((vlRing s n).chan n).phase = .link ∧
    ((vlRing s n).chan n).recheck = false := by
  have hgo : vlRing s n = issueLink (s.setChan n { s.chan n with st := .running }) n := by simp only [vlRing, hst]
  rw [hgo, chan_issueLink, State.chan_setChan_same]
  exact ⟨rfl, rfl, rfl⟩
end

end Sys2Proof.Claims

open Sys2Proof Sys2Proof.Machine Sys2Proof.Claims

/-- Settles O47: each write goes to the register that lies at its address (`writeReg_gc`, `writeReg_seq`, `writeReg_chan`), and each
register has its lemma; the channels run on through the read of a link (`vlRead_chans`). -/
theorem barrierAndEngineRegisters : Obligations.BarrierAndEngineRegisters := by
  unfold Obligations.BarrierAndEngineRegisters
  intro s w off v k ch ev core a as h hs l o lpa g q c n
  have hoff : o < 0x1000 ∧ o % 8 = 0 := by
    have := off.isLt
    omega
  have hch := ch.isLt
  have h64 : hasCtl k.toNat = true → 64 ≤ k.toNat := fun h => decide_eq_true_eq.mp (Bool.and_eq_true_iff.mp h).1
  refine ⟨fun hmay => ?_, ⟨_, rfl, rfl, rfl, rfl, rfl⟩, fun hctl hown => ⟨fun hmay hrun hwait hlive => ?_, fun hmay hst => ?_, fun hmay hw => ?_⟩,
    fun hmay hst => ?_, fun hmay hst => ?_, fun hmay hbit hst => ?_, fun hmay hbit hst => ?_, fun hmay hbit hst hph hirq => ?_, fun hmay hw => ?_,
    fun happ hmt hcard hsent hb hstores htag hm hl hst => ?_, fun hheals hsent hfar hb htag hm hnone hl hst => ?_⟩
  -- The GC registers.
  · obtain ⟨hlag, hold⟩ := gcWrite_begins s none w o v
    exact ⟨_, gives_of_eq rfl (writeReg_gc hoff.1 hoff.2 hmay), hlag, hold, fun x => gcWrite_other s none w x o v, gcWrite_gc s none w o v⟩
  -- TSL_CTL and TSL_EVENTS.
  · have hgo := sq_seqCtlWrite_go (h64 hctl) hown ⟨hrun, hwait⟩ hlive
    refine ⟨_, gives_of_eq rfl ((if_pos hctl).trans (writeReg_ctl hctl hmay)), ?_⟩
    rw [State.sq_tick, hgo]
    exact ⟨rfl, rfl, rfl, rfl, rfl⟩
  · have hhalt := sq_seqCtlWrite_halt (h64 hctl) hown hst
    refine ⟨_, gives_of_eq rfl ((if_pos hctl).trans (writeReg_ctl hctl hmay)), fun hld => ?_, fun hld => ?_⟩
    · rw [State.sq_tick, hhalt, show (s.sq k.toNat).ld = none from hld]
      rfl
    · rw [State.sq_tick, hhalt, if_pos (Option.isSome_iff_ne_none.mpr hld)]
      exact ⟨rfl, rfl⟩
  · refine gives_of_eq rfl (((if_pos hctl).trans (writeReg_seq hctl (by decide) rfl hmay)).trans ((seqEvent_adds _ hw).trans ?_))
    rw [ofNat_setWidth_toNat]
  -- VL_HEAD, VL_DOORBELL, VL_ABORT and VL_QEVENTS.
  · refine ⟨_, gives_of_eq rfl (writeReg_chan hch (by decide) rfl hmay), ?_⟩
    rw [State.chan_tick, show chanWrite s w ch.toNat 0x08 v = vlHead s ch.toNat (v.setWidth 59) by rw [← BitVec.ofNat_toNat]; rfl, vlHead_starts hst]
    exact ⟨rfl, rfl, rfl, rfl, rfl⟩
  · exact gives_of_eq rfl ((writeReg_chan hch (by decide) rfl hmay).trans (vlHead_running hst _))
  · exact gives_of_eq rfl (((writeReg_chan hch (by decide) rfl hmay).trans (if_pos hbit)).trans (vlRing_running hst))
  · exact ⟨_, gives_of_eq rfl ((writeReg_chan hch (by decide) rfl hmay).trans (if_pos hbit)), vlRing_atEoc hst⟩
  · exact ⟨_, gives_of_eq rfl (((writeReg_chan hch (by decide) rfl hmay).trans (if_pos hbit)).trans (vlAbort_between hst hph)),
      vlHalt_quiet (by decide) _ _ hirq⟩
  · refine gives_of_eq rfl (((writeReg_chan hch (by decide) rfl hmay).trans (seqEvent_adds _ hw)).trans ?_)
    rw [BitVec.ofNat_toNat]
  -- The appends and healing writes of a core.
  · exact ⟨_, rfl, appendStep_held hm htag hb happ hmt hcard hsent hstores hl hst⟩
  · exact ⟨_, rfl, healStep_held hm htag hb hheals hsent hfar hnone hl hst⟩
end

section
/-! PROOFS. The Reed instructions of addresses and of memory: a word written out from its fields, an immediate with its PFX, and what
an instruction fetched at its boundary does by what its body answers. -/

namespace Sys2Proof.Claims

open Sys2Proof.Machine

/-! ### Words and immediates (R388 to R390, R395) -/

/-- Two fields joined as one number. -/
theorem toNat_append_add {m n : Nat} (x : BitVec m) (y : BitVec n) : (x ++ y).toNat = x.toNat * 2 ^ n + y.toNat := by
  rw [BitVec.toNat_append, ← Nat.shiftLeft_add_eq_or_of_lt y.isLt, Nat.shiftLeft_eq]

theorem reedWord_aop (an : BitVec 2) (sub : BitVec 3) (y : BitVec 5) :
    reedWord 3 (an.toNat * 256 + sub.toNat * 32 + y.toNat) = 3#4 ++ an ++ sub ++ y := by
  apply BitVec.eq_of_toNat_eq
  have := sub.isLt; have := y.isLt
  simp only [reedWord, toNat_append_add, BitVec.toNat_ofNat]
  omega

theorem reedWord_mem (cls : BitVec 4) (r : BitVec 3) (an : BitVec 2) (p : Bool) (off : BitVec 4) :
    reedWord cls.toNat (r.toNat * 128 + an.toNat * 32 + b2n p * 16 + off.toNat) = cls ++ r ++ an ++ BitVec.ofBool p ++ off := by
  apply BitVec.eq_of_toNat_eq
  have hp : (BitVec.ofBool p).toNat = b2n p := by cases p <;> rfl
  have := (BitVec.ofBool p).isLt
  simp only [reedWord, toNat_append_add, BitVec.toNat_ofNat, hp] at *
  omega

/-- A signed immediate is the number that its word, with its PFX before it, spells. -/
theorem simm_toInt {n : Nat} (v : BitVec n) : simm n v.toNat none = v.toInt := by
  have := v.isLt
  rw [BitVec.toInt_eq_toNat_cond]
  rcases n with _ | n
  · simp [simm]
    omega
  · simp only [simm, Nat.add_sub_cancel, pow_succ]
    split_ifs <;> simp <;> omega

theorem simm_prefix {n : Nat} (v : BitVec n) (e : BitVec 10) : simm n v.toNat (some e) = (e ++ v).toInt := by
  rw [← simm_toInt]
  simp only [simm, toNat_append_add, Nat.add_comm 10 n]

theorem immOf_eq (q : Seq) {n : Nat} (v : BitVec n) : immOf q v = BitVec.ofInt 64 (simm n v.toNat q.pfx) := by
  cases h : q.pfx with
  | none => simp only [immOf, h, simm_toInt, BitVec.signExtend]
  | some e => simp only [immOf, h, simm_prefix, BitVec.signExtend]

theorem setWidth_ofInt (z : Int) : (BitVec.ofInt 64 z).setWidth 59 = BitVec.ofInt 59 z := by
  apply BitVec.eq_of_toNat_eq
  simp only [BitVec.toNat_setWidth, BitVec.toNat_ofInt]
  omega

theorem uimm_toNat {n : Nat} (v : BitVec n) (e : Option (BitVec 10)) :
    uimm n v.toNat e = match e with | some e => (e ++ v).toNat | none => v.toNat := by
  cases e with
  | none => rfl
  | some e => exact (toNat_append_add e v).symm

theorem rawW_toNat {n : Nat} (x : BitVec n) : rawW x.toNat = ⟨0x006, x.setWidth 64⟩ := by rw [rawW, BitVec.ofNat_toNat]
theorem fixW_toNat {n : Nat} (x : BitVec n) : fixW x.toNat = ⟨0x001, x.setWidth 64⟩ := by rw [fixW, BitVec.ofNat_toNat]

/-- An address some words on (R390). -/
theorem ofNat_words (x : BitVec 64) : BitVec.ofNat 59 (8 * x.toNat) = 8 * x.setWidth 59 := by
  rw [← BitVec.ofNat_toNat, BitVec.ofNat_mul]
  rfl
theorem ofInt_words (q : Seq) {n : Nat} (v : BitVec n) : BitVec.ofInt 59 (8 * simm n v.toNat q.pfx) = 8 * (immOf q v).setWidth 59 := by
  rw [immOf_eq, setWidth_ofInt, BitVec.ofInt_mul]
  rfl

/-! ### One instruction at its boundary (R386, R395, R401) -/

/-- What an instruction before the last word of the program memory makes of its body's answer. -/
def reedTaken (k : Nat) : Except RFault (Flow × Seq) × State → State
  | (.error f, t) => reedFault t k f
  | (.ok (.seq, q), t) => if 4095 ≤ q.at_ then reedFault t k { code := 3 } else t.setSq k { q with pc := BitVec.ofNat 12 (q.at_ + 1), pfx := none }
  | (.ok (.jump i, q), t) => if i < 0 ∨ 4095 < i then reedFault t k { code := 3 } else t.setSq k { q with pc := BitVec.ofInt 12 i, pfx := none }
  | (.ok (.stay, q), t) => t.setSq k q

section
variable {s t : State} {k : Nat} {word : BitVec 14} {pfxable falls : Bool} {q : Seq}
  {body : Seq → Option (BitVec 10) → State → Except RFault (Flow × Seq) × State}
  (hf : Fetches s k word) (hp : (s.sq k).pfx = none ∨ pfxable = true)
include hf hp

/-- Where the word stands at pc, and no PFX precedes an instruction that it cannot extend, the body's answer decides. -/
theorem reedStep_fetches : reedStep s k word pfxable falls body = reedTaken k (body (s.sq k) (s.sq k).pfx s) := by
  obtain ⟨hready, hgood, hword, hin⟩ := hf
  have hlast : (falls && decide (4095 ≤ (s.sq k).at_)) = false := by simp [hin]
  have hpfx : ((s.sq k).pfx.isSome && !pfxable) = false := by rcases hp with h | h <;> simp [h]
  simp only [reedStep, hready, hgood, hword, hpfx, hlast, bne_self_eq_false, Bool.not_true, Bool.false_eq_true, if_false, false_and]
  rcases body (s.sq k) (s.sq k).pfx s with ⟨f | ⟨_ | i | _, q⟩, t⟩ <;> rfl

theorem reedStep_stay (hb : body (s.sq k) (s.sq k).pfx s = (.ok (.stay, q), t)) : reedStep s k word pfxable falls body = t.setSq k q := by
  rw [reedStep_fetches hf hp, hb]
  rfl

theorem reedStep_seq (hb : body (s.sq k) (s.sq k).pfx s = (.ok (.seq, q), t)) (hat : q.at_ = (s.sq k).at_) :
    (reedStep s k word pfxable falls body).tick = nextWord t k q := by
  rw [reedStep_fetches hf hp, hb]
  obtain ⟨-, -, -, hin⟩ := hf
  exact congrArg State.tick (if_neg (by omega))

theorem reedStep_error {f : RFault} (hb : body (s.sq k) (s.sq k).pfx s = (.error f, t)) :
    reedStep s k word pfxable falls body = reedFault t k f := by
  rw [reedStep_fetches hf hp, hb]
  rfl
end

/-- An address instruction that only changes the sequencer (R390). -/
theorem reedAop_next {s : State} {k x m : Nat} {q : Seq} {an : BitVec 2} {sub : BitVec 3} {y : BitVec 5} {pfxable : Bool}
    {f : Seq → Option (BitVec 10) → Except RFault Seq} (hf : Fetches s k (3#4 ++ an ++ sub ++ y)) (hm : sub.toNat = m) (hx : y.toNat = x)
    (hp : (s.sq k).pfx = none ∨ pfxable = true) (hq : f (s.sq k) (s.sq k).pfx = .ok q) (hat : q.at_ = (s.sq k).at_) :
    reedAop s k an.toNat m x pfxable f = .next (nextWord s k q) := by
  subst hm hx
  rw [← reedWord_aop] at hf
  rw [reedAop, reedPlain, reedStep_seq hf hp (q := q) (t := s) (by rw [hq]; rfl) hat]

theorem isInt_eq_true {w : W} (h : IsInt w) : isInt w = true := by
  rcases h with h | h <;> simp [isInt, h]

/-! ### LD and ST (R392, R393) -/

/-- The address of LD and ST: an, and the offset, which a PFX extends, in words. -/
def memAddr (q : Seq) (an : BitVec 2) (off : BitVec 4) : BitVec 59 := q.av an + BitVec.ofNat 59 (8 * uimm 4 off.toNat q.pfx)

section
variable {s t : State} {k l : Nat} {r : BitVec 3} {an : BitVec 2} {p : Bool} {off : BitVec 4}

theorem reedLd_misaligned (hf : Fetches s k (4#4 ++ r ++ an ++ BitVec.ofBool p ++ off)) (ha : (memAddr (s.sq k) an off).toNat % 8 ≠ 0) :
    reedLd s k r an p off = reedFault s k { code := 6, addr := memAddr (s.sq k) an off } := by
  rw [← reedWord_mem] at hf
  exact reedStep_error hf (.inr rfl) (if_pos ha)

theorem reedSt_misaligned (hf : Fetches s k (5#4 ++ r ++ an ++ BitVec.ofBool p ++ off)) (ha : (memAddr (s.sq k) an off).toNat % 8 ≠ 0) :
    reedSt s k r an p off = reedFault s k { code := 6, addr := memAddr (s.sq k) an off } := by
  rw [← reedWord_mem] at hf
  exact reedStep_error hf (.inr rfl) (if_pos ha)

/-- LD of an aligned non-global address waits for the word of its location. -/
theorem reedLd_private (hf : Fetches s k (4#4 ++ r ++ an ++ BitVec.ofBool p ++ off)) (ha : (memAddr (s.sq k) an off).toNat % 8 = 0)
    (hport : isPort (memAddr (s.sq k) an off) = false) (hg : (memAddr (s.sq k) an off).getLsbD 58 = false)
    (hx : seqXlate s k 0 (memAddr (s.sq k) an off) = (.ok l, t)) :
    reedLd s k r an p off = t.setSq k { s.sq k with ld := some ⟨r, an, p, memAddr (s.sq k) an off, some l, none, none⟩ } := by
  rw [← reedWord_mem] at hf
  refine reedStep_stay hf (.inr rfl) ?_
  unfold memAddr at *
  generalize (s.sq k).av an + BitVec.ofNat 59 (8 * uimm 4 off.toNat (s.sq k).pfx) = va at *
  simp only [ha, hport, hg, hx, ne_eq, not_true_eq_false, Bool.false_eq_true, false_and, if_false]

/-- LD from the MARK port of a Teasel sequencer delivers its number (R273). -/
theorem reedLd_mark (hf : Fetches s k (4#4 ++ r ++ an ++ BitVec.ofBool p ++ off)) (hk : 64 ≤ k ∧ k < 96)
    (ha : memAddr (s.sq k) an off = 0x200000000000000) :
    (reedLd s k r an p off).tick =
      nextWord s k ((s.sq k).deliver r an p (memAddr (s.sq k) an off) (fixW (s.sq k).mark.toNat)) := by
  have hhost : seqHost k = .teasel := by simp [seqHost, hk, Nat.not_lt.mpr hk.1]
  rw [← reedWord_mem] at hf
  refine reedStep_seq hf (.inr rfl) ?_ (by cases p <;> rfl)
  simp only [memAddr] at *
  simp [ha, isPort, portLoad, hhost, bitsN, Except.map]

/-- ST to an aligned non-global address stores the word of its register (R393). -/
theorem reedSt_private (hf : Fetches s k (5#4 ++ r ++ an ++ BitVec.ofBool p ++ off)) (ha : (memAddr (s.sq k) an off).toNat % 8 = 0)
    (hport : isPort (memAddr (s.sq k) an off) = false) (hg : (memAddr (s.sq k) an off).getLsbD 58 = false)
    (hx : seqXlate s k 1 (memAddr (s.sq k) an off) = (.ok l, t)) (hq : (agentWrite t (l / 8) ((s.sq k).qv r) 255).sq k = s.sq k) :
    (reedSt s k r an p off).tick = nextWord (agentWrite t (l / 8) ((s.sq k).qv r) 255) k
      (if p then (s.sq k).setA an ((s.sq k).av an + 8) else s.sq k) := by
  rw [← reedWord_mem] at hf
  refine reedStep_seq hf (.inr rfl) ?_ (by cases p <;> rfl)
  unfold memAddr at *
  generalize (s.sq k).av an + BitVec.ofNat 59 (8 * uimm 4 off.toNat (s.sq k).pfx) = va at *
  simp only [ha, hport, hg, hx, hq, ne_eq, not_true_eq_false, Bool.false_eq_true, false_and, if_false]

/-- The word of a non-global location ends the LD that waits for it, at its instruction boundary (R393). -/
theorem loadAnswer_private {x : SeqLd} {w : W} (hld : (s.sq k).ld = some x) (hl : x.lpa = some l) (hpow : seqPowered s k = true)
    (hruns : ficRuns s.mg.mode = true) (hr : agentRead s (l / 8) = (w, t)) (hq : t.sq k = s.sq k) (hhalt : (s.sq k).halt = false)
    (habort : (t.chan k).abort = false) :
    loadAnswer s k = t.setSq k { (s.sq k).deliver x.q x.an x.post x.va w with pc := BitVec.ofNat 12 ((s.sq k).at_ + 1), pfx := none, ld := none } := by
  have hgo : ∀ q : Seq, q.halt = false → seqBoundary (t.setSq k q) k = t.setSq k q := fun q h => by
    have hchan : ((t.setSq k q).chan k).abort = false := habort
    simp [seqBoundary, h, hchan]
  simp only [loadAnswer, hld, hl, hpow, hruns, hr, hq, Bool.not_true, Bool.or_self, Bool.false_eq_true, if_false]
  exact hgo _ (by cases x.post <;> exact hhalt)
end

end Sys2Proof.Claims

open Sys2Proof Sys2Proof.Machine Sys2Proof.Claims

/-- Settles O50: each instruction is found at its boundary, and its body answers by the case of its operands and its address. -/
theorem reedAddressesAndMemory : Obligations.ReedAddressesAndMemory := by
  intro s t k an am r i5 p off va l x w n q b aop setA at_ mem r5
  have hr5 : r5.toNat = r.toNat := BitVec.toNat_setWidth_of_le (by decide)
  have hat : at_ = memAddr q an off := congrArg (fun i => q.av an + BitVec.ofNat 59 (8 * i)) (uimm_toNat off q.pfx).symm
  clear_value at_
  subst hat
  refine ⟨fun hpfx => ⟨fun hf ha => ?_, fun hf => ?_, fun hf hb => ?_, fun hf hb => ?_, fun hf => ?_, fun hf => ?_⟩, fun hf => ?_,
    fun hf ha hport hg hx => ?_, fun hf h64 h96 ha => ?_, fun hld hl hpow hruns hr hq hhalt habort => ?_, fun hf ha hport hg hx => ?_,
    fun ha => ⟨fun hf => ?_, fun hf => ?_⟩⟩
  -- MVAQ, MVQA, ADDAQ, MVCQ, MVQC and MVAA.
  · exact reedAop_next hf rfl hr5 (.inl hpfx) (by rw [show (s.sq k.toNat).qv r = b from rfl, ha]; rfl) rfl
  · exact reedAop_next hf rfl hr5 (.inl hpfx) (by rw [rawW_toNat]; rfl) rfl
  · exact reedAop_next hf rfl hr5 (.inl hpfx) (by rw [if_pos (isInt_eq_true hb), ofNat_words]; rfl) rfl
  · exact reedAop_next (an := 0) hf rfl hr5 (.inl hpfx) (by rw [if_pos (isInt_eq_true hb)]; rfl) rfl
  · exact reedAop_next (an := 0) hf rfl hr5 (.inl hpfx) (by rw [fixW_toNat]; rfl) rfl
  · exact reedAop_next hf rfl (BitVec.toNat_setWidth_of_le (by decide)) (.inl hpfx) rfl rfl
  -- ADDA.
  · exact reedAop_next hf rfl rfl (.inr rfl) (by rw [ofInt_words]; rfl) rfl
  -- LD of a location, and of the MARK port; its answer; ST.
  · exact gives_of_eq rfl (reedLd_private hf ha hport hg hx)
  · have hld := reedLd_mark hf ⟨h64, h96⟩ ha
    rw [fixW_toNat] at hld
    refine congrArg Host.Outcome.next (hld.trans ?_)
    cases p <;> rfl
  · refine gives_of_eq rfl ((loadAnswer_private hld hl hpow hruns hr hq hhalt habort).trans ?_)
    cases x.post <;> rfl
  · exact fun hq => congrArg Host.Outcome.next (reedSt_private hf ha hport hg hx hq)
  -- A misaligned address.
  · exact gives_of_eq rfl (reedLd_misaligned hf ha)
  · exact gives_of_eq rfl (reedSt_misaligned hf ha)
end

section
/-! PROOFS. Slots and stubs that a table lists twice: `tdel` takes the first listing out alone, so the second is found afterwards. Neither
statement of chapter 13 asks that the table of operations (R344) or that of stubs (R318) lists a key once. -/

namespace Sys2Proof.Claims

open Sys2Proof.Machine

/-- A key that a table lists twice in front is still found after its removal. -/
theorem tget_tdel_twice {α : Type} (t : Tbl α) (k : Nat) (u v : α) : tget (tdel ((k, u) :: (k, v) :: t) k) k = some v := by
  simp [tdel, tget]

/-! ### An operation that holds its slot twice -/

/-- A posted store of context 0 to the device itself, numbered 0 at reset. -/
def resetStore : OutOp := { owner := .exec (.ctx 0), dev := 0, addr := 0, acc := 1, posted := true, level := false }

/-- The table of operations lists slot 0 twice, both times with that store. -/
def slotTwice : State := { State.reset with remote := { State.reset.remote with ops := [(0, resetStore), (0, resetStore)] } }

/-- The header of the acknowledgement of slot 0. -/
def ackOfSlot0 : Hdr := ⟨0, 0, 0, .sys, false, 0, 0⟩

/-- No context waits, as no record is listed. -/
theorem slotTwice_wait (m : Nat) : (slotTwice.ctx m).dir.wait = 0 := rfl

/-- Slot 0 is still taken after its acknowledgement. -/
theorem slotTwice_holds {u : State} (h : Gives (.rack ackOfSlot0) slotTwice u) : tget u.remote.ops 0 = some resetStore := by
  obtain rfl := Host.Outcome.next.inj h
  exact tget_tdel_twice [] 0 resetStore resetStore

/-! ### A stub that is listed twice -/

/-- What the stub of record 0 names. -/
def stubOf0 : Stub := ⟨0, 0x60003, 2, 0⟩

/-- Record 0 is STUB, and the table lists its stub, number 0, twice. -/
def stubTwice : State :=
  { State.reset.setCtx 0 { dir := { state := .stub } } with remote := { State.reset.remote with stubs := [(0, stubOf0), (0, stubOf0)] } }

/-- The stub is still found once stub_ttl has passed. -/
theorem stubTwice_holds {u : State} (h : Gives (.stubRelease 0) stubTwice u) : tget u.remote.stubs 0 = some stubOf0 := by
  obtain rfl := Host.Outcome.next.inj h
  exact tget_tdel_twice [] 0 stubOf0 stubOf0

end Sys2Proof.Claims

open Sys2Proof Sys2Proof.Machine Sys2Proof.Claims

/-- Refutes O53, by its clause on the RACK of a posted store: the slot is freed by `tdel`, which takes out the first listing alone, so a
table of operations that lists the slot twice still holds it. -/
theorem not_remoteOperations : ¬ Obligations.RemoteOperations := by
  unfold Obligations.RemoteOperations
  intro h
  obtain ⟨-, hanswer, -⟩ := h slotTwice slotTwice ackOfSlot0 0 nilW nilW nilW nilW 0 false 0 0 0 ⟨0, 0, 0⟩ ⟨0, 0, 0, 0⟩ 0 resetStore
    { word := 0, why := .remote } 0 0 0 0 0 0 [] 0 0 0 0
  obtain ⟨-, hrack, -⟩ := hanswer ⟨rfl, rfl⟩ rfl rfl
  obtain ⟨u, hgives, ⟨hfree, -⟩, -⟩ := hrack rfl (by simp [slotTwice_wait]) (by simp [slotTwice_wait])
  exact nomatch hfree.symm.trans (slotTwice_holds hgives)

/-- Refutes O54, by its clause on a stub whose time is over: the stub is returned by `tdel`, which takes out the first listing alone, so a
table of stubs that lists it twice still names a successor of the record. -/
theorem not_migration : ¬ Obligations.Migration := by
  unfold Obligations.Migration
  intro h
  obtain ⟨-, -, -, -, -, -, -, -, hrelease, -⟩ := h stubTwice stubTwice 0 ackOfSlot0
    ⟨0, 0, 0, 0, 0, 0, 0, 0, 0, .sys, 0, 0, 0, 0, 0, 0, 0, 0, 0, [], none⟩ 0 0 0 0 0 0 0 0 0 0
  obtain ⟨u, hgives, -, -, hgone⟩ := hrelease rfl rfl
  exact nomatch hgone.symm.trans (stubTwice_holds hgives)
end

section
/-! PROOFS. What interrupts, doorbells, the fault log and the errors of groups leave alone: the ports, the PCIe link, the power domains, and
of the management plane all but the entries of the dictionary that they count in. -/

namespace Sys2Proof.Claims

open Sys2Proof.Machine

/-- The device neither sleeps nor goes to sleep, so that no interrupt wakes it (R443, R445). -/
def Awake (s : State) : Prop := s.mg.mode ≠ .drowse ∧ ∀ u, s.mg.trans = some u → u.target ≠ .drowse

theorem Awake.congr {s t : State} (h : Awake s) (hm : t.mg.mode = s.mg.mode) (ht : t.mg.trans = s.mg.trans) : Awake t :=
  ⟨hm ▸ h.1, ht ▸ h.2⟩

theorem awake_of_mode {s : State} (hm : s.mg.mode ≠ .drowse) (ht : s.mg.trans = none) : Awake s := ⟨hm, by rw [ht]; nofun⟩

theorem awake_of_target {s : State} {u : Trans} (hm : s.mg.mode ≠ .drowse) (ht : s.mg.trans = some u) (hu : u.target ≠ .drowse) : Awake s :=
  ⟨hm, fun v hv => by rw [ht] at hv; cases hv; exact hu⟩

/-- The entries of the dictionary that reports change: those of notices, and the spares that are exhausted. -/
def reportEntries : List Nat := 0x1400 :: noticeEntries

/-- What a report leaves alone. No tile dies; the transitions stay where the report wakes nobody. -/
structure Background (s t : State) : Prop where
  ports : t.ports = s.ports
  link : t.host.link = s.host.link
  pd : t.mg.pd = s.mg.pd
  pdPend : t.mg.pdPend = s.mg.pdPend
  bankPend : t.sark.bankPend = s.sark.bankPend
  dead : ∀ j, (t.tile j).dead = (s.tile j).dead
  dict : ∀ k, k / 256 ∉ reportEntries → tget t.mg.dict k = tget s.mg.dict k
  mode : t.mg.mode = s.mg.mode
  plan : Awake s → t.mg.trans = s.mg.trans ∧ t.mg.waiting = s.mg.waiting

namespace Background

theorem refl (s : State) : Background s s := ⟨rfl, rfl, rfl, rfl, rfl, fun _ => rfl, fun _ _ => rfl, rfl, fun _ => ⟨rfl, rfl⟩⟩

theorem after {s t u : State} (g : Background t u) (h : Background s t) : Background s u where
  ports := g.ports.trans h.ports
  link := g.link.trans h.link
  pd := g.pd.trans h.pd
  pdPend := g.pdPend.trans h.pdPend
  bankPend := g.bankPend.trans h.bankPend
  dead j := (g.dead j).trans (h.dead j)
  dict k e := (g.dict k e).trans (h.dict k e)
  mode := g.mode.trans h.mode
  plan e :=
    have ⟨ht, hw⟩ := h.plan e
    have ⟨gt, gw⟩ := g.plan (e.congr h.mode ht)
    ⟨gt.trans ht, gw.trans hw⟩

theorem ite {s t u : State} {p : Prop} [Decidable p] (h : Background s t) (g : Background s u) : Background s (if p then t else u) := by
  split <;> assumption

theorem foldl {α : Type} {f : State → α → State} {l : List α} (hf : ∀ a ∈ l, ∀ s, Background s (f s a)) (s : State) : Background s (l.foldl f s) := by
  induction l generalizing s with
  | nil => exact refl s
  | cons a l ih => exact (ih (fun b hb => hf b (.tail _ hb)) (f s a)).after (hf a (.head _) s)

/-- A change outside ports, host, tiles, management plane and what awaits a copy of its bank. -/
theorem outside {s t : State} (hports : t.ports = s.ports) (hlink : t.host.link = s.host.link) (htiles : t.tiles = s.tiles) (hmg : t.mg = s.mg)
    (hbank : t.sark.bankPend = s.sark.bankPend) : Background s t where
  ports := hports
  link := hlink
  pd := congrArg Mgmt.pd hmg
  pdPend := congrArg Mgmt.pdPend hmg
  bankPend := hbank
  dead j := by rw [State.tile_congr htiles]
  dict k _ := by rw [hmg]
  mode := congrArg Mgmt.mode hmg
  plan _ := ⟨congrArg Mgmt.trans hmg, congrArg Mgmt.waiting hmg⟩

/-- Such a change after others. -/
theorem andOutside {s t u : State} (h : Background s t) (hports : u.ports = t.ports) (hlink : u.host.link = t.host.link) (htiles : u.tiles = t.tiles)
    (hmg : u.mg = t.mg) (hbank : u.sark.bankPend = t.sark.bankPend) : Background s u := (outside hports hlink htiles hmg hbank).after h

theorem setDval (s : State) {i j : Nat} (v : Nat) (h : (i * 256 + j) / 256 ∈ reportEntries) : Background s (setDval s i j v) :=
  { refl s with dict := fun _ e => tget_tset_ne _ _ fun hk => e (hk ▸ h) }

theorem setTile {s t : State} (h : Background s t) {n : Nat} {c d : Tile} (hdead : d.dead = c.dead) :
    Background (s.setTile n c) (t.setTile n d) := by
  refine { h with dead := fun j => ?_ }
  by_cases hj : j = n
  · rw [hj, State.tile_setTile_same, State.tile_setTile_same, hdead]
  · rw [State.tile_setTile_ne _ _ hj, State.tile_setTile_ne _ _ hj, h.dead]

theorem modTile (s : State) (n : Nat) {f : Tile → Tile} (hdead : (f (s.tile n)).dead = (s.tile n).dead) : Background s (s.modTile n f) := by
  refine { refl s with dead := fun j => ?_ }
  by_cases hj : j = n
  · rw [hj, State.tile_modTile_same, hdead]
  · rw [State.tile_modTile_ne _ _ hj]

/-! ### Doorbells, interrupts and the fault log -/

theorem wakeTile (s : State) (t : Nat) : Background s (wakeTile s t) := ite (modTile s t rfl) (refl s)

theorem beginTrans (s : State) (m b : Mode) (h : ¬ Awake s) : Background s (beginTrans s m b) := by
  unfold Machine.beginTrans
  split <;> exact { refl s with plan := fun e => absurd e h }

theorem wakeDevice (s : State) : Background s (wakeDevice s) := by
  unfold Machine.wakeDevice
  split
  · split
    · next hd => exact beginTrans _ _ _ fun e => e.1 hd
    · exact refl s
  · next t ht =>
    split
    · next hd => exact beginTrans _ _ _ fun e => e.2 t ht hd.1
    · exact refl s

theorem makeReady (s : State) (n : Nat) : Background s (makeReady s n) := (wakeTile _ _).after (outside rfl rfl rfl rfl rfl)

theorem endWait (s : State) (n : Nat) : Background s (endWait s n) := by
  unfold Machine.endWait
  extract_lets c _ s1
  have h1 : Background s s1 := outside rfl rfl rfl rfl rfl
  split
  · exact (makeReady _ _).after h1
  · exact (makeReady _ _).after h1
  · exact outside rfl rfl rfl rfl rfl
  · exact outside rfl rfl rfl rfl rfl
  · exact h1

theorem recompare (s : State) (line : Nat) : Background s (recompare s line) := by
  refine foldl (fun e _ t => ?_) s
  split
  · exact ite ((endWait _ _).after (outside rfl rfl rfl rfl rfl)) (refl t)
  · exact refl t

theorem discardRing (s : State) : Background s (discardRing s) := setDval s _ (by decide)

theorem movedNotice (s : State) (w : World) (i i' : BitVec 32) (g g' : BitVec 16) : Background s (movedNotice s w i g i' g') := by
  cases w <;> exact ite (outside rfl rfl rfl rfl rfl) (outside rfl rfl rfl rfl rfl)

theorem ringBits (s : State) (n : Nat) (ev : BitVec 16) : Background s (ringBits s n ev) := by
  unfold Machine.ringBits
  extract_lets c s1 s2 all hit _ c1
  have h1 : Background s s1 := wakeDevice s
  have h2 : Background s s2 := (wakeTile _ _).after h1
  refine ite ((discardRing _).after h1) (ite ?_ (ite ((endWait _ _).after (h2.andOutside rfl rfl rfl rfl rfl))
    (h2.andOutside rfl rfl rfl rfl rfl)))
  split
  · exact (movedNotice _ _ _ _ _ _).after (h1.andOutside rfl rfl rfl rfl rfl)
  · exact (discardRing _).after h1

theorem pendFic (s : State) (k src : Nat) (v : BitVec 64) : Background s (pendFic s k src v) :=
  (wakeTile _ _).after (outside rfl rfl rfl rfl rfl)

theorem seqEvent (s : State) (k : Nat) (ev : BitVec 16) : Background s (seqEvent s k ev) := by
  unfold Machine.seqEvent
  extract_lets q all
  split
  · exact ite (outside rfl rfl rfl rfl rfl) (outside rfl rfl rfl rfl rfl)
  · exact outside rfl rfl rfl rfl rfl

theorem signal (s : State) (src : Nat) (v : BitVec 64) : Background s (signal s src v) := by
  have h := wakeDevice s
  exact ite (ite ((pendFic _ _ _ _).after h) h) (ite (ite ((seqEvent _ _ _).after h) ((ringBits _ _ _).after h)) h)

theorem msix (s : State) (v : Nat) : Background s (msix s v) := ite (outside rfl rfl rfl rfl rfl) (outside rfl rfl rfl rfl rfl)

theorem logFault (s : State) (cls react unit site : Nat) (addr : BitVec 64) (detail : List (BitVec 8)) :
    Background s (logFault s cls react unit site addr detail) := by
  unfold Machine.logFault
  extract_lets r full s1 s2 _ s3
  have h1 : Background s s1 := setDval s _ (by decide)
  have h2 : Background s s2 := ite ((setDval s1 _ (by decide)).after h1) h1
  have h3 : Background s s3 := h2.andOutside rfl rfl rfl rfl rfl
  exact (msix _ _).after ((signal _ _ _).after h3)

/-! ### Groups -/

theorem collNotify (s : State) (n : Nat) : Background s (collNotify s n) := by
  unfold Machine.collNotify
  extract_lets g s1
  have h1 : Background s s1 := ite (ringBits _ _ _) (refl s)
  exact ite ((signal _ _ _).after (h1.andOutside rfl rfl rfl rfl rfl)) h1

theorem sendColl (s : State) (p : Nat) (m : CollMsg) : Background s (sendColl s p m) := outside rfl rfl rfl rfl rfl

theorem groupError (s : State) (n : Nat) (err : BitVec 8) (dev : BitVec 16) : Background s (groupError s n err dev) := by
  unfold Machine.groupError
  extract_lets g busy root s1 s2
  have h1 : Background s s1 := outside rfl rfl rfl rfl rfl
  have hdown : Background s ((childPorts g).foldl (fun s p => Machine.sendColl s p (collMsg g n true false err dev [])) s1) :=
    (foldl (fun _ _ t => sendColl t _ _) s1).after h1
  exact ite (refl s) ((collNotify _ _).after (ite h1 (ite hdown (ite h1 ((sendColl _ _ _).after h1)))))

theorem groupsLink (s : State) (p : Nat) : Background s (groupsLink s p) := foldl (fun _ _ t => ite (groupError t _ _ _) (refl t)) s

section
variable {s t : State} (h : Background s t)
include h

theorem port (p : Nat) : t.port p = s.port p := by rw [State.port, h.ports, State.port]

theorem dval {i j : Nat} (hk : (i * 256 + j) / 256 ∉ reportEntries) : dval t i j = dval s i j := by
  rw [Machine.dval, h.dict _ hk, Machine.dval]

theorem stays (e : Awake s) : Awake t := e.congr h.mode (h.plan e).1
end

end Background

end Sys2Proof.Claims
end

section
/-! PROOFS. The receiver of a Laraor port: the ack of a flit, flits in order and out of order, the messages of a DATA flit, and NAK. -/

namespace Sys2Proof.Claims

open Sys2Proof.Machine

theorem setPort_setPort (s : State) (p : Nat) (a b : Port) : (s.setPort p a).setPort p b = s.setPort p b := by simp [State.setPort]

/-! ### What a port sends -/

theorem sendFlit_eq (s : State) (p ty : Nat) (body : List (BitVec 8)) : sendFlit s p ty body = s.setPort p { s.port p with
    sentFl := (s.port p).sentFl ++ [mkFlit 0 ((s.port p).rxSeq - 1) ty body (s.port p).fec], fec := 0 } := rfl

/-- The port that sends a NAK is in recovery (R332). -/
def nakSent (q : Port) : Port :=
  { q with recovery := true, sentNaks := q.sentNaks + 1, sentFl := q.sentFl ++ [mkFlit 0 (q.rxSeq - 1) 3 [] q.fec], fec := 0 }

/-- An event of a port sets its bit (R349); of the port nothing else changes. -/
theorem port_portEvent (s : State) (p bit : Nat) :
    (portEvent s p bit).port p = { s.port p with event := (s.port p).event ||| BitVec.ofNat 4 (2 ^ bit) } := by
  unfold portEvent
  dsimp only
  split
  · rw [(Background.signal _ _ _).port, State.port_setPort_same]
  · rw [State.port_setPort_same]

/-- The event's bit is set. -/
theorem event_bit (e : BitVec 4) {bit : Nat} (h : bit < 4) : (e ||| BitVec.ofNat 4 (2 ^ bit)).getLsbD bit = true := by
  rw [BitVec.getLsbD_or, BitVec.getLsbD_ofNat, Nat.testBit_two_pow_self]
  simp [h]

section
variable {s : State} {p ty : Nat} {f : Flit}

/-! ### Flits that are taken -/

/-- The ack of a flit touches the replay buffer and the last number acknowledged (R332). -/
theorem takeAck_eq (q : Port) (a : BitVec 16) : ∃ r e, takeAck q a = { q with replay := r, ackSeq := e } := by
  unfold takeAck
  split <;> exact ⟨_, _, rfl⟩

theorem acked_eq (s : State) (p ty : Nat) (f : Flit) : ∃ r e, acked s p ty f =
    { s.port p with replay := r, ackSeq := e, lowPower := (s.port p).lowPower && ty == 0 } := by
  obtain ⟨r, e, h⟩ := takeAck_eq (s.port p) f.ack
  exact ⟨r, e, by rw [acked, h]⟩

theorem inOrder_eq (s : State) (p ty : Nat) (f : Flit) : ∃ r e c, inOrder s p ty f = { s.port p with
    replay := r, ackSeq := e, lowPower := (s.port p).lowPower && ty == 0, rxSeq := f.seq + 1, recovery := false, sentNaks := 0, credits := c } := by
  obtain ⟨r, e, h⟩ := acked_eq s p ty f
  exact ⟨r, e, _, by rw [inOrder, h]⟩

/-- Before its messages are handed over, a flit in order changes none of the buffers. -/
theorem inOrder_buffers (s : State) (p ty : Nat) (f : Flit) : (inOrder s p ty f).partial_ = (s.port p).partial_ ∧
    (inOrder s p ty f).owed = (s.port p).owed ∧ (inOrder s p ty f).got = (s.port p).got ∧ (inOrder s p ty f).rxMsgs = (s.port p).rxMsgs := by
  obtain ⟨r, e, c, h⟩ := inOrder_eq s p ty f
  rw [h]
  exact ⟨rfl, rfl, rfl, rfl⟩

/-- A good flit of the type named takes effect on a port that receives, after its ack (R331, R332). -/
theorem onFlit_taken (hst : (s.port p).st = .up ∨ (s.port p).st = .init) (hgood : flitGood f = true) (hty : f.ftype = ty)
    (k : State → State) : onFlit s p ty f k = k (s.setPort p (acked s p ty f)) := by
  have hlow : (takeAck (s.port p) f.ack).lowPower = (s.port p).lowPower := by
    obtain ⟨r, e, h⟩ := takeAck_eq (s.port p) f.ack
    rw [h]
  rcases hst with h | h <;> simp [onFlit, h, hgood, hty, acked, hlow]

theorem onFlit_up (h : FlitAt s p ty f) (k : State → State) : onFlit s p ty f k = k (s.setPort p (acked s p ty f)) :=
  onFlit_taken (.inl h.1) h.2.1 h.2.2 k

/-- A sequenced flit in order is accepted (R332). -/
theorem onSeq_inOrder (h : FlitAt s p ty f) (hseq : f.seq = (s.port p).rxSeq) (k : State → State) :
    onSeq s p ty f k = k (s.setPort p (inOrder s p ty f)) := by
  obtain ⟨r, e, ha⟩ := acked_eq s p ty f
  rw [onSeq, onFlit_up h]
  simp [inOrder, ha, h.1, hseq, setPort_setPort]

/-- One out of order puts the receiver into recovery (R332). -/
theorem onSeq_outOfOrder (h : FlitAt s p ty f) (hseq : f.seq ≠ (s.port p).rxSeq) (k : State → State) :
    onSeq s p ty f k = enterRecovery (s.setPort p (acked s p ty f)) p := by
  obtain ⟨r, e, ha⟩ := acked_eq s p ty f
  rw [onSeq, onFlit_up h]
  simp [ha, h.1, hseq]

/-! ### Recovery -/

theorem recover_sends (hn : (s.port p).sentNaks < 15) : recover s p = s.setPort p (nakSent (s.port p)) := by
  have hfew : ¬ 16 ≤ (s.port p).sentNaks + 1 := by omega
  unfold recover
  rw [if_neg hfew, sendFlit_eq, State.port_setPort_same, setPort_setPort]
  rfl

theorem enterRecovery_again (h : (s.port p).recovery = true) : enterRecovery s p = s := if_pos h

theorem enterRecovery_first (h : (s.port p).recovery = false) (hn : (s.port p).sentNaks < 15) :
    enterRecovery s p = s.setPort p (nakSent (s.port p)) := by
  rw [enterRecovery, h]
  exact recover_sends hn

/-- A flit that fails its CRC or its fields is not used (R331). -/
theorem onFlit_bad (hst : (s.port p).st = .up) (hbad : flitGood f = false) (hfec : f.fecOk = true) (k : State → State) :
    onFlit s p ty f k = enterRecovery s p := by
  simp [onFlit, hst, hbad, discardFlit, hfec]

/-! ### The messages of a DATA flit (R335) -/

theorem unitsIn_zeros (n : Nat) : unitsIn (List.replicate n 0) = 0 := by
  have h : (List.replicate n (0 : BitVec 8)).getD 1 0 = 0 := by
    rw [List.getD_eq_getElem?_getD, List.getElem?_replicate]
    split <;> rfl
  rw [unitsIn, h]
  rfl

/-- No message starts in zeros. -/
theorem takeMsgs_zeros (fuel n : Nat) (s : State) (p : Nat) : takeMsgs fuel s p (List.replicate n 0) = s := by
  cases fuel with
  | zero => rfl
  | succ fuel => exact if_pos (.inr (.inl (by rw [unitsIn_zeros])))

/-- A flit in which no message starts, with none in progress. -/
theorem dataArea_none (hpart : (s.port p).partial_ = []) (hfirst : f.first = 15) : dataArea s p f = s := by
  simp [dataArea, hpart, hfirst]

/-- A flit that holds one message whole. -/
theorem dataArea_whole {m : List (BitVec 8)} (hpart : (s.port p).partial_ = []) (hfirst : f.first = 0)
    (harea : f.area = m ++ List.replicate (240 - m.length) 0) (hlen : m.length = 16 * unitsIn m) (hpos : 0 < unitsIn m) (hshort : m.length < 240) :
    dataArea s p f = gotMsg s p m := by
  have hunits : unitsIn f.area = unitsIn m := by
    rw [unitsIn, harea, List.getD_append _ _ _ _ (by omega), unitsIn]
  have hlong : f.area.length = 240 := by rw [harea, List.length_append, List.length_replicate]; omega
  have hsome : ¬ (f.area = [] ∨ m.length = 0 ∨ 704 < m.length) := by
    rintro (e | e | e)
    · rw [e] at hlong; cases hlong
    · omega
    · omega
  have htake : takeMsgs 16 s p f.area = takeMsgs 15 (gotMsg s p (f.area.take m.length)) p (f.area.drop m.length) := by
    rw [takeMsgs]
    simp only [hunits, ← hlen, hlong]
    rw [if_neg hsome, if_neg (by omega)]
  unfold dataArea
  simp only [hpart, hfirst, if_true, Nat.mul_zero, List.drop_zero]
  rw [if_pos (by decide), htake, harea, List.take_left, List.drop_left, takeMsgs_zeros]

/-- A message for this device, of a length its type may have, is decoded, and its units are owed to the peer (R334, R342). -/
theorem gotMsg_ours {port : BitVec 4} {m : List (BitVec 8)} (hus : forUs s m = true) (hok : lenOk (m.getD 0 0).toNat (unitsIn m) = true) :
    gotMsg s port.toNat m = s.setPort port.toNat (match sentAt port m with
      | some x => { s.port port.toNat with owed := owe (s.port port.toNat).owed m, got := (s.port port.toNat).got ++ [x] }
      | none => { s.port port.toNat with owed := owe (s.port port.toNat).owed m, rxMsgs := (s.port port.toNat).rxMsgs ++ [m] }) := by
  unfold gotMsg
  rw [hus, hok, BitVec.ofNat_toNat, BitVec.setWidth_eq]
  cases sentAt port m <;> simp [freed, setPort_setPort]

/-- A message that goes on is kept as bytes. -/
theorem gotMsg_transit {m : List (BitVec 8)} (hus : forUs s m = false) :
    gotMsg s p m = s.setPort p { s.port p with rxMsgs := (s.port p).rxMsgs ++ [m] } := by
  simp [gotMsg, hus]

/-! ### NAK -/

/-- The first NAK that names a number sends the unacknowledged flits again, with the present ack (R332). -/
theorem port_nakIn (hreplay : (s.port p).replay ≠ []) (hnaks : (s.port p).naks = 0) : (nakIn s p f).port p =
    resendAll { s.port p with naks := 1, lastNak := f.ack, replays := satInc (s.port p).replays } := by
  unfold nakIn
  simp only [hnaks, hreplay, Nat.lt_irrefl, false_and, if_false]
  exact State.port_setPort_same _ _ _

/-! ### The commands of the receiver -/

/-- A DATA flit in order hands over what it holds, and marks a flit time. -/
theorem dataFlit_inOrder {port : BitVec 4} (h : FlitAt s port.toNat 1 f) (hseq : f.seq = (s.port port.toNat).rxSeq) :
    Gives (.dataFlit port f) s (flitTime (dataArea (s.setPort port.toNat (inOrder s port.toNat 1 f)) port.toNat f) port.toNat).tick :=
  gives_of_eq rfl (congrArg (flitTime · port.toNat) (onSeq_inOrder h hseq _))

/-- One out of order is not used. -/
theorem dataFlit_outOfOrder {port : BitVec 4} (h : FlitAt s port.toNat 1 f) (hseq : f.seq ≠ (s.port port.toNat).rxSeq) :
    Gives (.dataFlit port f) s (flitTime (enterRecovery (s.setPort port.toNat (acked s port.toNat 1 f)) port.toNat) port.toNat).tick :=
  gives_of_eq rfl (congrArg (flitTime · port.toNat) (onSeq_outOfOrder h hseq _))

/-- In recovery the receiver uses the ack of such a flit alone. -/
theorem enterRecovery_acked_again (hrec : (s.port p).recovery = true) :
    enterRecovery (s.setPort p (acked s p ty f)) p = s.setPort p (acked s p ty f) := by
  obtain ⟨r, e, ha⟩ := acked_eq s p ty f
  exact enterRecovery_again (by rw [State.port_setPort_same, ha]; exact hrec)

/-- Else it enters recovery, after the ack. -/
theorem enterRecovery_acked_first (hrec : (s.port p).recovery = false) (hn : (s.port p).sentNaks < 15) :
    enterRecovery (s.setPort p (acked s p ty f)) p = s.setPort p (nakSent (acked s p ty f)) := by
  obtain ⟨r, e, ha⟩ := acked_eq s p ty f
  rw [enterRecovery_first (by rw [State.port_setPort_same, ha]; exact hrec) (by rw [State.port_setPort_same, ha]; exact hn),
    State.port_setPort_same, setPort_setPort]

/-- NAK is acted on after its ack. -/
theorem onFlit_nak (h : FlitAt s p 3 f) : onFlit s p 3 f (fun t => if (t.port p).st = .up then nakIn t p f else t) =
    nakIn (s.setPort p (acked s p 3 f)) p f := by
  obtain ⟨r, e, ha⟩ := acked_eq s p 3 f
  rw [onFlit_up h, if_pos (by rw [State.port_setPort_same, ha]; exact h.1)]

/-- The port after its first NAK that names a number. -/
theorem port_nakFlit (hreplay : (acked s p 3 f).replay ≠ []) (hnaks : (s.port p).naks = 0) :
    let t := nakIn (s.setPort p (acked s p 3 f)) p f
    (t.port p).sentFl = (s.port p).sentFl ++ (acked s p 3 f).replay.map (fun x => withCrc { x with ack := (s.port p).rxSeq - 1 }) ∧
      (t.port p).naks = 1 ∧ (t.port p).lastNak = f.ack := by
  obtain ⟨r, e, ha⟩ := acked_eq s p 3 f
  have hport := State.port_setPort_same s p (acked s p 3 f)
  dsimp only
  rw [port_nakIn (by rw [hport]; exact hreplay) (by rw [hport, ha]; exact hnaks), hport, ha]
  exact ⟨rfl, rfl, rfl⟩

/-- HOLD with 1 to 3 is noted after its ack (R440). -/
theorem onFlit_hold (h : FlitAt s p 6 f) (hlo : 1 ≤ (f.area.getD 0 0).toNat) (hhi : (f.area.getD 0 0).toNat ≤ 3) :
    onFlit s p 6 f (fun t => if (t.port p).st = .up ∧ 1 ≤ (f.area.getD 0 0).toNat ∧ (f.area.getD 0 0).toNat ≤ 3
      then t.setPort p { t.port p with hold := f.area.getD 0 0 } else t) = s.setPort p { acked s p 6 f with hold := f.area.getD 0 0 } := by
  obtain ⟨r, e, ha⟩ := acked_eq s p 6 f
  rw [onFlit_up h, if_pos ⟨by rw [State.port_setPort_same, ha]; exact h.1, hlo, hhi⟩, State.port_setPort_same, setPort_setPort]
end

end Sys2Proof.Claims
end

section
/-! PROOFS. The lanes, the initialisation, the loss and the HOLD flits of a Laraor port, and its transit. -/

namespace Sys2Proof.Claims

open Sys2Proof.Machine

section
variable {s : State} {p : Nat} {f : Flit} {lane : BitVec 3}

/-! ### Lanes (R325, R326) -/

theorem movePos_eq (q : Port) (l : Nat) : ∃ pos, movePos q l = { q with lanePos := pos } := by
  unfold movePos
  split <;> exact ⟨_, rfl⟩

theorem withCrc_numbered (ty : Nat) (body : List (BitVec 8)) (seq ack : BitVec 16) (fec : BitVec 32) :
    withCrc { mkFlit 0 0 ty body 0 with seq := seq, ack := ack, fec := fec } = mkFlit seq ack ty body fec := rfl

/-- A sequenced flit takes the next number and is kept for replay (R330). -/
theorem sendSeq_eq (s : State) (p ty : Nat) (body : List (BitVec 8)) : ∃ replay, sendSeq s p ty body = s.setPort p { s.port p with
    sentFl := (s.port p).sentFl ++ [mkFlit (s.port p).txSeq ((s.port p).rxSeq - 1) ty body (s.port p).fec], replay := replay,
    txSeq := (s.port p).txSeq + 1, fec := 0 } := by
  unfold sendSeq sendNumbered
  extract_lets q f
  have hf : f = mkFlit q.txSeq (q.rxSeq - 1) ty body q.fec := withCrc_numbered ty body _ _ _
  exact ⟨_, by rw [hf]⟩

/-- A lane of a direction that had no failed one is lost: the port sends SPARE, and the spare takes the lane's position (R326). -/
theorem laneLost_spare (hfail : (s.port p).rxFailed = none) (hlane : lane ≠ 4) : ∃ locked replay pos, laneLost s p lane =
    spareMade (s.setPort p { s.port p with
      rxFailed := some lane, locked := locked, replay := replay, lanePos := pos, fec := 0,
      sentFl := (s.port p).sentFl ++ [mkFlit (s.port p).txSeq ((s.port p).rxSeq - 1) 5 [lane.setWidth 8] (s.port p).fec],
      txSeq := (s.port p).txSeq + 1 }) p lane := by
  unfold laneLost
  simp only [hfail, if_neg hlane]
  obtain ⟨replay, hsend⟩ := sendSeq_eq (s.setPort p { s.port p with
    rxFailed := some lane, locked := (s.port p).locked &&& ~~~((1 : BitVec 5) <<< lane.toNat) }) p 5 [lane.setWidth 8]
  rw [State.port_setPort_same, setPort_setPort] at hsend
  rw [hsend, State.port_setPort_same]
  obtain ⟨pos, hpos⟩ := movePos_eq _ lane.toNat
  rw [hpos, setPort_setPort]
  exact ⟨_, _, _, rfl⟩

theorem port_spareMade (s : State) (p : Nat) (lane : BitVec 3) : (spareMade s p lane).port p =
    { s.port p with spare := true, failed := lane, event := (s.port p).event ||| BitVec.ofNat 4 (2 ^ 2) } := by
  rw [spareMade, port_portEvent, State.port_setPort_same]

/-- The lane that is lost is the failed one, the spare too, and the corrections counted stay. -/
theorem laneLost_failed (hfail : (s.port p).rxFailed = none) :
    ((laneLost s p lane).port p).rxFailed = some lane ∧ ((laneLost s p lane).port p).laneCe = (s.port p).laneCe := by
  by_cases hlane : lane = 4
  · have h : laneLost s p lane = s.setPort p { s.port p with
        rxFailed := some lane, locked := (s.port p).locked &&& ~~~((1 : BitVec 5) <<< lane.toNat) } := by
      unfold laneLost
      simp only [hfail, if_pos hlane]
    rw [h, State.port_setPort_same]
    exact ⟨rfl, rfl⟩
  · obtain ⟨_, _, _, h⟩ := laneLost_spare hfail hlane
    rw [h, port_spareMade, State.port_setPort_same]
    exact ⟨rfl, rfl⟩

/-- A count that saturates does not fall. -/
theorem le_saturated (n : BitVec 32) (k : Nat) : n.toNat ≤ (BitVec.ofNat 32 (min (n.toNat + k) 0xFFFFFFFF)).toNat := by
  rw [BitVec.toNat_ofNat]
  omega

/-- A lane with too many corrections is lost too, and they are counted (R326). -/
theorem laneCe_fails (hfail : (s.port p).rxFailed = none) : ((laneCe s p lane).port p).rxFailed = some lane ∧
    (tgetD (s.port p).laneCe lane.toNat 0).toNat ≤ (tgetD ((laneCe s p lane).port p).laneCe lane.toNat 0).toNat := by
  unfold laneCe
  extract_lets q more n ce s1
  have hnone : q.rxFailed.isSome ≠ true := by rw [show q.rxFailed = none from hfail]; nofun
  have hport : s1.port p = _ := State.port_setPort_same _ _ _
  obtain ⟨hlost, hce⟩ := laneLost_failed (s := s1) (p := p) (lane := lane) (by rw [hport]; exact hfail)
  rw [if_neg hnone]
  refine ⟨hlost, ?_⟩
  rw [hce, hport, tgetD_tset_same]
  exact le_saturated _ _

/-- SPARE names the lane whose position the transmitter moves to the spare (R326). -/
theorem port_spareIn (harea : f.area.getD 0 0 = lane.setWidth 8) (hlane : lane.toNat ≤ 3) (hfail : (s.port p).txFailed = none) :
    (spareIn s p f).port p = { s.port p with
      txFailed := some lane, spare := true, failed := lane, event := (s.port p).event ||| BitVec.ofNat 4 (2 ^ 2) } := by
  have hnum : ¬ 3 < (f.area.getD 0 0).toNat := by rw [harea, BitVec.toNat_setWidth]; omega
  have hname : (f.area.getD 0 0).setWidth 3 = lane := by rw [harea]; exact BitVec.setWidth_setWidth_of_le lane (by decide)
  unfold spareIn
  simp only [hname, hfail, if_neg hnum]
  rw [port_spareMade, State.port_setPort_same]

/-! ### Initialisation (R327) -/

/-- With every lane trained the receiver waits for codeword lock. -/
theorem pmdDone_allTrained (hst : (s.port p).st = .training) : pmdDone s p 0 =
    s.setPort p { s.port p with trained := 31, locked := 0, rxFailed := none, spare := false, failed := 7 } := by
  have hbad : ((List.range 5).filter fun l => (0 : BitVec 5).getLsbD l) = [] := by decide
  unfold pmdDone
  simp only [hst, hbad]
  rw [if_neg (by decide)]
  rfl

theorem port_sendInit (s : State) (p : Nat) : (sendInit s p).port p = { s.port p with
    st := .init, replay := [], partial_ := [], credits := fullCredits, owed := [], txq := [], txRest := [], txSeq := 0, rxSeq := 0, ackSeq := 0xFFFF,
    recovery := false, naks := 0, sentNaks := 0, fec := 0,
    sentFl := (s.port p).sentFl ++ [mkFlit 0 0xFFFF 4 (initBody s p) (s.port p).fec] } := by
  rw [sendInit, sendFlit_eq, State.port_setPort_same, State.port_setPort_same]
  rfl

/-- The last lane gains codeword lock, and the positions are complete: INIT is sent (R325, R327). -/
theorem laneLock_last {pos : BitVec 3} (hst : (s.port p).st = .training) (hpos : pos.toNat < 4) (hlane : (s.port p).trained.getLsbD lane.toNat = true)
    (hall : (s.port p).locked ||| ((1 : BitVec 5) <<< lane.toNat) = (s.port p).trained)
    (hfull : lanesFull { s.port p with locked := (s.port p).trained, lanePos := tset (s.port p).lanePos lane.toNat pos } = true) :
    laneLock s p lane pos = sendInit (s.setPort p { s.port p with
      locked := (s.port p).trained, lanePos := tset (s.port p).lanePos lane.toNat pos }) p := by
  unfold laneLock
  simp only [hst, hlane, hall]
  rw [if_neg (by simp; omega), if_pos ⟨trivial, trivial, hst ▸ hfull⟩]

/-- INIT from the neighbour of the port's direction, sent from the opposite one, makes the port UP (R327). -/
theorem port_initIn {k : Nat} (hst : (s.port p).st = .init) (hdir : portDir s p = some k) (heven : k % 2 = 0)
    (hdev : BitVec.ofNat 16 (ofBytes (f.area.take 2)) = neighbour s k) (hserves : (f.area.getD 5 0).toNat = k + 1) :
    (initIn s p f).port p = { s.port p with
      st := .up, peerDev := neighbour s k, peerPort := (f.area.getD 2 0).setWidth 4, hold := 0, reroute := false,
      event := (s.port p).event ||| BitVec.ofNat 4 (2 ^ 0) } := by
  simp only [BitVec.ofNat_eq_ofNat] at hserves
  unfold initIn
  simp [-List.getD_eq_getElem?_getD, hst, hdir, heven, hdev, hserves, port_portEvent]

/-! ### Loss (R333) -/

theorem port_countDiscards (s : State) (p n : Nat) : ∃ d, (countDiscards s p n).port p = { s.port p with discards := d } :=
  ⟨_, State.port_setPort_same _ _ _⟩

/-- A port that goes down holds nothing to send again, and the loss is recorded (R333, R471). -/
theorem portDown_lost (s : State) (p reason : Nat) : ∃ r, (portDown s p reason).sark.last = some r ∧ r.cls = 0x09 ∧ r.unit = BitVec.ofNat 16 p ∧
    ((portDown s p reason).port p).st = .down ∧ ((portDown s p reason).port p).replay = [] := by
  unfold portDown
  extract_lets q held n s1 s2 s3
  obtain ⟨r, hlast, hcls, hunit, -, -⟩ := recorded_logFault s3 0x09 0 p 0xFFFF 0 [BitVec.ofNat 8 p, BitVec.ofNat 8 reason]
  have hport : (logFault s3 0x09 0 p 0xFFFF 0 [BitVec.ofNat 8 p, BitVec.ofNat 8 reason]).port p = s2.port p :=
    ((Background.logFault _ _ _ _ _ _ _).after (Background.groupsLink s2 p)).port p
  obtain ⟨d, hd⟩ := port_countDiscards s1 p n
  have hdown : s2.port p = { s1.port p with discards := d, event := (s1.port p).event ||| BitVec.ofNat 4 (2 ^ 1) } := by
    rw [port_portEvent, hd]
  rw [hport, hdown, State.port_setPort_same]
  exact ⟨r, hlast, hcls, hunit, rfl, rfl⟩

/-! ### HOLD (R440) -/

/-- A port after a HOLD flit. -/
def holdSent (q : Port) (b : BitVec 8) : Port :=
  if q.st = .up then { q with sentFl := q.sentFl ++ [mkFlit 0 (q.rxSeq - 1) 6 [b] q.fec], fec := 0 } else q

/-- Each UP port sends one HOLD flit. -/
theorem port_holdFirst (s : State) (b : BitVec 8) (n p : Nat) :
    ((List.range n).foldl (fun s p => if (s.port p).st = .up then sendFlit s p 6 [b] else s) s).port p =
      if p < n then holdSent (s.port p) b else s.port p := by
  induction n with
  | zero => rfl
  | succ n ih =>
    rw [List.range_succ, List.foldl_append, List.foldl_cons, List.foldl_nil]
    generalize (List.range n).foldl (fun s p => if (s.port p).st = .up then sendFlit s p 6 [b] else s) s = u at ih ⊢
    have hlast : ∀ u : State, (if (u.port n).st = .up then sendFlit u n 6 [b] else u).port p = if p = n then holdSent (u.port p) b else u.port p := by
      intro u
      by_cases hp : p = n
      · subst hp
        rw [if_pos rfl, holdSent]
        split
        · exact State.port_setPort_same _ _ _
        · rfl
      · rw [if_neg hp]
        split
        · exact State.port_setPort_ne _ _ hp
        · rfl
    rw [hlast, ih]
    by_cases hp : p = n
    · rw [if_pos hp, if_neg (by omega), if_pos (by omega)]
    · rw [if_neg hp]
      simp only [show (p < n + 1) ↔ p < n by omega]

theorem port_holdPorts (b : BitVec 8) (hp : p < 16) (hst : (s.port p).st = .up) : (holdPorts s b).port p =
    { s.port p with sentFl := (s.port p).sentFl ++ [mkFlit 0 ((s.port p).rxSeq - 1) 6 [b] (s.port p).fec], fec := 0 } := by
  rw [holdPorts, port_holdFirst, if_pos hp, holdSent, if_pos hst]

/-! ### Transit (R338 to R341) -/

theorem takeTransit_remote (s : State) (h : Hdr) (p : Nat) : (takeTransit s h p).2.remote = s.remote := by
  unfold takeTransit
  dsimp only
  split <;> rfl

theorem takeTransit_credits (s : State) (h : Hdr) (p k : Nat) : ((takeTransit s h p).2.port k).credits = (s.port k).credits := by
  unfold takeTransit
  dsimp only
  split
  · dsimp only
    by_cases hk : k = p
    · subst hk; rw [State.port_setPort_same]
    · rw [State.port_setPort_ne _ _ hk]
  · rfl

section
variable {h : Hdr} {vc len : Nat} {d1 : Bool} (hdest : h.dest ≠ devNo s) (hrun : portsRun s.mg.mode = true) (hst : (s.port p).st = .up)
include hdest hrun hst

/-- The router takes the message up. -/
theorem transit_open : ¬ (h.dest = devNo s ∨ portsRun s.mg.mode = false ∨ (s.port p).st ≠ .up) := by
  simp [hdest, hrun, hst]

theorem transit_waits (hroute : routeOf s h vc (some p) len d1 = .wait) : transit s h vc p len d1 = s := by
  rw [transit, if_neg (transit_open hdest hrun hst), hroute]

theorem transit_discards (hroute : routeOf s h vc (some p) len d1 = .discard) :
    transit s h vc p len d1 = countDiscards (takeTransit s h p).2 p 1 := by
  rw [transit, if_neg (transit_open hdest hrun hst), hroute]

/-- A message that goes onward is forwarded, and uses credits of its class on the link (R334, R339). -/
theorem transit_onward {k v : Nat} {e : Bool} (hroute : routeOf s h vc (some p) len d1 = .onward k v e) :
    (transit s h vc p len d1).remote.forwarded = s.remote.forwarded ++ [(h, BitVec.ofNat 3 v, e, BitVec.ofNat 6 len, k)] ∧
      tgetD ((transit s h vc p len d1).port k).credits (creditClass v e) 0 = tgetD (s.port k).credits (creditClass v e) 0 - len := by
  rw [transit, if_neg (transit_open hdest hrun hst), hroute]
  refine ⟨?_, ?_⟩
  · change (takeTransit s h p).2.remote.forwarded ++ _ = _
    rw [takeTransit_remote]
  · change tgetD ((State.setPort _ k _).port k).credits _ 0 = _
    rw [State.port_setPort_same, tgetD_tset_same, takeTransit_credits]
end
end

end Sys2Proof.Claims
end

section
/-! PROOFS. O55, from the lemmas about each flit and each event of a port. -/

open Sys2Proof Sys2Proof.Machine Sys2Proof.Claims

/-- Settles O55: each clause is the lemma about its flit or its event. -/
theorem linkLayer : Obligations.LinkLayer := by
  intro s port f h vc d1 e1 len lane pos k v m p q time nak d
  have hp : p < 16 := port.isLt
  refine ⟨?_, ?_, ?_, ?_, ?_, ?_, ?_, ?_, ?_, ?_, ?_, ?_, ?_, ?_, ?_, ?_, ?_, ?_, ?_, ?_, ?_⟩
  -- IDLE and CREDIT.
  · exact fun hf => gives_of_eq rfl (congrArg (flitTime · p) (onFlit_up hf id))
  · exact fun hf hseq => gives_of_eq rfl (congrArg (flitTime · p) (onSeq_inOrder hf hseq id))
  -- DATA in order: no message, one for this device, one that goes on.
  · intro hf hseq hpart
    obtain ⟨hpart', howed, hgot, hmsgs⟩ : d.partial_ = q.partial_ ∧ d.owed = q.owed ∧ d.got = q.got ∧ d.rxMsgs = q.rxMsgs := inOrder_buffers s p 1 f
    have hdata : Gives (.dataFlit port f) s (flitTime (dataArea (s.setPort p d) p f) p).tick := dataFlit_inOrder hf hseq
    have hnone : ((s.setPort p d).port p).partial_ = [] := by rw [State.port_setPort_same, hpart', hpart]
    refine ⟨fun hfirst => ?_, fun hfirst harea hlen hpos hshort => ?_⟩
    · rwa [dataArea_none hnone hfirst] at hdata
    · rw [dataArea_whole hnone hfirst harea hlen hpos hshort] at hdata
      refine ⟨fun hus hok => ?_, fun hus => ?_⟩
      · rw [gotMsg_ours (s := s.setPort p d) hus hok, setPort_setPort, State.port_setPort_same, howed, hgot, hmsgs] at hdata
        exact hdata
      · rw [gotMsg_transit (s := s.setPort p d) hus, setPort_setPort, State.port_setPort_same, hmsgs] at hdata
        exact hdata
  -- DATA out of order, in recovery and not.
  · intro hf hseq hrec
    exact gives_of_eq (dataFlit_outOfOrder hf hseq) (congrArg (flitTime · p) (enterRecovery_acked_again hrec))
  · intro hf hseq hrec hn
    obtain ⟨r, e, ha⟩ := acked_eq s p 1 f
    have hnak : nakSent (acked s p 1 f) = nak (acked s p 1 f) := by rw [ha]; rfl
    exact gives_of_eq (dataFlit_outOfOrder hf hseq) (congrArg (flitTime · p) ((enterRecovery_acked_first hrec hn).trans (congrArg _ hnak)))
  -- NAK, SPARE, HOLD and INIT.
  · exact fun hf hreplay hnaks => ⟨_, gives_of_eq rfl (onFlit_nak hf), port_nakFlit hreplay hnaks⟩
  · intro hf hseq harea hlane hfail
    obtain ⟨r, e, c, hd⟩ := inOrder_eq s p 5 f
    have hport := port_spareIn (s := s.setPort p (inOrder s p 5 f)) harea hlane (by rw [State.port_setPort_same, hd]; exact hfail)
    refine ⟨_, gives_of_eq rfl (onSeq_inOrder hf hseq _), ?_⟩
    rw [State.port_tick, hport]
    exact ⟨rfl, rfl, rfl, event_bit _ (by decide)⟩
  · exact fun hf hlo hhi => gives_of_eq rfl (onFlit_hold hf hlo hhi)
  · intro hst hgood hty hdir heven hdev hdims hserves
    obtain ⟨r, e, ha⟩ := acked_eq s p 4 f
    have hport := port_initIn (s := s.setPort p (acked s p 4 f)) (by rw [State.port_setPort_same, ha]; exact hst) hdir heven hdev hserves
    refine ⟨_, gives_of_eq rfl (onFlit_taken (.inr hst) hgood hty _), ?_⟩
    rw [State.port_tick, hport]
    exact ⟨rfl, rfl, rfl, event_bit _ (by decide)⟩
  -- A bad flit.
  · intro hst hbad hfec hn
    by_cases hrec : q.recovery = true
    · rw [if_pos hrec]
      exact gives_of_eq rfl (congrArg (flitTime · p) ((onFlit_bad hst hbad hfec id).trans (enterRecovery_again hrec)))
    · rw [if_neg hrec]
      exact gives_of_eq rfl (congrArg (flitTime · p) ((onFlit_bad hst hbad hfec id).trans
        (enterRecovery_first (Bool.eq_false_of_not_eq_true hrec) hn)))
  -- Transit.
  · intro hdest hrun hst
    exact ⟨fun hroute => ⟨_, rfl, transit_onward hdest hrun hst hroute⟩, fun hroute => gives_of_eq rfl (transit_waits hdest hrun hst hroute),
      fun hroute => gives_of_eq rfl (transit_discards hdest hrun hst hroute)⟩
  -- A NAK repeated.
  · intro hst hrec hn
    refine ⟨_, gives_of_eq rfl ((if_pos ⟨hst, hrec⟩).trans (recover_sends hn)), ?_⟩
    rw [State.port_tick, State.port_setPort_same]
    exact ⟨rfl, rfl⟩
  -- Lanes lost.
  · intro hst hfail hlane
    obtain ⟨_, _, _, hlost⟩ := laneLost_spare (s := s) (p := p) (lane := lane) hfail (by rintro rfl; exact absurd hlane (by decide))
    refine ⟨_, gives_of_eq rfl ((if_pos hst).trans hlost), ?_⟩
    rw [State.port_tick, port_spareMade, State.port_setPort_same]
    exact ⟨rfl, rfl, rfl, rfl⟩
  · exact fun hst hfail => ⟨_, gives_of_eq rfl (if_pos hst), laneCe_fails hfail⟩
  -- Training and codeword lock.
  · exact fun hst => gives_of_eq rfl (pmdDone_allTrained hst)
  · intro hst hpos hlane hall hfull
    refine ⟨_, gives_of_eq rfl (laneLock_last hst hpos hlane hall hfull), ?_⟩
    rw [State.port_tick, port_sendInit, State.port_setPort_same]
    exact ⟨rfl, rfl, rfl, rfl⟩
  -- Silence.
  · intro hst hlow
    obtain ⟨r, hlast, hcls, hunit, hdown, hreplay⟩ := portDown_lost s p 0
    have hlow : (!q.lowPower) = true := by rw [hlow]; rfl
    have hgives : Gives (.linkSilenceTimeout port) s (portDown s p 0).tick := gives_of_eq rfl (if_pos ⟨hst, hlow⟩)
    refine ⟨_, r, hgives, ?_⟩
    rw [State.port_tick, State.tick_sark]
    exact ⟨hdown, hreplay, hlast, hcls, hunit⟩
  -- The retry, the hold of routes, and DROWSE.
  · intro hrun hwant hst
    have hruns : portRuns s p = true := by rw [portRuns, hrun, Bool.true_or]
    refine ⟨_, gives_of_eq rfl (if_pos ⟨hruns, hwant, hst⟩), ?_⟩
    rw [State.port_tick, portTrain, State.port_setPort_same]
    exact ⟨rfl, rfl⟩
  · exact fun hus => gives_of_eq rfl (if_neg (by rw [hus]; nofun))
  · exact fun hm hst => gives_of_eq rfl (if_pos ⟨hm, hst⟩)
  -- SAFE.
  · intro hm hst
    refine ⟨_, gives_of_eq rfl (if_pos hm), ?_⟩
    rw [State.port_tick, port_holdPorts 3 hp hst]
    exact ⟨rfl, hst⟩
end

section
/-! PROOFS. A tile declared dead: what its cores, their operations and its requests leave alone, and the RECOVERY that follows. -/

namespace Sys2Proof.Claims

open Sys2Proof.Machine

namespace Background

theorem persist (s : State) (kind : Nat) (payload : List (BitVec 8)) : Background s (persist s kind payload) := outside rfl rfl rfl rfl rfl

theorem modCore (s : State) (k : Nat) (f : Core → Core) : Background s (s.modCore k f) := outside rfl rfl rfl rfl rfl

theorem setSq (s : State) (k : Nat) (q : Seq) : Background s (s.setSq k q) := outside rfl rfl rfl rfl rfl

theorem setTlbs (s : State) (l : Tbl (List TlbEntry)) : Background s { s with tlbs := l } := outside rfl rfl rfl rfl rfl

theorem post (s : State) (m : Msg) : Background s (post s m) := (wakeTile _ _).after (outside rfl rfl rfl rfl rfl)

/-! ### A core that stops (R476) -/

theorem wakeSlotWaits (s : State) : Background s (wakeSlotWaits s) := foldl (fun _ _ t => ite (endWait _ _) (refl t)) s

theorem freeOpSlot (s : State) (k : Nat) : Background s (freeOpSlot s k) := outside rfl rfl rfl rfl rfl

theorem freeCoreOps (s : State) (c : Nat) : Background s (freeCoreOps s c) :=
  ite (refl s) ((wakeSlotWaits _).after (foldl (fun k _ t => freeOpSlot t k) s))

theorem endRecord (s : State) (n : Nat) : Background s (endRecord s n) := by
  unfold Machine.endRecord
  dsimp only
  split <;> exact outside rfl rfl rfl rfl rfl

theorem stopCore (s : State) (c : Nat) : Background s (stopCore s c) := by
  rw [stopCore_eq]
  exact (modCore _ _ _).after ((foldl (fun _ _ t => endRecord t _) _).after (freeCoreOps s c))

theorem redirect (s : State) (c : Nat) : Background s (redirect s c) := by
  unfold Machine.redirect
  split
  · exact refl s
  · extract_lets p nmi s1 s2 s3
    have hroute : ∀ src ∈ List.range 256, (0x3080 * 256 + src) / 256 ∈ reportEntries := fun src hsrc => by
      rw [List.mem_range] at hsrc
      rw [show (0x3080 * 256 + src) / 256 = 0x3080 by omega]
      decide
    have h1 : Background s s1 := foldl (fun src hsrc t => ite (setDval t _ (hroute src hsrc)) (refl t)) s
    have h2 : Background s s2 := (foldl (fun e _ t => pendFic t _ _ _) s1).after h1
    have h3 : Background s s3 := ite ((modCore _ _ _).after h2) h2
    exact (modCore _ _ _).after h3

/-- A core that dies with its tile is retired (R478). -/
theorem declareCore (s : State) (c cls : Nat) (addr : BitVec 64) : Background s (declareCore s c cls addr false) := by
  unfold Machine.declareCore
  split
  · exact refl s
  extract_lets intact site free spare bits s1 s2 s3
  have h1 : Background s s1 := (modCore _ _ _).after (stopCore s c)
  have h2 : Background s s2 := (redirect _ _).after ((modCore _ _ _).after h1)
  rw [if_pos (.inr rfl)]
  exact (logFault _ _ _ _ _ _ _).after h2

/-! ### A tile that stops (R251, R275, R478) -/

theorem deadAnswer (s : State) (r : Req) : Background s (deadAnswer s r) := by
  unfold Machine.deadAnswer
  dsimp only
  split
  · exact post _ _
  · exact post _ _
  · exact post _ _
  · exact post _ _
  · exact post _ _
  · exact (post _ _).andOutside rfl rfl rfl rfl rfl

theorem seqDone (s : State) (k : Nat) : Background s (seqDone s k) := ite (signal _ _ _) (refl s)

theorem recompareShare (s : State) (t : Nat) : Background s (recompareShare s t) := by
  unfold Machine.recompareShare
  refine foldl (fun e _ u => ?_) s
  split
  · exact ite (recompare u _) (refl u)
  · exact refl u

end Background

section
variable {s : State} {k : Nat}

/-- A live tile that is declared dead is dead, and RECOVERY follows (R478, R479). -/
theorem declareTile_kills (hk : k < 32) (hlive : (s.tile k).dead = false) (cls : Nat) (addr : BitVec 64) :
    ∃ u, declareTile s k cls addr = toRecovery u ∧ Background (s.setTile k { s.tile k with dead := true }) u := by
  unfold declareTile
  rw [if_neg (by simp [hlive]; omega)]
  extract_lets s1 s2 old reqs s3 s4 q s5 s6 s7 s8
  have h1 : Background s s1 := .after (.modTile _ _ rfl) (.logFault _ _ _ _ _ _ _)
  have h2 : Background s s2 := .after (.foldl (fun _ _ t => .declareCore t _ _ _) s1) h1
  have h3 : Background _ s3 := h2.setTile (n := k) (c := { s.tile k with dead := true }) rfl
  have h4 : Background _ s4 := .after (.foldl (fun r _ t => .ite (.refl t) (.deadAnswer t r)) s3) h3
  have h5 : Background _ s5 := (Background.setSq _ _ _).after h4
  have h6 : Background _ s6 := (Background.seqDone _ _).after ((Background.setTlbs s5 _).after h5)
  have h7 : Background _ s7 := (Background.recompareShare _ _).after h6
  have h8 : Background _ s8 := (Background.setDval _ _ (by decide)).after h7
  exact ⟨_, rfl, (Background.persist _ _ _).after h8⟩

/-- In SERVICE RECOVERY begins, or waits for the end of a transition (R441, R443). -/
theorem toRecovery_begins (hm : s.mg.mode = .service ∨ s.mg.mode = .quiesce) (ht : s.mg.trans = none) :
    toRecovery s = { s with mg := { s.mg with trans := some ⟨.recovery, .recovery, affected s⟩ } } := by
  rcases hm with h | h <;> simp [toRecovery, beginTrans, h, ht]

theorem toRecovery_waits {u : Trans} (hm : s.mg.mode = .service) (ht : s.mg.trans = some u) :
    toRecovery s = { s with mg := { s.mg with waiting := s.mg.waiting ++ [.recovery] } } := by
  simp [toRecovery, beginTrans, hm, ht]
end

end Sys2Proof.Claims
end

section
/-! PROOFS. The course of a mode transition: how it begins, its acknowledgements, its end in the target mode, and its bound. -/

namespace Sys2Proof.Claims

open Sys2Proof.Machine

section
variable {s : State}

/-! ### How a transition begins (R441, R444) -/

theorem beginTrans_idle (ht : s.mg.trans = none) (m b : Mode) :
    beginTrans s m b = { s with mg := { s.mg with trans := some ⟨m, b, affected s⟩ } } := by
  simp only [beginTrans, ht]

/-- mode_cmd has no effect during a transition, and in LOADER. -/
theorem modeCmd_refused (h : s.mg.trans.isSome = true ∨ s.mg.mode = .loader) {v : Nat} (hv : v ∈ [1, 2, 3, 4]) : modeCmd s v = s := by
  have hstat : modeStatus s v ≠ 0 := by
    unfold modeStatus
    rcases h with h | h
    · rw [if_pos h]; decide
    · split
      · decide
      · rw [h]
        simp only [List.mem_cons, List.not_mem_nil, or_false] at hv
        rcases hv with rfl | rfl | rfl | rfl <;> decide
  exact if_pos hstat

theorem modeCmd_service (hm : s.mg.mode = .service) (ht : s.mg.trans = none) :
    modeCmd s 1 = beginTrans s .quiesce .service ∧ modeCmd s 2 = beginTrans s .hold .service ∧ modeCmd s 4 = toSafe s 0 := by
  simp [modeCmd, modeStatus, hm, ht, reacting]

theorem modeCmd_resume (hm : s.mg.mode = .quiesce ∨ s.mg.mode = .hold) (ht : s.mg.trans = none) :
    modeCmd s 3 = beginTrans s s.mg.base s.mg.base := by
  rcases hm with h | h <;> simp [modeCmd, modeStatus, h, ht]

/-- In DROWSE QUIESCE wakes the device, and waits (R444). -/
theorem modeCmd_drowse (hm : s.mg.mode = .drowse) (ht : s.mg.trans = none) : modeCmd s 1 =
    { s with mg := { s.mg with trans := some ⟨s.mg.base, s.mg.base, affected s⟩, waiting := s.mg.waiting ++ [.quiesce] } } := by
  simp [modeCmd, modeStatus, modeOfCmd, wakeDevice, beginTrans, hm, ht]

/-! ### The end of a transition (R442) -/

/-- The mode is entered with its notices, and no transition is in progress. -/
theorem enterMode_eq (s : State) (m b : Mode) : ∃ u, Background s u ∧ u.sark = s.sark ∧
    enterMode s m b = { u with mg := { u.mg with mode := m, base := modeBase m b, trans := none } } :=
  ⟨_, (Background.msix _ _).after (Background.signal _ _ _), (msix_sark _ _).trans (signal_sark _ _ _), rfl⟩

/-- With no bank waiting for a copy none is copied. -/
theorem copyBanks_none (h : s.sark.bankPend = []) : ∃ k, copyBanks s = { s with sark := k } :=
  ⟨{ s.sark with bankPend := [] }, by rw [copyBanks, h]; rfl⟩

theorem nextTrigger_none (h : s.mg.waiting = []) : nextTrigger s = s := by simp [nextTrigger, h]

/-- RECOVERY that waited begins (R443). -/
theorem nextTrigger_recovery (hm : s.mg.mode = .quiesce) (ht : s.mg.trans = none) (hw : s.mg.waiting = [.recovery]) :
    nextTrigger s = { s with mg := { s.mg with waiting := [], trans := some ⟨.recovery, .recovery, affected s⟩ } } := by
  simp [nextTrigger, hw, ht, applyTrigger, toRecovery, beginTrans, hm]
  rfl

/-- In SAFE no trigger that waited acts. -/
theorem applyTrigger_safe (hm : s.mg.mode = .safe) (ht : s.mg.trans = none) (m : Mode) : applyTrigger s m = s := by
  cases m <;> simp [applyTrigger, toRecovery, toDegraded, toSafe, starting, reacting, wakeDevice, drowseOk, hm, ht]

theorem nextTrigger_safe (hm : s.mg.mode = .safe) (ht : s.mg.trans = none) : ∃ w, nextTrigger s = { s with mg := { s.mg with waiting := w } } := by
  have hstart : ∃ w, s = { s with mg := { s.mg with waiting := w } } := ⟨s.mg.waiting, rfl⟩
  refine keep_foldl (P := fun t => ∃ w, t = { s with mg := { s.mg with waiting := w } }) ?_ _ hstart
  rintro _ m ⟨w, rfl⟩
  dsimp only
  split
  · exact ⟨w.filter (· != m), applyTrigger_safe (s := { s with mg := { s.mg with waiting := w.filter (· != m) } }) hm ht m⟩
  · exact ⟨w, rfl⟩

/-- QUIESCE is entered from SERVICE, with no bank to copy. -/
theorem finishTrans_quiesce (hm : s.mg.mode = .service) (hawake : Awake s) (hbank : s.sark.bankPend = []) :
    ∃ u, finishTrans s ⟨.quiesce, .service, []⟩ = nextTrigger u ∧ u.mg.mode = .quiesce ∧ u.mg.base = .service ∧ u.mg.trans = none ∧
      u.mg.waiting = s.mg.waiting ∧ ∀ j, (u.tile j).dead = (s.tile j).dead := by
  obtain ⟨u, hback, hsark, henter⟩ := enterMode_eq s .quiesce .service
  obtain ⟨k, hcopy⟩ := copyBanks_none (s := enterMode s .quiesce .service) (by rw [henter]; exact (congrArg Sark.bankPend hsark).trans hbank)
  have hfinish : finishTrans s ⟨.quiesce, .service, []⟩ = nextTrigger (copyBanks (enterMode s .quiesce .service)) := by
    have hform : (dirForm .service != dirForm .quiesce) = false := rfl
    simp [finishTrans, hm, hasBase, hform, onEntry]
  refine ⟨_, hfinish, ?_⟩
  rw [hcopy, henter]
  exact ⟨rfl, rfl, rfl, (hback.plan hawake).2, hback.dead⟩

/-- SAFE is entered from SERVICE. -/
theorem finishTrans_safe (hm : s.mg.mode = .service) : let t := finishTrans s ⟨.safe, .safe, []⟩
    t.mg.mode = .safe ∧ t.mg.pd = s.mg.pd ∧ t.sark.last = s.sark.last := by
  obtain ⟨u, hback, hsark, henter⟩ := enterMode_eq s .safe .safe
  have hfinish : finishTrans s ⟨.safe, .safe, []⟩ = nextTrigger (onEntry (enterMode s .safe .safe) .safe) := by
    have hform : (dirForm .service != dirForm .safe) = false := rfl
    simp [finishTrans, hm, hasBase, hform]
  obtain ⟨w, hnext⟩ := nextTrigger_safe (s := onEntry (enterMode s .safe .safe) .safe) (by rw [henter]; rfl) (by rw [henter]; rfl)
  rw [hfinish, hnext, henter]
  exact ⟨rfl, hback.pd, (congrArg Sark.last hsark :)⟩

/-! ### Acknowledgements -/

/-- An acknowledgement of a block that is no tile removes it, and the dead tiles, from those that are awaited. -/
theorem ack_block {t : Trans} {b : Nat} (ht : s.mg.trans = some t) (htarget : t.target ≠ .loader ∧ t.target ≠ .standby) (hb : 32 ≤ b) :
    Machine.ack s b =
      let left := t.waiting.filter fun k => k != b && !(decide (k < 32) && (s.tile k).dead)
      let u := { s with mg := { s.mg with trans := some { t with waiting := left } } }
      if left = [] then finishTrans u { t with waiting := left } else u := by
  have hb' : ¬ b < 32 := by omega
  obtain ⟨hloader, hstandby⟩ := htarget
  simp only [Machine.ack, ht, hloader, hstandby, hb', false_and, or_self, if_false]

/-- Some blocks are still awaited. -/
theorem ack_waits {t : Trans} {b : Nat} (ht : s.mg.trans = some t) (htarget : t.target ≠ .loader ∧ t.target ≠ .standby) (hb : 32 ≤ b)
    (hleft : (t.waiting.filter fun k => k != b && !(decide (k < 32) && (s.tile k).dead)) ≠ []) : Machine.ack s b = { s with mg := { s.mg with
      trans := some { t with waiting := t.waiting.filter fun k => k != b && !(decide (k < 32) && (s.tile k).dead) } } } := by
  rw [ack_block ht htarget hb]
  exact if_neg hleft

/-- The last acknowledgement ends the transition in its target mode (R442). -/
theorem ack_last {b : Nat} (hm : s.mg.mode = .service) (hwait : s.mg.waiting = []) (hbank : s.sark.bankPend = [])
    (ht : s.mg.trans = some ⟨.quiesce, .service, [b]⟩) (hb : 32 ≤ b) : let t := Machine.ack s b
    t.mg.mode = .quiesce ∧ t.mg.base = .service ∧ t.mg.trans = none := by
  have hend : Machine.ack s b = finishTrans { s with mg := { s.mg with trans := some ⟨.quiesce, .service, []⟩ } } ⟨.quiesce, .service, []⟩ := by
    simp [ack_block ht ⟨nofun, nofun⟩ hb]
  obtain ⟨u, hfinish, hmode, hbase, hnone, hwaiting, -⟩ := finishTrans_quiesce
    (s := { s with mg := { s.mg with trans := some ⟨.quiesce, .service, []⟩ } }) hm
    (awake_of_target (by rw [hm]; decide) rfl nofun) hbank
  rw [hend, hfinish, nextTrigger_none (hwaiting.trans hwait)]
  exact ⟨hmode, hbase, hnone⟩

/-! ### The bound of a transition -/

/-- A late block that is no tile takes the device to SAFE, with a record of the block (R442). -/
theorem ackLate_block {u : Trans} {b : Nat} (hm : s.mg.mode = .service) (ht : s.mg.trans = some u)
    (htarget : u.target = .quiesce) (hw : u.waiting = [b]) (hb : 32 ≤ b) : let t := ackLate s
    Towards t .safe ∧ t.pins.safe = true ∧ ∃ r, t.sark.last = some r ∧ r.cls = 0x12 := by
  have hlog := Background.logFault s 0x12 2 b 0xFFFF 0 []
  obtain ⟨r, hlast, hcls, -⟩ := recorded_logFault s 0x12 2 b 0xFFFF 0 []
  have hawake : Awake s := awake_of_target (by rw [hm]; decide) ht (by rw [htarget]; decide)
  have htile : ¬ b < 32 := by omega
  have hlate : ackLate s = toSafe (logFault s 0x12 2 b 0xFFFF 0 []) 0x12 := by simp [ackLate, ht, htarget, hw, hb, htile]
  have hmode := hlog.mode.trans hm
  have htrans := (hlog.plan hawake).1.trans ht
  rw [hlate]
  generalize logFault s 0x12 2 b 0xFFFF 0 [] = v at hmode htrans hlast
  have hsafe : toSafe v 0x12 = { v with
      pins := { v.pins with safe := true },
      mg := { v.mg with trans := some ⟨.safe, .safe, affected v⟩, waiting := [], start := { v.mg.start with safeClass := 0x12 } } } := by
    simp [toSafe, starting, htrans, htarget, hmode, reacting]
  rw [hsafe]
  exact ⟨⟨_, rfl, rfl⟩, rfl, r, hlast, hcls⟩

/-- On the way to SAFE the domain of a late block is gated, and SAFE is entered (R442). -/
theorem ackLate_gates {b : Nat} (hm : s.mg.mode = .service) (ht : s.mg.trans = some ⟨.safe, .safe, [b]⟩) (hb : 32 ≤ b) : let t := ackLate s
    t.mg.mode = .safe ∧ tgetD t.mg.pd b .on = .off ∧ ∃ r, t.sark.last = some r ∧ r.cls = 0x12 := by
  have hlog := Background.logFault s 0x12 2 b 0xFFFF 0 []
  obtain ⟨r, hlast, hcls, -⟩ := recorded_logFault s 0x12 2 b 0xFFFF 0 []
  have htile : ¬ b < 32 := by omega
  have hgate : gateLate s b = setPd (logFault s 0x12 2 b 0xFFFF 0 []) b .off := if_neg htile
  have hlate : ackLate s = finishTrans { gateLate s b with mg := { (gateLate s b).mg with trans := some ⟨.safe, .safe, []⟩ } } ⟨.safe, .safe, []⟩ := by
    simp [ackLate, ht]
  have hmode := hlog.mode.trans hm
  rw [hlate, hgate]
  generalize logFault s 0x12 2 b 0xFFFF 0 [] = v at hmode hlast
  obtain ⟨hsafe, hpd, hsark⟩ := finishTrans_safe (s := { setPd v b .off with mg := { (setPd v b .off).mg with trans := some ⟨.safe, .safe, []⟩ } }) hmode
  exact ⟨hsafe, by rw [hpd]; exact tgetD_tset_same _ _ _ _, r, hsark.trans hlast, hcls⟩

/-- A late tile is dead; the transition ends, and RECOVERY follows (R442). -/
theorem ackLate_tile {k : Nat} (hm : s.mg.mode = .service) (hk : k < 32) (hlive : (s.tile k).dead = false) (hwait : s.mg.waiting = [])
    (hbank : s.sark.bankPend = []) (ht : s.mg.trans = some ⟨.quiesce, .service, [k]⟩) :
    ((ackLate s).tile k).dead = true ∧ (ackLate s).mg.mode = .quiesce ∧ Towards (ackLate s) .recovery := by
  have hawake : Awake s := awake_of_target (by rw [hm]; decide) ht nofun
  obtain ⟨u, hkill, hback⟩ := declareTile_kills hk hlive 0x08 0
  obtain ⟨htrans, hwaiting⟩ := hback.plan hawake
  rw [toRecovery_waits (hback.mode.trans hm) (htrans.trans ht)] at hkill
  simp only [BitVec.ofNat_eq_ofNat] at hkill
  set v : State := { u with mg := { u.mg with waiting := u.mg.waiting ++ [.recovery] } } with hv
  have htv : v.mg.trans = some ⟨.quiesce, .service, [k]⟩ := htrans.trans ht
  have hlate : ackLate s = finishTrans { v with mg := { v.mg with trans := some ⟨.quiesce, .service, []⟩ } } ⟨.quiesce, .service, []⟩ := by
    simp [ackLate, ht, hk, hkill, htv]
  obtain ⟨w, hfinish, hmode, hbase, hnone, hwait', hdead⟩ := finishTrans_quiesce
    (s := { v with mg := { v.mg with trans := some ⟨.quiesce, .service, []⟩ } }) (hback.mode.trans hm)
    (awake_of_target (by rw [show _ = s.mg.mode from hback.mode, hm]; decide) rfl nofun) (hback.bankPend.trans hbank)
  have hrec : w.mg.waiting = [.recovery] := by rw [hwait', hv]; simp [hwaiting, hwait]
  rw [hlate, hfinish, nextTrigger_recovery hmode hnone hrec]
  exact ⟨(hdead k).trans ((hback.dead k).trans (by rw [State.tile_setTile_same])), hmode, _, rfl, rfl⟩

/-! ### RECOVERY (R441) and starts (R419, R420) -/

/-- A start trigger leads to LOADER. -/
theorem towards_trigger (hstart : startable s.mg.mode = true) (warm : Bool) : Towards (trigger s warm) .loader := by
  have hbegin : ∀ (t : State) (w : Bool), Towards (beginStart t w) .loader := fun t w => ⟨_, rfl, rfl⟩
  unfold trigger
  rw [if_neg (by simp [hstart])]
  split
  · unfold beginWarm
    extract_lets s1 s2
    split
    · exact hbegin _ _
    · exact ⟨_, rfl, rfl⟩
  · exact hbegin _ _

/-- The end of the re-verification of RECOVERY (R441). -/
theorem reverified_passed (hm : s.mg.mode = .recovery) (ht : s.mg.trans = none) (hspare : dval s 0x0200 4 = 0) :
    reverified s true = beginTrans s .degraded .degraded := by
  simp [reverified, hm, ht, hspare]

theorem reverified_failed (hm : s.mg.mode = .recovery) (ht : s.mg.trans = none) : reverified s false = trigger s true := by
  simp [reverified, hm, ht]
end

end Sys2Proof.Claims
end

section
/-! PROOFS. Memory traffic leaves the power domains alone: as for the channels of Valley, each function that a read by an agent without
caches can set off has one lemma, which cites those of the functions that it calls. -/

namespace Sys2Proof.Machine

/-- The state of the power domains and the requests to switch them off that wait. -/
def State.power (s : State) : Tbl Power × List Nat := (s.mg.pd, s.mg.pdPend)

end Sys2Proof.Machine

namespace Sys2Proof.Claims

open Sys2Proof.Machine

theorem Background.power {s t : State} (h : Background s t) : t.power = s.power := Prod.ext h.pd h.pdPend

theorem foldl_power {α : Type} {f : State → α → State} (hf : ∀ s a, (f s a).power = s.power) (l : List α) (s : State) :
    (l.foldl f s).power = s.power := by
  induction l generalizing s with
  | nil => rfl
  | cons a l ih => exact (ih (f s a)).trans (hf s a)

/-! ### Transitions, interrupts and the fault log -/
theorem setDval_power {s i j v} : (setDval s i j v).power = s.power := rfl
theorem beginTrans_power {s m b} : (beginTrans s m b).power = s.power := by
  grind [State.power, beginTrans]
theorem wakeTile_power {s t} : (wakeTile s t).power = s.power := (Background.wakeTile s t).power
theorem endWait_power {s n} : (endWait s n).power = s.power := (Background.endWait s n).power
theorem pendFic_power {s k src v} : (pendFic s k src v).power = s.power := (Background.pendFic s k src v).power
theorem signal_power {s src v} : (signal s src v).power = s.power := (Background.signal s src v).power
theorem logFault_power {s cls react unit site addr detail} : (logFault s cls react unit site addr detail).power = s.power :=
  (Background.logFault s cls react unit site addr detail).power
theorem countOne_power {k who ev s j} : (countOne k who ev s j).power = s.power := by
  grind [State.power, countOne, pendFic_power, State.setCore_mg]
theorem countEvent_power {s k who ev} : (countEvent s k who ev).power = s.power := by
  grind [State.power, countEvent, countOne_power, foldl_power]
/-! ### Codewords -/
theorem setMemLine_power {s line l} : (setMemLine s line l).power = s.power := rfl
theorem mcEvent_power {s mc bit} : (mcEvent s mc bit).power = s.power := by
  grind [State.power, mcEvent, signal_power, State.setMc_mg]
theorem toDegraded_power {s} : (toDegraded s).power = s.power := by
  grind [State.power, toDegraded, beginTrans_power]
theorem spareExhausted_power {s bit unit} : (spareExhausted s bit unit).power = s.power := by
  grind [State.power, spareExhausted, toDegraded_power, logFault_power, setDval_power]
theorem setUnit_power {s mc unit st clear} : (setUnit s mc unit st clear).power = s.power := by
  grind [State.power, setUnit, mcEvent_power, persist, State.setMc_mg]
theorem setGroupSt_power {s mc group st} : (setGroupSt s mc group st).power = s.power := by
  grind [State.power, setGroupSt, mcEvent_power, persist, State.setMc_mg]
theorem groupRetiring_power {s mc group} : (groupRetiring s mc group).power = s.power := by
  grind [State.power, groupRetiring, setGroupSt_power, spareExhausted_power]
theorem suspectUnit_power {s mc k} : (suspectUnit s mc k).power = s.power := by
  grind [State.power, suspectUnit, setUnit_power, State.setMc_mg]
theorem countUnit_power {s p u} : (countUnit s p u).power = s.power := by
  grind [State.power, countUnit, suspectUnit_power, State.setMc_mg]
theorem retireGroup_power {s mc group} : (retireGroup s mc group).power = s.power := by
  grind [State.power, retireGroup, groupRetiring_power]
theorem countUe_power {s p pair} : (countUe s p pair).power = s.power := by
  grind [State.power, countUe, retireGroup_power, State.setMc_mg]
theorem replaceLine_power {s p line ev} : (replaceLine s p line ev).power = s.power := by
  grind [State.power, replaceLine, setMemLine_power]
theorem applyErr_power {s pair e} : (applyErr s pair e).power = s.power := by
  unfold applyErr
  split <;> rfl
theorem injectPair_power {s pair} : (injectPair s pair).power = s.power := by
  grind [State.power, injectPair]
theorem corrected_power {s p fixes} : (corrected s p fixes).power = s.power := by
  grind [State.power, corrected, countUnit_power, foldl_power, State.setMc_mg]
theorem uncorrected_power {s p lpa} : (uncorrected s p lpa).power = s.power := by
  grind [State.power, uncorrected, logFault_power, mcEvent_power, State.setMc_mg]
theorem readPair_power {s pair} : (readPair s pair).power = s.power := by
  grind [State.power, readPair, injectPair_power, applyErr_power, corrected_power, replaceLine_power, countUe_power, uncorrected_power]
theorem writeMemLine_power {s line l} : (writeMemLine s line l).power = s.power := by
  grind [State.power, writeMemLine, setMemLine_power, readPair_power]
/-! ### Caches -/
theorem post_power {s m} : (post s m).power = s.power := (Background.post _ _).power
theorem recompare_power {s line} : (recompare s line).power = s.power := (Background.recompare _ _).power
theorem demandRead_power {s pair} : (demandRead s pair).power = s.power := by
  grind [State.power, demandRead, recompare_power, readPair_power]
theorem storeLine_power {s line l} : (storeLine s line l).power = s.power := by
  grind [State.power, storeLine, recompare_power, writeMemLine_power]
theorem l1dError_power {s core line word} : (l1dError s core line word).1.power = s.power := by
  grind [State.power, l1dError, sarkCount, logFault_power, State.modCore_mg]
theorem evictL1_power {s core who line} : (evictL1 s core who line).power = s.power := by
  grind [State.power, evictL1, l1dError_power, countEvent_power, post_power, State.modCore_mg]
theorem makeRoom_power {s core who line} : ((makeRoom s core who line).getD s).power = s.power := by
  grind [State.power, makeRoom, evictL1_power]
theorem l1dHit_power {s core who line word} : (l1dHit s core who line word).2.power = s.power := by
  grind [State.power, l1dHit, l1dError_power, evictL1_power]
theorem missWrite_power {s core who line na} : ((missWrite s core who line na).getD s).power = s.power := by
  grind [State.power, missWrite, makeRoom_power, countEvent_power, post_power, State.modCore_mg]
/-! ### Lines at their homes -/
theorem l2Evict_power {s tile line} : (l2Evict s tile line).power = s.power := by
  grind [State.power, l2Evict, post_power, storeLine_power, State.modCore_mg, State.setTile_mg]
theorem l2Room_power {s tile set} : (l2Room s tile set).power = s.power := by
  grind [State.power, l2Room, l2Evict_power, State.setTile_mg]
theorem l2Put_power {s tile line l} : (l2Put s tile line l).power = s.power := by
  grind [State.power, l2Put, l2Room_power, storeLine_power, State.modTile_mg]
theorem absorb_power {s line d na} : (absorb s line d na).power = s.power := by
  grind [State.power, absorb, l2Put_power, storeLine_power]
theorem cleanL2_power {s line drop} : (cleanL2 s line drop).power = s.power := by
  grind [State.power, cleanL2, storeLine_power, State.modTile_mg]
theorem setEntry_power {s line e} : (setEntry s line e).power = s.power := by
  grind [State.power, setEntry, State.modTile_mg]
theorem answer_power {s r k d contended} : (answer s r k d contended).power = s.power := by
  grind [State.power, answer, post_power]
theorem startRead_power {s r} : (startRead s r).power = s.power := by
  grind [State.power, startRead, answer_power]
theorem injectL2_power {s h line} : (injectL2 s h line).power = s.power := by
  grind [State.power, injectL2, sarkCount, logFault_power, l2Evict_power, recompare_power, State.modTile_mg]
theorem fetchData_power {s x} : (fetchData s x).1.power = s.power := by
  grind [State.power, fetchData, injectL2_power, startRead_power]
theorem sendSnoop_power {s r x t} : (sendSnoop s r x t).1.power = s.power := by
  grind [State.power, sendSnoop, injectL2_power, post_power, setEntry_power, State.setTile_mg]
theorem sendSnoops_power {s r x ts} : (sendSnoops s r x ts).1.power = s.power := by
  suffices h : ∀ p : State × Txn, (ts.foldl (fun a t => sendSnoop a.1 r a.2 t) p).1.power = p.1.power from h (s, x)
  induction ts with
  | nil => exact fun _ => rfl
  | cons t ts ih => exact fun p => (ih _).trans sendSnoop_power
theorem openTxn_power {s r} : (openTxn s r).power = s.power := by
  grind [State.power, openTxn, answer_power, sendSnoops_power, fetchData_power, setEntry_power]
theorem stashTo_power {s core line data} : (stashTo s core line data).power = s.power := by
  grind [State.power, stashTo, post_power, setEntry_power, State.setCore_mg]
theorem wrfWrite_power {s line data stash} : (wrfWrite s line data stash).power = s.power := by
  cases stash <;> grind [wrfWrite, l2Put_power, storeLine_power, recompare_power, stashTo_power]
theorem homeMerge_power {s st} : (homeMerge s st).power = s.power := by
  grind [State.power, homeMerge, injectL2_power, l2Put_power, demandRead_power, storeLine_power, recompare_power]
theorem closeTxn_power {s x} : (closeTxn s x).power = s.power := by
  grind [State.power, closeTxn, answer_power, setEntry_power, recompare_power, storeLine_power, l2Put_power, cleanL2_power, homeMerge_power,
    wrfWrite_power, State.modTile_mg]
theorem acceptReq_power {s r t l} (h : acceptReq s r = some (t, l)) : t.power = s.power := by
  grind [State.power, acceptReq, openTxn_power, setEntry_power]
theorem nextPrio_power {s tile line r t} (h : nextPrio s tile line = some (r, t)) : t.power = s.power := by
  have htake : ∀ (p : Req → Bool) (q : List Req) (f : List Req → Tile → Tile),
      (splitAtFirst p q).map (fun a => (a.2.1, s.modTile tile (f (a.1 ++ a.2.2)))) = some (r, t) → t.power = s.power := fun p q f e => by
    obtain ⟨a, -, ha⟩ := Option.map_eq_some_iff.mp e
    exact congrArg (fun b => b.2.power) ha.symm
  unfold nextPrio at h
  dsimp only at h
  split at h
  · next e =>
    split_ifs at e
    exact htake _ _ (fun l x => { x with prioQ := l }) (e.trans h)
  · exact htake _ _ (fun l x => { x with prioQ := l }) h
theorem refuse_power {s r} : (refuse s r).power = s.power := by
  grind [State.power, refuse, answer_power, State.modTile_mg]
/-- A home's work on a line, which its own fuel bounds. -/
theorem homeGo_power {fuel s line} : (homeGo fuel s line).power = s.power := by
  induction fuel generalizing s line with
  | zero => rfl
  | succ fuel ih =>
    rw [homeGo]
    split
    · rfl
    · split_ifs
      · rfl
      · grind [sendSnoops_power, setEntry_power]
      · grind [fetchData_power, setEntry_power]
      · extract_lets s1 s2
        have hqueued : s2.power = s.power := by grind [closeTxn_power, setEntry_power, acceptReq_power, refuse_power]
        split
        · exact hqueued
        · next h => grind [nextPrio_power h, acceptReq_power]
/-! ### The core's side -/
theorem returnCredit_power {s r} : (returnCredit s r).power = s.power := by
  cases r <;> grind [State.power, returnCredit, State.modCore_mg]
theorem perfStore_power {s core st} : (perfStore s core st).power = s.power := by
  grind [State.power, perfStore, recompare_power, State.modCore_mg]
theorem sendWrm_power {s core st} : (sendWrm s core st).power = s.power := by
  grind [State.power, sendWrm, post_power, State.modCore_mg]
theorem takeStash_power {s core who line} : ((takeStash s core who line).getD s).power = s.power := by
  have hroom : ((makeRoom (injectL2 s (tileOf core) line) core who line).getD _).power = _ := makeRoom_power
  cases h : makeRoom (injectL2 s (tileOf core) line) core who line <;>
    grind [State.power, takeStash, injectL2_power, State.modTile_mg, State.modCore_mg]
theorem doStore_power {s core st} : (doStore s core st).power = s.power := by
  grind [State.power, doStore, perfStore_power, State.modCore_mg]
theorem kickStore_power {s core st} : (kickStore s core st).power = s.power := by
  grind [State.power, kickStore, l1dHit_power, doStore_power, missWrite_power, sendWrm_power, takeStash_power]
theorem kickStores_power {s core} : (kickStores s core).power = s.power := by
  grind [State.power, kickStores, kickStore_power, foldl_power]
theorem wakePends_power {s core f} : (wakePends s core f).power = s.power := by
  grind [State.power, wakePends, State.modCore_mg]
theorem wakeLine_power {s core line ifetch d contended early} : (wakeLine s core line ifetch d contended early).power = s.power := by
  grind [State.power, wakeLine, wakePends_power, State.modCore_mg]
theorem killFill_power {s core line} : (killFill s core line).power = s.power := by
  grind [State.power, killFill, sarkCount, foldl_power, State.modCore_mg]
theorem fill_power {s m st} : (fill s m st).power = s.power := by
  grind [State.power, fill, returnCredit_power, wakeLine_power, countEvent_power, evictL1_power, killFill_power, kickStores_power, State.setCore_mg]
theorem snoopReply_power {s m k st d fwd na} : (snoopReply s m k st d fwd na).power = s.power := by
  grind [State.power, snoopReply, post_power]
theorem forward_power {s m k d} : (forward s m k d).power = s.power := by
  grind [State.power, forward, post_power]
theorem useOnce_power {s core line ifetch} : (useOnce s core line ifetch).power = s.power := by
  grind [State.power, useOnce, wakePends_power, State.modCore_mg]
theorem snoopL1i_power {s core line} : (snoopL1i s core line).power = s.power := by
  grind [State.power, snoopL1i, useOnce_power, State.modCore_mg]
theorem snoopError_power {s k core line} : (snoopError s k core line).1.power = s.power := by
  grind [State.power, snoopError, l1dError_power, State.modCore_mg]
theorem snoopAbsent_power {s m core line inval i} : (snoopAbsent s m core line inval i).power = s.power := by
  cases i <;> grind [snoopAbsent, snoopReply_power, useOnce_power]
theorem snoopHeld_power {s m k core line l} : (snoopHeld s m k core line l).power = s.power := by
  unfold snoopHeld
  grind [State.power, snoopReply_power, useOnce_power, forward_power, State.modCore_mg]
theorem takeMsg_power {s p m t} (h : takeMsg s p = some (m, t)) : t.power = s.power := by
  grind [State.power, takeMsg]
theorem takeFor_power {s k core line m t} (h : takeFor s k core line = some (m, t)) : t.power = s.power := takeMsg_power h
theorem snoop_power {s k core line} : (snoop s k core line).power = s.power := by
  unfold snoop
  split
  · rfl
  · next h => grind [takeFor_power h, snoopError_power, snoopReply_power, snoopL1i_power, snoopAbsent_power, snoopHeld_power]
theorem snoopAnswer_power {s k core line} : (snoopAnswer s k core line).power = s.power := by
  unfold snoopAnswer
  split
  · rfl
  · next h => grind [takeMsg_power h, setEntry_power, absorb_power, homeGo_power]
theorem homeWb_power {s k core line} : (homeWb s k core line).power = s.power := by
  unfold homeWb
  split
  · rfl
  · next h => grind [State.power, takeMsg_power h, sarkCount, post_power, setEntry_power, absorb_power, homeGo_power]
theorem stashRefused_power {s core line} : (stashRefused s core line).power = s.power := by
  unfold stashRefused
  split
  · rfl
  · next h => grind [takeMsg_power h, setEntry_power, l2Put_power, homeGo_power]
theorem granted_power {s core line} : (granted s core line).power = s.power := by
  unfold granted
  split
  · rfl
  · next h => grind [State.power, takeFor_power h, returnCredit_power, wakeLine_power, kickStores_power, State.modCore_mg]
theorem dataTo_power {s k st core line} : (dataTo s k st core line).power = s.power := by
  unfold dataTo
  split
  · rfl
  · next h => grind [takeFor_power h, fill_power]
theorem memArrived_power {s line} : (memArrived s line).power = s.power := by
  grind [State.power, memArrived, setEntry_power, l2Put_power, homeGo_power]
/-! ### Reads and translations of an agent -/
theorem deliverMsg_power {s m} : (deliverMsg s m).power = s.power := by
  grind [State.power, deliverMsg, snoop_power, snoopAnswer_power, stashRefused_power, homeWb_power, granted_power, dataTo_power]
theorem settleLine_power {fuel s line} : (settleLine fuel s line).power = s.power := by
  induction fuel generalizing s with
  | zero => rfl
  | succ fuel ih => grind [settleLine, deliverMsg_power, memArrived_power, demandRead_power]
theorem reachHome_power {s line} : (reachHome s line).power = s.power := by
  grind [State.power, reachHome, settleLine_power, wakeTile_power]
theorem agentRead_power {s key} : (agentRead s key).2.power = s.power := by
  grind [State.power, agentRead, reachHome_power, injectL2_power, demandRead_power]
theorem tlbInstall_power {s a e} : (tlbInstall s a e).power = s.power := by cases a <;> rfl

section
variable {rd : Reader} (hrd : ∀ k s, (rd k s).2.power = s.power)
include hrd

theorem walkLevels_power {t va addr n fuel l tab dev s} : (walkLevels rd t va addr n fuel l tab dev s).2.power = s.power := by
  induction fuel generalizing l tab dev s with
  | zero => rfl
  | succ fuel ih => grind [walkLevels, tlbInstall_power]

theorem walkRoot_power {t va addr root s} : (walkRoot rd t va addr root s).2.power = s.power := by
  grind [State.power, walkRoot, walkLevels_power, tlbInstall_power]

theorem walkPrivate_power {t va s} : (walkPrivate rd t va s).2.power = s.power := by
  grind [State.power, walkPrivate, walkRoot_power]
end

theorem walkAgent_power {tlb w space acc cached va s} : (walkAgent tlb w space acc cached va s).2.power = s.power :=
  walkPrivate_power (rd := agentReader) fun _ _ => agentRead_power

/-- A channel's read of a word switches no domain. -/
theorem vlRead_power {s ch va} : (vlRead s ch va).2.power = s.power := by
  grind [State.power, vlRead, vlXlate, walkAgent_power, agentRead_power]

end Sys2Proof.Claims
end

section
/-! PROOFS. Fences, power domains, the clock of a tile, and the release of LOCKUP_N. -/

namespace Sys2Proof.Claims

open Sys2Proof.Machine

section
variable {s : State} {p d k f : Nat}

/-! ### Fences (R346, R350) -/

/-- An event of a port touches no entry of the dictionary but those of reports. -/
theorem dval_portEvent (s : State) (p bit : Nat) {i j : Nat} (hk : (i * 256 + j) / 256 ∉ reportEntries) : dval (portEvent s p bit) i j = dval s i j := by
  unfold portEvent
  dsimp only
  split
  · exact (Background.signal _ _ _).dval hk
  · rfl

theorem fence_entry (hp : p < 16) : (0x0C12 * 256 + (p + 1)) / 256 ∉ reportEntries := by
  rw [show (0x0C12 * 256 + (p + 1)) / 256 = 0x0C12 by omega]
  decide

theorem fencePort_stops (hp : p < 16) (hopen : (s.port p).fence = false) :
    ((fencePort s p).port p).st = .fenced ∧ ((fencePort s p).port p).fence = true ∧ dval (fencePort s p) 0x0C12 (p + 1) = 1 := by
  have hgo : ¬ ((setDval s 0x0C12 (p + 1) 1).port p).fence = true := by simp [show (setDval s 0x0C12 (p + 1) 1).port p = s.port p from rfl, hopen]
  unfold fencePort
  rw [if_neg hgo, (Background.groupsLink _ _).port, (Background.groupsLink _ _).dval (fence_entry hp), port_portEvent,
    dval_portEvent _ _ _ (fence_entry hp), sendFlit_eq]
  simp only [State.port_setPort_same, true_and]
  exact dval_setDval_same s _ _ _

theorem unfencePort_opens (hp : p < 16) (hfence : (s.port p).fence = true) : let t := unfencePort s p
    (t.port p).st = .down ∧ (t.port p).fence = false ∧ (t.port p).replay = [] ∧ dval t 0x0C12 (p + 1) = 0 := by
  have hgo : ((setDval s 0x0C12 (p + 1) 0).port p).fence = true := hfence
  unfold unfencePort
  rw [if_pos hgo]
  simp only [port_portEvent, dval_portEvent _ _ _ (fence_entry hp), State.port_setPort_same, true_and]
  exact dval_setDval_same s _ _ _

/-! ### Domains that are gated (R448, R478) -/

/-- The tile of a gated domain is dead and off, and RECOVERY follows. -/
theorem gateDomain_tile (hm : s.mg.mode = .service) (ht : s.mg.trans = none) (hd : d < 32) (hlive : (s.tile d).dead = false) :
    ((gateDomain s d).tile d).dead = true ∧ ((gateDomain s d).tile d).power = .off ∧ Towards (gateDomain s d) .recovery := by
  set s1 := setDval s 0x0420 (d + 1) 1
  set v := logFault s1 0x16 1 d 0xFFFF 0 []
  have hlog : Background s1 v := .logFault _ _ _ _ _ _ _
  have hawake : Awake s1 := awake_of_mode (by rw [show s1.mg.mode = s.mg.mode from rfl, hm]; decide) ht
  obtain ⟨u, hkill, hback⟩ := declareTile_kills hd ((hlog.dead d).trans hlive) 0x16 0
  have hmode : u.mg.mode = .service := hback.mode.trans (hlog.mode.trans hm)
  have htrans : u.mg.trans = none := (hback.plan (hlog.stays hawake)).1.trans ((hlog.plan hawake).1.trans ht)
  have hgate : gateDomain s d = (declareTile v d 0x16 0#64).modTile d fun t => { t with power := .off } := by
    have hany : d < 75 := by omega
    simp only [gateDomain, hany, hd, if_true]
    rfl
  simp only [BitVec.ofNat_eq_ofNat] at hkill
  rw [hgate, hkill, toRecovery_begins (.inl hmode) htrans, State.tile_modTile_same]
  exact ⟨(hback.dead d).trans (by rw [State.tile_setTile_same]), rfl, _, rfl, rfl⟩

/-- A gated stack takes the device to SAFE. -/
theorem gateDomain_stack (hm : s.mg.mode = .service) (ht : s.mg.trans = none) (hlo : 32 ≤ d) (hhi : d < 40) : let t := gateDomain s d
    tgetD t.mg.pd d .on = .off ∧ Towards t .safe ∧ t.pins.safe = true ∧ ∃ r, t.sark.last = some r ∧ r.cls = 0x16 := by
  have hlog := Background.logFault (setDval s 0x0420 (d + 1) 1) 0x16 2 d 0xFFFF 0 []
  obtain ⟨r, hlast, hcls, -⟩ := recorded_logFault (setDval s 0x0420 (d + 1) 1) 0x16 2 d 0xFFFF 0 []
  have hawake : Awake (setDval s 0x0420 (d + 1) 1) := awake_of_mode (by rw [show (setDval s _ _ _).mg.mode = s.mg.mode from rfl, hm]; decide) ht
  have hgate : gateDomain s d = setPd (toSafe (logFault (setDval s 0x0420 (d + 1) 1) 0x16 2 d 0xFFFF 0 []) 0x16) d .off := by
    have hany : d < 75 := by omega
    have hno : ¬ d < 32 := by omega
    simp only [gateDomain, hany, hno, hhi, if_true, if_false]
  rw [hgate, toSafe_begins (hlog.mode.trans hm) ((hlog.plan hawake).1.trans ht)]
  exact ⟨tgetD_tset_same _ _ _ _, ⟨_, rfl, rfl⟩, rfl, r, hlast, hcls⟩

/-- A link that drops tells so, and leaves the rest of the device as it was (R343). -/
theorem setLink_drops (s : State) : (setLink s 0).host.link = 0 ∧ (setLink s 0).sark = s.sark ∧
    ∃ u, u.mg = s.mg ∧ Background u (setLink s 0) := by
  unfold setLink pcieEvent
  split
  · next h => exact ⟨h, rfl, s, rfl, .refl s⟩
  · exact ⟨(Background.signal _ _ _).link, signal_sark _ _ _, { s with host := { s.host with link := 0 } }, rfl, .signal _ _ _⟩

/-- Gated PCIe drops the link, and the device is DEGRADED. -/
theorem gateDomain_pcie (hm : s.mg.mode = .service) (ht : s.mg.trans = none) : let t := gateDomain s 74
    tgetD t.mg.pd 74 .on = .off ∧ t.host.link = 0 ∧ Towards t .degraded ∧ (∃ r, t.sark.last = some r ∧ r.cls = 0x16) ∧ dval t 0x0420 75 = 1 := by
  have hlog := Background.logFault (setDval s 0x0420 75 1) 0x16 1 74 0xFFFF 0 []
  obtain ⟨r, hlast, hcls, -⟩ := recorded_logFault (setDval s 0x0420 75 1) 0x16 1 74 0xFFFF 0 []
  set v := logFault (setDval s 0x0420 75 1) 0x16 1 74 0xFFFF 0 []
  have hawake : Awake (setDval s 0x0420 75 1) := awake_of_mode (by rw [show (setDval s _ _ _).mg.mode = s.mg.mode from rfl, hm]; decide) ht
  have hmode := hlog.mode.trans hm
  have hdegraded := toDegraded_begins hmode ((hlog.plan hawake).1.trans ht)
  have hgate : gateDomain s 74 = setLink (setPd (toDegraded v) 74 .off) 0 := rfl
  obtain ⟨hlink, hsark, u, hu, hback⟩ := setLink_drops (setPd (toDegraded v) 74 .off)
  have hplan : (setLink (setPd (toDegraded v) 74 .off) 0).mg.trans = u.mg.trans :=
    (hback.plan (awake_of_target (u := ⟨.degraded, .degraded, affected v⟩) (by rw [hu, hdegraded]; simp [setPd, hmode]) (by rw [hu, hdegraded]; rfl) nofun)).1
  rw [hgate]
  refine ⟨?_, hlink, ⟨_, hplan.trans (by rw [hu, hdegraded]; rfl), rfl⟩, ⟨r, by rw [hsark, hdegraded]; exact hlast, hcls⟩, ?_⟩
  · rw [hback.pd, hu]
    exact tgetD_tset_same _ _ _ _
  · rw [hback.dval (by decide), dval, hu, hdegraded]
    exact (hlog.dval (by decide)).trans (dval_setDval_same s _ _ _)

/-! ### Domains that are switched off and on (R448) -/

/-- The channels that waited for a domain go on, and the domains stay as they are. -/
theorem powerDomain_power (s : State) (d : Nat) : (powerDomain s d).power = (tset s.mg.pd d .off, s.mg.pdPend.filter (· != d)) := by
  have hlink : ∀ (t : State) (ch : Nat), (issueLink t ch).power = t.power := fun t ch => by grind [State.power, issueLink, vlRead_power, State.setChan_mg]
  unfold powerDomain
  extract_lets _ s1 _ s2 s3
  have h3 : s3.power = s1.power := by grind [State.power, State.setPort_mg, State.modTile_mg]
  refine (foldl_power (fun t c => ?_) s3.chans s3).trans h3
  grind [State.power, State.setChan_mg]

theorem powerDomain_off (s : State) (d : Nat) : tgetD (powerDomain s d).mg.pd d .on = .off ∧ d ∉ (powerDomain s d).mg.pdPend := by
  have hpd : (powerDomain s d).mg.pd = tset s.mg.pd d .off := congrArg Prod.fst (powerDomain_power s d)
  have hpend : (powerDomain s d).mg.pdPend = s.mg.pdPend.filter (· != d) := congrArg Prod.snd (powerDomain_power s d)
  rw [hpd, hpend]
  exact ⟨tgetD_tset_same _ _ _ _, by simp⟩

/-- Cowslip stops what it does and loses power. -/
theorem cowslipOff_off (s : State) : tgetD (cowslipOff s).mg.pd 73 .on = .off ∧ 73 ∉ (cowslipOff s).mg.pdPend := by
  unfold cowslipOff
  extract_lets t
  exact powerDomain_off ((List.range 4).foldl (fun u k => seqHalt u (96 + k)) t) 73

/-- A tile's domain, with its engine stopped and with its engine running. -/
theorem pdOff_tile (hok : pdOffOk s d = true) (hd : d < 32) : pdOff s d =
    if (s.sq (64 + d)).st = .running ∨ (s.sq (64 + d)).st = .waiting then
      { setDval s 0x0420 (d + 1) 1 with mg := { (setDval s 0x0420 (d + 1) 1).mg with pdPend := s.mg.pdPend ++ [d] } }
    else (setDval s 0x0420 (d + 1) 1).modTile d fun t => { t with power := .off } := by
  simp only [pdOff, hok, hd, Bool.not_true, if_true]
  rfl

/-- Something of Cowslip is at work. -/
def cowslipBusy (s : State) : Bool :=
  (List.range 64).any (fun n => (s.group n).st.busy) || (List.range 4).any fun k => (s.sq (96 + k)).st == .running || (s.sq (96 + k)).st == .waiting

theorem pdOff_cowslip (hok : pdOffOk s 73 = true) : pdOff s 73 =
    if cowslipBusy s then { setDval s 0x0420 74 1 with mg := { (setDval s 0x0420 74 1).mg with pdPend := s.mg.pdPend ++ [73] } }
    else powerDomain (setDval s 0x0420 74 1) 73 := by
  simp only [pdOff, hok, Bool.not_true]
  rfl

theorem pdReady_on (hlo : 72 ≤ d) (hhi : d ≤ 74) (hctl : dval s 0x0420 (d + 1) = 0) (hoff : tgetD s.mg.pd d .off = .off)
    (hrun : portsRun s.mg.mode = true) : pdReady s d = setPd s d .on := by
  have hno : ¬ d < 72 := by omega
  have hport : 56 ≤ d := by omega
  simp [pdReady, hctl, hoff, hrun, hno, hhi, hport]

/-! ### The clock of a tile (R446, R447) -/

/-- The new frequency is the tile's, up to the limit of its temperature. -/
theorem effClock_setDval (s : State) (k f : Nat) : effClock (setDval s 0x0400 (k + 1) f) k = min f (s.tile k).limit.toNat := by
  rw [effClock, dval_setDval_same]
  rfl

theorem dval_relock (old s : State) (k i j : Nat) : dval (relock old s k) i j = dval s i j := by
  unfold relock
  split <;> rfl

/-- A change of a running tile's clock relocks its PLL (R447). -/
theorem tile_relocks (hon : (s.tile k).power = .on ∨ (s.tile k).power = .nap) (hclk : min f (s.tile k).limit.toNat ≠ effClock s k) :
    (relock s (setDval s 0x0400 (k + 1) f) k).tile k = { s.tile k with relock := true } := by
  rw [relock, if_pos ⟨by rwa [effClock_setDval], hon⟩, State.tile_modTile_same]
  rfl

theorem relock_same (h : ¬ (((s.tile k).power = .on ∨ (s.tile k).power = .nap) ∧ min f (s.tile k).limit.toNat ≠ effClock s k)) :
    relock s (setDval s 0x0400 (k + 1) f) k = setDval s 0x0400 (k + 1) f := by
  refine if_neg fun hgo => h ⟨hgo.2, ?_⟩
  rw [← effClock_setDval]
  exact hgo.1

/-! ### LOCKUP_N (R467) -/

/-- The fast interrupt context of a core leaves LOCKUP. -/
def unlocked (c : Core) : Core := if c.fic.mode = .lockup then { c with fic := { c.fic with mode := .idle } } else c

theorem unlocked_mode (l : Tbl Core) (n : Nat) :
    (tgetD (l.map fun c => (c.1, unlocked c.2)) n {}).fic.mode = if (tgetD l n {}).fic.mode = .lockup then .idle else (tgetD l n {}).fic.mode := by
  rw [tgetD, tget_map_snd, tgetD]
  cases tget l n with
  | none => rfl
  | some c => by_cases h : c.fic.mode = .lockup <;> simp [unlocked, h]
end

end Sys2Proof.Claims
end

section
/-! PROOFS. O59, from the lemmas about each command, each end of a transition and each domain. -/

open Sys2Proof Sys2Proof.Machine Sys2Proof.Claims

/-- Settles O59: each clause is the lemma about its command or its event. -/
theorem modesAndDomains : Obligations.ModesAndDomains := by
  intro s b k port tile f dom blk pass ws bs p q d svc going towards logged clk clocked
  have hp : p < 16 := port.isLt
  have hstops : ∀ m b, s.mg.trans = none → beginTrans s m b = going m b := fun m b ht => beginTrans_idle ht m b
  refine ⟨?_, ?_, ?_, ?_, ?_, ?_, ?_, ?_, ?_, ?_, ?_, ?_, ?_, ?_, ?_, ?_, ?_, ?_, ?_, ?_, ?_, ?_, ?_, ?_, ?_, ?_, ?_, ?_, ?_⟩
  -- mode_cmd.
  · rintro ⟨hm, ht⟩
    obtain ⟨hquiesce, hhold, hsafe⟩ := modeCmd_service hm ht
    refine ⟨gives_of_eq rfl (hquiesce.trans (hstops _ _ ht)), gives_of_eq rfl (hhold.trans (hstops _ _ ht)), _,
      gives_of_eq rfl (hsafe.trans (toSafe_begins hm ht 0)), rfl, rfl, rfl, hm⟩
  · exact fun hm ht => gives_of_eq rfl ((modeCmd_resume hm ht).trans (hstops _ _ ht))
  · exact fun hm ht => ⟨_, gives_of_eq rfl (modeCmd_drowse hm ht), rfl, rfl⟩
  · exact fun h => ⟨gives_of_eq rfl (modeCmd_refused h (by decide)), gives_of_eq rfl (modeCmd_refused h (by decide)),
      gives_of_eq rfl (modeCmd_refused h (by decide)), gives_of_eq rfl (modeCmd_refused h (by decide))⟩
  -- Acknowledgements, and the bound of a transition.
  · exact fun ht hblk hleft => gives_of_eq rfl (ack_waits ht ⟨nofun, nofun⟩ hblk hleft)
  · exact fun hm hwait hbank ht hblk => ⟨_, rfl, ack_last hm hwait hbank ht hblk⟩
  · exact fun hm ht => ⟨_, rfl, ackLate_block hm ht rfl rfl (by decide)⟩
  · exact fun hm ht => ⟨_, rfl, ackLate_gates hm ht (by decide)⟩
  · exact fun hm hwait hbank hk hlive ht => ⟨_, rfl, ackLate_tile hm hk hlive hwait hbank ht⟩
  -- DROWSE and RECOVERY.
  · exact fun hok ht => gives_of_eq rfl ((if_pos hok).trans (hstops _ _ ht))
  · exact fun hok => gives_of_eq rfl (if_neg (by simp [hok]))
  · intro hm ht
    exact ⟨fun hspare => gives_of_eq rfl ((reverified_passed hm ht hspare).trans (hstops _ _ ht)),
      _, gives_of_eq rfl (reverified_failed hm ht), rfl, towards_trigger (by rw [hm]; rfl) true⟩
  · exact fun hm => gives_of_eq rfl (if_neg fun h => hm h.1)
  -- Fences.
  · intro hopen
    refine ⟨⟨_, rfl, fencePort_stops hp hopen⟩, fun hstart => ⟨_, gives_of_eq rfl (if_neg ?_), fencePort_stops hp hopen⟩⟩
    intro hoff
    simp [hoff, startable] at hstart
  · exact fun hfence => ⟨_, rfl, unfencePort_opens hp hfence⟩
  -- Gated domains: a tile, a stack, PCIe.
  · rintro ⟨hm, ht⟩ hd hlive
    exact ⟨_, gives_of_eq rfl (if_neg (by rw [hm]; decide)), gateDomain_tile hm ht hd hlive⟩
  · rintro ⟨hm, ht⟩ hlo hhi
    exact ⟨_, gives_of_eq rfl (if_neg (by rw [hm]; decide)), gateDomain_stack hm ht hlo hhi⟩
  · rintro ⟨hm, ht⟩
    have hgate : Gives (.forceGateDomain 74) s (gateDomain s 74).tick := gives_of_eq rfl (if_neg (by rw [hm]; decide))
    have h := gateDomain_pcie hm ht
    generalize gateDomain s 74 = u at hgate h
    exact ⟨_, hgate, h⟩
  -- pd_ctl.
  · exact fun hno => gives_of_eq rfl (if_pos (by rw [show pdOffOk s dom.toNat = false from hno]; rfl))
  · intro hok hd
    refine ⟨fun hrun hwait => gives_of_eq rfl ((pdOff_tile hok hd).trans (if_neg (not_or.mpr ⟨hrun, hwait⟩))), fun hbusy =>
      ⟨_, gives_of_eq rfl ((pdOff_tile hok hd).trans (if_pos hbusy)), rfl, rfl⟩⟩
  · intro hok
    refine ⟨fun hgroups hseqs => ?_, fun hb hbusy => ?_⟩
    · have hidle : ¬ cowslipBusy s = true := by
        simp only [cowslipBusy, Bool.or_eq_true, List.any_eq_true, List.mem_range, beq_iff_eq]
        rintro (⟨n, hn, h⟩ | ⟨n, hn, h⟩)
        · simp [hgroups n hn] at h
        · exact h.elim (hseqs n hn).1 (hseqs n hn).2
      exact ⟨(powerDomain (setDval s 0x0420 74 1) 73).tick, gives_of_eq rfl ((pdOff_cowslip hok).trans (if_neg hidle)), (powerDomain_off _ _).1⟩
    · have hwork : cowslipBusy s = true := Bool.or_eq_true_iff.mpr (.inl (List.any_eq_true.mpr ⟨b, List.mem_range.mpr hb, hbusy⟩))
      exact ⟨_, gives_of_eq rfl ((pdOff_cowslip hok).trans (if_pos hwork)), rfl, rfl⟩
  · intro hmem
    refine ⟨_, gives_of_eq rfl (if_pos (List.contains_iff_mem.mpr hmem)), ?_⟩
    rw [State.tick_mg]
    exact cowslipOff_off s
  · exact fun hno => gives_of_eq rfl (if_neg fun h => hno (List.contains_iff_mem.mp h))
  · exact fun hstart hd => gives_of_eq rfl (if_pos ⟨hstart, hd⟩)
  · exact fun hlo hhi hctl hoff hrun => gives_of_eq rfl (pdReady_on hlo hhi hctl hoff hrun)
  -- The clock of a tile.
  · intro hlo hhi
    have hstore : Gives (.tileFreqWrite tile f) s (relock s (setDval s 0x0400 (tile.toNat + 1) f.toNat) tile.toNat).tick := gives_of_eq rfl (if_pos ⟨hlo, hhi⟩)
    refine ⟨fun hclocked hclk => ⟨_, hstore, (dval_relock _ _ _ _ _).trans (dval_setDval_same _ _ _ _), ?_⟩, fun hsame =>
      gives_of_eq hstore (relock_same hsame)⟩
    exact tile_relocks hclocked hclk
  · exact fun hout => gives_of_eq rfl (if_neg (by omega))
  · rfl
  -- LOCKUP_N.
  · exact ⟨_, rfl, rfl, rfl, rfl, fun n => unlocked_mode s.cores n⟩
end

section
/-! PROOFS. The queue of commands, the state at reset, and what is answered to every command. -/

open Sys2Proof Sys2Proof.Machine Sys2Proof.Claims

/-- Settles O1: `step` looks at the queue alone. -/
theorem stepTakesFront : Obligations.StepTakesFront := by
  intro c rest s h
  rw [step, h]

/-- Settles O2: so it does with an empty queue. -/
theorem emptyQueueIdles : Obligations.EmptyQueueIdles := by
  intro s h
  rw [step, h]

/-- Settles O4: every field of the state at reset is its default, and a table that lists nothing answers the default. -/
theorem resetState : Obligations.ResetState := by
  refine ⟨rfl, rfl, fun n => ⟨rfl, rfl, fun r => ?_⟩, rfl, fun _ => rfl, rfl, rfl, rfl, fun _ => rfl, rfl, fun _ => rfl, fun _ => rfl, fun _ => rfl, rfl⟩
  rw [ctxReg_placed]
  cases regAt (State.reset.ctx n) r <;> rfl

/-- What TAP_INSTRUCTION answers (R504). -/
theorem tapInstruction_answers (ir : BitVec 8) (s : State) : (∃ t, exec (.tapInstruction ir) s = .next t) ∨
    (exec (.tapInstruction ir) s = .refused .tapUnspecified ∧ s.mg.mode = .loader ∧ ir ≠ 1 ∧ ir ≠ 0xFF ∧ dval s 0x4001 1 = 1) := by
  change (∃ t, execTapInstruction ir s = .next t) ∨ _
  by_cases hact : ir = 1 ∨ ir = 0xFF
  · exact .inl ⟨_, if_pos hact⟩
  by_cases hdebug : dval s 0x4001 1 = 1 ∧ s.mg.mode = .loader
  · obtain ⟨hid, hby⟩ := not_or.mp hact
    exact .inr ⟨(if_neg hact).trans (if_pos hdebug), hdebug.2, hid, hby, hdebug.1⟩
  · exact .inl ⟨_, (if_neg hact).trans (if_neg hdebug)⟩

/-- Settles O3: the meaning of every command but TAP_INSTRUCTION is a next state as it stands. -/
theorem onlyUnlistedTapInstructionsStop : Obligations.OnlyUnlistedTapInstructionsStop := by
  intro c s
  cases c
  case tapInstruction ir =>
    rcases tapInstruction_answers ir s with h | ⟨href, hrest⟩
    · exact .inl h
    · exact .inr ⟨ir, rfl, href, hrest⟩
  all_goals exact .inl ⟨_, rfl⟩
end

section
/-! PROOFS. The Reed ALU and immediate instructions: their words, and what each leaves in the sequencer. -/

namespace Sys2Proof.Claims

open Sys2Proof.Machine

/-! ### Words and integers (R389, R391) -/

theorem reedWord_alu (qd qs : BitVec 3) (f : BitVec 4) : reedWord 0 (qd.toNat * 128 + qs.toNat * 16 + f.toNat) = 0#4 ++ qd ++ qs ++ f := by
  apply BitVec.eq_of_toNat_eq
  have := qd.isLt; have := qs.isLt; have := f.isLt
  simp only [reedWord, toNat_append_add, BitVec.toNat_ofNat]
  omega

theorem reedWord_imm (cls : BitVec 4) (qd : BitVec 3) (imm : BitVec 7) : reedWord cls.toNat (qd.toNat * 128 + imm.toNat) = cls ++ qd ++ imm := by
  apply BitVec.eq_of_toNat_eq
  have := imm.isLt
  simp only [reedWord, toNat_append_add, BitVec.toNat_ofNat]
  omega

theorem isInt_iff (w : W) : isInt w = true ↔ IsInt w := by simp [isInt, IsInt]

/-- CMP compares by equality and by the signed and the unsigned order. -/
theorem cmp_eq (q : Seq) (x y : BitVec 64) :
    q.cmp x y = { q with z := decide (x = y), n := decide (x.toInt < y.toInt), b := decide (x.toNat < y.toNat) } := by
  simp only [Seq.cmp, BitVec.slt, BitVec.ult, beq_eq_decide]

/-- The count of a shift is the low six bits of its operand. -/
theorem bitsN_low6 (x : BitVec 64) : bitsN x 0 6 = x.toNat % 64 := by simp [bitsN]

/-! ### One instruction that changes the sequencer alone -/

section
variable {s : State} {k m : Nat} {qd qs : BitVec 3} {func cls : BitVec 4} {imm : BitVec 7} {q : Seq}

/-- An ALU instruction leaves the registers that it computes, at the next word. -/
theorem reedAlu_next {f : Seq → W → W → Except RFault Seq} (hpfx : (s.sq k).pfx = none) (hf : Fetches s k (0#4 ++ qd ++ qs ++ func))
    (hm : func.toNat = m) (hq : f (s.sq k) ((s.sq k).qv qd) ((s.sq k).qv qs) = .ok q) (hat : q.at_ = (s.sq k).at_) :
    reedAlu s k m qd qs f = .next (nextWord s k q) := by
  subst hm
  rw [← reedWord_alu] at hf
  rw [reedAlu, reedPlain, reedStep_seq hf (.inl hpfx) (q := q) (t := s) (by rw [hq]; rfl) hat]

/-- An ALU instruction that refuses its operands is a fault of the program. -/
theorem reedAlu_fault {f : Seq → W → W → Except RFault Seq} {x : RFault} (hpfx : (s.sq k).pfx = none)
    (hf : Fetches s k (0#4 ++ qd ++ qs ++ func)) (hm : func.toNat = m) (hq : f (s.sq k) ((s.sq k).qv qd) ((s.sq k).qv qs) = .error x) :
    reedAlu s k m qd qs f = .next (reedFault s k x).tick := by
  subst hm
  rw [← reedWord_alu] at hf
  rw [reedAlu, reedPlain, reedStep_error hf (.inl hpfx) (f := x) (t := s) (by rw [hq]; rfl)]

/-- An operation on two integers writes its result (R391). -/
theorem reedInt_next {f : BitVec 64 → BitVec 64 → BitVec 64} (hpfx : (s.sq k).pfx = none) (hf : Fetches s k (0#4 ++ qd ++ qs ++ func))
    (hm : func.toNat = m) (hd : IsInt ((s.sq k).qv qd)) (hs : IsInt ((s.sq k).qv qs)) : reedInt s k m qd qs f =
      .next (nextWord s k ((s.sq k).setQ qd ⟨tag2 ((s.sq k).qv qd) ((s.sq k).qv qs), f ((s.sq k).qv qd).payload ((s.sq k).qv qs).payload⟩)) :=
  reedAlu_next hpfx hf hm (if_pos ⟨isInt_of hd, isInt_of hs⟩) rfl

/-- On any other operand it is the fault OPERAND (R403). -/
theorem reedInt_fault {f : BitVec 64 → BitVec 64 → BitVec 64} (hpfx : (s.sq k).pfx = none) (hf : Fetches s k (0#4 ++ qd ++ qs ++ func))
    (hm : func.toNat = m) (hno : ¬ (IsInt ((s.sq k).qv qd) ∧ IsInt ((s.sq k).qv qs))) :
    reedInt s k m qd qs f = .next (reedFault s k { code := 5 }).tick :=
  reedAlu_fault hpfx hf hm (if_neg (by rwa [isInt_iff, isInt_iff]))

/-- A shift by the low six bits of qs keeps the tag of qd. -/
theorem reedShift_next {f : BitVec 64 → Nat → BitVec 64} (hpfx : (s.sq k).pfx = none) (hf : Fetches s k (0#4 ++ qd ++ qs ++ func))
    (hm : func.toNat = m) (hd : IsInt ((s.sq k).qv qd)) (hs : IsInt ((s.sq k).qv qs)) : reedShift s k m qd qs f =
      .next (nextWord s k ((s.sq k).setQ qd ⟨((s.sq k).qv qd).tag, f ((s.sq k).qv qd).payload (((s.sq k).qv qs).payload.toNat % 64)⟩)) :=
  reedAlu_next hpfx hf hm ((if_pos ⟨isInt_of hd, isInt_of hs⟩).trans (by rw [bitsN_low6])) rfl

/-- An immediate instruction leaves the registers that it computes from its immediate with its PFX (R395). -/
theorem reedImm_next {f : Seq → W → BitVec 64 → Except RFault Seq} (hf : Fetches s k (cls ++ qd ++ imm)) (hm : cls.toNat = m)
    (hq : f (s.sq k) ((s.sq k).qv qd) (immOf (s.sq k) imm) = .ok q) (hat : q.at_ = (s.sq k).at_) :
    reedImm s k m qd imm f = .next (nextWord s k q) := by
  subst hm
  rw [← reedWord_imm] at hf
  rw [immOf_eq] at hq
  rw [reedImm, reedPlain, reedStep_seq hf (.inr rfl) (q := q) (t := s) (by rw [hq]; rfl) hat]

/-- A fault without an address ends the program of a Teasel sequencer, whose interrupt is off (R404). -/
theorem reedFault_teasel (hlo : 64 ≤ k) (hhi : k < 96) (hirq : (s.sq k).irqEn = false) (code : Nat) : reedFault s k { code := code } =
    s.setSq k { s.sq k with st := .faulted, fault := BitVec.ofNat 8 code, done := true, faddr := 0, pfx := none, ld := none, waitM := none, halt := false } := by
  have hhost : seqHost k = .teasel := by simp [seqHost, hhi, Nat.not_lt.mpr hlo]
  simp [reedFault, hhost, seqDone, hirq]
end

end Sys2Proof.Claims

open Sys2Proof Sys2Proof.Machine Sys2Proof.Claims

/-- Settles O49: each instruction is found at its boundary, and its operation answers by the tags of its operands. -/
theorem reedArithmetic : Obligations.ReedArithmetic := by
  intro s k qd qs imm r va n q a b set alu word v flags
  refine ⟨fun hpfx => ⟨fun p hp hf => ?_, fun ha hb => ⟨fun hf => ?_, fun hf => ?_, fun hf => ?_⟩, fun hf => ?_, fun hf => ?_, fun hf => ?_,
    fun hf hb hr => ?_, fun hf hva => ?_⟩, fun hf => ?_, fun ha hf => ?_, fun ha hf => ?_, fun hlo hhi hirq => reedFault_teasel hlo hhi hirq 5⟩
  -- ADD, SUB, AND, OR and XOR.
  · simp only [List.mem_cons, List.not_mem_nil, or_false] at hp
    rcases hp with rfl | rfl | rfl | rfl | rfl
    all_goals exact ⟨fun h => reedInt_next hpfx hf rfl h.1 h.2, fun h => reedInt_fault hpfx hf rfl h⟩
  -- SHL, SHR and CMP.
  · exact reedShift_next hpfx hf rfl ha hb
  · exact reedShift_next hpfx hf rfl ha hb
  · show execReedCmp k qd qs s = _
    exact reedAlu_next hpfx hf rfl ((if_pos ⟨isInt_of ha, isInt_of hb⟩).trans (by rw [cmp_eq])) rfl
  -- MOV, EQ, TAGOF, SETTAG and VA.
  · show execReedMov k qd qs s = _
    exact reedAlu_next hpfx hf rfl rfl rfl
  · show execReedEq k qd qs s = _
    exact reedAlu_next hpfx hf rfl rfl rfl
  · show execReedTagof k qd qs s = _
    exact reedAlu_next hpfx hf rfl (by rw [fixW_toNat]; rfl) rfl
  · show execReedSettag k qd qs s = _
    refine reedAlu_next hpfx hf rfl ((if_pos (isInt_of hb)).trans ?_) rfl
    rw [BitVec.ofNat_toNat, show retag ((s.sq k.toNat).qv qd) _ = .ok r from hr]
    rfl
  · show execReedVa k qd qs s = _
    refine reedAlu_next hpfx hf rfl ?_ rfl
    rw [show addrForm ((s.sq k.toNat).qv qs) = some va from hva]
    exact congrArg (fun x => Except.ok (set x)) (rawW_toNat va)
  -- MOVI, ADDI and CMPI.
  · show execReedMovi k qd imm s = _
    exact reedImm_next hf rfl rfl rfl
  · show execReedAddi k qd imm s = _
    exact reedImm_next hf rfl (if_pos (isInt_of ha)) rfl
  · show execReedCmpi k qd imm s = _
    exact reedImm_next hf rfl ((if_pos (isInt_of ha)).trans (by rw [cmp_eq])) rfl
end

section
/-! PROOFS. What a notice stirs: a doorbell, an event and a signal touch contexts, cores, the waking of tiles, worlds, sequencers, the
messages that wait to be sent, the plan of transitions and the dictionary, and nothing else. -/

namespace Sys2Proof.Claims

open Sys2Proof.Machine

/-- State s with those parts taken from t that a notice may touch. -/
def stirred (s t : State) : State :=
  { s with ctxs := t.ctxs, cores := t.cores, tiles := t.tiles, ws := t.ws, wj := t.wj, seqs := t.seqs,
           remote := { s.remote with sent := t.remote.sent },
           mg := { s.mg with trans := t.mg.trans, waiting := t.mg.waiting, dict := t.mg.dict } }

/-- Nothing but those parts changes, and no tile's power. -/
structure Stir (s t : State) : Prop where
  rest : t = stirred s t
  power : ∀ j, (t.tile j).power = (s.tile j).power

namespace Stir

theorem refl (s : State) : Stir s s := ⟨rfl, fun _ => rfl⟩

theorem after {s t u : State} (g : Stir t u) (h : Stir s t) : Stir s u :=
  ⟨g.rest.trans (congrArg (stirred · u) h.rest : stirred t u = stirred (stirred s t) u), fun j => (g.power j).trans (h.power j)⟩

theorem setCtx (s : State) (n : Nat) (c : Ctx) : Stir s (s.setCtx n c) := ⟨rfl, fun _ => rfl⟩
theorem modCtx (s : State) (n : Nat) (f : Ctx → Ctx) : Stir s (s.modCtx n f) := setCtx ..
theorem modCore (s : State) (n : Nat) (f : Core → Core) : Stir s (s.modCore n f) := ⟨rfl, fun _ => rfl⟩
theorem setSq (s : State) (k : Nat) (q : Seq) : Stir s (s.setSq k q) := ⟨rfl, fun _ => rfl⟩
theorem setWorld (s : State) (w : World) (x : WorldSt) : Stir s (s.setWorld w x) := by cases w <;> exact ⟨rfl, fun _ => rfl⟩
theorem countUp (s : State) (i j n : Nat) : Stir s (countUp s i j n) := ⟨rfl, fun _ => rfl⟩
theorem sendMsg (s : State) (m : Sent) : Stir s (sendMsg s m) := ⟨rfl, fun _ => rfl⟩

theorem wakeTile (s : State) (j : Nat) : Stir s (wakeTile s j) := by
  unfold Machine.wakeTile
  split
  · refine ⟨rfl, fun i => ?_⟩
    rcases eq_or_ne i j with rfl | hi
    · rw [State.tile_modTile_same]
    · rw [State.tile_modTile_ne _ _ hi]
  · exact refl s

theorem beginTrans (s : State) (m b : Mode) : Stir s (beginTrans s m b) := by
  unfold Machine.beginTrans
  split <;> exact ⟨rfl, fun _ => rfl⟩

theorem wakeDevice (s : State) : Stir s (wakeDevice s) := by
  unfold Machine.wakeDevice
  split <;> split
  · exact beginTrans ..
  · exact refl s
  · exact beginTrans ..
  · exact refl s

theorem makeReady (s : State) (n : Nat) : Stir s (makeReady s n) := (wakeTile _ _).after ((modCore _ _ _).after (modCtx _ _ _))

theorem endWait (s : State) (n : Nat) : Stir s (endWait s n) := by
  unfold Machine.endWait
  extract_lets c d u
  have hu : Stir s u := setCtx ..
  split
  · exact (makeReady u n).after hu
  · exact (makeReady u n).after hu
  · exact (modCtx _ _ _).after hu
  · exact (modCore _ _ _).after hu
  · exact hu

theorem movedNotice (s : State) (w : World) (i i' : BitVec 32) (g g' : BitVec 16) : Stir s (movedNotice s w i g i' g') := by
  unfold Machine.movedNotice
  dsimp only
  split <;> exact setWorld ..

theorem ringBits (s : State) (n : Nat) (ev : BitVec 16) : Stir s (ringBits s n ev) := by
  unfold Machine.ringBits
  extract_lets c u v all hit c'
  have hu : Stir s u := wakeDevice s
  have hv : Stir s v := (wakeTile _ _).after hu
  split
  · exact (countUp ..).after hu
  split
  · split
    · exact (movedNotice ..).after ((sendMsg ..).after hu)
    · exact (countUp ..).after hu
  split
  · exact (endWait _ _).after ((setCtx _ _ _).after hv)
  · exact (setCtx _ _ _).after hv

theorem pendFic (s : State) (k src : Nat) (v : BitVec 64) : Stir s (pendFic s k src v) := (wakeTile _ _).after (modCore _ _ _)

theorem seqEvent (s : State) (k : Nat) (ev : BitVec 16) : Stir s (seqEvent s k ev) := by
  unfold Machine.seqEvent
  dsimp only
  split
  · split <;> exact setSq ..
  · exact setSq ..

theorem signal (s : State) (src : Nat) (v : BitVec 64) : Stir s (signal s src v) := by
  unfold Machine.signal
  extract_lets u r n ev
  have hu : Stir s u := wakeDevice s
  split
  · split
    · exact (pendFic ..).after hu
    · exact hu
  split
  · split
    · exact (seqEvent ..).after hu
    · exact (ringBits ..).after hu
  · exact hu

end Stir

/-! ### Doorbells leave the sequencers alone -/

theorem wakeDevice_seqs (s : State) : (wakeDevice s).seqs = s.seqs := by
  unfold wakeDevice beginTrans
  split <;> split <;> (try split) <;> rfl
theorem wakeTile_seqs (s : State) (j : Nat) : (wakeTile s j).seqs = s.seqs := by
  unfold wakeTile
  split <;> rfl
theorem makeReady_seqs (s : State) (n : Nat) : (makeReady s n).seqs = s.seqs := wakeTile_seqs ..
theorem endWait_seqs (s : State) (n : Nat) : (endWait s n).seqs = s.seqs := by
  unfold endWait
  dsimp only
  split
  case h_1 | h_2 => exact makeReady_seqs ..
  all_goals rfl
theorem movedNotice_seqs (s : State) (w : World) (i i' : BitVec 32) (g g' : BitVec 16) : (movedNotice s w i g i' g').seqs = s.seqs := by
  unfold movedNotice
  dsimp only
  split <;> cases w <;> rfl
theorem ringBits_seqs (s : State) (n : Nat) (ev : BitVec 16) : (ringBits s n ev).seqs = s.seqs := by
  unfold ringBits
  extract_lets c u v all hit c'
  have hu : u.seqs = s.seqs := wakeDevice_seqs s
  have hv : v.seqs = s.seqs := (wakeTile_seqs _ _).trans hu
  split
  · exact hu
  split
  · split
    · exact (movedNotice_seqs ..).trans hu
    · exact hu
  split
  · exact (endWait_seqs ..).trans hv
  · exact hv

theorem ringBits_sq (s : State) (n k : Nat) (ev : BitVec 16) : (ringBits s n ev).sq k = s.sq k := by rw [State.sq, ringBits_seqs, State.sq]

end Sys2Proof.Claims
end

section
/-! PROOFS. The Reed control flow: jumps, the stack, waits, signals and the end of a program. -/

namespace Sys2Proof.Claims

open Sys2Proof.Machine

/-! ### Words and targets (R388, R395, R396) -/

theorem reedWord_tt (r : BitVec 3) (mode : BitVec 2) (cls : BitVec 5) :
    reedWord 6 (r.toNat * 128 + mode.toNat * 32 + cls.toNat) = 6#4 ++ r ++ mode ++ cls := by
  apply BitVec.eq_of_toNat_eq
  have := mode.isLt; have := cls.isLt
  simp only [reedWord, toNat_append_add, BitVec.toNat_ofNat]
  omega

theorem reedWord_off (cls : BitVec 4) (b : BitVec 1) (off : BitVec 9) : reedWord cls.toNat (b.toNat * 512 + off.toNat) = cls ++ b ++ off := by
  apply BitVec.eq_of_toNat_eq
  have := off.isLt
  simp only [reedWord, toNat_append_add, BitVec.toNat_ofNat]
  omega

theorem reedWord_near (cls : BitVec 4) (off : BitVec 9) : reedWord cls.toNat off.toNat = cls ++ 0#1 ++ off := by
  simpa using reedWord_off cls 0 off

theorem reedWord_waite (m : Bool) (r : BitVec 3) (e : BitVec 4) :
    reedWord 9 (b2n m * 512 + r.toNat * 16 + e.toNat) = 9#4 ++ BitVec.ofBool m ++ 0#2 ++ r ++ e := by
  apply BitVec.eq_of_toNat_eq
  have hm : (BitVec.ofBool m).toNat = b2n m := by cases m <;> rfl
  have := (BitVec.ofBool m).isLt; have := r.isLt; have := e.isLt
  simp only [reedWord, toNat_append_add, BitVec.toNat_ofNat, hm] at *
  omega

theorem reedWord_signal (r : BitVec 3) : reedWord 10 (r.toNat * 128) = 10#4 ++ r ++ 0#7 := reedWord_imm 10 r 0

theorem reedWord_pfx (ext : BitVec 10) : reedWord 12 ext.toNat = 12#4 ++ ext := by
  apply BitVec.eq_of_toNat_eq
  simp only [reedWord, toNat_append_add, BitVec.toNat_ofNat]
  omega

/-- A short offset, extended or not, is the signed number that its immediate spells. -/
theorem simm_eq_immOf (q : Seq) {n : Nat} (v : BitVec n) (hn : n ≤ 54) : simm n v.toNat q.pfx = (immOf q v).toInt := by
  cases h : q.pfx with
  | none => simp only [immOf, h, simm_toInt, BitVec.toInt_signExtend_of_le (show n ≤ 64 by omega)]
  | some e => simp only [immOf, h, simm_prefix, BitVec.toInt_signExtend_of_le (show 10 + n ≤ 64 by omega)]

/-! ### One instruction that jumps -/

section
variable {s t : State} {k n : Nat} {word : BitVec 14} {pfxable falls : Bool} {q : Seq} {i : Int}
  {body : Seq → Option (BitVec 10) → State → Except RFault (Flow × Seq) × State}

/-- A target within the program memory is where the program goes on. -/
theorem reedStep_jump (hf : Fetches s k word) (hp : (s.sq k).pfx = none ∨ pfxable = true)
    (hb : body (s.sq k) (s.sq k).pfx s = (.ok (.jump i, q), t)) (hon : 0 ≤ i ∧ i ≤ 4095) :
    (reedStep s k word pfxable falls body).tick = atWord t k q (BitVec.ofInt 12 i) := by
  rw [reedStep_fetches hf hp, hb]
  exact congrArg State.tick (if_neg (by omega))

/-- A target outside it is the fault PC (R403). -/
theorem reedStep_jump_out (hf : Fetches s k word) (hp : (s.sq k).pfx = none ∨ pfxable = true)
    (hb : body (s.sq k) (s.sq k).pfx s = (.ok (.jump i, q), t)) (hout : ¬ (0 ≤ i ∧ i ≤ 4095)) :
    reedStep s k word pfxable falls body = reedFault t k { code := 3 } := by
  rw [reedStep_fetches hf hp, hb]
  exact if_pos (by omega)

variable {off : BitVec n} {taken : Seq → Bool × Seq} (hf : Fetches s k word) (hn : n ≤ 54)
include hf

theorem reedBranch_taken (hn : n ≤ 54) (ht : taken (s.sq k) = (true, q)) (hi : (s.sq k).at_ + (immOf (s.sq k) off).toInt = i)
    (hon : 0 ≤ i ∧ i ≤ 4095) : reedBranch s k word n off.toNat taken = .next (atWord s k q (BitVec.ofInt 12 i)) := by
  rw [reedBranch, reedStep_jump hf (.inr rfl) (q := q) (t := s) (i := i) (by simp only [ht, simm_eq_immOf _ off hn, hi, if_true]) hon]

theorem reedBranch_out (hn : n ≤ 54) (ht : taken (s.sq k) = (true, q)) (hi : (s.sq k).at_ + (immOf (s.sq k) off).toInt = i)
    (hout : ¬ (0 ≤ i ∧ i ≤ 4095)) : reedBranch s k word n off.toNat taken = .next (reedFault s k { code := 3 }).tick := by
  rw [reedBranch, reedStep_jump_out hf (.inr rfl) (q := q) (t := s) (i := i) (by simp only [ht, simm_eq_immOf _ off hn, hi, if_true]) hout]

theorem reedBranch_falls (ht : taken (s.sq k) = (false, q)) (hat : q.at_ = (s.sq k).at_) :
    reedBranch s k word n off.toNat taken = .next (nextWord s k q) := by
  rw [reedBranch, reedStep_seq hf (.inr rfl) (q := q) (t := s) (by simp only [ht, Bool.false_eq_true, if_false]) hat]
end

/-! ### CALL and RET (R396) -/

theorem gives_of_next {c : Instr} {s t u : State} (hc : Gives c s t) (h : t = u) : Gives c s u := h ▸ hc

section
variable {s : State} {k : BitVec 7} {o9 : BitVec 9}

/-- Where CALL goes. -/
def callTarget (q : Seq) (o9 : BitVec 9) : Int := q.at_ + (immOf q o9).toInt

theorem reedCall_pushes (hf : Fetches s k.toNat (11#4 ++ 0#1 ++ o9)) (hon : 0 ≤ callTarget (s.sq k.toNat) o9 ∧ callTarget (s.sq k.toNat) o9 ≤ 4095)
    (hroom : (s.sq k.toNat).stack.length < 8) : Gives (.reedCall k o9) s (atWord s k.toNat
      { s.sq k.toNat with stack := BitVec.ofNat 12 ((s.sq k.toNat).at_ + 1) :: (s.sq k.toNat).stack } (BitVec.ofInt 12 (callTarget (s.sq k.toNat) o9))) := by
  rw [← reedWord_near] at hf
  refine gives_of_next rfl (reedStep_jump hf (.inr rfl) ?_ hon)
  dsimp only
  rw [simm_eq_immOf _ o9 (by omega), ← callTarget, if_neg (by omega), if_neg (by omega)]

theorem reedCall_full (hf : Fetches s k.toNat (11#4 ++ 0#1 ++ o9)) (hon : 0 ≤ callTarget (s.sq k.toNat) o9 ∧ callTarget (s.sq k.toNat) o9 ≤ 4095)
    (hfull : 8 ≤ (s.sq k.toNat).stack.length) : Gives (.reedCall k o9) s (reedFault s k.toNat { code := 4 }).tick := by
  rw [← reedWord_near] at hf
  refine gives_of_eq rfl (reedStep_error hf (.inr rfl) ?_)
  dsimp only
  rw [simm_eq_immOf _ o9 (by omega), ← callTarget, if_neg (by omega), if_pos hfull]
end

/-! ### TT, RET and WAITE (R396, R397) -/

section
variable {s : State} {k : BitVec 7} {r : BitVec 3}

theorem reedTt_class {cls : BitVec 5} (hpfx : (s.sq k.toNat).pfx = none) (hcls : cls.toNat < 30) (hf : Fetches s k.toNat (6#4 ++ r ++ 0#2 ++ cls)) :
    Gives (.reedTt k r 0 cls) s (nextWord s k.toNat { s.sq k.toNat with t := inClass cls.toNat ((s.sq k.toNat).qv r).tag }) := by
  rw [← reedWord_tt] at hf
  refine gives_of_next rfl (reedStep_seq hf (.inl hpfx) ?_ rfl)
  exact congrArg (fun x : Except RFault Seq => (x.map (Prod.mk Flow.seq), s)) (if_neg (Nat.not_le.mpr hcls))

theorem reedTt_tag {cls : BitVec 5} {v : Nat} (hf : Fetches s k.toNat (6#4 ++ r ++ 1#2 ++ cls)) (hu : uimm 5 cls.toNat (s.sq k.toNat).pfx = v)
    (hv : v ≤ 0x3FF) :
    Gives (.reedTt k r 1 cls) s (nextWord s k.toNat { s.sq k.toNat with t := decide (((s.sq k.toNat).qv r).tag.toNat = v) }) := by
  subst hu
  rw [← reedWord_tt] at hf
  refine gives_of_next rfl (reedStep_seq hf (.inr rfl) ?_ rfl)
  exact congrArg (fun x : Except RFault Seq => (x.map (Prod.mk Flow.seq), s)) (if_neg (Nat.not_lt.mpr hv))

theorem reedRet_pops {a : BitVec 12} {as : List (BitVec 12)} (hpfx : (s.sq k.toNat).pfx = none) (hf : Fetches s k.toNat (11#4 ++ 1#1 ++ 0#9))
    (hst : (s.sq k.toNat).stack = a :: as) : Gives (.reedRet k) s (atWord s k.toNat { s.sq k.toNat with stack := as } a) := by
  have ha : BitVec.ofInt 12 (a.toNat : Int) = a := by simp
  refine gives_of_next rfl ((reedStep_jump (i := a.toNat) hf (.inl hpfx) ?_ (by have := a.isLt; omega)).trans (by rw [ha]))
  rw [hst]

theorem reedRet_empty (hpfx : (s.sq k.toNat).pfx = none) (hf : Fetches s k.toNat (11#4 ++ 1#1 ++ 0#9)) (hst : (s.sq k.toNat).stack = []) :
    Gives (.reedRet k) s (reedFault s k.toNat { code := 4 }).tick := by
  refine gives_of_eq rfl (reedStep_error hf (.inl hpfx) ?_)
  rw [hst]
end

section
variable {s : State} {k : BitVec 7} {r : BitVec 3} {e : BitVec 4} {m : Bool} (hpfx : (s.sq k.toNat).pfx = none)
  (hf : Fetches s k.toNat (9#4 ++ BitVec.ofBool m ++ 0#2 ++ r ++ e)) (hm : m = true → IsInt ((s.sq k.toNat).qv r))
include hpfx hf hm

/-- The events that WAITE waits for. -/
def waitMask (q : Seq) (m : Bool) (r : BitVec 3) (e : BitVec 4) : BitVec 16 := if m then (q.qv r).payload.setWidth 16 else 1 <<< e.toNat

/-- WAITE of events that are set clears them, and delivers them where the mask is in a register. -/
theorem reedWaite_hits (hhit : (s.sq k.toNat).events &&& waitMask (s.sq k.toNat) m r e ≠ 0) :
    Gives (.reedWaite k m r e) s (nextWord s k.toNat (
      let hit := (s.sq k.toNat).events &&& waitMask (s.sq k.toNat) m r e
      let x := { s.sq k.toNat with events := (s.sq k.toNat).events &&& ~~~hit }
      if m then x.setQ r ⟨0x001, hit.setWidth 64⟩ else x)) := by
  rw [← reedWord_waite] at hf
  refine gives_of_next rfl (reedStep_seq hf (.inl hpfx) ?_ (by cases m <;> rfl))
  refine (if_neg fun h => ?_).trans ((if_neg hhit).trans ?_)
  · obtain ⟨hmask, hno⟩ := h
    simp [isInt_of (hm hmask)] at hno
  · rw [fixW_toNat]
    rfl

/-- WAITE of events that are not set waits. -/
theorem reedWaite_waits (hhit : (s.sq k.toNat).events &&& waitMask (s.sq k.toNat) m r e = 0) :
    Gives (.reedWaite k m r e) s (s.setSq k.toNat { s.sq k.toNat with
      st := .waiting, waitM := some (waitMask (s.sq k.toNat) m r e, if m then some r else none) }).tick := by
  rw [← reedWord_waite] at hf
  refine gives_of_eq rfl (reedStep_stay hf (.inl hpfx) ?_)
  refine (if_neg fun h => ?_).trans (if_pos hhit)
  obtain ⟨hmask, hno⟩ := h
  simp [isInt_of (hm hmask)] at hno
end

/-! ### Waits, signals, the end of a program, and late faults (R397, R398, R400, R404) -/

section
variable {s : State} {k : BitVec 7} {r : BitVec 3}

/-- SIGNAL with an integer whose reserved bits are 0, when every earlier store is performed, answers by the kind of its target. -/
def signalBody (s : State) (k : Nat) (v : BitVec 64) : Except RFault (Flow × Seq) × State :=
  let done (t : State) : Except RFault (Flow × Seq) × State := (.ok (.seq, t.sq k), t)
  match bitsN v 0 2 with
  | 0 => if bitsN v 2 7 < 64 ∧ (s.chan (bitsN v 2 7)).owner = seqWorld s k then done (vlRing s (bitsN v 2 7)) else (.error { code := 10 }, s)
  | 1 => if bitsN v 2 7 < 100 ∧ seqHost (bitsN v 2 7) = seqHost k ∧ seqWorld s (bitsN v 2 7) = seqWorld s k then
      done (seqEvent s (bitsN v 2 7) ((1 : BitVec 16) <<< bitsN v 9 4)) else (.error { code := 10 }, s)
  | 2 => if bitsN v 13 16 < 40960 then done (ringBits s (bitsN v 13 16) ((1 : BitVec 16) <<< bitsN v 9 4)) else (.error { code := 10 }, s)
  | _ => (.error { code := 10 }, s)

section
variable {s : State} {k : Nat} {v : BitVec 64}

theorem signalBody_ring (hkind : bitsN v 0 2 = 0) (htgt : bitsN v 2 7 < 64) (hown : (s.chan (bitsN v 2 7)).owner = seqWorld s k) :
    signalBody s k v = (.ok (.seq, (vlRing s (bitsN v 2 7)).sq k), vlRing s (bitsN v 2 7)) := by
  rw [signalBody, hkind]
  exact if_pos ⟨htgt, hown⟩
theorem signalBody_event (hkind : bitsN v 0 2 = 1) (htgt : bitsN v 2 7 < 100) (hhost : seqHost (bitsN v 2 7) = seqHost k)
    (hworld : seqWorld s (bitsN v 2 7) = seqWorld s k) : signalBody s k v =
      (.ok (.seq, (seqEvent s (bitsN v 2 7) ((1 : BitVec 16) <<< bitsN v 9 4)).sq k), seqEvent s (bitsN v 2 7) ((1 : BitVec 16) <<< bitsN v 9 4)) := by
  rw [signalBody, hkind]
  exact if_pos ⟨htgt, hhost, hworld⟩
theorem signalBody_bits (hkind : bitsN v 0 2 = 2) (hctx : bitsN v 13 16 < 40960) : signalBody s k v =
    (.ok (.seq, (ringBits s (bitsN v 13 16) ((1 : BitVec 16) <<< bitsN v 9 4)).sq k), ringBits s (bitsN v 13 16) ((1 : BitVec 16) <<< bitsN v 9 4)) := by
  rw [signalBody, hkind]
  exact if_pos hctx
theorem signalBody_other (hkind : bitsN v 0 2 = 3) : signalBody s k v = (.error { code := 10 }, s) := by
  rw [signalBody, hkind]
  rfl
end

variable (hpfx : (s.sq k.toNat).pfx = none) (hf : Fetches s k.toNat (10#4 ++ r ++ 0#7)) (hint : IsInt ((s.sq k.toNat).qv r))
  (hout : storesOutOf s k.toNat = 0) (hres : bitsN ((s.sq k.toNat).qv r).payload 29 35 = 0)
include hpfx hf hint hout hres

theorem reedSignal_next {t : State} (hb : signalBody s k.toNat ((s.sq k.toNat).qv r).payload = (.ok (.seq, t.sq k.toNat), t))
    (hsame : t.sq k.toNat = s.sq k.toNat) : Gives (.reedSignal k r) s (nextWord t k.toNat (s.sq k.toNat)) := by
  rw [← reedWord_signal] at hf
  refine gives_of_next rfl (reedStep_seq hf (.inl hpfx) ?_ rfl)
  rw [hsame] at hb
  refine Eq.trans ?_ hb
  dsimp only
  rw [isInt_of hint, if_neg (by simp), if_neg (by simp [hout]), if_neg (by simp [hres])]
  rfl

theorem reedSignal_fault (hb : signalBody s k.toNat ((s.sq k.toNat).qv r).payload = (.error { code := 10 }, s)) :
    Gives (.reedSignal k r) s (reedFault s k.toNat { code := 10 }).tick := by
  rw [← reedWord_signal] at hf
  refine gives_of_eq rfl (reedStep_error hf (.inl hpfx) (Eq.trans ?_ hb))
  dsimp only
  rw [isInt_of hint, if_neg (by simp), if_neg (by simp [hout]), if_neg (by simp [hres])]
  rfl
end

/-- END of a Valley program: the descriptor is done (R400). -/
theorem reedEnd_valley {s : State} {k : Nat} (hpfx : (s.sq k).pfx = none) (hf : Fetches s k (15#4 ++ 0#10)) (hk : k < 64) :
    reedEnd s k = (s.setChan k { s.chan k with phase := .done }).setSq k { s.sq k with st := .ended } := by
  have hhost : seqHost k = .valley := if_pos hk
  exact reedStep_stay hf (.inl hpfx) (by rw [hhost])

/-- END of any other program (R400; log entry 61). -/
theorem reedEnd_other {s : State} {k : Nat} (hpfx : (s.sq k).pfx = none) (hf : Fetches s k (15#4 ++ 0#10)) (hk : 64 ≤ k) :
    reedEnd s k = s.setSq k { s.sq k with st := .ended, done := true, pc := BitVec.ofNat 12 ((s.sq k).at_ + 1) } := by
  refine reedStep_stay hf (.inl hpfx) ?_
  split
  case h_1 h => grind [seqHost]
  case h_2 => rfl

/-- A program that ends with its interrupt off notifies nobody. -/
theorem endNotice_quiet {s t : State} {k : Nat} (hq : seqHost k = .valley ∨ (t.sq k).irqEn = false) : endNotice s t k = t := by
  rcases hq with h | h
  · simp [endNotice, h]
  · simp [endNotice, seqDone, h]

/-- A halt without its interrupt keeps the detail that it is given. -/
theorem vlHalt_errInfo {s : State} {n err : Nat} (addr : BitVec 59) (info : Nat) (herr : err ≠ 8) (hirq : (s.chan n).errIrq = false) :
    ((vlHalt s n err addr info).chan n).errInfo = BitVec.ofNat 64 info := by
  have hchan : ∀ (t : State) (q : Seq), (t.setSq n q).chan n = t.chan n := fun _ _ => rfl
  simp [vlHalt, hirq, herr, hchan]

/-- A word without meaning is the fault ILLEGAL wherever it stands (R403). -/
theorem reedIllegal_fault {s : State} {k : BitVec 7} {bad : BitVec 14} (hpfx : (s.sq k.toNat).pfx = none) (hbad : reedLegal bad = false)
    (hready : reedReady s k.toNat = true) (hgood : (s.sq k.toNat).progBad.contains (s.sq k.toNat).at_ = false)
    (hword : tgetD (s.sq k.toNat).prog (s.sq k.toNat).at_ 0 = bad) : Gives (.reedIllegal k bad) s (reedFault s k.toNat { code := 2 }).tick := by
  refine gives_of_eq rfl ?_
  simp only [hbad, reedStep, hready, hgood, hword, hpfx, bne_self_eq_false, Bool.not_true, Bool.false_eq_true, if_false, Option.isSome_none, Bool.false_and,
    false_and]

end Sys2Proof.Claims

open Sys2Proof Sys2Proof.Machine Sys2Proof.Claims

/-- Settles O51: each instruction is found at its boundary, and its body decides where the program goes. -/
theorem reedControlFlow : Obligations.ReedControlFlow := by
  intro s k r cond cls o7 o9 ext m e a as addr info bad n q w t7 t9 on c1 mask hit target ev
  refine ⟨fun hpfx hcls hf => ?_, fun hf hv => ?_, fun hf => ⟨fun hc => ⟨fun hon => ?_, fun hout => ?_⟩, fun hc => ?_⟩,
    fun hf => ⟨fun hc hon => ?_, fun hc => ?_⟩, fun hf => ⟨fun hc hon => ?_, fun hc => ?_⟩,
    fun hf => ⟨fun hon hroom => reedCall_pushes hf hon hroom, fun hon hfull => reedCall_full hf hon hfull⟩,
    fun hpfx hf => ⟨fun hst => ?_, fun hst => ?_⟩, fun hpfx hf => ?_, fun hpfx hf hm => ⟨fun hhit => ?_, fun hhit => ?_⟩,
    fun hpfx hf hint hout hres => ⟨fun hkind htgt hown hrun => ?_, fun hkind htgt hhost hworld hne hwait => ?_, fun hkind hctx => ?_, fun hkind => ?_⟩,
    fun hpfx hf => ⟨fun hk => ?_, fun hk hirq => ?_⟩, fun hpfx hbad hready hgood hword => reedIllegal_fault hpfx hbad hready hgood hword,
    fun hlate hld hirq => ?_⟩
  -- TT by class and by tag.
  · exact reedTt_class hpfx hcls hf
  · exact reedTt_tag hf (uimm_toNat cls q.pfx) hv
  -- BR.
  · rw [← reedWord_imm] at hf
    show execReedBr k cond o7 s = _
    exact reedBranch_taken hf (by omega) (congrArg (·, q) hc) rfl hon
  · rw [← reedWord_imm] at hf
    show execReedBr k cond o7 s = _
    exact reedBranch_out hf (by omega) (congrArg (·, q) hc) rfl hout
  · rw [← reedWord_imm] at hf
    show execReedBr k cond o7 s = _
    exact reedBranch_falls hf (congrArg (·, q) hc) rfl
  -- LOOP.
  · rw [← reedWord_near] at hf
    show execReedLoop k o9 s = _
    exact reedBranch_taken hf (by omega) (congrArg (·, { q with c := c1 }) (bne_iff_ne.mpr hc)) rfl hon
  · rw [← reedWord_near] at hf
    show execReedLoop k o9 s = _
    exact reedBranch_falls hf (Prod.ext (bne_eq_false_iff_eq.mpr hc) (congrArg (fun c => { q with c := c }) hc)) rfl
  -- JCZ.
  · rw [← reedWord_off] at hf
    show execReedJcz k o9 s = _
    exact reedBranch_taken hf (by omega) (congrArg (·, q) (beq_iff_eq.mpr hc)) rfl hon
  · rw [← reedWord_off] at hf
    show execReedJcz k o9 s = _
    exact reedBranch_falls hf (congrArg (·, q) (beq_eq_false_iff_ne.mpr hc)) rfl
  -- RET.
  · exact reedRet_pops hpfx hf hst
  · exact reedRet_empty hpfx hf hst
  -- PFX.
  · rw [← reedWord_pfx] at hf
    exact gives_of_eq rfl (reedStep_stay hf (.inl hpfx) rfl)
  -- WAITE.
  · exact reedWaite_hits hpfx hf hm hhit
  · exact reedWaite_waits hpfx hf hm hhit
  -- SIGNAL.
  · exact reedSignal_next hpfx hf hint hout hres ((signalBody_ring hkind htgt hown).trans (by rw [vlRing_running hrun])) rfl
  · refine ⟨_, reedSignal_next hpfx hf hint hout hres ((signalBody_event hkind htgt hhost hworld).trans (by rw [seqEvent_adds _ hwait]))
      (State.sq_setSq_ne _ _ hne.symm), ?_, congrArg Seq.pc (State.sq_setSq_same ..)⟩
    exact congrArg Seq.events ((State.sq_setSq_ne _ _ hne).trans (State.sq_setSq_same ..))
  · exact reedSignal_next hpfx hf hint hout hres (signalBody_bits hkind hctx) (ringBits_sq ..)
  · exact reedSignal_fault hpfx hf hint hout hres (signalBody_other hkind)
  -- END.
  · refine ⟨_, gives_of_eq rfl ((endNotice_quiet (.inl (if_pos hk))).trans (reedEnd_valley hpfx hf hk)), ?_, ?_⟩
    · exact congrArg Seq.st (State.sq_setSq_same ..)
    · exact congrArg Chan.phase (State.chan_setChan_same ..)
  · refine gives_of_eq rfl ?_
    rw [reedEnd_other hpfx hf hk]
    exact endNotice_quiet (.inr ((congrArg Seq.irqEn (State.sq_setSq_same ..)).trans hirq))
  -- A late store fault.
  · have hgo : Gives (.reedLateStoreFault k addr info) s (vlHalt s n 7 addr info.toNat).tick := by
      refine gives_of_eq rfl ?_
      rw [show (s.sq k.toNat).lateFault = _ from hlate, show (s.sq k.toNat).ld = _ from hld]
      exact if_pos ⟨rfl, rfl⟩
    obtain ⟨hst, herr, haddr, -⟩ := vlHalt_quiet (n := n) (err := 7) (by decide) addr info.toNat hirq
    exact ⟨_, hgo, hst, herr, haddr, (vlHalt_errInfo addr info.toNat (by decide) hirq).trans (by simp)⟩
end

section
/-! PROOFS. Cowslip's groups: their registers, what an up or down message leaves in a group, and the messages that the device sends. -/

namespace Sys2Proof.Claims

open Sys2Proof.Machine

/-! ### The registers of a group (R352, R362) -/

theorem regBlk_group {lpa n o : Nat} (hn : n < 64) (ho : o < 0x100) (h : lpa = groupBase n + o) : regBlk lpa = .group n o := by
  simp only [groupBase] at h
  have hblock : lpa / 2 ^ 32 = 0x7F2 := by omega
  have hoff : lpa % 2 ^ 32 = n * 0x100 + o := by omega
  have hlt : n * 0x100 + o < 0x4000 := by omega
  have hgroup : (n * 0x100 + o) / 0x100 = n := by omega
  have hword : (n * 0x100 + o) % 0x100 = o := by omega
  simp only [regBlk, hblock, hoff, hlt, hgroup, hword, if_true]

theorem writeReg_group {s : State} {w : World} {n o : Nat} {v : BitVec 64} (hn : n < 64) (ho : o < 0x100) (hword : o % 8 = 0)
    (hmay : MayWrite s w (groupBase n + o) v) : writeReg s (.world w) (groupBase n + o) v = groupWrite s w n o v := by
  rw [writeReg_permitted (by simp only [groupBase]; omega) (by simp only [groupBase]; omega) (by simp only [groupBase]; omega) hmay, regWrite,
    regBlk_group hn ho rfl]

/-! ### Messages and notices -/

/-- A collective message that this device sends (R358). -/
def collNote (s : State) (p : Nat) (m : CollMsg) : Sent := note s 0 .sys 3 (.coll (BitVec.ofNat 4 p) m)

/-- The device sends messages. -/
def sends (s : State) (l : List Sent) : State := { s with remote := { s.remote with sent := s.remote.sent ++ l } }

theorem sends_nil (s : State) : sends s [] = s := by simp [sends]
theorem sends_group (s : State) (l : List Sent) (n : Nat) : (sends s l).group n = s.group n := rfl
theorem sendColl_eq (s : State) (p : Nat) (m : CollMsg) : sendColl s p m = sends s [collNote s p m] := rfl

/-- A message to several ports. -/
theorem foldl_sendColl (m : CollMsg) (l : List Nat) (s : State) : l.foldl (fun s p => sendColl s p m) s = sends s (l.map (collNote s · m)) := by
  induction l generalizing s with
  | nil => exact (sends_nil s).symm
  | cons p l ih =>
    rw [List.foldl_cons, ih, sendColl_eq]
    simp only [sends, List.map_cons, List.append_assoc, List.singleton_append]
    rfl

section
variable {s : State} {n : Nat} {g : Group}

@[simp] theorem setGroup_setGroup (f : Group) : (s.setGroup n g).setGroup n f = s.setGroup n f := by simp [State.setGroup]

/-- A group without notifications completes silently (R362). -/
theorem collNotify_quiet (hdb : (s.group n).dbEn = false) (hirq : (s.group n).irqEn = false) : collNotify s n = s := by simp [collNotify, hdb, hirq]

/-- Only the sequencers hear of a wave (R394). -/
theorem tellSeq_keeps (s : State) (n : Nat) : (tellSeq s n).groups = s.groups ∧ (tellSeq s n).remote = s.remote := by
  unfold tellSeq seqEvent
  dsimp only
  split_ifs
  · split
    · split_ifs <;> exact ⟨rfl, rfl⟩
    · exact ⟨rfl, rfl⟩
  · exact ⟨rfl, rfl⟩
theorem tellSeq_group (s : State) (n m : Nat) : (tellSeq s n).group m = s.group m := by rw [State.group, (tellSeq_keeps s n).1, State.group]
theorem tellSeq_sent (s : State) (n : Nat) : (tellSeq s n).remote.sent = s.remote.sent := by rw [(tellSeq_keeps s n).2]
end

/-! ### An operation that starts (R352, R353) -/

/-- A BARRIER that is carried on: nothing to contribute, and no child to wait for. -/
structure Alone (g : Group) : Prop where
  kind : g.kind = 0
  children : g.children = 0
  ups : g.ups = []
  upSent : g.upSent = false
  ready : g.ready = true
  st : g.st = .armed
  db : g.dbEn = false
  irq : g.irqEn = false

theorem childPorts_none {g : Group} (h : g.children = 0) : childPorts g = [] := by simp [childPorts, h]

/-- A completed BARRIER has no words to write (R353). -/
theorem collDone_barrier {s : State} {n : Nat} (hdb : (s.group n).dbEn = false) (hirq : (s.group n).irqEn = false) :
    collDone s n [] = s.setGroup n { s.group n with st := .done, quiet := 2, wave := none, turned := true } := by
  have howns : groupOwns s (s.group n) (s.group n).out ([] : List W).length = true := by simp [groupOwns]
  simp only [collDone, howns, Bool.true_eq_false, if_false]
  exact collNotify_quiet (by simpa using hdb) (by simpa using hirq)

/-- The root of a BARRIER without children is done at once (R353). -/
theorem rootResult_barrier {s : State} {n : Nat} {v : List W} (hkind : (s.group n).kind = 0) (hch : (s.group n).children = 0)
    (hdb : (s.group n).dbEn = false) (hirq : (s.group n).irqEn = false) : rootResult s n v =
      s.setGroup n { s.group n with st := .done, ups := [], quiet := 2, wave := none, turned := true } := by
  have hdown : ∀ t : State, (t.group n).children = 0 → sendDown t n false v = t := fun t ht => by rw [sendDown, childPorts_none ht, List.foldl_nil]
  unfold rootResult
  extract_lets g t u w
  rw [if_neg (by rw [show g.kind = 0 from hkind]; decide), if_pos (show g.kind = 0 from hkind), hdown w (by simpa [w] using hch),
    collDone_barrier (by simpa [w] using hdb) (by simpa [w] using hirq)]
  simp only [w, State.group_setGroup_same, setGroup_setGroup]

/-- A group that is neither ARMED nor UP is not carried on. -/
theorem collGo_idle {s : State} {n : Nat} (h : (s.group n).st ≠ .armed ∧ (s.group n).st ≠ .up) : collGo s n = s := if_pos h

/-- The group once its operation has been sent up, or its result formed. -/
theorem collGo_alone {s : State} {n : Nat} (h : Alone (s.group n)) (hup : treeDown (s.setGroup n { s.group n with st := .up }) (s.group n) = false) :
    ((s.group n).root = true → collGo s n =
      s.setGroup n { s.group n with st := .done, ups := [], quiet := 2, wave := none, turned := true }) ∧
    ((s.group n).root = false → collGo s n = sends (s.setGroup n { s.group n with st := .up, upSent := true, ups := [] })
      [collNote s (s.group n).parent.toNat (collMsg (s.group n) n false false 0 0 [])]) := by
  obtain ⟨hkind, hch, hups, hsent, hready, hst, hdb, hirq⟩ := h
  unfold collGo
  extract_lets g u mine g1 v g2 r
  have hmine : mine = g.mine := if_neg (by rw [show g.kind = 0 from hkind]; decide)
  have hval : v = (g.mine, false) := by
    rw [show v = groupValue g1 from rfl, groupValue, childPorts_none (g := g1) hch, List.foldl_nil, ← hmine]
  have hg2 : g2 = { g with st := .up } := by
    rw [show g2 = { g with st := .up, mine := mine, ovf := g.ovf || v.2 } from rfl, hval, hmine, Bool.or_false]
  have hall : ((childPorts g).all fun p => (tget g.ups p).isSome) = true := by rw [childPorts_none hch, List.all_nil]
  have hok : (g.ups.find? fun m => m.2.err != 0) = none := by rw [show g.ups = [] from hups, List.find?_nil]
  rw [if_neg (fun hno => hno.1 hst), hok]
  dsimp only
  rw [if_neg (by simp [g, hsent, hready]), if_neg (by rw [hup]; decide)]
  rw [if_pos hall]
  refine ⟨fun hroot => ?_, fun hroot => ?_⟩
  · rw [if_pos (by rw [hg2]; exact hroot), hg2, hval, rootResult_barrier (by simpa using hkind) (by simpa using hch) (by simpa using hdb) (by simpa using hirq)]
    simp only [State.group_setGroup_same, setGroup_setGroup, u, g]
  · rw [if_neg (by rw [hg2]; simpa using hroot)]
    rw [if_neg (by rw [hg2, hkind]; decide), sendColl_eq]
    simp only [r, u, hg2, setGroup_setGroup]
    rfl

/-- A group whose up message left, or which has no contribution yet, waits, unless a child reported an error (R353). -/
theorem collGo_waits {s : State} {n : Nat} (hok : ∀ e ∈ (s.group n).ups, e.2.err = 0) (hwait : (s.group n).upSent = true ∨ (s.group n).ready = false) :
    collGo s n = s := by
  have hnone : ((s.group n).ups.find? fun m => m.2.err != 0) = none := by simpa using fun a b hab => hok (a, b) hab
  unfold collGo
  extract_lets g
  rw [hnone]
  dsimp only
  rw [if_pos (show g.upSent = true ∨ (!g.ready) = true by simpa [g] using hwait), ite_self]

/-- A group at the start of a BARRIER, with its contribution of no words (R352). -/
def started (g : Group) : Group :=
  { g with st := .armed, seq := g.seq + 1, ovf := false, err := 0, errDev := 0, ups := [], early := [], prev := none, wave := none, mine := [],
           ready := true, quiet := 0, upSent := false, turned := false }

section
variable {s : State} {n : Nat} (hen : (s.group n).en = true) (hidle : (s.group n).st.busy = false) (hkind : (s.group n).kind = 0)
  (hch : (s.group n).children = 0) (hearly : (s.group n).early = []) (hdb : (s.group n).dbEn = false) (hirq : (s.group n).irqEn = false)

include hen hidle hkind hch hearly in
theorem collStart_barrier : collStart s n = collGo (collGo (s.setGroup n (started (s.group n))) n) n := by
  unfold collStart
  extract_lets g u
  have hcontribute : contribute u n = collGo (s.setGroup n (started g)) n := by
    unfold contribute
    extract_lets g' k set
    rw [show g'.kind = 0 by simpa [g', u] using hkind]
    show set u [] = _
    simp only [set, u, State.group_setGroup_same, setGroup_setGroup, started, show g.early = [] from hearly]
  rw [if_neg (by simp [g, hidle]), if_neg (by simp [g, hen]), if_neg (by simp [badConfig, g, hkind, hch]), hcontribute]

include hkind hch hdb hirq in
theorem started_alone : Alone (started (s.group n)) := ⟨hkind, hch, rfl, rfl, rfl, rfl, hdb, hirq⟩

include hch in
/-- Without children only the link to the parent counts (R360). -/
theorem treeDown_leaf (hup : (s.group n).root = true ∨ usable s (s.group n).parent.toNat = true) : treeDown s (s.group n) = false := by
  have hcarries : usable s (s.group n).parent.toNat = true →
      carries s (s.group n).parent.toNat (s.port (s.group n).parent.toNat).peerDev 5 = true := by
    simp only [usable, carries, Bool.and_eq_true, Bool.or_eq_true]
    exact fun ⟨h1, h2, h3⟩ => ⟨h1, h2, .inl h3⟩
  rw [treeDown, childPorts_none hch, List.any_nil, Bool.false_or]
  rcases hup with h | h
  · simp [h]
  · simp [hcarries h]

include hen hidle hkind hch hearly hdb hirq

/-- The root of a BARRIER without children is done at its go (R353). -/
theorem collStart_root (hroot : (s.group n).root = true) : collStart s n =
    s.setGroup n { started (s.group n) with st := .done, ups := [], quiet := 2, wave := none, turned := true } := by
  have halone : Alone ((s.setGroup n (started (s.group n))).group n) := by
    rw [State.group_setGroup_same]
    exact started_alone hkind hch hdb hirq
  have htree := treeDown_leaf (s := s) hch (.inl hroot)
  rw [collStart_barrier hen hidle hkind hch hearly, (collGo_alone halone (by rw [State.group_setGroup_same]; exact htree)).1 (by rw [State.group_setGroup_same]; exact hroot),
    State.group_setGroup_same, setGroup_setGroup, collGo_idle (by simp)]

/-- A leaf of a BARRIER sends its up message at its go (R353). -/
theorem collStart_leaf (hroot : (s.group n).root = false) (hup : usable s (s.group n).parent.toNat = true) : collStart s n =
    sends (s.setGroup n { started (s.group n) with st := .up, upSent := true, ups := [] })
      [collNote s (s.group n).parent.toNat (collMsg (started (s.group n)) n false false 0 0 [])] := by
  have halone : Alone ((s.setGroup n (started (s.group n))).group n) := by
    rw [State.group_setGroup_same]
    exact started_alone hkind hch hdb hirq
  have htree := treeDown_leaf (s := s) hch (.inr hup)
  rw [collStart_barrier hen hidle hkind hch hearly, (collGo_alone halone (by rw [State.group_setGroup_same]; exact htree)).2 (by rw [State.group_setGroup_same]; exact hroot),
    State.group_setGroup_same, setGroup_setGroup, collGo_waits (by simp [sends_group]) (.inl (by simp [sends_group]))]
  rfl
end

/-! ### Messages that arrive (R353, R357, R359) -/

section
variable {s : State} {n : Nat}

/-- A group without notifications enters ERROR with the code and the device given (R360). -/
theorem groupError_group {err : BitVec 8} {dev : BitVec 16} (hst : (s.group n).st ≠ .error) (hdb : (s.group n).dbEn = false)
    (hirq : (s.group n).irqEn = false) : ((groupError s n err dev).group n).st = .error ∧ ((groupError s n err dev).group n).err = err ∧
      ((groupError s n err dev).group n).errDev = dev := by
  unfold groupError
  extract_lets g busy root u v
  have hsame : v.group n = u.group n := by
    simp only [v, foldl_sendColl]
    split_ifs <;> rfl
  rw [if_neg (show ¬ g.st = .error from hst), collNotify_quiet (by rw [hsame]; simpa [u] using hdb) (by rw [hsame]; simpa [u] using hirq), hsame]
  simp [u]

/-- A message arrives at an UP port that is not fenced, in SERVICE, for an enabled group (R359). -/
theorem collRecv_service {port : BitVec 4} {m : CollMsg} (hmode : s.mg.mode = .service) (hst : (s.port port.toNat).st = .up)
    (hfence : (s.port port.toNat).fence = false) (hen : (s.group m.group.toNat).en = true) : collRecv s port.toNat m =
      if m.down then collDown s m.group.toNat port.toNat m else collUp s m.group.toNat port.toNat m := by
  unfold collRecv
  rw [if_neg (by simp [hst, hfence]), hmode]
  dsimp only
  rw [if_neg (by simp [hen])]

/-- A child's up message is kept, and the operation is carried on (R353). -/
theorem collUp_keeps {p : Nat} {m : CollMsg} (hchild : (s.group n).children.getLsbD p = true) (hshape : m.shape = shapeOf (s.group n))
    (hseq : m.seq = (s.group n).seq) (hst : (s.group n).st = .armed ∨ (s.group n).st = .up) (hsent : (s.group n).upSent = false)
    (hnew : tget (s.group n).ups p = none) : collUp s n p m =
      collGo (s.setGroup n { s.group n with ups := tset (s.group n).ups p m, ovf := (s.group n).ovf || m.ovf }) n := by
  have hnext : m.seq ≠ (s.group n).seq + 1 := fun h => absurd (h.symm.trans hseq) (by simp)
  unfold collUp
  rw [if_neg (by simp [hchild]), if_neg (by simp [hshape]), if_neg hnext, if_neg (by simp [hseq]),
    if_neg (fun h => by rcases hst with h' | h' <;> simp [h'] at h), if_pos ⟨hst, by simp [hsent], by simp [hnew]⟩]

variable {m : CollMsg} (hroot : (s.group n).root = false) (hshape : m.shape = shapeOf (s.group n)) (hseq : m.seq = (s.group n).seq)
  (hbusy : (s.group n).st.busy = true) (hturned : (s.group n).turned = false)
include hroot hshape hseq hbusy hturned

/-- The parent's down message with an error puts the group in ERROR and goes to every child (R360). -/
theorem collDown_error (herr : m.err ≠ 0) (hdb : (s.group n).dbEn = false) (hirq : (s.group n).irqEn = false) :
    collDown s n (s.group n).parent.toNat m = tellSeq (sends (s.setGroup n { s.group n with
      st := .error, err := m.err, errDev := m.errDev, quiet := 3, turned := true, upSent := true }) ((childPorts (s.group n)).map (collNote s · m))) n := by
  have hst : (s.group n).st ≠ .error := fun h => by simp [h, GSt.busy] at hbusy
  unfold collDown
  extract_lets g fwd u
  rw [if_neg (by simp [g, hroot]), if_neg (by simp [g, hshape]), if_neg (by simp [g, hseq, hbusy]), if_neg (by simp [g, hturned]), if_neg hst, if_pos herr]
  simp only [u, fwd, foldl_sendColl]
  rw [collNotify_quiet (by simpa [sends_group] using hdb) (by simpa [sends_group] using hirq)]
  rfl

/-- The parent's down message without one completes a BARRIER and goes to every child (R353). -/
theorem collDown_barrier (herr : m.err = 0) (hkind : (s.group n).kind = 0) (hdb : (s.group n).dbEn = false) (hirq : (s.group n).irqEn = false) :
    collDown s n (s.group n).parent.toNat m = tellSeq ((sends (s.setGroup n { s.group n with st := .down, turned := true, ovf := (s.group n).ovf || m.ovf })
      ((childPorts (s.group n)).map (collNote s · m))).setGroup n
        { s.group n with st := .done, turned := true, ovf := (s.group n).ovf || m.ovf, quiet := 2, wave := none }) n := by
  have hst : (s.group n).st ≠ .error := fun h => by simp [h, GSt.busy] at hbusy
  unfold collDown
  extract_lets g fwd u v
  rw [if_neg (by simp [g, hroot]), if_neg (by simp [g, hshape]), if_neg (by simp [g, hseq, hbusy]), if_neg (by simp [g, hturned]), if_neg hst,
    if_neg (by simp [herr]), if_neg (by simp [g, hkind]), if_pos (show g.kind = 0 from hkind)]
  simp only [v, fwd, foldl_sendColl]
  rw [collDone_barrier (by simpa [sends_group] using hdb) (by simpa [sends_group] using hirq)]
  simp only [sends_group, State.group_setGroup_same]
  rfl
end

/-- A message on a wrong port is discarded (R359). -/
theorem collDown_drops {s : State} {n p : Nat} {m : CollMsg} (h : (s.group n).root = true ∨ p ≠ (s.group n).parent.toNat) :
    collDown s n p m = collDrop s := if_pos h
theorem collUp_drops {s : State} {n p : Nat} {m : CollMsg} (h : (s.group n).children.getLsbD p = false) : collUp s n p m = collDrop s :=
  if_pos (by simp [h])

/-- The root begins the next wave at the end of q_period (R357). -/
theorem qPeriod_next {s : State} {n : Nat} {a : BitVec 64 × BitVec 64} (hwave : (s.group n).wave = some a) (hst : (s.group n).st = .down)
    (hroot : (s.group n).root = true) : qPeriod s n = tellSeq ((sends s ((childPorts (s.group n)).map (collNote s ·
      (collMsg (s.group n) n true false 0 0 [⟨0x001, a.1⟩, ⟨0x001, a.2⟩])))).setGroup n { s.group n with
        st := .up, upSent := false, turned := false, ready := false, quiet := 1, ups := [], wave := none }) n := by
  unfold qPeriod
  extract_lets g
  rw [show g.wave = some a from hwave]
  dsimp only
  rw [if_pos ⟨hst, hroot⟩, nextWave, sendDown, foldl_sendColl]
  rfl

/-- The entries of a table after a write are the new one and old ones. -/
theorem mem_tset {α : Type} {t : Tbl α} {k : Nat} {v : α} {e : Nat × α} (h : e ∈ tset t k v) : e = (k, v) ∨ e ∈ t := by
  induction t with
  | nil => exact .inl (by simpa [tset] using h)
  | cons x r ih =>
    obtain ⟨j, u⟩ := x
    simp only [tset] at h
    split_ifs at h
    · exact List.mem_cons.mp h
    · exact (List.mem_cons.mp h).imp_right (List.mem_cons_of_mem _)
    · rcases List.mem_cons.mp h with rfl | h
      · exact .inr List.mem_cons_self
      · exact (ih h).imp_right (List.mem_cons_of_mem _)

end Sys2Proof.Claims

open Sys2Proof Sys2Proof.Machine Sys2Proof.Claims

/-- Settles O52: a go, the messages of an operation, its waves and its bound each leave the group in the state they name. -/
theorem collectiveOperations : Obligations.CollectiveOperations := by
  intro s w grp port m v a n g go quiet arrives down
  have hn : n < 64 := grp.isLt
  have hgo : ∀ t, go → (go → collStart s n = t) → Gives (.cwGgoWrite (.world w) grp) s t.tick := fun t h ht =>
    gives_of_eq rfl ((writeReg_group hn (by decide) (by decide) h).trans (ht h))
  have hgrp : BitVec.ofNat 6 n = grp := by simp [n]
  refine ⟨fun h hen hidle hkind hch hearly ⟨hdb, hirq⟩ => ⟨fun hroot => ?_, fun hroot hup => ?_⟩, fun h hbusy hlost => ?_, fun h hidle hen => ?_,
    fun h => gives_of_eq rfl (writeReg_group hn (by decide) (by decide) h), fun h => gives_of_eq rfl (writeReg_group hn (by decide) (by decide) h),
    fun ⟨hmode, hst, hfence, hgroup, hen⟩ hdown hchild hshape hseq herr hphase hsent hready hnew hups => ?_,
    fun ⟨hmode, hst, hfence, hgroup, hen⟩ hdown hroot hport hshape hseq hbusy hturned ⟨hdb, hirq⟩ => ?_,
    fun ⟨hmode, hst, hfence, hgroup, hen⟩ hwrong => ⟨?_, rfl⟩, fun hwave hst hroot => ?_, fun hst ⟨hdb, hirq⟩ => ?_, fun hup hdown => ?_⟩
  -- CW_GGO of a root and of a leaf, in progress, and of a group not enabled.
  · have hat : ∀ x : Group, (((s.setGroup n x).tick).group n) = x := fun x => State.group_setGroup_same ..
    exact ⟨_, hgo _ h fun _ => collStart_root hen hidle hkind hch hearly hdb hirq hroot, congrArg Group.st (hat _), congrArg Group.seq (hat _),
      congrArg Group.err (hat _), rfl⟩
  · have hat : ∀ (x : Group) (l : List Sent), ((sends (s.setGroup n x) l).tick).group n = x := fun x l => State.group_setGroup_same ..
    refine ⟨_, hgo _ h fun _ => collStart_leaf hen hidle hkind hch hearly hdb hirq hroot hup, congrArg Group.st (hat _ _), congrArg Group.seq (hat _ _),
      congrArg Group.upSent (hat _ _), congrArg (s.remote.sent ++ [·]) ?_⟩
    rw [collNote, collMsg, hgrp, BitVec.ofNat_toNat, BitVec.setWidth_eq]
    rfl
  · refine hgo _ h fun _ => (if_pos hbusy).trans ?_
    rw [if_neg (show ¬ (s.group n).lostGo = 255 from fun h => absurd (h ▸ hlost) (by decide))]
  · exact hgo _ h fun _ => (if_neg (Bool.eq_false_iff.mp hidle)).trans (if_pos (by rw [show (s.group n).en = _ from hen]; rfl))
  -- A child's up message.
  · subst hgroup
    refine gives_of_eq rfl ((collRecv_service hmode hst hfence hen).trans ?_)
    rw [if_neg (by simp [hdown]), collUp_keeps hchild hshape hseq hphase hsent hnew]
    refine collGo_waits (fun e he => ?_) (.inr (by rw [State.group_setGroup_same]; exact hready))
    rw [State.group_setGroup_same] at he
    rcases mem_tset he with rfl | he
    · exact herr
    · exact hups e he
  -- The parent's down message.
  · subst hgroup hport
    have hrecv : collRecv s g.parent.toNat m = collDown s n g.parent.toNat m := (collRecv_service hmode hst hfence hen).trans (if_pos hdown)
    refine ⟨fun herr hkind => ⟨_, gives_of_eq rfl (hrecv.trans (collDown_barrier hroot hshape hseq hbusy hturned herr hkind hdb hirq)), ?_⟩,
      fun herr => ⟨_, gives_of_eq rfl (hrecv.trans (collDown_error hroot hshape hseq hbusy hturned herr hdb hirq)), ?_⟩⟩
    all_goals simp only [sentSince, State.group_tick, State.tick_remote, tellSeq_group, tellSeq_sent, sends_group, State.group_setGroup_same, true_and]
    · exact ⟨rfl, rfl⟩
    · rfl
  -- A message on a wrong port.
  · subst hgroup
    refine gives_of_eq rfl ((collRecv_service hmode hst hfence hen).trans ?_)
    rcases hwrong with ⟨hdown, hport⟩ | ⟨hdown, hchild⟩
    · exact (if_pos hdown).trans (collDown_drops (hport.imp_right fun h => mt BitVec.eq_of_toNat_eq h))
    · exact (if_neg (by simp [hdown])).trans (collUp_drops hchild)
  -- The end of q_period.
  · have hnext : qPeriod s n = _ := qPeriod_next hwave hst hroot
    rw [collMsg, hgrp] at hnext
    refine ⟨_, gives_of_eq rfl hnext, ?_⟩
    simp only [sentSince, State.group_tick, State.tick_remote, tellSeq_group, tellSeq_sent, State.group_setGroup_same, true_and]
    rfl
  -- coll_timeout.
  · exact ⟨_, gives_of_eq rfl (if_pos hst), groupError_group (fun h => by rcases hst with h' | h' <;> exact absurd (h'.symm.trans h) (by decide)) hdb hirq⟩
  · exact gives_of_eq rfl (if_neg (not_or.mpr ⟨hup, hdown⟩))
end

section
/-! PROOFS. A word that memory lists twice. -/

namespace Sys2Proof.Claims

open Sys2Proof.Machine

/-- Memory lists word 0 twice, with two numbers; nothing else holds its line. -/
def wordTwice : State := { State.reset with mem := { State.reset.mem with words := [(0, ⟨0x006, 1⟩), (0, ⟨0x006, 2⟩)] } }

/-- Word 0 written by Valley as UNINIT, which an unlisted word reads as, reads as the second listing. -/
theorem wordTwice_written : curWord (vlWrite 200 wordTwice 0 [uninitW] none) 0 = ⟨0x006, 2⟩ := by decide

end Sys2Proof.Claims

open Sys2Proof Sys2Proof.Machine Sys2Proof.Claims

/-- Refutes O48, by its clause on one word written and read back: a word written as an unlisted one reads is taken out of memory by `tdel`,
which takes out the first listing alone, so a memory that lists the word twice reads the second listing. -/
theorem not_channelsRun : ¬ Obligations.ChannelsRun := by
  unfold Obligations.ChannelsRun
  intro h
  obtain ⟨-, -, -, hback, -⟩ := h wordTwice wordTwice 0 0 0 uninitW uninitW uninitW uninitW 0 0 0 { word := 0, why := .syncV }
  have hread : curWord (vlWrite 200 wordTwice 0 [uninitW] none) 0 = uninitW := hback rfl rfl rfl rfl rfl rfl
  exact absurd (wordTwice_written.symm.trans hread) (by decide)
end

section
/-! PROOFS. The host interface: what an error record leaves alone, BAR0 and BAR4 accesses, resets, and the host's mailbox. -/

namespace Sys2Proof.Claims

open Sys2Proof.Machine

/-! ### Errors and interrupts (R415, R416) -/

namespace Stir
variable {s t : State} (h : Stir s t)
include h
theorem host : t.host = s.host := (congrArg State.host h.rest : t.host = (stirred s t).host)
theorem mem : t.mem = s.mem := (congrArg State.mem h.rest : t.mem = (stirred s t).mem)
end Stir

/-- A vector is sent or becomes pending; nothing else changes (R415). -/
theorem msix_eq (s : State) (n : Nat) : ∃ vs ms, msix s n = { s with host := { s.host with vecs := vs, sentMsi := ms } } := by
  unfold msix
  dsimp only
  split
  · exact ⟨_, _, rfl⟩
  · exact ⟨_, _, rfl⟩

/-- A vector from 8 up that is not masked is sent (R415). -/
theorem msix_sends {s : State} {n : Nat} (hmask : (tgetD s.host.vecs n {}).mask = false) (hmaster : s.host.master = true) :
    msix s n = { s with host := { s.host with sentMsi := s.host.sentMsi ++ [BitVec.ofNat 11 n] } } := by
  unfold msix
  dsimp only
  rw [if_neg (by rw [hmask, hmaster]; simp)]

/-- The record of a host-interface error, before its interrupts (R416). -/
def recorded (s : State) (off bar cause : Nat) : State :=
  { countUp s 0x1800 0x61 1 with
    host := { s.host with errOff := BitVec.ofNat 40 off, errBar := BitVec.ofNat 3 bar, errCause := BitVec.ofNat 8 cause,
                          errCnt := if s.host.errCnt = 0xFFFFFFFF then s.host.errCnt else s.host.errCnt + 1 } }

theorem hostError_eq (s : State) (off bar cause : Nat) :
    hostError s off bar cause = msix (if aerCause cause then pcieEvent (recorded s off bar cause) else recorded s off bar cause) 4 := rfl

/-- An error's event changes neither the host interface nor memory. -/
theorem recorded_event (s : State) (off bar cause : Nat) (aer : Bool) :
    (if aer then pcieEvent (recorded s off bar cause) else recorded s off bar cause).host = (recorded s off bar cause).host ∧
      (if aer then pcieEvent (recorded s off bar cause) else recorded s off bar cause).mem = s.mem := by
  cases aer
  · exact ⟨rfl, rfl⟩
  · exact ⟨(Stir.signal _ _ _).host, (Stir.signal _ _ _).mem⟩

/-- An error is recorded, and the rest of the host interface but the vectors stays (R416). -/
theorem hostError_host (s : State) (off bar cause : Nat) : ∃ vs ms,
    (hostError s off bar cause).host = { (recorded s off bar cause).host with vecs := vs, sentMsi := ms } := by
  rw [hostError_eq]
  obtain ⟨vs, ms, hmsix⟩ := msix_eq (if aerCause cause then pcieEvent (recorded s off bar cause) else recorded s off bar cause) 4
  rw [hmsix]
  exact ⟨vs, ms, by rw [(recorded_event s off bar cause _).1]⟩

theorem hostError_mem (s : State) (off bar cause : Nat) : (hostError s off bar cause).mem = s.mem := by
  rw [hostError_eq]
  obtain ⟨vs, ms, hmsix⟩ := msix_eq (if aerCause cause then pcieEvent (recorded s off bar cause) else recorded s off bar cause) 4
  rw [hmsix]
  exact (recorded_event s off bar cause _).2

/-- An error without a status of AER signals nothing (R416). -/
theorem hostError_ctxs (s : State) (off bar : Nat) {cause : Nat} (haer : aerCause cause = false) : (hostError s off bar cause).ctxs = s.ctxs := by
  obtain ⟨vs, ms, hmsix⟩ := msix_eq (recorded s off bar cause) 4
  rw [hostError_eq, haer, if_neg (by decide), hmsix]
  rfl

/-- The record that an error leaves. -/
theorem hostError_failed (s : State) (off bar cause : Nat) :
    (hostError s off bar cause).host.errBar = BitVec.ofNat 3 bar ∧ (hostError s off bar cause).host.errCause = BitVec.ofNat 8 cause := by
  obtain ⟨vs, ms, h⟩ := hostError_host s off bar cause
  exact ⟨(congrArg HostIf.errBar h).trans rfl, (congrArg HostIf.errCause h).trans rfl⟩

theorem hostError_staging (s : State) (off bar cause : Nat) : (hostError s off bar cause).host.staging = s.host.staging := by
  obtain ⟨vs, ms, h⟩ := hostError_host s off bar cause
  exact (congrArg HostIf.staging h).trans rfl

theorem hostError_barData (s : State) (off bar cause : Nat) : (hostError s off bar cause).host.barData = s.host.barData := by
  obtain ⟨vs, ms, h⟩ := hostError_host s off bar cause
  exact (congrArg HostIf.barData h).trans rfl

theorem hostError_reads (s : State) (off bar cause : Nat) : (hostError s off bar cause).host.reads = s.host.reads := by
  obtain ⟨vs, ms, h⟩ := hostError_host s off bar cause
  exact (congrArg HostIf.reads h).trans rfl

/-! ### BAR2 (R411, R427) -/

section
variable {s : State} {off : Nat} {data : List (BitVec 8)}

/-- In LOADER before GO the image area takes the bytes, which ends the verified state. -/
theorem bar2Write_stages (hmode : s.mg.mode = .loader) (hrun : s.mg.start.running = false) (hrelay : s.mg.start.relay = false)
    (hend : off + data.length ≤ 0x3F00000) (hpos : 0 < data.length) :
    (bar2Write s off data).host.staging = stPut s.host.staging off data ∧ (bar2Write s off data).mg.start.verified = false := by
  have himg : off < 0x3F00000 := by omega
  have hall : data.take (min data.length (0x3F02000 - off)) = data := List.take_of_length_le (by omega)
  simp only [bar2Write, hmode, hrun, hrelay, himg, hall, beq_self_eq_true, Bool.not_false, Bool.false_and, Bool.and_self, Bool.not_true,
    Bool.and_false, decide_true, Bool.false_eq_true, if_false, show off < 0x3F02000 by omega, if_true, show 0 < off + data.length by omega, and_self]

/-- Elsewhere it refuses them. -/
theorem bar2Write_refused (hmode : s.mg.mode ≠ .loader) (himg : off < 0x3F00000) : bar2Write s off data = hostError s off 2 6 :=
  if_pos (by simp [hmode, himg])
end

/-! ### BAR4 (R412) -/

section
variable {s : State} {off : BitVec 38} {len : BitVec 13} {data : Option (List (BitVec 8))}

/-- A mode that refuses BAR4, or a window that is not open, refuses a read and a write. -/
theorem bar4_refuses_read (h : hostRefused s.mg.mode = true ∨ barOpen s = false) :
    bar4 s off len none false = hostRead (hostError s off.toNat 4 6) off none := by
  unfold bar4
  rw [if_neg (by decide), if_pos (by simpa using h)]
  rfl
theorem bar4_refuses_write {d : List (BitVec 8)} (h : hostRefused s.mg.mode = true ∨ barOpen s = false) :
    bar4 s off len (some d) false = hostError s off.toNat 4 6 := by
  unfold bar4
  rw [if_neg (by decide), if_pos (by simpa using h)]
  rfl

/-- The refusal of a read is recorded, and the read returns nothing (R412, R416). -/
theorem refusedRead (s : State) (n : Nat) (off : BitVec 38) : (hostRead (hostError s n 4 6) off none).host.errBar = BitVec.ofNat 3 4 ∧
    (hostRead (hostError s n 4 6) off none).host.errCause = BitVec.ofNat 8 6 ∧
      (hostRead (hostError s n 4 6) off none).host.barData = s.host.barData ++ [(off, none)] := by
  simp only [hostRead, hostError_failed, hostError_barData, and_self]

theorem bar4_poisoned : bar4 s off len data true = hostError s off.toNat 4 7 := rfl

/-- An aligned read of one word asks for that word. -/
theorem barOps_word (halign : off.toNat % 8 = 0) : barOps s off 8 none = [.word off (barVa s off.toNat) s.host.barW none] := by
  have hone : (off.toNat + 8 + 7) / 8 - off.toNat / 8 = 1 := by omega
  have hat : off.toNat / 8 * 8 + 8 * 0 = off.toNat := by omega
  simp only [barOps, hone, List.range_one, List.map_cons, List.map_nil, hat, BitVec.ofNat_toNat, BitVec.setWidth_eq, Option.map_none]

/-- A read of a word of this device, with no operation outstanding, brings the word (R412). -/
theorem barWord_reads {u t : State} {va : BitVec 59} {w : World} {x : W} {l : Leaf} (hdev : homeDev va = devNo u)
    (hreach : unreachable u (devNo u) = none) (hops : u.remote.ops = []) (hload : homeLoad (freeOpSlot u 0) (devNo u) w true va = (.ok (x, l), t))
    (hlost : x.tag ≠ 0x301) : barWord u off va w none = some (hostRead t off (some x.payload)) := by
  have hown : ownSlot u = some (freeOpSlot u 0) := by simp only [ownSlot, hops, show freeOp ([] : Tbl OutOp) = some 0 from rfl]
  have hword : hostWord t off x = hostRead t off (some x.payload) := if_neg hlost
  unfold barWord
  rw [hdev, hreach, hown]
  dsimp only
  rw [if_pos rfl, Option.map_some, show devNo (freeOpSlot u 0) = devNo u from rfl, hload]
  exact congrArg some hword

/-- A read that waits alone behind no write is performed (R412, R414). -/
theorem barRun_read {v u : State} {va : BitVec 59} {w : World} (hq : v.host.barQ = [.word off va w none]) (hout : v.host.barOut = 0)
    (hword : barWord { v with host := { v.host with barQ := [] } } off va w none = some u) (hidle : u.host.barQ = []) : barRun v = u := by
  unfold barRun
  rw [hq, List.length_singleton]
  unfold barGo
  rw [hq]
  dsimp only
  rw [if_neg (by simp [hout]), hword]
  dsimp only
  unfold barGo
  rw [hidle]

/-- A read of a word of this device, with no operation outstanding, returns it at once. -/
theorem bar4_reads {t : State} {w : W} {l : Leaf} (hmode : s.mg.mode = .service) (hopen : barOpen s = true) (hq : s.host.barQ = [])
    (hout : s.host.barOut = 0) (halign : off.toNat % 8 = 0) (hdev : homeDev (barVa s off.toNat) = devNo s)
    (hreach : unreachable s (devNo s) = none) (hops : s.remote.ops = [])
    (hload : homeLoad { (freeOpSlot s 0) with host := { s.host with barQ := [] } } (devNo s) s.host.barW true (barVa s off.toNat) = (.ok (w, l), t))
    (hidle : t.host.barQ = []) (hlost : w.tag ≠ 0x301) : bar4 s off 8 none false = hostRead t off (some w.payload) := by
  have hword := barWord_reads (off := off) (u := { s with host := { s.host with barQ := [] } }) hdev hreach hops hload hlost
  unfold bar4
  rw [if_neg (by decide), if_neg (by simp [hmode, hopen, hostRefused]), if_neg (by simp [hmode]), show (8 : BitVec 13).toNat = 8 from rfl, barOps_word halign, hq]
  exact barRun_read rfl hout hword hidle
end

/-! ### Resets and the link (R407, R408, R501) -/

/-- A change of the link, or none, leaves memory and, of the host interface, all but the link as it is. -/
theorem setLink_keeps (s : State) (v : BitVec 2) : (setLink s v).host = { s.host with link := v } ∧ (setLink s v).mem = s.mem := by
  unfold setLink pcieEvent
  split
  · next h => exact ⟨by rw [← h], rfl⟩
  · exact ⟨(Stir.signal _ _ _).host, (Stir.signal _ _ _).mem⟩

/-! ### HI_RAISE and the other registers of BAR0 (R409, R413, R414) -/

/-- A fold that acts at one place of a list without repetitions acts once. -/
theorem foldl_at {α : Type} {f : α → Nat → α} {b : Nat} {l : List Nat} (hl : l.Nodup) (hb : b ∈ l) (s : α) :
    l.foldl (fun s i => if i = b then f s i else s) s = f s b := by
  induction l generalizing s with
  | nil => exact absurd hb (by simp)
  | cons i l ih =>
    obtain ⟨hi, hl⟩ := List.nodup_cons.mp hl
    rw [List.foldl_cons]
    rcases eq_or_ne i b with rfl | hne
    · rw [if_pos rfl]
      have hid : ∀ t, l.foldl (fun s j => if j = i then f s j else s) t = t := fun t => by
        rw [List.foldl_ext _ (fun s _ => s) t fun s j hj => if_neg (ne_of_mem_of_not_mem hj hi)]
        exact List.foldl_fixed l
      exact hid _
    · rw [if_neg hne]
      exact ih hl ((List.mem_cons.mp hb).resolve_left hne.symm) s

/-- One bit of HI_RAISE signals its source (R413). -/
theorem hiRaise_bit {s : State} {bit : Nat} (hbit : bit < 64) :
    hiRaise s (1 <<< bit : Nat) = signal s (0xC0 + bit) (Config.freeValue s.free (2 ^ 21 + bit)) := by
  have hget : ∀ i, i < 64 → ((1 <<< bit : Nat) : BitVec 64).getLsbD i = decide (i = bit) := fun i hi => by
    rw [BitVec.natCast_eq_ofNat, BitVec.getLsbD_ofNat, Nat.one_shiftLeft, Nat.testBit_two_pow, decide_eq_true hi, Bool.true_and]
    exact decide_eq_decide.mpr eq_comm
  unfold hiRaise
  rw [List.foldl_ext _ (fun s i => if i = bit then signal s (0xC0 + i) (Config.freeValue s.free (2 ^ 21 + i)) else s) s fun t i hi => by
    simp only [hget i (List.mem_range.mp hi), decide_eq_true_eq]]
  exact foldl_at (f := fun s i => signal s (0xC0 + i) (Config.freeValue s.free (2 ^ 21 + i))) List.nodup_range (List.mem_range.mpr hbit) s

section
variable {s : State} {o : Nat} {v : BitVec 64} (hlink : linkUp s = true) (ho : o < 0x2000000) (hbox : isHostMbox o = false)
include hlink ho hbox

/-- A host write to a BAR0 offset is made where the mode permits it (R439). -/
theorem hostWrite_made (href : hostRefused s.mg.mode = false) (hmode : s.mg.mode ≠ .drowse) : hostWrite s o v = bar0Write s o v := by
  have hoff : bar0Off o = some o := if_pos ho
  unfold hostWrite
  rw [hoff]
  dsimp only
  rw [if_neg (by simp [hlink]), hbox, if_neg (by decide), if_neg (by simp [href]), if_neg hmode]

/-- Another mode refuses it (R439). -/
theorem hostWrite_refused (href : hostRefused s.mg.mode = true) : hostWrite s o v = hostError s o 0 6 := by
  have hoff : bar0Off o = some o := if_pos ho
  unfold hostWrite
  rw [hoff]
  dsimp only
  rw [if_neg (by simp [hlink]), hbox, if_neg (by decide), if_pos href]
end

/-- No register space lies behind HI_BAR4_BASE and HI_RAISE (R409). -/
theorem bar0Lpa_base : bar0Lpa 0xD00000 = none := by decide
theorem bar0Lpa_raise : bar0Lpa 0xD00020 = none := by decide

theorem bar0Write_base (s : State) (v : BitVec 64) :
    bar0Write s 0xD00000 v = { s with host := { s.host with barBase := BitVec.ofNat 59 v.toNat } } := by
  rw [bar0Write, bar0Lpa_base]
  rfl

theorem bar0Write_raise (s : State) (v : BitVec 64) :
    bar0Write s 0xD00020 v = if hostBusy s then hostLater s (.effect 0xD00020 v) else hiRaise s v := by
  rw [bar0Write, bar0Lpa_raise]
  rfl

/-! ### The mailbox and the outbound window (R414, R415) -/

section
variable {s : State} {op : Nat} {r : DictReq}

/-- A go of a busy mailbox is counted (R414). -/
theorem hiDmGo_lost (hbusy : s.host.dm.busy = true) (hlost : s.host.dm.lostGo < 255) :
    hiDmGo s op r = { s with host := { s.host with dm := { s.host.dm with lostGo := s.host.dm.lostGo + 1 } } } := by
  have hne : s.host.dm.lostGo ≠ 0xFF := fun h => absurd (h ▸ hlost) (by decide)
  unfold hiDmGo
  extract_lets d
  rw [if_pos (.inl hbusy), lostGo, if_neg hne]

theorem msix_dm (s : State) (n : Nat) : (msix s n).host.dm = s.host.dm := by
  obtain ⟨vs, ms, h⟩ := msix_eq s n
  rw [h]

/-- A reply in the mailbox over PCIe ends its request (R414). -/
theorem replyBar2_done (s : State) (b : List (BitVec 8)) : (replyBar2 s b).host.dm.done = true ∧ (replyBar2 s b).host.dm.busy = false := by
  have h : (replyBar2 s b).host.dm = _ := msix_dm _ _
  rw [h]
  exact ⟨rfl, rfl⟩

/-- A request too short for its header is answered (R414, R456). -/
theorem hiDmGo_short (hidle : s.host.dm.busy = false) (hlo : 1 ≤ s.host.dm.len.toNat) (hhi : s.host.dm.len.toNat < 16) :
    (hiDmGo s op r).host.dm.done = true ∧ (hiDmGo s op r).host.dm.busy = false := by
  unfold hiDmGo
  extract_lets d
  have hgo : ¬ (d.busy = true ∨ d.len.toNat < 1 ∨ 4096 < d.len.toNat) := by
    have hlen : 1 ≤ d.len.toNat ∧ d.len.toNat < 16 := ⟨hlo, hhi⟩
    rintro (h | h)
    · exact Bool.false_ne_true (hidle.symm.trans h)
    · omega
  rw [if_neg hgo]
  rw [if_pos (show d.len.toNat < 16 from hhi)]
  exact replyBar2_done ..
end

/-- The answer of an outbound read that has had no completion (R415). -/
def allOnes (p : Pend) : Pend :=
  if p.why = .outbound then { p with words := tset p.words 0 ⟨0x006, 0xFFFFFFFFFFFFFFFF⟩, ready := true } else p

/-- An outbound read of a context, the only one outstanding, times out (R415). -/
theorem outLate_alone {s : State} {n : BitVec 16} {a : BitVec 64} (hreads : s.host.reads = [(.ctx n, a)]) : outLate s (.ctx n) =
    (hostError { s with host := { s.host with reads := [] } } (a.toNat % 2 ^ 35) 7 9).modCtx n.toNat fun c => { c with pend := c.pend.map allOnes } := by
  unfold outLate
  rw [hreads, List.find?_cons_of_pos (by simp)]
  dsimp only
  rw [List.filter_cons_of_neg (by simp), List.filter_nil]
  rfl

end Sys2Proof.Claims

open Sys2Proof Sys2Proof.Machine Sys2Proof.Claims

/-- Settles O56: each access of the host is made, refused or held by the mode and the link, and an error record leaves all else alone. -/
theorem hostInterface : Obligations.HostInterface := by
  intro s t off2 bytes off len st op code req n va v ha p w l bit h dm free x failed
  refine ⟨fun hlink => ⟨fun ⟨hmode, hrun, hrelay⟩ hend hpos => ?_, fun hmode himg => ?_, fun href hmode => ⟨?_, ?_⟩, fun hmode => ?_,
    fun hmode hopen hq hout halign hlen hdev hreach hops hload hidle hlost => ?_, ?_, fun hfree hbusy hlost => ?_, fun hfree hidle hlo hhi => ?_, ?_,
    fun href hmode hfree hbit hv => ?_, fun href hmode hbusy => ?_, fun href hmode => ?_, fun href => ?_⟩, ?_, fun hmode hst => ?_,
    fun hissue => ⟨fun hn hmask hmaster => ?_, fun hn => ?_⟩, fun hreads hpend hwhy => ?_⟩
  -- BAR2.
  · exact ⟨_, gives_of_eq rfl (if_pos hlink), bar2Write_stages hmode hrun hrelay hend hpos⟩
  · exact ⟨_, gives_of_eq rfl ((if_pos hlink).trans (bar2Write_refused hmode himg)), hostError_staging .., hostError_failed ..⟩
  -- BAR4 refused, poisoned and read.
  · obtain ⟨hbar, hcause, hdata⟩ := refusedRead s off.toNat off
    exact ⟨_, gives_of_eq rfl ((if_neg (by simp [hlink])).trans ((if_neg hmode).trans (bar4_refuses_read href))), ⟨hbar, hcause⟩, hdata⟩
  · exact ⟨_, gives_of_eq rfl ((if_neg (by simp [hlink])).trans ((if_neg hmode).trans (bar4_refuses_write href))), hostError_failed .., hostError_mem ..⟩
  · exact ⟨_, gives_of_eq rfl ((if_neg (by simp [hlink])).trans ((if_neg hmode).trans bar4_poisoned)), hostError_failed .., hostError_mem ..⟩
  · subst hlen
    refine ⟨_, gives_of_eq rfl ((if_neg (by simp [hlink])).trans ((if_neg (by simp [hmode])).trans
      (bar4_reads hmode hopen hq hout halign hdev hreach hops hload hidle hlost))), rfl⟩
  -- FLR.
  · exact ⟨_, gives_of_eq rfl (if_pos hlink), rfl, rfl, rfl, rfl, rfl, rfl, rfl, rfl, rfl⟩
  -- The mailbox.
  · refine gives_of_eq rfl ((if_neg (by simp [hlink])).trans ((if_neg (by simp [hfree])).trans (hiDmGo_lost hbusy hlost)))
  · exact ⟨_, gives_of_eq rfl ((if_neg (by simp [hlink])).trans (if_neg (by simp [hfree]))), hiDmGo_short hidle hlo hhi⟩
  -- SPDM.
  · exact gives_of_eq rfl (if_pos hlink)
  -- HI_RAISE at once, behind BAR4, and HI_BAR4_BASE.
  · subst hv
    refine gives_of_eq rfl ((hostWrite_made hlink (by decide) (by decide) href hmode).trans ?_)
    rw [bar0Write_raise, hfree, if_neg (by decide), hiRaise_bit hbit]
  · refine gives_of_eq rfl ((hostWrite_made hlink (by decide) (by decide) href hmode).trans ?_)
    rw [bar0Write_raise, if_pos hbusy]
    rfl
  · refine ⟨_, gives_of_eq rfl ((hostWrite_made hlink (by decide) (by decide) href hmode).trans (bar0Write_base s v)), ?_, rfl⟩
    exact BitVec.toNat_ofNat ..
  · exact ⟨_, gives_of_eq rfl (hostWrite_refused hlink (by decide) (by decide) href), hostError_failed ..⟩
  -- PE_PERST_N and the link.
  · obtain ⟨hhost, hmem⟩ := setLink_keeps { flrReset s with host := { (flrReset s).host with perst := true } } 0
    exact ⟨_, rfl, congrArg HostIf.perst hhost, congrArg HostIf.link hhost, congrArg HostIf.barEn hhost, congrArg HostIf.vecs hhost,
      (congrArg HostIf.staging hhost).trans rfl, hmem⟩
  · refine gives_of_eq rfl ((if_neg (not_or.mpr ⟨hmode, hst⟩)).trans ?_)
    by_cases hsame : h.link = st
    · refine (if_pos hsame).trans (Eq.trans ?_ (if_pos hsame).symm)
      obtain rfl : st = s.host.link := hsame.symm
      rfl
    · exact (if_neg hsame).trans (if_neg hsame).symm
  -- MSIX_SEND.
  · exact gives_of_eq rfl ((if_pos hissue).trans ((if_neg (by omega)).trans (msix_sends hmask hmaster)))
  · exact ⟨_, gives_of_eq rfl ((if_pos hissue).trans (if_pos hn)), hostError_failed ..⟩
  -- An outbound read without a completion.
  · have hpend' : ∀ t : State, t.ctxs = s.ctxs → (((t.modCtx n.toNat fun c => { c with pend := c.pend.map allOnes }).ctx n.toNat).pend) = some (allOnes p) := by
      intro t ht
      rw [State.ctx_modCtx_same, show t.ctx n.toNat = s.ctx n.toNat by rw [State.ctx, ht, State.ctx], hpend, Option.map_some]
    exact ⟨_, allOnes p, gives_of_eq rfl (outLate_alone hreads), (hostError_reads ..).trans rfl, hostError_failed .., hpend' _ (hostError_ctxs _ _ _ rfl),
      by rw [allOnes, if_pos hwhy], by rw [allOnes, if_pos hwhy]; exact tget_tset_same ..⟩
end

section
/-! PROOFS. The dictionary (R455 to R461): requests on path 0, remote ones, replies and mailboxes; the register MOVED_CONS of a world and
an instruction word without meaning. -/

namespace Sys2Proof.Claims

open Sys2Proof.Machine

/-! ### A request on path 0 and its answer -/

/-- The reply of an operation on path 0 (R459). -/
def replied (s : State) (op st : BitVec 8) (r : DictReq) : State :=
  { s with host := { s.host with replies := s.host.replies ++ [(0, op + 0x80, st, r)] } }

theorem deliverReply_path0 (s : State) {op : Nat} {a : Answer} (h : a.req.path = 0) :
    deliverReply s op a = replied s (BitVec.ofNat 8 op) (BitVec.ofNat 8 a.status) a.req := by
  simp [deliverReply, h, replied, BitVec.ofNat_add]

section
variable {s : State} {r : DictReq} {op : Nat} (hmode : s.mg.mode ≠ .off) (hpath : r.path = 0)
include hmode hpath

theorem pathOpen_path0 : pathOpen s r.path.toNat = true := by simp [hpath, pathOpen, hmode]

/-- A request with a malformed header is refused (R456). -/
theorem request_malformed (h : formatOk op r = false ∨ r.remote = false ∧ r.dest ≠ 0) :
    request s op r = replied s (BitVec.ofNat 8 op) 7 { r with value := [] } := by
  have hbad : !formatOk op r ∨ (r.remote = false ∧ r.dest ≠ 0) := h.imp_left fun h => by simp [h]
  rw [request, pathOpen_path0 hmode hpath, if_neg (by simp), if_pos hbad, deliverReply_path0 _ hpath]
  rfl

/-- A well-formed request for this device is performed, and its answer goes back (R459). -/
theorem request_here {a : Answer} {t : State} (hremote : r.remote = false) (hdest : r.dest = 0) (hok : formatOk op r = true)
    (hp : perform s op r = (a, t)) (ha : a.req.path = 0) :
    request s op r = replied t (BitVec.ofNat 8 op) (BitVec.ofNat 8 a.status) a.req := by
  rw [request, pathOpen_path0 hmode hpath, if_neg (by simp), if_neg (by simp [hok, hdest]), hremote, if_pos (by simp), hp]
  exact deliverReply_path0 _ ha

end

/-- READ, WRITE and FORCE of an entry have a header of this form (R456). -/
theorem formatOk_entry {op : Nat} {r : DictReq} (hop : 1 ≤ op ∧ op < 4) (harg : r.arg = 0) : formatOk op r = true := by
  have : op ≤ 6 := by omega
  simp [formatOk, harg, hop, this]

section
variable {s : State} {r : DictReq}
theorem perform_read (h : formatOk 1 r = true) : perform s 1 r = (dictRead s r, s) := by simp [perform, h]
theorem perform_write (h : formatOk 2 r = true) : perform s 2 r = dictWrite s r := by simp [perform, h]
theorem perform_force (h : formatOk 3 r = true) : perform s 3 r = dictForce s r := by simp [perform, h]
theorem perform_next (h : formatOk 4 r = true) : perform s 4 r = (dictNextOp r, s) := by simp [perform, h]
theorem perform_log (h : formatOk 5 r = true) : perform s 5 r = (dictLog s r, s) := by simp [perform, h]
theorem perform_snap (h : formatOk 6 r = true) : perform s 6 r = (dictSnap s r, s) := by simp [perform, h]
end

/-! ### The operations on one entry (R457) -/

theorem dictEntry_index {i j : Nat} {e : DEnt} (h : dictEntry i j = some e) : e.index = i := by
  have := List.find?_some h
  simp only [Bool.and_eq_true, beq_iff_eq] at this
  exact this.1

section
variable {s : State} {r : DictReq} {e : DEnt} {size : Nat}

theorem dictRead_absent (h : dictEntry r.index.toNat r.sub.toNat = none) : dictRead s r = refuseReq r 1 := by simp [dictRead, h]
theorem dictWrite_absent (h : dictEntry r.index.toNat r.sub.toNat = none) : dictWrite s r = (refuseReq r 1, s) := by simp [dictWrite, h]
theorem dictNextOp_some {k : Nat} (h : dictNext r.index.toNat r.sub.toNat = some (e, k)) : ∃ v, dictNextOp r =
    ⟨0, { r with type := BitVec.ofNat 8 e.ty, index := BitVec.ofNat 16 e.index, sub := BitVec.ofNat 8 k, value := v }⟩ :=
  ⟨_, by rw [dictNextOp, h]⟩
theorem dictForce_absent (h : dictEntry r.index.toNat r.sub.toNat = none) : dictForce s r = (refuseReq r 1, s) := by simp [dictForce, h]

variable (he : dictEntry r.index.toNat r.sub.toNat = some e)
include he

theorem dictForce_job (hjob : r.job = true) : dictForce s r = (refuseReq r 0x0B, s) := by simp [dictForce, he, hjob]

theorem dictWrite_open (hcls : e.cls = 1 ∨ e.cls = 4 ∧ r.job = false) (hi : r.index.toNat ∉ [0x0208, 0x4020, 0x2010]) : ¬(e.cls = 0 ∨ (e.cls = 3 ∧ !rwlMode s.mg.mode) ∨ (e.cls = 4 ∧ r.job)
    ∨ (e.index = 0x0208 ∧ r.sub = 3) ∨ (e.index = 0x4020 ∧ dval s 0x4001 1 ≠ 1) ∨ (e.index = 0x2010 ∧ r.sub = 1 ∧ ownerHashStatus s r.value = 3)) := by
  rw [dictEntry_index he]
  simp only [List.mem_cons, List.not_mem_nil, or_false, not_or] at hi
  obtain ⟨h1, h2, h3⟩ := hi
  rcases hcls with hc | ⟨hc, hjob⟩
  · simp [hc, h1, h2, h3]
  · simp [hc, hjob, h1, h2, h3]

variable (hty : e.ty = r.type.toNat)
include hty

theorem dictRead_writeOnly (hval : r.value = []) (hcls : e.cls = 2) : dictRead s r = refuseReq r 3 := by simp [dictRead, he, hty, hval, hcls]

theorem dictRead_fresh (hval : r.value = []) (hcls : e.cls ≠ 2) (hblob : e.ty ≠ 0x0D) (hstale : stale s e.index r.sub.toNat = false) :
    dictRead s r = ⟨0, { r with value := readVal s e r.sub.toNat }⟩ := by
  rw [hty] at hblob
  simp [dictRead, he, hty, hval, hcls, hblob, hstale]

theorem dictRead_stale (hval : r.value = []) (hcls : e.cls ≠ 2) (hblob : e.ty ≠ 0x0D) (hstale : stale s e.index r.sub.toNat = true) :
    dictRead s r = ⟨0x0C, { r with value := (tget s.mg.mirror (e.index * 256 + r.sub.toNat)).getD (readVal s e r.sub.toNat) }⟩ := by
  rw [hty] at hblob
  simp [dictRead, he, hty, hval, hcls, hblob, hstale]

theorem dictForce_lockup (hlen : lenFits e r.value = true) (hjob : r.job = false) (hi : r.index.toNat = 0x0208) (hj : r.sub.toNat = 3)
    (hone : ofBytes r.value = 1) : dictForce s r = (refuseReq r 0, releaseLockup s) := by
  simp only [dictForce, he]
  simp [hty, hlen, hjob, dictEntry_index he, hi, hj, hone]

theorem dictWrite_locked (hlen : lenFits e r.value = true) (h : e.cls = 0 ∨ e.cls = 3 ∧ rwlMode s.mg.mode = false) :
    dictWrite s r = (refuseReq r 3, s) := by
  rcases h with h | ⟨h, hm⟩
  · simp [dictWrite, he, hty, hlen, h]
  · simp [dictWrite, he, hty, hlen, h, hm]

variable (hcls : e.cls = 1 ∨ e.cls = 4 ∧ r.job = false)
include hcls

theorem dictWrite_range (hlen : lenFits e r.value = true) (hi : r.index.toNat ∉ [0x0208, 0x4020, 0x2010])
    (hrange : inRange s e r.sub.toNat r.value = false) : dictWrite s r = (refuseReq r 4, s) := by
  simp only [dictWrite, he]
  rw [if_neg (by simp [hty, hlen]), if_neg (dictWrite_open he hcls hi), hrange, if_pos (by simp)]

theorem dictWrite_plain (hlen : lenFits e r.value = true) (hsize : tyLen e.ty = some size) (hp : e.p = false)
    (hi : r.index.toNat ∉ [0x0200, 0x0208, 0x2000, 0x4020, 0x0C12, 0x0420, 0x0400, 0x0800, 0x2010])
    (hrange : inRange s e r.sub.toNat r.value = true) :
    dictWrite s r = (refuseReq r 0, setDval s r.index.toNat r.sub.toNat (ofBytes r.value % 2 ^ entryBits e r.sub.toNat)) := by
  have hopen := dictWrite_open (s := s) he hcls fun h => hi (by revert h; simp; omega)
  have hact : writeAction s e r.sub.toNat (ofBytes r.value) r.value = (0, putVal s e r.sub.toNat r.value) := by
    simp only [List.mem_cons, List.not_mem_nil, or_false, not_or] at hi
    simp [writeAction, blockWrite, dictEntry_index he, hi]
  simp only [dictWrite, he]
  rw [if_neg (by simp [hty, hlen]), if_neg hopen, hrange, if_neg (by simp), hact]
  simp [putVal, hsize, hp, dictEntry_index he]

end

/-! ### The claims on path 0 -/

section
variable {s : State} {r : DictReq} (hmode : s.mg.mode ≠ .off) (hpath : r.path = 0) (hremote : r.remote = false) (hdest : r.dest = 0)
include hmode hpath hremote hdest

/-- The answer to READ (R457). -/
theorem request_read {a : Answer} (harg : r.arg = 0) (h : dictRead s r = a) (ha : a.req.path = 0) :
    request s 1 r = replied s 1 (BitVec.ofNat 8 a.status) a.req :=
  request_here hmode hpath hremote hdest (formatOk_entry (by decide) harg) ((perform_read (formatOk_entry (by decide) harg)).trans (h ▸ rfl)) ha

/-- The answer to WRITE carries a status alone (R457). -/
theorem request_write {n : Nat} {t : State} (harg : r.arg = 0) (h : dictWrite s r = (refuseReq r n, t)) :
    request s 2 r = replied t 2 (BitVec.ofNat 8 n) { r with value := [] } :=
  request_here hmode hpath hremote hdest (formatOk_entry (by decide) harg) ((perform_write (formatOk_entry (by decide) harg)).trans h) hpath

/-- The answer to FORCE carries a status alone (R467). -/
theorem request_force {n : Nat} {t : State} (harg : r.arg = 0) (h : dictForce s r = (refuseReq r n, t)) :
    request s 3 r = replied t 3 (BitVec.ofNat 8 n) { r with value := [] } :=
  request_here hmode hpath hremote hdest (formatOk_entry (by decide) harg) ((perform_force (formatOk_entry (by decide) harg)).trans h) hpath

variable (htype : r.type = 0)
include htype

theorem request_next {a : Answer} (harg : r.arg = 0) (h : dictNextOp r = a) (ha : a.req.path = 0) :
    request s 4 r = replied s 4 (BitVec.ofNat 8 a.status) a.req := by
  have hok : formatOk 4 r = true := by simp [formatOk, harg, htype]
  exact request_here hmode hpath hremote hdest hok ((perform_next hok).trans (h ▸ rfl)) ha

theorem request_log {a : Answer} (h : dictLog s r = a) (ha : a.req.path = 0) :
    request s 5 r = replied s 5 (BitVec.ofNat 8 a.status) a.req := by
  have hok : formatOk 5 r = true := by simp [formatOk, htype]
  exact request_here hmode hpath hremote hdest hok ((perform_log hok).trans (h ▸ rfl)) ha

theorem request_snap {a : Answer} (h : dictSnap s r = a) (ha : a.req.path = 0) :
    request s 6 r = replied s 6 (BitVec.ofNat 8 a.status) a.req := by
  have hok : formatOk 6 r = true := by simp [formatOk, htype]
  exact request_here hmode hpath hremote hdest hok ((perform_snap hok).trans (h ▸ rfl)) ha

end

/-! ### Requests of other devices (R458, R459) -/

section
variable {s : State} {r : DictReq}

/-- A request for a device without a path is refused. -/
theorem request_unreachable (hmode : s.mg.mode ≠ .off) (hpath : r.path = 0) (hremote : r.remote = true) (harg : r.arg = 0)
    (h : (unreachable s r.dest).isSome = true) : request s 1 r = replied s 1 9 { r with value := [] } := by
  obtain ⟨x, hx⟩ := Option.isSome_iff_exists.mp h
  rw [request, pathOpen_path0 hmode hpath, if_neg (by simp), if_neg (by simp [formatOk_entry (op := 1) (by decide) harg, hremote]),
    if_neg (by simp [hremote]), hx]
  dsimp only
  exact deliverReply_path0 _ (a := refuseReq r 9) hpath

/-- A request for another device is sent there and remembered. -/
theorem request_relayed (hmode : s.mg.mode ≠ .off) (hpath : r.path = 0) (hremote : r.remote = true) (harg : r.arg = 0)
    (h : unreachable s r.dest = none) (hdest : r.dest ≠ devNo s) (hjob : r.job = false) : request s 1 r =
      { sends s [note s r.dest .sys 4 (.mgmt false 1 0 { r with remote := false })] with
        mg := { s.mg with remotes := s.mg.remotes ++ [(r.tag, 0, 1, r)] } } := by
  rw [request, pathOpen_path0 hmode hpath, if_neg (by simp), if_neg (by simp [formatOk_entry (op := 1) (by decide) harg, hremote]), hremote,
    if_neg (by simp), h]
  dsimp only
  rw [if_neg hdest, hjob, if_neg (by simp [hpath]), if_neg (by simp [hpath]), hpath]
  rfl

variable {h : Hdr} {op st : BitVec 8}

/-- The reply to the one request that waits for one. -/
theorem mgmtIn_reply {q : DictReq} (hdest : h.dest = devNo s) (hruns : portsRun s.mg.mode = true) (hwait : s.mg.remotes = [(r.tag, 0, op, q)])
    (hsrc : q.dest = h.src) :
    mgmtIn s h true op st r = replied { s with mg := { s.mg with remotes := [] } } op st { r with path := 0, remote := true, dest := h.src } := by
  rw [mgmtIn, if_neg (by simp [hdest, hruns]), if_pos rfl, hwait]
  simp only [splitAtFirst, beq_self_eq_true, hsrc, Bool.and_self, if_true, List.append_nil]
  rw [deliverReply_path0 _ rfl]
  simp

/-- No reply came (R458). -/
theorem remoteLate_replied {q : DictReq} (hwait : s.mg.remotes = [(r.tag, 0, op, q)]) (hpath : q.path = 0) :
    remoteLate s r.tag = replied { s with mg := { s.mg with remotes := [] } } op 0x0A { q with value := [] } := by
  rw [remoteLate, hwait]
  simp only [splitAtFirst, beq_self_eq_true, if_true, List.append_nil]
  rw [deliverReply_path0 _ (a := refuseReq q 0x0A) hpath]
  simp [refuseReq]

variable (hdest : h.dest = devNo s) (hruns : portsRun s.mg.mode = true)
include hdest hruns

/-- A request for yet another device, or relayed again, is refused. -/
theorem mgmtIn_refused (hr : r.dest ≠ devNo s) : mgmtIn s h false op st r =
    sends s [note s h.src h.world 4 (.mgmt true op 7 { r with path := 3, job := h.world == .job, value := [], remote := false })] := by
  rw [mgmtIn, if_neg (by simp [hdest, hruns]), if_neg (by simp)]
  dsimp only
  rw [if_pos (Or.inr hr)]
  rfl

/-- A relayed READ is performed and its answer sent (R459). -/
theorem mgmtIn_read (hr : r.dest = devNo s) (hremote : r.remote = false) (harg : r.arg = 0) :
    let a := dictRead s { r with path := 3, job := h.world == .job }
    mgmtIn s h false 1 st r = sends s [note s h.src h.world 4 (.mgmt true 1 (BitVec.ofNat 8 a.status) { a.req with remote := false })] := by
  have hp : perform s (BitVec.toNat (1 : BitVec 8)) { r with path := 3, job := h.world == .job } = (dictRead s { r with path := 3, job := h.world == .job }, s) :=
    perform_read (formatOk_entry (by decide) harg)
  rw [mgmtIn, if_neg (by simp [hdest, hruns]), if_neg (by simp)]
  dsimp only
  rw [if_neg (by simp [hr, hremote]), hp]
  rfl

end

/-! ### Mailboxes in register space (R461) -/

/-- A reply in a mailbox ends its go. -/
theorem replyBox_box (s : State) (m : Nat) (b : List (BitVec 8)) : tgetD (replyBox s m b).mg.boxes m {} =
    { tgetD s.mg.boxes m {} with rpy := packWords b, rlen := BitVec.ofNat 13 b.length, done := true, busy := false } := by
  unfold replyBox
  extract_lets x m' u v
  have hu : tgetD u.mg.boxes m {} = { tgetD s.mg.boxes m {} with rpy := packWords b, rlen := BitVec.ofNat 13 b.length, done := true, busy := false } := by
    simp [tgetD, u, x]
  have hv : Stir u v := by
    unfold v
    split
    · exact Stir.ringBits ..
    · exact Stir.refl u
  have hboxes : ∀ {t}, Stir u t → t.mg.boxes = u.mg.boxes := fun h => (congrArg (·.mg.boxes) h.rest : _ = (stirred _ _).mg.boxes)
  split
  · rw [hboxes ((Stir.signal ..).after hv), hu]
  · rw [hboxes hv, hu]

section
variable {s : State} {m : BitVec 2} {r : DictReq}

theorem dmbGo_lost {op : Nat} (hbusy : (tgetD s.mg.boxes m.toNat {}).busy = true) (hlost : (tgetD s.mg.boxes m.toNat {}).lostGo ≠ 0xFF) :
    tgetD (dmbGo s m.toNat op r).mg.boxes m.toNat {} = { tgetD s.mg.boxes m.toNat {} with lostGo := (tgetD s.mg.boxes m.toNat {}).lostGo + 1 } := by
  rw [dmbGo, if_pos (Or.inl hbusy), lostGo, if_neg hlost]
  simp [tgetD]

theorem dictRead_path (s : State) (r : DictReq) : (dictRead s r).req.path = r.path := by
  unfold dictRead
  split
  · rfl
  split
  · rfl
  split <;> rfl

/-- A reply to a mailbox's request goes into that mailbox. -/
theorem deliverReply_box {op : Nat} {a : Answer} (h : a.req.path = BitVec.ofNat 4 (4 + m.toNat)) :
    deliverReply s op a = replyBox s m.toNat (msgBytes (op + 0x80) a.status a.req) := by
  have hm : m.toNat = 0 ∨ m.toNat = 1 ∨ m.toNat = 2 ∨ m.toNat = 3 := by omega
  rcases hm with hm | hm | hm | hm <;> simp [deliverReply, h, hm]

/-- The paths of the mailboxes are open where contexts issue (R460). -/
theorem pathOpen_box (hmode : issuing s.mg.mode = true) : pathOpen s (BitVec.ofNat 4 (4 + m.toNat)).toNat = true := by
  have hm : m.toNat = 0 ∨ m.toNat = 1 ∨ m.toNat = 2 ∨ m.toNat = 3 := by omega
  rcases hm with hm | hm | hm | hm <;> simp [pathOpen, hm, hmode]

/-- A mailbox with a go under way. -/
def busyBox (s : State) (m : Nat) : State :=
  { s with mg := { s.mg with boxes := tset s.mg.boxes m { tgetD s.mg.boxes m {} with busy := true } } }

theorem busyBox_box (s : State) (m : Nat) : tgetD (busyBox s m).mg.boxes m {} = { tgetD s.mg.boxes m {} with busy := true } := by simp [busyBox, tgetD]

section
variable (hbusy : (tgetD s.mg.boxes m.toNat {}).busy = false) (hlo : 16 ≤ (tgetD s.mg.boxes m.toNat {}).len.toNat)
  (hhi : (tgetD s.mg.boxes m.toNat {}).len.toNat ≤ 4096)
include hbusy hlo hhi

theorem dmbGo_free {op : Nat} : dmbGo s m.toNat op r = request (busyBox s m.toNat) op { r with path := BitVec.ofNat 4 (4 + m.toNat) } :=
  if_neg (by simp only [hbusy, Bool.false_eq_true, false_or, not_or]; omega)

/-- A READ through a mailbox that is free leaves its reply there. -/
theorem dmbGo_read (hmode : issuing s.mg.mode = true) (hremote : r.remote = false) (hdest : r.dest = 0) (harg : r.arg = 0) :
    ∃ b : List (BitVec 8), tgetD (dmbGo s m.toNat 1 r).mg.boxes m.toNat {} =
      { tgetD s.mg.boxes m.toNat {} with rpy := packWords b, rlen := BitVec.ofNat 13 b.length, done := true, busy := false } := by
  have hok : formatOk 1 { r with path := BitVec.ofNat 4 (4 + m.toNat) } = true := formatOk_entry (by decide) harg
  rw [dmbGo_free hbusy hlo hhi, request, pathOpen_box (s := busyBox s m.toNat) hmode, if_neg (by simp), if_neg (by rw [hok]; simp [hdest]),
    if_pos (by simp [hremote]), perform_read hok]
  dsimp only
  rw [deliverReply_box (dictRead_path ..)]
  exact ⟨_, (replyBox_box ..).trans (by rw [busyBox_box])⟩

end

end

/-! ### The register MOVED_CONS (R320) -/

theorem regBlk_moved (w : World) : regBlk (0x7F601000008 + 0x1000 * w.num) = .moved w 8 := by cases w <;> rfl

theorem writeReg_cons {s : State} {w : World} {v : BitVec 64} (hmay : MayWrite s w (0x7F601000008 + 0x1000 * w.num) v) :
    writeReg s (.world w) (0x7F601000008 + 0x1000 * w.num) v = s.setWorld w { s.world w with cons := v.setWidth 32 } := by
  have hw : w.num ≤ 1 := by cases w <;> decide
  rw [writeReg_permitted (by omega) (by omega) (by omega) hmay, regWrite, regBlk_moved]
  rfl

/-! ### A word without meaning (R117, R121) -/

section
variable {s u : State} {word : BitVec 32} {k : Nat}

/-- The fetch of a word that decodes to nothing ends in ILLEGAL_OPCODE with the subcode and the word. -/
theorem fetchBody_illegal {x : Exec} (hpc : pcChecks { x := x, word := 0 } s = .ok ()) (hfetch : fetchAt { x := x, word := 0 } (xpc s x) s = (.ok word, u))
    (hbus : busCheck { x := x, word := word } u = .ok ()) (hdec : decodeInstr word = .error k) :
    fetchBody { x := x, word := 0 } s = (.error (.exn ⟨0x01, 0, BitVec.ofNat 64 (k + 2 ^ 32 * word.toNat), none, 0⟩), u) := by
  rw [fetchBody, get_bind, chkM_bind_ok hpc, bind_ok hfetch, get_bind, hdec]
  dsimp only
  rw [chkM_bind_ok hbus]
  rfl

/-- Issuing it takes that exception. -/
theorem issueFetch_illegal {x : Exec} (hissue : canIssue s x = true) (hbank : bankArmed s x = false) (hfault : faultDue s x = false)
    (hclear : clearBus s x = s) (hpc : pcChecks { x := x, word := 0 } s = .ok ())
    (hfetch : fetchAt { x := x, word := 0 } (xpc s x) s = (.ok word, u))
    (hbus : busCheck { x := x, word := word } u = .ok ()) (hdec : decodeInstr word = .error k) :
    issueFetch x s = raise (setRepeated s x none) x ⟨0x01, 0, BitVec.ofNat 64 (k + 2 ^ 32 * word.toNat), none, 0⟩ := by
  have hread : bankRead s x = s := by simp [bankRead, hbank]
  unfold issueFetch
  dsimp only
  rw [hread, hissue, if_neg (by simp), hfault, if_neg (by simp), fetchBody_illegal hpc hfetch hbus hdec]
  dsimp only
  rw [hclear]
  rfl

end

end Sys2Proof.Claims

open Sys2Proof Sys2Proof.Machine Sys2Proof.Claims

/-- Settles O57: the answers on path 0, those of other devices and mailboxes, MOVED_CONS, and a word without meaning. -/
theorem dictionaryAndRegisters : Obligations.DictionaryAndRegisters := by
  intro s u r q e k size rec_ h op st m w v n fk word i j x reply plain
  refine ⟨fun hmode hpath hremote => ⟨?_, ?_, ?_, ?_, ?_, ?_, ?_, ?_, ?_⟩, fun hmode hpath hremote harg => ⟨?_, ?_⟩, fun hdest hruns => ⟨?_, ?_, ?_⟩, ?_,
    fun hmode => ⟨?_, ?_⟩, rfl, ?_, ?_, ?_⟩
  · intro hbad
    refine gives_of_eq rfl (request_malformed hmode hpath (op := 1) ?_)
    exact hbad.symm.imp (fun h => by simpa [formatOk] using h) fun h => ⟨hremote, h⟩
  · intro hdest harg he
    exact ⟨gives_of_eq rfl (request_read hmode hpath hremote hdest harg (dictRead_absent he) hpath),
      gives_of_eq rfl (request_write hmode hpath hremote hdest harg (dictWrite_absent he)),
      gives_of_eq rfl (request_force hmode hpath hremote hdest harg (dictForce_absent he))⟩
  · intro hdest harg he hty
    refine ⟨fun hval hcls => ?_, fun hval hcls hblob => ⟨fun hstale => ?_, fun hstale => ?_⟩, fun hlen => ⟨fun h => ?_, fun h hm => ?_, fun h hi hrange => ?_,
      fun h hsize hp hi hrange => ⟨?_, dval_setDval_same ..⟩, fun hjob hi hj hone => ?_⟩, fun hjob => ?_⟩
    · exact gives_of_eq rfl (request_read hmode hpath hremote hdest harg (dictRead_writeOnly he hty hval hcls) hpath)
    · exact gives_of_eq rfl (request_read hmode hpath hremote hdest harg (dictRead_fresh he hty hval hcls hblob hstale) hpath)
    · exact gives_of_eq rfl (request_read hmode hpath hremote hdest harg (dictRead_stale he hty hval hcls hblob hstale) hpath)
    · exact gives_of_eq rfl (request_write hmode hpath hremote hdest harg (dictWrite_locked he hty hlen (.inl h)))
    · exact gives_of_eq rfl (request_write hmode hpath hremote hdest harg (dictWrite_locked he hty hlen (.inr ⟨h, hm⟩)))
    · exact gives_of_eq rfl (request_write hmode hpath hremote hdest harg (dictWrite_range he hty h hlen hi hrange))
    · exact gives_of_eq rfl (request_write hmode hpath hremote hdest harg (dictWrite_plain he hty h hlen hsize hp hi hrange))
    · exact gives_of_eq rfl (request_force hmode hpath hremote hdest harg (dictForce_lockup he hty hlen hjob hi hj hone))
    · exact gives_of_eq rfl (request_force hmode hpath hremote hdest harg (dictForce_job he hjob))
  · intro hdest harg htype hnext
    exact gives_of_eq rfl (request_next hmode hpath hremote hdest htype harg (a := refuseReq r 1) (by simp [dictNextOp, i, j, hnext]) hpath)
  · intro hdest harg htype hnext
    obtain ⟨val, hval⟩ := dictNextOp_some (r := r) hnext
    exact ⟨val, gives_of_eq rfl (request_next hmode hpath hremote hdest htype harg hval hpath)⟩
  · intro hdest htype hfind
    exact gives_of_eq rfl (request_log hmode hpath hremote hdest htype (a := ⟨0, { r with value := frecBytes rec_ }⟩) (by rw [dictLog, hfind]) hpath)
  · intro hdest htype hfind
    exact gives_of_eq rfl (request_log hmode hpath hremote hdest htype (a := refuseReq r 8) (by rw [dictLog, hfind]) hpath)
  · intro hdest htype hlt
    exact gives_of_eq rfl (request_snap hmode hpath hremote hdest htype (if_pos hlt) hpath)
  · intro hdest htype hle
    exact gives_of_eq rfl (request_snap hmode hpath hremote hdest htype (a := refuseReq r 8) (if_neg (by omega)) hpath)
  · intro hpathTo hdest hjob
    exact ⟨_, gives_of_eq rfl (request_relayed hmode hpath hremote harg hpathTo hdest hjob), rfl, rfl⟩
  · intro hun
    exact gives_of_eq rfl (request_unreachable hmode hpath hremote harg hun)
  · intro hremote hr harg
    exact ⟨_, gives_of_eq rfl (mgmtIn_read hdest hruns hr hremote harg), rfl⟩
  · intro hr
    exact ⟨_, gives_of_eq rfl (mgmtIn_refused hdest hruns hr), rfl⟩
  · intro hwait hsrc
    exact ⟨_, gives_of_eq rfl (mgmtIn_reply hdest hruns hwait hsrc), rfl, rfl⟩
  · intro hwait hpath
    exact ⟨_, gives_of_eq rfl (remoteLate_replied hwait hpath), rfl, rfl⟩
  · intro hbusy hlost
    exact ⟨_, gives_of_eq rfl (if_pos hmode), dmbGo_lost hbusy hlost⟩
  · intro hbusy hlo hhi hremote hdest harg _ _ _ _ _
    obtain ⟨b, hb⟩ := dmbGo_read hbusy hlo hhi hmode hremote hdest harg
    exact ⟨_, gives_of_eq rfl (if_pos hmode), congrArg (·.done) hb, congrArg (·.busy) hb, congrArg (·.lostGo) hb⟩
  · intro hmay
    have hw : w.num ≤ 1 := by cases w <;> decide
    have hlpa : (BitVec.ofNat 43 (0x7F601000008 + 0x1000 * w.num)).toNat = 0x7F601000008 + 0x1000 * w.num := by rw [BitVec.toNat_ofNat]; omega
    exact gives_of_eq rfl ((congrArg (writeReg s (.world w) · v) hlpa).trans (writeReg_cons hmay))
  · intro hissue hbank hfault hbus hpc hfetch hubus hdec
    have hclear : clearBus s (.ctx n) = s := by simp [clearBus, hbus]
    exact gives_of_eq rfl (issueFetch_illegal hissue hbank hfault hclear hpc hfetch (by simp [busCheck, hubus]) hdec)
  · intro hissue hpc hfetch hdec
    exact gives_of_eq rfl (issueFetch_illegal hissue rfl rfl rfl hpc hfetch rfl hdec)
end

section
/-! PROOFS. The starts (R419 to R437): what a trigger, a failed start, a step's end and the store's records leave. -/

namespace Sys2Proof.Claims

open Sys2Proof.Machine

/-! ### Reports of a start -/

theorem not_report : 0x2000 ∉ reportEntries := by decide

section
variable (s : State) (i j : Nat)

theorem dval_step (h : j ≠ 3) (n : Nat) : dval (setStep s n) 0x2000 j = dval s 0x2000 j := dval_setDval_ne _ _ (by omega)
theorem dval_step_same (n : Nat) : dval (setStep s n) 0x2000 3 = n := dval_setDval_same ..

/-- A change of start_status (R435). -/
theorem setStatus_eq (code : Nat) : ∃ d vs ms, setStatus s code =
    { s with mg := { s.mg with dict := d }, host := { s.host with vecs := vs, sentMsi := ms } } := by
  unfold setStatus
  split
  · exact ⟨_, _, _, rfl⟩
  · obtain ⟨vs, ms, h⟩ := msix_eq (setDval s 0x2000 0x01 code) 1
    exact ⟨_, vs, ms, h⟩

theorem dval_congr {s t : State} {i j : Nat} (h : t.mg.dict = s.mg.dict) : dval t i j = dval s i j := by rw [dval, h, dval]

theorem dval_msix (n : Nat) : dval (msix s n) i j = dval s i j := by
  obtain ⟨vs, ms, h⟩ := msix_eq s n
  rw [h]
  rfl

theorem dval_setStatus (code : Nat) : dval (setStatus s code) 0x2000 1 = code := by
  unfold setStatus
  split
  · assumption
  · rw [dval_msix, dval_setDval_same]

theorem dval_setStatus_ne (code : Nat) (h : i * 256 + j ≠ 0x2000 * 256 + 1) : dval (setStatus s code) i j = dval s i j := by
  unfold setStatus
  split
  · rfl
  · rw [dval_msix, dval_setDval_ne _ _ h]

/-- The entries that no notice changes keep their values when a mode is entered. -/
theorem dval_enterMode (m b : Mode) (h : (i * 256 + j) / 256 ∉ reportEntries) : dval (enterMode s m b) i j = dval s i j := by
  obtain ⟨u, hu, -, he⟩ := enterMode_eq s m b
  rw [he, ← hu.dval h]
  rfl

/-- What the notices of a mode's entry touch. -/
theorem enterMode_notices (m b : Mode) : ∃ u vs ms, Stir s u ∧ Background s u ∧ enterMode s m b =
    { u with host := { u.host with vecs := vs, sentMsi := ms }, mg := { u.mg with mode := m, base := modeBase m b, trans := none } } := by
  obtain ⟨vs, ms, h⟩ := msix_eq (signal s 0xA2 (BitVec.ofNat 64 (m.num + 16 * s.mg.mode.num + 256 * (modeBase m b).num))) 3
  exact ⟨_, vs, ms, Stir.signal .., Background.signal ..,
    congrArg (fun v : State => { v with mg := { v.mg with mode := m, base := modeBase m b, trans := none } }) h⟩

/-- What else stays when a mode is entered. -/
theorem enterMode_keeps (m b : Mode) : (enterMode s m b).mg.start = s.mg.start ∧ (enterMode s m b).host.link = s.host.link ∧
    (enterMode s m b).host.staging = s.host.staging ∧ (enterMode s m b).mem = s.mem ∧ ∀ k, ((enterMode s m b).tile k).dead = (s.tile k).dead := by
  obtain ⟨u, vs, ms, hs, hd, h⟩ := enterMode_notices s m b
  rw [h]
  exact ⟨(congrArg (·.mg.start) hs.rest : u.mg.start = (stirred s u).mg.start), (congrArg HostIf.link hs.host : u.host.link = _),
    (congrArg HostIf.staging hs.host : u.host.staging = _), hs.mem, hd.dead⟩

end

/-! ### A failed start (R436) -/

/-- A start that failed: its code, and one more failed start. -/
def Failed (s t : State) (code : Nat) : Prop :=
  t.mg.mode = .loader ∧ t.mg.trans = none ∧ t.mg.start.running = false ∧ t.mg.start.verifying = false ∧ dval t 0x2000 5 = min 255 (dval s 0x2000 5 + 1) ∧
    dval t 0x2000 1 = (if 3 ≤ min 255 (dval s 0x2000 5 + 1) then 0x30 else code)

section
variable (s : State) (code arg : Nat)

/-- The entries that report the failure. -/
def failReport : State :=
  let fails := min 255 (dval s 0x2000 0x05 + 1)
  let s' := persistVal (setDval s 0x2000 0x05 fails) 5 0x2000 0x05
  setStatus (setDval s' 0x2000 0x06 (code + 2 ^ 8 * (arg % 2 ^ 16) + 2 ^ 24 * (dval s 0x2000 0x03 % 256))) (if 3 ≤ fails then 0x30 else code)

/-- The blocks reset after a failed start. -/
def failReset : State :=
  let t := resetBlocks (failReport s code arg) false
  { t with mg := { t.mg with start := { t.mg.start with running := false, verifying := false, relay := false, relayLen := 0, bist := false, memDone := false } } }

theorem failStart_eq : failStart s code arg = setStep (enterMode (failReset s code arg) .loader .loader) (dval s 0x2000 3) := rfl

theorem dval_failStart {j : Nat} (hj : j < 256) (h : j ≠ 3) : dval (failStart s code arg) 0x2000 j = dval (failReport s code arg) 0x2000 j := by
  rw [failStart_eq, dval_step _ _ h, dval_enterMode _ _ _ _ _ (by rw [show (0x2000 * 256 + j) / 256 = 0x2000 by omega]; exact not_report)]
  rfl

theorem failStart_failed : Failed s (failStart s code arg) code := by
  have hstart := (enterMode_keeps (failReset s code arg) .loader .loader).1
  refine ⟨rfl, rfl, ?_, ?_, ?_, ?_⟩
  · exact congrArg Start.running hstart
  · exact congrArg Start.verifying hstart
  · rw [dval_failStart _ _ _ (by decide) (by decide), failReport, dval_setStatus_ne _ _ _ _ (by decide), dval_setDval_ne _ _ (by decide)]
    exact dval_setDval_same ..
  · rw [dval_failStart _ _ _ (by decide) (by decide), failReport, dval_setStatus]

theorem failStart_detail : dval (failStart s code arg) 0x2000 6 = code + 2 ^ 8 * (arg % 2 ^ 16) + 2 ^ 24 * (dval s 0x2000 3 % 256) := by
  rw [dval_failStart _ _ _ (by decide) (by decide), failReport, dval_setStatus_ne _ _ _ _ (by decide), dval_setDval_same]

end

/-! ### Triggers (R419, R420, R507) -/

/-- Step 1 of a start has begun. -/
def Begun (s t : State) (warm : Bool) : Prop :=
  t.mg.trans = some ⟨.loader, .loader, []⟩ ∧ t.mg.start.pendWarm = warm ∧ t.ctxs = [] ∧ t.mem.words = s.mem.words ∧
    t.host.staging = (if warm then s.host.staging else []) ∧ t.pins.lockup = false ∧ t.pins.safe = false ∧ t.sark.log = s.sark.log ∧
    dval t 0x2000 2 = (if warm then 2 else 1) ∧ dval t 0x2000 3 = 1

theorem beginStart_begun (s : State) (warm : Bool) : Begun s (beginStart s warm) warm := by
  refine ⟨rfl, rfl, rfl, rfl, by cases warm <;> rfl, rfl, rfl, rfl, ?_, ?_⟩
  · exact dval_setDval_same ..
  · exact (dval_setDval_ne _ _ (by decide)).trans (dval_setDval_same ..)

/-- HOLD flits leave the ports alone changed (R420). -/
theorem holdPorts_eq (s : State) (b : BitVec 8) : ∃ ps, holdPorts s b = { s with ports := ps } := by
  refine keep_foldl (P := fun t => ∃ ps, t = { s with ports := ps }) (fun t p ⟨ps, h⟩ => ?_) _ ⟨s.ports, rfl⟩
  split
  · exact ⟨_, by rw [sendFlit_eq, h]; rfl⟩
  · exact ⟨ps, h⟩

section
variable {s : State}

theorem trigger_cold (h : startable s.mg.mode = true) : trigger s false = beginStart s false := by simp [trigger, h]
theorem trigger_warm (h : startable s.mg.mode = true) (hw : warmOk s = true) : trigger s true = beginWarm s := by simp [trigger, h, hw]
theorem trigger_notWarm (hw : warmOk s = false) : trigger s true = trigger s false := by simp [trigger, hw]
theorem trigger_none (h : startable s.mg.mode = false) (warm : Bool) : trigger s warm = s := by simp [trigger, h]
theorem standby_of_startable (h : startable s.mg.mode = true) : s.mg.mode ≠ .standby := by intro hm; rw [hm] at h; exact nomatch h
theorem forceStart_trigger (h : startable s.mg.mode = true) (warm : Bool) : forceStart s warm = trigger s warm := if_neg (standby_of_startable h)
theorem sysRst_trigger (h : startable s.mg.mode = true) (warm : Bool) : sysRst s warm = trigger s warm := by
  unfold sysRst
  split
  · next hm => rw [hm] at h; exact nomatch h
  · next hm => rw [hm] at h; exact nomatch h
  · rfl

/-- A warm start with nothing to write back. -/
theorem beginWarm_clean (hd : dirtyLines s = []) (hst : ∀ x ∈ s.cores, x.2.stores = []) : Begun s (beginWarm s) true := by
  obtain ⟨ps, h⟩ := holdPorts_eq s 1
  have hstores : (s.cores.all fun c => c.2.stores == []) = true := List.all_eq_true.mpr fun x hx => by rw [hst x hx]; rfl
  unfold beginWarm
  rw [h]
  dsimp only
  rw [if_pos ⟨hd, hstores⟩]
  exact beginStart_begun _ true

/-- A warm start with lines to write back first. -/
theorem beginWarm_dirty (hd : dirtyLines s ≠ []) : (beginWarm s).mg.trans = some ⟨.loader, .loader, []⟩ ∧ (beginWarm s).mg.start.wbDone = false ∧
    (beginWarm s).mem = s.mem ∧ (beginWarm s).cores = s.cores := by
  obtain ⟨ps, h⟩ := holdPorts_eq s 1
  unfold beginWarm
  rw [h]
  dsimp only
  rw [if_neg fun hc => hd hc.1]
  exact ⟨rfl, rfl, rfl, rfl⟩

end

/-! ### LOADER (R432, R433, R438) -/

/-- The last message asks port 0 for the image from an offset on. -/
def Asks (t : State) (off : Nat) : Prop :=
  t.remote.sent.getLast? = some (note t (t.port 0).peerDev .sys 4 (.imgreq 0 (BitVec.ofNat 32 off)))

theorem askImage_asks (s : State) (off : Nat) : Asks (askImage s off) off := List.getLast?_concat

theorem askImage_mg (s : State) (off : Nat) : (askImage s off).mg = s.mg := rfl

theorem startPort_eq (s : State) (p : Nat) : ∃ ps, startPort s p = { s with ports := ps } := by
  unfold startPort
  extract_lets q
  split
  · exact ⟨s.ports, rfl⟩
  split
  · exact ⟨_, rfl⟩
  · exact ⟨_, rfl⟩

theorem startPorts_eq (s : State) : ∃ ps, startPorts s = { s with ports := ps } := by
  refine keep_foldl (P := fun t => ∃ ps, t = { s with ports := ps }) (fun t p ⟨ps, h⟩ => ?_) _ ⟨s.ports, rfl⟩
  obtain ⟨qs, hq⟩ := startPort_eq t p
  exact ⟨qs, by rw [hq, h]⟩

section
variable (s : State)

/-- LOADER is entered, before an image is asked for. -/
def inLoader : State := setStep (enterMode s .loader .loader) 2

theorem inLoader_link : (inLoader s).host.link = s.host.link := (enterMode_keeps s .loader .loader).2.1

/-- LOADER without a PCIe link: port 0 is powered for the relay. -/
def relayed : State :=
  takeDims { inLoader s with mg := { (inLoader s).mg with
    pd := tset (inLoader s).mg.pd 56 .on, start := { (inLoader s).mg.start with relay := true, relayLen := 0, relayGot := 0 } } }

theorem enterLoader_eq : enterLoader s = if (inLoader s).host.link = 1 then inLoader s else askImage (startPort (relayed s) 0) 0 := rfl

theorem inLoader_entered : (inLoader s).mg.mode = .loader ∧ (inLoader s).mg.trans = none ∧ dval (inLoader s) 0x2000 3 = 2 ∧
    dval (inLoader s) 0x2000 2 = dval s 0x2000 2 :=
  ⟨rfl, rfl, dval_step_same .., (dval_step _ _ (by decide) _).trans (dval_enterMode _ _ _ _ _ (by decide))⟩

/-- In LOADER a start is at step 2, and without a PCIe link the image is asked for at port 0. -/
theorem enterLoader_entered : (enterLoader s).mg.mode = .loader ∧ (enterLoader s).mg.trans = none ∧ dval (enterLoader s) 0x2000 3 = 2 ∧
    dval (enterLoader s) 0x2000 2 = dval s 0x2000 2 ∧ (s.host.link ≠ 1 → (enterLoader s).mg.start.relay = true ∧ Asks (enterLoader s) 0) := by
  obtain ⟨hmode, htrans, hstep, hcause⟩ := inLoader_entered s
  rw [enterLoader_eq, inLoader_link]
  split
  · next hl => exact ⟨hmode, htrans, hstep, hcause, fun h => absurd hl h⟩
  · obtain ⟨ps, hp⟩ := startPort_eq (relayed s) 0
    have hmg : (askImage (startPort (relayed s) 0) 0).mg = (relayed s).mg := by rw [askImage_mg, hp]
    have hdict : (askImage (startPort (relayed s) 0) 0).mg.dict = (inLoader s).mg.dict := by rw [hmg]; rfl
    refine ⟨by rw [hmg]; exact hmode, by rw [hmg]; exact htrans, (dval_congr hdict).trans hstep, (dval_congr hdict).trans hcause, fun _ => ⟨?_, askImage_asks ..⟩⟩
    rw [hmg]
    rfl

end

/-! ### GO, relay and verification (R427, R432) -/

section
variable (s : State) (src : Nat)

/-- The entries of the dictionary that verification sets as it begins, before the status. -/
def verifyEntries : State :=
  let t := setStep (setDval s 0x2000 0x09 src) 3
  setDval (setDval (setDval (setDval t 0x2020 2 0) 0x2020 3 0) 0x2020 4 0) 0x2000 0x02 (if s.mg.start.pendWarm then 2 else 1)

theorem beginVerify_eq : beginVerify s src =
    { setStatus (verifyEntries s src) 1 with mg := { (setStatus (verifyEntries s src) 1).mg with start :=
      { (setStatus (verifyEntries s src) 1).mg.start with verifying := true, running := true, relay := false } } } := rfl

theorem dval_verifyEntries {j : Nat} (hj : j < 256) (h2 : j ≠ 2) :
    dval (verifyEntries s src) 0x2000 j = dval (setStep (setDval s 0x2000 0x09 src) 3) 0x2000 j := by
  rw [verifyEntries, dval_setDval_ne _ _ (by omega), dval_setDval_ne _ _ (by omega), dval_setDval_ne _ _ (by omega), dval_setDval_ne _ _ (by omega)]

theorem beginVerify_dval (j : Nat) : dval (beginVerify s src) 0x2000 j = dval (setStatus (verifyEntries s src) 1) 0x2000 j := dval_congr rfl

/-- Verification begins with its source. -/
theorem beginVerify_entries : dval (beginVerify s src) 0x2000 9 = src ∧ dval (beginVerify s src) 0x2000 3 = 3 ∧ dval (beginVerify s src) 0x2000 1 = 1 := by
  refine ⟨?_, ?_, (beginVerify_dval ..).trans (dval_setStatus ..)⟩
  · rw [beginVerify_dval, dval_setStatus_ne _ _ _ _ (by decide), dval_verifyEntries _ _ (by decide) (by decide), dval_step _ _ (by decide), dval_setDval_same]
  · rw [beginVerify_dval, dval_setStatus_ne _ _ _ _ (by decide), dval_verifyEntries _ _ (by decide) (by decide), dval_step_same]

theorem beginVerify_keeps : (beginVerify s src).mg.mode = s.mg.mode ∧ (beginVerify s src).host.staging = s.host.staging := by
  obtain ⟨d, vs, ms, h⟩ := setStatus_eq (verifyEntries s src) 1
  rw [beginVerify_eq, h]
  exact ⟨rfl, rfl⟩

end

/-- A tile starts with its Flashing cleared, unless it is dead (R192). -/
def tileOn (s : State) (t : Nat) : State :=
  if (s.tile t).dead then s else s.modTile t fun x => { x with power := .on, micro := [], nano := [], matches_ := [] }

section
variable {s : State}

theorem tileOn_mg (s : State) (t : Nat) : (tileOn s t).mg = s.mg := by
  unfold tileOn
  split <;> rfl

theorem tileOn_dead (s : State) (t k : Nat) : ((tileOn s t).tile k).dead = (s.tile k).dead := by
  unfold tileOn
  split
  · rfl
  · exact (Background.modTile s t rfl).dead k

theorem tileOn_on {k : Nat} (h : (s.tile k).dead = false) : ((tileOn s k).tile k).power = .on := by
  rw [tileOn, if_neg (by simp [h]), State.tile_modTile_same]

theorem tileOn_stays {t k : Nat} (h : (s.tile k).power = .on) : ((tileOn s t).tile k).power = .on := by
  unfold tileOn
  split
  · exact h
  · rcases eq_or_ne k t with rfl | hk
    · rw [State.tile_modTile_same]
    · rw [State.tile_modTile_ne _ _ hk]
      exact h

theorem foldl_tileOn {k : Nat} {l : List Nat} (hk : k ∈ l) (h : (s.tile k).dead = false) : ((l.foldl tileOn s).tile k).power = .on := by
  obtain ⟨a, b, rfl⟩ := List.append_of_mem hk
  have hdead : ((a.foldl tileOn s).tile k).dead = false :=
    keep_foldl (P := fun t => (t.tile k).dead = false) (fun t i ht => (tileOn_dead t i k).trans ht) a h
  rw [List.foldl_append, List.foldl_cons]
  exact keep_foldl (P := fun t => (t.tile k).power = .on) (fun t i ht => tileOn_stays ht) b (tileOn_on hdead)

theorem foldl_tileOn_mg (l : List Nat) (s : State) : (l.foldl tileOn s).mg = s.mg :=
  keep_foldl (P := fun t => t.mg = s.mg) (fun t i ht => (tileOn_mg t i).trans ht) l rfl

/-- The domains are switched on one after another (R438). -/
theorem foldl_setPd (s : State) (l : List Nat) : ∃ pd, l.foldl (fun s i => setPd s (32 + i) .on) s = { s with mg := { s.mg with pd := pd } } :=
  keep_foldl (P := fun t => ∃ pd, t = { s with mg := { s.mg with pd := pd } }) (fun t i ⟨pd, h⟩ => ⟨tset t.mg.pd (32 + i) .on, by rw [h]; rfl⟩) l ⟨s.mg.pd, rfl⟩

theorem powerUp_eq (s : State) : ∃ v, powerUp s = takeDims v ∧ v.mg.mode = s.mg.mode ∧ v.mg.start = s.mg.start ∧
    ∀ k < 32, (s.tile k).dead = false → (v.tile k).power = .on := by
  obtain ⟨pd, h⟩ := foldl_setPd s (List.range 44)
  have hmg := foldl_tileOn_mg (List.range 32) { s with mg := { s.mg with pd := pd } }
  refine ⟨_, ?_, (congrArg Mgmt.mode hmg).trans rfl, (congrArg Mgmt.start hmg).trans rfl, fun k hk hlive => foldl_tileOn (List.mem_range.mpr hk) hlive⟩
  unfold powerUp
  rw [h]
  unfold tileOn
  rfl

/-- After the power-up of BRINGUP and the start of the links every live tile runs (R192, R438). -/
theorem broughtUp (s : State) : (startPorts (powerUp s)).mg.mode = s.mg.mode ∧ (startPorts (powerUp s)).mg.start = s.mg.start ∧
    ∀ k < 32, (s.tile k).dead = false → ((startPorts (powerUp s)).tile k).power = .on := by
  obtain ⟨ps, hp⟩ := startPorts_eq (powerUp s)
  obtain ⟨v, hu, hmode, hstart, hon⟩ := powerUp_eq s
  rw [hp, hu]
  exact ⟨hmode, hstart, hon⟩

theorem Failed.congr {t u : State} {code : Nat} (h : Failed u t code) (hd : dval u 0x2000 5 = dval s 0x2000 5) : Failed s t code := by
  unfold Failed at h ⊢
  rwa [hd] at h

section
variable {sig dec : BitVec 7} {kh : List (BitVec 8)} (hmode : s.mg.mode = .loader) (hidle : s.mg.trans = none) (hver : s.mg.start.verifying = true)
include hmode hidle hver

/-- An image that does not verify fails the start (R427, R436). -/
theorem verified_bad {c a : Nat} (h : verify (setStep s 4) sig dec kh = some (c, a)) : Failed s (verified s sig dec kh) c ∧
    dval (verified s sig dec kh) 0x2000 6 = c + 2 ^ 8 * (a % 2 ^ 16) + 2 ^ 24 * 4 := by
  have hv : verified s sig dec kh = failStart (if (c = 0x12 ∨ c = 0x13 ∨ c = 0x14 ∨ c = 0x15 ∨ c = 0x16) ∧ (a = 2 ∨ a = 3)
      then setDval (setStep s 4) 0x2020 3 2 else setStep s 4) c a := by
    unfold verified
    dsimp only
    rw [if_neg (by simp [hmode, hidle, hver]), h]
  have hentry : ∀ j, j < 256 → dval (if (c = 0x12 ∨ c = 0x13 ∨ c = 0x14 ∨ c = 0x15 ∨ c = 0x16) ∧ (a = 2 ∨ a = 3)
      then setDval (setStep s 4) 0x2020 3 2 else setStep s 4) 0x2000 j = dval (setStep s 4) 0x2000 j := fun j hj => by
    split
    · exact dval_setDval_ne _ _ (by omega)
    · rfl
  rw [hv]
  refine ⟨(failStart_failed ..).congr ((hentry 5 (by decide)).trans (dval_step _ _ (by decide) _)), ?_⟩
  rw [failStart_detail, hentry 3 (by decide), dval_step_same]

/-- An image that verifies, without DICT_DEFAULTS, leads to BRINGUP (R427, R438). -/
theorem verified_good (h : verify (setStep s 4) sig dec kh = none) (hno : findSection s 7 = none) :
    (verified s sig dec kh).mg.mode = .bringup ∧ (verified s sig dec kh).mg.start.verified = true ∧
      ∀ k < 32, (s.tile k).dead = false → ((verified s sig dec kh).tile k).power = .on := by
  let u := setStep { s with mg := { setStep s 4 |>.mg with start := { s.mg.start with verifying := false, verified := true } } } 5
  have hsec : findSection u 7 = none := hno
  have hv : verified s sig dec kh = startPorts (powerUp (setStep (enterMode u .bringup .bringup) 6)) := by
    unfold verified
    dsimp only
    rw [if_neg (by simp [hmode, hidle, hver]), h]
    show (match applyDefaults u (match findSection u 7 with | some x => _ | none => _) 0 _ with | (s, false) => _ | (s, true) => _) = _
    rw [hsec]
    rfl
  obtain ⟨hm, hs, hon⟩ := broughtUp (setStep (enterMode u .bringup .bringup) 6)
  obtain ⟨hstart, -, -, -, hdead⟩ := enterMode_keeps u .bringup .bringup
  rw [hv]
  exact ⟨hm, (congrArg Start.verified hs).trans (congrArg Start.verified hstart), fun k hk hlive => hon k hk ((hdead k).trans hlive)⟩

end

end

end Sys2Proof.Claims
end

section
/-! PROOFS. The later steps of a start (R433), the keys and the persistent store (R425, R426, R483). -/

namespace Sys2Proof.Claims

open Sys2Proof.Machine

/-! ### BRINGUP, SELFTEST and SERVICE (R433) -/

section
variable {s : State}

theorem bringupDone_fails {fail unit rate cap : Nat} {far : Training} {oneRank : Bool} (hmode : s.mg.mode = .bringup) (hidle : s.mg.trans = none) (hfail : fail ≠ 0) :
    bringupDone s fail unit rate cap far oneRank = failStart s fail unit := by
  rw [bringupDone, if_neg (by simp [hmode, hidle]), if_pos hfail]

/-- What the repairs and the training of BRINGUP have left before its report. -/
def trainedUp (s : State) (rate cap : Nat) (far : Training) (oneRank : Bool) : State :=
  let t := copyBanks (loadFlashing (repairMem s s.mg.start.pendWarm far.changed))
  let r := trainFar t rate far.chans far.t48 far.t56 far.t64
  if s.mg.start.pendWarm then t else configFar (presentRanks t far.chans oneRank) r.2 cap r.1

theorem bringupDone_ends {unit rate cap : Nat} {far : Training} {oneRank : Bool} (hmode : s.mg.mode = .bringup) (hidle : s.mg.trans = none) :
    bringupDone s 0 unit rate cap far oneRank = setStep (enterMode (reportFar (trainedUp s rate cap far oneRank)) .selftest .selftest) 7 := by
  rw [bringupDone, if_neg (by simp [hmode, hidle]), if_neg (by simp)]
  rfl

theorem dropEntry_mg (s : State) (a : ArrayId) (line : Nat) : (dropEntry s a line).mg = s.mg := by cases a <;> rfl

theorem arrayInvalidate_mg (s : State) (a : ArrayId) (set way : Nat) : (arrayInvalidate s a set way).mg = s.mg := by
  unfold arrayInvalidate
  split
  · split
    · exact dropEntry_mg ..
    · rfl
  · rfl

/-- The self-test leaves the arrays alone invalid (R248). -/
theorem clearArrays_mg (s : State) : (clearArrays s).mg = s.mg :=
  keep_foldl (P := fun t => t.mg = s.mg)
    (fun t _ ht => (keep_foldl (P := fun v => v.mg = t.mg) (fun v _ hv => (arrayInvalidate_mg v _ _ _).trans hv) _ rfl : (clearArray t _).mg = t.mg).trans ht) _ rfl

theorem bistDone_good (hmode : s.mg.mode = .selftest) (hidle : s.mg.trans = none) (hbist : s.mg.start.bist = false) :
    (bistDone s true).mg.start.bist = true ∧ (bistDone s true).mg.mode = .selftest ∧ dval (bistDone s true) 0x2000 3 = 8 := by
  rw [bistDone, if_neg (by simp [hmode, hidle, hbist]), if_pos rfl]
  exact ⟨rfl, (congrArg Mgmt.mode (clearArrays_mg s)).trans hmode, dval_step_same ..⟩

theorem bistDone_bad (hmode : s.mg.mode = .selftest) (hidle : s.mg.trans = none) (hbist : s.mg.start.bist = false) :
    bistDone s false = failStart s 0x22 0 := by
  rw [bistDone, if_neg (by simp [hmode, hidle, hbist]), if_neg (by simp)]

/-- Programs leave the staging bytes alone. -/
theorem loadReedLib_host (s : State) : (loadReedLib s).host = s.host := by
  unfold loadReedLib
  split
  · rfl
  · refine keep_foldl (P := fun t => t.host = s.host) (fun t i ht => ?_) _ rfl
    refine keep_foldl (P := fun v => v.host = s.host) ?_ _ ht
    exact fun v q hv => hv

/-- The reports at the entry to SERVICE (R433 step 9). -/
def serviceReport (s : State) (k : Nat) : State :=
  let s := persistVal (setDval s 0x2000 0x05 0) 5 0x2000 0x05
  let s := persistVal (setDval s 0x2000 k (dval s 0x2000 k + 1)) 4 0x2000 k
  setStatus (setStep s 9) 2

theorem serviceReport_entries (s : State) {k : Nat} (h5 : k ≠ 5) :
    dval (serviceReport s k) 0x2000 5 = 0 ∧ dval (serviceReport s k) 0x2000 3 = 9 ∧ dval (serviceReport s k) 0x2000 1 = 2 := by
  refine ⟨?_, ?_, dval_setStatus ..⟩
  · rw [serviceReport, dval_setStatus_ne _ _ _ _ (by decide), dval_step _ _ (by decide)]
    exact (dval_setDval_ne _ _ (by omega)).trans (dval_setDval_same ..)
  · rw [serviceReport, dval_setStatus_ne _ _ _ _ (by decide), dval_step_same]

theorem serviceReport_mode (s : State) (k : Nat) : (serviceReport s k).mg.mode = s.mg.mode := by
  unfold serviceReport
  extract_lets u v
  obtain ⟨d, vs, ms, h⟩ := setStatus_eq (setStep v 9) 2
  rw [h]
  rfl

theorem findSection_congr {t : State} (h : t.host.staging = s.host.staging) (n : Nat) : findSection t n = findSection s n := by
  have hat : Machine.sectionAt t = Machine.sectionAt s := funext fun i => by simp only [Machine.sectionAt, stN, stBytes, stB, h]
  simp only [findSection, sections, hat, stN, stBytes, stB, h]

/-- The last commands of the entry to SERVICE. -/
def serviceEntered (s : State) (k : Nat) : State :=
  persist { serviceReport s k with mg := { (serviceReport s k).mg with start := { (serviceReport s k).mg.start with running := false } } } 2
    (coreMap (serviceReport s k))

/-- Without boot segments the device enters SERVICE. -/
theorem enterService_enters (hmode : s.mg.mode = .selftest) (hidle : s.mg.trans = none) (hmem : s.mg.start.memDone = true) (hno : findSection s 5 = none) :
    ∃ v, enterService s = serviceEntered (enterMode v .service .service) (if s.mg.start.pendWarm then 0x08 else 0x07) := by
  have hsec : findSection (loadReedLib (takeSettings s)) 5 = none := (findSection_congr (congrArg HostIf.staging (loadReedLib_host (takeSettings s))) 5).trans hno
  suffices enterService s = serviceEntered (enterMode (flushTracked (loadReedLib (takeSettings s))) .service .service)
      (if s.mg.start.pendWarm then 0x08 else 0x07) from ⟨_, this⟩
  unfold enterService
  rw [if_neg (by simp [hmode, hidle, hmem])]
  extract_lets warm u body segs seq v w x y k z r
  have hbody : body = [] := by simp only [body, u, hsec]
  have hsegs : segs = [] := by simp [segs, hbody]
  have hv : v = u := by simp only [v, hsegs, List.foldl_nil]
  have hw : w = u := by simp only [w, hbody, if_true, hv, List.foldl_nil]
  rw [hsegs, if_neg (by simp), hv, if_neg (by simp [seq])]
  have hx : x = enterMode (flushTracked (loadReedLib (takeSettings s))) .service .service := congrArg (fun t => enterMode (flushTracked t) .service .service) hw
  have hr : r = serviceReport x k := rfl
  clear_value x r
  rw [← hx]
  change _ = serviceEntered x k
  rw [serviceEntered, ← hr]

end

/-! ### Keys, versions and the store (R425, R426, R483) -/

section
variable {s : State}

theorem ownerHash_burns {h : List (BitVec 8)} (hmode : s.mg.mode = .loader) (hfuse : s.mg.start.fuse = false) (hburn : s.mg.start.burning = false)
    (hnz : h.all (· == 0) = false) : ownerHash s h =
      { s with mg := { s.mg with blobs := tset s.mg.blobs (0x2010 * 256 + 1) h, start := { s.mg.start with ownerHash := h, burning := true } } } :=
  if_neg (by rw [ownerHashStatus, if_neg (by simp [hmode, hfuse, hburn]), hnz]; simp)

theorem ownerHash_burnt {h : List (BitVec 8)} (hfuse : s.mg.start.fuse = true) : ownerHash s h = s :=
  if_pos (by rw [ownerHashStatus, if_pos (by simp [hfuse])]; decide)

/-- The newest entry stays when the oldest ones are dropped. -/
theorem getLast?_drop_concat {α : Type} (l : List α) (a : α) {k : Nat} (hk : k ≤ l.length) : ((l ++ [a]).drop k).getLast? = some a := by
  rw [List.drop_append_of_le_length hk, List.getLast?_concat]

/-- The log with a record, cut to what it holds (R483). -/
def logged (s : State) (r : FRec) (rest : List FRec) : State :=
  persist { s with sark := { s.sark with waiting := rest, log := s.sark.log ++ [r] } } 3 (frecBytes r)

theorem commit_record {r : FRec} {rest : List FRec} {data : List (BitVec 8)} (hmode : s.mg.mode ≠ .off) (hwait : s.sark.waiting = r :: rest) :
    commit s 3 data false = { logged s r rest with sark := { (logged s r rest).sark with
      log := (logged s r rest).sark.log.drop ((logged s r rest).sark.log.length - 16384) } } := by
  unfold commit
  rw [if_neg hmode, if_neg (by simp), if_pos rfl, hwait]
  rfl

/-- The oldest record of the buffer reaches the log and the store. -/
theorem commit_logs {r : FRec} {rest : List FRec} {data : List (BitVec 8)} (hmode : s.mg.mode ≠ .off) (hwait : s.sark.waiting = r :: rest) :
    (commit s 3 data false).sark.waiting = rest ∧ (commit s 3 data false).sark.log.getLast? = some r ∧
      (commit s 3 data false).sark.store = s.sark.store ++ [⟨3, s.sark.storeSeq, frecBytes r, true⟩] := by
  rw [commit_record hmode hwait]
  have hlog : (logged s r rest).sark.log = s.sark.log ++ [r] := rfl
  refine ⟨rfl, ?_, rfl⟩
  dsimp only
  rw [hlog]
  exact getLast?_drop_concat _ _ (by simp)

end

end Sys2Proof.Claims
end

section
/-! PROOFS. The far memory that BRINGUP configures (R284, R285, R291 to R294): the repairs leave ranks in service, and sixteen channels train. -/

namespace Sys2Proof.Claims

open Sys2Proof.Machine

/-- A channel with no recorded row and no rank that retires. -/
def Unspoilt (m : Mc) : Prop := m.rows = [] ∧ ∀ g ∈ m.groups, g.2 ≠ .retiring ∧ g.2 ≠ .retired

theorem mc_setMc_same (s : State) (n : Nat) (m : Mc) : (s.setMc n m).mc n = m := by simp [State.mc, State.setMc, tgetD]
theorem mc_setMc_ne (s : State) {n k : Nat} (m : Mc) (h : k ≠ n) : (s.setMc n m).mc k = s.mc k := by simp [State.mc, State.setMc, tgetD, tget_tset_ne _ _ h]

/-- A controller of far memory. -/
def IsFar (n : Nat) : Prop := 8 ≤ n ∧ n < 24

/-- Every far channel is unspoilt, and far_rate_cap has its value. -/
structure FarReady (cap : Nat) (s : State) : Prop where
  cap : dval s 0x0800 4 = cap
  good : ∀ n, IsFar n → Unspoilt (s.mc n)

theorem mem_of_tget {α : Type} {t : Tbl α} {k : Nat} {v : α} (h : tget t k = some v) : (k, v) ∈ t := by
  induction t with
  | nil => exact nomatch h
  | cons e t ih =>
    obtain ⟨j, u⟩ := e
    rw [tget] at h
    split at h
    · next hj => cases h; rw [hj]; exact .head _
    · exact .tail _ (ih h)

namespace FarReady

section
variable {cap : Nat} {s : State} (h : FarReady cap s)
include h

theorem sameCap {t : State} (hd : dval t 0x0800 4 = dval s 0x0800 4) (hm : t.mem.mcs = s.mem.mcs) : FarReady cap t :=
  ⟨hd.trans h.cap, fun n hn => by rw [State.mc, hm]; exact h.good n hn⟩

theorem same {t : State} (hd : t.mg.dict = s.mg.dict) (hm : t.mem.mcs = s.mem.mcs) : FarReady cap t := h.sameCap (dval_congr hd) hm

theorem setMc {n : Nat} {m : Mc} (hm : IsFar n → Unspoilt m) : FarReady cap (s.setMc n m) := by
  refine ⟨h.cap, fun k hk => ?_⟩
  rcases eq_or_ne k n with rfl | hkn
  · rw [mc_setMc_same]
    exact hm hk
  · rw [mc_setMc_ne _ _ hkn]
    exact h.good k hk

/-- A change of a channel beside its rows and ranks. -/
theorem touch {n : Nat} {m : Mc} (hr : m.rows = (s.mc n).rows) (hg : m.groups = (s.mc n).groups) : FarReady cap (s.setMc n m) :=
  h.setMc fun hn => by rw [Unspoilt, hr, hg]; exact h.good n hn

theorem calm {t : State} (hc : Calm s t) : FarReady cap t := h.sameCap (hc.dval (by decide)) (by rw [hc.mem])

theorem mcEvent (mc bit : Nat) : FarReady cap (mcEvent s mc bit) := by
  unfold Machine.mcEvent
  extract_lets m ev u
  have hu : FarReady cap u := h.touch rfl rfl
  split
  · exact hu.calm (Calm.signal ..)
  · exact hu

theorem persist (kind : Nat) (p : List (BitVec 8)) : FarReady cap (persist s kind p) := h.same rfl rfl

theorem setUnit (mc unit : Nat) (st : UnitSt) (clear : Bool) : FarReady cap (setUnit s mc unit st clear) := by
  unfold Machine.setUnit
  extract_lets m u
  have hu : FarReady cap u := h.touch rfl rfl
  exact (hu.persist ..).mcEvent mc 0

/-- A rank changes state; one of a far channel does not retire. -/
theorem setGroupSt {mc group : Nat} {st : GroupSt} (hst : IsFar mc → st ≠ .retiring ∧ st ≠ .retired) : FarReady cap (setGroupSt s mc group st) := by
  unfold Machine.setGroupSt
  extract_lets m u
  have hu : FarReady cap u := h.setMc fun hn => by
    obtain ⟨hrows, hgroups⟩ := h.good mc hn
    exact ⟨hrows, fun g hg => (mem_tset hg).elim (fun e => e ▸ hst hn) (hgroups g)⟩
  exact (hu.persist ..).mcEvent mc 2

theorem toDegraded : FarReady cap (toDegraded s) := by
  unfold Machine.toDegraded beginTrans
  split
  · split <;> exact h.same rfl rfl
  · exact h.same rfl rfl
  · exact h.same rfl rfl
  · exact h.same rfl rfl
  · exact h

theorem spareExhausted (bit unit : Nat) : FarReady cap (spareExhausted s bit unit) :=
  (FarReady.calm (h.sameCap (dval_setDval_ne _ _ (by decide)) rfl) (Calm.logFault ..)).toDegraded

/-! ### Repairs of near memory and of other controllers -/

theorem groupRetiring {mc : Nat} (hmc : ¬ IsFar mc) (group : Nat) : FarReady cap (groupRetiring s mc group) := by
  have hset : FarReady cap (Machine.setGroupSt s mc group .retiring) := h.setGroupSt fun hn => absurd hn hmc
  unfold Machine.groupRetiring
  split
  · split
    · dsimp only
      split
      · exact hset.spareExhausted ..
      · exact hset.same rfl rfl
    · exact hset.spareExhausted ..
  · exact h

theorem eraseUnit {mc : Nat} (hmc : ¬ IsFar mc) (unit : Nat) : FarReady cap (eraseUnit s mc unit) := by
  unfold Machine.eraseUnit
  dsimp only
  split
  · exact h.groupRetiring hmc _
  · exact h.setUnit ..

theorem repairRow {mc : Nat} (hmc : ¬ IsFar mc) (unit : Nat) : FarReady cap (repairRow s mc unit) := by
  unfold Machine.repairRow
  extract_lets st m u
  have hu : FarReady cap u := h.setMc fun hn => absurd hn hmc
  split
  · exact hu
  split
  · exact hu.eraseUnit hmc unit
  split
  · exact hu.setUnit ..
  · exact hu

theorem repairLane (mc unit : Nat) : FarReady cap (repairLane s mc unit) := by
  unfold Machine.repairLane
  dsimp only
  split
  · have hu : FarReady cap (s.setMc mc { s.mc mc with lanes := tset (s.mc mc).lanes (unit / 64) (tgetD (s.mc mc).lanes (unit / 64) 0 + 1) }) := h.touch rfl rfl
    exact hu.setUnit ..
  · exact h

theorem clearDimm (c : Nat) : FarReady cap (clearDimm s c) := by
  unfold Machine.clearDimm
  extract_lets mc m u v
  have hu : FarReady cap u := keep_foldl (P := FarReady cap) (fun t a ht => keep_ite ht (FarReady.setUnit ht ..)) _ h
  have hv : FarReady cap v := keep_foldl (P := FarReady cap) (fun t a ht => keep_ite ht (FarReady.setGroupSt ht fun _ => by decide)) _ hu
  exact hv.setMc fun hn => ⟨rfl, (hv.good mc hn).2⟩

theorem restartTargets (mc : Nat) : FarReady cap (restartTargets s mc) := h.touch rfl rfl

end

variable {cap : Nat} {s : State}

/-- The rows of one controller: a far channel has none. -/
theorem repairRows (h : FarReady cap s) (mc : Nat) : FarReady cap ((s.mc mc).rows.foldl (fun s u => Machine.repairRow s mc u) s) := by
  by_cases hmc : IsFar mc
  · rw [(h.good mc hmc).1]
    exact h
  · exact keep_foldl (P := FarReady cap) (fun t u ht => FarReady.repairRow ht hmc u) _ h

/-- The ranks of one controller that retire: a far channel has none. -/
theorem retireRanks (h : FarReady cap s) (mc : Nat) :
    FarReady cap ((s.mc mc).groups.foldl (fun s g => if g.2 = .retiring then Machine.setGroupSt s mc g.1 .retired else s) s) := by
  by_cases hmc : IsFar mc
  · rw [foldl_unchanged fun g hg => if_neg ((h.good mc hmc).2 g hg).1]
    exact h
  · exact keep_foldl (P := FarReady cap) (fun t g ht => keep_ite (FarReady.setGroupSt ht fun hn => absurd hn hmc) ht) _ h

/-- The memory repair of BRINGUP. -/
theorem repairMem (h : FarReady cap s) (warm : Bool) (changed : BitVec 16) : FarReady cap (repairMem s warm changed) := by
  unfold Machine.repairMem
  extract_lets ks near far s1 s2 s3 s4
  have h1 : FarReady cap s1 := keep_foldl (P := FarReady cap) (fun t mc ht => keep_foldl (P := FarReady cap) (fun v u hv => FarReady.repairLane hv mc u.1) _ ht) _ h
  have h2 : FarReady cap s2 := keep_foldl (P := FarReady cap) (fun t mc ht => keep_ite (FarReady.clearDimm ht _) ht) _ h1
  have h3 : FarReady cap s3 := keep_foldl (P := FarReady cap) (fun t mc ht => FarReady.repairRows ht mc) _ h2
  have h4 : FarReady cap s4 := keep_foldl (P := FarReady cap) (fun t mc ht => FarReady.retireRanks ht mc) _ h3
  exact keep_foldl (P := FarReady cap) (fun t mc ht => FarReady.restartTargets ht mc) _ h4

theorem loadFlashing (h : FarReady cap s) : FarReady cap (loadFlashing s) := by
  unfold Machine.loadFlashing
  split
  · exact h
  · extract_lets m n micro nano regs u
    clear_value micro nano regs
    have hu : FarReady cap u := by
      refine keep_foldl (P := FarReady cap) ?_ _ h
      intro t k ht
      split
      · exact ht
      · exact ht.same rfl rfl
    clear_value u
    refine hu.sameCap ?_ rfl
    rw [dval_setDval_ne _ _ (by decide), dval_setDval_ne _ _ (by decide), dval_setDval_ne _ _ (by decide)]

theorem copyBanks (h : FarReady cap s) : FarReady cap (copyBanks s) := by
  unfold Machine.copyBanks
  extract_lets one l
  refine keep_foldl (P := FarReady cap) (fun t b ht => ?_) l (h.same rfl rfl)
  simp only [one]
  split
  · exact ht
  · split
    · exact ht.same rfl rfl
    · have hu : FarReady cap { t with sark := { t.sark with withdrawn := t.sark.withdrawn ++ [b.1 * 16 + b.2] } } := ht.same rfl rfl
      exact hu.spareExhausted ..

/-- The state of a rank whose DIMM is there or not (R284). -/
theorem rank_stays {g : GroupSt} {there : Bool} (hg : g ≠ .retiring ∧ g ≠ .retired) :
    (if g = .retired then GroupSt.retired else if there then (if g = .absent then GroupSt.inService else g) else GroupSt.absent) ≠ .retiring ∧
    (if g = .retired then GroupSt.retired else if there then (if g = .absent then GroupSt.inService else g) else GroupSt.absent) ≠ .retired := by
  revert hg
  cases g <;> cases there <;> decide

theorem rank_good {m : Mc} (h : Unspoilt m) (r : Nat) : tgetD m.groups r GroupSt.inService ≠ .retiring ∧ tgetD m.groups r GroupSt.inService ≠ .retired := by
  unfold tgetD
  rcases hg : tget m.groups r with _ | g
  · exact ⟨by decide, by decide⟩
  · exact h.2 _ (mem_of_tget hg)

/-- The ranks that the DIMMs have (R284): none of them retires. -/
theorem presentRanks (h : FarReady cap s) (chans : BitVec 16) (oneRank : Bool) : FarReady cap (presentRanks s chans oneRank) := by
  refine keep_foldl (P := FarReady cap) (fun t c ht => ?_) _ h
  refine ht.setMc fun hn => ?_
  obtain ⟨hrows, hgroups⟩ := ht.good _ hn
  refine ⟨hrows, fun g hg => (mem_tset hg).elim (fun e => ?_) fun hg => (mem_tset hg).elim (fun e => ?_) (hgroups g)⟩
  · rw [e]
    exact rank_stays (rank_good (ht.good _ hn) 1)
  · rw [e]
    exact rank_stays (rank_good (ht.good _ hn) 0)

end FarReady

/-! ### Sixteen channels (R285) -/

theorem trainFar_all {s : State} {rate : Nat} {chans t48 t56 t64 : BitVec 16} (hc : chans = 0xFFFF) (ht : t64 = 0xFFFF) (hr : 6400 ≤ rate)
    (hcap : 6400 ≤ dval s 0x0800 4) : trainFar s rate chans t48 t56 t64 = (6400, chans) := by
  subst hc ht
  have htop : 6400 ≤ min rate (dval s 0x0800 4) := le_min hr hcap
  unfold trainFar
  dsimp only
  rw [if_neg (by simp; omega), if_pos ⟨htop, by decide⟩]

theorem configFar_all {s : State} {cap rate dimm : Nat} (h : FarReady cap s) (hdimm : dimmSizes.contains dimm = true) :
    configFar s 0xFFFF dimm rate = { s with mem := { s.mem with farN := 16, farOdd := false, farD := dimm, farBytes := 16 * dimm, farRate := rate } } := by
  have hok : ((List.range 16).all fun c => !true || (dimmSizes.contains dimm && ((0xFFFF : BitVec 16).getLsbD c &&
      (s.mc (8 + c)).groups.all fun g => g.2 != GroupSt.retired))) = true := by
    refine List.all_eq_true.mpr fun c hc => ?_
    have hlt : c < 16 := List.mem_range.mp hc
    have hall : ((s.mc (8 + c)).groups.all fun g => g.2 != GroupSt.retired) = true :=
      List.all_eq_true.mpr fun g hg => bne_iff_ne.mpr ((h.good (8 + c) ⟨by omega, by omega⟩).2 g hg).2
    have hbit : (0xFFFF : BitVec 16).getLsbD c = true := (by decide : ∀ c < 16, (0xFFFF : BitVec 16).getLsbD c = true) c hlt
    rw [hdimm, hbit, hall]
    rfl
  unfold configFar
  extract_lets ok set
  have hset : (set fun _ => true) = true := hok
  simp only [hset, if_true]

/-- Sixteen DIMMs that train at 6400 serve far memory (R285). -/
theorem trainedUp_all {s : State} {cap rate dimm : Nat} {chans : Training} {oneRank : Bool} (h : FarReady cap s) (hwarm : s.mg.start.pendWarm = false)
    (hc : chans.chans = 0xFFFF) (ht : chans.t64 = 0xFFFF) (hr : 6400 ≤ rate) (hcap : 6400 ≤ cap) (hdimm : dimmSizes.contains dimm = true) :
    (trainedUp s rate dimm chans oneRank).mem.farN = 16 ∧ (trainedUp s rate dimm chans oneRank).mem.farBytes = 16 * dimm ∧
      (trainedUp s rate dimm chans oneRank).mem.farRate = 6400 := by
  have hready : FarReady cap (copyBanks (loadFlashing (repairMem s false chans.changed))) := ((h.repairMem ..).loadFlashing).copyBanks
  have hrate := trainFar_all (t48 := chans.t48) (t56 := chans.t56) hc ht hr (hready.cap ▸ hcap)
  have hfar := configFar_all (rate := 6400) (hready.presentRanks chans.chans oneRank) hdimm
  unfold trainedUp
  rw [hwarm]
  dsimp only
  rw [if_neg (by decide), hrate]
  dsimp only
  rw [hc] at hfar ⊢
  rw [hfar]
  exact ⟨rfl, rfl, rfl⟩

end Sys2Proof.Claims
end

section
/-! PROOFS. The commands of a start, one by one. Where a command answers a state that is long to compute, the facts about it are collected first and
the state then becomes a variable. -/

namespace Sys2Proof.Claims

open Sys2Proof.Machine

/-! ### Commands of a start -/

theorem Begun.tick {s t : State} {warm : Bool} (h : Begun s t warm) : Begun s t.tick warm := h
theorem Failed.tick {s t : State} {code : Nat} (h : Failed s t code) : Failed s t.tick code := h

section
variable {s : State}

theorem loadCmd_loads (hmode : s.mg.mode = .standby) (hidle : s.mg.trans = none) :
    loadCmd s = enterLoader (setDval (resetPlane (resetBlocks s false) false) 0x2000 0x02 1) := if_pos ⟨hmode, by simp [hidle]⟩

/-- LOAD leads to LOADER with a cold start pending (R419). -/
theorem loadCmd_entered (hmode : s.mg.mode = .standby) (hidle : s.mg.trans = none) :
    (loadCmd s).mg.mode = .loader ∧ dval (loadCmd s) 0x2000 2 = 1 ∧ dval (loadCmd s) 0x2000 3 = 2 ∧
      (s.host.link ≠ 1 → (loadCmd s).mg.start.relay = true ∧ Asks (loadCmd s) 0) := by
  obtain ⟨hm, -, hstep, hcause, hasks⟩ := enterLoader_entered (setDval (resetPlane (resetBlocks s false) false) 0x2000 0x02 1)
  rw [loadCmd_loads hmode hidle]
  exact ⟨hm, hcause.trans (dval_setDval_same ..), hstep, hasks⟩

theorem bootDone_standby (hrst : s.pins.sysRst = false) (hwb : s.mg.start.wbDone = true) (ht : s.mg.trans = some ⟨.standby, .standby, []⟩) :
    bootDone s = enterMode s .standby .standby := by
  rw [bootDone, ht]
  dsimp only
  rw [if_neg (by simp [hrst, hwb]), if_pos rfl]

theorem bootDone_loader (hrst : s.pins.sysRst = false) (hwb : s.mg.start.wbDone = true) (ht : s.mg.trans = some ⟨.loader, .loader, []⟩) :
    bootDone s = enterLoader s := by
  rw [bootDone, ht]
  dsimp only
  rw [if_neg (by simp [hrst, hwb]), if_neg (by decide), if_pos rfl]

theorem forceStart_standby (hmode : s.mg.mode = .standby) (warm : Bool) : forceStart s warm = loadCmd s := if_pos hmode

theorem writebackDone_begins (hwb : s.mg.start.wbDone = false) (ok : Bool) : writebackDone s ok =
    if ok then beginStart (writeback { s with mg := { s.mg with start := { s.mg.start with wbDone := true } } }) true
    else beginStart { s with mg := { s.mg with start := { s.mg.start with wbDone := true } } } false := by
  rw [writebackDone, if_neg (by simp [hwb])]

/-- A writeback that does not complete makes the start cold (R420). -/
theorem writebackDone_cold (hwb : s.mg.start.wbDone = false) : ∃ t, writebackDone s false = t ∧ Begun s t false :=
  ⟨_, writebackDone_begins hwb false, beginStart_begun { s with mg := { s.mg with start := { s.mg.start with wbDone := true } } } false⟩

/-- The writeback has ended and step 1 of a warm start begins (R507). -/
theorem writebackDone_warm (hwb : s.mg.start.wbDone = false) :
    ∃ t, writebackDone s true = t ∧ t.mg.start.pendWarm = true ∧ t.ctxs = [] ∧ dval t 0x2000 2 = 2 := by
  have hb := writebackDone_begins hwb true
  rw [if_pos rfl] at hb
  obtain ⟨-, hwarm, hctxs, -, -, -, -, -, hcause, -⟩ := beginStart_begun (writeback { s with mg := { s.mg with start := { s.mg.start with wbDone := true } } }) true
  exact ⟨_, hb, hwarm, hctxs, hcause⟩

theorem beginVerify_runs (s : State) (src : Nat) : (beginVerify s src).mg.start.verifying = true ∧ (beginVerify s src).mg.start.running = true := ⟨rfl, rfl⟩

theorem startGo_begins (h : goOk s = true) : startGo s = beginVerify s 1 := if_pos h

theorem goOk_mode (h : goOk s = true) : s.mg.mode = .loader := by
  simp only [goOk, Bool.and_eq_true, beq_iff_eq] at h
  exact h.1

theorem startGo_none (h : s.mg.mode ≠ .loader) : startGo s = s := if_neg fun hgo => h (goOk_mode hgo)

section
variable {off len : Nat} {data : List (BitVec 8)} (hmode : s.mg.mode = .loader) (hrelay : s.mg.start.relay = true) (hlen : len ≠ 0)
  (hfit : off + data.length ≤ 66060288)
include hmode hrelay hlen hfit

/-- Relayed bytes in staging (R432). -/
def relayStaged (s : State) (off len : Nat) (data : List (BitVec 8)) : State :=
  { s with host := { s.host with staging := stPut s.host.staging off data },
           mg := { s.mg with start := { s.mg.start with relayLen := BitVec.ofNat 32 len, relayGot := s.mg.start.relayGot + data.length } } }

theorem imgRel_stages : imgRel s 0 off len data =
    if len ≤ s.mg.start.relayGot + data.length then beginVerify (relayStaged s off len data) 2 else askImage (relayStaged s off len data) (off + data.length) :=
  if_neg (by simp [hmode, hrelay, hlen]; omega)

theorem imgRel_relays : ∃ t, imgRel s 0 off len data = t ∧ t.host.staging = stPut s.host.staging off data ∧
    (len ≤ s.mg.start.relayGot + data.length → t.mg.start.verifying = true ∧ dval t 0x2000 9 = 2) ∧
    (s.mg.start.relayGot + data.length < len → Asks t (off + data.length)) := by
  rw [imgRel_stages hmode hrelay hlen hfit]
  split
  · next hall => exact ⟨_, rfl, (beginVerify_keeps ..).2, fun _ => ⟨(beginVerify_runs ..).1, (beginVerify_entries ..).1⟩, fun h => absurd hall (by omega)⟩
  · next hmore => exact ⟨_, rfl, rfl, fun h => absurd h hmore, fun _ => askImage_asks ..⟩

end

theorem stepTimeout_fails {step : Nat} (hrun : s.mg.start.running = true) (hstep : dval s 0x2000 3 = step) (hmode : s.mg.mode = .loader)
    (hidle : s.mg.trans = none) : stepTimeout s step = failStart s 0x24 0 := by
  rw [stepTimeout, if_pos ⟨hstep, .inr ⟨hrun, .inl hmode, by simp [hidle]⟩⟩]

theorem fuseBurnt_burns (h : s.mg.start.burning = true) : fuseBurnt s =
    setDval { s with mg := { s.mg with start := { s.mg.start with burning := false, fuse := true } } } 0x2010 0x02 1 := if_pos h

theorem minSvn_rises {v : Nat} (hmode : rwlMode s.mg.mode = true) (hv : dval s 0x2010 3 ≤ v) :
    minSvn s v = persistVal (setDval s 0x2010 3 v) 5 0x2010 3 := if_pos ⟨hmode, hv⟩

theorem minSvn_kept {v : Nat} (hv : v < dval s 0x2010 3) : minSvn s v = s := if_neg fun h => absurd h.2 (by omega)

theorem commit_interrupted {kind : BitVec 16} {data : List (BitVec 8)} (hmode : s.mg.mode ≠ .off) : commit s kind.toNat data true =
    { s with sark := { s.sark with storeSeq := s.sark.storeSeq + 1, store := s.sark.store ++ [⟨kind, s.sark.storeSeq, data, false⟩] } } := by
  rw [commit, if_neg hmode, if_pos rfl, BitVec.ofNat_toNat, BitVec.setWidth_eq]

theorem commit_plain {kind : Nat} {data : List (BitVec 8)} (hmode : s.mg.mode ≠ .off) (hk : kind ≠ 3) : commit s kind data false = persist s kind data := by
  rw [commit, if_neg hmode, if_neg (by simp), if_neg hk]

/-- What the report of BRINGUP and the entry to SELFTEST leave of the far memory (R296). -/
theorem reportFar_entries (hn : s.mem.farN = 16) {v w : Nat} (hv : s.mem.farBytes = v) (hw : s.mem.farRate = w) :
    (reportFar s).mem = s.mem ∧ dval (reportFar s) 0x0800 1 = 0xFFFF ∧ dval (reportFar s) 0x0800 2 = v ∧ dval (reportFar s) 0x0800 3 = w := by
  subst hv hw
  unfold reportFar
  rw [hn]
  refine ⟨rfl, ?_, ?_, dval_setDval_same ..⟩
  · rw [dval_setDval_ne _ _ (by decide), dval_setDval_ne _ _ (by decide), dval_setDval_same]
    rfl
  · rw [dval_setDval_ne _ _ (by decide), dval_setDval_same]

/-- The end of BRINGUP. -/
theorem selftest_entered (s : State) : (setStep (enterMode s .selftest .selftest) 7).mg.mode = .selftest ∧
    dval (setStep (enterMode s .selftest .selftest) 7) 0x2000 3 = 7 ∧ (setStep (enterMode s .selftest .selftest) 7).mem = s.mem ∧
    ∀ j < 256, dval (setStep (enterMode s .selftest .selftest) 7) 0x0800 j = dval s 0x0800 j := by
  refine ⟨rfl, dval_step_same .., (enterMode_keeps s .selftest .selftest).2.2.2.1, fun j hj => ?_⟩
  rw [setStep, dval_setDval_ne _ _ (by omega), dval_enterMode _ _ _ _ _ (by rw [show (0x0800 * 256 + j) / 256 = 0x0800 by omega]; decide)]

/-- BRINGUP with sixteen DIMMs that train at 6400 (R285, R296). -/
theorem bringupDone_far {unit rate cap : Nat} {far : Training} {oneRank : Bool} (hmode : s.mg.mode = .bringup) (hidle : s.mg.trans = none)
    (hn : (trainedUp s rate cap far oneRank).mem.farN = 16) (hbytes : (trainedUp s rate cap far oneRank).mem.farBytes = 16 * cap)
    (hrate : (trainedUp s rate cap far oneRank).mem.farRate = 6400) : ∃ t, bringupDone s 0 unit rate cap far oneRank = t ∧
      t.mem.farN = 16 ∧ t.mem.farBytes = 16 * cap ∧ t.mem.farRate = 6400 ∧ dval t 0x0800 1 = 0xFFFF ∧ dval t 0x0800 2 = 16 * cap ∧ dval t 0x0800 3 = 6400 := by
  refine ⟨_, bringupDone_ends hmode hidle, ?_⟩
  generalize trainedUp s rate cap far oneRank = v at hn hbytes hrate
  obtain ⟨hmem, h1, h2, h3⟩ := reportFar_entries hn hbytes hrate
  obtain ⟨-, -, hkeep, hval⟩ := selftest_entered (reportFar v)
  rw [hkeep, hmem, hval 1 (by decide), hval 2 (by decide), hval 3 (by decide)]
  exact ⟨hn, hbytes, hrate, h1, h2, h3⟩

/-- The entry to SERVICE and its reports (R433 step 9). -/
theorem serviceEntered_entries (s : State) {k : Nat} (h5 : k ≠ 5) : (serviceEntered s k).mg.mode = s.mg.mode ∧
    (serviceEntered s k).mg.start.running = false ∧ dval (serviceEntered s k) 0x2000 5 = 0 ∧ dval (serviceEntered s k) 0x2000 3 = 9 ∧
    dval (serviceEntered s k) 0x2000 1 = 2 := by
  obtain ⟨hfails, hstep, hcode⟩ := serviceReport_entries s h5
  have hmode := serviceReport_mode s k
  unfold serviceEntered
  generalize serviceReport s k = t at hfails hstep hcode hmode
  exact ⟨hmode, rfl, hfails, hstep, hcode⟩

end

end Sys2Proof.Claims

open Sys2Proof Sys2Proof.Machine Sys2Proof.Claims

/-- Settles O58: each step of a start, its failure, the triggers, the keys, the store and the test port. -/
theorem starts : Obligations.Starts := by
  intro s slot sig dec kh data c a port off len unit v kind rate far chans oneRank step ir fail r rest st idle start failed asks
  refine ⟨?_, ?_, ?_, ?_, ?_, ?_, ?_, ?_, ?_, ?_, ?_, ?_, ?_, ?_, ?_, ?_, ?_, ?_, ?_, ?_, ?_, ?_, ?_, ?_, ?_, ?_, ?_, ?_, ?_, ?_, ?_, ?_, ?_, ?_, ?_⟩
  · intro hpw
    exact ⟨_, gives_of_eq rfl (if_neg (by simp [hpw])), rfl, rfl, rfl, rfl⟩
  · exact ⟨_, rfl, rfl, rfl, rfl, rfl, rfl, rfl, rfl⟩
  · intro hm
    exact gives_of_eq rfl (by unfold sysRst; rw [hm])
  · intro hm
    exact gives_of_eq rfl (by unfold sysRst; rw [hm])
  · rfl
  · intro hrst hwb ht
    exact ⟨_, gives_of_eq rfl (bootDone_standby hrst hwb ht), rfl, rfl⟩
  · intro hrst hwb ht _
    obtain ⟨hm, htr, hstep, -, -⟩ := enterLoader_entered s
    have hb := bootDone_loader hrst hwb ht
    generalize enterLoader s = t at hb hm htr hstep
    exact ⟨_, gives_of_eq rfl hb, hm, htr, hstep⟩
  · intro hm hidle
    obtain ⟨hl, hcause, hstep, hasks⟩ := loadCmd_entered hm hidle
    have hload : Gives .startCmdLoad s (loadCmd s).tick := rfl
    have hforce := forceStart_standby hm
    generalize loadCmd s = t at hload hforce hl hcause hstep hasks
    exact ⟨_, hload, gives_of_eq rfl (hforce false), gives_of_eq rfl (hforce true), hl, hcause, hstep, hasks⟩
  · intro hm
    exact gives_of_eq rfl (if_neg fun h => hm h.1)
  · intro hs
    exact ⟨_, gives_of_eq rfl (trigger_cold hs), gives_of_eq rfl ((forceStart_trigger hs _).trans (trigger_cold hs)),
      gives_of_eq rfl ((sysRst_trigger hs _).trans (trigger_cold hs)), (beginStart_begun s false).tick⟩
  · intro hs
    exact ⟨gives_of_eq rfl (trigger_none hs _), gives_of_eq rfl (trigger_none hs _)⟩
  · intro hs hw hd hst
    exact ⟨_, gives_of_eq rfl (trigger_warm hs hw), gives_of_eq rfl ((forceStart_trigger hs _).trans (trigger_warm hs hw)), (beginWarm_clean hd hst).tick⟩
  · intro hs hw hd
    have hdirty := beginWarm_dirty hd
    have hb := trigger_warm hs hw
    generalize beginWarm s = t at hdirty hb
    exact ⟨_, gives_of_eq rfl hb, hdirty⟩
  · intro hs hw
    exact ⟨_, gives_of_eq rfl (trigger_notWarm hw), rfl⟩
  · intro hwb
    obtain ⟨t, ht, hbegun⟩ := writebackDone_cold hwb
    exact ⟨_, gives_of_eq rfl ht, hbegun.tick⟩
  · intro hwb
    obtain ⟨t, ht, hbegun⟩ : ∃ t, writebackDone s true = t ∧ t.mg.start.pendWarm = true ∧ t.ctxs = [] ∧ dval t 0x2000 2 = 2 := writebackDone_warm hwb
    exact ⟨_, gives_of_eq rfl ht, hbegun⟩
  · intro hgo
    obtain ⟨hsrc, hstep, hcode⟩ := beginVerify_entries s 1
    have hmode := (beginVerify_keeps s 1).1.trans (goOk_mode hgo)
    have hrun := beginVerify_runs s 1
    have hb := startGo_begins hgo
    generalize beginVerify s 1 = t at hsrc hstep hcode hmode hrun hb
    exact ⟨_, gives_of_eq rfl hb, hrun.1, hrun.2, hmode, hsrc, hstep, hcode⟩
  · intro hm
    exact gives_of_eq rfl (startGo_none hm)
  · intro hup
    refine ⟨_, gives_of_eq rfl (if_neg (not_not.mpr hup)), ?_⟩
    rw [BitVec.ofNat_toNat, BitVec.setWidth_eq]
    rfl
  · intro hm hrelay hlen hfit
    obtain ⟨t, ht, hstaging, hdone, hmore⟩ := imgRel_relays hm hrelay (fun h => hlen (BitVec.eq_of_toNat_eq h)) hfit
    exact ⟨_, gives_of_eq rfl ht, hstaging, hdone, hmore⟩
  · intro hm hrelay hlen
    exact ⟨_, gives_of_eq rfl (if_pos ⟨hm, hrelay, hlen⟩), askImage_asks s 0⟩
  · intro hm hidle hver
    refine ⟨fun h => ?_, fun h hno => ?_⟩
    · obtain ⟨hf, hd⟩ := verified_bad hm hidle hver h
      have hgives : Gives (.imageVerified sig dec kh) s (verified s sig dec kh).tick := rfl
      generalize verified s sig dec kh = t at hf hd hgives
      exact ⟨_, hgives, hf.tick, hd⟩
    · have hgood := verified_good hm hidle hver h hno
      have hgives : Gives (.imageVerified sig dec kh) s (verified s sig dec kh).tick := rfl
      generalize verified s sig dec kh = t at hgood hgives
      exact ⟨_, hgives, hgood⟩
  · intro hm hidle
    refine ⟨?_, fun hwarm hc ht hr hcap hdimm hfar => ?_, fun hfail => ?_⟩
    · obtain ⟨hmode, hstep, -, -⟩ := selftest_entered (reportFar (trainedUp s rate.toNat far.toNat chans oneRank))
      have hb := bringupDone_ends (unit := unit.toNat) (rate := rate.toNat) (cap := far.toNat) (far := chans) (oneRank := oneRank) hm hidle
      generalize setStep (enterMode (reportFar (trainedUp s rate.toNat far.toNat chans oneRank)) .selftest .selftest) 7 = t at hmode hstep hb
      exact ⟨_, gives_of_eq rfl hb, hmode, hstep⟩
    · have hready : FarReady (dval s 0x0800 4) s := ⟨rfl, fun n hn => by
        obtain ⟨hlo, hhi⟩ := hn
        have := hfar (n - 8) (by omega)
        rwa [show 8 + (n - 8) = n by omega] at this⟩
      obtain ⟨hn, hbytes, hrate⟩ := trainedUp_all (oneRank := oneRank) hready hwarm hc ht hr hcap hdimm
      obtain ⟨t, ht, hall⟩ := bringupDone_far (unit := unit.toNat) hm hidle hn hbytes hrate
      exact ⟨_, gives_of_eq rfl ht, hall⟩
    · exact ⟨_, gives_of_eq rfl (bringupDone_fails hm hidle fun h => hfail (BitVec.eq_of_toNat_eq h)), (failStart_failed ..).tick⟩
  · intro hm hidle hbist
    have hgood := bistDone_good hm hidle hbist
    have hgives : Gives (.bistComplete true) s (bistDone s true).tick := rfl
    generalize bistDone s true = t at hgood hgives
    exact ⟨⟨_, hgives, hgood⟩, _, gives_of_eq rfl (bistDone_bad hm hidle hbist), (failStart_failed s 0x22 0).tick⟩
  · intro hm hidle hmem hno
    obtain ⟨v, hv⟩ := enterService_enters hm hidle hmem hno
    have hentered := serviceEntered_entries (enterMode v .service .service) (k := if s.mg.start.pendWarm then 0x08 else 0x07) (by split <;> decide)
    generalize serviceEntered (enterMode v .service .service) (if s.mg.start.pendWarm then 0x08 else 0x07) = t at hv hentered
    obtain ⟨hmode, hrest⟩ := hentered
    obtain ⟨hrun, hfails, hstep, hcode⟩ := hrest
    exact ⟨_, gives_of_eq rfl hv, hmode, hrun, hfails, hstep, hcode⟩
  · intro hrun hstep hm hidle
    exact ⟨_, gives_of_eq rfl (stepTimeout_fails hrun hstep hm hidle), (failStart_failed s 0x24 0).tick⟩
  · intro hm hfuse hburn hnz
    exact ⟨_, gives_of_eq rfl (ownerHash_burns hm hfuse hburn hnz), rfl, hfuse, by simp [blobOf, tgetD]⟩
  · intro hfuse
    exact gives_of_eq rfl (ownerHash_burnt hfuse)
  · intro hburn
    exact ⟨_, gives_of_eq rfl (fuseBurnt_burns hburn), rfl, rfl, dval_setDval_same ..⟩
  · intro hm hv
    exact ⟨_, gives_of_eq rfl (minSvn_rises hm hv), dval_setDval_same .., rfl⟩
  · intro hv
    exact gives_of_eq rfl (minSvn_kept hv)
  · intro hm
    refine ⟨fun hk => gives_of_eq rfl (commit_plain hm fun h => hk (BitVec.eq_of_toNat_eq h)), ⟨_, gives_of_eq rfl (commit_interrupted hm), rfl⟩, fun hwait => ?_⟩
    have hlogs := commit_logs (data := data) hm hwait
    have hgives : Gives (.persistentCommit 3 data false) s (commit s 3 data false).tick := rfl
    generalize commit s 3 data false = t at hlogs hgives
    exact ⟨_, hgives, hlogs⟩
  · rfl
  · intro hir
    exact if_pos hir
  · intro hid hby
    have hact : ¬(ir = 1 ∨ ir = 0xFF) := not_or.mpr ⟨hid, hby⟩
    refine ⟨fun hfuse hm => (if_neg hact).trans (if_pos ⟨hfuse, hm⟩), fun h => (if_neg hact).trans (if_neg fun hc => ?_)⟩
    exact h.elim (fun h => h hc.1) fun h => h hc.2
end
